-- ==== Sys2Proof/Word.lean ====
section
/-!
DEFINITION. The word types of the LYA-6400 and their plainest arithmetic: bit fields (00_scope R2), sign and zero
extension (11 R220), power-of-two register files indexed by a register number.
-/
namespace Sys2Proof

/-- A byte of memory. -/
abbrev Byte := BitVec 8
/-- A 32-bit word: bundle words, cell scalars. -/
abbrev Word := BitVec 32
/-- A 64-bit word: sequencer registers, special registers, address words. -/
abbrev Xword := BitVec 64
/-- A vector register: 512 bits (08 R140). -/
abbrev Vec := BitVec 512
/-- An accumulator bank: 256 bytes (08 R140). -/
abbrev Bank := BitVec 2048

/-- Bits `hi..lo` of a natural number, both ends included (00 R2). -/
def nbits (x hi lo : Nat) : Nat := (x >>> lo) % 2 ^ (hi + 1 - lo)

/-- Bits `hi..lo` of a word, as a number (00 R2). -/
def bits (w : BitVec n) (hi lo : Nat) : Nat := nbits w.toNat hi lo

/-- Bit `i` of a word. -/
def bit (w : BitVec n) (i : Nat) : Bool := w.getLsbD i

/-- The value of the low `n` bits of `x` read as signed (11 R220). -/
def sextN (x n : Nat) : Int :=
  let m := x % 2 ^ n
  if 2 * m < 2 ^ n then (m : Int) else (m : Int) - 2 ^ n

/-- An integer modulo `2^n`, as a natural number (11 R220). -/
def wrapN (n : Nat) (x : Int) : Nat := (x % (2 ^ n : Int)).toNat

/-- Replace bits `hi..lo` of `x` by the low bits of `v` (00 R6). -/
def putBits (x hi lo v : Nat) : Nat :=
  x - (nbits x hi lo) * 2 ^ lo + (v % 2 ^ (hi + 1 - lo)) * 2 ^ lo

/-- One bit as a number. -/
def b2n (b : Bool) : Nat := if b then 1 else 0

/-- A register file of `2^n` registers. -/
abbrev RegFile (α : Type) (n : Nat) := Vector α (2 ^ n)

/-- The register numbered `i`. -/
def RegFile.get {α : Type} {n : Nat} (r : RegFile α n) (i : BitVec n) : α := r[i.toNat]'i.isLt

/-- The file with register `i` replaced. -/
def RegFile.put {α : Type} {n : Nat} (r : RegFile α n) (i : BitVec n) (v : α) : RegFile α n :=
  r.set i.toNat v i.isLt

/-- The file in which every register holds `v`. -/
def RegFile.fill {α : Type} (n : Nat) (v : α) : RegFile α n := Vector.replicate (2 ^ n) v

/-- The register files of the Vector type are read and written through these two laws. -/
@[simp] theorem RegFile.get_put_same {α : Type} {n : Nat} (r : RegFile α n) (i : BitVec n) (v : α) :
    (r.put i v).get i = v := by
  simp [RegFile.get, RegFile.put]

theorem RegFile.get_put_ne {α : Type} {n : Nat} (r : RegFile α n) {i j : BitVec n} (v : α) (h : j ≠ i) :
    (r.put i v).get j = r.get j := by
  have : i.toNat ≠ j.toNat := fun e => h (BitVec.eq_of_toNat_eq e.symm)
  simp [RegFile.get, RegFile.put, Vector.getElem_set_ne, this]

@[simp] theorem RegFile.get_fill {α : Type} {n : Nat} (i : BitVec n) (v : α) : (RegFile.fill n v).get i = v := by
  simp [RegFile.get, RegFile.fill]

/-- The bytes of a number, lowest address first (00 R2). -/
def bytesOf : Nat → Nat → List Byte
  | 0, _ => []
  | k + 1, x => BitVec.ofNat 8 x :: bytesOf k (x / 256)

/-- The number that a run of bytes holds, lowest address first (00 R2). -/
def ofBytes : List Byte → Nat
  | [] => 0
  | b :: r => b.toNat + 256 * ofBytes r

end Sys2Proof
end

