-- ==== Sys2Proof/Config.lean ====
section
/-!
DEFINITION. What an implementation fixes, and the free values: constants with no body, so that no proof can see what
they are.
-/
namespace Sys2Proof

/-- DESIGN CHOICE (log 7): the n-th free choice among what the rules permit, below the given bound. It has no body: a
statement holds for every value. -/
opaque Config.pick : Nat → Nat → Nat
/-- DESIGN CHOICE (log 7): a fresh 64-bit value the manual does not fix, by the model's counter. -/
opaque Config.free : Nat → BitVec 64
/-- R347: where within its permitted distance of f(x) the value y of a special function lies, in parts of 2^32, for a
function number and the FP32 bits of the absolute value of the input. DESIGN CHOICE (log 10): it has no body. -/
opaque Config.special : Nat → Nat → BitVec 32
/-- R34: the stepping that DEVID gives; the manual states no value (log 5). -/
opaque Config.stepping : BitVec 8
/-- R51, R58, R63: the identity public key of the device, 64 bytes as a number, byte 0 lowest (log 6). -/
opaque Config.identityKey : BitVec 512
/-- R28, R21: what power-on self-test fills in for a column: TEMP, OFFLINE and PGOOD, by the count of resets and the
column (log 3). -/
opaque Config.selfTest : Nat → Nat → BitVec 8 × Bool × Bool
/-- R13: the fused calibration of a column, which chooses its set point among the 31 of 450 to 600 mV (log 3). -/
opaque Config.calibration : Nat → Nat
/-- SM3, whose definition the manual takes from elsewhere: a 256-bit digest of bytes (log 11). -/
opaque Config.sm3 : List (BitVec 8) → BitVec 256
/-- SM2 signatures under the identity key, whose definition the manual takes from elsewhere: 64 bytes as a number, by
the state of the firmware core's random bit generator (log 11, log 87). -/
opaque Config.sm2Sign : BitVec 64 → List (BitVec 8) → BitVec 512
/-- SM2 verification of a signature over bytes under a public key (log 11). -/
opaque Config.sm2Verify : List (BitVec 8) → List (BitVec 8) → List (BitVec 8) → Bool
/-- R53: the SM3 hash of the fused Follas signer key (log 6). -/
opaque Config.follasKeyHash : BitVec 256
/-- R53: the fused minimum version of a base runtime (log 6). -/
opaque Config.follasMinVersion : BitVec 16
/-- R54, R55: the boot ROM's bytes, which MEAS0 measures (log 6). -/
opaque Config.bootRom : List (BitVec 8)
/-- What the flash holds before anything the model sees has written it, by the image: 0 copy A, 1 copy B, 2 the customer
slot (log 3). -/
opaque Config.flash : Nat → List (BitVec 8)

end Sys2Proof
end

