-- ==== Sys2Proof/Syntax.lean ====
section
/-!
DEFINITION. The abstract syntax: one constructor for each row of the opcode table. The operands are the fields that the
entry of the instruction names (14 R269-R273), at their encoded widths; an extension word that the entry permits but
does not require is `x : Option Word`. The rows without an encoding are the steps of the host, the operator, the
environment and the device itself; their operands say which unit they concern and what the outside world supplies.
-/
namespace Sys2Proof

/-- A pod access as its flits carry it (02 R45-R47, 10 R196-R198, 13 R259): who sent it, with the life of its slot, its
stream position, its slice address and what it asks. `kind` 0 store, 1 load, 2 atomic; `size` in bytes. `after`: the last
earlier access of its stream to its destination that had not been acknowledged when it left (R200; log 37). -/
structure PodAccess where
  srcDev : BitVec 6
  srcSlot : BitVec 4
  srcLife : BitVec 4
  srcDie : BitVec 6
  srcCell : BitVec 11
  tl : BitVec 2
  num : BitVec 64
  group : BitVec 32
  cls : BitVec 4
  seq : BitVec 12
  stream : Bool
  addr : Xword
  kind : BitVec 2
  size : BitVec 7
  op : BitVec 4
  data : Vec
  cmp : Xword
  fp : Xword
  flag : Option (BitVec 4)
  after : Option (BitVec 64)
  deriving DecidableEq, Repr

/-- A pod message (02 R48): kind 1 PODBAR, 2 PODRED. -/
structure PodMsg where
  kind : BitVec 8
  op : BitVec 8
  round : BitVec 8
  src : BitVec 6
  group : BitVec 32
  mask : BitVec 64
  contrib : Xword
  deriving DecidableEq, Repr

/-- Where a request came from: the logical die, the local cell, the address word (R254). -/
structure Origin where
  die : BitVec 6
  cell : BitVec 11
  addr : BitVec 64
  deriving DecidableEq, Repr

/-- What a flit carries: a pod access, a pod message with the slot and life of the context that sent it, the reply to a
command of a context, or word that something of a context was refused with a cause code (02 R44, R47, R48; 13 R259). -/
inductive PodBody where
  | access (a : PodAccess)
  | message (m : PodMsg) (slot : BitVec 4) (life : BitVec 4)
  | reply (slot : BitVec 4) (life : BitVec 4) (die : BitVec 6) (cell : BitVec 11) (tl : BitVec 2) (num : BitVec 64)
    (value : Vec)
  | refusal (slot : BitVec 4) (life : BitVec 4) (cause : BitVec 8) (origin : Option Origin)
  deriving DecidableEq, Repr

/-- What a vault's sending of a burst came to: whether its check passed, and the group in which the sendings before it
failed (R187, R189). -/
structure Sending where
  pass : BitVec 1
  group : BitVec 1
  deriving DecidableEq, Repr

/-- What arrives from a link: the link, and what the flit carries (R44, R47). -/
structure Received where
  link : BitVec 4
  body : PodBody
  deriving DecidableEq, Repr

/-- A fatal cause that arises outside the model's steps, with the request that met it where there is one (R252, R254). -/
structure DeathReport where
  code : BitVec 8
  origin : Option Origin
  deriving DecidableEq, Repr

/-- A write of the host to the management window: how many bytes it writes, and its value (R34). -/
structure HostWord where
  bytes : BitVec 4
  value : Xword
  deriving DecidableEq, Repr

/-- The instructions and steps of the machine, one constructor per row of the opcode table. -/
inductive Instr where
  -- the S slot (15)
  /-- ADD: Sequencer add of two x registers modulo 2^64. (R292) -/
  | add (d : BitVec 5) (a : BitVec 5) (b : BitVec 5)
  /-- SUB: Sequencer subtract modulo 2^64. (R292) -/
  | sub (d : BitVec 5) (a : BitVec 5) (b : BitVec 5)
  /-- MUL: Sequencer multiply, low 64 bits. (R292) -/
  | mul (d : BitVec 5) (a : BitVec 5) (b : BitVec 5)
  /-- MULH: High 64 bits of the signed product. (R292) -/
  | mulh (d : BitVec 5) (a : BitVec 5) (b : BitVec 5)
  /-- MULHU: High 64 bits of the unsigned product. (R292) -/
  | mulhu (d : BitVec 5) (a : BitVec 5) (b : BitVec 5)
  /-- DIV: Signed division rounded toward zero, never trapping. (R293) -/
  | div (d : BitVec 5) (a : BitVec 5) (b : BitVec 5)
  /-- DIVU: Unsigned division, never trapping. (R293) -/
  | divu (d : BitVec 5) (a : BitVec 5) (b : BitVec 5)
  /-- REM: Signed remainder with the sign of a. (R293) -/
  | rem (d : BitVec 5) (a : BitVec 5) (b : BitVec 5)
  /-- REMU: Unsigned remainder. (R293) -/
  | remu (d : BitVec 5) (a : BitVec 5) (b : BitVec 5)
  /-- AND: Bitwise AND of two x registers. (R292) -/
  | and (d : BitVec 5) (a : BitVec 5) (b : BitVec 5)
  /-- OR: Bitwise OR of two x registers. (R292) -/
  | or (d : BitVec 5) (a : BitVec 5) (b : BitVec 5)
  /-- XOR: Bitwise XOR of two x registers. (R292) -/
  | xor (d : BitVec 5) (a : BitVec 5) (b : BitVec 5)
  /-- SHL: Left shift by b[5:0]. (R292) -/
  | shl (d : BitVec 5) (a : BitVec 5) (b : BitVec 5)
  /-- SHR: Logical right shift by b[5:0]. (R292) -/
  | shr (d : BitVec 5) (a : BitVec 5) (b : BitVec 5)
  /-- SRA: Arithmetic right shift by b[5:0]. (R292) -/
  | sra (d : BitVec 5) (a : BitVec 5) (b : BitVec 5)
  /-- SLT: Set 1 if a < b signed. (R292) -/
  | slt (d : BitVec 5) (a : BitVec 5) (b : BitVec 5)
  /-- SLTU: Set 1 if a < b unsigned. (R292) -/
  | sltu (d : BitVec 5) (a : BitVec 5) (b : BitVec 5)
  /-- MIN: Signed minimum. (R292) -/
  | min (d : BitVec 5) (a : BitVec 5) (b : BitVec 5)
  /-- MAX: Signed maximum. (R292) -/
  | max (d : BitVec 5) (a : BitVec 5) (b : BitVec 5)
  /-- CLZ: Count leading zero bits. (R292) -/
  | clz (d : BitVec 5) (a : BitVec 5)
  /-- POPC: Count one bits. (R292) -/
  | popc (d : BitVec 5) (a : BitVec 5)
  /-- ADDI: Add a sign-extended immediate. (R294) -/
  | addi (d : BitVec 5) (a : BitVec 5) (i : BitVec 14) (x : Option Word)
  /-- ANDI: AND with a sign-extended immediate. (R294) -/
  | andi (d : BitVec 5) (a : BitVec 5) (i : BitVec 14) (x : Option Word)
  /-- ORI: OR with a sign-extended immediate. (R294) -/
  | ori (d : BitVec 5) (a : BitVec 5) (i : BitVec 14) (x : Option Word)
  /-- XORI: XOR with a sign-extended immediate. (R294) -/
  | xori (d : BitVec 5) (a : BitVec 5) (i : BitVec 14) (x : Option Word)
  /-- SHLI: Left shift by an immediate 0–63. (R294) -/
  | shli (d : BitVec 5) (a : BitVec 5) (n : BitVec 6)
  /-- SHRI: Logical right shift by an immediate. (R294) -/
  | shri (d : BitVec 5) (a : BitVec 5) (n : BitVec 6)
  /-- SRAI: Arithmetic right shift by an immediate. (R294) -/
  | srai (d : BitVec 5) (a : BitVec 5) (n : BitVec 6)
  /-- SLTI: Set 1 if a is below the immediate, signed. (R294) -/
  | slti (d : BitVec 5) (a : BitVec 5) (i : BitVec 14) (x : Option Word)
  /-- LIH: Place the immediate in bits 63:32 keeping the low word of xA. (R294) -/
  | lih (d : BitVec 5) (a : BitVec 5) (i : BitVec 14) (x : Option Word)
  /-- LD: Sequencer sign-extending load from a paged or handle address. (R295) -/
  | ld (d : BitVec 5) (a : BitVec 5) (z : BitVec 2) (x : Option Word)
  /-- LDU: Sequencer zero-extending load. (R295) -/
  | ldu (d : BitVec 5) (a : BitVec 5) (z : BitVec 2) (x : Option Word)
  /-- ST: Sequencer store of xB. (R295) -/
  | st (a : BitVec 5) (b : BitVec 5) (z : BitVec 2) (x : Option Word)
  /-- SAMO: Sequencer single-copy atomic read-modify-write returning the old value. (R296) -/
  | samo (d : BitVec 5) (a : BitVec 5) (b : BitVec 5) (u : BitVec 1) (o : BitVec 4) (z : BitVec 2) (x : Option Word)
  /-- BEQ: Branch if equal. (R298) -/
  | beq (a : BitVec 5) (b : BitVec 5) (o : BitVec 14) (x : Option Word)
  /-- BNE: Branch if not equal. (R298) -/
  | bne (a : BitVec 5) (b : BitVec 5) (o : BitVec 14) (x : Option Word)
  /-- BLT: Branch if less, signed. (R298) -/
  | blt (a : BitVec 5) (b : BitVec 5) (o : BitVec 14) (x : Option Word)
  /-- BGE: Branch if greater or equal, signed. (R298) -/
  | bge (a : BitVec 5) (b : BitVec 5) (o : BitVec 14) (x : Option Word)
  /-- BLTU: Branch if less, unsigned. (R298) -/
  | bltu (a : BitVec 5) (b : BitVec 5) (o : BitVec 14) (x : Option Word)
  /-- BGEU: Branch if greater or equal, unsigned. (R298) -/
  | bgeu (a : BitVec 5) (b : BitVec 5) (o : BitVec 14) (x : Option Word)
  /-- J: Jump to the target. (R298) -/
  | j (o : BitVec 19) (x : Option Word)
  /-- JAL: Jump and write the next address to xD. (R298) -/
  | jal (d : BitVec 5) (o : BitVec 19) (x : Option Word)
  /-- JALR: Jump to xA + imm and write the next address. (R298) -/
  | jalr (d : BitVec 5) (a : BitVec 5) (i : BitVec 14) (x : Option Word)
  /-- GRD: Copy a g register to xD, waiting for its DRED. (R299) -/
  | grd (d : BitVec 5) (k : BitVec 3)
  /-- KSET: Write a die-wide k latch, beam-carried. (R300) -/
  | kset (k : BitVec 2) (a : BitVec 5) (x : Option Word)
  /-- DIEC: Read the die count, shape, STEP outcome and MOVED, clearing MOVED. (R301) -/
  | diec (d : BitVec 5)
  /-- SPAWN: Read a launch descriptor and start a child context, returning its slot or a negative code. (R304) -/
  | spawn (d : BitVec 5) (a : BitVec 5) (e : BitVec 1) (jo : BitVec 6)
  /-- TLRD: Reduce the minimum timeline counter or issue number over the set into xD. (R303) -/
  | tlrd (d : BitVec 5) (k : BitVec 2) (i : BitVec 1)
  /-- SRR: Read a special register. (R309) -/
  | srr (d : BitVec 5) (n : BitVec 9)
  /-- SRW: Write a special register. (R309) -/
  | srw (a : BitVec 5) (n : BitVec 9)
  /-- BINIT: Make a join object valid with an expected count. (R306) -/
  | binit (a : BitVec 5) (jo : BitVec 6)
  /-- BARR: Deliver one arrival to a join object. (R307) -/
  | barr (jo : BitVec 6)
  /-- BARD: Deliver one arrival and one drop to a join object. (R307) -/
  | bard (jo : BitVec 6)
  /-- BWAIT: Wait for a completed phase of a join object and acquire its effects. (R308) -/
  | bwait (d : BitVec 5) (jo : BitVec 6)
  /-- BINV: Make a join object not valid. (R306) -/
  | binv (jo : BitVec 6)
  /-- TRAP: Raise a software trap, or escalate inside a handler. (R311) -/
  | trap (c : BitVec 14) (x : Option Word)
  /-- HALT: Stop fetching and move the context to ENDING with a HALT value. (R313) -/
  | halt (a : BitVec 5)
  /-- HOSTSIG: Set or add to a host signal object. (R314) -/
  | hostsig (a : BitVec 5) (o : BitVec 1) (g : BitVec 8)
  /-- PODRED: Run a pod reduction round on xA into xD. (R315) -/
  | podred (d : BitVec 5) (a : BitVec 5) (o : BitVec 4)
  -- the V slots (16, 17)
  /-- VADD: Lane-wise integer add. (R320) -/
  | vadd (t : BitVec 4) (d : BitVec 5) (a : BitVec 5) (b : BitVec 5) (m : BitVec 3) (x : Option Word)
  /-- VSUB: Lane-wise integer subtract. (R320) -/
  | vsub (t : BitVec 4) (d : BitVec 5) (a : BitVec 5) (b : BitVec 5) (m : BitVec 3) (x : Option Word)
  /-- VMUL: Lane-wise integer multiply, low part. (R320) -/
  | vmul (t : BitVec 4) (d : BitVec 5) (a : BitVec 5) (b : BitVec 5) (m : BitVec 3) (x : Option Word)
  /-- VMULH: Lane-wise high part of the product. (R320) -/
  | vmulh (t : BitVec 4) (d : BitVec 5) (a : BitVec 5) (b : BitVec 5) (m : BitVec 3) (x : Option Word)
  /-- VMAD: Lane-wise multiply-add with a third source. (R322) -/
  | vmad (t : BitVec 4) (d : BitVec 5) (a : BitVec 5) (b : BitVec 5) (m : BitVec 3) (c : BitVec 5)
  /-- VABS: Lane-wise absolute value modulo 2^n. (R320) -/
  | vabs (t : BitVec 2) (d : BitVec 5) (a : BitVec 5) (m : BitVec 3)
  /-- VNEG: Lane-wise negation. (R320) -/
  | vneg (t : BitVec 4) (d : BitVec 5) (a : BitVec 5) (m : BitVec 3)
  /-- VMIN: Lane-wise minimum. (R320) -/
  | vmin (t : BitVec 4) (d : BitVec 5) (a : BitVec 5) (b : BitVec 5) (m : BitVec 3) (x : Option Word)
  /-- VMAX: Lane-wise maximum. (R320) -/
  | vmax (t : BitVec 4) (d : BitVec 5) (a : BitVec 5) (b : BitVec 5) (m : BitVec 3) (x : Option Word)
  /-- VSADD: Lane-wise saturating add. (R320) -/
  | vsadd (t : BitVec 4) (d : BitVec 5) (a : BitVec 5) (b : BitVec 5) (m : BitVec 3) (x : Option Word)
  /-- VSSUB: Lane-wise saturating subtract. (R320) -/
  | vssub (t : BitVec 4) (d : BitVec 5) (a : BitVec 5) (b : BitVec 5) (m : BitVec 3) (x : Option Word)
  /-- VABD: Lane-wise absolute difference. (R320) -/
  | vabd (t : BitVec 4) (d : BitVec 5) (a : BitVec 5) (b : BitVec 5) (m : BitVec 3) (x : Option Word)
  /-- VSHL: Lane-wise left shift. (R321) -/
  | vshl (t : BitVec 4) (d : BitVec 5) (a : BitVec 5) (b : BitVec 5) (m : BitVec 3) (x : Option Word)
  /-- VSHR: Lane-wise logical right shift. (R321) -/
  | vshr (t : BitVec 4) (d : BitVec 5) (a : BitVec 5) (b : BitVec 5) (m : BitVec 3) (x : Option Word)
  /-- VSRA: Lane-wise arithmetic right shift. (R321) -/
  | vsra (t : BitVec 4) (d : BitVec 5) (a : BitVec 5) (b : BitVec 5) (m : BitVec 3) (x : Option Word)
  /-- VAND: Lane-wise bitwise AND. (R320) -/
  | vand (t : BitVec 4) (d : BitVec 5) (a : BitVec 5) (b : BitVec 5) (m : BitVec 3) (x : Option Word)
  /-- VOR: Lane-wise bitwise OR. (R320) -/
  | vor (t : BitVec 4) (d : BitVec 5) (a : BitVec 5) (b : BitVec 5) (m : BitVec 3) (x : Option Word)
  /-- VXOR: Lane-wise bitwise XOR. (R320) -/
  | vxor (t : BitVec 4) (d : BitVec 5) (a : BitVec 5) (b : BitVec 5) (m : BitVec 3) (x : Option Word)
  /-- VNOT: Lane-wise bitwise inversion. (R320) -/
  | vnot (t : BitVec 4) (d : BitVec 5) (a : BitVec 5) (m : BitVec 3)
  /-- VSEL: Select each lane from vA or vB by mask. (R327) -/
  | vsel (t : BitVec 4) (d : BitVec 5) (a : BitVec 5) (b : BitVec 5) (m : BitVec 3)
  /-- VCLZ: Lane-wise leading zero count. (R320) -/
  | vclz (t : BitVec 4) (d : BitVec 5) (a : BitVec 5) (m : BitVec 3)
  /-- VPOPC: Lane-wise population count. (R320) -/
  | vpopc (t : BitVec 4) (d : BitVec 5) (a : BitVec 5) (m : BitVec 3)
  /-- VCMP: Integer compare writing a lane mask. (R324) -/
  | vcmp (t : BitVec 4) (d : BitVec 3) (a : BitVec 5) (b : BitVec 5) (m : BitVec 3) (c : BitVec 2) (x : Option Word)
  /-- VTEST: Test any or all enabled lanes nonzero into a condition bit. (R325) -/
  | vtest (t : BitVec 4) (d : BitVec 2) (a : BitVec 5) (m : BitVec 3) (f : BitVec 1)
  /-- VMAND: Mask AND. (R326) -/
  | vmand (d : BitVec 3) (a : BitVec 3) (b : BitVec 3)
  /-- VMOR: Mask OR. (R326) -/
  | vmor (d : BitVec 3) (a : BitVec 3) (b : BitVec 3)
  /-- VMXOR: Mask XOR. (R326) -/
  | vmxor (d : BitVec 3) (a : BitVec 3) (b : BitVec 3)
  /-- VMNOT: Mask NOT. (R326) -/
  | vmnot (d : BitVec 3) (a : BitVec 3)
  /-- VMPOPC: Count set bits of a mask into a b register. (R326) -/
  | vmpopc (d : BitVec 4) (a : BitVec 3) (m : BitVec 3)
  /-- VMOV: Lane-wise move. (R327) -/
  | vmov (t : BitVec 4) (d : BitVec 5) (a : BitVec 5) (m : BitVec 3)
  /-- VMOVI: Move an immediate to every enabled lane. (R327) -/
  | vmovi (t : BitVec 4) (d : BitVec 5) (m : BitVec 3) (i : BitVec 32)
  /-- VBROAD: Broadcast a b or k register to every enabled lane. (R327) -/
  | vbroad (t : BitVec 4) (d : BitVec 5) (a : BitVec 4) (m : BitVec 3) (f : BitVec 1)
  /-- VSHUF: Permute lanes of vA by indices in vB. (R327) -/
  | vshuf (t : BitVec 4) (d : BitVec 5) (a : BitVec 5) (b : BitVec 5) (m : BitVec 3)
  /-- VROTL: Rotate lanes. (R327) -/
  | vrotl (t : BitVec 4) (d : BitVec 5) (a : BitVec 5) (b : BitVec 4) (m : BitVec 3) (x : Option Word)
  /-- VEXT: Extract one lane to a b register. (R327) -/
  | vext (t : BitVec 4) (d : BitVec 4) (a : BitVec 5) (b : BitVec 4) (h : BitVec 1) (x : Option Word)
  /-- VINS: Insert a b register into one lane. (R327) -/
  | vins (t : BitVec 4) (d : BitVec 5) (a : BitVec 4) (b : BitVec 4) (h : BitVec 1) (x : Option Word)
  /-- VIOTA: Write bA + i into each enabled lane. (R327) -/
  | viota (t : BitVec 4) (d : BitVec 5) (a : BitVec 4) (m : BitVec 3)
  /-- VCELLID: Write the cell's logical position into each enabled lane. (R328) -/
  | vcellid (t : BitVec 2) (d : BitVec 5) (m : BitVec 3) (f : BitVec 2)
  /-- VRSUM: Integer sum of enabled lanes into bits 63:0. (R323) -/
  | vrsum (t : BitVec 4) (d : BitVec 5) (a : BitVec 5) (m : BitVec 3)
  /-- VRMAX: Maximum of enabled lanes. (R323) -/
  | vrmax (t : BitVec 4) (d : BitVec 5) (a : BitVec 5) (m : BitVec 3)
  /-- VRMIN: Minimum of enabled lanes. (R323) -/
  | vrmin (t : BitVec 4) (d : BitVec 5) (a : BitVec 5) (m : BitVec 3)
  /-- VHASH: Four-round counter hash of each lane under a key. (R329) -/
  | vhash (t : BitVec 1) (d : BitVec 5) (a : BitVec 5) (b : BitVec 5) (m : BitVec 3)
  /-- VLD: Load 64 contiguous scratchpad bytes. (R333) -/
  | vld (t : BitVec 4) (d : BitVec 5) (a : BitVec 4) (m : BitVec 3) (x : Option Word)
  /-- VST: Store 64 contiguous bytes at retirement. (R333) -/
  | vst (t : BitVec 4) (d : BitVec 5) (a : BitVec 4) (m : BitVec 3) (x : Option Word)
  /-- VLDS: Strided scratchpad load. (R334) -/
  | vlds (t : BitVec 4) (d : BitVec 5) (a : BitVec 4) (b : BitVec 4) (m : BitVec 3) (x : Option Word)
  /-- VSTS: Strided scratchpad store. (R334) -/
  | vsts (t : BitVec 4) (d : BitVec 5) (a : BitVec 4) (b : BitVec 4) (m : BitVec 3) (x : Option Word)
  /-- VGATH: Indexed scratchpad gather with optional range check. (R335) -/
  | vgath (t : BitVec 4) (d : BitVec 5) (a : BitVec 4) (b : BitVec 5) (m : BitVec 3) (c : BitVec 1) (x : Option Word)
  /-- VSCAT: Indexed scratchpad scatter. (R335) -/
  | vscat (t : BitVec 4) (d : BitVec 5) (a : BitVec 4) (b : BitVec 5) (m : BitVec 3) (c : BitVec 1) (x : Option Word)
  /-- VSCATA: Indexed scratchpad scatter-add. (R336) -/
  | vscata (t : BitVec 4) (d : BitVec 5) (a : BitVec 4) (b : BitVec 5) (m : BitVec 3) (c : BitVec 1) (x : Option Word)
  /-- BADD: Cell scalar add. (R330) -/
  | badd (d : BitVec 4) (a : BitVec 4) (b : BitVec 4)
  /-- BSUB: Cell scalar subtract. (R330) -/
  | bsub (d : BitVec 4) (a : BitVec 4) (b : BitVec 4)
  /-- BMUL: Cell scalar multiply, low 32 bits. (R330) -/
  | bmul (d : BitVec 4) (a : BitVec 4) (b : BitVec 4)
  /-- BSHL: Cell scalar left shift. (R330) -/
  | bshl (d : BitVec 4) (a : BitVec 4) (b : BitVec 4)
  /-- BADDI: Cell scalar add immediate. (R330) -/
  | baddi (d : BitVec 4) (a : BitVec 4) (i : BitVec 32)
  /-- BSHR: Cell scalar right shift, logical or arithmetic. (R330) -/
  | bshr (d : BitVec 4) (a : BitVec 4) (b : BitVec 4) (f : BitVec 1)
  /-- BAND: Cell scalar AND. (R330) -/
  | band (d : BitVec 4) (a : BitVec 4) (b : BitVec 4)
  /-- BOR: Cell scalar OR. (R330) -/
  | bor (d : BitVec 4) (a : BitVec 4) (b : BitVec 4)
  /-- BXOR: Cell scalar XOR. (R330) -/
  | bxor (d : BitVec 4) (a : BitVec 4) (b : BitVec 4)
  /-- BMOV: Cell scalar move. (R330) -/
  | bmov (d : BitVec 4) (a : BitVec 4)
  /-- BLI: Cell scalar load immediate. (R330) -/
  | bli (d : BitVec 4) (i : BitVec 32)
  /-- BCMP: Cell scalar compare into a condition bit. (R330) -/
  | bcmp (d : BitVec 2) (a : BitVec 4) (b : BitVec 4) (c : BitVec 2)
  /-- BLD: Load 4 scratchpad bytes into a b register. (R330) -/
  | bld (d : BitVec 4) (a : BitVec 4) (x : Option Word)
  /-- BST: Store a b register to 4 scratchpad bytes. (R330) -/
  | bst (d : BitVec 4) (a : BitVec 4) (x : Option Word)
  /-- VPUSHACT: Push A and AND it with a condition bit. (R116) -/
  | vpushact (k : BitVec 2)
  /-- VFADD: Floating-point add. (R341) -/
  | vfadd (t : BitVec 4) (d : BitVec 5) (a : BitVec 5) (b : BitVec 5) (m : BitVec 3) (x : Option Word)
  /-- VFSUB: Floating-point subtract. (R341) -/
  | vfsub (t : BitVec 4) (d : BitVec 5) (a : BitVec 5) (b : BitVec 5) (m : BitVec 3) (x : Option Word)
  /-- VFMUL: Floating-point multiply. (R341) -/
  | vfmul (t : BitVec 4) (d : BitVec 5) (a : BitVec 5) (b : BitVec 5) (m : BitVec 3) (x : Option Word)
  /-- VFMA: Fused multiply-add. (R341) -/
  | vfma (t : BitVec 4) (d : BitVec 5) (a : BitVec 5) (b : BitVec 5) (m : BitVec 3) (c : BitVec 5)
  /-- VFMS: Fused multiply-subtract. (R341) -/
  | vfms (t : BitVec 4) (d : BitVec 5) (a : BitVec 5) (b : BitVec 5) (m : BitVec 3) (c : BitVec 5)
  /-- VFNMA: Fused negated multiply-add. (R341) -/
  | vfnma (t : BitVec 4) (d : BitVec 5) (a : BitVec 5) (b : BitVec 5) (m : BitVec 3) (c : BitVec 5)
  /-- VFMIN: Floating-point minimum. (R343) -/
  | vfmin (t : BitVec 4) (d : BitVec 5) (a : BitVec 5) (b : BitVec 5) (m : BitVec 3) (x : Option Word)
  /-- VFMAX: Floating-point maximum. (R343) -/
  | vfmax (t : BitVec 4) (d : BitVec 5) (a : BitVec 5) (b : BitVec 5) (m : BitVec 3) (x : Option Word)
  /-- VFABS: Clear the sign bit. (R344) -/
  | vfabs (t : BitVec 4) (d : BitVec 5) (a : BitVec 5) (m : BitVec 3)
  /-- VFNEG: Invert the sign bit. (R344) -/
  | vfneg (t : BitVec 4) (d : BitVec 5) (a : BitVec 5) (m : BitVec 3)
  /-- VFDIV: Correctly rounded division. (R342) -/
  | vfdiv (t : BitVec 4) (d : BitVec 5) (a : BitVec 5) (b : BitVec 5) (m : BitVec 3) (x : Option Word)
  /-- VFSQRT: Correctly rounded square root. (R342) -/
  | vfsqrt (t : BitVec 4) (d : BitVec 5) (a : BitVec 5) (m : BitVec 3)
  /-- VFRCP: Approximate reciprocal. (R347) -/
  | vfrcp (t : BitVec 4) (d : BitVec 5) (a : BitVec 5) (m : BitVec 3)
  /-- VFRSQ: Approximate reciprocal square root. (R347) -/
  | vfrsq (t : BitVec 4) (d : BitVec 5) (a : BitVec 5) (m : BitVec 3)
  /-- VFEXP2: Approximate 2^x. (R347) -/
  | vfexp2 (t : BitVec 4) (d : BitVec 5) (a : BitVec 5) (m : BitVec 3)
  /-- VFLOG2: Approximate log2 x. (R347) -/
  | vflog2 (t : BitVec 4) (d : BitVec 5) (a : BitVec 5) (m : BitVec 3)
  /-- VFTANH: Approximate tanh x. (R347) -/
  | vftanh (t : BitVec 4) (d : BitVec 5) (a : BitVec 5) (m : BitVec 3)
  /-- VFCLASS: Classify each lane's floating-point pattern. (R346) -/
  | vfclass (t : BitVec 4) (d : BitVec 5) (a : BitVec 5) (m : BitVec 3)
  /-- VFCMP: Floating-point compare writing a lane mask. (R345) -/
  | vfcmp (t : BitVec 4) (d : BitVec 3) (a : BitVec 5) (b : BitVec 5) (m : BitVec 3) (c : BitVec 2) (x : Option Word)
  /-- VCVT: Convert between element types with widening or partial narrowing. (R350) -/
  | vcvt (t : BitVec 4) (d : BitVec 5) (a : BitVec 5) (m : BitVec 3) (y : BitVec 4) (s : BitVec 1) (r : BitVec 3) (p : BitVec 4)
  /-- VPACK: Narrow two sources into one destination. (R353) -/
  | vpack (t : BitVec 4) (d : BitVec 5) (a : BitVec 5) (b : BitVec 5) (m : BitVec 3) (s : BitVec 1)
  /-- VUNPACK: Widen one half of a source. (R354) -/
  | vunpack (t : BitVec 4) (d : BitVec 5) (a : BitVec 5) (m : BitVec 3) (h : BitVec 1)
  /-- VSCALE: Multiply each lane by 2^k. (R349) -/
  | vscale (t : BitVec 4) (d : BitVec 5) (a : BitVec 5) (b : BitVec 5) (m : BitVec 3) (x : Option Word)
  /-- VQENC: Scale and quantise lanes to Q16 indices. (R355) -/
  | vqenc (t : BitVec 4) (d : BitVec 5) (a : BitVec 5) (b : BitVec 4) (m : BitVec 3) (p : BitVec 3)
  /-- VQDEC: Decode Q16 indices to levels. (R356) -/
  | vqdec (t : BitVec 4) (d : BitVec 5) (a : BitVec 5) (m : BitVec 3) (p : BitVec 3)
  /-- VFRSUM: Fixed pairwise floating-point sum of enabled lanes. (R348) -/
  | vfrsum (t : BitVec 4) (d : BitVec 5) (a : BitVec 5) (m : BitVec 3)
  -- the M slot (18)
  /-- TMMA: Accumulate one A and one B ring tile into a bank, narrow first with recoat. (R365) -/
  | tmma (c : BitVec 3) (a : BitVec 3) (b : BitVec 3) (f : BitVec 2) (g : BitVec 2) (x : BitVec 1) (y : BitVec 1)
  /-- TMMA64: Accumulate FP64 ring tiles into a bank's FP64 view. (R368) -/
  | tmma64 (c : BitVec 3) (a : BitVec 3) (b : BitVec 3) (x : BitVec 1) (y : BitVec 1)
  /-- TACCZ: Zero a bank and its bank record. (R371) -/
  | taccz (c : BitVec 3)
  /-- TACCLD: Load a bank from the scratchpad through port B. (R372) -/
  | taccld (c : BitVec 3) (a : BitVec 4) (f : BitVec 2) (r : BitVec 1) (x : Option Word)
  /-- TACCST: Store a bank to the scratchpad at retirement. (R372) -/
  | taccst (c : BitVec 3) (a : BitVec 4) (f : BitVec 2) (r : BitVec 1) (x : Option Word)
  /-- TACCRET: End a bank's liveness and discard its shadow. (R371) -/
  | taccret (c : BitVec 3)
  /-- TACCRD: Copy a 64-byte part of a bank into a v register. (R373) -/
  | taccrd (c : BitVec 3) (d : BitVec 5) (p : BitVec 2)
  /-- TACCWR: Copy a v register into a 64-byte part of a bank. (R373) -/
  | taccwr (c : BitVec 3) (a : BitVec 5) (p : BitVec 2)
  /-- TCOAT: Read a bank record into a b register. (R369) -/
  | tcoat (c : BitVec 3) (d : BitVec 4)
  /-- TMON: Read and optionally clear MONLAST or RCNT. (R370) -/
  | tmon (d : BitVec 4) (s : BitVec 2) (l : BitVec 1)
  /-- QSET: Write a ring descriptor and reset its pointers. (R360) -/
  | qset (q : BitVec 3) (s : BitVec 1) (f : BitVec 4) (h : BitVec 1) (c : BitVec 8) (z : BitVec 4) (b : BitVec 17)
  /-- QCOMMIT: Make n more ring slots available or set FULL. (R361) -/
  | qcommit (q : BitVec 3) (n : BitVec 8)
  /-- QPOP: Discard n tiles from a ring. (R362) -/
  | qpop (q : BitVec 3) (n : BitVec 8)
  /-- QSTAT: Read a ring's state and optionally clear EMPT and FULL. (R363) -/
  | qstat (q : BitVec 3) (d : BitVec 4) (l : BitVec 1)
  /-- QTWIN: Write the twin pointer of a future slot of a NARROW ring. (R364) -/
  | qtwin (q : BitVec 3) (k : BitVec 4) (i : BitVec 8)
  -- the C slots (19)
  /-- DCOPY: Copy a shaped array from one shape to another on tl0. (R378) -/
  | dcopy (l : BitVec 4) (d : BitVec 3) (s : BitVec 3) (e : BitVec 1) (jo : BitVec 6) (o : BitVec 4)
  /-- DSHAPE: Write one field of a shape register. (R379) -/
  | dshape (d : BitVec 3) (k : BitVec 4) (f : BitVec 4) (x : Option Word)
  /-- DGATH: Register-form gather of 16 indexed elements landing in v registers. (R380) -/
  | dgath (l : BitVec 4) (d : BitVec 5) (b : BitVec 4) (e : BitVec 1) (jo : BitVec 6) (c : BitVec 1) (w : BitVec 2) (f : BitVec 20) (n : BitVec 12)
  /-- DGATH_SP: Scratchpad-form gather into a local shape. (R380) -/
  | dgathSp (l : BitVec 4) (d : BitVec 3) (b : BitVec 4) (e : BitVec 1) (jo : BitVec 6) (w : BitVec 2) (x : Option Word)
  /-- DSCAT: Register-form scatter of indexed elements. (R381) -/
  | dscat (l : BitVec 4) (d : BitVec 5) (b : BitVec 4) (e : BitVec 1) (jo : BitVec 6) (c : BitVec 1) (w : BitVec 2) (x : Option Word)
  /-- DSCAT_SP: Scratchpad-form scatter from a local shape. (R381) -/
  | dscatSp (l : BitVec 4) (d : BitVec 3) (b : BitVec 4) (e : BitVec 1) (jo : BitVec 6) (w : BitVec 2) (x : Option Word)
  /-- DSCATA: Register-form scatter-add in (L, t) order. (R381) -/
  | dscata (l : BitVec 4) (d : BitVec 5) (b : BitVec 4) (e : BitVec 1) (jo : BitVec 6) (c : BitVec 1) (w : BitVec 2) (x : Option Word)
  /-- DSCATA_SP: Scratchpad-form scatter-add. (R381) -/
  | dscataSp (l : BitVec 4) (d : BitVec 3) (b : BitVec 4) (e : BitVec 1) (jo : BitVec 6) (w : BitVec 2) (x : Option Word)
  /-- DST: Stream store of 4 or 8 bytes, optionally incrementing a flag. (R382) -/
  | dst (l : BitVec 4) (d : BitVec 4) (b : BitVec 4) (e : BitVec 1) (jo : BitVec 6) (w : BitVec 1) (x : Option Word)
  /-- DSTV: Stream store of 64 bytes from a v register. (R382) -/
  | dstv (l : BitVec 4) (d : BitVec 5) (b : BitVec 4) (e : BitVec 1) (jo : BitVec 6) (x : Option Word)
  /-- DLD: Stream load of 64 bytes landing in a v register. (R382) -/
  | dld (l : BitVec 4) (d : BitVec 5) (b : BitVec 4) (e : BitVec 1) (jo : BitVec 6) (f : BitVec 20) (n : BitVec 12)
  /-- DATOM: Fetch-less remote atomic at the home. (R383) -/
  | datom (l : BitVec 4) (w : BitVec 1) (d : BitVec 4) (b : BitVec 4) (e : BitVec 1) (jo : BitVec 6) (o : BitVec 4) (x : Option Word)
  /-- DATOM_RET: Returning remote atomic landing the old value. (R383) -/
  | datomRet (l : BitVec 4) (w : BitVec 1) (d : BitVec 4) (b : BitVec 4) (e : BitVec 1) (jo : BitVec 6) (o : BitVec 4) (f : BitVec 20) (n : BitVec 12)
  /-- DPERM: Collective write of a v register into another cell's scratchpad. (R385) -/
  | dperm (s : BitVec 5) (b : BitVec 4) (e : BitVec 1) (jo : BitVec 6) (x : Option Word)
  /-- DPERMCFG: Compute a permutation destination slice address. (R384) -/
  | dpermcfg (d : BitVec 4) (k : BitVec 4) (p : BitVec 4) (x : Option Word)
  /-- DRED: Reduce one value per active cell over the reckoning tree into a g register. (R386) -/
  | dred (s : BitVec 5) (g : BitVec 3) (o : BitVec 4)
  /-- DVACT: Open and restore a vault row. (R388) -/
  | dvact (b : BitVec 4) (e : BitVec 1) (jo : BitVec 6) (x : Option Word)
  /-- DVPRE: Close a vault bank. (R388) -/
  | dvpre (b : BitVec 4) (e : BitVec 1) (jo : BitVec 6) (x : Option Word)
  /-- DVRD: Register-form vault read landing a burst in a v register. (R389) -/
  | dvrd (d : BitVec 5) (b : BitVec 4) (e : BitVec 1) (jo : BitVec 6) (f : BitVec 20) (n : BitVec 12)
  /-- DVRD_SP: Scratchpad-form vault read of up to 8 bursts. (R389) -/
  | dvrdSp (d : BitVec 4) (b : BitVec 4) (e : BitVec 1) (jo : BitVec 6) (n : BitVec 3) (x : Option Word)
  /-- DVWR: Register-form vault write of one burst. (R389) -/
  | dvwr (d : BitVec 5) (b : BitVec 4) (e : BitVec 1) (jo : BitVec 6) (x : Option Word)
  /-- DVWR_SP: Scratchpad-form vault write of up to 8 bursts. (R389) -/
  | dvwrSp (d : BitVec 4) (b : BitVec 4) (e : BitVec 1) (jo : BitVec 6) (n : BitVec 3) (x : Option Word)
  /-- DVREF: Refresh one row index in all four banks. (R388) -/
  | dvref (b : BitVec 4) (e : BitVec 1) (jo : BitVec 6) (x : Option Word)
  /-- DVLIFE: Declare vault rows short-lived. (R388) -/
  | dvlife (c : BitVec 4) (b : BitVec 4) (e : BitVec 1) (jo : BitVec 6) (m : BitVec 4) (x : Option Word)
  /-- DTLMARK: Read a timeline counter or issue count into a b register. (R390) -/
  | dtlmark (d : BitVec 4) (k : BitVec 2) (i : BitVec 1)
  -- the sync field (20)
  /-- YWAITF: Wait until a counting flag reaches a value, short form. (R396) -/
  | ywaitf (k : BitVec 4) (v : BitVec 15)
  /-- YWAITF_EXT: Wait until a counting flag reaches a 16-bit value from the second sync word. (R396) -/
  | ywaitfExt (k : BitVec 4) (v : BitVec 16)
  /-- YPOSTF: Add to the cell's own flag at retirement. (R397) -/
  | ypostf (k : BitVec 4) (n : BitVec 15)
  /-- YWAITT: Wait on a timeline for a value from the second sync word. (R398) -/
  | ywaitt (k : BitVec 2) (v : BitVec 32)
  /-- YWAITT_B: Wait on a timeline for a value held in a b register. (R398) -/
  | ywaittB (k : BitVec 2) (jb : BitVec 4)
  /-- YFENCE: Hold the C units until earlier accesses of the masked classes have performed. (R399) -/
  | yfence (m : BitVec 16)
  /-- YLOCK: Lock scratchpad banks against engines over the next n bundles. (R400) -/
  | ylock (m : BitVec 16) (n : BitVec 3)
  /-- YMARK: Fire the snapshot trigger and write LASTMARK. (R403) -/
  | ymark (c : BitVec 16)
  -- steps of the device that it takes of itself, with operands
  /-- POD_ACCESS_ARRIVAL: A pod access arrives for a pod group and is performed, held with back-pressure while its context is not running, or refused. (R47) -/
  | podAccessArrival (a : PodAccess)
  /-- POD_MESSAGE_ARRIVAL: A PODBAR or PODRED message arrives; the round completes once every member's message is held, or disagreement makes members dead. (R49) -/
  | podMessageArrival (msg : PodMsg)
  /-- POD_ROUND_TIMEOUT: A pod round not complete within PODTMO makes the waiting context dead with cause pod timeout. (R50) -/
  | podRoundTimeout (slot : BitVec 4)
  /-- PACKET_STAGE: A packet's 64 bytes arrive in the staging buffer; a failed read or an illegal packet puts the queue in ERROR at HEAD. (R68) -/
  | packetStage (queue : BitVec 6) (fail : BitVec 1)
  /-- LAUNCH: A LAUNCH packet creates a context in a free slot, or blocks the queue until a slot frees. (R71) -/
  | launch (queue : BitVec 6)
  /-- WAIT: A WAIT packet blocks the queue until a signal object reaches its value. (R72) -/
  | wait (queue : BitVec 6)
  /-- WAIT_TIMEOUT: A WAIT's timeout passes before its condition holds; its record is written with TIMEOUT and the queue enters ERROR with ERRCODE 4. (R72) -/
  | waitTimeout (queue : BitVec 6)
  /-- SIGNAL: A SIGNAL packet sets or adds to a signal object and every WAIT on it is evaluated again. (R72) -/
  | signal (queue : BitVec 6)
  /-- HCOPY: An HCOPY packet starts a copy between bus and handle addresses and retires. (R72) -/
  | hcopy (queue : BitVec 6)
  /-- HCOPY_COMPLETE: Every destination byte of an HCOPY has been written and its completion record is written. (R70) -/
  | hcopyComplete (queue : BitVec 6) (index : BitVec 32)
  /-- FENCE: A FENCE packet blocks the queue until every earlier packet of the queue has completed. (R70) -/
  | fence (queue : BitVec 6)
  /-- MARK: A MARK packet writes its record with the marker and, with SNAP, fires the snapshot trigger. (R72) -/
  | mark (queue : BitVec 6)
  /-- DESTROY_DRAIN_DONE: A destroyed queue's tagged requests have drained; HEAD and TAIL are zeroed and STATE becomes DISABLED. (R75) -/
  | destroyDrainDone (queue : BitVec 6)
  /-- PREEMPT_LIMIT_EXPIRY: PREEMPT_LIMIT passes with no yield point, so the scheduler freezes the set and forces a save. (R93) -/
  | preemptLimitExpiry (slot : BitVec 4)
  /-- SAVE_COMPLETE: A context's save area has been written and the slot enters SAVED, releasing its core and, unless vault-bound, its dies. (R97) -/
  | saveComplete (slot : BitVec 4) (fail : BitVec 1)
  /-- RESTORE_COMPLETE: A restore has loaded the save area into the new rectangle and the context continues running. (R99) -/
  | restoreComplete (slot : BitVec 4) (fail : BitVec 1)
  /-- STEP_DECISION: After a STEP's drain the scheduler yields, keeps, grows or shrinks the set, applies a pending CLKMODE and resumes issue. (R95) -/
  | stepDecision (slot : BitVec 4)
  /-- BUNDLE_FETCH: The control core fetches a 64-byte line through handle translation, parking on a fetch fault. (R279) -/
  | bundleFetch (slot : BitVec 4) (ahead : BitVec 3)
  /-- BUNDLE_ISSUE: The sequencer decodes a bundle, executes its S part and sync part and sends it down the beam with its BSN when beam-carried. (R278) -/
  | bundleIssue (slot : BitVec 4)
  /-- BUNDLE_RETIRE: A die retires a bundle once every operation of it has passed its fault point, performing held writes and sending its commands. (R109) -/
  | bundleRetire (slot : BitVec 4) (die : BitVec 6)
  /-- BARRIER_RELEASE: The barrier channel minimum reaches a YBAR's BSN and the sequencer sends the release that resumes every die's intake. (R114) -/
  | barrierRelease (slot : BitVec 4)
  /-- CELL_FAULT: A cell detects a precise fault and raises the die's fault flag toward the sequencer. (R118) -/
  | cellFault (slot : BitVec 4) (die : BitVec 6)
  /-- FREEZE: The fault flag or a sequencer fault reaches the sequencer, which stops issue and makes every die drain to its stop. (R119) -/
  | freeze (slot : BitVec 4)
  /-- FREEZE_DRAIN_DONE: Every die has reported its D_d, so the freeze record and table are written and the handler entered or the forced save begun. (R121) -/
  | freezeDrainDone (slot : BitVec 4)
  /-- LANDING: At landing cycle L the cell writes the landed data from the hawk, or freezes the die (ELASTIC) or holds the set (FIXED) if absent. (R161) -/
  | landing (slot : BitVec 4) (die : BitVec 6)
  /-- LANDING_DATA_ARRIVAL: Late landing data enters the hawk and the frozen die or held set resumes and writes it in pipeline cycle L. (R135) -/
  | landingDataArrival (slot : BitVec 4) (die : BitVec 6) (held : Xword)
  /-- STAGGER_START: In ELASTIC mode with STAGGER set, region k's dies begin taking bundles k·s·50 ns after region 0's. (R138) -/
  | staggerStart (slot : BitVec 4) (region : BitVec 4)
  /-- COMMIT_COMPLETE: Every die has dropped its copy of a committed handle entry and the commit completes. (R172) -/
  | commitComplete (handle : BitVec 12)
  /-- WALK_COMPLETE: A page walk finishes: its merged requests are translated and checked, or the walk faults and parks with one record. (R177) -/
  | walkComplete (die : BitVec 6) (page : BitVec 45)
  /-- VAULT_COMMAND_START: A vault command starts at the vault once its spacings and the current budget allow. (R181) -/
  | vaultCommandStart (slot : BitVec 4) (die : BitVec 6) (cell : BitVec 11) (num : Xword)
  /-- VAULT_BURST_DONE: A vault burst sending ends: parity passes and ECC is checked, or it is resent after 4 cycles, or lane test begins at the limit. (R188) -/
  | vaultBurstDone (slot : BitVec 4) (die : BitVec 6) (cell : BitVec 11) (num : Xword) (pass : Sending) (single : BitVec 8) (syndrome : BitVec 8) (double : BitVec 1)
  /-- STREAM_ARRIVAL: A stream access arrives at its destination and commits in stream order, is held in the reorder buffer, or is refused. (R200) -/
  | streamArrival (slot : BitVec 4) (die : BitVec 6) (cell : BitVec 11) (num : Xword)
  /-- STREAM_RESEND: A refused stream access is resent by its source 64 cycles after the refusal. (R199) -/
  | streamResend (slot : BitVec 4) (die : BitVec 6) (cell : BitVec 11) (num : Xword)
  /-- STREAM_ACK: A stream access's acknowledgement or data reaches its source and it is no longer outstanding. (R198) -/
  | streamAck (slot : BitVec 4) (die : BitVec 6) (cell : BitVec 11) (num : Xword)
  /-- ENGINE_COMMAND_COMPLETE: An engine command completes, advancing its timeline counter and delivering any join arrival. (R204) -/
  | engineCommandComplete (slot : BitVec 4) (die : BitVec 6) (cell : BitVec 11) (tl : BitVec 2) (num : Xword)
  /-- SYNC_WAIT_COMPLETE: A YWAITT, YWAITF or YFENCE condition becomes true, the wait acquires its effects and the held units start. (R205) -/
  | syncWaitComplete (slot : BitVec 4) (die : BitVec 6)
  /-- DSCATA_APPLY: Once every die has retired a DSCATA bundle its held additions at a home are applied in (L, t) order. (R381) -/
  | dscataApply (slot : BitVec 4) (bsn : Xword)
  /-- TILE_VERDICT: A pass's monitors are judged against BUDGET: the tile retires, is squashed for replay, or retires with an exhaust. (R244) -/
  | tileVerdict (slot : BitVec 4) (die : BitVec 6) (cell : BitVec 11)
  /-- REPLAY: A squashed tile's bank is restored from the checkpoint shadow and the tile passes again at the next coat. (R245) -/
  | replay (slot : BitVec 4) (die : BitVec 6) (cell : BitVec 11)
  /-- REPLAY_ORDER: In FIXED mode the replay order reaches every die and every active cell below its top replays. (R248) -/
  | replayOrder (slot : BitVec 4) (held : Xword)
  /-- TWIN_FETCH_DONE: A twin image arrives in the ring's replay slot, or the fetch parks or kills the context. (R240) -/
  | twinFetchDone (slot : BitVec 4) (die : BitVec 6) (cell : BitVec 11)
  /-- TILE_RETIRE: A tile whose verdict allows and whose bundle has retired pops its rings and updates its counters. (R246) -/
  | tileRetire (slot : BitVec 4) (die : BitVec 6) (cell : BitVec 11)
  /-- DEAD_DRAIN_DONE: No tagged request of a dead context remains; its dies are freed, its DEAD completion record written and its slot FREE. (R259) -/
  | deadDrainDone (slot : BitVec 4)
  /-- WATCHDOG: A running context makes no progress for WDMS ms and becomes dead with cause watchdog. (R260) -/
  | watchdog (slot : BitVec 4)
  /-- CONTEXT_END: An ENDING context's dies have retired every bundle and every effect is performed, so its completion record is written and the slot FREE. (R313) -/
  | contextEnd (slot : BitVec 4)
  /-- TREE_RESULT: The reckoning tree's result for a DRED or TLRD reaches the sequencer and writes the g register or xD, releasing any S instruction waiting on it. (R113) -/
  | treeResult (slot : BitVec 4)
  /-- SEQUENCER_ACCESS_COMPLETE: A sequencer LD, LDU, SAMO or SPAWN descriptor read completes at its home, its result is written to xD, and a FENCE.S waiting on it may release. (R287) -/
  | sequencerAccessComplete (slot : BitVec 4)
  -- further steps of the host, the operator, the environment and the device
  /-- EMERGENCY_REFRESH: A tracked row's age reaches 32 ms; the vault control precharges, refreshes and reactivates, holding the die or set and writing LATE_REFRESH. (R183) -/
  | emergencyRefresh (die : BitVec 6) (cell : BitVec 11) (row : BitVec 12) (held : Xword)
  /-- POWER_ON: The 48 V input becomes valid and the module performs a cold reset with LASTCAUSE 0, clearing the key slots at boot. (R27) -/
  | powerOn
  /-- POWER_REGION_BRINGUP: At power-on the module converters bring up the next power region, one every 50 µs in order of pr. (R28) -/
  | powerRegionBringup (pr : BitVec 4)
  /-- PERST: A PCI Express fundamental reset or link hot reset requests a cold reset with LASTCAUSE 1. (R27) -/
  | perst
  /-- FUNCTION_LEVEL_RESET: A function level reset of the physical function requests a warm reset with LASTCAUSE 4. (R27) -/
  | functionLevelReset
  /-- RECOVERY_PIN: The recovery pin held low for at least 1 ms acts as RECOVER: a cold reset whose boot skips the customer slot. (R52) -/
  | recoveryPin
  /-- WARM: A host write of RESETCTL.WARM = 1 requests a warm reset, merged or ignored as R28 states. (R26) -/
  | warm
  /-- COLD: A host write of RESETCTL.COLD = 1 requests a cold reset, which abandons a warm reset in progress. (R26) -/
  | cold
  /-- RESET_HOST_TIMEOUT: A host-memory request still outstanding 100 µs into a reset or drain is abandoned. (R25) -/
  | resetHostTimeout
  /-- RESET_COMPLETE: A reset ends its drain and clears state; a cold reset retrains every link and then hands over to the boot ROM. (R25) -/
  | resetComplete
  /-- TEMP_SAMPLE: Every 10 µs a column's sensor is read; reaching TWARNLVL sets TWARN and raises vector 65. (R15) -/
  | tempSample (col : BitVec 6) (temp : BitVec 8)
  /-- THERMAL_TRIP: A column reaching 110 °C loses its core rail, is marked TTRIP and OFFLINE, and every context holding the die becomes dead. (R16) -/
  | thermalTrip (col : BitVec 6)
  /-- PLIM_THROTTLE: While the 10 ms average package power is at or above PLIM every region is throttled for the first 500 ns of each 1 µs. (R14) -/
  | plimThrottle (watts : BitVec 16)
  /-- D3HOT_ENTRY: The function enters D3hot; every context slot is treated as at warm reset and doorbells are dropped until D0. (R32) -/
  | d3hotEntry
  /-- HOST_REQUEST_ERROR: A device request to the host receives UR, CA, a completion timeout or an IOMMU fault and is treated as an uncorrectable error. (R30) -/
  | hostRequestError (slot : BitVec 4) (die : BitVec 6) (cell : BitVec 11) (addr : Xword)
  /-- LINK_TRAINING_DONE: An Utzen link finishes training and enters UP, or DOWN on failure. (R38) -/
  | linkTrainingDone (link : BitVec 4) (lanes : BitVec 8)
  /-- LINK_LOSS: A link leaves an active state without a host write: LOST is set, vector 66 raised, PODRT bits cleared and contexts with traffic in flight made dead. (R39) -/
  | linkLoss (link : BitVec 4)
  /-- RETRAIN: A host write of ULCTL.RETRAIN = 1 stops new flits to the link and retrains it once its replay buffer drains. (R40) -/
  | retrain (link : BitVec 4)
  /-- LINK_ENABLE: A host write of ULCTL.ENABLE disables the link (after draining) or, from 0 to 1, starts training. (R42) -/
  | linkEnable (link : BitVec 4) (on : BitVec 1)
  /-- REPLAY_BUFFER_DRAINED: Every flit in a stopped link's replay buffer has been acknowledged, so the pending retrain, disable or PODCFG change acts. (R40) -/
  | replayBufferDrained (link : BitVec 4)
  /-- PODCFG_WRITE: A host write of PODCFG that clears VALID or changes DEVNUM drains each active link and returns it to UP; ignored unless every slot is FREE. (R41) -/
  | podcfgWrite (value : Xword)
  /-- FLIT_CRC_FAIL: A flit fails its CRC and is resent from the replay buffer, counted in REPLAYS. (R37) -/
  | flitCrcFail (link : BitVec 4)
  /-- FLIT_ARRIVAL: A flit arrives at a device and is delivered or forwarded on the least-loaded active link of PODRT, or dropped at its ninth hop. (R44) -/
  | flitArrival (dest : BitVec 6) (src : BitVec 6) (hops : BitVec 4) (body : Received)
  /-- POD_ACCESS_TIMEOUT: Held pod arrivals outlive PODTMO, are discarded, and the sending context becomes dead with cause pod timeout. (R47) -/
  | podAccessTimeout
  /-- STATUS: The I3C STATUS command returns BOOTSTAT and STRIPSTAT. (R51) -/
  | status
  /-- ENROLL: The I3C ENROLL command stores the lease key hash and minimum customer version when LEASE is VACANT and sets ENROLLED. (R51) -/
  | enroll (hash : BitVec 256) (minver : BitVec 16)
  /-- STRIP: The I3C STRIP command sets PEND and LEASE STRIPPING, stores the nonce and issues a cold reset that runs the strip. (R56) -/
  | strip (nonce : BitVec 256)
  /-- RECOVER: The I3C RECOVER command performs a cold reset with LASTCAUSE 5. (R51) -/
  | recover
  /-- READREC: The I3C READREC command returns the last strip record when no strip runs. (R51) -/
  | readrec
  /-- QUOTE: The I3C QUOTE command returns a signed quote over the given nonce in stage BASE or CUSTOM. (R62) -/
  | quote (nonce : BitVec 256)
  /-- READID: The I3C READID command returns the identity public key. (R51) -/
  | readid
  /-- BASEUPD: The I3C BASEUPD command verifies a streamed base runtime image and writes it to the copy not booted last. (R51) -/
  | baseupd (image : List Byte)
  /-- FWCTL_GO: A host write of FWCTL.GO makes the base runtime read, check and write a customer image to the customer slot. (R55) -/
  | fwctlGo
  /-- KEYCMD_LOAD: KEYCMD.OP = LOAD loads KEYDATA0–3 into key slot KEYSEL unless BUSY, IN_USE or WEAK, then clears KEYDATA. (R60) -/
  | keycmdLoad
  /-- KEYCMD_ZERO: KEYCMD.OP = ZERO zeroes key slot KEYSEL and marks it empty unless BUSY or IN_USE. (R60) -/
  | keycmdZero
  /-- QCTL_GO: A host write of QCTL.GO requests a quote over QNONCE0–3 and clears DONE. (R62) -/
  | qctlGo
  /-- QUOTE_DONE: A requested quote finishes signing, is placed in QBUF and QCTL.DONE is set. (R62) -/
  | quoteDone
  /-- DOORBELL: A write to a queue's doorbell advances TAIL, is dropped, or on overrun puts the queue in ERROR with ERRCODE 7. (R66) -/
  | doorbell (queue : BitVec 6) (tail : BitVec 32)
  /-- HCOPY_FAULT: An HCOPY access faults; the copy stops, its record carries COPYFAULT and the queue enters ERROR with ERRCODE 3. (R72) -/
  | hcopyFault (queue : BitVec 6) (index : BitVec 32) (bytes : BitVec 32)
  /-- RECORD_WRITE_FAIL: The write of a completion record fails, the record is lost and the queue enters ERROR with ERRCODE 6. (R73) -/
  | recordWriteFail (queue : BitVec 6)
  /-- ENABLE: Writing QCFG.ENABLE = 1 in DISABLED moves the queue to IDLE with HEAD and TAIL zero. (R65) -/
  | enable (queue : BitVec 6)
  /-- DESTROY: Writing QCFG.DESTROY = 1 stops staging, kills the queue's contexts, abandons its copies and starts the drain. (R75) -/
  | destroy (queue : BitVec 6)
  /-- RETRY: Writing QCFG.RETRY = 1 in ERROR re-stages the failed packet or resumes staging, as ERRCODE decides. (R74) -/
  | retry (queue : BitVec 6)
  /-- SKIP: Writing QCFG.SKIP = 1 in ERROR retires the failed packet without effect, or resumes staging, as ERRCODE decides. (R74) -/
  | skip (queue : BitVec 6)
  /-- SIGOBJ_WRITE: A host write of a signal object updates it atomically and re-evaluates every WAIT on it. (R72) -/
  | sigobjWrite (obj : BitVec 8) (value : Xword)
  /-- SCHEDULER_DECISION: At each triggering event and every 1 ms the scheduler allocates rectangles and cores to waiting and saved contexts in waiting order. (R86) -/
  | schedulerDecision
  /-- KILL: A host write of CTXCTL.KILL = 1 makes the context dead with cause host kill. (R100) -/
  | kill (slot : BitVec 4)
  /-- DROOP_REPORT: Each edge a die's droop detectors report a demand level that stretches the next cycle or starts a hard trip. (R130) -/
  | droopReport (die : BitVec 6) (level : BitVec 3)
  /-- TRIP_HOLD_EXPIRY: A 32-cycle trip stop or hold ends, or is extended by a further 32 cycles if a detector still reports too high. (R132) -/
  | tripHoldExpiry (die : BitVec 6) (again : BitVec 1)
  /-- REGION_THROTTLE: A region whose estimated current rises more than ISTEP LIMIT within 200 ns throttles its dies at 600 ps or in 8-cycle holds. (R137) -/
  | regionThrottle (region : BitVec 4) (on : BitVec 1) (cycles : Xword)
  /-- HANDLE_STAGING_WRITE: A write to bits 191:0 of a handle entry updates only its staging copy. (R170) -/
  | handleStagingWrite (handle : BitVec 12) (word : BitVec 2) (lanes : BitVec 8) (value : Xword)
  /-- HANDLE_COMMIT: A write to bits 255:192 of a handle entry commits the staged entry, increments GEN and invalidates the dies, or is refused into TSTAT. (R170) -/
  | handleCommit (handle : BitVec 12) (lanes : BitVec 8) (value : Xword)
  /-- RGO: Writing TSTAT.RGO = 1 relocates a handle's object: stop translation, drain, copy, commit the new BASE and LAYER, resume. (R173) -/
  | rgo
  /-- PTROOT_WRITE: A write of PTROOT sets the page table root and performs a full translation invalidation. (R178) -/
  | ptrootWrite (value : Xword)
  /-- TINVCTL_GO: Writing TINVCTL.GO invalidates cached translations, all or those containing TINVADDR, and sets BUSY. (R180) -/
  | tinvctlGo (all : BitVec 1)
  /-- INVALIDATION_DONE: Every die has acted on a translation invalidation and BUSY clears. (R180) -/
  | invalidationDone
  /-- LANETEST_DONE: Lane test swaps one failing lane to its group's spare with a SWAP record and resends, or makes the context dead. (R188) -/
  | lanetestDone (slot : BitVec 4) (die : BitVec 6) (cell : BitVec 11) (num : Xword) (found : BitVec 1) (group : BitVec 1) (lane : BitVec 5)
  /-- SELF_REFRESH: The vault control refreshes the next row index every 3.90625 µs while the die has no owner or is not the program's duty. (R184) -/
  | selfRefresh (die : BitVec 6)
  /-- DPERM_DEADLINE: In FIXED mode a DPERM write not performed by cycle E + 128 holds the set until it is performed. (R385) -/
  | dpermDeadline (slot : BitVec 4) (held : Xword)
  /-- TQSERVICE_RETRY: Writing TQSERVICE with RETRY tries a parked request, or a walk with its requests, again. (R255) -/
  | tqserviceRetry (park : BitVec 12)
  /-- TQSERVICE_KILL: Writing TQSERVICE with KILL makes the parked request's context dead with cause unserviced fault. (R255) -/
  | tqserviceKill (park : BitVec 12)
  /-- TQ_HEAD_WRITE: A host write of TQPTR.HEAD frees slots and writes waiting fatal and held recoverable records. (R262) -/
  | tqHeadWrite (head : BitVec 32)
  /-- TRAP_RECORD_WRITE_FAIL: A trap record write fails and the trap queue enters ERROR. (R262) -/
  | trapRecordWriteFail
  /-- RESUME: Writing TQCFG.RESUME = 1 in ERROR returns the trap queue to ACTIVE and rewrites the failed record. (R262) -/
  | resume
  /-- TQ_ENABLE: A write of TQCFG.ENABLE enables the trap queue with zeroed pointers, or disables it when every slot is FREE. (R263) -/
  | tqEnable (on : BitVec 1)
  /-- CONTEXT_DEAD: A context becomes dead: issue stops, its fatal record is offered and every tagged request is dropped or drained. (R259) -/
  | contextDead (slot : BitVec 4) (cause : DeathReport)
  /-- TRIG: Writing SNAPCTL.TRIG = 1 fires the common snapshot trigger. (R264) -/
  | trig
  /-- ARM: Writing SNAPCTL.ARM = 1 sets ARMED and clears MISSED. (R264) -/
  | arm
  /-- REGISTER_WRITE: A host write to a register with no behaviour of its own replaces, clears or ignores each field by its access code. (R4) -/
  | registerWrite (offset : BitVec 25) (value : HostWord)
  /-- D0_ENTRY: The function returns from D3hot to D0, after which doorbell writes are accepted again. (R32) -/
  | d0Entry
  /-- VECTOR_UNMASK: A masked MSI-X vector with its pending bit set is unmasked, and one message is sent for all the events held. (R35) -/
  | vectorUnmask (vector : BitVec 7)
  /-- PEER_IDENTITY: A link in UP receives its peer's identity after the peer's VALID becomes 1, and moves to ACTIVE, ACTIVE_HALF or CONFLICT. (R38) -/
  | peerIdentity (link : BitVec 4) (valid : BitVec 1) (devnum : BitVec 6) (peer : BitVec 4)
  /-- I3C_NAK: An I3C command with an unlisted code, or with the wrong argument length, receives a NAK and has no effect. (R51) -/
  | i3cNak (code : BitVec 8)
  /-- FW_LOAD_DONE: The base runtime finishes reading and checking a customer image from host memory, writes it to the customer slot and sets FWST to written, invalid image, no lease or read error. (R55) -/
  | fwLoadDone (fail : BitVec 1)
  /-- RELOCATION_COMPLETE: A relocation finishes its copy, commits the new BASE and LAYER with a new GEN, resumes translation of the handle and sets RST to 2. (R173) -/
  | relocationComplete
  -- instructions without operands
  /-- STEP: Stop issue and drain so the scheduler may yield, keep, grow or shrink the set. (R302) -/
  | step
  /-- FENCE_S: Wait until every earlier sequencer access has performed before later bundles issue. (R310) -/
  | fenceS
  /-- ERET: Leave the handler and resume the stream by rebroadcast. (R411) -/
  | eret
  /-- PODBAR: Run a pod barrier round. (R315) -/
  | podbar
  /-- VELSE: Invert A under the top of the activity stack. (R116) -/
  | velse
  /-- VPOPACT: Pop A from the activity stack. (R116) -/
  | vpopact
  /-- YYIELD: Offer a yield point to a pending pre-emption request. (R401) -/
  | yyield
  /-- YBAR: Barrier across the set's dies. (R402) -/
  | ybar
  deriving DecidableEq, Repr

end Sys2Proof
end

