-- ==== Sys2Proof/WellFormed.lean ====
section
/-!
DEFINITION. Well-formed instructions: the limits that each entry puts on its operands (14 R276 checks 2 and 6, with the
type classes of 16 R316 and 17 R338 and the limits of R291, R319, R340, R350, R358, R360, R377, R380, R383, R386).
-/
namespace Sys2Proof

/-- An immediate field is zero where the extension word stands in its place (R269, R318). -/
def immOk (i : BitVec n) (x : Option Word) : Bool := x.isNone || i == 0
/-- The extension word, where present, has no bit at or above bit `k` (R319). -/
def extBelow (k : Nat) (x : Option Word) : Bool :=
  match x with | none => true | some e => decide (e.toNat < 2 ^ k)
/-- Type class I: the integer codes (R316). -/
def tyI (t : BitVec 4) : Bool := decide (8 ≤ t.toNat)
/-- Type class D: every code but 7 (R316). -/
def tyD (t : BitVec 4) : Bool := t != 7
/-- Type class L: D without the 4-bit types (R316). -/
def tyL (t : BitVec 4) : Bool := t != 7 && t != 3 && t != 4
/-- Type class W: 32-bit and 64-bit elements (R316). -/
def tyW (t : BitVec 4) : Bool := t == 5 || t == 6 || decide (12 ≤ t.toNat)
/-- The types of VSCATA (R319). -/
def tyA (t : BitVec 4) : Bool := t == 5 || decide (12 ≤ t.toNat)
/-- Type class F: BF16, FP32, FP64 (R338). -/
def tyF (t : BitVec 4) : Bool := t == 0 || t == 5 || t == 6
/-- BF16 and FP32 (R340). -/
def tyX (t : BitVec 4) : Bool := t == 0 || t == 5
/-- The types of VPACK and VUNPACK: 3, 4, 8-13 (R340). -/
def tyP (t : BitVec 4) : Bool := t == 3 || t == 4 || decide (8 ≤ t.toNat ∧ t.toNat ≤ 13)
/-- The 64-bit types (R319). -/
def wide (t : BitVec 4) : Bool := t == 6 || t == 14 || t == 15
/-- The number of bits of an element of a type code (11 R216); 7 is unassigned. -/
def tyBits (t : Nat) : Nat :=
  match t with
  | 0 => 16 | 1 => 8 | 2 => 8 | 3 => 4 | 4 => 4 | 5 => 32 | 6 => 64
  | 8 => 8 | 9 => 8 | 10 => 16 | 11 => 16 | 12 => 32 | 13 => 32 | 14 => 64 | 15 => 64
  | _ => 512
/-- The lane count of a type (08 R143). -/
def tyLanes (t : Nat) : Nat := 512 / tyBits t
/-- A lane immediate lies below the lane count (R319). -/
def laneOk (t : BitVec 4) (x : Option Word) : Bool :=
  match x with | none => true | some e => decide (e.toNat < tyLanes t.toNat)
/-- A BF16 immediate leaves bits 31:16 zero (R338). -/
def immBf (t : BitVec 4) (x : Option Word) : Bool := t != 0 || extBelow 16 x
/-- The fields of VCVT (R340, R350, R351). -/
def cvtOk (t y : BitVec 4) (s : BitVec 1) (r : BitVec 3) (p : BitVec 4) : Bool :=
  t != 4 && t != 7 && y != 4 && y != 7 && (s == 0 || t == 1 || decide (8 ≤ t.toNat)) &&
  (r == 0 || decide (4 ≤ r.toNat)) &&
  decide (p.toNat < max (tyLanes t.toNat) (tyLanes y.toNat) / min (tyLanes t.toNat) (tyLanes y.toNat))
/-- PART of VQENC and VQDEC (R355, R356). -/
def partOk (t : BitVec 4) (p : BitVec 3) : Bool := decide (p.toNat < 128 / tyLanes t.toNat)
/-- QSET's decode limits (R360). -/
def ringOk (s : BitVec 1) (f : BitVec 4) (h : BitVec 1) (c : BitVec 8) (z : BitVec 4) (b : BitVec 17) : Bool :=
  if c == 0 then s == 0 && f == 0 && h == 0 && z == 0 && b == 0 else
    decide (b.toNat % 64 = 0) &&
    (if h == 0 then f == 0 || f == 6
     else if s == 0 then f == 3 || f == 1 || f == 2 else f == 3 || f == 4 || f == 1 || f == 2) &&
    decide ((if f == 3 || f == 4 then 3 else if f == 1 || f == 2 then 5 else if f == 0 then 8 else 4) ≤ z.toNat) &&
    decide (b.toNat + 64 * z.toNat * c.toNat + 512 + 8 * c.toNat * h.toNat ≤ 131072)
/-- The join object number is zero when the command does not register (R272). -/
def joinOk (e : BitVec 1) (j : BitVec 6) : Bool := e == 1 || j == 0
/-- An address base register b1 to bK (R272, R377). -/
def baseOk (b : BitVec 4) (k : Nat) : Bool := decide (1 ≤ b.toNat ∧ b.toNat ≤ k)
/-- DCOPY's options: TR 3 is unassigned and a transpose needs a local destination (R377). -/
def copyOk (o : BitVec 4) : Bool := decide (o.toNat % 4 ≠ 3) && (decide (o.toNat % 4 = 0) || decide (8 ≤ o.toNat))
/-- LAND is zero (R377). -/
def landZero (x : Option Word) : Bool :=
  match x with | none => true | some e => decide (e.toNat % 2 ^ 12 = 0)
/-- The register pairs of the register-form gathers and scatters lie within v0-v31 (R380). -/
def gatherOk (d : BitVec 5) (w : BitVec 2) : Bool := decide (d.toNat + (if w == 3 then 2 else 1) ≤ 31)
/-- DSCATA's F bit (R377). -/
def addOk (w : BitVec 2) (x : Option Word) : Bool :=
  match x with | none => true | some e => decide (e.toNat % 2 ^ 12 ≤ 1) && (decide (e.toNat % 2 = 0) || w == 2)
/-- The flag field of R376. -/
def flagOk (x : Option Word) : Bool :=
  match x with | none => true | some e => decide (e.toNat % 2 ^ 12 < 32) && decide (16 ≤ e.toNat % 32 ∨ e.toNat % 16 = 0)
/-- The returning atomics: operations 9 to 12 and their register limits (R383). -/
def retOk (w : BitVec 1) (d o : BitVec 4) : Bool :=
  decide (9 ≤ o.toNat ∧ o.toNat ≤ 12) && (w == 0 || (decide (d.toNat ≤ 14) && o != 12)) &&
  (o != 10 || decide (d.toNat ≤ (if w == 1 then 12 else 14)))
/-- DRED's source and operation (R386). -/
def redOk (s : BitVec 5) (o : BitVec 4) : Bool :=
  decide (o.toNat ≤ 10) && (if o == 10 then decide (s.toNat ≤ 3) else decide (s.toNat ≤ 17))

/-- The limits that an instruction's entry puts on its operands: decode check 6, and check 2 for the sync field (R276).
The steps without an encoding have no limits of their own. -/
def Instr.wellFormed : Instr → Bool
  | .add _ _ _ => true
  | .sub _ _ _ => true
  | .mul _ _ _ => true
  | .mulh _ _ _ => true
  | .mulhu _ _ _ => true
  | .div _ _ _ => true
  | .divu _ _ _ => true
  | .rem _ _ _ => true
  | .remu _ _ _ => true
  | .and _ _ _ => true
  | .or _ _ _ => true
  | .xor _ _ _ => true
  | .shl _ _ _ => true
  | .shr _ _ _ => true
  | .sra _ _ _ => true
  | .slt _ _ _ => true
  | .sltu _ _ _ => true
  | .min _ _ _ => true
  | .max _ _ _ => true
  | .clz _ _ => true
  | .popc _ _ => true
  | .addi _ _ i x => immOk i x
  | .andi _ _ i x => immOk i x
  | .ori _ _ i x => immOk i x
  | .xori _ _ i x => immOk i x
  | .shli _ _ _ => true
  | .shri _ _ _ => true
  | .srai _ _ _ => true
  | .slti _ _ i x => immOk i x
  | .lih _ _ i x => immOk i x
  | .ld _ _ _ _ => true
  | .ldu _ _ _ _ => true
  | .st _ _ _ _ => true
  | .samo _ _ _ _ o z _ => decide (2 ≤ z.toNat) && decide (o.toNat ≤ 7)
  | .beq _ _ o x => immOk o x
  | .bne _ _ o x => immOk o x
  | .blt _ _ o x => immOk o x
  | .bge _ _ o x => immOk o x
  | .bltu _ _ o x => immOk o x
  | .bgeu _ _ o x => immOk o x
  | .j o x => immOk o x
  | .jal _ o x => immOk o x
  | .jalr _ _ i x => immOk i x
  | .grd _ _ => true
  | .kset _ a x => immOk a x
  | .diec _ => true
  | .step => true
  | .spawn _ _ _ _ => true
  | .tlrd _ _ _ => true
  | .srr _ _ => true
  | .srw _ _ => true
  | .binit _ _ => true
  | .barr _ => true
  | .bard _ => true
  | .bwait _ _ => true
  | .binv _ => true
  | .fenceS => true
  | .trap c x => immOk c x
  | .eret => true
  | .halt _ => true
  | .hostsig _ _ _ => true
  | .podbar => true
  | .podred _ _ o => decide (o.toNat ≤ 10)
  | .vadd t _ _ b _ x => tyI t && immOk b x
  | .vsub t _ _ b _ x => tyI t && immOk b x
  | .vmul t _ _ b _ x => tyI t && immOk b x
  | .vmulh t _ _ b _ x => tyI t && immOk b x
  | .vmad t _ _ _ _ _ => tyI t
  | .vabs _ _ _ _ => true
  | .vneg t _ _ _ => tyI t
  | .vmin t _ _ b _ x => tyI t && immOk b x
  | .vmax t _ _ b _ x => tyI t && immOk b x
  | .vsadd t _ _ b _ x => tyI t && immOk b x
  | .vssub t _ _ b _ x => tyI t && immOk b x
  | .vabd t _ _ b _ x => tyI t && immOk b x
  | .vshl t _ _ b _ x => tyI t && immOk b x && extBelow 6 x
  | .vshr t _ _ b _ x => tyI t && immOk b x && extBelow 6 x
  | .vsra t _ _ b _ x => tyI t && immOk b x && extBelow 6 x
  | .vand t _ _ b _ x => tyD t && immOk b x
  | .vor t _ _ b _ x => tyD t && immOk b x
  | .vxor t _ _ b _ x => tyD t && immOk b x
  | .vnot t _ _ _ => tyD t
  | .vsel t _ _ _ _ => tyD t
  | .vclz t _ _ _ => tyI t
  | .vpopc t _ _ _ => tyI t
  | .vcmp t _ _ b _ _ x => tyI t && immOk b x
  | .vtest t _ _ _ _ => tyD t
  | .vmand _ _ _ => true
  | .vmor _ _ _ => true
  | .vmxor _ _ _ => true
  | .vmnot _ _ => true
  | .vmpopc _ _ _ => true
  | .vmov t _ _ _ => tyD t
  | .vmovi t _ _ _ => tyL t
  | .vbroad t _ a _ f => tyL t && (f == 0 || decide (a.toNat < 4))
  | .vshuf t _ _ _ _ => tyL t
  | .vrotl t _ _ b _ x => tyL t && immOk b x && extBelow 7 x
  | .vext t _ _ b h x => tyL t && immOk b x && laneOk t x && (h == 0 || wide t)
  | .vins t _ _ b h x => tyL t && immOk b x && laneOk t x && (h == 0 || wide t)
  | .viota t _ _ _ => tyI t
  | .vcellid _ _ _ _ => true
  | .vrsum t _ _ _ => tyI t
  | .vrmax t _ _ _ => tyI t
  | .vrmin t _ _ _ => tyI t
  | .vhash _ _ _ _ _ => true
  | .vld t _ _ _ _ => tyD t
  | .vst t _ _ _ _ => tyD t
  | .vlds t _ _ _ _ _ => tyL t
  | .vsts t _ _ _ _ _ => tyL t
  | .vgath t _ a _ _ _ _ => tyW t && decide (a.toNat ≤ 14)
  | .vscat t _ a _ _ _ _ => tyW t && decide (a.toNat ≤ 14)
  | .vscata t _ a _ _ _ _ => tyA t && decide (a.toNat ≤ 14)
  | .badd _ _ _ => true
  | .bsub _ _ _ => true
  | .bmul _ _ _ => true
  | .bshl _ _ _ => true
  | .baddi _ _ _ => true
  | .bshr _ _ _ _ => true
  | .band _ _ _ => true
  | .bor _ _ _ => true
  | .bxor _ _ _ => true
  | .bmov _ _ => true
  | .bli _ _ => true
  | .bcmp _ _ _ _ => true
  | .bld _ _ _ => true
  | .bst _ _ _ => true
  | .vpushact _ => true
  | .velse => true
  | .vpopact => true
  | .vfadd t _ _ b _ x => tyF t && immOk b x && immBf t x
  | .vfsub t _ _ b _ x => tyF t && immOk b x && immBf t x
  | .vfmul t _ _ b _ x => tyF t && immOk b x && immBf t x
  | .vfma t _ _ _ _ _ => tyF t
  | .vfms t _ _ _ _ _ => tyF t
  | .vfnma t _ _ _ _ _ => tyF t
  | .vfmin t _ _ b _ x => tyF t && immOk b x && immBf t x
  | .vfmax t _ _ b _ x => tyF t && immOk b x && immBf t x
  | .vfabs t _ _ _ => tyF t
  | .vfneg t _ _ _ => tyF t
  | .vfdiv t _ _ b _ x => tyF t && immOk b x && immBf t x
  | .vfsqrt t _ _ _ => tyF t
  | .vfrcp t _ _ _ => tyX t
  | .vfrsq t _ _ _ => tyX t
  | .vfexp2 t _ _ _ => tyX t
  | .vflog2 t _ _ _ => tyX t
  | .vftanh t _ _ _ => tyX t
  | .vfclass t _ _ _ => tyF t
  | .vfcmp t _ _ b _ _ x => tyF t && immOk b x && immBf t x
  | .vcvt t _ _ _ y s r p => cvtOk t y s r p
  | .vpack t _ _ _ _ s => tyP t && (s == 0 || decide (8 ≤ t.toNat))
  | .vunpack t _ _ _ _ => tyP t
  | .vscale t _ _ b _ x => tyF t && immOk b x
  | .vqenc t _ _ _ _ p => tyX t && partOk t p
  | .vqdec t _ _ _ p => tyX t && partOk t p
  | .vfrsum t _ _ _ => tyF t
  | .tmma _ a b f g _ _ => decide (f.toNat ≤ g.toNat) && decide (g.toNat ≤ 2) && a != b
  | .tmma64 _ a b _ _ => a != b
  | .taccz _ => true
  | .taccld _ _ f _ _ => decide (f.toNat ≤ 2)
  | .taccst _ _ f _ _ => decide (f.toNat ≤ 2)
  | .taccret _ => true
  | .taccrd _ _ _ => true
  | .taccwr _ _ _ => true
  | .tcoat _ _ => true
  | .tmon _ _ _ => true
  | .qset _ s f h c z b => ringOk s f h c z b
  | .qcommit _ n => n != 0
  | .qpop _ n => n != 0
  | .qstat _ _ _ => true
  | .qtwin _ k _ => decide (k.toNat ≤ 14)
  | .dcopy _ _ _ e jo o => joinOk e jo && copyOk o
  | .dshape _ k f x => decide (f.toNat ≤ 9) && (f != 0 || baseOk k 14) && landZero x
  | .dgath _ d b e jo _ w _ n => baseOk b 13 && joinOk e jo && gatherOk d w && decide (4 ≤ n.toNat)
  | .dgathSp _ _ b e jo _ x => baseOk b 12 && joinOk e jo && landZero x
  | .dscat _ d b e jo _ w x => baseOk b 13 && joinOk e jo && gatherOk d w && landZero x
  | .dscatSp _ _ b e jo _ x => baseOk b 12 && joinOk e jo && landZero x
  | .dscata _ d b e jo _ w x => baseOk b 13 && joinOk e jo && gatherOk d w && addOk w x
  | .dscataSp _ _ b e jo w x => baseOk b 12 && joinOk e jo && addOk w x
  | .dst _ d b e jo w x => baseOk b 14 && joinOk e jo && flagOk x && (w == 0 || decide (d.toNat ≤ 14))
  | .dstv _ _ b e jo x => baseOk b 14 && joinOk e jo && flagOk x
  | .dld _ _ b e jo _ n => baseOk b 14 && joinOk e jo && decide (4 ≤ n.toNat)
  | .datom _ w d b e jo o x => baseOk b 14 && joinOk e jo && flagOk x && decide (o.toNat ≤ 8) && (w == 0 || (decide (d.toNat ≤ 14) && o != 8))
  | .datomRet _ w d b e jo o _ n => baseOk b 14 && joinOk e jo && decide (4 ≤ n.toNat) && retOk w d o
  | .dperm _ b e jo x => baseOk b 14 && joinOk e jo && landZero x
  | .dpermcfg d _ p x => decide (p.toNat ≤ 6) && decide (d.toNat ≤ 14) && landZero x
  | .dred s _ o => redOk s o
  | .dvact b e jo x => baseOk b 14 && joinOk e jo && landZero x
  | .dvpre b e jo x => baseOk b 14 && joinOk e jo && landZero x
  | .dvrd _ b e jo _ n => baseOk b 14 && joinOk e jo && decide (4 ≤ n.toNat)
  | .dvrdSp _ b e jo _ x => baseOk b 14 && joinOk e jo && landZero x
  | .dvwr _ b e jo x => baseOk b 14 && joinOk e jo && landZero x
  | .dvwrSp _ b e jo _ x => baseOk b 14 && joinOk e jo && landZero x
  | .dvref b e jo x => baseOk b 14 && joinOk e jo && landZero x
  | .dvlife _ b e jo m x => baseOk b 14 && joinOk e jo && landZero x && m != 0
  | .dtlmark _ _ _ => true
  | .ywaitf _ _ => true
  | .ywaitfExt _ _ => true
  | .ypostf _ _ => true
  | .ywaitt _ _ => true
  | .ywaittB _ _ => true
  | .yfence _ => true
  | .ylock _ _ => true
  | .yyield => true
  | .ybar => true
  | .ymark _ => true
  | .powerOn => true
  | .powerRegionBringup _ => true
  | .perst => true
  | .functionLevelReset => true
  | .recoveryPin => true
  | .warm => true
  | .cold => true
  | .resetHostTimeout => true
  | .resetComplete => true
  | .tempSample _ _ => true
  | .thermalTrip _ => true
  | .plimThrottle _ => true
  | .d3hotEntry => true
  | .hostRequestError _ _ _ _ => true
  | .linkTrainingDone _ _ => true
  | .linkLoss _ => true
  | .retrain _ => true
  | .linkEnable _ _ => true
  | .replayBufferDrained _ => true
  | .podcfgWrite _ => true
  | .flitCrcFail _ => true
  | .flitArrival _ _ _ _ => true
  | .podAccessArrival _ => true
  | .podAccessTimeout => true
  | .podMessageArrival _ => true
  | .podRoundTimeout _ => true
  | .status => true
  | .enroll _ _ => true
  | .strip _ => true
  | .recover => true
  | .readrec => true
  | .quote _ => true
  | .readid => true
  | .baseupd _ => true
  | .fwctlGo => true
  | .keycmdLoad => true
  | .keycmdZero => true
  | .qctlGo => true
  | .quoteDone => true
  | .doorbell _ _ => true
  | .packetStage _ _ => true
  | .launch _ => true
  | .wait _ => true
  | .waitTimeout _ => true
  | .signal _ => true
  | .hcopy _ => true
  | .hcopyComplete _ _ => true
  | .hcopyFault _ _ _ => true
  | .fence _ => true
  | .mark _ => true
  | .recordWriteFail _ => true
  | .enable _ => true
  | .destroy _ => true
  | .destroyDrainDone _ => true
  | .retry _ => true
  | .skip _ => true
  | .sigobjWrite _ _ => true
  | .schedulerDecision => true
  | .preemptLimitExpiry _ => true
  | .saveComplete _ _ => true
  | .restoreComplete _ _ => true
  | .stepDecision _ => true
  | .kill _ => true
  | .bundleFetch _ _ => true
  | .bundleIssue _ => true
  | .bundleRetire _ _ => true
  | .barrierRelease _ => true
  | .cellFault _ _ => true
  | .freeze _ => true
  | .freezeDrainDone _ => true
  | .droopReport _ _ => true
  | .tripHoldExpiry _ _ => true
  | .landing _ _ => true
  | .landingDataArrival _ _ _ => true
  | .regionThrottle _ _ _ => true
  | .staggerStart _ _ => true
  | .handleStagingWrite _ _ _ _ => true
  | .handleCommit _ _ _ => true
  | .commitComplete _ => true
  | .rgo => true
  | .ptrootWrite _ => true
  | .tinvctlGo _ => true
  | .invalidationDone => true
  | .walkComplete _ _ => true
  | .vaultCommandStart _ _ _ _ => true
  | .vaultBurstDone _ _ _ _ _ _ _ _ => true
  | .lanetestDone _ _ _ _ _ _ _ => true
  | .emergencyRefresh _ _ _ _ => true
  | .selfRefresh _ => true
  | .streamArrival _ _ _ _ => true
  | .streamResend _ _ _ _ => true
  | .streamAck _ _ _ _ => true
  | .engineCommandComplete _ _ _ _ _ => true
  | .syncWaitComplete _ _ => true
  | .dscataApply _ _ => true
  | .dpermDeadline _ _ => true
  | .tileVerdict _ _ _ => true
  | .replay _ _ _ => true
  | .replayOrder _ _ => true
  | .twinFetchDone _ _ _ => true
  | .tileRetire _ _ _ => true
  | .tqserviceRetry _ => true
  | .tqserviceKill _ => true
  | .tqHeadWrite _ => true
  | .trapRecordWriteFail => true
  | .resume => true
  | .tqEnable _ => true
  | .contextDead _ _ => true
  | .deadDrainDone _ => true
  | .watchdog _ => true
  | .contextEnd _ => true
  | .trig => true
  | .arm => true
  | .registerWrite _ _ => true
  | .d0Entry => true
  | .vectorUnmask _ => true
  | .peerIdentity _ _ _ _ => true
  | .i3cNak _ => true
  | .fwLoadDone _ => true
  | .relocationComplete => true
  | .treeResult _ => true
  | .sequencerAccessComplete _ => true

end Sys2Proof
end

