-- ==== Sys2Proof/Machine/Float.lean ====
section
/-!
DEFINITION. Number formats and rounding (11 R216-R224, R231-R234): patterns, exact values, `rnd`, and the arithmetic of
single values that the vector, conversion, atomic and matrix instructions share (17 R338-R351). A pattern is a natural
number; an exact value is a sign, a fraction and a power of two.
-/
namespace Sys2Proof.Machine
open Sys2Proof

/-- The floating-point formats, with the two forms of E4M3 that rounding tells apart (R217, R221). -/
inductive Fmt where
  | fp64 | fp32 | bf16 | e5m2 | e4m3 | e4m3sat | e2m1
  deriving DecidableEq, Repr

/-- The rounding modes (R231). -/
inductive Rm where
  | rne | rtz | rup | rdn
  deriving DecidableEq, Repr

/-- FPCTL.RM and the low bits of RMO: 0 RNE, 1 RTZ, 2 RUP, 3 RDN (R231, R340). -/
def Rm.ofCode (n : Nat) : Rm := match n % 4 with | 0 => .rne | 1 => .rtz | 2 => .rup | _ => .rdn

/-- Mantissa bits (R217). -/
def Fmt.mb : Fmt → Nat
  | .fp64 => 52 | .fp32 => 23 | .bf16 => 7 | .e5m2 => 2 | .e4m3 => 3 | .e4m3sat => 3 | .e2m1 => 1
/-- The exponent bias (R217). -/
def Fmt.bias : Fmt → Nat
  | .fp64 => 1023 | .fp32 => 127 | .bf16 => 127 | .e5m2 => 15 | .e4m3 => 7 | .e4m3sat => 7 | .e2m1 => 1
/-- The width in bits (R217). -/
def Fmt.width : Fmt → Nat
  | .fp64 => 64 | .fp32 => 32 | .bf16 => 16 | .e5m2 => 8 | .e4m3 => 8 | .e4m3sat => 8 | .e2m1 => 4
/-- The pattern of the largest finite value, sign clear (R217, R218). -/
def Fmt.maxPat : Fmt → Nat
  | .fp64 => 0x7FEFFFFFFFFFFFFF | .fp32 => 0x7F7FFFFF | .bf16 => 0x7F7F | .e5m2 => 0x7B
  | .e4m3 => 0x7E | .e4m3sat => 0x7E | .e2m1 => 7
/-- The pattern of an infinity, sign clear; none where the format has no infinity (R218). -/
def Fmt.infPat : Fmt → Option Nat
  | .fp64 => some 0x7FF0000000000000 | .fp32 => some 0x7F800000 | .bf16 => some 0x7F80 | .e5m2 => some 0x7C
  | _ => none
/-- The canonical NaN (R218); E2M1 has none and reads as +0 there (R224). -/
def Fmt.nanPat : Fmt → Nat
  | .fp64 => 0x7FF8000000000000 | .fp32 => 0x7FC00000 | .bf16 => 0x7FC0 | .e5m2 => 0x7E
  | .e4m3 => 0x7F | .e4m3sat => 0x7F | .e2m1 => 0
/-- FP64, FP32 and BF16: the formats to which DAZ, FTZ and NaN payloads apply (R218, R233, R339). -/
def Fmt.isMain : Fmt → Bool
  | .fp64 | .fp32 | .bf16 => true
  | _ => false
/-- The sign bit set or clear. -/
def Fmt.signed (f : Fmt) (neg : Bool) (p : Nat) : Nat := if neg then p + 2 ^ (f.width - 1) else p

/-- The exception flags, bits as in CFLAGS: 0 NV, 1 DZ, 2 OF, 3 UF, 4 NX (R149). -/
abbrev Flags5 := BitVec 5
def Flags5.none : Flags5 := 0
def Flags5.nv : Flags5 := 1
def Flags5.dz : Flags5 := 2
def Flags5.ofx : Flags5 := 20   -- OF and NX
def Flags5.uf : Flags5 := 8
def Flags5.nx : Flags5 := 16

/-- An exact value: (−1)^neg · num/den · 2^exp, an infinity, or a zero with its sign (R221). -/
inductive Exact where
  | inf (neg : Bool)
  | zero (neg : Bool)
  | val (neg : Bool) (num den : Nat) (exp : Int)
  deriving DecidableEq, Repr

/-- What a pattern means: a NaN, or an exact value (R217, R218). -/
inductive Num where
  | nan (signalling : Bool)
  | num (x : Exact)
  deriving DecidableEq, Repr

/-- The sign bit of a pattern. -/
def signOf (f : Fmt) (p : Nat) : Bool := p.testBit (f.width - 1)

/-- The meaning of a pattern (R217, R218). -/
def decodeNum (f : Fmt) (p : Nat) : Num :=
  let neg := signOf f p
  let mag := p % 2 ^ (f.width - 1)
  let man := mag % 2 ^ f.mb
  let ex := mag / 2 ^ f.mb
  if f.infPat = some mag then .num (.inf neg)
  else if mag > f.maxPat then .nan (f.isMain && !man.testBit (f.mb - 1))
  else if mag = 0 then .num (.zero neg)
  else if ex = 0 then .num (.val neg man 1 (1 - (f.bias : Int) - f.mb))
  else .num (.val neg (2 ^ f.mb + man) 1 ((ex : Int) - f.bias - f.mb))

/-- floor(log2 (n/d)) of a positive fraction. -/
def log2Frac (n d : Nat) : Int :=
  let k : Int := (n.log2 : Int) - d.log2
  let ge : Bool := if 0 ≤ k then decide (d * 2 ^ k.toNat ≤ n) else decide (d ≤ n * 2 ^ (-k).toNat)
  if ge then k else k - 1

/-- `step` of R221 on a magnitude: the multiple of 2^qe that the mode chooses, and whether the value was exact. -/
def roundTo (neg : Bool) (n d : Nat) (e qe : Int) (rm : Rm) : Nat × Bool :=
  let k := e - qe
  let a := if 0 ≤ k then n * 2 ^ k.toNat else n
  let b := if 0 ≤ k then d else d * 2 ^ (-k).toNat
  let lo := a / b
  let r := a % b
  if r = 0 then (lo, true)
  else
    let up : Bool := match rm with
      | .rne => decide (b < 2 * r) || (decide (b = 2 * r) && decide (lo % 2 = 1))
      | .rtz => false
      | .rup => !neg
      | .rdn => neg
    (if up then lo + 1 else lo, false)

/-- Whether an overflow or an infinity rounds away from zero (R222). -/
def pointsAway (neg : Bool) : Rm → Bool
  | .rne => true
  | .rtz => false
  | .rup => !neg
  | .rdn => neg

/-- `rnd` of R221 and R222: the pattern and the flags. -/
def rnd (f : Fmt) (rm : Rm) : Exact → Nat × Flags5
  | .inf neg =>
    match f, f.infPat with
    | _, some p => (f.signed neg p, 0)
    | .e4m3, none => (f.signed neg 0x7F, Flags5.nv)
    | _, none => (f.signed neg f.maxPat, Flags5.ofx)
  | .zero neg => (f.signed neg 0, 0)
  | .val neg n d e =>
    if n = 0 then (f.signed neg 0, 0) else
    let emin : Int := 1 - (f.bias : Int)
    let lg := log2Frac n d + e
    let q := max lg emin - f.mb
    let (m, exact) := roundTo neg n d e q rm
    let tiny : Bool :=
      if emin ≤ lg then false
      else
        let qt := lg - f.mb
        let t := (roundTo neg n d e qt rm).1
        decide ((t : Int) < 2 ^ (emin - qt).toNat)
    -- the pattern counts multiples of the quantum: an exponent step per power of two
    let pat : Nat := if m < 2 ^ f.mb then m else m + ((q + f.mb - emin).toNat) * 2 ^ f.mb
    let fl : Flags5 := (if exact then 0 else Flags5.nx) ||| (if !exact && tiny then Flags5.uf else 0)
    if pat > f.maxPat then
      let fl := fl ||| Flags5.ofx
      let top := f.signed neg f.maxPat
      if pointsAway neg rm then
        match f, f.infPat with
        | _, some p => (f.signed neg p, fl)
        | .e4m3, none => (f.signed neg 0x7F, fl)
        | _, none => (top, fl)
      else (top, fl)
    else (f.signed neg pat, fl)

/-- The control of an operation: FPCTL's fields (R231). -/
structure FpCtl where
  rm : Rm
  ftz : Bool
  daz : Bool
  enables : Flags5
  deriving DecidableEq, Repr

/-- FPCTL read as its fields (R231). -/
def FpCtl.ofWord (w : Xword) : FpCtl :=
  ⟨Rm.ofCode (bits w 1 0), bit w 2, bit w 3, BitVec.ofNat 5 (bits w 8 4)⟩

/-- A subnormal pattern of FP64, FP32 or BF16. -/
def isSubnormal (f : Fmt) (p : Nat) : Bool :=
  let mag := p % 2 ^ (f.width - 1)
  f.isMain && decide (0 < mag ∧ mag < 2 ^ f.mb)

/-- DAZ on a source pattern (R233). -/
def dazIn (f : Fmt) (daz : Bool) (p : Nat) : Nat :=
  if daz && isSubnormal f p then f.signed (signOf f p) 0 else p

/-- FTZ on a rounded result: a flushed result sets UF and NX (R233). -/
def ftzOut (f : Fmt) (ftz : Bool) (r : Nat × Flags5) : Nat × Flags5 :=
  if ftz && isSubnormal f r.1 then (f.signed (signOf f r.1) 0, r.2 ||| Flags5.uf ||| Flags5.nx) else r

/-- `rnd` followed by FTZ under an operation's control (R233, R338). -/
def rndOp (f : Fmt) (c : FpCtl) (rm : Rm) (x : Exact) : Nat × Flags5 := ftzOut f c.ftz (rnd f rm x)

/-- A NaN carried to another format (R224, R339): the sign kept, the mantissa cut or padded at its top, quieted; the
fixed patterns of R224 in narrow formats. E5M2 and E4M3 sources widen by the same rule (DEDUCED, log 12). -/
def nanTo (src dst : Fmt) (p : Nat) : Nat :=
  let neg := signOf src p
  if dst.isMain then
    let man := p % 2 ^ src.mb
    let m' := if src.mb ≤ dst.mb then man * 2 ^ (dst.mb - src.mb) else man / 2 ^ (src.mb - dst.mb)
    let inf := (dst.infPat).getD 0
    dst.signed neg (inf + (m' ||| 2 ^ (dst.mb - 1)))
  else match dst with
    | .e2m1 => 0
    | _ => dst.signed neg dst.nanPat

/-- Whether a pattern is a NaN. -/
def isNan (f : Fmt) (p : Nat) : Bool := match decodeNum f p with | .nan _ => true | .num _ => false
/-- Whether a pattern is a signalling NaN. -/
def isSnan (f : Fmt) (p : Nat) : Bool := match decodeNum f p with | .nan s => s | .num _ => false

/-- The first NaN among the inputs, quieted, with NV if any input signals (R339). -/
def firstNan (f : Fmt) (ps : List Nat) : Option (Nat × Flags5) :=
  match ps.find? (isNan f) with
  | none => none
  | some p => some (nanTo f f p, if ps.any (isSnan f) then Flags5.nv else 0)

/-- The invalid operation: the canonical NaN and NV (R339). -/
def invalid (f : Fmt) : Nat × Flags5 := (f.nanPat, Flags5.nv)

/-- The exact value of a pattern that is no NaN. -/
def exactOf (f : Fmt) (p : Nat) : Exact :=
  match decodeNum f p with
  | .num x => x
  | .nan _ => .zero false

/-- The sign of an exact value. -/
def Exact.neg? : Exact → Bool
  | .inf n => n
  | .zero n => n
  | .val n _ _ _ => n
/-- The negation of an exact value. -/
def Exact.negate : Exact → Exact
  | .inf n => .inf !n
  | .zero n => .zero !n
  | .val n a d e => .val (!n) a d e

/-- The sum of two exact values; none for infinities of opposite sign. An exact zero from operands that are not both
zeros of one sign is +0, or −0 under RDN (R341). -/
def Exact.add (rm : Rm) : Exact → Exact → Option Exact
  | .inf a, .inf b => if a = b then some (.inf a) else none
  | .inf a, _ => some (.inf a)
  | _, .inf b => some (.inf b)
  | .zero a, .zero b => some (if a = b then .zero a else .zero (rm = .rdn))
  | .zero _, y => some y
  | x, .zero _ => some x
  | .val s n d e, .val s' n' d' e' =>
    let lo := min e e'
    let x : Int := (n * d' * 2 ^ (e - lo).toNat : Nat)
    let y : Int := (n' * d * 2 ^ (e' - lo).toNat : Nat)
    let z := (if s then -x else x) + (if s' then -y else y)
    some (if z = 0 then .zero (rm = .rdn) else .val (decide (z < 0)) z.natAbs (d * d') lo)

/-- The product of two exact values; none for infinity times zero (R341). -/
def Exact.mul : Exact → Exact → Option Exact
  | .inf a, .zero _ => let _ := a; none
  | .zero _, .inf _ => none
  | .inf a, y => some (.inf (a != y.neg?))
  | x, .inf b => some (.inf (x.neg? != b))
  | .zero a, y => some (.zero (a != y.neg?))
  | x, .zero b => some (.zero (x.neg? != b))
  | .val s n d e, .val s' n' d' e' => some (.val (s != s') (n * n') (d * d') (e + e'))

/-- An operation on patterns: DAZ, then the NaN rule, then the exact result rounded once, then FTZ (R338, R339). -/
def fpOp (f : Fmt) (c : FpCtl) (ps : List Nat) (k : List Exact → Option Exact) : Nat × Flags5 :=
  let qs := ps.map (dazIn f c.daz)
  match firstNan f qs with
  | some r => r
  | none => match k (qs.map (exactOf f)) with
    | none => invalid f
    | some x => rndOp f c c.rm x

/-- VFADD (R341). -/
def fadd (f : Fmt) (c : FpCtl) (a b : Nat) : Nat × Flags5 :=
  fpOp f c [a, b] fun | [x, y] => x.add c.rm y | _ => none
/-- VFSUB (R341). -/
def fsub (f : Fmt) (c : FpCtl) (a b : Nat) : Nat × Flags5 :=
  fpOp f c [a, b] fun | [x, y] => x.add c.rm y.negate | _ => none
/-- VFMUL (R341). -/
def fmul (f : Fmt) (c : FpCtl) (a b : Nat) : Nat × Flags5 :=
  fpOp f c [a, b] fun | [x, y] => x.mul y | _ => none
/-- Whether a product is invalid: 0 × infinity (R341). -/
def badProduct (f : Fmt) (c : FpCtl) (a b : Nat) : Bool :=
  let x := dazIn f c.daz a
  let y := dazIn f c.daz b
  !isNan f x && !isNan f y && ((exactOf f x).mul (exactOf f y)).isNone
/-- VFMA, VFMS and VFNMA: the product and the third source each with a sign to invert (R341). An invalid product sets NV even
where the third source is a NaN (R339). -/
def fmaWith (f : Fmt) (c : FpCtl) (negProd negC : Bool) (a b d : Nat) : Nat × Flags5 :=
  let r := fpOp f c [a, b, d] fun
    | [x, y, z] => match x.mul y with
      | none => none
      | some p => (if negProd then p.negate else p).add c.rm (if negC then z.negate else z)
    | _ => none
  (r.1, if badProduct f c a b then r.2 ||| Flags5.nv else r.2)

/-- VFDIV (R342). -/
def fdiv (f : Fmt) (c : FpCtl) (a b : Nat) : Nat × Flags5 :=
  let a' := dazIn f c.daz a
  let b' := dazIn f c.daz b
  match firstNan f [a', b'] with
  | some r => r
  | none =>
    match exactOf f a', exactOf f b' with
    | .inf _, .inf _ => invalid f
    | .zero _, .zero _ => invalid f
    | .inf s, y => rndOp f c c.rm (.inf (s != y.neg?))
    | .zero s, y => rndOp f c c.rm (.zero (s != y.neg?))
    | .val s _ _ _, .inf s' => rndOp f c c.rm (.zero (s != s'))
    | .val s _ _ _, .zero s' => (f.signed (s != s') (f.infPat.getD 0), Flags5.dz)
    | .val s n d e, .val s' n' d' e' => rndOp f c c.rm (.val (s != s') (n * d') (d * n') (e - e'))

/-- Newton's iteration for the integer square root, from above. -/
def isqrtLoop (n : Nat) : Nat → Nat → Nat
  | 0, x => x
  | k + 1, x =>
    let y := (x + n / x) / 2
    if y < x then isqrtLoop n k y else x
/-- The integer square root. -/
def isqrt (n : Nat) : Nat := if n = 0 then 0 else isqrtLoop n (n.log2 + 2) (2 ^ (n.log2 / 2 + 1))

/-- The square root of n·2^e with a sticky bit below 70 significant bits (R342). -/
def sqrtExact (n : Nat) (e : Int) : Exact :=
  let (n, e) := if e % 2 = 0 then (n, e) else (2 * n, e - 1)
  let m := n * 2 ^ 160
  let s := isqrt m
  .val false (2 * s + (if s * s = m then 0 else 1)) 1 (e / 2 - 81)

/-- VFSQRT (R342). -/
def fsqrt (f : Fmt) (c : FpCtl) (a : Nat) : Nat × Flags5 :=
  let a' := dazIn f c.daz a
  match firstNan f [a'] with
  | some r => r
  | none => match exactOf f a' with
    | .zero s => (f.signed s 0, 0)
    | .inf false => (f.infPat.getD 0, 0)
    | .val false n _ e => rndOp f c c.rm (sqrtExact n e)
    | _ => invalid f

/-- Whether x < y, for values that are no NaN; −0 equals +0. -/
def Exact.lt (x y : Exact) : Bool :=
  match x, y with
  | .inf true, .inf true => false
  | .inf true, _ => true
  | .inf false, _ => false
  | _, .inf b => !b
  | _, _ =>
    match x.add .rne y.negate with
    | some (.val true _ _ _) => true
    | _ => false
/-- Whether x = y as numbers. -/
def Exact.eqv (x y : Exact) : Bool := !x.lt y && !y.lt x

/-- VFMIN and VFMAX (R343). -/
def fminmax (f : Fmt) (c : FpCtl) (wantMax : Bool) (a b : Nat) : Nat × Flags5 :=
  let a := dazIn f c.daz a
  let b := dazIn f c.daz b
  let nv : Flags5 := if isSnan f a || isSnan f b then Flags5.nv else 0
  match isNan f a, isNan f b with
  | true, true => (nanTo f f a, nv)
  | true, false => (b, nv)
  | false, true => (a, nv)
  | false, false =>
    let x := exactOf f a
    let y := exactOf f b
    -- −0 below +0
    let aLess := x.lt y || (x.eqv y && signOf f a && !signOf f b)
    ((if aLess != wantMax then a else b), 0)

/-- VFCMP's condition and its NV (R345): 0 eq, 1 lt, 2 le, 3 un. -/
def fcmp (f : Fmt) (c : FpCtl) (cond : Nat) (a b : Nat) : Bool × Flags5 :=
  let a := dazIn f c.daz a
  let b := dazIn f c.daz b
  let anyNan := isNan f a || isNan f b
  let anyS := isSnan f a || isSnan f b
  if anyNan then
    (decide (cond = 3), if anyS || cond = 1 || cond = 2 then Flags5.nv else 0)
  else
    let x := exactOf f a
    let y := exactOf f b
    (match cond with | 0 => x.eqv y | 1 => x.lt y | 2 => x.lt y || x.eqv y | _ => false, 0)

/-- VFCLASS (R346): the number of the class bit. -/
def fclass (f : Fmt) (p : Nat) : Nat :=
  let neg := signOf f p
  match decodeNum f p with
  | .nan s => if s then 8 else 9
  | .num (.inf _) => if neg then 0 else 7
  | .num (.zero _) => if neg then 3 else 4
  | .num (.val _ _ _ _) =>
    if isSubnormal f p then (if neg then 2 else 5) else (if neg then 1 else 6)

/-- VSCALE: a·2^k rounded once (R349). Beyond 8000 either way every finite a of these formats overflows, or is tiny, in
the same way (R222), so k counts up to there. -/
def fscale (f : Fmt) (c : FpCtl) (a : Nat) (k : Int) : Nat × Flags5 :=
  fpOp f c [a] fun
    | [.val s n d e] => some (.val s n d (e + max (-8000) (min 8000 k)))
    | [x] => some x
    | _ => none

/-! ### Special functions (R347) -/

/-- The fraction bits of log2 m for m = x/2^w in [1, 2), by repeated squaring. -/
def log2Bits (w : Nat) : Nat → Nat → Nat → Nat
  | 0, _, acc => acc
  | k + 1, x, acc =>
    let y := x * x / 2 ^ w
    if 2 ^ (w + 1) ≤ y then log2Bits w k (y / 2) (2 * acc + 1) else log2Bits w k y (2 * acc)

/-- 2^(f/2^n) for 0 ≤ f < 2^n, scaled by 2^w: the product of the repeated square roots of 2 that the bits of f choose. -/
def exp2Bits (w : Nat) (f : Nat) : Nat → Nat → Nat → Nat
  | 0, _, acc => acc
  | n + 1, root, acc =>
    let root' := isqrt (root * 2 ^ w)
    exp2Bits w f n root' (if f.testBit n then acc * root' / 2 ^ w else acc)

/-- log2 e scaled by 2^512, for tanh from powers of two. -/
def log2e512 : Nat := 19343378009719902942903021401932455642795157619099781112206266958471486723471885689150254724994041798571814804231958903428740156015579732605690696404202342

/-- 2^(n/2^k) scaled by 2^w, for a nonnegative exponent given in parts of 2^k: an integer and a power. -/
def exp2Fix (w n k : Nat) : Nat × Int :=
  (exp2Bits w (n % 2 ^ k) k (2 ^ (w + 1)) (2 ^ w), (n / 2 ^ k : Nat))

/-- A value y near `num/2^k`: anywhere from one unit below to one unit above the cell of width 2^u that holds it, as the
free 32 bits choose; at the top of a binade, to the cell's own end, above which the next pattern lies two units on. Every
result within the bound of R347 is the rounding of such a y. -/
def nearby (num k : Nat) (u : Int) (free : BitVec 32) : Exact :=
  let cell : Int := (roundTo false num 1 (-(k : Int)) u .rtz).1
  let y := (cell - 1) * 2 ^ 32 + (if cell = 2 ^ 24 - 1 then 2 else 3) * (free.toNat : Int)
  if y = 0 then .val false 1 1 (u - 32) else .val (decide (y < 0)) y.natAbs 1 (u - 32)

/-- The special functions by opcode order: 0 rcp, 1 rsq, 2 exp2, 3 log2, 4 tanh. -/
inductive Special where
  | rcp | rsq | exp2 | log2 | tanh
  deriving DecidableEq, Repr
/-- The number under which Config.special knows a function. -/
def Special.code : Special → Nat
  | .rcp => 0 | .rsq => 1 | .exp2 => 2 | .log2 => 3 | .tanh => 4

/-- floor(log2 |f|) − 23, the ulp of R347, of a positive fixed-point value. -/
def ulpOf (num k : Nat) : Int := (num.log2 : Int) - k - 23

/-- The value y of R347 for a finite nonzero x = ±n·2^e, and whether the result is exact (no NX). `bits` are the FP32
bits of |x|. The position of y within the bound is Config.special's; exact cases have none. -/
def specialY (fn : Special) (neg : Bool) (n : Nat) (e : Int) (bits : Nat) : Option (Exact × Bool) :=
  let free := Config.special fn.code (if neg && (fn = .exp2) then bits + 2 ^ 31 else bits)
  let p2 := n = 2 ^ n.log2      -- n is a power of two
  let k := (n.log2 : Int) + e
  match fn with
  | .rcp =>
    if p2 then some (.val neg 1 1 (-k), true)
    else
      -- 1/x lies strictly between two FP32 neighbours; y lies between them
      let lg := -(k + 1)
      let q := lg - 23
      let lo := (roundTo false 1 n (-e) q .rtz).1
      some (.val neg (lo * 2 ^ 32 + free.toNat) 1 (q - 32), false)
  | .rsq =>
    if neg then none
    else if p2 && k % 2 = 0 then some (.val false 1 1 (-(k / 2)), true)
    else
      -- 1/sqrt(x) = sqrt(1/x): the floor from the integer square root of 2^400/x
      let j : Int := 400 + e % 2
      let r := isqrt (2 ^ j.toNat / n)
      let ex : Int := -((e + j) / 2)
      let q : Int := (r.log2 : Int) + ex - 23
      let lo := (roundTo false r 1 ex q .rtz).1
      some (.val false (lo * 2 ^ 32 + free.toNat) 1 (q - 32), false)
  | .exp2 =>
    -- x = ±n·2^e
    if 0 ≤ e && decide (k ≤ 10) || (e < 0 && n % 2 ^ (-e).toNat = 0) then
      let i : Int := if 0 ≤ e then (n * 2 ^ e.toNat : Nat) else (n / 2 ^ (-e).toNat : Nat)
      some (.val false 1 1 (if neg then -i else i), true)
    else if k > 10 then some (.val false 3 2 (if neg then -2000 else 2000), false)
    else
      let d := (-e).toNat
      let i : Int := if neg then -((n / 2 ^ d : Nat) : Int) - 1 else (n / 2 ^ d : Nat)
      let fr := if neg then 2 ^ d - n % 2 ^ d else n % 2 ^ d
      let y := (exp2Bits 320 fr d (2 ^ 321) (2 ^ 320))
      match nearby y 320 (-23) free with
      | .val s a b x => some (.val s a b (x + i), false)
      | x => some (x, false)
  | .log2 =>
    if neg then none
    else if p2 then some (if k = 0 then .zero false else .val (decide (k < 0)) k.natAbs 1 0, true)
    else
      let m := n * 2 ^ 320 / 2 ^ n.log2
      let fr := log2Bits 320 96 m 0
      let f : Int := k * 2 ^ 96 + fr      -- log2 x in parts of 2^96
      let u := max (ulpOf f.natAbs 96) (-23)
      match nearby f.natAbs 96 u free with
      | .val s a b x => some (.val (s != decide (f < 0)) a b x, false)
      | x => some (x, false)
  | .tanh =>
    -- tanh |x| = (E − 1)/(E + 1), E = 2^(2|x| log2 e); |x| of 64 and more is 1 within the bound
    let num :=
      if k ≥ 6 then 2 ^ 400 - 1
      else
        let z := 2 * n * log2e512                          -- 2|x| log2 e = z·2^(e − 512)
        let zf := if 0 ≤ e then z * 2 ^ e.toNat else z / 2 ^ (-e).toNat
        let (a, i) := exp2Fix 700 zf 512
        let big := a * 2 ^ i.toNat
        (big - 2 ^ 700) * 2 ^ 400 / (big + 2 ^ 700)
    let u := max (ulpOf num 400) (-25)
    match nearby num 400 u free with
    | .val s a b x => some (.val (s != neg) a b x, false)
    | x => some (x, false)

/-- The results at zeros and infinities (R347's table): none for an invalid operation. -/
def specialEdge (fn : Special) : Exact → Option (Exact × Flags5)
  | .zero s => match fn with
    | .rcp => some (.inf s, Flags5.dz)
    | .rsq => some (.inf s, Flags5.dz)
    | .exp2 => some (.val false 1 1 0, 0)
    | .log2 => some (.inf true, Flags5.dz)
    | .tanh => some (.zero s, 0)
  | .inf s => match fn with
    | .rcp => some (.zero s, 0)
    | .rsq => if s then none else some (.zero false, 0)
    | .exp2 => some (if s then .zero false else .inf false, 0)
    | .log2 => if s then none else some (.inf false, 0)
    | .tanh => some (.val s 1 1 0, 0)
  | .val _ _ _ _ => none

/-- VFRCP, VFRSQ, VFEXP2, VFLOG2 and VFTANH (R347), for BF16 and FP32 patterns. -/
def fspecial (f : Fmt) (c : FpCtl) (fn : Special) (a : Nat) : Nat × Flags5 :=
  let a := dazIn f c.daz a
  match firstNan f [a] with
  | some r => r
  | none =>
    match exactOf f a with
    | .val s n _ e =>
      let wide := (rnd .fp32 .rne (.val false n 1 e)).1    -- |x| as FP32, exact (R347)
      match specialY fn s n e wide with
      | none => invalid f
      | some (y, exact) =>
        let r := rndOp f c c.rm y
        let mag := r.1 % 2 ^ (f.width - 1)
        if exact then r
        else if 0 < mag ∧ mag ≤ f.maxPat then (r.1, r.2 ||| Flags5.nx) else r
    | x => match specialEdge fn x with
      | none => invalid f
      | some (y, fl) => let r := rnd f c.rm y; (r.1, r.2 ||| fl)

/-! ### Conversion (R351) -/

/-- The format of a float type code (R216). -/
def fmtOf (t : Nat) : Option Fmt :=
  match t with
  | 0 => some .bf16 | 1 => some .e4m3 | 2 => some .e5m2 | 3 => some .e2m1 | 5 => some .fp32 | 6 => some .fp64
  | _ => none

/-- The format of a type of class F (R338). -/
def fmtF (t : BitVec 4) : Fmt := (fmtOf t.toNat).getD .fp32

/-- Whether an integer code is signed, and every non-integer code (R316). -/
def tySigned (t : Nat) : Bool := t < 8 || t % 2 = 0

/-- An integer clamped to the range of an n-bit type (R220). -/
def clampTo (signed : Bool) (n : Nat) (x : Int) : Int :=
  let lo : Int := if signed then -(2 ^ (n - 1)) else 0
  let hi : Int := if signed then 2 ^ (n - 1) - 1 else 2 ^ n - 1
  max lo (min hi x)

/-- The integer that a value rounds to, and whether it was exact. -/
def roundInt (rm : Rm) (neg : Bool) (n d : Nat) (e : Int) : Int × Bool :=
  let (m, ex) := roundTo neg n d e 0 rm
  (if neg then -(m : Int) else m, ex)

/-- conv(x) of R351: source and destination type codes and widths, SAT, the mode. Between equal narrow types a NaN is unchanged. -/
def conv (c : FpCtl) (rm : Rm) (src dst : Nat) (sat : Bool) (p : Nat) : Nat × Flags5 :=
  let nd := tyBits dst
  match fmtOf src, fmtOf dst with
  | some fs, some fd =>
    let fd := match fd, sat with | .e4m3, true => Fmt.e4m3sat | f, _ => f
    let p := dazIn fs c.daz p
    match decodeNum fs p with
    | .nan s => (if src = dst && !fs.isMain then p else nanTo fs fd p, if s || fd = .e2m1 then Flags5.nv else 0)
    | .num x => ftzOut fd c.ftz (rnd fd rm x)
  | none, some fd =>
    let fd := match fd, sat with | .e4m3, true => Fmt.e4m3sat | f, _ => f
    let x : Int := if tySigned src then sextN p (tyBits src) else (p : Int)
    ftzOut fd c.ftz (rnd fd rm (if x = 0 then .zero false else .val (decide (x < 0)) x.natAbs 1 0))
  | some fs, none =>
    let p := dazIn fs c.daz p
    match decodeNum fs p with
    | .nan _ => (0, Flags5.nv)
    | .num (.zero _) => (0, 0)
    | .num (.inf s) =>
      let m : Int := 2 ^ 70
      (wrapN nd (clampTo (tySigned dst) nd (if s then -m else m)), if sat then Flags5.nx else Flags5.nv)
    | .num (.val s n d e) =>
      let (i, ex) := roundInt rm s n d e
      let j := clampTo (tySigned dst) nd i
      (wrapN nd j, if i ≠ j then (if sat then Flags5.nx else Flags5.nv) else if ex then 0 else Flags5.nx)
  | none, none =>
    let x : Int := if tySigned src then sextN p (tyBits src) else (p : Int)
    (wrapN nd (if sat then clampTo (tySigned dst) nd x else x), 0)

/-! ### Q16 (R219, R223) -/

/-- The codebook, in parts of 2^9 (R219). -/
def q16Level : Nat → Int
  | 0 => -512 | 1 => -380 | 2 => -292 | 3 => -224 | 4 => -166 | 5 => -112 | 6 => -54 | 7 => 0
  | 8 => 48 | 9 => 96 | 10 => 146 | 11 => 198 | 12 => 254 | 13 => 318 | 14 => 398 | _ => 512

/-- q16_dec: the level of an index, exactly (R223). -/
def q16Exact (i : Nat) : Exact :=
  let l := q16Level (i % 16)
  if l = 0 then .zero false else .val (decide (l < 0)) l.natAbs 1 (-9)

/-- Whether index `i` is nearer to x = s/t (in parts of 2^9) than index `j` is, an even index winning a tie. -/
def q16Nearer (x : Int) (t : Nat) (i j : Nat) : Bool :=
  let d (k : Nat) : Nat := (x - q16Level k * t).natAbs
  decide (d i < d j) || (decide (d i = d j) && i % 2 = 0)

/-- q16_enc: the index whose level lies nearest, an even index on a tie (R223). -/
def q16Enc : Exact → Nat
  | .inf true => 0
  | .inf false => 15
  | .zero _ => 7
  | .val neg n d e =>
    -- |x| in parts of 2^9 as a fraction a/b
    let k := e + 9
    let a : Nat := if 0 ≤ k then n * 2 ^ k.toNat else n
    let b : Nat := if 0 ≤ k then d else d * 2 ^ (-k).toNat
    let x : Int := if neg then -(a : Int) else a
    (List.range 16).foldl (fun best i => if q16Nearer x b i best then i else best) 0

/-- The total order in which the reckoning tree compares FP32 values: the key of R112. -/
def keyF32 (p : Nat) : Nat := if p.testBit 31 then 2 ^ 32 - 1 - p % 2 ^ 32 else p % 2 ^ 32 + 2 ^ 31

end Sys2Proof.Machine
end

