-- ==== Sys2Proof/Decode.lean ====
section
/-!
DEFINITION. Decoding (14 R265-R276): total on any words, rejecting by the decode check that fails; and the encoder
written from the same encoding tables.
-/
namespace Sys2Proof

/-- Why a bundle is illegal: the decode checks of R276. -/
inductive Reject where
  /-- Check 1: the bundle crosses a line (R268). -/
  | crossesLine
  /-- Check 2: the sync field breaks R273. -/
  | syncField
  /-- Check 3: an unassigned opcode (R274). -/
  | unassigned
  /-- Check 4: a restricted instruction in the wrong slot (R275). -/
  | wrongSlot
  /-- Check 5: X differs from what the entry requires. -/
  | wrongX
  /-- Check 6: a nonzero must-be-zero bit or a field outside its limits. -/
  | limit
  /-- Check 7: two slots name one bank (R144). -/
  | sameBank
  /-- Check 8: two slots write one register, or two activity instructions. -/
  | sameRegister
  deriving DecidableEq, Repr

/-- The number of the check, as detail byte 49 gives it (R276). -/
def Reject.number : Reject → Nat
  | .crossesLine => 1 | .syncField => 2 | .unassigned => 3 | .wrongSlot => 4
  | .wrongX => 5 | .limit => 6 | .sameBank => 7 | .sameRegister => 8

/-- What an entry says of X (R291, R319, R340, R358, R377). -/
inductive XReq where
  | no | yes | either
  deriving DecidableEq, Repr

/-- `n` bits of a word from bit `lo` up (R2). -/
def fld (w lo n : Nat) : BitVec n := BitVec.ofNat n (w / 2 ^ lo)

/-- Checks 5 and 6 of one word: X, the must-be-zero bits of the word and of its extension word, the bits that the entry
fixes at one, and the operand limits. -/
def take (req : XReq) (zeros ones extZeros : Nat) (w : Nat) (x : Option Word) (i : Instr) : Except Reject Instr :=
  if (req == .no && x.isSome) || (req == .yes && x.isNone) then .error .wrongX
  else if w &&& zeros != 0 || w &&& ones != ones || (x.getD 0).toNat &&& extZeros != 0 then .error .limit
  else if i.wellFormed then .ok i else .error .limit

/-- The slot classes of R265. -/
inductive SlotClass where
  | s | v | m | c | y
  deriving DecidableEq, Repr

/-- The parts of an encoded instruction: its class, its opcode, its fields by their lowest bit, its extension word. -/
structure Layout where
  cls : SlotClass
  op : Nat
  fields : List (Nat × Nat)
  ext : Option Word

/-- Fields placed at their lowest bits. -/
def pack (fs : List (Nat × Nat)) : Word :=
  BitVec.ofNat 32 (fs.foldr (fun f r => f.2 * 2 ^ f.1 + r) 0)

/-- A slot word of class S: the S map of R274, the entries of R291. -/
def decodeS (op w : Nat) (x : Option Word) : Except Reject Instr :=
  match op with
  | 0x0 => take .no 0x1ff 0x0 0x0 w x (.add (fld w 19 5) (fld w 14 5) (fld w 9 5))
  | 0x1 => take .no 0x1ff 0x0 0x0 w x (.sub (fld w 19 5) (fld w 14 5) (fld w 9 5))
  | 0x2 => take .no 0x1ff 0x0 0x0 w x (.mul (fld w 19 5) (fld w 14 5) (fld w 9 5))
  | 0x3 => take .no 0x1ff 0x0 0x0 w x (.mulh (fld w 19 5) (fld w 14 5) (fld w 9 5))
  | 0x4 => take .no 0x1ff 0x0 0x0 w x (.mulhu (fld w 19 5) (fld w 14 5) (fld w 9 5))
  | 0x5 => take .no 0x1ff 0x0 0x0 w x (.div (fld w 19 5) (fld w 14 5) (fld w 9 5))
  | 0x6 => take .no 0x1ff 0x0 0x0 w x (.divu (fld w 19 5) (fld w 14 5) (fld w 9 5))
  | 0x7 => take .no 0x1ff 0x0 0x0 w x (.rem (fld w 19 5) (fld w 14 5) (fld w 9 5))
  | 0x8 => take .no 0x1ff 0x0 0x0 w x (.remu (fld w 19 5) (fld w 14 5) (fld w 9 5))
  | 0x9 => take .no 0x1ff 0x0 0x0 w x (.and (fld w 19 5) (fld w 14 5) (fld w 9 5))
  | 0xa => take .no 0x1ff 0x0 0x0 w x (.or (fld w 19 5) (fld w 14 5) (fld w 9 5))
  | 0xb => take .no 0x1ff 0x0 0x0 w x (.xor (fld w 19 5) (fld w 14 5) (fld w 9 5))
  | 0xc => take .no 0x1ff 0x0 0x0 w x (.shl (fld w 19 5) (fld w 14 5) (fld w 9 5))
  | 0xd => take .no 0x1ff 0x0 0x0 w x (.shr (fld w 19 5) (fld w 14 5) (fld w 9 5))
  | 0xe => take .no 0x1ff 0x0 0x0 w x (.sra (fld w 19 5) (fld w 14 5) (fld w 9 5))
  | 0xf => take .no 0x1ff 0x0 0x0 w x (.slt (fld w 19 5) (fld w 14 5) (fld w 9 5))
  | 0x10 => take .no 0x1ff 0x0 0x0 w x (.sltu (fld w 19 5) (fld w 14 5) (fld w 9 5))
  | 0x11 => take .no 0x1ff 0x0 0x0 w x (.min (fld w 19 5) (fld w 14 5) (fld w 9 5))
  | 0x12 => take .no 0x1ff 0x0 0x0 w x (.max (fld w 19 5) (fld w 14 5) (fld w 9 5))
  | 0x13 => take .no 0x3fff 0x0 0x0 w x (.clz (fld w 19 5) (fld w 14 5))
  | 0x14 => take .no 0x3fff 0x0 0x0 w x (.popc (fld w 19 5) (fld w 14 5))
  | 0x18 => take .either 0x0 0x0 0x0 w x (.addi (fld w 19 5) (fld w 14 5) (fld w 0 14) x)
  | 0x19 => take .either 0x0 0x0 0x0 w x (.andi (fld w 19 5) (fld w 14 5) (fld w 0 14) x)
  | 0x1a => take .either 0x0 0x0 0x0 w x (.ori (fld w 19 5) (fld w 14 5) (fld w 0 14) x)
  | 0x1b => take .either 0x0 0x0 0x0 w x (.xori (fld w 19 5) (fld w 14 5) (fld w 0 14) x)
  | 0x1c => take .no 0x3fc0 0x0 0x0 w x (.shli (fld w 19 5) (fld w 14 5) (fld w 0 6))
  | 0x1d => take .no 0x3fc0 0x0 0x0 w x (.shri (fld w 19 5) (fld w 14 5) (fld w 0 6))
  | 0x1e => take .no 0x3fc0 0x0 0x0 w x (.srai (fld w 19 5) (fld w 14 5) (fld w 0 6))
  | 0x1f => take .either 0x0 0x0 0x0 w x (.slti (fld w 19 5) (fld w 14 5) (fld w 0 14) x)
  | 0x20 => take .either 0x0 0x0 0x0 w x (.lih (fld w 19 5) (fld w 14 5) (fld w 0 14) x)
  | 0x28 => take .either 0x3ffc 0x0 0x0 w x (.ld (fld w 19 5) (fld w 14 5) (fld w 0 2) x)
  | 0x29 => take .either 0x3ffc 0x0 0x0 w x (.ldu (fld w 19 5) (fld w 14 5) (fld w 0 2) x)
  | 0x2a => take .either 0xf801fc 0x0 0x0 w x (.st (fld w 14 5) (fld w 9 5) (fld w 0 2) x)
  | 0x2b => take .either 0x180 0x0 0x0 w x (.samo (fld w 19 5) (fld w 14 5) (fld w 9 5) (fld w 6 1) (fld w 2 4) (fld w 0 2) x)
  | 0x30 => take .either 0x0 0x0 0x0 w x (.beq (fld w 19 5) (fld w 14 5) (fld w 0 14) x)
  | 0x31 => take .either 0x0 0x0 0x0 w x (.bne (fld w 19 5) (fld w 14 5) (fld w 0 14) x)
  | 0x32 => take .either 0x0 0x0 0x0 w x (.blt (fld w 19 5) (fld w 14 5) (fld w 0 14) x)
  | 0x33 => take .either 0x0 0x0 0x0 w x (.bge (fld w 19 5) (fld w 14 5) (fld w 0 14) x)
  | 0x34 => take .either 0x0 0x0 0x0 w x (.bltu (fld w 19 5) (fld w 14 5) (fld w 0 14) x)
  | 0x35 => take .either 0x0 0x0 0x0 w x (.bgeu (fld w 19 5) (fld w 14 5) (fld w 0 14) x)
  | 0x36 => take .either 0xf80000 0x0 0x0 w x (.j (fld w 0 19) x)
  | 0x37 => take .either 0x0 0x0 0x0 w x (.jal (fld w 19 5) (fld w 0 19) x)
  | 0x38 => take .either 0x0 0x0 0x0 w x (.jalr (fld w 19 5) (fld w 14 5) (fld w 0 14) x)
  | 0x40 => take .no 0x63fff 0x0 0x0 w x (.grd (fld w 19 5) (fld w 14 3))
  | 0x41 => take .either 0xe03fff 0x0 0x0 w x (.kset (fld w 19 2) (fld w 14 5) x)
  | 0x42 => take .no 0x7ffff 0x0 0x0 w x (.diec (fld w 19 5))
  | 0x43 => take .no 0xffffff 0x0 0x0 w x (.step)
  | 0x44 => take .no 0x3f80 0x0 0x0 w x (.spawn (fld w 19 5) (fld w 14 5) (fld w 6 1) (fld w 0 6))
  | 0x45 => take .no 0x73ffe 0x0 0x0 w x (.tlrd (fld w 19 5) (fld w 14 2) (fld w 0 1))
  | 0x46 => take .no 0x7fe00 0x0 0x0 w x (.srr (fld w 19 5) (fld w 0 9))
  | 0x47 => take .no 0xf83e00 0x0 0x0 w x (.srw (fld w 14 5) (fld w 0 9))
  | 0x48 => take .no 0xf83fc0 0x0 0x0 w x (.binit (fld w 14 5) (fld w 0 6))
  | 0x49 => take .no 0xffffc0 0x0 0x0 w x (.barr (fld w 0 6))
  | 0x4a => take .no 0xffffc0 0x0 0x0 w x (.bard (fld w 0 6))
  | 0x4b => take .no 0x7ffc0 0x0 0x0 w x (.bwait (fld w 19 5) (fld w 0 6))
  | 0x4c => take .no 0xffffc0 0x0 0x0 w x (.binv (fld w 0 6))
  | 0x50 => take .no 0xffffff 0x0 0x0 w x (.fenceS)
  | 0x51 => take .either 0xffc000 0x0 0x0 w x (.trap (fld w 0 14) x)
  | 0x52 => take .no 0xffffff 0x0 0x0 w x (.eret)
  | 0x53 => take .no 0xf83fff 0x0 0x0 w x (.halt (fld w 14 5))
  | 0x54 => take .no 0xf83e00 0x0 0x0 w x (.hostsig (fld w 14 5) (fld w 8 1) (fld w 0 8))
  | 0x55 => take .no 0xffffff 0x0 0x0 w x (.podbar)
  | 0x56 => take .no 0x3ff0 0x0 0x0 w x (.podred (fld w 19 5) (fld w 14 5) (fld w 0 4))
  | _ => .error .unassigned

/-- A slot word of class V: the V map of R274, the entries of R319, R330, R331 and R340. -/
def decodeV (op w : Nat) (x : Option Word) : Except Reject Instr :=
  let e := (x.getD 0).toNat
  match op with
  | 0x0 => take .either 0x3 0x0 0x0 w x (.vadd (fld w 20 4) (fld w 15 5) (fld w 10 5) (fld w 5 5) (fld w 2 3) x)
  | 0x1 => take .either 0x3 0x0 0x0 w x (.vsub (fld w 20 4) (fld w 15 5) (fld w 10 5) (fld w 5 5) (fld w 2 3) x)
  | 0x2 => take .either 0x3 0x0 0x0 w x (.vmul (fld w 20 4) (fld w 15 5) (fld w 10 5) (fld w 5 5) (fld w 2 3) x)
  | 0x3 => take .either 0x3 0x0 0x0 w x (.vmulh (fld w 20 4) (fld w 15 5) (fld w 10 5) (fld w 5 5) (fld w 2 3) x)
  | 0x4 => take .yes 0x3 0x0 0xffffffe0 w x (.vmad (fld w 20 4) (fld w 15 5) (fld w 10 5) (fld w 5 5) (fld w 2 3) (fld e 0 5))
  | 0x5 => take .no 0x1003e3 0x800000 0x0 w x (.vabs (fld w 21 2) (fld w 15 5) (fld w 10 5) (fld w 2 3))
  | 0x6 => take .no 0x3e3 0x0 0x0 w x (.vneg (fld w 20 4) (fld w 15 5) (fld w 10 5) (fld w 2 3))
  | 0x7 => take .either 0x3 0x0 0x0 w x (.vmin (fld w 20 4) (fld w 15 5) (fld w 10 5) (fld w 5 5) (fld w 2 3) x)
  | 0x8 => take .either 0x3 0x0 0x0 w x (.vmax (fld w 20 4) (fld w 15 5) (fld w 10 5) (fld w 5 5) (fld w 2 3) x)
  | 0x9 => take .either 0x3 0x0 0x0 w x (.vsadd (fld w 20 4) (fld w 15 5) (fld w 10 5) (fld w 5 5) (fld w 2 3) x)
  | 0xa => take .either 0x3 0x0 0x0 w x (.vssub (fld w 20 4) (fld w 15 5) (fld w 10 5) (fld w 5 5) (fld w 2 3) x)
  | 0xb => take .either 0x3 0x0 0x0 w x (.vabd (fld w 20 4) (fld w 15 5) (fld w 10 5) (fld w 5 5) (fld w 2 3) x)
  | 0xc => take .either 0x3 0x0 0x0 w x (.vshl (fld w 20 4) (fld w 15 5) (fld w 10 5) (fld w 5 5) (fld w 2 3) x)
  | 0xd => take .either 0x3 0x0 0x0 w x (.vshr (fld w 20 4) (fld w 15 5) (fld w 10 5) (fld w 5 5) (fld w 2 3) x)
  | 0xe => take .either 0x3 0x0 0x0 w x (.vsra (fld w 20 4) (fld w 15 5) (fld w 10 5) (fld w 5 5) (fld w 2 3) x)
  | 0xf => take .either 0x3 0x0 0x0 w x (.vand (fld w 20 4) (fld w 15 5) (fld w 10 5) (fld w 5 5) (fld w 2 3) x)
  | 0x10 => take .either 0x3 0x0 0x0 w x (.vor (fld w 20 4) (fld w 15 5) (fld w 10 5) (fld w 5 5) (fld w 2 3) x)
  | 0x11 => take .either 0x3 0x0 0x0 w x (.vxor (fld w 20 4) (fld w 15 5) (fld w 10 5) (fld w 5 5) (fld w 2 3) x)
  | 0x12 => take .no 0x3e3 0x0 0x0 w x (.vnot (fld w 20 4) (fld w 15 5) (fld w 10 5) (fld w 2 3))
  | 0x13 => take .no 0x3 0x0 0x0 w x (.vsel (fld w 20 4) (fld w 15 5) (fld w 10 5) (fld w 5 5) (fld w 2 3))
  | 0x14 => take .no 0x3e3 0x0 0x0 w x (.vclz (fld w 20 4) (fld w 15 5) (fld w 10 5) (fld w 2 3))
  | 0x15 => take .no 0x3e3 0x0 0x0 w x (.vpopc (fld w 20 4) (fld w 15 5) (fld w 10 5) (fld w 2 3))
  | 0x18 => take .either 0xc0000 0x0 0x0 w x (.vcmp (fld w 20 4) (fld w 15 3) (fld w 10 5) (fld w 5 5) (fld w 2 3) (fld w 0 2) x)
  | 0x19 => take .no 0xe03e2 0x0 0x0 w x (.vtest (fld w 20 4) (fld w 15 2) (fld w 10 5) (fld w 2 3) (fld w 0 1))
  | 0x1a => take .no 0xfc631f 0x0 0x0 w x (.vmand (fld w 15 3) (fld w 10 3) (fld w 5 3))
  | 0x1b => take .no 0xfc631f 0x0 0x0 w x (.vmor (fld w 15 3) (fld w 10 3) (fld w 5 3))
  | 0x1c => take .no 0xfc631f 0x0 0x0 w x (.vmxor (fld w 15 3) (fld w 10 3) (fld w 5 3))
  | 0x1d => take .no 0xfc63ff 0x0 0x0 w x (.vmnot (fld w 15 3) (fld w 10 3))
  | 0x1e => take .no 0xf863e3 0x0 0x0 w x (.vmpopc (fld w 15 4) (fld w 10 3) (fld w 2 3))
  | 0x20 => take .no 0x3e3 0x0 0x0 w x (.vmov (fld w 20 4) (fld w 15 5) (fld w 10 5) (fld w 2 3))
  | 0x21 => take .yes 0x7fe3 0x0 0x0 w x (.vmovi (fld w 20 4) (fld w 15 5) (fld w 2 3) (fld e 0 32))
  | 0x22 => take .no 0x43e2 0x0 0x0 w x (.vbroad (fld w 20 4) (fld w 15 5) (fld w 10 4) (fld w 2 3) (fld w 0 1))
  | 0x23 => take .no 0x3 0x0 0x0 w x (.vshuf (fld w 20 4) (fld w 15 5) (fld w 10 5) (fld w 5 5) (fld w 2 3))
  | 0x24 => take .either 0x203 0x0 0x0 w x (.vrotl (fld w 20 4) (fld w 15 5) (fld w 10 5) (fld w 5 4) (fld w 2 3) x)
  | 0x25 => take .either 0x8021e 0x0 0x0 w x (.vext (fld w 20 4) (fld w 15 4) (fld w 10 5) (fld w 5 4) (fld w 0 1) x)
  | 0x26 => take .either 0x421e 0x0 0x0 w x (.vins (fld w 20 4) (fld w 15 5) (fld w 10 4) (fld w 5 4) (fld w 0 1) x)
  | 0x27 => take .no 0x43e3 0x0 0x0 w x (.viota (fld w 20 4) (fld w 15 5) (fld w 10 4) (fld w 2 3))
  | 0x28 => take .no 0x7fe0 0xc00000 0x0 w x (.vcellid (fld w 20 2) (fld w 15 5) (fld w 2 3) (fld w 0 2))
  | 0x30 => take .either 0x3 0x0 0x0 w x (.vfadd (fld w 20 4) (fld w 15 5) (fld w 10 5) (fld w 5 5) (fld w 2 3) x)
  | 0x31 => take .either 0x3 0x0 0x0 w x (.vfsub (fld w 20 4) (fld w 15 5) (fld w 10 5) (fld w 5 5) (fld w 2 3) x)
  | 0x32 => take .either 0x3 0x0 0x0 w x (.vfmul (fld w 20 4) (fld w 15 5) (fld w 10 5) (fld w 5 5) (fld w 2 3) x)
  | 0x33 => take .yes 0x3 0x0 0xffffffe0 w x (.vfma (fld w 20 4) (fld w 15 5) (fld w 10 5) (fld w 5 5) (fld w 2 3) (fld e 0 5))
  | 0x34 => take .yes 0x3 0x0 0xffffffe0 w x (.vfms (fld w 20 4) (fld w 15 5) (fld w 10 5) (fld w 5 5) (fld w 2 3) (fld e 0 5))
  | 0x35 => take .yes 0x3 0x0 0xffffffe0 w x (.vfnma (fld w 20 4) (fld w 15 5) (fld w 10 5) (fld w 5 5) (fld w 2 3) (fld e 0 5))
  | 0x36 => take .either 0x3 0x0 0x0 w x (.vfmin (fld w 20 4) (fld w 15 5) (fld w 10 5) (fld w 5 5) (fld w 2 3) x)
  | 0x37 => take .either 0x3 0x0 0x0 w x (.vfmax (fld w 20 4) (fld w 15 5) (fld w 10 5) (fld w 5 5) (fld w 2 3) x)
  | 0x38 => take .no 0x3e3 0x0 0x0 w x (.vfabs (fld w 20 4) (fld w 15 5) (fld w 10 5) (fld w 2 3))
  | 0x39 => take .no 0x3e3 0x0 0x0 w x (.vfneg (fld w 20 4) (fld w 15 5) (fld w 10 5) (fld w 2 3))
  | 0x3a => take .either 0x3 0x0 0x0 w x (.vfdiv (fld w 20 4) (fld w 15 5) (fld w 10 5) (fld w 5 5) (fld w 2 3) x)
  | 0x3b => take .no 0x3e3 0x0 0x0 w x (.vfsqrt (fld w 20 4) (fld w 15 5) (fld w 10 5) (fld w 2 3))
  | 0x3c => take .no 0x3e3 0x0 0x0 w x (.vfrcp (fld w 20 4) (fld w 15 5) (fld w 10 5) (fld w 2 3))
  | 0x3d => take .no 0x3e3 0x0 0x0 w x (.vfrsq (fld w 20 4) (fld w 15 5) (fld w 10 5) (fld w 2 3))
  | 0x3e => take .no 0x3e3 0x0 0x0 w x (.vfexp2 (fld w 20 4) (fld w 15 5) (fld w 10 5) (fld w 2 3))
  | 0x3f => take .no 0x3e3 0x0 0x0 w x (.vflog2 (fld w 20 4) (fld w 15 5) (fld w 10 5) (fld w 2 3))
  | 0x40 => take .no 0x3e3 0x0 0x0 w x (.vftanh (fld w 20 4) (fld w 15 5) (fld w 10 5) (fld w 2 3))
  | 0x41 => take .no 0x3e3 0x0 0x0 w x (.vfclass (fld w 20 4) (fld w 15 5) (fld w 10 5) (fld w 2 3))
  | 0x42 => take .either 0xc0000 0x0 0x0 w x (.vfcmp (fld w 20 4) (fld w 15 3) (fld w 10 5) (fld w 5 5) (fld w 2 3) (fld w 0 2) x)
  | 0x48 => take .yes 0x3e3 0x0 0xfffff000 w x (.vcvt (fld w 20 4) (fld w 15 5) (fld w 10 5) (fld w 2 3) (fld e 0 4) (fld e 4 1) (fld e 5 3) (fld e 8 4))
  | 0x49 => take .no 0x2 0x0 0x0 w x (.vpack (fld w 20 4) (fld w 15 5) (fld w 10 5) (fld w 5 5) (fld w 2 3) (fld w 0 1))
  | 0x4a => take .no 0x3e2 0x0 0x0 w x (.vunpack (fld w 20 4) (fld w 15 5) (fld w 10 5) (fld w 2 3) (fld w 0 1))
  | 0x4b => take .either 0x3 0x0 0x0 w x (.vscale (fld w 20 4) (fld w 15 5) (fld w 10 5) (fld w 5 5) (fld w 2 3) x)
  | 0x4c => take .yes 0x203 0x0 0xfffffff8 w x (.vqenc (fld w 20 4) (fld w 15 5) (fld w 10 5) (fld w 5 4) (fld w 2 3) (fld e 0 3))
  | 0x4d => take .yes 0x3e3 0x0 0xfffffff8 w x (.vqdec (fld w 20 4) (fld w 15 5) (fld w 10 5) (fld w 2 3) (fld e 0 3))
  | 0x50 => take .no 0x3e3 0x0 0x0 w x (.vrsum (fld w 20 4) (fld w 15 5) (fld w 10 5) (fld w 2 3))
  | 0x51 => take .no 0x3e3 0x0 0x0 w x (.vrmax (fld w 20 4) (fld w 15 5) (fld w 10 5) (fld w 2 3))
  | 0x52 => take .no 0x3e3 0x0 0x0 w x (.vrmin (fld w 20 4) (fld w 15 5) (fld w 10 5) (fld w 2 3))
  | 0x53 => take .no 0x3e3 0x0 0x0 w x (.vfrsum (fld w 20 4) (fld w 15 5) (fld w 10 5) (fld w 2 3))
  | 0x54 => take .no 0x200003 0xc00000 0x0 w x (.vhash (fld w 20 1) (fld w 15 5) (fld w 10 5) (fld w 5 5) (fld w 2 3))
  | 0x58 => take .either 0x43e3 0x0 0x0 w x (.vld (fld w 20 4) (fld w 15 5) (fld w 10 4) (fld w 2 3) x)
  | 0x59 => take .either 0x43e3 0x0 0x0 w x (.vst (fld w 20 4) (fld w 15 5) (fld w 10 4) (fld w 2 3) x)
  | 0x5a => take .either 0x4203 0x0 0x0 w x (.vlds (fld w 20 4) (fld w 15 5) (fld w 10 4) (fld w 5 4) (fld w 2 3) x)
  | 0x5b => take .either 0x4203 0x0 0x0 w x (.vsts (fld w 20 4) (fld w 15 5) (fld w 10 4) (fld w 5 4) (fld w 2 3) x)
  | 0x5c => take .either 0x4002 0x0 0x0 w x (.vgath (fld w 20 4) (fld w 15 5) (fld w 10 4) (fld w 5 5) (fld w 2 3) (fld w 0 1) x)
  | 0x5d => take .either 0x4002 0x0 0x0 w x (.vscat (fld w 20 4) (fld w 15 5) (fld w 10 4) (fld w 5 5) (fld w 2 3) (fld w 0 1) x)
  | 0x5e => take .either 0x4002 0x0 0x0 w x (.vscata (fld w 20 4) (fld w 15 5) (fld w 10 4) (fld w 5 5) (fld w 2 3) (fld w 0 1) x)
  | 0x60 => take .no 0xf8421f 0x0 0x0 w x (.badd (fld w 15 4) (fld w 10 4) (fld w 5 4))
  | 0x61 => take .yes 0xf843ff 0x0 0x0 w x (.baddi (fld w 15 4) (fld w 10 4) (fld e 0 32))
  | 0x62 => take .no 0xf8421f 0x0 0x0 w x (.bsub (fld w 15 4) (fld w 10 4) (fld w 5 4))
  | 0x63 => take .no 0xf8421f 0x0 0x0 w x (.bmul (fld w 15 4) (fld w 10 4) (fld w 5 4))
  | 0x64 => take .no 0xf8421f 0x0 0x0 w x (.bshl (fld w 15 4) (fld w 10 4) (fld w 5 4))
  | 0x65 => take .no 0xf8421e 0x0 0x0 w x (.bshr (fld w 15 4) (fld w 10 4) (fld w 5 4) (fld w 0 1))
  | 0x66 => take .no 0xf8421f 0x0 0x0 w x (.band (fld w 15 4) (fld w 10 4) (fld w 5 4))
  | 0x67 => take .no 0xf8421f 0x0 0x0 w x (.bor (fld w 15 4) (fld w 10 4) (fld w 5 4))
  | 0x68 => take .no 0xf8421f 0x0 0x0 w x (.bxor (fld w 15 4) (fld w 10 4) (fld w 5 4))
  | 0x69 => take .no 0xf843ff 0x0 0x0 w x (.bmov (fld w 15 4) (fld w 10 4))
  | 0x6a => take .yes 0xf87fff 0x0 0x0 w x (.bli (fld w 15 4) (fld e 0 32))
  | 0x6b => take .no 0xfe421c 0x0 0x0 w x (.bcmp (fld w 15 2) (fld w 10 4) (fld w 5 4) (fld w 0 2))
  | 0x6c => take .either 0xf843ff 0x0 0x0 w x (.bld (fld w 15 4) (fld w 10 4) x)
  | 0x6d => take .either 0xf843ff 0x0 0x0 w x (.bst (fld w 15 4) (fld w 10 4) x)
  | 0x70 => take .no 0xfff3ff 0x0 0x0 w x (.vpushact (fld w 10 2))
  | 0x71 => take .no 0xffffff 0x0 0x0 w x (.velse)
  | 0x72 => take .no 0xffffff 0x0 0x0 w x (.vpopact)
  | _ => .error .unassigned

/-- A slot word of class M: the M map of R274, the entries of R358. -/
def decodeM (op w : Nat) (x : Option Word) : Except Reject Instr :=
  let e := (x.getD 0).toNat
  match op with
  | 0x0 => take .no 0x1ff 0x0 0x0 w x (.tmma (fld w 21 3) (fld w 18 3) (fld w 15 3) (fld w 13 2) (fld w 11 2) (fld w 10 1) (fld w 9 1))
  | 0x1 => take .no 0x79ff 0x0 0x0 w x (.tmma64 (fld w 21 3) (fld w 18 3) (fld w 15 3) (fld w 10 1) (fld w 9 1))
  | 0x8 => take .no 0x1fffff 0x0 0x0 w x (.taccz (fld w 21 3))
  | 0x9 => take .either 0x1fc07f 0x0 0x0 w x (.taccld (fld w 21 3) (fld w 10 4) (fld w 8 2) (fld w 7 1) x)
  | 0xa => take .either 0x1fc07f 0x0 0x0 w x (.taccst (fld w 21 3) (fld w 10 4) (fld w 8 2) (fld w 7 1) x)
  | 0xb => take .no 0x1fffff 0x0 0x0 w x (.taccret (fld w 21 3))
  | 0xc => take .no 0x1f83fc 0x0 0x0 w x (.taccrd (fld w 21 3) (fld w 10 5) (fld w 0 2))
  | 0xd => take .no 0x1f83fc 0x0 0x0 w x (.taccwr (fld w 21 3) (fld w 10 5) (fld w 0 2))
  | 0x10 => take .no 0x1fc3ff 0x0 0x0 w x (.tcoat (fld w 21 3) (fld w 10 4))
  | 0x11 => take .no 0xffc07f 0x0 0x0 w x (.tmon (fld w 10 4) (fld w 8 2) (fld w 7 1))
  | 0x18 => take .yes 0xe3ff81 0x0 0xe0000 w x (.qset (fld w 18 3) (fld w 6 1) (fld w 2 4) (fld w 1 1) (fld e 24 8) (fld e 20 4) (fld e 0 17))
  | 0x19 => take .no 0xe3ff00 0x0 0x0 w x (.qcommit (fld w 18 3) (fld w 0 8))
  | 0x1a => take .no 0xe3ff00 0x0 0x0 w x (.qpop (fld w 18 3) (fld w 0 8))
  | 0x1b => take .no 0xe3c3fe 0x0 0x0 w x (.qstat (fld w 18 3) (fld w 10 4) (fld w 0 1))
  | 0x1c => take .no 0xe3c300 0x0 0x0 w x (.qtwin (fld w 18 3) (fld w 10 4) (fld w 0 8))
  | _ => .error .unassigned

/-- A slot word of class C: the C map of R274, the entries of R377. -/
def decodeC (op w : Nat) (x : Option Word) : Except Reject Instr :=
  let e := (x.getD 0).toNat
  match op with
  | 0x0 => take .no 0xc4000 0x0 0x0 w x (.dcopy (fld w 20 4) (fld w 15 3) (fld w 11 3) (fld w 10 1) (fld w 4 6) (fld w 0 4))
  | 0x1 => take .either 0xfc07f0 0x0 0x0 w x (.dshape (fld w 15 3) (fld w 11 4) (fld w 0 4) x)
  | 0x2 => if (w / 8) % 2 = 1 then take .either 0xc0004 0x8 0x0 w x (.dgathSp (fld w 20 4) (fld w 15 3) (fld w 11 4) (fld w 10 1) (fld w 4 6) (fld w 0 2) x)
    else take .yes 0x8 0x0 0x0 w x (.dgath (fld w 20 4) (fld w 15 5) (fld w 11 4) (fld w 10 1) (fld w 4 6) (fld w 2 1) (fld w 0 2) (fld e 12 20) (fld e 0 12))
  | 0x3 => if (w / 8) % 2 = 1 then take .either 0xc0004 0x8 0x0 w x (.dscatSp (fld w 20 4) (fld w 15 3) (fld w 11 4) (fld w 10 1) (fld w 4 6) (fld w 0 2) x)
    else take .either 0x8 0x0 0x0 w x (.dscat (fld w 20 4) (fld w 15 5) (fld w 11 4) (fld w 10 1) (fld w 4 6) (fld w 2 1) (fld w 0 2) x)
  | 0x4 => if (w / 8) % 2 = 1 then take .either 0xc0004 0x8 0x0 w x (.dscataSp (fld w 20 4) (fld w 15 3) (fld w 11 4) (fld w 10 1) (fld w 4 6) (fld w 0 2) x)
    else take .either 0x8 0x0 0x0 w x (.dscata (fld w 20 4) (fld w 15 5) (fld w 11 4) (fld w 10 1) (fld w 4 6) (fld w 2 1) (fld w 0 2) x)
  | 0x8 => take .either 0x8000e 0x0 0x0 w x (.dst (fld w 20 4) (fld w 15 4) (fld w 11 4) (fld w 10 1) (fld w 4 6) (fld w 0 1) x)
  | 0x9 => take .either 0xf 0x0 0x0 w x (.dstv (fld w 20 4) (fld w 15 5) (fld w 11 4) (fld w 10 1) (fld w 4 6) x)
  | 0xa => take .yes 0xf 0x0 0x0 w x (.dld (fld w 20 4) (fld w 15 5) (fld w 11 4) (fld w 10 1) (fld w 4 6) (fld e 12 20) (fld e 0 12))
  | 0xb => if 9 ≤ w % 16 ∧ w % 16 ≤ 12 then take .yes 0x0 0x0 0x0 w x (.datomRet (fld w 20 4) (fld w 19 1) (fld w 15 4) (fld w 11 4) (fld w 10 1) (fld w 4 6) (fld w 0 4) (fld e 12 20) (fld e 0 12))
    else take .either 0x0 0x0 0x0 w x (.datom (fld w 20 4) (fld w 19 1) (fld w 15 4) (fld w 11 4) (fld w 10 1) (fld w 4 6) (fld w 0 4) x)
  | 0x10 => take .either 0xf0000f 0x0 0x0 w x (.dperm (fld w 15 5) (fld w 11 4) (fld w 10 1) (fld w 4 6) x)
  | 0x11 => take .either 0xf807f0 0x0 0x0 w x (.dpermcfg (fld w 15 4) (fld w 11 4) (fld w 0 4) x)
  | 0x12 => take .no 0xf047f0 0x0 0x0 w x (.dred (fld w 15 5) (fld w 11 3) (fld w 0 4))
  | 0x18 => take .either 0xff800f 0x0 0x0 w x (.dvact (fld w 11 4) (fld w 10 1) (fld w 4 6) x)
  | 0x19 => take .either 0xff800f 0x0 0x0 w x (.dvpre (fld w 11 4) (fld w 10 1) (fld w 4 6) x)
  | 0x1a => if (w / 8) % 2 = 1 then take .either 0xf80000 0x8 0x0 w x (.dvrdSp (fld w 15 4) (fld w 11 4) (fld w 10 1) (fld w 4 6) (fld w 0 3) x)
    else take .yes 0xf0000f 0x0 0x0 w x (.dvrd (fld w 15 5) (fld w 11 4) (fld w 10 1) (fld w 4 6) (fld e 12 20) (fld e 0 12))
  | 0x1b => if (w / 8) % 2 = 1 then take .either 0xf80000 0x8 0x0 w x (.dvwrSp (fld w 15 4) (fld w 11 4) (fld w 10 1) (fld w 4 6) (fld w 0 3) x)
    else take .either 0xf0000f 0x0 0x0 w x (.dvwr (fld w 15 5) (fld w 11 4) (fld w 10 1) (fld w 4 6) x)
  | 0x1c => take .either 0xff800f 0x0 0x0 w x (.dvref (fld w 11 4) (fld w 10 1) (fld w 4 6) x)
  | 0x1d => take .either 0xf80000 0x0 0x0 w x (.dvlife (fld w 15 4) (fld w 11 4) (fld w 10 1) (fld w 4 6) (fld w 0 4) x)
  | 0x20 => take .no 0xf867fe 0x0 0x0 w x (.dtlmark (fld w 15 4) (fld w 11 2) (fld w 0 1))
  | _ => .error .unassigned

/-- The sync field: R273, R392. `op` is YOP, `w` bits 18:0, `x` the second sync word. -/
def decodeYop (op w : Nat) (x : Option Word) : Except Reject Instr :=
  let e := (x.getD 0).toNat
  match op with
  | 0x1 => if x.isSome then take .yes 0x7fff 0x0 0xffff0000 w x (.ywaitfExt (fld w 15 4) (fld e 0 16))
    else take .no 0x0 0x0 0x0 w x (.ywaitf (fld w 15 4) (fld w 0 15))
  | 0x2 => take .no 0x0 0x0 0x0 w x (.ypostf (fld w 15 4) (fld w 0 15))
  | 0x3 => if (w / 2 ^ 16) % 2 = 1 then take .no 0xfff 0x10000 0x0 w x (.ywaittB (fld w 17 2) (fld w 12 4))
    else take .yes 0x1ffff 0x0 0x0 w x (.ywaitt (fld w 17 2) (fld e 0 32))
  | 0x4 => take .no 0x70000 0x0 0x0 w x (.yfence (fld w 0 16))
  | 0x5 => take .no 0x0 0x0 0x0 w x (.ylock (fld w 3 16) (fld w 0 3))
  | 0x6 => take .no 0x7ffff 0x0 0x0 w x (.yyield)
  | 0x7 => take .no 0x7ffff 0x0 0x0 w x (.ybar)
  | 0x8 => take .no 0x70000 0x0 0x0 w x (.ymark (fld w 0 16))
  | _ => .error .syncField

/-- The slot restrictions of R275: the opcodes that stand only in V0, and only in C0. -/
def v0Only (op : Nat) : Bool := decide (0x58 ≤ op ∧ op ≤ 0x5E) || op == 0x6C || op == 0x6D
/-- DPERM and DRED stand only in C0 (R275). -/
def c0Only (op : Nat) : Bool := op == 0x10 || op == 0x12

/-- The slot class, opcode and words of an instruction: its encoding (R269-R273, R291, R319, R330, R331, R340, R358, R377,
R392). A step without an encoding has none. -/
def layout : Instr → Option Layout
  | .add d a b => some ⟨.s, 0x0, [(19, d.toNat), (14, a.toNat), (9, b.toNat)], none⟩
  | .sub d a b => some ⟨.s, 0x1, [(19, d.toNat), (14, a.toNat), (9, b.toNat)], none⟩
  | .mul d a b => some ⟨.s, 0x2, [(19, d.toNat), (14, a.toNat), (9, b.toNat)], none⟩
  | .mulh d a b => some ⟨.s, 0x3, [(19, d.toNat), (14, a.toNat), (9, b.toNat)], none⟩
  | .mulhu d a b => some ⟨.s, 0x4, [(19, d.toNat), (14, a.toNat), (9, b.toNat)], none⟩
  | .div d a b => some ⟨.s, 0x5, [(19, d.toNat), (14, a.toNat), (9, b.toNat)], none⟩
  | .divu d a b => some ⟨.s, 0x6, [(19, d.toNat), (14, a.toNat), (9, b.toNat)], none⟩
  | .rem d a b => some ⟨.s, 0x7, [(19, d.toNat), (14, a.toNat), (9, b.toNat)], none⟩
  | .remu d a b => some ⟨.s, 0x8, [(19, d.toNat), (14, a.toNat), (9, b.toNat)], none⟩
  | .and d a b => some ⟨.s, 0x9, [(19, d.toNat), (14, a.toNat), (9, b.toNat)], none⟩
  | .or d a b => some ⟨.s, 0xa, [(19, d.toNat), (14, a.toNat), (9, b.toNat)], none⟩
  | .xor d a b => some ⟨.s, 0xb, [(19, d.toNat), (14, a.toNat), (9, b.toNat)], none⟩
  | .shl d a b => some ⟨.s, 0xc, [(19, d.toNat), (14, a.toNat), (9, b.toNat)], none⟩
  | .shr d a b => some ⟨.s, 0xd, [(19, d.toNat), (14, a.toNat), (9, b.toNat)], none⟩
  | .sra d a b => some ⟨.s, 0xe, [(19, d.toNat), (14, a.toNat), (9, b.toNat)], none⟩
  | .slt d a b => some ⟨.s, 0xf, [(19, d.toNat), (14, a.toNat), (9, b.toNat)], none⟩
  | .sltu d a b => some ⟨.s, 0x10, [(19, d.toNat), (14, a.toNat), (9, b.toNat)], none⟩
  | .min d a b => some ⟨.s, 0x11, [(19, d.toNat), (14, a.toNat), (9, b.toNat)], none⟩
  | .max d a b => some ⟨.s, 0x12, [(19, d.toNat), (14, a.toNat), (9, b.toNat)], none⟩
  | .clz d a => some ⟨.s, 0x13, [(19, d.toNat), (14, a.toNat)], none⟩
  | .popc d a => some ⟨.s, 0x14, [(19, d.toNat), (14, a.toNat)], none⟩
  | .addi d a i x => some ⟨.s, 0x18, [(19, d.toNat), (14, a.toNat), (0, i.toNat)], x⟩
  | .andi d a i x => some ⟨.s, 0x19, [(19, d.toNat), (14, a.toNat), (0, i.toNat)], x⟩
  | .ori d a i x => some ⟨.s, 0x1a, [(19, d.toNat), (14, a.toNat), (0, i.toNat)], x⟩
  | .xori d a i x => some ⟨.s, 0x1b, [(19, d.toNat), (14, a.toNat), (0, i.toNat)], x⟩
  | .shli d a n => some ⟨.s, 0x1c, [(19, d.toNat), (14, a.toNat), (0, n.toNat)], none⟩
  | .shri d a n => some ⟨.s, 0x1d, [(19, d.toNat), (14, a.toNat), (0, n.toNat)], none⟩
  | .srai d a n => some ⟨.s, 0x1e, [(19, d.toNat), (14, a.toNat), (0, n.toNat)], none⟩
  | .slti d a i x => some ⟨.s, 0x1f, [(19, d.toNat), (14, a.toNat), (0, i.toNat)], x⟩
  | .lih d a i x => some ⟨.s, 0x20, [(19, d.toNat), (14, a.toNat), (0, i.toNat)], x⟩
  | .ld d a z x => some ⟨.s, 0x28, [(19, d.toNat), (14, a.toNat), (0, z.toNat)], x⟩
  | .ldu d a z x => some ⟨.s, 0x29, [(19, d.toNat), (14, a.toNat), (0, z.toNat)], x⟩
  | .st a b z x => some ⟨.s, 0x2a, [(14, a.toNat), (9, b.toNat), (0, z.toNat)], x⟩
  | .samo d a b u o z x => some ⟨.s, 0x2b, [(19, d.toNat), (14, a.toNat), (9, b.toNat), (6, u.toNat), (2, o.toNat), (0, z.toNat)], x⟩
  | .beq a b o x => some ⟨.s, 0x30, [(19, a.toNat), (14, b.toNat), (0, o.toNat)], x⟩
  | .bne a b o x => some ⟨.s, 0x31, [(19, a.toNat), (14, b.toNat), (0, o.toNat)], x⟩
  | .blt a b o x => some ⟨.s, 0x32, [(19, a.toNat), (14, b.toNat), (0, o.toNat)], x⟩
  | .bge a b o x => some ⟨.s, 0x33, [(19, a.toNat), (14, b.toNat), (0, o.toNat)], x⟩
  | .bltu a b o x => some ⟨.s, 0x34, [(19, a.toNat), (14, b.toNat), (0, o.toNat)], x⟩
  | .bgeu a b o x => some ⟨.s, 0x35, [(19, a.toNat), (14, b.toNat), (0, o.toNat)], x⟩
  | .j o x => some ⟨.s, 0x36, [(0, o.toNat)], x⟩
  | .jal d o x => some ⟨.s, 0x37, [(19, d.toNat), (0, o.toNat)], x⟩
  | .jalr d a i x => some ⟨.s, 0x38, [(19, d.toNat), (14, a.toNat), (0, i.toNat)], x⟩
  | .grd d k => some ⟨.s, 0x40, [(19, d.toNat), (14, k.toNat)], none⟩
  | .kset k a x => some ⟨.s, 0x41, [(19, k.toNat), (14, a.toNat)], x⟩
  | .diec d => some ⟨.s, 0x42, [(19, d.toNat)], none⟩
  | .step => some ⟨.s, 0x43, [], none⟩
  | .spawn d a e jo => some ⟨.s, 0x44, [(19, d.toNat), (14, a.toNat), (6, e.toNat), (0, jo.toNat)], none⟩
  | .tlrd d k i => some ⟨.s, 0x45, [(19, d.toNat), (14, k.toNat), (0, i.toNat)], none⟩
  | .srr d n => some ⟨.s, 0x46, [(19, d.toNat), (0, n.toNat)], none⟩
  | .srw a n => some ⟨.s, 0x47, [(14, a.toNat), (0, n.toNat)], none⟩
  | .binit a jo => some ⟨.s, 0x48, [(14, a.toNat), (0, jo.toNat)], none⟩
  | .barr jo => some ⟨.s, 0x49, [(0, jo.toNat)], none⟩
  | .bard jo => some ⟨.s, 0x4a, [(0, jo.toNat)], none⟩
  | .bwait d jo => some ⟨.s, 0x4b, [(19, d.toNat), (0, jo.toNat)], none⟩
  | .binv jo => some ⟨.s, 0x4c, [(0, jo.toNat)], none⟩
  | .fenceS => some ⟨.s, 0x50, [], none⟩
  | .trap c x => some ⟨.s, 0x51, [(0, c.toNat)], x⟩
  | .eret => some ⟨.s, 0x52, [], none⟩
  | .halt a => some ⟨.s, 0x53, [(14, a.toNat)], none⟩
  | .hostsig a o g => some ⟨.s, 0x54, [(14, a.toNat), (8, o.toNat), (0, g.toNat)], none⟩
  | .podbar => some ⟨.s, 0x55, [], none⟩
  | .podred d a o => some ⟨.s, 0x56, [(19, d.toNat), (14, a.toNat), (0, o.toNat)], none⟩
  | .vadd t d a b m x => some ⟨.v, 0x0, [(20, t.toNat), (15, d.toNat), (10, a.toNat), (5, b.toNat), (2, m.toNat)], x⟩
  | .vsub t d a b m x => some ⟨.v, 0x1, [(20, t.toNat), (15, d.toNat), (10, a.toNat), (5, b.toNat), (2, m.toNat)], x⟩
  | .vmul t d a b m x => some ⟨.v, 0x2, [(20, t.toNat), (15, d.toNat), (10, a.toNat), (5, b.toNat), (2, m.toNat)], x⟩
  | .vmulh t d a b m x => some ⟨.v, 0x3, [(20, t.toNat), (15, d.toNat), (10, a.toNat), (5, b.toNat), (2, m.toNat)], x⟩
  | .vmad t d a b m c => some ⟨.v, 0x4, [(20, t.toNat), (15, d.toNat), (10, a.toNat), (5, b.toNat), (2, m.toNat)], (some (pack [(0, c.toNat)]))⟩
  | .vabs t d a m => some ⟨.v, 0x5, [(23, 1), (21, t.toNat), (15, d.toNat), (10, a.toNat), (2, m.toNat)], none⟩
  | .vneg t d a m => some ⟨.v, 0x6, [(20, t.toNat), (15, d.toNat), (10, a.toNat), (2, m.toNat)], none⟩
  | .vmin t d a b m x => some ⟨.v, 0x7, [(20, t.toNat), (15, d.toNat), (10, a.toNat), (5, b.toNat), (2, m.toNat)], x⟩
  | .vmax t d a b m x => some ⟨.v, 0x8, [(20, t.toNat), (15, d.toNat), (10, a.toNat), (5, b.toNat), (2, m.toNat)], x⟩
  | .vsadd t d a b m x => some ⟨.v, 0x9, [(20, t.toNat), (15, d.toNat), (10, a.toNat), (5, b.toNat), (2, m.toNat)], x⟩
  | .vssub t d a b m x => some ⟨.v, 0xa, [(20, t.toNat), (15, d.toNat), (10, a.toNat), (5, b.toNat), (2, m.toNat)], x⟩
  | .vabd t d a b m x => some ⟨.v, 0xb, [(20, t.toNat), (15, d.toNat), (10, a.toNat), (5, b.toNat), (2, m.toNat)], x⟩
  | .vshl t d a b m x => some ⟨.v, 0xc, [(20, t.toNat), (15, d.toNat), (10, a.toNat), (5, b.toNat), (2, m.toNat)], x⟩
  | .vshr t d a b m x => some ⟨.v, 0xd, [(20, t.toNat), (15, d.toNat), (10, a.toNat), (5, b.toNat), (2, m.toNat)], x⟩
  | .vsra t d a b m x => some ⟨.v, 0xe, [(20, t.toNat), (15, d.toNat), (10, a.toNat), (5, b.toNat), (2, m.toNat)], x⟩
  | .vand t d a b m x => some ⟨.v, 0xf, [(20, t.toNat), (15, d.toNat), (10, a.toNat), (5, b.toNat), (2, m.toNat)], x⟩
  | .vor t d a b m x => some ⟨.v, 0x10, [(20, t.toNat), (15, d.toNat), (10, a.toNat), (5, b.toNat), (2, m.toNat)], x⟩
  | .vxor t d a b m x => some ⟨.v, 0x11, [(20, t.toNat), (15, d.toNat), (10, a.toNat), (5, b.toNat), (2, m.toNat)], x⟩
  | .vnot t d a m => some ⟨.v, 0x12, [(20, t.toNat), (15, d.toNat), (10, a.toNat), (2, m.toNat)], none⟩
  | .vsel t d a b m => some ⟨.v, 0x13, [(20, t.toNat), (15, d.toNat), (10, a.toNat), (5, b.toNat), (2, m.toNat)], none⟩
  | .vclz t d a m => some ⟨.v, 0x14, [(20, t.toNat), (15, d.toNat), (10, a.toNat), (2, m.toNat)], none⟩
  | .vpopc t d a m => some ⟨.v, 0x15, [(20, t.toNat), (15, d.toNat), (10, a.toNat), (2, m.toNat)], none⟩
  | .vcmp t d a b m c x => some ⟨.v, 0x18, [(20, t.toNat), (15, d.toNat), (10, a.toNat), (5, b.toNat), (2, m.toNat), (0, c.toNat)], x⟩
  | .vtest t d a m f => some ⟨.v, 0x19, [(20, t.toNat), (15, d.toNat), (10, a.toNat), (2, m.toNat), (0, f.toNat)], none⟩
  | .vmand d a b => some ⟨.v, 0x1a, [(15, d.toNat), (10, a.toNat), (5, b.toNat)], none⟩
  | .vmor d a b => some ⟨.v, 0x1b, [(15, d.toNat), (10, a.toNat), (5, b.toNat)], none⟩
  | .vmxor d a b => some ⟨.v, 0x1c, [(15, d.toNat), (10, a.toNat), (5, b.toNat)], none⟩
  | .vmnot d a => some ⟨.v, 0x1d, [(15, d.toNat), (10, a.toNat)], none⟩
  | .vmpopc d a m => some ⟨.v, 0x1e, [(15, d.toNat), (10, a.toNat), (2, m.toNat)], none⟩
  | .vmov t d a m => some ⟨.v, 0x20, [(20, t.toNat), (15, d.toNat), (10, a.toNat), (2, m.toNat)], none⟩
  | .vmovi t d m i => some ⟨.v, 0x21, [(20, t.toNat), (15, d.toNat), (2, m.toNat)], (some (pack [(0, i.toNat)]))⟩
  | .vbroad t d a m f => some ⟨.v, 0x22, [(20, t.toNat), (15, d.toNat), (10, a.toNat), (2, m.toNat), (0, f.toNat)], none⟩
  | .vshuf t d a b m => some ⟨.v, 0x23, [(20, t.toNat), (15, d.toNat), (10, a.toNat), (5, b.toNat), (2, m.toNat)], none⟩
  | .vrotl t d a b m x => some ⟨.v, 0x24, [(20, t.toNat), (15, d.toNat), (10, a.toNat), (5, b.toNat), (2, m.toNat)], x⟩
  | .vext t d a b h x => some ⟨.v, 0x25, [(20, t.toNat), (15, d.toNat), (10, a.toNat), (5, b.toNat), (0, h.toNat)], x⟩
  | .vins t d a b h x => some ⟨.v, 0x26, [(20, t.toNat), (15, d.toNat), (10, a.toNat), (5, b.toNat), (0, h.toNat)], x⟩
  | .viota t d a m => some ⟨.v, 0x27, [(20, t.toNat), (15, d.toNat), (10, a.toNat), (2, m.toNat)], none⟩
  | .vcellid t d m f => some ⟨.v, 0x28, [(22, 3), (20, t.toNat), (15, d.toNat), (2, m.toNat), (0, f.toNat)], none⟩
  | .vrsum t d a m => some ⟨.v, 0x50, [(20, t.toNat), (15, d.toNat), (10, a.toNat), (2, m.toNat)], none⟩
  | .vrmax t d a m => some ⟨.v, 0x51, [(20, t.toNat), (15, d.toNat), (10, a.toNat), (2, m.toNat)], none⟩
  | .vrmin t d a m => some ⟨.v, 0x52, [(20, t.toNat), (15, d.toNat), (10, a.toNat), (2, m.toNat)], none⟩
  | .vhash t d a b m => some ⟨.v, 0x54, [(22, 3), (20, t.toNat), (15, d.toNat), (10, a.toNat), (5, b.toNat), (2, m.toNat)], none⟩
  | .vld t d a m x => some ⟨.v, 0x58, [(20, t.toNat), (15, d.toNat), (10, a.toNat), (2, m.toNat)], x⟩
  | .vst t d a m x => some ⟨.v, 0x59, [(20, t.toNat), (15, d.toNat), (10, a.toNat), (2, m.toNat)], x⟩
  | .vlds t d a b m x => some ⟨.v, 0x5a, [(20, t.toNat), (15, d.toNat), (10, a.toNat), (5, b.toNat), (2, m.toNat)], x⟩
  | .vsts t d a b m x => some ⟨.v, 0x5b, [(20, t.toNat), (15, d.toNat), (10, a.toNat), (5, b.toNat), (2, m.toNat)], x⟩
  | .vgath t d a b m c x => some ⟨.v, 0x5c, [(20, t.toNat), (15, d.toNat), (10, a.toNat), (5, b.toNat), (2, m.toNat), (0, c.toNat)], x⟩
  | .vscat t d a b m c x => some ⟨.v, 0x5d, [(20, t.toNat), (15, d.toNat), (10, a.toNat), (5, b.toNat), (2, m.toNat), (0, c.toNat)], x⟩
  | .vscata t d a b m c x => some ⟨.v, 0x5e, [(20, t.toNat), (15, d.toNat), (10, a.toNat), (5, b.toNat), (2, m.toNat), (0, c.toNat)], x⟩
  | .badd d a b => some ⟨.v, 0x60, [(15, d.toNat), (10, a.toNat), (5, b.toNat)], none⟩
  | .bsub d a b => some ⟨.v, 0x62, [(15, d.toNat), (10, a.toNat), (5, b.toNat)], none⟩
  | .bmul d a b => some ⟨.v, 0x63, [(15, d.toNat), (10, a.toNat), (5, b.toNat)], none⟩
  | .bshl d a b => some ⟨.v, 0x64, [(15, d.toNat), (10, a.toNat), (5, b.toNat)], none⟩
  | .baddi d a i => some ⟨.v, 0x61, [(15, d.toNat), (10, a.toNat)], (some (pack [(0, i.toNat)]))⟩
  | .bshr d a b f => some ⟨.v, 0x65, [(15, d.toNat), (10, a.toNat), (5, b.toNat), (0, f.toNat)], none⟩
  | .band d a b => some ⟨.v, 0x66, [(15, d.toNat), (10, a.toNat), (5, b.toNat)], none⟩
  | .bor d a b => some ⟨.v, 0x67, [(15, d.toNat), (10, a.toNat), (5, b.toNat)], none⟩
  | .bxor d a b => some ⟨.v, 0x68, [(15, d.toNat), (10, a.toNat), (5, b.toNat)], none⟩
  | .bmov d a => some ⟨.v, 0x69, [(15, d.toNat), (10, a.toNat)], none⟩
  | .bli d i => some ⟨.v, 0x6a, [(15, d.toNat)], (some (pack [(0, i.toNat)]))⟩
  | .bcmp d a b c => some ⟨.v, 0x6b, [(15, d.toNat), (10, a.toNat), (5, b.toNat), (0, c.toNat)], none⟩
  | .bld d a x => some ⟨.v, 0x6c, [(15, d.toNat), (10, a.toNat)], x⟩
  | .bst d a x => some ⟨.v, 0x6d, [(15, d.toNat), (10, a.toNat)], x⟩
  | .vpushact k => some ⟨.v, 0x70, [(10, k.toNat)], none⟩
  | .velse => some ⟨.v, 0x71, [], none⟩
  | .vpopact => some ⟨.v, 0x72, [], none⟩
  | .vfadd t d a b m x => some ⟨.v, 0x30, [(20, t.toNat), (15, d.toNat), (10, a.toNat), (5, b.toNat), (2, m.toNat)], x⟩
  | .vfsub t d a b m x => some ⟨.v, 0x31, [(20, t.toNat), (15, d.toNat), (10, a.toNat), (5, b.toNat), (2, m.toNat)], x⟩
  | .vfmul t d a b m x => some ⟨.v, 0x32, [(20, t.toNat), (15, d.toNat), (10, a.toNat), (5, b.toNat), (2, m.toNat)], x⟩
  | .vfma t d a b m c => some ⟨.v, 0x33, [(20, t.toNat), (15, d.toNat), (10, a.toNat), (5, b.toNat), (2, m.toNat)], (some (pack [(0, c.toNat)]))⟩
  | .vfms t d a b m c => some ⟨.v, 0x34, [(20, t.toNat), (15, d.toNat), (10, a.toNat), (5, b.toNat), (2, m.toNat)], (some (pack [(0, c.toNat)]))⟩
  | .vfnma t d a b m c => some ⟨.v, 0x35, [(20, t.toNat), (15, d.toNat), (10, a.toNat), (5, b.toNat), (2, m.toNat)], (some (pack [(0, c.toNat)]))⟩
  | .vfmin t d a b m x => some ⟨.v, 0x36, [(20, t.toNat), (15, d.toNat), (10, a.toNat), (5, b.toNat), (2, m.toNat)], x⟩
  | .vfmax t d a b m x => some ⟨.v, 0x37, [(20, t.toNat), (15, d.toNat), (10, a.toNat), (5, b.toNat), (2, m.toNat)], x⟩
  | .vfabs t d a m => some ⟨.v, 0x38, [(20, t.toNat), (15, d.toNat), (10, a.toNat), (2, m.toNat)], none⟩
  | .vfneg t d a m => some ⟨.v, 0x39, [(20, t.toNat), (15, d.toNat), (10, a.toNat), (2, m.toNat)], none⟩
  | .vfdiv t d a b m x => some ⟨.v, 0x3a, [(20, t.toNat), (15, d.toNat), (10, a.toNat), (5, b.toNat), (2, m.toNat)], x⟩
  | .vfsqrt t d a m => some ⟨.v, 0x3b, [(20, t.toNat), (15, d.toNat), (10, a.toNat), (2, m.toNat)], none⟩
  | .vfrcp t d a m => some ⟨.v, 0x3c, [(20, t.toNat), (15, d.toNat), (10, a.toNat), (2, m.toNat)], none⟩
  | .vfrsq t d a m => some ⟨.v, 0x3d, [(20, t.toNat), (15, d.toNat), (10, a.toNat), (2, m.toNat)], none⟩
  | .vfexp2 t d a m => some ⟨.v, 0x3e, [(20, t.toNat), (15, d.toNat), (10, a.toNat), (2, m.toNat)], none⟩
  | .vflog2 t d a m => some ⟨.v, 0x3f, [(20, t.toNat), (15, d.toNat), (10, a.toNat), (2, m.toNat)], none⟩
  | .vftanh t d a m => some ⟨.v, 0x40, [(20, t.toNat), (15, d.toNat), (10, a.toNat), (2, m.toNat)], none⟩
  | .vfclass t d a m => some ⟨.v, 0x41, [(20, t.toNat), (15, d.toNat), (10, a.toNat), (2, m.toNat)], none⟩
  | .vfcmp t d a b m c x => some ⟨.v, 0x42, [(20, t.toNat), (15, d.toNat), (10, a.toNat), (5, b.toNat), (2, m.toNat), (0, c.toNat)], x⟩
  | .vcvt t d a m y s r p => some ⟨.v, 0x48, [(20, t.toNat), (15, d.toNat), (10, a.toNat), (2, m.toNat)], (some (pack [(8, p.toNat), (5, r.toNat), (4, s.toNat), (0, y.toNat)]))⟩
  | .vpack t d a b m s => some ⟨.v, 0x49, [(20, t.toNat), (15, d.toNat), (10, a.toNat), (5, b.toNat), (2, m.toNat), (0, s.toNat)], none⟩
  | .vunpack t d a m h => some ⟨.v, 0x4a, [(20, t.toNat), (15, d.toNat), (10, a.toNat), (2, m.toNat), (0, h.toNat)], none⟩
  | .vscale t d a b m x => some ⟨.v, 0x4b, [(20, t.toNat), (15, d.toNat), (10, a.toNat), (5, b.toNat), (2, m.toNat)], x⟩
  | .vqenc t d a b m p => some ⟨.v, 0x4c, [(20, t.toNat), (15, d.toNat), (10, a.toNat), (5, b.toNat), (2, m.toNat)], (some (pack [(0, p.toNat)]))⟩
  | .vqdec t d a m p => some ⟨.v, 0x4d, [(20, t.toNat), (15, d.toNat), (10, a.toNat), (2, m.toNat)], (some (pack [(0, p.toNat)]))⟩
  | .vfrsum t d a m => some ⟨.v, 0x53, [(20, t.toNat), (15, d.toNat), (10, a.toNat), (2, m.toNat)], none⟩
  | .tmma c a b f g x y => some ⟨.m, 0x0, [(21, c.toNat), (18, a.toNat), (15, b.toNat), (13, f.toNat), (11, g.toNat), (10, x.toNat), (9, y.toNat)], none⟩
  | .tmma64 c a b x y => some ⟨.m, 0x1, [(21, c.toNat), (18, a.toNat), (15, b.toNat), (10, x.toNat), (9, y.toNat)], none⟩
  | .taccz c => some ⟨.m, 0x8, [(21, c.toNat)], none⟩
  | .taccld c a f r x => some ⟨.m, 0x9, [(21, c.toNat), (10, a.toNat), (8, f.toNat), (7, r.toNat)], x⟩
  | .taccst c a f r x => some ⟨.m, 0xa, [(21, c.toNat), (10, a.toNat), (8, f.toNat), (7, r.toNat)], x⟩
  | .taccret c => some ⟨.m, 0xb, [(21, c.toNat)], none⟩
  | .taccrd c d p => some ⟨.m, 0xc, [(21, c.toNat), (10, d.toNat), (0, p.toNat)], none⟩
  | .taccwr c a p => some ⟨.m, 0xd, [(21, c.toNat), (10, a.toNat), (0, p.toNat)], none⟩
  | .tcoat c d => some ⟨.m, 0x10, [(21, c.toNat), (10, d.toNat)], none⟩
  | .tmon d s l => some ⟨.m, 0x11, [(10, d.toNat), (8, s.toNat), (7, l.toNat)], none⟩
  | .qset q s f h c z b => some ⟨.m, 0x18, [(18, q.toNat), (6, s.toNat), (2, f.toNat), (1, h.toNat)], (some (pack [(24, c.toNat), (20, z.toNat), (0, b.toNat)]))⟩
  | .qcommit q n => some ⟨.m, 0x19, [(18, q.toNat), (0, n.toNat)], none⟩
  | .qpop q n => some ⟨.m, 0x1a, [(18, q.toNat), (0, n.toNat)], none⟩
  | .qstat q d l => some ⟨.m, 0x1b, [(18, q.toNat), (10, d.toNat), (0, l.toNat)], none⟩
  | .qtwin q k i => some ⟨.m, 0x1c, [(18, q.toNat), (10, k.toNat), (0, i.toNat)], none⟩
  | .dcopy l d s e jo o => some ⟨.c, 0x0, [(20, l.toNat), (15, d.toNat), (11, s.toNat), (10, e.toNat), (4, jo.toNat), (0, o.toNat)], none⟩
  | .dshape d k f x => some ⟨.c, 0x1, [(15, d.toNat), (11, k.toNat), (0, f.toNat)], x⟩
  | .dgath l d b e jo c w f n => some ⟨.c, 0x2, [(20, l.toNat), (15, d.toNat), (11, b.toNat), (10, e.toNat), (4, jo.toNat), (2, c.toNat), (0, w.toNat)], (some (pack [(12, f.toNat), (0, n.toNat)]))⟩
  | .dgathSp l d b e jo w x => some ⟨.c, 0x2, [(20, l.toNat), (15, d.toNat), (11, b.toNat), (10, e.toNat), (4, jo.toNat), (3, 1), (0, w.toNat)], x⟩
  | .dscat l d b e jo c w x => some ⟨.c, 0x3, [(20, l.toNat), (15, d.toNat), (11, b.toNat), (10, e.toNat), (4, jo.toNat), (2, c.toNat), (0, w.toNat)], x⟩
  | .dscatSp l d b e jo w x => some ⟨.c, 0x3, [(20, l.toNat), (15, d.toNat), (11, b.toNat), (10, e.toNat), (4, jo.toNat), (3, 1), (0, w.toNat)], x⟩
  | .dscata l d b e jo c w x => some ⟨.c, 0x4, [(20, l.toNat), (15, d.toNat), (11, b.toNat), (10, e.toNat), (4, jo.toNat), (2, c.toNat), (0, w.toNat)], x⟩
  | .dscataSp l d b e jo w x => some ⟨.c, 0x4, [(20, l.toNat), (15, d.toNat), (11, b.toNat), (10, e.toNat), (4, jo.toNat), (3, 1), (0, w.toNat)], x⟩
  | .dst l d b e jo w x => some ⟨.c, 0x8, [(20, l.toNat), (15, d.toNat), (11, b.toNat), (10, e.toNat), (4, jo.toNat), (0, w.toNat)], x⟩
  | .dstv l d b e jo x => some ⟨.c, 0x9, [(20, l.toNat), (15, d.toNat), (11, b.toNat), (10, e.toNat), (4, jo.toNat)], x⟩
  | .dld l d b e jo f n => some ⟨.c, 0xa, [(20, l.toNat), (15, d.toNat), (11, b.toNat), (10, e.toNat), (4, jo.toNat)], (some (pack [(12, f.toNat), (0, n.toNat)]))⟩
  | .datom l w d b e jo o x => some ⟨.c, 0xb, [(20, l.toNat), (19, w.toNat), (15, d.toNat), (11, b.toNat), (10, e.toNat), (4, jo.toNat), (0, o.toNat)], x⟩
  | .datomRet l w d b e jo o f n => some ⟨.c, 0xb, [(20, l.toNat), (19, w.toNat), (15, d.toNat), (11, b.toNat), (10, e.toNat), (4, jo.toNat), (0, o.toNat)], (some (pack [(12, f.toNat), (0, n.toNat)]))⟩
  | .dperm s b e jo x => some ⟨.c, 0x10, [(15, s.toNat), (11, b.toNat), (10, e.toNat), (4, jo.toNat)], x⟩
  | .dpermcfg d k p x => some ⟨.c, 0x11, [(15, d.toNat), (11, k.toNat), (0, p.toNat)], x⟩
  | .dred s g o => some ⟨.c, 0x12, [(15, s.toNat), (11, g.toNat), (0, o.toNat)], none⟩
  | .dvact b e jo x => some ⟨.c, 0x18, [(11, b.toNat), (10, e.toNat), (4, jo.toNat)], x⟩
  | .dvpre b e jo x => some ⟨.c, 0x19, [(11, b.toNat), (10, e.toNat), (4, jo.toNat)], x⟩
  | .dvrd d b e jo f n => some ⟨.c, 0x1a, [(15, d.toNat), (11, b.toNat), (10, e.toNat), (4, jo.toNat)], (some (pack [(12, f.toNat), (0, n.toNat)]))⟩
  | .dvrdSp d b e jo n x => some ⟨.c, 0x1a, [(15, d.toNat), (11, b.toNat), (10, e.toNat), (4, jo.toNat), (3, 1), (0, n.toNat)], x⟩
  | .dvwr d b e jo x => some ⟨.c, 0x1b, [(15, d.toNat), (11, b.toNat), (10, e.toNat), (4, jo.toNat)], x⟩
  | .dvwrSp d b e jo n x => some ⟨.c, 0x1b, [(15, d.toNat), (11, b.toNat), (10, e.toNat), (4, jo.toNat), (3, 1), (0, n.toNat)], x⟩
  | .dvref b e jo x => some ⟨.c, 0x1c, [(11, b.toNat), (10, e.toNat), (4, jo.toNat)], x⟩
  | .dvlife c b e jo m x => some ⟨.c, 0x1d, [(15, c.toNat), (11, b.toNat), (10, e.toNat), (4, jo.toNat), (0, m.toNat)], x⟩
  | .dtlmark d k i => some ⟨.c, 0x20, [(15, d.toNat), (11, k.toNat), (0, i.toNat)], none⟩
  | .ywaitf k v => some ⟨.y, 0x1, [(15, k.toNat), (0, v.toNat)], none⟩
  | .ywaitfExt k v => some ⟨.y, 0x1, [(15, k.toNat)], (some (pack [(0, v.toNat)]))⟩
  | .ypostf k n => some ⟨.y, 0x2, [(15, k.toNat), (0, n.toNat)], none⟩
  | .ywaitt k v => some ⟨.y, 0x3, [(17, k.toNat)], (some (pack [(0, v.toNat)]))⟩
  | .ywaittB k jb => some ⟨.y, 0x3, [(17, k.toNat), (16, 1), (12, jb.toNat)], none⟩
  | .yfence m => some ⟨.y, 0x4, [(0, m.toNat)], none⟩
  | .ylock m n => some ⟨.y, 0x5, [(3, m.toNat), (0, n.toNat)], none⟩
  | .yyield => some ⟨.y, 0x6, [], none⟩
  | .ybar => some ⟨.y, 0x7, [], none⟩
  | .ymark c => some ⟨.y, 0x8, [(0, c.toNat)], none⟩
  | .powerOn => none
  | .powerRegionBringup _ => none
  | .perst => none
  | .functionLevelReset => none
  | .recoveryPin => none
  | .warm => none
  | .cold => none
  | .resetHostTimeout => none
  | .resetComplete => none
  | .tempSample _ _ => none
  | .thermalTrip _ => none
  | .plimThrottle _ => none
  | .d3hotEntry => none
  | .hostRequestError _ _ _ _ => none
  | .linkTrainingDone _ _ => none
  | .linkLoss _ => none
  | .retrain _ => none
  | .linkEnable _ _ => none
  | .replayBufferDrained _ => none
  | .podcfgWrite _ => none
  | .flitCrcFail _ => none
  | .flitArrival _ _ _ _ => none
  | .podAccessArrival _ => none
  | .podAccessTimeout => none
  | .podMessageArrival _ => none
  | .podRoundTimeout _ => none
  | .status => none
  | .enroll _ _ => none
  | .strip _ => none
  | .recover => none
  | .readrec => none
  | .quote _ => none
  | .readid => none
  | .baseupd _ => none
  | .fwctlGo => none
  | .keycmdLoad => none
  | .keycmdZero => none
  | .qctlGo => none
  | .quoteDone => none
  | .doorbell _ _ => none
  | .packetStage _ _ => none
  | .launch _ => none
  | .wait _ => none
  | .waitTimeout _ => none
  | .signal _ => none
  | .hcopy _ => none
  | .hcopyComplete _ _ => none
  | .hcopyFault _ _ _ => none
  | .fence _ => none
  | .mark _ => none
  | .recordWriteFail _ => none
  | .enable _ => none
  | .destroy _ => none
  | .destroyDrainDone _ => none
  | .retry _ => none
  | .skip _ => none
  | .sigobjWrite _ _ => none
  | .schedulerDecision => none
  | .preemptLimitExpiry _ => none
  | .saveComplete _ _ => none
  | .restoreComplete _ _ => none
  | .stepDecision _ => none
  | .kill _ => none
  | .bundleFetch _ _ => none
  | .bundleIssue _ => none
  | .bundleRetire _ _ => none
  | .barrierRelease _ => none
  | .cellFault _ _ => none
  | .freeze _ => none
  | .freezeDrainDone _ => none
  | .droopReport _ _ => none
  | .tripHoldExpiry _ _ => none
  | .landing _ _ => none
  | .landingDataArrival _ _ _ => none
  | .regionThrottle _ _ _ => none
  | .staggerStart _ _ => none
  | .handleStagingWrite _ _ _ _ => none
  | .handleCommit _ _ _ => none
  | .commitComplete _ => none
  | .rgo => none
  | .ptrootWrite _ => none
  | .tinvctlGo _ => none
  | .invalidationDone => none
  | .walkComplete _ _ => none
  | .vaultCommandStart _ _ _ _ => none
  | .vaultBurstDone _ _ _ _ _ _ _ _ => none
  | .lanetestDone _ _ _ _ _ _ _ => none
  | .emergencyRefresh _ _ _ _ => none
  | .selfRefresh _ => none
  | .streamArrival _ _ _ _ => none
  | .streamResend _ _ _ _ => none
  | .streamAck _ _ _ _ => none
  | .engineCommandComplete _ _ _ _ _ => none
  | .syncWaitComplete _ _ => none
  | .dscataApply _ _ => none
  | .dpermDeadline _ _ => none
  | .tileVerdict _ _ _ => none
  | .replay _ _ _ => none
  | .replayOrder _ _ => none
  | .twinFetchDone _ _ _ => none
  | .tileRetire _ _ _ => none
  | .tqserviceRetry _ => none
  | .tqserviceKill _ => none
  | .tqHeadWrite _ => none
  | .trapRecordWriteFail => none
  | .resume => none
  | .tqEnable _ => none
  | .contextDead _ _ => none
  | .deadDrainDone _ => none
  | .watchdog _ => none
  | .contextEnd _ => none
  | .trig => none
  | .arm => none
  | .registerWrite _ _ => none
  | .d0Entry => none
  | .vectorUnmask _ => none
  | .peerIdentity _ _ _ _ => none
  | .i3cNak _ => none
  | .fwLoadDone _ => none
  | .relocationComplete => none
  | .treeResult _ => none
  | .sequencerAccessComplete _ => none

/-- The words of an instruction: its slot word, or the header of the bundle that holds only it, and its extension or
second sync word (R265-R273). -/
def encode (i : Instr) : List Word :=
  match layout i with
  | none => []
  | some l =>
    match l.cls with
    | .y => pack ((31, b2n l.ext.isSome) :: (19, l.op) :: l.fields) :: l.ext.toList
    | _ => pack ((31, b2n l.ext.isSome) :: (24, l.op) :: l.fields) :: l.ext.toList

/-- The slots of a bundle, in the order of R267 and R276. -/
inductive SlotName where
  | s | v0 | v1 | m | c0 | c1 | y
  deriving DecidableEq, Repr

/-- The slot code of byte 41 of a freeze record (R254). -/
def SlotName.code : SlotName → Nat
  | .v0 => 0 | .v1 => 1 | .m => 2 | .c0 => 3 | .c1 => 4 | .y => 5 | .s => 6

/-- A slot word of a named slot: checks 3 to 6 (R274-R276). -/
def decodeSlot (s : SlotName) (word : Word) (x : Option Word) : Except Reject Instr :=
  let w := word.toNat % 2 ^ 24
  let op := word.toNat / 2 ^ 24 % 128
  match s with
  | .s => decodeS op w x
  | .v0 => decodeV op w x
  | .v1 => match decodeV op w x with
    | .error .unassigned => .error .unassigned
    | r => if v0Only op then .error .wrongSlot else r
  | .m => decodeM op w x
  | .c0 => decodeC op w x
  | .c1 => match decodeC op w x with
    | .error .unassigned => .error .unassigned
    | r => if c0Only op then .error .wrongSlot else r
  | .y => .error .syncField

/-- The sync field of a header and its second word: check 2 (R273). Null is no instruction. -/
def decodeSync (hdr : Word) (x : Option Word) : Except Reject (Option Instr) :=
  let y := hdr.toNat % 2 ^ 24
  if y = 0 then (if x.isSome then .error .syncField else .ok none)
  else match decodeYop (y / 2 ^ 19) (y % 2 ^ 19) x with
    | .ok i => .ok (some i)
    | .error _ => .error .syncField

/-- A slot word with its extension word, cut from a bundle. -/
structure RawSlot where
  slot : SlotName
  word : Word
  ext : Option Word
  deriving DecidableEq, Repr

/-- Cut the words of the present slots, each with its extension word; none if the words run out (R267, R268). -/
def cut : List SlotName → List Word → Option (List RawSlot × Nat)
  | [], _ => some ([], 0)
  | _ :: _, [] => none
  | s :: r, w :: ws =>
    if bit w 31 then
      match ws with
      | [] => none
      | e :: ws' => (cut r ws').map fun q => (⟨s, w, some e⟩ :: q.1, q.2 + 2)
    else (cut r ws).map fun q => (⟨s, w, none⟩ :: q.1, q.2 + 1)

/-- The registers of a cell that two slots of a bundle may not both write, and that a landing may hold (R160, R276). -/
inductive CellReg where
  | v (n : Nat) | m (n : Nat) | b (n : Nat) | c (n : Nat)
  deriving DecidableEq, Repr

/-- The cell registers an instruction writes, landing destinations among them (R276 check 8, R317, R377). -/
def writes : Instr → List CellReg
  | .add _ _ _ => []
  | .sub _ _ _ => []
  | .mul _ _ _ => []
  | .mulh _ _ _ => []
  | .mulhu _ _ _ => []
  | .div _ _ _ => []
  | .divu _ _ _ => []
  | .rem _ _ _ => []
  | .remu _ _ _ => []
  | .and _ _ _ => []
  | .or _ _ _ => []
  | .xor _ _ _ => []
  | .shl _ _ _ => []
  | .shr _ _ _ => []
  | .sra _ _ _ => []
  | .slt _ _ _ => []
  | .sltu _ _ _ => []
  | .min _ _ _ => []
  | .max _ _ _ => []
  | .clz _ _ => []
  | .popc _ _ => []
  | .addi _ _ _ _ => []
  | .andi _ _ _ _ => []
  | .ori _ _ _ _ => []
  | .xori _ _ _ _ => []
  | .shli _ _ _ => []
  | .shri _ _ _ => []
  | .srai _ _ _ => []
  | .slti _ _ _ _ => []
  | .lih _ _ _ _ => []
  | .ld _ _ _ _ => []
  | .ldu _ _ _ _ => []
  | .st _ _ _ _ => []
  | .samo _ _ _ _ _ _ _ => []
  | .beq _ _ _ _ => []
  | .bne _ _ _ _ => []
  | .blt _ _ _ _ => []
  | .bge _ _ _ _ => []
  | .bltu _ _ _ _ => []
  | .bgeu _ _ _ _ => []
  | .j _ _ => []
  | .jal _ _ _ => []
  | .jalr _ _ _ _ => []
  | .grd _ _ => []
  | .kset _ _ _ => []
  | .diec _ => []
  | .step => []
  | .spawn _ _ _ _ => []
  | .tlrd _ _ _ => []
  | .srr _ _ => []
  | .srw _ _ => []
  | .binit _ _ => []
  | .barr _ => []
  | .bard _ => []
  | .bwait _ _ => []
  | .binv _ => []
  | .fenceS => []
  | .trap _ _ => []
  | .eret => []
  | .halt _ => []
  | .hostsig _ _ _ => []
  | .podbar => []
  | .podred _ _ _ => []
  | .vadd _ d _ _ _ _ => [.v d.toNat]
  | .vsub _ d _ _ _ _ => [.v d.toNat]
  | .vmul _ d _ _ _ _ => [.v d.toNat]
  | .vmulh _ d _ _ _ _ => [.v d.toNat]
  | .vmad _ d _ _ _ _ => [.v d.toNat]
  | .vabs _ d _ _ => [.v d.toNat]
  | .vneg _ d _ _ => [.v d.toNat]
  | .vmin _ d _ _ _ _ => [.v d.toNat]
  | .vmax _ d _ _ _ _ => [.v d.toNat]
  | .vsadd _ d _ _ _ _ => [.v d.toNat]
  | .vssub _ d _ _ _ _ => [.v d.toNat]
  | .vabd _ d _ _ _ _ => [.v d.toNat]
  | .vshl _ d _ _ _ _ => [.v d.toNat]
  | .vshr _ d _ _ _ _ => [.v d.toNat]
  | .vsra _ d _ _ _ _ => [.v d.toNat]
  | .vand _ d _ _ _ _ => [.v d.toNat]
  | .vor _ d _ _ _ _ => [.v d.toNat]
  | .vxor _ d _ _ _ _ => [.v d.toNat]
  | .vnot _ d _ _ => [.v d.toNat]
  | .vsel _ d _ _ _ => [.v d.toNat]
  | .vclz _ d _ _ => [.v d.toNat]
  | .vpopc _ d _ _ => [.v d.toNat]
  | .vcmp _ d _ _ _ _ _ => [.m d.toNat]
  | .vtest _ d _ _ _ => [.c d.toNat]
  | .vmand d _ _ => [.m d.toNat]
  | .vmor d _ _ => [.m d.toNat]
  | .vmxor d _ _ => [.m d.toNat]
  | .vmnot d _ => [.m d.toNat]
  | .vmpopc d _ _ => [.b d.toNat]
  | .vmov _ d _ _ => [.v d.toNat]
  | .vmovi _ d _ _ => [.v d.toNat]
  | .vbroad _ d _ _ _ => [.v d.toNat]
  | .vshuf _ d _ _ _ => [.v d.toNat]
  | .vrotl _ d _ _ _ _ => [.v d.toNat]
  | .vext _ d _ _ _ _ => [.b d.toNat]
  | .vins _ d _ _ _ _ => [.v d.toNat]
  | .viota _ d _ _ => [.v d.toNat]
  | .vcellid _ d _ _ => [.v d.toNat]
  | .vrsum _ d _ _ => [.v d.toNat]
  | .vrmax _ d _ _ => [.v d.toNat]
  | .vrmin _ d _ _ => [.v d.toNat]
  | .vhash _ d _ _ _ => [.v d.toNat]
  | .vld _ d _ _ _ => [.v d.toNat]
  | .vst _ _ _ _ _ => []
  | .vlds _ d _ _ _ _ => [.v d.toNat]
  | .vsts _ _ _ _ _ _ => []
  | .vgath _ d _ _ _ _ _ => [.v d.toNat]
  | .vscat _ _ _ _ _ _ _ => []
  | .vscata _ _ _ _ _ _ _ => []
  | .badd d _ _ => [.b d.toNat]
  | .bsub d _ _ => [.b d.toNat]
  | .bmul d _ _ => [.b d.toNat]
  | .bshl d _ _ => [.b d.toNat]
  | .baddi d _ _ => [.b d.toNat]
  | .bshr d _ _ _ => [.b d.toNat]
  | .band d _ _ => [.b d.toNat]
  | .bor d _ _ => [.b d.toNat]
  | .bxor d _ _ => [.b d.toNat]
  | .bmov d _ => [.b d.toNat]
  | .bli d _ => [.b d.toNat]
  | .bcmp d _ _ _ => [.c d.toNat]
  | .bld d _ _ => [.b d.toNat]
  | .bst _ _ _ => []
  | .vpushact _ => []
  | .velse => []
  | .vpopact => []
  | .vfadd _ d _ _ _ _ => [.v d.toNat]
  | .vfsub _ d _ _ _ _ => [.v d.toNat]
  | .vfmul _ d _ _ _ _ => [.v d.toNat]
  | .vfma _ d _ _ _ _ => [.v d.toNat]
  | .vfms _ d _ _ _ _ => [.v d.toNat]
  | .vfnma _ d _ _ _ _ => [.v d.toNat]
  | .vfmin _ d _ _ _ _ => [.v d.toNat]
  | .vfmax _ d _ _ _ _ => [.v d.toNat]
  | .vfabs _ d _ _ => [.v d.toNat]
  | .vfneg _ d _ _ => [.v d.toNat]
  | .vfdiv _ d _ _ _ _ => [.v d.toNat]
  | .vfsqrt _ d _ _ => [.v d.toNat]
  | .vfrcp _ d _ _ => [.v d.toNat]
  | .vfrsq _ d _ _ => [.v d.toNat]
  | .vfexp2 _ d _ _ => [.v d.toNat]
  | .vflog2 _ d _ _ => [.v d.toNat]
  | .vftanh _ d _ _ => [.v d.toNat]
  | .vfclass _ d _ _ => [.v d.toNat]
  | .vfcmp _ d _ _ _ _ _ => [.m d.toNat]
  | .vcvt _ d _ _ _ _ _ _ => [.v d.toNat]
  | .vpack _ d _ _ _ _ => [.v d.toNat]
  | .vunpack _ d _ _ _ => [.v d.toNat]
  | .vscale _ d _ _ _ _ => [.v d.toNat]
  | .vqenc _ d _ _ _ _ => [.v d.toNat]
  | .vqdec _ d _ _ _ => [.v d.toNat]
  | .vfrsum _ d _ _ => [.v d.toNat]
  | .tmma _ _ _ _ _ _ _ => []
  | .tmma64 _ _ _ _ _ => []
  | .taccz _ => []
  | .taccld _ _ _ _ _ => []
  | .taccst _ _ _ _ _ => []
  | .taccret _ => []
  | .taccrd _ d _ => [.v d.toNat]
  | .taccwr _ _ _ => []
  | .tcoat _ d => [.b d.toNat]
  | .tmon d _ _ => [.b d.toNat]
  | .qset _ _ _ _ _ _ _ => []
  | .qcommit _ _ => []
  | .qpop _ _ => []
  | .qstat _ d _ => [.b d.toNat]
  | .qtwin _ _ _ => []
  | .dcopy _ _ _ _ _ _ => []
  | .dshape _ _ _ _ => []
  | .dgath _ d _ _ _ _ w _ _ => .v d.toNat :: (if w == 3 then [.v (d.toNat + 1)] else [])
  | .dgathSp _ _ _ _ _ _ _ => []
  | .dscat _ _ _ _ _ _ _ _ => []
  | .dscatSp _ _ _ _ _ _ _ => []
  | .dscata _ _ _ _ _ _ _ _ => []
  | .dscataSp _ _ _ _ _ _ _ => []
  | .dst _ _ _ _ _ _ _ => []
  | .dstv _ _ _ _ _ _ => []
  | .dld _ d _ _ _ _ _ => [.v d.toNat]
  | .datom _ _ _ _ _ _ _ _ => []
  | .datomRet _ w d _ _ _ _ _ _ => .b d.toNat :: (if w == 1 then [.b (d.toNat + 1)] else [])
  | .dperm _ _ _ _ _ => []
  | .dpermcfg d _ _ _ => [.b d.toNat, .b (d.toNat + 1)]
  | .dred _ _ _ => []
  | .dvact _ _ _ _ => []
  | .dvpre _ _ _ _ => []
  | .dvrd d _ _ _ _ _ => [.v d.toNat]
  | .dvrdSp _ _ _ _ _ _ => []
  | .dvwr _ _ _ _ _ => []
  | .dvwrSp _ _ _ _ _ _ => []
  | .dvref _ _ _ _ => []
  | .dvlife _ _ _ _ _ _ => []
  | .dtlmark d _ _ => [.b d.toNat]
  | .ywaitf _ _ => []
  | .ywaitfExt _ _ => []
  | .ypostf _ _ => []
  | .ywaitt _ _ => []
  | .ywaittB _ _ => []
  | .yfence _ => []
  | .ylock _ _ => []
  | .yyield => []
  | .ybar => []
  | .ymark _ => []
  | .powerOn => []
  | .powerRegionBringup _ => []
  | .perst => []
  | .functionLevelReset => []
  | .recoveryPin => []
  | .warm => []
  | .cold => []
  | .resetHostTimeout => []
  | .resetComplete => []
  | .tempSample _ _ => []
  | .thermalTrip _ => []
  | .plimThrottle _ => []
  | .d3hotEntry => []
  | .hostRequestError _ _ _ _ => []
  | .linkTrainingDone _ _ => []
  | .linkLoss _ => []
  | .retrain _ => []
  | .linkEnable _ _ => []
  | .replayBufferDrained _ => []
  | .podcfgWrite _ => []
  | .flitCrcFail _ => []
  | .flitArrival _ _ _ _ => []
  | .podAccessArrival _ => []
  | .podAccessTimeout => []
  | .podMessageArrival _ => []
  | .podRoundTimeout _ => []
  | .status => []
  | .enroll _ _ => []
  | .strip _ => []
  | .recover => []
  | .readrec => []
  | .quote _ => []
  | .readid => []
  | .baseupd _ => []
  | .fwctlGo => []
  | .keycmdLoad => []
  | .keycmdZero => []
  | .qctlGo => []
  | .quoteDone => []
  | .doorbell _ _ => []
  | .packetStage _ _ => []
  | .launch _ => []
  | .wait _ => []
  | .waitTimeout _ => []
  | .signal _ => []
  | .hcopy _ => []
  | .hcopyComplete _ _ => []
  | .hcopyFault _ _ _ => []
  | .fence _ => []
  | .mark _ => []
  | .recordWriteFail _ => []
  | .enable _ => []
  | .destroy _ => []
  | .destroyDrainDone _ => []
  | .retry _ => []
  | .skip _ => []
  | .sigobjWrite _ _ => []
  | .schedulerDecision => []
  | .preemptLimitExpiry _ => []
  | .saveComplete _ _ => []
  | .restoreComplete _ _ => []
  | .stepDecision _ => []
  | .kill _ => []
  | .bundleFetch _ _ => []
  | .bundleIssue _ => []
  | .bundleRetire _ _ => []
  | .barrierRelease _ => []
  | .cellFault _ _ => []
  | .freeze _ => []
  | .freezeDrainDone _ => []
  | .droopReport _ _ => []
  | .tripHoldExpiry _ _ => []
  | .landing _ _ => []
  | .landingDataArrival _ _ _ => []
  | .regionThrottle _ _ _ => []
  | .staggerStart _ _ => []
  | .handleStagingWrite _ _ _ _ => []
  | .handleCommit _ _ _ => []
  | .commitComplete _ => []
  | .rgo => []
  | .ptrootWrite _ => []
  | .tinvctlGo _ => []
  | .invalidationDone => []
  | .walkComplete _ _ => []
  | .vaultCommandStart _ _ _ _ => []
  | .vaultBurstDone _ _ _ _ _ _ _ _ => []
  | .lanetestDone _ _ _ _ _ _ _ => []
  | .emergencyRefresh _ _ _ _ => []
  | .selfRefresh _ => []
  | .streamArrival _ _ _ _ => []
  | .streamResend _ _ _ _ => []
  | .streamAck _ _ _ _ => []
  | .engineCommandComplete _ _ _ _ _ => []
  | .syncWaitComplete _ _ => []
  | .dscataApply _ _ => []
  | .dpermDeadline _ _ => []
  | .tileVerdict _ _ _ => []
  | .replay _ _ _ => []
  | .replayOrder _ _ => []
  | .twinFetchDone _ _ _ => []
  | .tileRetire _ _ _ => []
  | .tqserviceRetry _ => []
  | .tqserviceKill _ => []
  | .tqHeadWrite _ => []
  | .trapRecordWriteFail => []
  | .resume => []
  | .tqEnable _ => []
  | .contextDead _ _ => []
  | .deadDrainDone _ => []
  | .watchdog _ => []
  | .contextEnd _ => []
  | .trig => []
  | .arm => []
  | .registerWrite _ _ => []
  | .d0Entry => []
  | .vectorUnmask _ => []
  | .peerIdentity _ _ _ _ => []
  | .i3cNak _ => []
  | .fwLoadDone _ => []
  | .relocationComplete => []
  | .treeResult _ => []
  | .sequencerAccessComplete _ => []

/-- The cell registers an instruction reads (R161, R317, R377). -/
def reads : Instr → List CellReg
  | .add _ _ _ => []
  | .sub _ _ _ => []
  | .mul _ _ _ => []
  | .mulh _ _ _ => []
  | .mulhu _ _ _ => []
  | .div _ _ _ => []
  | .divu _ _ _ => []
  | .rem _ _ _ => []
  | .remu _ _ _ => []
  | .and _ _ _ => []
  | .or _ _ _ => []
  | .xor _ _ _ => []
  | .shl _ _ _ => []
  | .shr _ _ _ => []
  | .sra _ _ _ => []
  | .slt _ _ _ => []
  | .sltu _ _ _ => []
  | .min _ _ _ => []
  | .max _ _ _ => []
  | .clz _ _ => []
  | .popc _ _ => []
  | .addi _ _ _ _ => []
  | .andi _ _ _ _ => []
  | .ori _ _ _ _ => []
  | .xori _ _ _ _ => []
  | .shli _ _ _ => []
  | .shri _ _ _ => []
  | .srai _ _ _ => []
  | .slti _ _ _ _ => []
  | .lih _ _ _ _ => []
  | .ld _ _ _ _ => []
  | .ldu _ _ _ _ => []
  | .st _ _ _ _ => []
  | .samo _ _ _ _ _ _ _ => []
  | .beq _ _ _ _ => []
  | .bne _ _ _ _ => []
  | .blt _ _ _ _ => []
  | .bge _ _ _ _ => []
  | .bltu _ _ _ _ => []
  | .bgeu _ _ _ _ => []
  | .j _ _ => []
  | .jal _ _ _ => []
  | .jalr _ _ _ _ => []
  | .grd _ _ => []
  | .kset _ _ _ => []
  | .diec _ => []
  | .step => []
  | .spawn _ _ _ _ => []
  | .tlrd _ _ _ => []
  | .srr _ _ => []
  | .srw _ _ => []
  | .binit _ _ => []
  | .barr _ => []
  | .bard _ => []
  | .bwait _ _ => []
  | .binv _ => []
  | .fenceS => []
  | .trap _ _ => []
  | .eret => []
  | .halt _ => []
  | .hostsig _ _ _ => []
  | .podbar => []
  | .podred _ _ _ => []
  | .vadd _ _ a b m x => [.v a.toNat, .m m.toNat] ++ (if x.isNone then [.v b.toNat] else [])
  | .vsub _ _ a b m x => [.v a.toNat, .m m.toNat] ++ (if x.isNone then [.v b.toNat] else [])
  | .vmul _ _ a b m x => [.v a.toNat, .m m.toNat] ++ (if x.isNone then [.v b.toNat] else [])
  | .vmulh _ _ a b m x => [.v a.toNat, .m m.toNat] ++ (if x.isNone then [.v b.toNat] else [])
  | .vmad _ _ a b m c => [.v a.toNat, .m m.toNat, .v c.toNat, .v b.toNat]
  | .vabs _ _ a m => [.v a.toNat, .m m.toNat]
  | .vneg _ _ a m => [.v a.toNat, .m m.toNat]
  | .vmin _ _ a b m x => [.v a.toNat, .m m.toNat] ++ (if x.isNone then [.v b.toNat] else [])
  | .vmax _ _ a b m x => [.v a.toNat, .m m.toNat] ++ (if x.isNone then [.v b.toNat] else [])
  | .vsadd _ _ a b m x => [.v a.toNat, .m m.toNat] ++ (if x.isNone then [.v b.toNat] else [])
  | .vssub _ _ a b m x => [.v a.toNat, .m m.toNat] ++ (if x.isNone then [.v b.toNat] else [])
  | .vabd _ _ a b m x => [.v a.toNat, .m m.toNat] ++ (if x.isNone then [.v b.toNat] else [])
  | .vshl _ _ a b m x => [.v a.toNat, .m m.toNat] ++ (if x.isNone then [.v b.toNat] else [])
  | .vshr _ _ a b m x => [.v a.toNat, .m m.toNat] ++ (if x.isNone then [.v b.toNat] else [])
  | .vsra _ _ a b m x => [.v a.toNat, .m m.toNat] ++ (if x.isNone then [.v b.toNat] else [])
  | .vand _ _ a b m x => [.v a.toNat, .m m.toNat] ++ (if x.isNone then [.v b.toNat] else [])
  | .vor _ _ a b m x => [.v a.toNat, .m m.toNat] ++ (if x.isNone then [.v b.toNat] else [])
  | .vxor _ _ a b m x => [.v a.toNat, .m m.toNat] ++ (if x.isNone then [.v b.toNat] else [])
  | .vnot _ _ a m => [.v a.toNat, .m m.toNat]
  | .vsel _ _ a b m => [.v a.toNat, .m m.toNat, .v b.toNat]
  | .vclz _ _ a m => [.v a.toNat, .m m.toNat]
  | .vpopc _ _ a m => [.v a.toNat, .m m.toNat]
  | .vcmp _ _ a b m _ x => [.v a.toNat, .m m.toNat] ++ (if x.isNone then [.v b.toNat] else [])
  | .vtest _ _ a m _ => [.v a.toNat, .m m.toNat]
  | .vmand _ a b => [.m a.toNat, .m b.toNat]
  | .vmor _ a b => [.m a.toNat, .m b.toNat]
  | .vmxor _ a b => [.m a.toNat, .m b.toNat]
  | .vmnot _ a => [.m a.toNat]
  | .vmpopc _ a m => [.m a.toNat, .m m.toNat]
  | .vmov _ _ a m => [.v a.toNat, .m m.toNat]
  | .vmovi _ _ m _ => [.m m.toNat]
  | .vbroad _ _ a m f => if f == 0 then [.b a.toNat, .m m.toNat] else [.m m.toNat]
  | .vshuf _ _ a b m => [.v a.toNat, .m m.toNat, .v b.toNat]
  | .vrotl _ _ a b m x => [.v a.toNat, .m m.toNat] ++ (if x.isNone then [.b b.toNat] else [])
  | .vext _ _ a b _ x => [.v a.toNat] ++ (if x.isNone then [.b b.toNat] else [])
  | .vins _ d a b _ x => [.v d.toNat, .b a.toNat] ++ (if x.isNone then [.b b.toNat] else [])
  | .viota _ _ a m => [.b a.toNat, .m m.toNat]
  | .vcellid _ _ m _ => [.m m.toNat]
  | .vrsum _ _ a m => [.v a.toNat, .m m.toNat]
  | .vrmax _ _ a m => [.v a.toNat, .m m.toNat]
  | .vrmin _ _ a m => [.v a.toNat, .m m.toNat]
  | .vhash _ _ a b m => [.v a.toNat, .m m.toNat, .v b.toNat]
  | .vld _ _ a m _ => [.b a.toNat, .m m.toNat]
  | .vst _ d a m _ => [.v d.toNat, .b a.toNat, .m m.toNat]
  | .vlds _ _ a b m _ => [.b a.toNat, .m m.toNat, .b b.toNat]
  | .vsts _ d a b m _ => [.v d.toNat, .b a.toNat, .m m.toNat, .b b.toNat]
  | .vgath _ _ a b m _ _ => [.b a.toNat, .b (a.toNat + 1), .m m.toNat, .v b.toNat]
  | .vscat _ d a b m _ _ => [.v d.toNat, .b a.toNat, .b (a.toNat + 1), .m m.toNat, .v b.toNat]
  | .vscata _ d a b m _ _ => [.v d.toNat, .b a.toNat, .b (a.toNat + 1), .m m.toNat, .v b.toNat]
  | .badd _ a b => [.b a.toNat, .b b.toNat]
  | .bsub _ a b => [.b a.toNat, .b b.toNat]
  | .bmul _ a b => [.b a.toNat, .b b.toNat]
  | .bshl _ a b => [.b a.toNat, .b b.toNat]
  | .baddi _ a _ => [.b a.toNat]
  | .bshr _ a b _ => [.b a.toNat, .b b.toNat]
  | .band _ a b => [.b a.toNat, .b b.toNat]
  | .bor _ a b => [.b a.toNat, .b b.toNat]
  | .bxor _ a b => [.b a.toNat, .b b.toNat]
  | .bmov _ a => [.b a.toNat]
  | .bli _ _ => []
  | .bcmp _ a b _ => [.b a.toNat, .b b.toNat]
  | .bld _ a _ => [.b a.toNat]
  | .bst d a _ => [.b d.toNat, .b a.toNat]
  | .vpushact k => [.c k.toNat]
  | .velse => []
  | .vpopact => []
  | .vfadd _ _ a b m x => [.v a.toNat, .m m.toNat] ++ (if x.isNone then [.v b.toNat] else [])
  | .vfsub _ _ a b m x => [.v a.toNat, .m m.toNat] ++ (if x.isNone then [.v b.toNat] else [])
  | .vfmul _ _ a b m x => [.v a.toNat, .m m.toNat] ++ (if x.isNone then [.v b.toNat] else [])
  | .vfma _ _ a b m c => [.v a.toNat, .m m.toNat, .v c.toNat, .v b.toNat]
  | .vfms _ _ a b m c => [.v a.toNat, .m m.toNat, .v c.toNat, .v b.toNat]
  | .vfnma _ _ a b m c => [.v a.toNat, .m m.toNat, .v c.toNat, .v b.toNat]
  | .vfmin _ _ a b m x => [.v a.toNat, .m m.toNat] ++ (if x.isNone then [.v b.toNat] else [])
  | .vfmax _ _ a b m x => [.v a.toNat, .m m.toNat] ++ (if x.isNone then [.v b.toNat] else [])
  | .vfabs _ _ a m => [.v a.toNat, .m m.toNat]
  | .vfneg _ _ a m => [.v a.toNat, .m m.toNat]
  | .vfdiv _ _ a b m x => [.v a.toNat, .m m.toNat] ++ (if x.isNone then [.v b.toNat] else [])
  | .vfsqrt _ _ a m => [.v a.toNat, .m m.toNat]
  | .vfrcp _ _ a m => [.v a.toNat, .m m.toNat]
  | .vfrsq _ _ a m => [.v a.toNat, .m m.toNat]
  | .vfexp2 _ _ a m => [.v a.toNat, .m m.toNat]
  | .vflog2 _ _ a m => [.v a.toNat, .m m.toNat]
  | .vftanh _ _ a m => [.v a.toNat, .m m.toNat]
  | .vfclass _ _ a m => [.v a.toNat, .m m.toNat]
  | .vfcmp _ _ a b m _ x => [.v a.toNat, .m m.toNat] ++ (if x.isNone then [.v b.toNat] else [])
  | .vcvt _ _ a m _ _ _ _ => [.v a.toNat, .m m.toNat]
  | .vpack _ _ a b m _ => [.v a.toNat, .m m.toNat, .v b.toNat]
  | .vunpack _ _ a m _ => [.v a.toNat, .m m.toNat]
  | .vscale _ _ a b m x => [.v a.toNat, .m m.toNat] ++ (if x.isNone then [.v b.toNat] else [])
  | .vqenc _ _ a b m _ => [.v a.toNat, .m m.toNat, .b b.toNat]
  | .vqdec _ _ a m _ => [.v a.toNat, .m m.toNat]
  | .vfrsum _ _ a m => [.v a.toNat, .m m.toNat]
  | .tmma _ _ _ _ _ _ _ => []
  | .tmma64 _ _ _ _ _ => []
  | .taccz _ => []
  | .taccld _ a _ _ _ => [.b a.toNat]
  | .taccst _ a _ _ _ => [.b a.toNat]
  | .taccret _ => []
  | .taccrd _ _ _ => []
  | .taccwr _ a _ => [.v a.toNat]
  | .tcoat _ _ => []
  | .tmon _ _ _ => []
  | .qset _ _ _ _ _ _ _ => []
  | .qcommit _ _ => []
  | .qpop _ _ => []
  | .qstat _ _ _ => []
  | .qtwin _ k _ => [.b k.toNat, .b (k.toNat + 1)]
  | .dcopy _ _ _ _ _ _ => []
  | .dshape _ k f _ => if f == 0 then [.b k.toNat, .b (k.toNat + 1)] else [.b k.toNat]
  | .dgath _ d b _ _ _ w _ _ => [.b b.toNat, .b (b.toNat + 1), .b (b.toNat + 2), .v (d.toNat + (if w == 3 then 2 else 1))]
  | .dgathSp _ _ b _ _ _ _ => [.b b.toNat, .b (b.toNat + 1), .b (b.toNat + 2), .b (b.toNat + 3)]
  | .dscat _ d b _ _ _ w _ => [.b b.toNat, .b (b.toNat + 1), .b (b.toNat + 2), .v d.toNat, .v (d.toNat + 1), .v (d.toNat + (if w == 3 then 2 else 1))]
  | .dscatSp _ _ b _ _ _ _ => [.b b.toNat, .b (b.toNat + 1), .b (b.toNat + 2), .b (b.toNat + 3)]
  | .dscata _ d b _ _ _ w _ => [.b b.toNat, .b (b.toNat + 1), .b (b.toNat + 2), .v d.toNat, .v (d.toNat + 1), .v (d.toNat + (if w == 3 then 2 else 1))]
  | .dscataSp _ _ b _ _ _ _ => [.b b.toNat, .b (b.toNat + 1), .b (b.toNat + 2), .b (b.toNat + 3)]
  | .dst _ d b _ _ w _ => [.b b.toNat, .b (b.toNat + 1), .b d.toNat] ++ (if w == 1 then [.b (d.toNat + 1)] else [])
  | .dstv _ d b _ _ _ => [.b b.toNat, .b (b.toNat + 1), .v d.toNat]
  | .dld _ _ b _ _ _ _ => [.b b.toNat, .b (b.toNat + 1)]
  | .datom _ w d b _ _ _ _ => [.b b.toNat, .b (b.toNat + 1), .b d.toNat] ++ (if w == 1 then [.b (d.toNat + 1)] else [])
  | .datomRet _ w d b _ _ o _ _ => [.b b.toNat, .b (b.toNat + 1), .b d.toNat] ++ (if w == 1 || o == 10 then [.b (d.toNat + 1)] else []) ++
      (if w == 1 && o == 10 then [.b (d.toNat + 2), .b (d.toNat + 3)] else [])
  | .dperm s b _ _ _ => [.b b.toNat, .b (b.toNat + 1), .v s.toNat]
  | .dpermcfg _ k _ _ => [.b k.toNat]
  | .dred s _ o => if o == 10 then [.c s.toNat] else if s.toNat < 16 then [.b s.toNat] else []
  | .dvact b _ _ _ => [.b b.toNat, .b (b.toNat + 1)]
  | .dvpre b _ _ _ => [.b b.toNat, .b (b.toNat + 1)]
  | .dvrd _ b _ _ _ _ => [.b b.toNat, .b (b.toNat + 1)]
  | .dvrdSp d b _ _ _ _ => [.b b.toNat, .b (b.toNat + 1), .b d.toNat]
  | .dvwr d b _ _ _ => [.b b.toNat, .b (b.toNat + 1), .v d.toNat]
  | .dvwrSp d b _ _ _ _ => [.b b.toNat, .b (b.toNat + 1), .b d.toNat]
  | .dvref b _ _ _ => [.b b.toNat, .b (b.toNat + 1)]
  | .dvlife c b _ _ _ _ => [.b b.toNat, .b (b.toNat + 1), .b c.toNat]
  | .dtlmark _ _ _ => []
  | .ywaitf _ _ => []
  | .ywaitfExt _ _ => []
  | .ypostf _ _ => []
  | .ywaitt _ _ => []
  | .ywaittB _ jb => [.b jb.toNat]
  | .yfence _ => []
  | .ylock _ _ => []
  | .yyield => []
  | .ybar => []
  | .ymark _ => []
  | .powerOn => []
  | .powerRegionBringup _ => []
  | .perst => []
  | .functionLevelReset => []
  | .recoveryPin => []
  | .warm => []
  | .cold => []
  | .resetHostTimeout => []
  | .resetComplete => []
  | .tempSample _ _ => []
  | .thermalTrip _ => []
  | .plimThrottle _ => []
  | .d3hotEntry => []
  | .hostRequestError _ _ _ _ => []
  | .linkTrainingDone _ _ => []
  | .linkLoss _ => []
  | .retrain _ => []
  | .linkEnable _ _ => []
  | .replayBufferDrained _ => []
  | .podcfgWrite _ => []
  | .flitCrcFail _ => []
  | .flitArrival _ _ _ _ => []
  | .podAccessArrival _ => []
  | .podAccessTimeout => []
  | .podMessageArrival _ => []
  | .podRoundTimeout _ => []
  | .status => []
  | .enroll _ _ => []
  | .strip _ => []
  | .recover => []
  | .readrec => []
  | .quote _ => []
  | .readid => []
  | .baseupd _ => []
  | .fwctlGo => []
  | .keycmdLoad => []
  | .keycmdZero => []
  | .qctlGo => []
  | .quoteDone => []
  | .doorbell _ _ => []
  | .packetStage _ _ => []
  | .launch _ => []
  | .wait _ => []
  | .waitTimeout _ => []
  | .signal _ => []
  | .hcopy _ => []
  | .hcopyComplete _ _ => []
  | .hcopyFault _ _ _ => []
  | .fence _ => []
  | .mark _ => []
  | .recordWriteFail _ => []
  | .enable _ => []
  | .destroy _ => []
  | .destroyDrainDone _ => []
  | .retry _ => []
  | .skip _ => []
  | .sigobjWrite _ _ => []
  | .schedulerDecision => []
  | .preemptLimitExpiry _ => []
  | .saveComplete _ _ => []
  | .restoreComplete _ _ => []
  | .stepDecision _ => []
  | .kill _ => []
  | .bundleFetch _ _ => []
  | .bundleIssue _ => []
  | .bundleRetire _ _ => []
  | .barrierRelease _ => []
  | .cellFault _ _ => []
  | .freeze _ => []
  | .freezeDrainDone _ => []
  | .droopReport _ _ => []
  | .tripHoldExpiry _ _ => []
  | .landing _ _ => []
  | .landingDataArrival _ _ _ => []
  | .regionThrottle _ _ _ => []
  | .staggerStart _ _ => []
  | .handleStagingWrite _ _ _ _ => []
  | .handleCommit _ _ _ => []
  | .commitComplete _ => []
  | .rgo => []
  | .ptrootWrite _ => []
  | .tinvctlGo _ => []
  | .invalidationDone => []
  | .walkComplete _ _ => []
  | .vaultCommandStart _ _ _ _ => []
  | .vaultBurstDone _ _ _ _ _ _ _ _ => []
  | .lanetestDone _ _ _ _ _ _ _ => []
  | .emergencyRefresh _ _ _ _ => []
  | .selfRefresh _ => []
  | .streamArrival _ _ _ _ => []
  | .streamResend _ _ _ _ => []
  | .streamAck _ _ _ _ => []
  | .engineCommandComplete _ _ _ _ _ => []
  | .syncWaitComplete _ _ => []
  | .dscataApply _ _ => []
  | .dpermDeadline _ _ => []
  | .tileVerdict _ _ _ => []
  | .replay _ _ _ => []
  | .replayOrder _ _ => []
  | .twinFetchDone _ _ _ => []
  | .tileRetire _ _ _ => []
  | .tqserviceRetry _ => []
  | .tqserviceKill _ => []
  | .tqHeadWrite _ => []
  | .trapRecordWriteFail => []
  | .resume => []
  | .tqEnable _ => []
  | .contextDead _ _ => []
  | .deadDrainDone _ => []
  | .watchdog _ => []
  | .contextEnd _ => []
  | .trig => []
  | .arm => []
  | .registerWrite _ _ => []
  | .d0Entry => []
  | .vectorUnmask _ => []
  | .peerIdentity _ _ _ _ => []
  | .i3cNak _ => []
  | .fwLoadDone _ => []
  | .relocationComplete => []
  | .treeResult _ => []
  | .sequencerAccessComplete _ => []

/-- A decoded bundle: its gather bit, its slots in order, its sync operation, its length in words (R265-R267). -/
structure Bundle where
  gather : Bool
  ops : List (SlotName × Instr)
  sync : Option Instr
  words : Nat
  deriving DecidableEq, Repr

/-- The slots that a header marks present, in order (R265, R267). -/
def presentSlots (hdr : Word) : List SlotName :=
  [(24, SlotName.s), (25, .v0), (26, .v1), (27, .m), (28, .c0), (29, .c1)].filterMap
    fun p => if bit hdr p.1 then some p.2 else none

/-- b0 and m0 discard what is written to them (R141). -/
def CellReg.discards : CellReg → Bool
  | .m n => n == 0
  | .b n => n == 0
  | _ => false

/-- Check 8's activity clause: at most one activity instruction (R276, R331). -/
def isActivity : Instr → Bool
  | .vpushact _ | .velse | .vpopact => true
  | _ => false

/-- The first slot that fails the lowest-numbered check, among results of checks 3 to 6 (R276). -/
def firstReject (rs : List (SlotName × Except Reject Instr)) : Option (Reject × SlotName) :=
  rs.foldl (fun best r =>
    match r.2, best with
    | .ok _, b => b
    | .error e, none => some (e, r.1)
    | .error e, some b => if e.number < b.1.number then some (e, r.1) else some b) none

/-- The instructions of the slots that decoded. -/
def okOps (rs : List (SlotName × Except Reject Instr)) : List (SlotName × Instr) :=
  rs.filterMap fun r => match r.2 with | .ok i => some (r.1, i) | .error _ => none

/-- Check 8 over the slots in order: a register of one file written twice, or two activity instructions (R276); no slot
writes the y file of its own cell but the sync field (log 104). -/
def clash : List (SlotName × Instr) → List CellReg → Bool → Option SlotName
  | [], _, _ => none
  | (s, i) :: r, seen, act =>
    let ws := (writes i).filter (fun g => !g.discards)
    if ws.any (fun g => seen.contains g) || (isActivity i && act) then some s
    else clash r (ws ++ seen) (act || isActivity i)

/-- Decode a bundle from its header and the words that follow it in its line. A failure names the check and the slot
(7 for check 1), as detail bytes 49 and 48 of the freeze record do (R276). Check 7 cannot fail: only the one M slot
names an accumulator bank. -/
def decodeBundle (hdr : Word) (rest : List Word) : Except (Reject × Nat) Bundle :=
  let e := bit hdr 31
  let second : Option Word := if e then rest.head? else none
  let rest' := if e then rest.drop 1 else rest
  if e && rest.isEmpty then .error (.crossesLine, 7)
  else match cut (presentSlots hdr) rest' with
    | none => .error (.crossesLine, 7)
    | some (raws, n) =>
      match decodeSync hdr second with
      | .error r => .error (r, SlotName.y.code)
      | .ok sync =>
        let rs := raws.map fun r => (r.slot, decodeSlot r.slot r.word r.ext)
        match firstReject rs with
        | some (r, s) => .error (r, s.code)
        | none =>
          let ops := okOps rs
          match clash ops [] false with
          | some s => .error (.sameRegister, s.code)
          | none => .ok ⟨bit hdr 30, ops, sync, 1 + b2n e + n⟩

/-- The instruction that a word of the opcode table stands for: 24 bits are a sync field; 32 bits are tried as a slot
word of each class in the order S, V, M, C, since the table gives the word and not its slot. An extension or second word
of zeros follows where X, E or the operation asks for one. -/
def decodeTableWord (nbits w : Nat) : Option Instr :=
  let pick (r : Except Reject Instr) : Option Instr := match r with | .ok i => some i | .error _ => none
  if nbits ≤ 24 then
    let y := w % 2 ^ 24
    let f := fun x => pick (decodeYop (y / 2 ^ 19) (y % 2 ^ 19) x)
    if y = 0 then none else (f none).or (f (some 0))
  else
    let word : Word := BitVec.ofNat 32 w
    let x : Option Word := if bit word 31 then some 0 else none
    let f := fun s => pick (decodeSlot s word x)
    (f .s).or ((f .v0).or ((f .m).or (f .c0)))

end Sys2Proof
end

