-- ==== Sys2Proof/Machine/CellState.lean ====
section
/-!
DEFINITION. The state of a cell (08 R140-R162, 12 R244-R251, 18 R359, R369) and of the commands, landings and tiles it
has under way (10 R196-R204, 12 R244). Plain data.
-/
namespace Sys2Proof.Machine
open Sys2Proof

/-- Bytes by address, in one canonical form: addresses strictly rising, no entry equal to zero, which is what an
unlisted address reads as (DESIGN CHOICE for memories at power-on, log 2; R78 for scratchpads at entry). -/
abbrev Mem := List Host.Cell

/-- The causes of R252. -/
inductive Cause where
  | translationMiss | permission | twinFetch | vaultExpired
  | indexRange | earlyTouch | fpException | padRange | misaligned | addressForm | vaultProtocol | coatForm
  | activityOverflow | activityUnderflow | ringUnset
  | illegalBundle | scalarMemory | softwareTrap | specialRegister
  | preemption
  | uncorrectable | hostRequest | laneFailure | linkLoss | watchdog | saveFailure | thermalTrip | dieSet
  | podRoute | podTimeout | podMismatch | sliceRange | twinForm | doubleFault | escalated | noHandler | hostKill
  | queueDestroyed | unserviced | podPeerDead
  | vaultEvent
  deriving DecidableEq, Repr

/-- The cause codes of R252. -/
def Cause.code : Cause → Nat
  | .translationMiss => 0x01 | .permission => 0x02 | .twinFetch => 0x03 | .vaultExpired => 0x04
  | .indexRange => 0x10 | .earlyTouch => 0x11 | .fpException => 0x12 | .padRange => 0x13 | .misaligned => 0x14
  | .addressForm => 0x15 | .vaultProtocol => 0x16 | .coatForm => 0x17 | .activityOverflow => 0x18
  | .activityUnderflow => 0x19 | .ringUnset => 0x1A
  | .illegalBundle => 0x20 | .scalarMemory => 0x21 | .softwareTrap => 0x22 | .specialRegister => 0x23
  | .preemption => 0x30
  | .uncorrectable => 0x40 | .hostRequest => 0x41 | .laneFailure => 0x42 | .linkLoss => 0x43 | .watchdog => 0x44
  | .saveFailure => 0x45 | .thermalTrip => 0x46 | .dieSet => 0x47 | .podRoute => 0x48 | .podTimeout => 0x49
  | .podMismatch => 0x4A | .sliceRange => 0x4B | .twinForm => 0x4C | .doubleFault => 0x4D | .escalated => 0x4E
  | .noHandler => 0x4F | .hostKill => 0x50 | .queueDestroyed => 0x51 | .unserviced => 0x52 | .podPeerDead => 0x53
  | .vaultEvent => 0x60

/-- The classes of R252. -/
def Cause.cls (c : Cause) : Nat :=
  let k := c.code
  if k < 0x10 then 1 else if k < 0x20 then 2 else if k < 0x30 then 3 else if k < 0x40 then 6
  else if k < 0x60 then 4 else 5

/-- A precise cell fault as an operation raises it: its cause, its lane (0xFF where none applies) and the 16 detail
bytes of R254 as one number, byte 48 lowest. -/
structure CellFault where
  cause : Cause
  lane : Nat
  detail : Nat
  deriving DecidableEq, Repr

/-- An accumulator bank: its bytes, its liveness, its checkpoint shadow and its record (R140, R244, R369). -/
structure BankState where
  data : Bank
  live : Bool
  shadow : Option Bank
  record : Word
  deriving DecidableEq, Repr

/-- A ring descriptor with its read point and sticky bits (R145, R359). -/
structure Ring where
  base : BitVec 17
  tsz : BitVec 4
  cap : BitVec 8
  hold : Bool
  fmt : BitVec 4
  side : Bool
  head : BitVec 16
  tail : BitVec 16
  rp : BitVec 16
  empt : Bool
  full : Bool
  deriving DecidableEq, Repr

/-- A shape register (R146): E0-E3 hold the extents minus 1. -/
structure Shape where
  base : Xword
  e : RegFile (BitVec 16) 2
  s : RegFile Word 2
  esz : BitVec 2
  deriving DecidableEq, Repr

/-- CFLAGS (R149). -/
structure CFlags where
  fp : BitVec 5
  glost : Bool
  oobcnt : BitVec 16
  deriving DecidableEq, Repr

/-- An entry of the guard table (R158). -/
structure GuardEntry where
  lo : Nat
  hi : Nat
  tl : BitVec 2
  num : Nat
  deriving DecidableEq, Repr

/-- What a command carries, read from the registers when it starts in its C unit (R195, R375). -/
inductive CmdOp where
  /-- A command of a cell with A = 0: it sends nothing (R207). -/
  | nothing
  /-- DCOPY: source, destination, TR, whether each side is local (R378). -/
  | copy (src dst : Shape) (tr : Nat) (ls ld : Bool)
  /-- DGATH into registers: the address of each element, none where it is out of range; element size; first register. -/
  | gather (elems : List (Option Xword)) (esz : Nat) (dest : Nat)
  /-- DSCAT and DSCATA from registers: address and value of each in-range element in order of t; `add` 0 store,
  1 integer add, 2 FP32 add. -/
  | scatter (elems : List (Nat × Xword × Nat)) (esz : Nat) (add : Nat) (fp : Xword)
  /-- The scratchpad forms: base, limit, index list, local shape; `kind` 0 gather, 1 store, 2 integer add, 3 FP32 add. -/
  | indexed (kind : Nat) (base : Xword) (lim : Nat) (list : Nat) (shape : Shape) (fp : Xword)
  /-- DST and DSTV: address, bytes, and the flag it increments (R382). -/
  | store (addr : Xword) (data : List Byte) (flag : Option (BitVec 4))
  /-- DLD: 64 bytes into a vector register (R382). -/
  | load (addr : Xword) (dest : Nat)
  /-- DATOM: address, wide, operation, operand, comparand, FPCTL, flag (R383). -/
  | atom (addr : Xword) (wide : Bool) (op : Nat) (d c : Nat) (fp : Xword) (flag : Option (BitVec 4))
  /-- DPERM: destination slice address and 64 bytes (R385). -/
  | perm (addr : Xword) (data : List Byte)
  /-- Vault commands (R388). `pad` is the scratchpad offset of the scratchpad forms. -/
  | vact (bank : BitVec 2) (row : BitVec 12)
  | vpre (bank : BitVec 2)
  | vrd (bank : BitVec 2) (row : BitVec 12) (burst count : Nat) (pad : Option Nat)
  | vwr (bank : BitVec 2) (row : BitVec 12) (burst count : Nat) (pad : Option Nat) (data : List Byte)
  | vref (row : BitVec 12)
  | vlife (row : BitVec 12) (mask : BitVec 4) (count : Nat)
  deriving DecidableEq, Repr

/-- Where a command stands (R197-R204). -/
inductive CmdSt where
  /-- At its source, behind a .flag access that waits, or such an access itself (R201). -/
  | queued
  /-- On its way, or under way at its engine. -/
  | sent
  /-- In the reorder buffer of its destination (R199). -/
  | held
  /-- Refused; to be sent again (R199). -/
  | refused
  /-- Performed at its home with the value it returns; its acknowledgement or data is on its way (R200). -/
  | performed (v : Nat)
  /-- Waiting for the walk of a 4 KiB unit of virtual addresses (R179); said of a part. -/
  | walking (page : Nat)
  /-- Parked under a park ID (R255): a vault command, or a part of another. -/
  | parked (id : BitVec 12)
  /-- Waiting for a peer device's reply (R46). -/
  | remote
  /-- A DSCATA whose additions are held at their homes (R381). -/
  | holding
  /-- A vault command under way at the vault, after so many failed sendings of the burst in hand: 4 is LANETEST, 5 the
  RESEND after a swap (R188). -/
  | vault (fails : Nat)
  /-- Complete; it stays listed until every lower number of its timeline is complete (R204). -/
  | complete
  deriving DecidableEq, Repr

/-- A command that a cell has sent (R204). `done` says what it has performed: how many bursts, or, a bit for each, which of
its parts, words or elements; `buf` holds what they delivered, lowest first. -/
structure Cmd where
  tl : BitVec 2
  num : Nat
  cls : BitVec 4
  bsn : Option Nat
  join : Option (BitVec 6)
  seq : BitVec 12
  op : CmdOp
  st : CmdSt
  done : Nat
  buf : List Nat
  /-- The pipeline cycle in which it left. -/
  cyc : Nat
  /-- The words that its engine has read, each once: the number of the word, and its bytes (R195, R380). -/
  got : List (Nat × Nat)
  /-- The parts of it whose translation walks or is parked: each goes on alone (R179, R255). -/
  stalls : List (Nat × CmdSt)
  /-- What another device has been asked for: twice the number of a word read, or that of a word written plus 1. -/
  asked : Nat
  deriving DecidableEq, Repr

/-- A command leaving with its bundle: its landing count and landing destinations (R160), and the range it guards. -/
structure Leaving where
  cmd : Cmd
  land : Nat
  dests : List CellReg
  guarded : Option (Nat × Nat)
  deriving DecidableEq, Repr

/-- A reserved hawk entry: its destination, its landing cycle, the command it belongs to and its data (R160). -/
structure HawkEntry where
  dest : CellReg
  due : Nat
  tl : BitVec 2
  num : Nat
  data : Option Vec
  deriving DecidableEq, Repr

/-- The monitors of a pass (R242). -/
structure Monitors where
  sat : Nat
  ufl : Nat
  can : Nat
  deriving DecidableEq, Repr

/-- Where a tile stands between its opening and its retirement (R244-R248). -/
inductive TileSt where
  /-- Its pass is beating; the verdict is to come. -/
  | passing
  /-- Squashed: it replays at the next coat, in FIXED mode on the order (R245, R248). -/
  | squashed
  /-- The replay waits for twin images: ring A, ring B (R240). -/
  | fetching (a b : Bool)
  /-- A twin fetch of ring A (false) or B (true) is parked. -/
  | parked (id : BitVec 12) (side : Bool) (a b : Bool)
  /-- The verdict allows retirement. -/
  | ready
  deriving DecidableEq, Repr

/-- A tile of a TMMA or TMMA64 that has started and not retired (R244, R365). -/
structure Tile where
  id : Nat
  /-- The model's own number of its bundle, equal in every cell. -/
  tag : Nat
  bank : BitVec 3
  fp64 : Bool
  bsn : Option Nat
  qa : BitVec 3
  qb : BitVec 3
  /-- The rings as they stood at the start. -/
  ra : Ring
  rb : Ring
  sa : Nat
  sb : Nat
  popA : Bool
  popB : Bool
  coat : Nat
  top : Nat
  coatctl : Xword
  budget : Xword
  shadow : Bank
  /-- The scratchpad as the pass in hand first finds it (R367). -/
  pad : Mem
  /-- The words that pipelines have stored since its start, which it never reads (R154, R194). -/
  kept : List Nat
  mon : Monitors
  exceeded : Bool
  exhaust : Bool
  /-- Replays from coat 0 and from coat 1; this cell's own over-budget verdicts at coats 0 and 1. -/
  rep0 : Nat
  rep1 : Nat
  own0 : Nat
  own1 : Nat
  st : TileSt
  deriving DecidableEq, Repr

/-- A byte of a scratchpad as it stood before an engine or another agent wrote it, for the loads of bundles already issued
up to a BSN, which may have begun before that write (R159, R337). -/
structure Raced where
  upTo : Nat
  off : Nat
  old : Byte
  deriving DecidableEq, Repr

/-- A cell (R140). m0 and b0 are held as written by nothing; the accessors read them as all ones and zero. -/
structure Cell where
  v : RegFile Vec 5
  m : RegFile (BitVec 16) 3
  b : RegFile Word 4
  c : RegFile Bool 2
  act : Bool
  stack : List Bool
  acc : RegFile BankState 3
  q : RegFile Ring 3
  h : RegFile Shape 3
  y : RegFile (BitVec 16) 4
  tl : RegFile Nat 2
  issue : RegFile Nat 2
  cflags : CFlags
  rc0 : BitVec 16
  rc1 : BitVec 16
  exh : BitVec 16
  monlast : Xword
  pad : Mem
  hawk : List HawkEntry
  guards : List GuardEntry
  openRow : RegFile (Option (BitVec 12)) 2
  seqNo : RegFile (BitVec 12) 4
  cmds : List Cmd
  tiles : List Tile
  tileNo : Nat
  /-- Commands of the bundle in hand, in slot order; they leave when it retires. -/
  leaving : List Leaving
  /-- The value the bundle in hand places on the result channel (R386). -/
  contrib : Option Word
  /-- The scratchpad bytes that the slots of the bundle in hand write, each run by its first byte and its length (R154). -/
  stored : List (Nat × Nat)
  /-- What engines have overwritten since the cell's last bundle, oldest first. -/
  raced : List Raced
  /-- The commands that YFENCEs await before a C slot starts again, by timeline and number (R203). -/
  fence : List (BitVec 2 × Nat)
  /-- The BSN of the bundle whose sync wait has completed in the cell (R206, R396, R398). -/
  waited : Option Nat
  deriving DecidableEq, Repr

/-- A cell of a die whose units stand apart (R107): the cell as the slots that its units have taken leave it; the units that
are held, 0 V, 1 M, 2 C, each with the bundle it has still to take; the registers that slots held back have still to write;
whether one of them has still to act on the scratchpad. -/
structure AheadCell where
  cell : Cell
  held : List (Nat × Nat)
  owed : List CellReg
  pad : Bool
  deriving DecidableEq, Repr

/-- What the units of a die's cells have taken past its last retired bundle, while a unit of one of them is held (R107,
R109): the last bundle they have been offered, the latches and the cells. -/
structure Ahead where
  bsn : Nat
  k : RegFile Word 2
  cells : List AheadCell
  deriving DecidableEq, Repr

/-- A ring at entry: unset (R145). -/
def Ring.entry : Ring := ⟨0, 0, 0, false, 0, false, 0, 0, 0, false, false⟩
/-- A shape at entry (R146). -/
def Shape.entry : Shape := ⟨0, RegFile.fill 2 0, RegFile.fill 2 0, 0⟩
/-- A bank at entry (R140, R369). -/
def BankState.entry : BankState := ⟨0, false, none, 0⟩
/-- A cell at entry (R78, R140). -/
def Cell.entry : Cell where
  v := RegFile.fill 5 0
  m := (RegFile.fill 3 0).put 0 0xFFFF
  b := RegFile.fill 4 0
  c := RegFile.fill 2 false
  act := true
  stack := []
  acc := RegFile.fill 3 BankState.entry
  q := RegFile.fill 3 Ring.entry
  h := RegFile.fill 3 Shape.entry
  y := RegFile.fill 4 0
  tl := RegFile.fill 2 0
  issue := RegFile.fill 2 0
  cflags := ⟨0, false, 0⟩
  rc0 := 0
  rc1 := 0
  exh := 0
  monlast := 0
  pad := []
  hawk := []
  guards := []
  openRow := RegFile.fill 2 none
  seqNo := RegFile.fill 4 0
  cmds := []
  tiles := []
  tileNo := 0
  leaving := []
  contrib := none
  stored := []
  raced := []
  fence := []
  waited := none

end Sys2Proof.Machine
end

