-- ==== Sys2Proof/Machine/Mem.lean ====
section
/-!
DEFINITION. The named operations over byte memories (00 R2, 10 R191, R193): one byte, and runs of bytes lowest address
first. Every memory of the machine is read and written through these.
-/
namespace Sys2Proof.Machine
open Sys2Proof

/-- What a byte that nothing has written reads as (log 2). -/
def unlisted : Byte := 0

/-- The byte at an address. -/
def Mem.get : Mem → Nat → Byte
  | [], _ => unlisted
  | (a, v) :: r, k => if k = a then v else Mem.get r k

/-- The memory with the byte at an address replaced; the form stays canonical. -/
def Mem.set : Mem → Nat → Byte → Mem
  | [], k, v => if v = unlisted then [] else [(k, v)]
  | (a, w) :: r, k, v =>
    if k < a then (if v = unlisted then (a, w) :: r else (k, v) :: (a, w) :: r)
    else if k = a then (if v = unlisted then r else (k, v) :: r)
    else (a, w) :: Mem.set r k v

/-- The canonical form: addresses strictly rising, no entry with the unlisted value. -/
def Mem.wf : Mem → Bool
  | [] => true
  | (a, v) :: r => v != unlisted && (match r with | [] => true | (b, _) :: _ => decide (a < b)) && Mem.wf r

/-- `n` bytes from an address up. -/
def Mem.bytes (m : Mem) (a n : Nat) : List Byte := (List.range n).map fun i => m.get (a + i)

/-- `n` bytes from an address up, as a number. -/
def Mem.read (m : Mem) (a n : Nat) : Nat := ofBytes (m.bytes a n)

/-- A run of bytes written from an address up, in ascending order. -/
def Mem.putBytes : Mem → Nat → List Byte → Mem
  | m, _, [] => m
  | m, a, b :: r => Mem.putBytes (m.set a b) (a + 1) r

/-- The low `n` bytes of a number written from an address up. -/
def Mem.write (m : Mem) (a n x : Nat) : Mem := m.putBytes a (bytesOf n x)

/-- The scratchpad's size (R150). -/
def padSize : Nat := 131072

end Sys2Proof.Machine
end

