-- ==== Sys2Proof/Machine/Crypt.lean ====
section
/-!
DEFINITION. SM4 in the XTS mode of IEEE 1619 over data units of 64 bytes (09 R174). The manual names both and takes their
definitions from elsewhere (PRESUMED, log 33). Blocks and keys are numbers, byte 0 lowest.
-/
namespace Sys2Proof.Machine
open Sys2Proof

/-- The S-box of SM4, entry 0 in the lowest byte. -/
def sm4Box : Nat :=
  0x4839cbd73e5fee79204ddc3aec7df01884c66ec509f1b9657e77960c4a976989b0b4e5b812d0742dbd7bcda58831c10ad85a101f415cd9117fbcddbb92af1b8d515b6c6d726aff032f8efdde4537dbd56f4e530dab2329c060ca66822ee2f61de3b18cf5303293ad551a349ba45daee0a11561f9cef2f7a3b538c740d28abfea9ec8c4a0e702364c5227d39f574600d4877821013b7c2225a2d158635e0e241e359d56704b0febf88bda6471b2816b68a84f85e6193c5983ba1773f3fca70747a63f8f75fa94df8095e808c9a91cb3e462accfed430b54337a98ef91f450429c99068649261344aac304be2a769a672b052cfb28c214b616b73de1ccfee990d6

/-- A 32-bit word rotated left. -/
def rotl32 (x n : Nat) : Nat := (x <<< n ||| x >>> (32 - n)) % 2 ^ 32
/-- The four bytes of a word in the other order. -/
def swap32 (x : Nat) : Nat := x % 256 * 2 ^ 24 + x / 2 ^ 8 % 256 * 2 ^ 16 + x / 2 ^ 16 % 256 * 2 ^ 8 + x / 2 ^ 24 % 256
/-- The S-box on each byte of a word. -/
def sm4Sub (x : Nat) : Nat :=
  let f := fun (b : Nat) => sm4Box >>> (8 * (b % 256)) % 256
  f x + f (x >>> 8) <<< 8 + f (x >>> 16) <<< 16 + f (x >>> 24) <<< 24
/-- The round function's mixing, and the key schedule's. -/
def sm4Mix (x : Nat) : Nat :=
  let b := sm4Sub x
  b ^^^ rotl32 b 2 ^^^ rotl32 b 10 ^^^ rotl32 b 18 ^^^ rotl32 b 24
def sm4MixKey (x : Nat) : Nat :=
  let b := sm4Sub x
  b ^^^ rotl32 b 13 ^^^ rotl32 b 23

/-- Four words. -/
structure Quad where
  a : Nat
  b : Nat
  c : Nat
  d : Nat
  deriving DecidableEq, Repr

/-- The words of a block, each with its first byte highest. -/
def Quad.ofBlock (x : Nat) : Quad :=
  ⟨swap32 (x % 2 ^ 32), swap32 (x / 2 ^ 32 % 2 ^ 32), swap32 (x / 2 ^ 64 % 2 ^ 32), swap32 (x / 2 ^ 96 % 2 ^ 32)⟩
/-- The block whose words are a quad's, last first. -/
def Quad.toBlock (q : Quad) : Nat := swap32 q.d + swap32 q.c * 2 ^ 32 + swap32 q.b * 2 ^ 64 + swap32 q.a * 2 ^ 96

/-- The round keys from round `i` on. -/
def sm4Keys : Nat → Nat → Quad → List Nat
  | 0, _, _ => []
  | k + 1, i, q =>
    let ck := (4 * i * 7 % 256) * 2 ^ 24 + ((4 * i + 1) * 7 % 256) * 2 ^ 16 + ((4 * i + 2) * 7 % 256) * 2 ^ 8 + (4 * i + 3) * 7 % 256
    let r := q.a ^^^ sm4MixKey (q.b ^^^ q.c ^^^ q.d ^^^ ck)
    r :: sm4Keys k (i + 1) ⟨q.b, q.c, q.d, r⟩
/-- The 32 round keys of a key. -/
def sm4Schedule (key : Nat) : List Nat :=
  let q := Quad.ofBlock key
  sm4Keys 32 0 ⟨q.a ^^^ 0xA3B1BAC6, q.b ^^^ 0x56AA3350, q.c ^^^ 0x677D9197, q.d ^^^ 0xB27022DC⟩
/-- The cipher under a list of round keys: decryption takes them in the other order. -/
def sm4Run (ks : List Nat) (x : Nat) : Nat :=
  (ks.foldl (fun q r => ⟨q.b, q.c, q.d, q.a ^^^ sm4Mix (q.b ^^^ q.c ^^^ q.d ^^^ r)⟩) (Quad.ofBlock x)).toBlock

/-- The next tweak of a data unit: multiplication by x in GF(2^128) (IEEE 1619). -/
def xtsNext (t : Nat) : Nat := (2 * t % 2 ^ 128) ^^^ (if 2 ^ 127 ≤ t then 0x87 else 0)
/-- The blocks of a data unit from a tweak on. -/
def xtsBlocks (ks : List Nat) : Nat → Nat → Nat → Nat
  | 0, _, _ => 0
  | k + 1, t, x => (sm4Run ks (x % 2 ^ 128 ^^^ t) ^^^ t) + 2 ^ 128 * xtsBlocks ks k (xtsNext t) (x / 2 ^ 128)

/-- A data unit of 64 bytes encrypted or decrypted, under a data key, a tweak key and its tweak (R174). -/
def xtsUnit (enc : Bool) (dataKey tweakKey : BitVec 128) (tweak : Nat) (u : List Byte) : List Byte :=
  let ks := sm4Schedule dataKey.toNat
  let t := sm4Run (sm4Schedule tweakKey.toNat) (tweak % 2 ^ 128)
  bytesOf 64 (xtsBlocks (if enc then ks else ks.reverse) 4 t (ofBytes u))

end Sys2Proof.Machine
end

