-- ==== Sys2Proof/Machine/CtxState.lean ====
section
/-!
DEFINITION. The state of a context: its control core (15 R287, 20 R404), its join objects (15 R305), its trap state (13
R257), its beam history and tree results (06 R110-R113), its logical dies (06 R109, 08 R142) and its context slot (05
R77-R100). Plain data.
-/
namespace Sys2Proof.Machine
open Sys2Proof

/-! ### The bundle in hand -/

/-- The values a bundle carries down the beam (R106, R232, R236, R243, R157). -/
structure Carried where
  dieMask : Xword
  fpctl : Xword
  coatctl : Xword
  budget : Xword
  guard : Xword
  deriving DecidableEq, Repr

/-- The retire window of one die for the bundle in hand (R109): its cells before the bundle, its cells as the bundle's
slots leave them, and the faults raised, each with its local cell and slot. -/
structure Window where
  die : Nat
  pre : List Cell
  post : List Cell
  faults : List (Nat × SlotName × CellFault)
  deriving DecidableEq, Repr

/-- What a cell operation may read besides its cell: its place (R83), the set, the carried values, the die's k latches
before the bundle, the bundle's BSN (none in a handler), and the model's own number of the bundle. -/
structure Env where
  die : Nat
  cell : Nat
  n : Nat
  h : Nat
  w : Nat
  dev : BitVec 6
  carried : Carried
  k : RegFile Word 2
  bsn : Option Nat
  tag : Nat
  deriving DecidableEq, Repr

/-- What becomes of a bundle's S part (R289, R311-R313). -/
inductive SRes where
  | done
  /-- It waits: the bundle has not executed (R287, R289). -/
  | wait
  /-- A sequencer fault: no part of the bundle executes (R289). -/
  | fault (cause : Cause) (detail : Nat)
  deriving DecidableEq, Repr

/-- What a bundle's S part or sync part leaves to be done once its other parts have executed (R92, R95, R311-R313). -/
inductive After where
  | none
  | step
  | yield
  | trap (code : Nat)
  | eret
  | halt (value : Xword)
  deriving DecidableEq, Repr

/-- A beam-carried bundle as the beam history keeps it (R110, R123, R278). `kset` is what its KSET writes; `dred` and
`tlrd` name the results it awaits. -/
structure HistEntry where
  bsn : Nat
  bundle : Bundle
  carried : Carried
  kset : Option (BitVec 2 × Word)
  dred : Option Nat
  tlrd : Option Nat
  deriving DecidableEq, Repr

/-- The model's own: the bundle in hand. `issuing`: the sequencer issues it and its S part executes; otherwise it is
executed by dies that lag, or rebroadcast. `ahead`: units of one die take it while others are held, and `hold` names, for
each of its cells, the slots that are (R107). `nextAddr` is the fetch address that follows it; `lock` is what its YLOCK
asks. -/
structure Focus where
  slot : BitVec 4
  n : Nat
  h : Nat
  w : Nat
  dev : BitVec 6
  bsn : Option Nat
  carried : Carried
  now : SlotName
  ks : List (RegFile Word 2)
  windows : List Window
  issuing : Bool
  handler : Bool
  carriedDown : Bool
  bundle : Bundle
  pc : Xword
  nextAddr : Xword
  kset : Option (BitVec 2 × Word)
  dred : Option Nat
  tlrd : Option Nat
  sres : SRes
  after : After
  lock : Option (BitVec 16 × BitVec 4)
  /-- The BSN, or for a handler bundle the control core's CYC at its issue. -/
  tag : Nat
  ahead : Bool
  hold : List (List SlotName)
  deriving DecidableEq, Repr

/-! ### The control core -/

/-- A join object (R305). -/
structure Join where
  exp : BitVec 24
  rdy : BitVec 8
  arr : BitVec 32
  pend : BitVec 32
  drop : BitVec 24
  valid : Bool
  spent : Bool
  deriving DecidableEq, Repr

/-- Where a tree result goes (R113, R303). -/
inductive TreeDest where
  | g (k : BitVec 3)
  | x (d : BitVec 5)
  deriving DecidableEq, Repr

/-- A result that the reckoning tree is to deliver (R113): what each die that has executed its bundle gives, by die; the
result, absent until every unmasked die has; whether a freeze has cancelled it, so that its bundle's rebroadcast has it
awaited again (R119, R123). -/
structure TreePend where
  tok : Nat
  dest : TreeDest
  got : List (Nat × List Nat)
  value : Option Xword
  again : Bool
  deriving DecidableEq, Repr

/-- A run of bytes of memory as an access reaches it (R171, R174, R177): the layer, the place, the length, and for
encrypted data the key slot and the place by which its data units are numbered. -/
structure Run where
  host : Bool
  pa : Nat
  n : Nat
  crypt : Option (BitVec 12 × Nat)
  deriving DecidableEq, Repr

/-- Where a sequencer access goes once translated (R295, R169, R171, R177). -/
inductive Place where
  | window (off : Nat)
  | mem (r : Run)
  deriving DecidableEq, Repr

/-- A sequencer access that has issued and is not yet performed (R211, R287). `kind` 0 read, 1 write, 2 atomic; `tok`
marks the pending result. `commit`: a store that has committed a handle entry and waits for the commit (R172). -/
structure SeqAccess where
  kind : Nat
  place : Place
  size : Nat
  signed : Bool
  op : Nat
  data : Nat
  cmp : Nat
  dest : BitVec 5
  tok : Nat
  commit : Option (BitVec 12)
  deriving DecidableEq, Repr

/-- A pod round the context waits in, and the bundle that issued it (R48-R50). -/
structure PodWait where
  pc : Xword
  kind : BitVec 8
  op : BitVec 8
  round : BitVec 8
  contrib : Xword
  deadline : Nat
  result : Option Xword
  deriving DecidableEq, Repr

/-- A freeze under way (R118-R121): f, F, S, the cause and what its record names. -/
structure Freeze where
  forced : Bool
  f : Option Nat
  ff : Nat
  stop : Xword
  cause : Cause
  slot : Nat
  die : Option Nat
  cell : Option Nat
  lane : Nat
  detail : Nat
  deriving DecidableEq, Repr

/-! ### Logical dies -/

/-- A precise cell fault pending at a die (R111, R118). -/
structure DieFault where
  bsn : Nat
  cell : Nat
  slot : SlotName
  fault : CellFault
  deriving DecidableEq, Repr

/-- A logical die of a set: D_d, its dequeue point, its counters, the last cycle in which it took a bundle, its latches, its
pending fault and fault flag, its bank lock, whether it is frozen for a late landing, whether a staggered start has reached
it, its cells, and what their units have taken ahead (R107, R109, R111, R128, R142, R156, R135, R138). -/
structure Die where
  done : Nat
  deq : Nat
  cyc : Xword
  used : Nat
  late : Xword
  k : RegFile Word 2
  fault : Option DieFault
  flag : Bool
  lockMask : BitVec 16
  lockLeft : BitVec 4
  lockOn : Bool
  /-- The lock was set by a handler bundle. -/
  lockBy : Bool
  frozen : Bool
  started : Bool
  cells : List Cell
  ahead : Option Ahead
  deriving DecidableEq, Repr

/-- Where an access takes effect (R191): a scratchpad of the context, a cell of another device, or memory, in its parts. -/
inductive Home where
  | pad (die cell off : Nat)
  | far (dev : BitVec 6)
  | mem (parts : List Run)
  deriving DecidableEq, Repr

/-- A DSCATA addition held at its home (R381): its bundle, its place in the order, its address and home, its operands. -/
structure HeldAdd where
  bsn : Option Nat
  cell : Nat
  num : Nat
  t : Nat
  addr : Xword
  home : Home
  esz : Nat
  fp : Bool
  value : Nat
  fpctl : Xword
  deriving DecidableEq, Repr

/-- The rebroadcast after the restore of a forced save: the least D_d of its table, the next BSN, the last (R99). -/
structure Resume where
  least : Nat
  next : Nat
  high : Nat
  deriving DecidableEq, Repr

/-- The control core and the dies of a context. -/
structure Ctx where
  x : RegFile Xword 5
  g : RegFile Xword 3
  /-- The pending results of x and g registers: the token of the result each waits for (R287, R113). -/
  xPend : RegFile (Option Nat) 5
  gPend : RegFile (Option Nat) 3
  tok : Nat
  pc : Xword
  bsn : Nat
  /-- Fetched lines, each with its address and its 16 words (R279). -/
  lines : List (Xword × List Word)
  /-- A bundle fetch's park (R256). -/
  fetchPark : Option (BitVec 12)
  fpctl : Xword
  coatctl : Xword
  budget : Xword
  guard : Xword
  dieMask : Xword
  preemptLimit : BitVec 32
  tvec : Xword
  tscr0 : Xword
  tscr1 : Xword
  fixed : Bool
  stagger : BitVec 8
  clkPend : Option (Bool × BitVec 8)
  trips : BitVec 32
  tripReg : BitVec 16
  cyc : Xword
  /-- The last cycle in which the control core of a FIXED set issued a bundle (R128). -/
  used : Nat
  stretch : Xword
  thrCyc : Xword
  tripCyc : Xword
  holdCyc : Xword
  replay0 : Xword
  replay1 : Xword
  exhaust : Xword
  lastMark : Xword
  /-- The counters as they have stood at times not more than a tree latency ago, the oldest first (R405). -/
  counted : List (Nat × List Xword)
  /-- The trap state (R257): the freeze record as a number, byte 0 lowest. -/
  trec : BitVec 512
  inHandler : Bool
  rebroadcast : Bool
  stepDeferred : Bool
  haltTaken : Bool
  tsEarly : Xword
  trbNext : Xword
  trbHigh : Xword
  dtab : RegFile Xword 6
  /-- DIEMASK as it stood at trap_entry (R411). -/
  entryMask : Xword
  joins : RegFile Join 6
  /-- Join arrivals on their way to the sequencer, the first made first, each with the steps it may still take (R307). -/
  arrivals : List (BitVec 6 × Nat)
  hist : List HistEntry
  tree : List TreePend
  acc : List SeqAccess
  adds : List HeldAdd
  freeze : Option Freeze
  resume : Option Resume
  /-- The BSN of a YBAR whose release the sequencer awaits (R114). -/
  ybar : Option Nat
  podRound : BitVec 8
  podWait : Option PodWait
  /-- The round in which the stream waited when the handler was entered (R315). -/
  podOuter : Option PodWait
  podIn : List PodMsg
  dies : List Die
  deriving DecidableEq, Repr

/-! ### The context slot -/

/-- The slot states of R90. -/
inductive SlotState where
  | free | waiting | running | stepping | saving | saved | restoring | draining | ending
  deriving DecidableEq, Repr

/-- Their codes. -/
def SlotState.code : SlotState → Nat
  | .free => 0 | .waiting => 1 | .running => 2 | .stepping => 3 | .saving => 4 | .saved => 5 | .restoring => 6
  | .draining => 7 | .ending => 8

/-- The launch descriptor (R71, R79). -/
structure Desc where
  entry : Xword
  saveh : BitVec 12
  mindie : Nat
  maxdie : Nat
  prio : BitVec 3
  fixed : Bool
  coatctl : BitVec 8
  budget : Word
  podgrp : Word
  podmask : Xword
  arg0 : Xword
  arg1 : Xword
  deriving DecidableEq, Repr

/-- A save under way or made (R92, R93, R95, R99). -/
inductive SaveKind where
  | yield
  | step
  | forced
  | forcedHandler
  deriving DecidableEq, Repr

/-- A pre-emption request (R88, R93): when its limit passes, for which waiting slot, and that slot's life. -/
structure PreReq where
  deadline : Nat
  waiter : BitVec 4
  life : BitVec 4
  deriving DecidableEq, Repr

/-- What a fatal record says of its cause (R254). -/
structure DeadInfo where
  cause : Cause
  ld : Option Nat
  pd : Option Nat
  cell : Option Nat
  link : Nat
  orig : Nat
  code : Nat
  addr : Xword
  deriving DecidableEq, Repr

/-- A context slot (R77-R100). -/
structure Slot where
  state : SlotState
  prio : BitVec 3
  queue : BitVec 6
  spawned : Bool
  parent : BitVec 4
  parentLife : BitVec 4
  join : Option (BitVec 6)
  life : BitVec 4
  vbound : Bool
  core : Option (BitVec 3)
  row : Nat
  col : Nat
  h : Nat
  w : Nat
  desc : Desc
  launchTime : Nat
  /-- When it became FREE or entered WAITING or SAVED; how long it waited before it left that state, until it runs (R100);
  when it last started to run. -/
  since : Nat
  waited : Nat
  ranSince : Nat
  /-- When its issue last started, from which a staggered start counts (R138). -/
  issueSince : Nat
  /-- When it last made progress (R260). -/
  progress : Nat
  fam : Nat
  moved : Bool
  outcome : BitVec 2
  /-- The scheduler has considered it for allocation (R81). -/
  considered : Bool
  request : Option PreReq
  save : Option SaveKind
  halt : Option Xword
  dead : Option DeadInfo
  /-- Arrivals for its join objects that came while it was being saved or was saved (R97, R304). -/
  lateJoins : List (BitVec 6)
  ctx : Ctx
  deriving DecidableEq, Repr

/-! ### Entry values -/

/-- A join object at entry (R305). -/
def Join.entry : Join := ⟨0, 0, 0, 0, 0, false, false⟩

/-- A die of a set at entry, with `cells` cells (R78). -/
def Die.entry (cells : Nat) : Die :=
  ⟨0, 0, 0, 0, 0, RegFile.fill 2 0, none, false, 0, 0, false, false, false, true, List.replicate cells Cell.entry, none⟩

/-- The number of cells of a die (R1). -/
def cellsPerDie : Nat := 1600

/-- The bits 0 to n − 1 set (R78). -/
def maskOf (n : Nat) : Xword := BitVec.ofNat 64 (2 ^ n - 1)

/-- A MIN or MAX of 3 sets 2 (R236). -/
def coatWord (v : Nat) : Xword :=
  BitVec.ofNat 64 (min 2 (v % 4) + 4 * min 2 (v / 4 % 4) + v / 16 % 8 * 16)
/-- A CANBITS above 63 sets 63 (R243). -/
def budgetWord (v : Nat) : Xword :=
  BitVec.ofNat 64 (v % 2 ^ 24 + min 63 (v / 2 ^ 24 % 256) * 2 ^ 24)

/-- A control core with every register at zero (R78) and the special registers at their reset values (R406). -/
def Ctx.blank : Ctx where
  x := RegFile.fill 5 0
  g := RegFile.fill 3 0
  xPend := RegFile.fill 5 none
  gPend := RegFile.fill 3 none
  tok := 0
  pc := 0
  bsn := 1
  lines := []
  fetchPark := none
  fpctl := 0
  coatctl := coatWord 8
  budget := 0
  guard := 0
  dieMask := 0
  preemptLimit := 1000000
  tvec := 0
  tscr0 := 0
  tscr1 := 0
  fixed := false
  stagger := 0
  clkPend := none
  trips := 0
  tripReg := 0
  cyc := 0
  used := 0
  stretch := 0
  thrCyc := 0
  tripCyc := 0
  holdCyc := 0
  replay0 := 0
  replay1 := 0
  exhaust := 0
  lastMark := 0
  counted := []
  trec := 0
  inHandler := false
  rebroadcast := false
  stepDeferred := false
  haltTaken := false
  tsEarly := 0
  trbNext := 0
  trbHigh := 0
  dtab := RegFile.fill 6 0
  entryMask := 0
  joins := RegFile.fill 6 Join.entry
  arrivals := []
  hist := []
  tree := []
  acc := []
  adds := []
  freeze := none
  resume := none
  ybar := none
  podRound := 0
  podWait := none
  podOuter := none
  podIn := []
  dies := []

/-- The launch descriptor of a slot that has had none. -/
def Desc.blank : Desc := ⟨0, 0, 0, 0, 0, false, 0, 0, 0, 0, 0, 0⟩

/-- A FREE slot (R90, R100). -/
def Slot.blank : Slot where
  state := .free
  prio := 0
  queue := 0
  spawned := false
  parent := 0
  parentLife := 0
  join := none
  life := 0
  vbound := false
  core := none
  row := 0
  col := 0
  h := 0
  w := 0
  desc := Desc.blank
  launchTime := 0
  since := 0
  waited := 0
  ranSince := 0
  issueSince := 0
  progress := 0
  fam := 0
  moved := false
  outcome := 0
  considered := false
  request := none
  save := none
  halt := none
  dead := none
  lateJoins := []
  ctx := Ctx.blank

/-- The state of a context at entry on a set of `n` dies of `cells` cells each (R78). -/
def Ctx.entry (d : Desc) (n cells : Nat) : Ctx :=
  { Ctx.blank with
    x := ((RegFile.fill 5 0).put 10 d.arg0).put 11 d.arg1
    pc := d.entry
    dieMask := maskOf n
    fixed := d.fixed
    coatctl := coatWord d.coatctl.toNat
    budget := budgetWord d.budget.toNat
    dies := List.replicate n (Die.entry cells) }

end Sys2Proof.Machine
end

