-- ==== Sys2Proof/Machine/DevState.lean ====
section
/-!
DEFINITION. The state of the device's units outside the contexts: columns and power (01), links and pod (02), boot, lease,
strip and keys (03), command queues (04), handles, translation and vaults (09), the trap queue and the snapshots (13).
Plain data.
-/
namespace Sys2Proof.Machine
open Sys2Proof

/-! ### Reset, power and columns (01) -/

/-- A reset in progress (R25): cold or warm, its LASTCAUSE, when it began, whether the requests to host memory still
outstanding have been abandoned; the engine and stream writes to host memory that had been sent, each as its command
stood, with its slot, die and cell (log 88); and whether it is a cold reset that has cleared the state and trains the
links (R23, R25). -/
structure ResetRun where
  cold : Bool
  cause : BitVec 4
  since : Nat
  abandoned : Bool
  sent : List (BitVec 4 × Nat × Nat × Cmd)
  cleared : Bool
  deriving DecidableEq, Repr

/-- COLSTAT (R21). `heat`: the column is offline for its temperature (R16). -/
structure Column where
  temp : BitVec 8
  imeas : BitVec 10
  vset : BitVec 10
  offline : Bool
  ttrip : Bool
  twarn : Bool
  pgood : Bool
  heat : Bool
  deriving DecidableEq, Repr

/-! ### Links and pod (02) -/

/-- The link states of R38. -/
inductive LinkState where
  | down | training | up | active | activeHalf | conflict | disabled
  deriving DecidableEq, Repr

/-- Their codes. -/
def LinkState.code : LinkState → Nat
  | .down => 0 | .training => 1 | .up => 2 | .active => 3 | .activeHalf => 4 | .conflict => 5 | .disabled => 6

/-- An entry of the MSI-X table: message address and data (R34, R35). -/
structure MsixEntry where
  addr : Xword
  data : Word
  deriving DecidableEq, Repr

/-- What waits for a link's replay buffer to drain (R40, R41). -/
inductive LinkWait where
  | retrain | disable | podcfg
  deriving DecidableEq, Repr

/-- A link: ULCTL, ULSTAT, what its peer has told of itself, what waits for its drain (R38-R42). -/
structure Link where
  enable : Bool
  state : LinkState
  replays : BitVec 16
  lanes : BitVec 8
  lost : Bool
  peerDev : BitVec 6
  peerLink : BitVec 4
  peerValid : Bool
  drain : Option LinkWait
  deriving DecidableEq, Repr

/-- A flit sent on a link (R44): the destination, the source, the hops it has made, what it carries. -/
structure Flit where
  link : BitVec 4
  dest : BitVec 6
  src : BitVec 6
  hops : BitVec 4
  body : PodBody
  deriving DecidableEq, Repr

/-- A pod access held in the buffers of the link it came by, since a time (R47). -/
structure HeldPod where
  link : BitVec 4
  acc : PodAccess
  since : Nat
  deriving DecidableEq, Repr

/-- The last access of a pod stream that one destination has performed, by the number of its command (R200; log 37). -/
structure PodDone where
  dev : BitVec 6
  slot : BitVec 4
  life : BitVec 4
  die : BitVec 6
  cell : BitVec 11
  cls : BitVec 4
  dest : Nat × Nat
  num : BitVec 64
  deriving DecidableEq, Repr

/-! ### Boot, lease, strip and keys (03) -/

/-- The stages of BOOTSTAT (R63). -/
inductive Stage where
  | rom | base | custom | romhalt
  deriving DecidableEq, Repr

/-- Their codes. -/
def Stage.code : Stage → Nat
  | .rom => 0 | .base => 1 | .custom => 2 | .romhalt => 3

/-- BOOTSTAT.CUST (R63). -/
inductive CustStat where
  | none | running | badsig | oldver | skipped | empty | badhdr | badbody
  deriving DecidableEq, Repr

/-- Their codes. -/
def CustStat.code : CustStat → Nat
  | .none => 0 | .running => 1 | .badsig => 2 | .oldver => 3 | .skipped => 4 | .empty => 5 | .badhdr => 6 | .badbody => 7

/-- BOOTSTAT.LEASE (R63). -/
inductive Lease where
  | vacant | enrolled | stripping
  deriving DecidableEq, Repr

/-- Their codes. -/
def Lease.code : Lease → Nat
  | .vacant => 0 | .enrolled => 1 | .stripping => 2

/-- A quote asked for: its nonce, and whether the host asked (R62). -/
structure QuoteReq where
  nonce : BitVec 256
  byHost : Bool
  deriving DecidableEq, Repr

/-- The boot, lease, strip and key state (R51-R63). The key hash, the minimum version, the strip sequence number, PEND,
LEASE and the flash are non-volatile. `statWarm`: since the last cold reset a warm one has set BOOTSTAT to its Reset
values (R5; log 26). `flashBad`: the images whose bodies flash cannot read (R53); `badUnits`: the units of each store
whose read-back will differ from zero (R57); `drbg`: the random bit generator of the firmware core (R56). -/
structure Boot where
  pending : Bool
  stage : Stage
  statWarm : Bool
  flashBad : RegFile Bool 2
  badUnits : RegFile (BitVec 32) 4
  drbg : Xword
  cust : CustStat
  custVer : BitVec 16
  baseVer : BitVec 16
  baseCopy : BitVec 2
  lease : Lease
  keyHash : BitVec 256
  minVer : BitVec 16
  nonce : BitVec 256
  stripSeq : BitVec 64
  stripStep : BitVec 3
  pend : Bool
  recValid : Bool
  byCommand : Bool
  abandoned : BitVec 32
  resets : BitVec 64
  lastCopy : BitVec 1
  flash : RegFile (Option (List Byte)) 2
  meas : RegFile (BitVec 256) 2
  fwAddr : Xword
  fwLen : Xword
  fwst : BitVec 3
  keySel : BitVec 12
  keyStatus : BitVec 2
  keyData : RegFile Xword 2
  /-- The key slots that hold a pair, in ascending order: data key and tweak key (R60). -/
  keys : List (BitVec 12 × BitVec 128 × BitVec 128)
  qnonce : RegFile Xword 2
  qdone : Bool
  qbuf : List Byte
  quotes : List QuoteReq
  stripRec : List Byte
  /-- The replies of the I3C target, the latest last; none is a NAK (R51). -/
  replies : List (Option (List Byte))
  deriving DecidableEq, Repr

/-! ### Command queues (04) -/

/-- The queue states of R65. -/
inductive QueueState where
  | disabled | idle | active | blocked | error | destroying
  deriving DecidableEq, Repr

/-- Their codes. -/
def QueueState.code : QueueState → Nat
  | .disabled => 0 | .idle => 1 | .active => 2 | .blocked => 3 | .error => 4 | .destroying => 5

/-- The staging buffer (R68): empty, or a packet's 64 bytes; a read that fails enters ERROR at once. -/
inductive Staged where
  | empty
  | bytes (b : List Byte)
  deriving DecidableEq, Repr

/-- What a completion record repeats of its packet (R69, R73). -/
structure PacketId where
  queue : BitVec 6
  index : BitVec 32
  type : BitVec 8
  tag : Word
  cpl : Xword
  irq : Bool
  deriving DecidableEq, Repr

/-- An HCOPY in flight (R72); `written`: its bytes have been written and it waits for the commits they made (R172). -/
structure HostCopy where
  pkt : PacketId
  src : Xword
  dst : Xword
  len : Nat
  srcBus : Bool
  dstBus : Bool
  written : Bool
  deriving DecidableEq, Repr

/-- A command queue (R64, R65). -/
structure Queue where
  base : BitVec 52
  size : BitVec 5
  state : QueueState
  errcode : BitVec 4
  erroff : BitVec 24
  head : BitVec 32
  tail : BitVec 32
  staged : Staged
  /-- When the WAIT or LAUNCH at HEAD was staged (R71, R72). -/
  since : Nat
  /-- The condition of the WAIT at HEAD has held at some moment (R72). -/
  met : Bool
  copies : List HostCopy
  deriving DecidableEq, Repr

/-- A family of contexts: the LAUNCH packet that began it, its root's slot, its living members, its root's HALT value and
the cause of its first death (R79). -/
structure Family where
  id : Nat
  pkt : PacketId
  root : BitVec 4
  alive : Nat
  haltVal : Xword
  dead : Option Cause
  /-- Its queue has been destroyed (R75). -/
  gone : Bool
  deriving DecidableEq, Repr

/-- A record for the trap queue: its class, its cause, its slot, and its 64 bytes as a number, its record number left
zero (R253). -/
structure TrapRec where
  cls : Nat
  cause : Cause
  slot : BitVec 4
  data : BitVec 512
  deriving DecidableEq, Repr

/-- A posted write of the device to the host (R31, R73, R261): the record of a queue, or of the trap queue, with the
vector that follows it; `err`: the ERRCODE and ERROFF with which the queue enters ERROR once it is written (R73). -/
structure Posted where
  queue : Option PacketId
  trap : Option TrapRec
  addr : Nat
  data : List Byte
  vector : Option Nat
  err : Option (BitVec 4 × Nat)
  deriving DecidableEq, Repr

/-! ### Handles and translation (09) -/

/-- A handle entry (R170). -/
structure Handle where
  valid : Bool
  gen : BitVec 16
  layer : BitVec 2
  enc : Bool
  atm : Bool
  exe : Bool
  wrt : Bool
  rdp : Bool
  low : BitVec 40
  limit : BitVec 40
  base : BitVec 52
  deriving DecidableEq, Repr

/-- The handles that differ from an entry of zeros, in ascending order: the committed entry and the staging copy of its
LOW, LIMIT and BASE (R170). -/
structure HandleSlot where
  h : BitVec 12
  entry : Handle
  low : BitVec 40
  limit : BitVec 40
  base : BitVec 52
  deriving DecidableEq, Repr

/-- A cached translation of a 4 KiB unit (R177): where it lies, its page's size in address bits, its permissions. -/
structure Cached where
  page : Nat
  bitsOf : Nat
  host : Bool
  base : Nat
  rdp : Bool
  wrt : Bool
  exe : Bool
  atm : Bool
  deriving DecidableEq, Repr

/-- A walk in flight on a die (R179): its unit, the requests merged into it, and of the first the context, the BSN, the
address word, the kind and the class (R254). -/
structure Walk where
  page : Nat
  merged : Nat
  slot : BitVec 4
  bsn : Nat
  addr : Xword
  kind : Nat
  cls : Nat
  deriving DecidableEq, Repr

/-- The translation control registers (R178) and the commits whose old entries the dies still hold (R172). -/
structure Transl where
  table : List HandleSlot
  root : BitVec 41
  rootHost : Bool
  rootEn : Bool
  tinvAddr : Xword
  tinvAll : Bool
  tinvBusy : Bool
  /-- What the invalidation under way covers: everything, or the translations that contain an address (R180). -/
  tinvFull : Bool
  tinvOf : Xword
  relocBase : BitVec 52
  rst : BitVec 3
  rhandle : BitVec 12
  rlayer : BitVec 2
  cref : Bool
  ccause : BitVec 4
  chandle : BitVec 12
  walks : Word
  merges : Word
  pending : List (BitVec 12 × Handle)
  /-- The relocation under way: its handle, its new BASE and LAYER (R173). -/
  relocRun : Option (BitVec 12 × BitVec 52 × BitVec 2)
  /-- The commits written to the handle that a relocation moves, held until it ends, in their order (R173). -/
  heldCommit : List (BitVec 8 × Xword)
  deriving DecidableEq, Repr

/-! ### Vaults and physical dies (09, 07) -/

/-- An open row of a bank: whether it opened expired, and the bursts written since (R186). -/
structure OpenRow where
  row : BitVec 12
  expired : Bool
  written : BitVec 8
  deriving DecidableEq, Repr

/-- What is special about a row of a bank: when it was last restored on its own, whether DVLIFE has made it short-lived, and
whether an activate restored it (R139, R183, R186). -/
structure RowInfo where
  bank : BitVec 2
  row : BitVec 12
  restored : Nat
  short : Bool
  act : Bool
  deriving DecidableEq, Repr

/-- What is wrong in the array with a burst: the words whose reads are corrected, with their syndromes, and whether a word
has a double error, until the burst is written again (R187). -/
structure WrongBurst where
  bank : BitVec 2
  row : BitVec 12
  burst : Nat
  single : BitVec 8
  syn : BitVec 8
  double : Bool
  deriving DecidableEq, Repr

/-- The vault above a cell (09, R181-R188). -/
structure Vault where
  cell : Nat
  data : Mem
  rows : List RowInfo
  isOpen : RegFile (Option OpenRow) 2
  wrong : List WrongBurst
  /-- The lane swapped to the spare, by port and group of the cell's vertical buses (R188). -/
  spare : RegFile (Option (BitVec 5)) 2
  deriving DecidableEq, Repr

/-- A physical die (R82, R94, R130-R133, R137, R179, R184, R188). -/
structure PDie where
  owner : Option (BitVec 4)
  reserved : Option (BitVec 4)
  selfPos : BitVec 12
  selfNext : Nat
  /-- When self-refresh last restored each row index, in every cell of the die. -/
  rowTime : RegFile Nat 12
  level : BitVec 3
  trips : Word
  tripped : Bool
  /-- Until when an emergency refresh holds it, and until when its throttled cycles have been counted, in ps (R129, R183). -/
  holdTo : Nat
  thrTo : Nat
  cache : List Cached
  walks : List Walk
  /-- The walks that wait for a free slot, in the order in which their first requests came (R179). -/
  walkQueue : List Walk
  vaults : List Vault
  /-- The scratchpads of its cells as the last context left them (R22, R24). -/
  pads : List Mem
  deriving DecidableEq, Repr

/-! ### The trap queue and the snapshots (13) -/

/-- The trap queue's states (R263). -/
inductive TqState where
  | disabled | active | error
  deriving DecidableEq, Repr

/-- Their codes. -/
def TqState.code : TqState → Nat
  | .disabled => 0 | .active => 1 | .error => 2

/-- The trap queue (R261-R263). `lost`: the record whose write failed. -/
structure TrapQueue where
  base : BitVec 52
  size : BitVec 5
  state : TqState
  head : BitVec 32
  tail : BitVec 32
  fatal : List TrapRec
  held : List TrapRec
  ovf : BitVec 16
  dropped : BitVec 16
  lost : Option TrapRec
  wdms : BitVec 16
  deriving DecidableEq, Repr

/-- Who parks, and what is tried again on RETRY (R255). -/
inductive ParkOf where
  | command (die cell : Nat) (tl : BitVec 2) (num : Nat)
  | walk (pdie : BitVec 6) (w : Walk)
  | twin (die cell : Nat) (tile : Nat)
  | fetch
  deriving DecidableEq, Repr

/-- A park (R255), with what the record of a death by it would say (R254). -/
structure Park where
  id : BitVec 12
  slot : BitVec 4
  what : ParkOf
  info : DeadInfo
  deriving DecidableEq, Repr

/-- SNAPCTL and the latched snapshots (R264). -/
structure Snap where
  missed : BitVec 16
  cause : BitVec 8
  slot : BitVec 4
  src : BitVec 4
  armed : Bool
  seqr : List Xword
  seqSlots : List Xword
  dies : List (List Xword)
  deriving DecidableEq, Repr

/-! ### Reset values -/

/-- A handle entry of zeros (R170). -/
def Handle.zero : Handle := ⟨false, 0, 0, false, false, false, false, false, 0, 0, 0⟩

/-- The set point of a column, in mV: between 450 and 600 in steps of 5, as fused (R13). -/
def fusedVset (d : Nat) : BitVec 10 := BitVec.ofNat 10 (450 + 5 * (Config.calibration d % 31))

/-- A column as State.reset has it: the values that power-on self-test fills in are a DESIGN CHOICE (R21; log 3). -/
def Column.reset (d : Nat) : Column := ⟨25, 0, fusedVset d, false, false, false, true, false⟩

/-- A column after the n-th later self-test (R13, R21, R28): TEMP, OFFLINE and PGOOD are as the self-test finds them; an
offline column is unpowered. -/
def Column.selfTest (n d : Nat) : Column :=
  let t := Config.selfTest n d
  ⟨t.1, 0, if t.2.1 then 0 else fusedVset d, t.2.1, false, false, t.2.2 && !t.2.1, false⟩

/-- A link at cold reset: it trains if it is enabled (R38, R42). -/
def Link.cold (enable : Bool) : Link :=
  ⟨enable, if enable then .training else .disabled, 0, 0, false, 0, 0, false, none⟩

/-- A command queue at reset (R64). -/
def Queue.reset : Queue := ⟨0, 4, .disabled, 0, 0, 0, 0, .empty, 0, false, []⟩

/-- The boot block after power-on, before the boot ROM has run (R54, R63; log 3). -/
def Boot.reset : Boot where
  pending := true
  stage := .rom
  statWarm := false
  flashBad := RegFile.fill 2 false
  badUnits := RegFile.fill 4 0
  drbg := 0
  cust := .none
  custVer := 0
  baseVer := 0
  baseCopy := 2
  lease := .vacant
  keyHash := 0
  minVer := 0
  nonce := 0
  stripSeq := 0
  stripStep := 0
  pend := false
  recValid := false
  byCommand := false
  abandoned := 0
  resets := 1
  lastCopy := 0
  flash := ((RegFile.fill 2 none).put 0 (some (Config.flash 0))).put 1 (some (Config.flash 1))
  meas := RegFile.fill 2 0
  fwAddr := 0
  fwLen := 0
  fwst := 0
  keySel := 0
  keyStatus := 0
  keyData := RegFile.fill 2 0
  keys := []
  qnonce := RegFile.fill 2 0
  qdone := false
  qbuf := []
  quotes := []
  stripRec := []
  replies := []

/-- The translation state at cold reset (R170, R178). -/
def Transl.reset : Transl := ⟨[], 0, false, false, 0, false, false, false, 0, 0, 0, 0, 0, false, 0, 0, 0, 0, [], none, []⟩

/-- A vault with every bank closed (R181). -/
def Vault.blank (cell : Nat) : Vault := ⟨cell, [], [], RegFile.fill 2 none, [], RegFile.fill 2 none⟩

/-- A physical die that no context holds (R24, R125). -/
def PDie.reset : PDie :=
  ⟨none, none, 0, 3906250, RegFile.fill 12 0, 0, 0, false, 0, 0, [], [], [], [], []⟩

/-- The trap queue at reset (R263). -/
def TrapQueue.reset : TrapQueue := ⟨0, 6, .disabled, 0, 0, [], [], 0, 0, none, 1000⟩

/-- The snapshot block after power-on (R264). -/
def Snap.reset : Snap := ⟨0, 0, 0, 0, true, [], [], []⟩

end Sys2Proof.Machine
end

