-- ==== Sys2Proof/Machine/State.lean ====
section
/-!
DEFINITION. The state of the machine, its faults and refusals, and the state after reset (00 R5).
-/
namespace Sys2Proof.Machine
open Sys2Proof

/-- What the outside world brings: a row of the opcode table, or what no row names: a write of host memory by the host
(R190, R214), a new value of a column's current (R21), a change of what flash can read of an image (R53), the units of a
store whose read-back by the next strip will differ from zero (R57), pipeline cycles in which a die of a context, or with
no such die its control core, takes no bundle (R128), a compute die throttled while its vaults refresh (R139). -/
inductive Outside where
  | event (i : Instr)
  | hostWrite (addr : Xword) (data : List Byte)
  | current (col : BitVec 6) (amps : BitVec 10)
  | flashRead (image : BitVec 2) (fails : Bool)
  | readBack (store : BitVec 4) (units : BitVec 32)
  | idle (slot : BitVec 4) (die : BitVec 7) (cycles : Xword)
  | refreshThrottle (die : BitVec 6) (cycles : BitVec 6)
  deriving DecidableEq, Repr

/-- The state of the LYA-6400. `time` is real time since the last cold reset, in picoseconds (04 R73, 09 R183). The
fields from `fresh` on are the model's own: the counter that free values are applied to, the events the outside world
has yet to bring, the bundle in hand and its slots still to act, and the records on their way to the host. -/
structure State where
  time : Nat
  lastCause : BitVec 4
  resetRun : Option ResetRun
  regionsUp : BitVec 5
  selfTests : Nat
  d3hot : Bool
  pmeas : BitVec 16
  plim : BitVec 16
  plimThrottle : Bool
  twarnLvl : BitVec 8
  columns : RegFile Column 6
  istep : RegFile (BitVec 16) 4
  throttled : RegFile Bool 4
  links : RegFile Link 4
  podtmo : BitVec 16
  podValid : Bool
  devnum : BitVec 6
  podrt : RegFile (BitVec 16) 6
  flits : List Flit
  /-- What has come for this device, each by its link; flits behind a held access of their link; the accesses in reorder
  buffers; the last access performed of each stream at each destination (R44-R47, R200). -/
  podArrived : List (BitVec 4 × PodBody)
  podHeld : List HeldPod
  podBlocked : List Flit
  podWaiting : List PodAccess
  podDone : List PodDone
  msixTable : RegFile MsixEntry 7
  msixMask : BitVec 69
  msixPend : BitVec 69
  messages : List Nat
  boot : Boot
  queues : RegFile Queue 6
  sigobj : RegFile Xword 8
  families : List Family
  famNo : Nat
  slots : RegFile Slot 4
  schedDue : Bool
  schedAt : Nat
  transl : Transl
  pdies : RegFile PDie 6
  hbm : Mem
  host : Mem
  tq : TrapQueue
  parks : List Park
  snap : Snap
  fresh : Nat
  inputs : List Outside
  focus : Option Focus
  work : List (SlotName × Instr)
  posted : List Posted
  deriving DecidableEq, Repr

/-- Why the machine stops in a fault. No rule of the manual stops the machine: every fault it describes is an event that
a context, a queue or the host goes on from, and is modelled as a next state. -/
inductive Fault where
  /-- A bundle fetch beyond the 2^41 bytes of HBM (09 R175). Raised by the meaning of BUNDLE_FETCH; the checks of R170 and
  R177 leave no such access, so no state that those checks built raises it. Safe: it stops where the manual gives no
  behaviour. -/
  | outsideHbm (addr : Nat)
  deriving DecidableEq, Repr

/-- Why the model refuses. -/
inductive Refusal where
  /-- The instruction has no meaning in this model. Raised by `exec` alone. Safe: the model stops where the hardware goes
  on. -/
  | notModelled (mnemonic : String)
  deriving DecidableEq, Repr

/-- The device right after a power-on cold reset has cleared its state (00 R5, 01 R23, R28): every register at its Reset
value, every slot FREE, the links training, the boot ROM due. Values the manual does not give are those of log 3, log 4
and log 5. -/
def State.reset : State where
  time := 0
  lastCause := 0
  resetRun := some ⟨true, 0, 0, false, [], true⟩
  regionsUp := 16
  selfTests := 0
  d3hot := false
  pmeas := 0
  plim := 9000
  plimThrottle := false
  twarnLvl := 95
  columns := Vector.ofFn fun d => Column.reset d.val
  istep := RegFile.fill 4 40
  throttled := RegFile.fill 4 false
  links := RegFile.fill 4 (Link.cold true)
  podtmo := 100
  podValid := false
  devnum := 0
  podrt := RegFile.fill 6 0
  flits := []
  podArrived := []
  podHeld := []
  podBlocked := []
  podWaiting := []
  podDone := []
  msixTable := RegFile.fill 7 ⟨0, 0⟩
  msixMask := BitVec.allOnes 69
  msixPend := 0
  messages := []
  boot := Boot.reset
  queues := RegFile.fill 6 Queue.reset
  sigobj := RegFile.fill 8 0
  families := []
  famNo := 0
  slots := RegFile.fill 4 Slot.blank
  schedDue := false
  schedAt := 0
  transl := Transl.reset
  pdies := RegFile.fill 6 PDie.reset
  hbm := []
  host := []
  tq := TrapQueue.reset
  parks := []
  snap := Snap.reset
  fresh := 0
  inputs := []
  focus := none
  work := []
  posted := []

end Sys2Proof.Machine
end

