-- ==== Sys2Proof/Machine/Operands.lean ====
section
/-!
DEFINITION. The operand forms of the cell: registers with their hard-wired members (08 R141), lanes and masks (R143),
immediates and offsets (14 R269-R272, 16 R318, 17 R338), address words (09 R166, R167), scratchpad accesses with their
checks (08 R151, R159, R469), and the one operation through which a slot acts on every cell of a bundle's dies (06 R109,
R115, R117).
-/
namespace Sys2Proof.Machine
open Sys2Proof

/-- The outcome of a step of this machine. -/
abbrev Out := Host.Outcome State Fault Refusal

/-! ### Registers -/

/-- b0 reads zero (R141). -/
def Cell.getB (c : Cell) (i : BitVec 4) : Word := if i = 0 then 0 else c.b.get i
/-- A write of b0 is discarded (R141). -/
def Cell.setB (c : Cell) (i : BitVec 4) (v : Word) : Cell := if i = 0 then c else { c with b := c.b.put i v }
/-- m0 reads as all ones (R141). -/
def Cell.getM (c : Cell) (i : BitVec 3) : BitVec 16 := if i = 0 then 0xFFFF else c.m.get i
/-- A write of m0 is discarded (R141). -/
def Cell.setM (c : Cell) (i : BitVec 3) (v : BitVec 16) : Cell := if i = 0 then c else { c with m := c.m.put i v }
/-- A vector register. -/
def Cell.getV (c : Cell) (i : BitVec 5) : Vec := c.v.get i
/-- A write of a vector register. -/
def Cell.setV (c : Cell) (i : BitVec 5) (v : Vec) : Cell := { c with v := c.v.put i v }
/-- A write of a condition bit. -/
def Cell.setC (c : Cell) (i : BitVec 2) (v : Bool) : Cell := { c with c := c.c.put i v }
/-- b(K+1):bK as a 64-bit value. -/
def Cell.getB64 (c : Cell) (i : BitVec 4) : Xword := (c.getB (i + 1)) ++ (c.getB i)

/-! ### Lanes (R143) -/

/-- Lane `i` of a register in lanes of `n` bits. -/
def lane (n : Nat) (v : BitVec k) (i : Nat) : Nat := v.toNat / 2 ^ (n * i) % 2 ^ n
/-- The number whose lanes of `n` bits are the given values, lane 0 lowest. -/
def packLanes (n : Nat) : List Nat → Nat
  | [] => 0
  | x :: r => x % 2 ^ n + 2 ^ n * packLanes n r
/-- A vector whose `l` lanes of `n` bits are given by a function; the rest is zero. -/
def ofLanes (n l : Nat) (f : Nat → Nat) : Vec := BitVec.ofNat 512 (packLanes n ((List.range l).map f))
/-- The mask bit that governs lane `i` of lanes of `n` bits (R143). -/
def maskBit (n i : Nat) : Nat := n * i / 32
/-- en(m, i): whether mask `m` enables lane `i` of lanes of `n` bits. -/
def en (m : BitVec 16) (n i : Nat) : Bool := m.getLsbD (maskBit n i)
/-- A register with its enabled lanes replaced (R317). -/
def mergeLanes (n : Nat) (m : BitVec 16) (old : Vec) (f : Nat → Nat) : Vec :=
  ofLanes n (512 / n) fun i => if en m n i then f i else lane n old i
/-- A lane value read under a type: signed for the signed codes (R316). -/
def laneInt (t : Nat) (n : Nat) (v : Vec) (i : Nat) : Int :=
  if tySigned t then sextN (lane n v i) n else (lane n v i : Int)
/-- An n-bit value read under a type. -/
def asInt (t : Nat) (n x : Nat) : Int := if tySigned t then sextN x n else ((x % 2 ^ n : Nat) : Int)

/-- `widen` of R318 for 64-bit lanes, and truncation for narrower ones: a 32-bit value as a lane. -/
def immLane (t : Nat) (e : Word) : Nat :=
  if tyBits t = 64 then (if t = 15 then e.toNat else wrapN 64 e.toInt) else e.toNat % 2 ^ tyBits t
/-- The second operand of a lane: the immediate where there is one, else lane `i` of vB (R318). -/
def immOr (t : Nat) (x : Option Word) (vb : Vec) (i : Nat) : Nat :=
  match x with
  | some e => immLane t e
  | none => lane (tyBits t) vb i
/-- The second operand of a floating-point lane (R338): for .f64 the FP32 immediate widened exactly, a NaN quieted. -/
def immFp (t : Nat) (x : Option Word) (vb : Vec) (i : Nat) : Nat :=
  match x with
  | some e =>
    if t = 6 then
      (match decodeNum .fp32 e.toNat with
       | .nan _ => nanTo .fp32 .fp64 e.toNat
       | .num y => (rnd .fp64 .rne y).1)
    else e.toNat % 2 ^ tyBits t
  | none => lane (tyBits t) vb i

/-! ### Immediates and offsets -/

/-- The immediate of the I, B and J forms: the extension word sign-extended, else the field sign-extended (R269). -/
def immS (i : BitVec n) (x : Option Word) : Xword :=
  match x with
  | some e => e.signExtend 64
  | none => i.signExtend 64
/-- A byte offset in an extension word: sext(ext, 32), and 0 without one (R270, R291). -/
def offS (x : Option Word) : Int := match x with | some e => e.toInt | none => 0
/-- OFF of a C slot's extension word: sext(OFF, 20) (R272). -/
def offC (x : Option Word) : Int := match x with | some e => sextN (e.toNat / 2 ^ 12) 20 | none => 0
/-- LAND of a C slot's extension word (R272). -/
def landC (x : Option Word) : Nat := match x with | some e => e.toNat % 2 ^ 12 | none => 0
/-- The flag that a flag field names, if F is set (R376). -/
def flagC (x : Option Word) : Option (BitVec 4) :=
  let l := landC x
  if l / 16 % 2 = 1 then some (BitVec.ofNat 4 l) else none
/-- The address word of a C-slot address operand: b(K+1):bK plus the offset, modulo 2^64 (R272, R376). -/
def addrC (c : Cell) (b : BitVec 4) (off : Int) : Xword := c.getB64 b + BitVec.ofInt 64 off

/-! ### Address words (R166, R167) -/

/-- The tag of an address word. -/
def tagOf (a : Xword) : Nat := bits a 63 62
/-- A slice address's device, logical die, logical cell and offset. -/
def sliceDev (a : Xword) : Nat := bits a 61 56
def sliceDie (a : Xword) : Nat := bits a 55 50
def sliceCell (a : Xword) : Nat := bits a 49 39
def sliceOff (a : Xword) : Nat := bits a 16 0
/-- The bits of an address word that must be zero (R166). -/
def mbzOk (a : Xword) : Bool :=
  match tagOf a with
  | 0 => bits a 61 57 == 0
  | 1 => bits a 61 52 == 0
  | 2 => bits a 38 17 == 0
  | _ => bits a 61 56 == 0 && bits a 38 36 == 0 && bits a 21 9 == 0 && bits a 5 0 == 0
/-- Whether an address word passes the check of R167 for a command that accepts the paged, handle and slice spaces. -/
def addrOk (env : Env) (a : Xword) : Bool :=
  mbzOk a && tagOf a != 3 &&
  (tagOf a != 2 || (decide (sliceCell a < 1600) && (sliceDev a != env.dev.toNat || decide (sliceDie a < env.n))))

/-! ### Faults of cell operations -/

/-- Place bytes in the detail: byte 48 + `at` onward. -/
def detail (fs : List (Nat × Nat)) : Nat := fs.foldr (fun f r => f.2 * 2 ^ (8 * f.1) + r) 0
/-- A fault without lanes. -/
def plainFault (c : Cause) (fs : List (Nat × Nat)) : CellFault := ⟨c, 0xFF, detail fs⟩
/-- A fault of a lane. -/
def laneFault (c : Cause) (l : Nat) (fs : List (Nat × Nat)) : CellFault := ⟨c, l, detail fs⟩

/-- The range guard: the recorded entry that `n` bytes from `a` overlap (R159). -/
def guardHit (c : Cell) (a n : Nat) : Option GuardEntry :=
  c.guards.find? fun g => decide (a ≤ g.hi ∧ g.lo < a + n)

/-- The first check that an access of `n` bytes at the unbounded offset `a` breaks, in the order scratchpad range,
misaligned, early touch (R151, R159, R469; the place of early touch is DEDUCED, log 13). -/
def padCheck (c : Cell) (lane : Nat) (a : Int) (n align : Nat) : Option CellFault :=
  let off := wrapN 32 a
  if a < 0 ∨ (padSize : Int) < a + n then some (laneFault .padRange lane [(0, off)])
  else if a % align ≠ 0 then some (laneFault .misaligned lane [(0, off)])
  else match guardHit c a.toNat n with
    | some g => some (laneFault .earlyTouch lane [(0, max a.toNat g.lo), (4, g.lo), (8, g.hi), (12, g.tl.toNat)])
    | none => none

/-- The fault of the lowest lane that breaks a check (R469). -/
def firstFault (chk : Nat → Option CellFault) (l : Nat) : Option CellFault :=
  (List.range l).findSome? chk

/-- The base of a scratchpad form: zext(bA, 32) + off (R332). -/
def padBase (c : Cell) (a : BitVec 4) (x : Option Word) : Int := ((c.getB a).toNat : Int) + offS x

/-- The 64 bytes from an unbounded offset; those below 0 read zero, and no enabled lane uses them (R332, R333). -/
def padWord (p : Mem) (base : Int) : Nat :=
  if 0 ≤ base then p.read base.toNat 64 else p.read 0 (64 - (-base).toNat) * 2 ^ (8 * (-base).toNat)
/-- The cell after a slot has written runs of bytes: the new scratchpad, and the runs (R154). -/
def Cell.store (c : Cell) (p : Mem) (l : List (Nat × Nat)) : Cell := { c with pad := p, stored := c.stored ++ l }
/-- What the free choices about a word of a cell's scratchpad in a bundle are made by. -/
def wordSeed (env : Env) (off : Nat) : Nat := ((env.tag * 64 + env.die) * 2048 + env.cell) * 32768 + off / 4
/-- The scratchpad as a bundle's reads find it: a word that an engine has written since the die's last bundle may still read
as before that write, a free choice, if the bundle had been issued by then (R159, R195, R337; log 106). -/
def raceView (env : Env) (c : Cell) : Mem :=
  match env.bsn with
  | none => c.pad
  | some b => c.raced.foldr (fun r p =>
      if b ≤ r.upTo ∧ Config.pick (2 * wordSeed env r.off + 1) 2 % 2 = 1 then p.set r.off r.old else p) c.pad

/-- The scratchpad with every such word as it was before its write: the earliest that a feed may read (R367). -/
def earliestView (env : Env) (c : Cell) : Mem :=
  match env.bsn with
  | none => c.pad
  | some b => c.raced.foldr (fun r p => if b ≤ r.upTo then p.set r.off r.old else p) c.pad

/-! ### Acting on the cells of a bundle -/

/-- A cell operation: its surroundings, the cell before the bundle, the cell as earlier slots left it. -/
abbrev CellFn := Env → Cell → Cell → Except CellFault Cell

/-- The surroundings of cell `i` of a window. -/
def envOf (f : Focus) (d i : Nat) : Env :=
  ⟨d, i, f.n, f.h, f.w, f.dev, f.carried, (f.ks[d]?).getD (RegFile.fill 2 0), f.bsn, f.tag⟩

/-- Whether cell `i`'s unit is held from the slot in hand, while others take it ahead (R107). -/
def Focus.skips (f : Focus) (i : Nat) : Bool := f.ahead && ((f.hold[i]?).getD []).contains f.now

/-- One slot over the cells of one window, from local cell `i` up: the new cells and the faults raised. A fault leaves
its cell as it was; the bundle will not retire at its die (R118). A cell whose unit is held takes no slot of it (R107). -/
def runCells (f : Focus) (d : Nat) (g : CellFn) : Nat → List Cell → List Cell →
    List Cell × List (Nat × SlotName × CellFault)
  | i, p :: ps, c :: cs =>
    let r := runCells f d g (i + 1) ps cs
    if f.skips i then (c :: r.1, r.2) else
    match g (envOf f d i) p c with
    | .ok c' => (c' :: r.1, r.2)
    | .error e => (c :: r.1, (i, f.now, e) :: r.2)
  | _, _, cs => (cs, [])

/-- One slot over one window. -/
def runWindow (f : Focus) (g : CellFn) (w : Window) : Window :=
  let r := runCells f w.die g 0 w.pre w.post
  { w with post := r.1, faults := w.faults ++ r.2 }

/-- The one operation through which a slot acts: every cell of every die that executes the bundle in hand, reading the
registers as they stood before the bundle (DEDUCED from R142, R194, R379, R386, log 14). Without a bundle in hand there
is no cell to act on. -/
def onCells (g : CellFn) (s : State) : Out :=
  .next (match s.focus with
    | none => s
    | some f => { s with focus := some { f with windows := f.windows.map (runWindow f g) } })

/-- A cell with A = 0 performs nothing (R117). -/
def ifActive (g : CellFn) : CellFn := fun env pre post => if pre.act then g env pre post else .ok post

/-- A slot operation that cannot fault. -/
def pureOp (g : Env → Cell → Cell → Cell) : CellFn := ifActive fun env pre post => .ok (g env pre post)

/-- A slot operation that writes the enabled lanes of vD (R317): the lane values are computed from the cell before the
bundle. -/
def vecOp (t : Nat) (m : BitVec 3) (d : BitVec 5) (f : Env → Cell → Nat → Nat) : CellFn :=
  pureOp fun env pre post =>
    post.setV d (mergeLanes (tyBits t) (pre.getM m) (pre.getV d) (f env pre))

end Sys2Proof.Machine
end

