-- ==== Sys2Proof/Machine/Flags.lean ====
section
/-!
DEFINITION. The flag computations: CFLAGS as a word (08 R149), its out-of-range count, and the flags and traps of vector
floating-point operations (11 R234).
-/
namespace Sys2Proof.Machine
open Sys2Proof

/-- CFLAGS as the 64-bit word of R149. -/
def CFlags.word (f : CFlags) : Xword :=
  BitVec.ofNat 64 (f.fp.toNat + b2n f.glost * 2 ^ 8 + f.oobcnt.toNat * 2 ^ 48)
/-- CFLAGS from a word; reserved bits are dropped (R149). -/
def CFlags.ofWord (w : Xword) : CFlags := ⟨BitVec.ofNat 5 (bits w 4 0), bit w 8, BitVec.ofNat 16 (bits w 63 48)⟩

/-- OOBCNT after `k` more lanes out of range: it saturates (R149, R335). -/
def CFlags.addOob (f : CFlags) (k : Nat) : CFlags := { f with oobcnt := BitVec.ofNat 16 (min 0xFFFF (f.oobcnt.toNat + k)) }
/-- CFLAGS after a floating-point operation's flags (R234). -/
def CFlags.addFp (f : CFlags) (fl : Flags5) : CFlags := { f with fp := f.fp ||| fl }

/-- The OR of the flags that lanes computed (R234). -/
def orFlags (l : List (Nat × Flags5)) : Flags5 := l.foldl (fun a p => a ||| p.2) 0

/-- The FP exception if a lane computed a flag whose enable bit is set: the lowest such lane, and the flags ORed over the
lanes (R234, R254). -/
def fpTrap (ctl : FpCtl) (l : List (Nat × Flags5)) : Option CellFault :=
  (l.find? fun p => p.2 &&& ctl.enables != 0).map fun p => laneFault .fpException p.1 [(0, (orFlags l).toNat)]

/-- A vector floating-point operation: `ls` are the lanes that take part with their flags, `upd` the cell with the
results written. On a trap nothing is written (R234). -/
def fpVec (ctl : FpCtl) (ls : List (Nat × Flags5)) (upd : Cell) : Except CellFault Cell :=
  match fpTrap ctl ls with
  | some f => .error f
  | none => .ok { upd with cflags := upd.cflags.addFp (orFlags ls) }

/-- The lanes of `n` bits that a mask enables, among the first `l`. -/
def enabledLanes (m : BitVec 16) (n l : Nat) : List Nat := (List.range l).filter (en m n)

end Sys2Proof.Machine
end

