-- ==== Sys2Proof/Machine/CSlot.lean ====
section
/-!
DEFINITION. How a C-slot instruction acts in its cell: what every command shares (19 R375-R377; 08 R158, R160; 09 R167,
R168), and how a bundle's commands leave (10 R204).
-/
namespace Sys2Proof.Machine
open Sys2Proof

/-- What a command's start yields when its checks pass. -/
structure Start where
  op : CmdOp
  land : Nat
  dests : List CellReg
  guarded : Option (Nat × Nat)
  deriving DecidableEq, Repr

/-- A command with nothing to land and nothing to guard. -/
def Start.plain (op : CmdOp) : Start := ⟨op, 0, [], none⟩

/-- The join object of a C-slot word (R272). -/
def joinOf (e : BitVec 1) (jo : BitVec 6) : Option (BitVec 6) := if e = 1 then some jo else none

/-- A command of timeline `tl` joins those that leave with the bundle; its number comes when it leaves (R204). -/
def Cell.leave (c : Cell) (env : Env) (tl : BitVec 2) (cls : BitVec 4) (join : Option (BitVec 6)) (st : Start) : Cell :=
  { c with leaving := c.leaving ++
      [⟨⟨tl, 0, cls, env.bsn, join, 0, st.op, .sent, 0, [], 0, [], [], 0⟩, st.land, st.dests,
        if bit env.carried.guard 0 then st.guarded else none⟩] }

/-- A command in a cell: with A = 0 it sends nothing and still takes its number and its join arrival (R207, R375); with
A = 1 it makes its checks and leaves. -/
def command (tl : BitVec 2) (cls : BitVec 4) (e : BitVec 1) (jo : BitVec 6)
    (start : Env → Cell → Cell → Except CellFault (Start × Cell)) : CellFn :=
  fun env pre post =>
    if !pre.act then .ok (post.leave env tl cls (joinOf e jo) (Start.plain .nothing))
    else match start env pre post with
      | .error f => .error f
      | .ok (st, c) => .ok (c.leave env tl cls (joinOf e jo) st)

/-- The address form fault (R254). -/
def badAddr (lane : Nat) (a : Xword) : CellFault := laneFault .addressForm lane [(0, a.toNat)]

/-- The checks of one access of `n` bytes: the address word, the end of a slice's scratchpad, the alignment (R167, R168,
R469). -/
def accessCheck (env : Env) (lane : Nat) (a : Xword) (n align : Nat) : Option CellFault :=
  if !addrOk env a then some (badAddr lane a)
  else if tagOf a = 2 ∧ sliceDev a = env.dev.toNat ∧ padSize < sliceOff a + n then
    some (laneFault .padRange lane [(0, sliceOff a)])
  else if a.toNat % align ≠ 0 then some (laneFault .misaligned lane [(0, if tagOf a = 2 then sliceOff a else a.toNat % 2 ^ 32)])
  else none

/-- A .flag access needs a slice address (R201, R382). -/
def flagCheck (fl : Option (BitVec 4)) (a : Xword) : Option CellFault :=
  if fl.isSome ∧ tagOf a ≠ 2 then some (badAddr 0xFF a) else none

/-! ### Shapes (R146, R378) -/

/-- The lowest and highest displacement a shape reaches from BASE, in bytes (R146). -/
def Shape.reachLo (h : Shape) : Int :=
  2 ^ h.esz.toNat * ((List.range 4).foldl (fun a k =>
    a + min 0 (((h.e[k]?.getD 0).toNat : Int) * (h.s[k]?.getD 0).toInt)) (0 : Int))
def Shape.reachHi (h : Shape) : Int :=
  2 ^ h.esz.toNat * ((List.range 4).foldl (fun a k =>
    a + max 0 (((h.e[k]?.getD 0).toNat : Int) * (h.s[k]?.getD 0).toInt)) (0 : Int)) + 2 ^ h.esz.toNat - 1
/-- The extent of index k (R146). -/
def Shape.ext (h : Shape) (k : Nat) : Nat := (h.e[k]?.getD 0).toNat + 1
/-- The number of elements. -/
def Shape.count (h : Shape) : Nat := h.ext 0 * h.ext 1 * h.ext 2 * h.ext 3
/-- The displacement of element (i0, i1, i2, i3) from BASE (R146). -/
def Shape.disp (h : Shape) (i : Nat × Nat × Nat × Nat) : Int :=
  2 ^ h.esz.toNat * ((i.1 : Int) * (h.s[0]?.getD 0).toInt + i.2.1 * (h.s[1]?.getD 0).toInt +
    i.2.2.1 * (h.s[2]?.getD 0).toInt + i.2.2.2 * (h.s[3]?.getD 0).toInt)
/-- The index tuple of linear position `t`, i0 fastest. -/
def Shape.tuple (h : Shape) (t : Nat) : Nat × Nat × Nat × Nat :=
  (t % h.ext 0, t / h.ext 0 % h.ext 1, t / (h.ext 0 * h.ext 1) % h.ext 2, t / (h.ext 0 * h.ext 1 * h.ext 2))

/-- A local side's form: bits 63:17 of BASE are zero (R378). -/
def localForm (h : Shape) : Option CellFault :=
  if h.base.toNat < 2 ^ 17 then none else some (badAddr 0xFF h.base)
/-- A local side's range: every byte within the scratchpad (R378). -/
def localRange (h : Shape) : Option CellFault :=
  let lo := (h.base.toNat : Int) + h.reachLo
  let hi := (h.base.toNat : Int) + h.reachHi
  if lo < 0 ∨ (padSize : Int) ≤ hi then some (plainFault .padRange [(0, wrapN 32 lo)]) else none
/-- The alignment of a side (R378). -/
def sideAlign (h : Shape) : Option CellFault :=
  if h.base.toNat % min (2 ^ h.esz.toNat) 4 = 0 then none
  else some (plainFault .misaligned [(0, h.base.toNat % 2 ^ 32)])
/-- A side that is not local: the form of its base (R167, R378). -/
def farForm (env : Env) (h : Shape) : Option CellFault := if addrOk env h.base then none else some (badAddr 0xFF h.base)
/-- A slice side on this device stays within its scratchpad (R168, R378). -/
def farRange (env : Env) (h : Shape) : Option CellFault :=
  if tagOf h.base = 2 ∧ sliceDev h.base = env.dev.toNat then
    let lo := (sliceOff h.base : Int) + h.reachLo
    let hi := (sliceOff h.base : Int) + h.reachHi
    if lo < 0 ∨ (padSize : Int) ≤ hi then some (plainFault .padRange [(0, wrapN 32 lo)]) else none
  else none

/-! ### Leaving at retirement (R109, R158, R160, R204) -/

/-- The guard table after a command leaves: an entry more, or GLOST when it is full (R158). -/
def Cell.recordGuard (c : Cell) (tl : BitVec 2) (num : Nat) : Option (Nat × Nat) → Cell
  | none => c
  | some (lo, hi) =>
    if c.guards.length < 16 then { c with guards := c.guards ++ [⟨lo, hi, tl, num⟩] }
    else { c with cflags := { c.cflags with glost := true } }

/-- Whether a command is a stream access (R196). -/
def CmdOp.isStream : CmdOp → Bool
  | .store _ _ _ | .load _ _ | .atom _ _ _ _ _ _ _ => true
  | _ => false
/-- Whether a command is a .flag access (R201). -/
def CmdOp.flag : CmdOp → Option (BitVec 4)
  | .store _ _ f => f
  | .atom _ _ _ _ _ _ f => f
  | _ => none

/-- tlK: the greatest number such that every command numbered so or below is complete (R148, R204); complete commands
at the head of the timeline are dropped. -/
def retireTimeline (k : BitVec 2) : Nat → Cell → Cell
  | 0, c => c
  | fuel + 1, c =>
    match c.cmds.find? (fun q => q.tl = k && q.num = c.tl.get k + 1) with
    | some q =>
      if q.st = .complete || q.op = .nothing then
        retireTimeline k fuel { c with
          tl := c.tl.put k (c.tl.get k + 1)
          cmds := c.cmds.filter fun r => !(r.tl = k && r.num = q.num) }
      else c
    | none => c

/-- A tile whose pass never reads some runs of bytes that its pipeline stores: those of its own bundle and of later ones
(R154, R194). -/
def Tile.keep (l : List (Nat × Nat)) (t : Tile) : Tile :=
  if l = [] then t
  else { t with kept := (t.kept ++ l.flatMap fun (r : Nat × Nat) => (List.range ((r.1 + r.2 + 3) / 4 - r.1 / 4)).map fun k => r.1 / 4 + k).eraseDups }
/-- The timelines of a cell brought up to date. -/
def Cell.advance (c : Cell) : Cell :=
  [0, 1, 2, 3].foldl (fun c k => retireTimeline k (c.cmds.length + 1) c) c

/-- Whether an access has been performed. -/
def CmdSt.isPerformed : CmdSt → Bool
  | .performed _ | .complete => true
  | _ => false
/-- Stream accesses of one (class) that are not yet acknowledged (R198). -/
def Cell.outstanding (c : Cell) (cls : BitVec 4) : List Cmd :=
  c.cmds.filter fun q => q.op.isStream && q.cls = cls && q.st != .complete

/-- One command leaves the cell: it takes its issue number and, if a stream access, its sequence number; a .flag access
and what queues behind one wait at the source (R198, R201, R204). `cyc` is the pipeline cycle of the start. -/
def Cell.send (c : Cell) (cyc : Nat) (l : Leaving) : Cell :=
  let k := l.cmd.tl
  let num := c.issue.get k + 1
  let stream := l.cmd.op.isStream
  let cls := l.cmd.cls
  let seq := c.seqNo.get cls
  let prior := c.outstanding cls
  let wait := stream && ((l.cmd.op.flag.isSome && !prior.isEmpty) || prior.any (fun q => q.st = .queued))
  let q : Cmd :=
    { l.cmd with
      num := num, seq := if stream then seq else 0, st := if wait then .queued else .sent, cyc := cyc }
  let c := { c with
    issue := c.issue.put k num
    seqNo := if stream then c.seqNo.put cls (seq + 1) else c.seqNo
    cmds := c.cmds ++ [q]
    hawk := c.hawk ++ l.dests.map (fun d => (HawkEntry.mk d (cyc + l.land) k num none)) }
  c.recordGuard k num l.guarded

end Sys2Proof.Machine
end

