-- ==== Sys2Proof/Machine/Ops.lean ====
section
/-!
DEFINITION. The named operations over the machine's state that the events and instructions share: slots, cells and
memories; interrupts (02 R35); trap records and the trap queue's admission (13 R253, R254, R261, R262); the snapshot
trigger (13 R264); join arrivals (15 R307); a context's death (13 R259); a freeze, the entry into the handler and the
return from it (06 R118-R124, 13 R257, R258, 20 R409, R411).
-/
namespace Sys2Proof.Machine
open Sys2Proof

/-- An event that is not due changes nothing (log 16). -/
def guarded (c : Bool) (t : State) (s : State) : State := if c then t else s

/-- Whether a strip is due or under way (R54, R56). -/
def State.stripDue (s : State) : Bool := s.boot.pend || (s.lastCause == 6 && s.boot.lease == .stripping)
/-- Whether a strip runs: from the cold reset that begins it on, until the boot ROM has ended it (R28, R56). -/
def State.stripping (s : State) : Bool :=
  (match s.resetRun with | some r => r.cold && (r.cause == 6 || s.boot.pend) | none => false) ||
  (s.boot.pending && s.stripDue)
/-- Whether the management window responds: while a reset or a strip runs, only RESETCTL and PKGPWR do (R25, R57). -/
def State.windowOpen (s : State) : Bool := s.resetRun.isNone && !s.stripping
/-- Whether the window responds beyond the boot block, which is all the host sees in ROMHALT (R54). -/
def State.hostOpen (s : State) : Bool := s.windowOpen && s.boot.stage != .romhalt
/-- Whether an Utzen link trains (R38). -/
def State.linkTrains (s : State) : Bool := s.links.any fun l => l.state == .training
/-- Whether a base runtime runs (R54). -/
def State.hasRuntime (s : State) : Bool := s.boot.stage == .base || s.boot.stage == .custom

/-! ### Slots, dies and cells -/

/-- A context slot. -/
def State.slot (s : State) (c : BitVec 4) : Slot := s.slots.get c
/-- A context slot replaced. -/
def State.putSlot (s : State) (c : BitVec 4) (x : Slot) : State := { s with slots := s.slots.put c x }
/-- A context slot changed. -/
def State.onSlot (s : State) (c : BitVec 4) (f : Slot → Slot) : State := s.putSlot c (f (s.slot c))
/-- The control core and dies of a slot changed. -/
def State.onCtx (s : State) (c : BitVec 4) (f : Ctx → Ctx) : State :=
  s.onSlot c fun x => { x with ctx := f x.ctx }
/-- A physical die changed. -/
def State.onPdie (s : State) (p : BitVec 6) (f : PDie → PDie) : State := { s with pdies := s.pdies.put p (f (s.pdies.get p)) }

/-- All context slots. -/
def allSlots : List (BitVec 4) := (List.range 16).map (BitVec.ofNat 4)
/-- All physical dies, columns and queues. -/
def allDies : List (BitVec 6) := (List.range 64).map (BitVec.ofNat 6)

/-- The die count of a slot's rectangle. -/
def Slot.n (x : Slot) : Nat := x.h * x.w
/-- The physical die of a logical die (R83). -/
def Slot.phys (x : Slot) (ld : Nat) : BitVec 6 := BitVec.ofNat 6 (8 * (x.row + ld / x.w) + (x.col + ld % x.w))
/-- The physical dies of a slot's rectangle, by logical index. -/
def Slot.pdies (x : Slot) : List (BitVec 6) := (List.range x.n).map x.phys
/-- The power region of a physical die (R12). -/
def regionOf (d : BitVec 6) : BitVec 4 := BitVec.ofNat 4 (4 * (d.toNat / 16) + d.toNat % 8 / 2)
/-- The logical index of a physical die in a slot's set. -/
def Slot.logical (x : Slot) (d : BitVec 6) : Option Nat := (List.range x.n).find? fun ld => x.phys ld == d
/-- The power regions that hold dies of a set, ascending (R128). -/
def Slot.regions (x : Slot) : List (BitVec 4) :=
  allSlots.filter fun r => x.pdies.any fun p => regionOf p == r

/-- The logical die `d` changed. -/
def Ctx.onDie (c : Ctx) (d : Nat) (f : Die → Die) : Ctx := { c with dies := c.dies.modify d f }
/-- The cell `i` of a die changed. -/
def Die.onCell (d : Die) (i : Nat) (f : Cell → Cell) : Die := { d with cells := d.cells.modify i f }
/-- A cell of a context, by logical die and local index. -/
def Ctx.cell? (c : Ctx) (d i : Nat) : Option Cell := (c.dies[d]?).bind fun x => x.cells[i]?
/-- A cell of a context changed. -/
def Ctx.onCell (c : Ctx) (d i : Nat) (f : Cell → Cell) : Ctx := c.onDie d fun x => x.onCell i f

/-- D_min: the least completed BSN of the set (R110). -/
def Ctx.dmin (c : Ctx) : Nat :=
  match c.dies with
  | [] => c.bsn - 1
  | d :: r => r.foldl (fun a x => min a x.done) d.done
/-- Whether a rebroadcast is under way, after ERET or after the restore of a forced save (R99, R123). -/
def Ctx.resending (c : Ctx) : Bool := c.rebroadcast || c.resume.isSome
/-- The next BSN of the rebroadcast under way. -/
def Ctx.resendNext (c : Ctx) : Nat := match c.resume with | some r => r.next | none => c.trbNext.toNat
/-- The last BSN of the rebroadcast under way. -/
def Ctx.resendHigh (c : Ctx) : Nat := match c.resume with | some r => r.high | none => c.trbHigh.toNat
/-- The last BSN that has gone down the beam: during a rebroadcast, the last one sent again (R124). -/
def Ctx.sent (c : Ctx) : Nat := if c.resending then c.resendNext - 1 else c.bsn - 1

/-- BOOTSTAT (R63): after a warm reset its Reset values, but for LEASE (R5; log 26). -/
def Boot.bootstat (b : Boot) : Xword :=
  if b.statWarm then BitVec.ofNat 64 (b.lease.code * 2 ^ 4 + 2 * 2 ^ 10)
  else BitVec.ofNat 64 (b.stage.code + b.lease.code * 2 ^ 4 + b.cust.code * 2 ^ 7 + b.baseCopy.toNat * 2 ^ 10 +
    b.baseVer.toNat * 2 ^ 16 + b.custVer.toNat * 2 ^ 32)
/-- STRIPSTAT (R63). -/
def Boot.stripstat (b : Boot) : Xword :=
  BitVec.ofNat 64 (b2n b.recValid + 2 * b2n b.pend + b.stripStep.toNat * 2 ^ 8 + b.stripSeq.toNat % 2 ^ 32 * 2 ^ 32)

/-! ### Issue flow control (R107, R110) -/

/-- How far a die moves bundles out of its decode queue: at most 16 bundles past those it has retired, and not past a G
bundle or a YBAR that it has not retired (R107, R108, R114). -/
def Ctx.dequeued (y : Ctx) (d : Die) : Nat :=
  let top := max d.done (min y.sent (d.done + 16))
  match (y.hist.filter fun e => decide (d.done < e.bsn) && (e.bundle.gather || e.bundle.sync == some .ybar)).map (·.bsn) with
  | [] => top
  | b :: r => min top (r.foldl min b)
/-- A die moves what it can out of its decode queue; its dequeue point never falls. -/
def Ctx.moveQueue (y : Ctx) (d : Die) : Die := { d with deq := max d.deq (y.dequeued d) }
/-- Q_min: the least dequeue point of the set (R110). -/
def Ctx.qmin (y : Ctx) : Nat :=
  match y.dies with
  | [] => y.bsn - 1
  | d :: r => r.foldl (fun a x => min a x.deq) d.deq
/-- Whether issue flow control lets a bundle go down the beam (R110). -/
def Slot.mayIssue (x : Slot) (b : Nat) : Bool := decide (b ≤ x.ctx.qmin + 64 ∧ b ≤ x.ctx.dmin + 256)

/-! ### Self-refresh (R184) -/

/-- The interval of self-refresh, 3.90625 µs in ps (R184). -/
def selfInterval : Nat := 3906250
/-- Self-refresh up to a time: the row indices that have fallen due, in their order (R184). -/
def PDie.selfCatch (p : PDie) (time : Nat) : PDie :=
  if time < p.selfNext then p
  else
    let k := (time - p.selfNext) / selfInterval + 1
    { p with
      rowTime := (List.range (min k 4096)).foldl (fun t j =>
        t.put (p.selfPos + BitVec.ofNat 12 (k - min k 4096 + j)) (p.selfNext + (k - min k 4096 + j) * selfInterval)) p.rowTime
      selfPos := p.selfPos + BitVec.ofNat 12 k
      selfNext := p.selfNext + k * selfInterval }

/-- The greatest age that self-refresh leaves a row, 40,000,000 intervals of 400 ps, in ps (R184). -/
def selfAge : Nat := 16000000000
/-- Self-refresh stops: every row has been restored within the last 16 ms (R184). -/
def PDie.selfStop (p : PDie) (time : Nat) : PDie :=
  let p := p.selfCatch time
  { p with rowTime := p.rowTime.map fun t => max t (time - selfAge) }

/-! ### Sequencer registers -/

/-- x0 reads zero (R287). -/
def Ctx.getX (c : Ctx) (i : BitVec 5) : Xword := if i = 0 then 0 else c.x.get i
/-- A write of x0 is discarded; another ends the wait for an earlier result of the register (R287). -/
def Ctx.setX (c : Ctx) (i : BitVec 5) (v : Xword) : Ctx :=
  if i = 0 then c else { c with x := c.x.put i v, xPend := c.xPend.put i none }
/-- Whether an x register's value is still to come. -/
def Ctx.xWaits (c : Ctx) (i : BitVec 5) : Bool := i != 0 && (c.xPend.get i).isSome
/-- An x register awaits the result with a token. -/
def Ctx.pendX (c : Ctx) (i : BitVec 5) (t : Nat) : Ctx :=
  if i = 0 then c else { c with xPend := c.xPend.put i (some t) }
/-- A result comes for an x register: it is written if the register still awaits it. -/
def Ctx.giveX (c : Ctx) (i : BitVec 5) (t : Nat) (v : Xword) : Ctx :=
  if i ≠ 0 ∧ c.xPend.get i = some t then { c with x := c.x.put i v, xPend := c.xPend.put i none } else c
/-- A result comes for a g register: it is written (R112), and the register awaits no more, unless a later one. -/
def Ctx.giveG (c : Ctx) (k : BitVec 3) (t : Nat) (v : Xword) : Ctx :=
  { c with g := c.g.put k v, gPend := if c.gPend.get k = some t then c.gPend.put k none else c.gPend }

/-! ### Throttling (R14, R137) -/

/-- Whether a power region is throttled now: under ISTEP, or under PLIM in the first 500 ns of each 1 µs (R137). -/
def State.throttledNow (s : State) (r : BitVec 4) : Bool :=
  (s.throttled.get r && s.istep.get r != 0) || (s.plimThrottle && decide (s.time % 1000000 < 500000))

/-! ### Interrupts (R35) -/

/-- An event for a vector: a masked vector sets its pending bit, another sends a message. -/
def State.signal (s : State) (v : Nat) : State :=
  if bit s.msixMask v then { s with msixPend := s.msixPend ||| BitVec.ofNat 69 (2 ^ v) }
  else { s with messages := s.messages ++ [v] }

/-- What has changed BOOTSTAT or STRIPSTAT signals vector 67 (R35). -/
def State.bootNote (was s : State) : State :=
  if was.boot.bootstat = s.boot.bootstat ∧ was.boot.stripstat = s.boot.stripstat then s else s.signal 67

/-! ### Time -/

/-- Device time in ns since the last cold reset (R73, R253). -/
def State.ns (s : State) : Nat := s.time / 1000
/-- Milliseconds in picoseconds. -/
def msPs (n : Nat) : Nat := n * 1000000000

/-! ### Memories (R191) -/

/-- Bytes of HBM or of host memory. -/
def State.rdMem (s : State) (host : Bool) (a n : Nat) : List Byte := (if host then s.host else s.hbm).bytes a n
/-- Bytes of HBM or of host memory replaced. -/
def State.wrMem (s : State) (host : Bool) (a : Nat) (b : List Byte) : State :=
  if host then { s with host := s.host.putBytes a b } else { s with hbm := s.hbm.putBytes a b }

/-! ### Effective priority and CTXSTAT (R85, R100) -/

/-- Whether a slot waits for dies. -/
def SlotState.waits (x : SlotState) : Bool := x = .waiting || x = .saved
/-- The effective priority of a slot (R85): one step for each 10 ms of waiting, up to 7; the base priority in every other state
(in RESTORING, and in DRAINING from a waiting state, log 117). -/
def Slot.eprio (x : Slot) (time : Nat) : Nat :=
  if x.state.waits then min 7 (x.prio.toNat + (time - x.since) / msPs 10) else x.prio.toNat
/-- Whether a slot's dies are held (R90). -/
def SlotState.holdsDies : SlotState → Bool
  | .running | .stepping | .saving | .restoring | .draining | .ending => true
  | _ => false
/-- Whether a slot has dies that are held for it: one that died while it waited has none. -/
def Slot.holds (x : Slot) : Bool := x.state.holdsDies && x.n != 0
/-- Whether every die of a context has retired every bundle issued; in a handler, whose bundles every die performs at
once, nothing is waited for (R313). -/
def Slot.retired (x : Slot) : Bool := x.ctx.freeze.isNone && (x.ctx.inHandler || decide (x.ctx.sent ≤ x.ctx.dmin))
/-- The core a slot holds: in ENDING until every die has retired every bundle issued (R90). -/
def Slot.coreHeld (x : Slot) : Option (BitVec 3) := if x.state = .ending && x.retired then none else x.core
/-- The pre-emption request of a slot, unless its waiter has been allocated or is dead (R91). -/
def State.asked (s : State) (c : BitVec 4) : Option PreReq :=
  (s.slot c).request.filter fun r => (s.slot r.waiter).state.waits && (s.slot r.waiter).life == r.life
/-- CTXSTAT of a slot (R100). -/
def State.ctxStat (s : State) (c : BitVec 4) : Xword :=
  let x := s.slot c
  if x.state = .free then BitVec.ofNat 64 (15 * 2 ^ 12)
  else
    let holds := x.holds || (x.state = .saved && x.vbound)
    BitVec.ofNat 64 (
      x.state.code + x.prio.toNat * 2 ^ 4 + x.eprio s.time * 2 ^ 8 + b2n x.ctx.fixed * 2 ^ 11 +
      (match x.coreHeld with | some k => k.toNat | none => 15) * 2 ^ 12 +
      (if x.holds then x.n else 0) * 2 ^ 16 + x.queue.toNat * 2 ^ 24 + b2n x.vbound * 2 ^ 30 + b2n x.spawned * 2 ^ 31 +
      x.parent.toNat * 2 ^ 32 +
      (if holds then (8 * x.row + x.col) * 2 ^ 36 + (x.h - 1) * 2 ^ 42 + (x.w - 1) * 2 ^ 45 else 0) +
      min 0xFFFF ((if x.state.waits then s.time - x.since else x.waited) / msPs 1) * 2 ^ 48)

/-! ### Scratchpads without an owner (R22, R24) -/

/-- The dies that a slot holds keep the scratchpads of its cells; those of an offline column are lost (R16, R22). -/
def State.leavePads (s : State) (c : BitVec 4) : State :=
  let x := s.slot c
  if !x.state.holdsDies then s
  else (List.range x.n).foldl (fun s ld => s.onPdie (x.phys ld) fun p =>
    { p with pads := if (s.columns.get (x.phys ld)).offline then []
                     else match x.ctx.dies[ld]? with | some d => d.cells.map (·.pad) | none => p.pads }) s

/-! ### Snapshots (R264) -/

/-- The snapshot of control core `k`: the context it runs; zeros for a core that runs none (log 17). -/
def State.snapCore (s : State) (k : Nat) : List Xword :=
  match allSlots.find? (fun c => (s.slot c).coreHeld == some (BitVec.ofNat 3 k)) with
  | none => List.replicate 8 0
  | some c =>
    let x := s.slot c
    let n := BitVec.ofNat 64
    [n c.toNat, x.ctx.pc, n x.ctx.bsn, n x.ctx.qmin, n x.ctx.dmin, n x.ctx.hist.length, n x.state.code, x.ctx.g.get 0]

/-- The largest of some numbers. -/
def maxOf (l : List Nat) : Nat := l.foldl max 0

/-- The cell of the context whose scratchpad a stream access is for, if it is for one. -/
def CmdOp.cellOf (o : CmdOp) : Option (Nat × Nat) :=
  match o with
  | .store a _ _ | .load a _ | .atom a _ _ _ _ _ _ => if tagOf a = 2 then some (sliceDie a, sliceCell a) else none
  | _ => none
/-- How many arrivals the reorder buffer of a cell of a context holds (R199). -/
def State.reorderIn (s : State) (c : BitVec 4) (ld i : Nat) : Nat :=
  let x := s.slot c
  (x.ctx.dies.flatMap fun d => d.cells.flatMap fun q =>
    q.cmds.filter fun k => k.st == .held && k.op.cellOf == some (ld, i)).length +
  (s.podWaiting.filter fun p => x.desc.podgrp != 0 && p.group == x.desc.podgrp && sliceDie p.addr == ld &&
    sliceCell p.addr == i).length
/-- Whether a park is of a request of a die (R255). -/
def Park.ofDie (k : Park) (c : BitVec 4) (ld : Nat) (p : BitVec 6) : Bool :=
  k.slot == c && match k.what with
    | .command d _ _ _ => d == ld
    | .twin d _ _ => d == ld
    | .walk q _ => q == p
    | .fetch => false
/-- How far the units of a cell stand apart: one that is held is behind the others, which have taken every bundle offered them
(R107, R264). -/
def AheadCell.slip (q : AheadCell) (b : Nat) : Nat :=
  let at' := fun u => match q.held.find? fun h => h.1 == u with | some h => h.2 - 1 | none => b
  maxOf [at' 0, at' 1, at' 2] - min (at' 0) (min (at' 1) (at' 2))
/-- The largest unit slip of a die's cells. -/
def Die.slip (d : Die) : Nat := match d.ahead with | some a => maxOf (a.cells.map fun q => q.slip a.bsn) | none => 0
/-- The snapshot of a physical die: a word's two values stand low half first (log 17). -/
def State.snapDie (s : State) (p : BitVec 6) : List Xword :=
  let d := s.pdies.get p
  let n := BitVec.ofNat 64
  match d.owner with
  | none => [0, 0, 0, 0, 0, 0, n (d.walks.length), 0, n (d.level.toNat + d.trips.toNat * 2 ^ 32)]
  | some c =>
    let x := s.slot c
    match (List.range x.n).find? (fun ld => x.phys ld == p) with
    | none => List.replicate 9 0
    | some ld =>
      let y := (x.ctx.dies[ld]?).getD (Die.entry 0)
      [n (c.toNat + x.life.toNat * 2 ^ 32), n y.done, n y.deq, y.cyc, y.late, n (x.ctx.sent - y.deq + y.slip * 2 ^ 32),
       n (d.walks.length + (s.parks.filter fun k => k.ofDie c ld p).length * 2 ^ 32),
       n (maxOf (y.cells.map fun q => q.hawk.length) +
          maxOf ((List.range y.cells.length).map fun i => s.reorderIn c ld i) * 2 ^ 32),
       n (d.level.toNat + d.trips.toNat * 2 ^ 32)]

/-- The common snapshot trigger: it latches while ARMED, else MISSED rises (R264). -/
def State.trigger (s : State) (src : Nat) (slot : BitVec 4) (cause : Nat) : State :=
  if s.snap.armed then
    ({ s with snap :=
        { s.snap with
          armed := false, src := BitVec.ofNat 4 src, slot := slot, cause := BitVec.ofNat 8 cause
          seqr := (List.range 8).flatMap s.snapCore
          seqSlots := allSlots.map s.ctxStat
          dies := allDies.map s.snapDie } }).signal 68
  else { s with snap := { s.snap with missed := BitVec.ofNat 16 (min 0xFFFF (s.snap.missed.toNat + 1)) } }

/-! ### Trap records (R253, R254, R261) -/

/-- The common header of a record (R253). -/
def recHead (cls : Nat) (cause : Cause) (slot life : BitVec 4) (ns : Nat) : List (Nat × Nat) :=
  [(0, cls), (1, cause.code), (2, slot.toNat), (3, life.toNat), (8, ns % 2 ^ 64)]
/-- A record from its header and its fields (R253): bytes not named are zero. -/
def recOf (fs : List (Nat × Nat)) : BitVec 512 := BitVec.ofNat 512 (detail fs)

/-- The number of free records of the trap queue (R261). -/
def TrapQueue.room (q : TrapQueue) : Nat := 2 ^ q.size.toNat - (q.tail - q.head).toNat

/-- A record goes to the host: it takes the next place of the ring, and vector 64 follows it (R253, R261). -/
def State.postTrap (s : State) (r : TrapRec) : State :=
  let q := s.tq
  let data := r.data ||| BitVec.ofNat 512 (q.tail.toNat * 2 ^ 32)
  let a := (q.base.toNat * 4096 + 64 * (q.tail.toNat % 2 ^ q.size.toNat)) % 2 ^ 64
  { s with
    tq := { q with tail := q.tail + 1 }
    posted := s.posted ++ [⟨none, some r, a, bytesOf 64 data.toNat, some 64, none⟩] }

/-- DROPPED rises (R189, R263). -/
def TrapQueue.drop (q : TrapQueue) : TrapQueue := { q with dropped := BitVec.ofNat 16 (min 0xFFFF (q.dropped.toNat + 1)) }
/-- A recoverable record is held (R261). -/
def TrapQueue.hold (q : TrapQueue) (r : TrapRec) : TrapQueue :=
  { q with held := q.held ++ [r], ovf := BitVec.ofNat 16 (min 0xFFFF (q.ovf.toNat + 1)) }

/-- The admission of a record (R261-R263). -/
def State.takeRecord (s : State) (r : TrapRec) : State :=
  let q := s.tq
  match q.state with
  | .disabled => if r.cls = 5 then { s with tq := q.drop } else s
  | .error =>
    if r.cls = 5 then { s with tq := q.drop }
    else if r.cls = 4 then { s with tq := { q with fatal := q.fatal ++ [r] } }
    else { s with tq := q.hold r }
  | .active =>
    if r.cls = 5 then (if 2 ≤ q.room then s.postTrap r else { s with tq := q.drop })
    else if r.cls = 4 then
      (if 1 ≤ q.room ∧ q.fatal = [] then s.postTrap r else { s with tq := { q with fatal := q.fatal ++ [r] } })
    else if 2 ≤ q.room ∧ q.held = [] then s.postTrap r else { s with tq := q.hold r }

/-- A record of classes 1 to 5 is offered; those of classes 1 to 4 fire the snapshot trigger when they are made
(R261, R264; log 17). -/
def State.offer (s : State) (r : TrapRec) : State :=
  let s := s.takeRecord r
  if r.cls = 5 then s else s.trigger 2 r.slot r.cause.code

/-- Waiting fatal records are written in order of death while a slot is free (R261). -/
def State.drainFatal : Nat → State → State
  | 0, s => s
  | k + 1, s =>
    match s.tq.fatal with
    | r :: rest => if s.tq.state = .active ∧ 1 ≤ s.tq.room then
        State.drainFatal k (({ s with tq := { s.tq with fatal := rest } }).postTrap r) else s
    | [] => s
/-- Held recoverable records follow while two slots are free (R261). -/
def State.drainHeld : Nat → State → State
  | 0, s => s
  | k + 1, s =>
    match s.tq.held with
    | r :: rest => if s.tq.state = .active ∧ 2 ≤ s.tq.room ∧ s.tq.fatal = [] then
        State.drainHeld k (({ s with tq := { s.tq with held := rest } }).postTrap r) else s
    | [] => s
/-- What slots that have come free let be written (R261, R262). -/
def State.drainTraps (s : State) : State :=
  let s := s.drainFatal s.tq.fatal.length
  s.drainHeld s.tq.held.length

/-! ### Join objects (R305, R307) -/

/-- A join object after `n` arrivals of one cycle, `p` of them registered before, with `k` drops (R307). -/
def Join.deliver (j : Join) (n p k : Nat) : Join :=
  if !j.valid then j
  else
    let j := { j with arr := j.arr + BitVec.ofNat 32 n, pend := j.pend - BitVec.ofNat 32 p, drop := j.drop + BitVec.ofNat 24 k }
    if !j.spent && decide (j.exp.toNat ≤ j.arr.toNat) then
      let e := j.exp.toNat - j.drop.toNat
      { j with rdy := BitVec.ofNat 8 (min 255 (j.rdy.toNat + 1)), arr := 0, exp := BitVec.ofNat 24 e, drop := 0,
               spent := decide (e = 0) }
    else j
/-- One arrival registers (R307); on an object not valid or SPENT, nothing does. -/
def Join.register (j : Join) : Join := if j.valid && !j.spent then { j with pend := j.pend + 1 } else j
/-- One registered arrival for a join object of a context is made: it is delivered at most 64 sequencer cycles later (R307; log
107). -/
def Ctx.arrive (c : Ctx) (j : BitVec 6) : Ctx := { c with arrivals := c.arrivals ++ [(j, 64)] }
/-- The first `n` arrivals on their way are delivered in one sequencer cycle, those of one object counted together (R307). -/
def Ctx.deliverFirst (c : Ctx) (n : Nat) : Ctx :=
  let l := (c.arrivals.take n).map Prod.fst
  { c with
    arrivals := c.arrivals.drop n
    joins := l.eraseDups.foldl (fun js j => js.put j ((js.get j).deliver (l.count j) (l.count j) 0)) c.joins }
/-- A step of the arrivals on their way: those that may take no more are delivered, and with them as many as `n` says. -/
def Ctx.stepArrivals (c : Ctx) (n : Nat) : Ctx :=
  let due := (c.arrivals.filter fun a => a.2 = 0).length
  let c := { c with arrivals := c.arrivals.map fun (a : BitVec 6 × Nat) => (a.1, a.2 - 1) }
  c.deliverFirst (if n ≤ due then due else n)
/-- The first `n` of the arrivals on their way to one object leave: they are delivered in the cycle in which BARR or BARD
delivers one (R307). -/
def Ctx.takeArrivals (c : Ctx) (j : BitVec 6) : Nat → Ctx
  | 0 => c
  | n + 1 => Ctx.takeArrivals { c with arrivals := c.arrivals.eraseP fun a => a.1 == j } j n

/-! ### Commands (R204, R207) -/

/-- The commands of a cell with A = 0 that its timelines have passed: their join arrivals are due (R207, R307). -/
def passedJoins (old new : Cell) : List (BitVec 6) :=
  old.cmds.filterMap fun q =>
    if q.op = .nothing ∧ ¬ new.cmds.any (fun r => r.tl = q.tl && r.num = q.num) then q.join else none

/-- A command of a cell changed. -/
def Cell.onCmd (c : Cell) (tl : BitVec 2) (num : Nat) (f : Cmd → Cmd) : Cell :=
  { c with cmds := c.cmds.map fun q => if q.tl = tl ∧ q.num = num then f q else q }
/-- A command of a cell. -/
def Cell.cmd? (c : Cell) (tl : BitVec 2) (num : Nat) : Option Cmd := c.cmds.find? fun q => q.tl = tl && q.num = num

/-- The timelines of a cell brought up to date, and the joins of the commands that completed by it delivered. -/
def Ctx.settleCell (c : Ctx) (d i : Nat) : Ctx :=
  match c.cell? d i with
  | none => c
  | some q =>
    let q' := q.advance
    (passedJoins q q').foldl Ctx.arrive (c.onCell d i fun _ => q')

/-- A command completes: its timeline advances and its join arrival is delivered (R204, R307). -/
def Ctx.completeCmd (c : Ctx) (d i : Nat) (tl : BitVec 2) (num : Nat) : Ctx :=
  match (c.cell? d i).bind fun q => q.cmd? tl num with
  | none => c
  | some q =>
    let c := c.onCell d i fun x => x.onCmd tl num fun r => { r with st := .complete }
    let c := match q.join with | some j => c.arrive j | none => c
    c.settleCell d i

/-- Whether a context has no command, access, walk or landing under way (R92, R93, R313): every command complete; with
`hawks`, every hawk empty too. -/
def Ctx.quiet (c : Ctx) (hawks : Bool) : Bool :=
  c.dies.all (fun d => d.cells.all fun q =>
    q.cmds.all (fun k => k.st == .complete || k.op == .nothing) && q.tiles.isEmpty && (!hawks || q.hawk.isEmpty)) &&
  c.adds.isEmpty && c.acc.isEmpty && c.arrivals.isEmpty
/-- Whether any accumulator bank of the set is live (R92). -/
def Ctx.anyLive (c : Ctx) : Bool :=
  c.dies.any fun d => d.cells.any fun q => q.acc.toList.any fun b => b.live

/-! ### Walks (R179) -/

/-- The walks that satisfy a test end. -/
def PDie.dropWalks (p : PDie) (gone : Walk → Bool) : PDie :=
  { p with walks := p.walks.filter fun w => !gone w, walkQueue := p.walkQueue.filter fun w => !gone w }
/-- How many walks that wait can start. -/
def PDie.walkRoom (p : PDie) : Nat := min (384 - p.walks.length) p.walkQueue.length
/-- Walk slots that have come free take the walks that wait, in their order (R179); WALKSTAT counts them. -/
def State.fillWalks (s : State) : State :=
  { s with
    pdies := s.pdies.map fun p =>
      { p with walks := p.walks ++ p.walkQueue.take p.walkRoom, walkQueue := p.walkQueue.drop p.walkRoom }
    transl := { s.transl with walks := s.transl.walks + BitVec.ofNat 32 ((s.pdies.toList.map PDie.walkRoom).foldl (· + ·) 0) } }

/-! ### Death (R259) -/

/-- The least D_d of the table of the latest freeze. -/
def Ctx.dtabMin (c : Ctx) : Nat :=
  match (List.range c.dies.length).map fun d => ((c.dtab[d]?).getD 0).toNat with
  | [] => 0
  | d :: r => r.foldl min d

/-- The least D_d of the freeze in force: after the restore of a forced save, that of its table. -/
def Ctx.leastDone (c : Ctx) : Nat := match c.resume with | some r => r.least | none => c.dtabMin
/-- The class 4 record of a slot (R254). -/
def State.fatalRec (s : State) (c : BitVec 4) (i : DeadInfo) : TrapRec :=
  let x := s.slot c
  let inForce := x.ctx.inHandler || x.ctx.resending || i.cause = .noHandler || i.cause = .doubleFault
  ⟨4, i.cause, c, recOf (recHead 4 i.cause c x.life s.ns ++
    [(16, (x.ctx.bsn - 1) % 2 ^ 64), (24, if inForce then x.ctx.leastDone else 0), (32, i.ld.getD 0xFF), (33, i.pd.getD 0xFF),
     (34, i.cell.getD 0xFFFFFFFF), (38, i.link), (39, i.orig), (40, i.code), (48, i.addr.toNat)])⟩

/-- A fatal cause with nothing more to say. -/
def DeadInfo.plain (c : Cause) : DeadInfo := ⟨c, none, none, none, 0xFF, 0, 0, 0⟩
/-- A fatal cause of a context with the request it comes from, where one applies, and a link or peer number (R254). -/
def State.deathAt (s : State) (c : BitVec 4) (cause : Cause) (link : Nat) (o : Option Origin) : DeadInfo :=
  match o with
  | none => { (DeadInfo.plain cause) with link := link }
  | some o => ⟨cause, some o.die.toNat, some ((s.slot c).phys o.die.toNat).toNat, some (1600 * o.die.toNat + o.cell.toNat), link,
      0, 0, o.addr⟩

/-- A cell of a dead context: its queues, its hawk and its tiles are emptied (R259). -/
def Cell.purge (c : Cell) : Cell := { c with cmds := [], hawk := [], tiles := [], leaving := [], contrib := none, stored := [], raced := [], fence := [], waited := none }
/-- A die whose units take nothing ahead, and whose sync waits are to be met anew (R107, R396, R398). -/
def Die.rewind (d : Die) : Die := { d with ahead := none, cells := d.cells.map fun q => { q with waited := none } }
/-- A control core of a dead context: it issues and fetches nothing more, and its requests are dropped (R259). -/
def Ctx.purge (c : Ctx) : Ctx :=
  { c with
    acc := [], adds := [], tree := [], freeze := none, resume := none, ybar := none, podWait := none, podOuter := none, lines := [], fetchPark := none
    dies := c.dies.map fun d => { d with cells := d.cells.map Cell.purge, fault := none, flag := false, frozen := false, ahead := none } }

/-- A child has halted or become dead: the arrival it was registered for reaches its parent, at once or once the parent
is restored (R304; log 20). -/
def State.tellParent (s : State) (c : BitVec 4) : State :=
  let x := s.slot c
  match x.join with
  | none => s
  | some j =>
    let p := s.slot x.parent
    let s := s.onSlot c fun x => { x with join := none }
    if !x.spawned ∨ p.life ≠ x.parentLife then s
    else match p.state with
      | .free | .draining => s
      | .saving | .saved | .restoring => s.onSlot x.parent fun y => { y with lateJoins := y.lateJoins ++ [j] }
      | _ => s.onCtx x.parent fun y => y.arrive j

/-- The first death in a family gives the cause of its record (R79). -/
def State.familyDeath (s : State) (fam : Nat) (c : Cause) : State :=
  { s with families := s.families.map fun f =>
      if f.id = fam then { f with dead := match f.dead with | none => some c | some d => some d } else f }

/-- A context becomes dead (R90, R259): DRAINING, its fatal record offered, its requests dropped, its parks released. Pod
accesses held for it are looked at again, and refused. In FREE, DRAINING and ENDING nothing happens (R90; for ENDING
DEDUCED, log 18). -/
def State.kill (s : State) (c : BitVec 4) (i : DeadInfo) : State :=
  let x := s.slot c
  if x.state = .free ∨ x.state = .draining ∨ x.state = .ending then s
  else
    let s := ((s.offer (s.fatalRec c i)).familyDeath x.fam i.cause).tellParent c
    let s := s.onSlot c fun x =>
      { x with state := .draining, dead := some i, request := none, save := none, ctx := x.ctx.purge
               waited := if x.state.waits then s.time - x.since else x.waited
               h := if x.state = .saved then 0 else x.h, w := if x.state = .saved then 0 else x.w }
    State.fillWalks { s with
      parks := s.parks.filter fun p => p.slot != c
      pdies := s.pdies.map fun p => p.dropWalks fun w => w.slot == c
      podHeld := s.podHeld.filter fun p => !(p.acc.group == x.desc.podgrp && x.desc.podgrp != 0)
      podArrived := s.podArrived ++ (s.podHeld.filter fun p => p.acc.group == x.desc.podgrp && x.desc.podgrp != 0).map
        fun p => (p.link, .access p.acc)
      focus := if s.focus.any (fun f => f.slot == c) then none else s.focus
      work := if s.focus.any (fun f => f.slot == c) then [] else s.work
      schedDue := true }

/-! ### Freezes (R118-R124) -/

/-- Whether a bundle is a collective of R120. -/
def isCollective (b : Bundle) : Bool :=
  b.ops.any (fun o => match o.2 with | .dperm _ _ _ _ _ => true | .dred _ _ _ => true | .tlrd _ _ _ => true | _ => false) ||
  b.sync == some .ybar
/-- Whether a register still awaits a tree result. -/
def Ctx.awaits (c : Ctx) (p : TreePend) : Bool :=
  match p.dest with
  | .g k => c.gPend.get k == some p.tok
  | .x d => c.xPend.get d == some p.tok
/-- A g register no longer awaits a tree result; an x register awaits TLRD's until its rebroadcast gives it (R303). -/
def Ctx.unawait (c : Ctx) (p : TreePend) : Ctx :=
  if !c.awaits p then c
  else match p.dest with
    | .g k => { c with gPend := c.gPend.put k none }
    | .x _ => c
/-- A freeze has drained: results that are complete have come; of the others, those that are still awaited are cancelled
until their bundle is rebroadcast, and TLRD's contributions with them (R119, R123). -/
def Ctx.cancelTree (c : Ctx) : Ctx :=
  let c := (c.tree.filter fun p => p.value.isSome).foldl (fun c p => match p.dest with
    | .g k => c.giveG k p.tok (p.value.getD 0)
    | .x d => c.giveX d p.tok (p.value.getD 0)) c
  let left := (c.tree.filter fun p => p.value.isNone && (p.again || c.awaits p)).map fun p =>
    { p with again := true, got := match p.dest with | .g _ => p.got | .x _ => [] }
  { (left.foldl Ctx.unawait c) with tree := left }

/-- Where a die of a freezing set stops (R120). -/
def Ctx.stopOf (c : Ctx) (z : Freeze) (d : Die) : Nat :=
  let stop := z.ff
  let stop := match z.f with
    | none => stop
    | some f =>
      match (c.hist.filter fun e => decide (f ≤ e.bsn ∧ d.done < e.bsn) && isCollective e.bundle).map (·.bsn) with
      | [] => stop
      | b :: r => min stop (r.foldl min b - 1)
  let stop := match d.fault with | some q => min stop (q.bsn - 1) | none => stop
  max d.done stop

/-- The precise fault that a freeze records: the lowest BSN, then the lowest die; each die holds its own first (R118). -/
def Ctx.firstFault (c : Ctx) : Option (Nat × DieFault) :=
  (List.range c.dies.length).foldl (fun best d =>
    match (c.dies[d]?).bind (·.fault) with
    | none => best
    | some f => match best with
      | none => some (d, f)
      | some b => if f.bsn < b.2.bsn then some (d, f) else best) none

/-- The freeze begins: the sequencer stops, and what units have taken ahead is dropped. In STEPPING the step is deferred, in ENDING the HALT is kept, and the slot is
RUNNING again for the handler, its watchdog count at zero; a yield that has not drained is given up (R90, R95, R260, R313;
log 22). -/
def State.startFreeze (s : State) (c : BitVec 4) (z : Freeze) : State :=
  s.onSlot c fun x =>
    let y := { x.ctx with freeze := some z, dies := x.ctx.dies.map fun d => { d with ahead := none } }
    match x.state with
    | .stepping => { x with state := .running, progress := s.time, ctx := { y with stepDeferred := true } }
    | .ending => { x with state := .running, progress := s.time, ctx := { y with haltTaken := true } }
    | _ => { x with save := none, ctx := y }

/-- The freeze record (R254): S is that of an earlier freeze whose rebroadcast had not passed its F (R124). -/
def State.freezeRec (s : State) (c : BitVec 4) (z : Freeze) (stop : Xword) : BitVec 512 :=
  let x := s.slot c
  let cls := z.cause.cls
  recOf (recHead cls z.cause c x.life s.ns ++
    [(16, if cls = 2 then z.f.getD 0 else 0), (24, z.ff), (32, stop.toNat), (40, z.die.getD 0xFF), (41, z.slot),
     (42, z.lane), (44, match z.die, z.cell with | some d, some i => 1600 * d + i | _, _ => 0xFFFFFFFF),
     (48, z.detail % 2 ^ 128)])

/-- What a fatal record says of the freeze that a death ends (R254). -/
def State.deathOf (s : State) (c : BitVec 4) (z : Freeze) (cause : Cause) (code : Nat) : DeadInfo :=
  ⟨cause, z.die, z.die.map fun d => ((s.slot c).phys d).toNat,
   match z.die, z.cell with | some d, some i => some (1600 * d + i) | _, _ => none, 0xFF, z.cause.code, code, 0⟩

/-- trap_entry (R121, R257, R258, R409): the record and the table go to the trap state; then the handler is entered at
TVEC, or the context is dead. x, g and TSCR stay as they are, and DIEMASK is kept for ERET. -/
def State.trapEntry (s : State) (c : BitVec 4) (z : Freeze) : State :=
  let x := (s.slot c).ctx
  let stop := z.stop
  let s := s.onCtx c fun y =>
    { y.cancelTree with
      trec := s.freezeRec c z stop
      dtab := (List.range y.dies.length).foldl (fun t d => t.put (BitVec.ofNat 6 d)
        (BitVec.ofNat 64 (((y.dies[d]?).map (·.done)).getD 0))) (RegFile.fill 6 0)
      tsEarly := stop
      trbNext := BitVec.ofNat 64 (match y.dies with | [] => y.bsn | d :: r => r.foldl (fun a x => min a x.done) d.done + 1)
      trbHigh := BitVec.ofNat 64 (if y.resending then y.resendHigh else z.ff)
      freeze := none
      resume := none
      ybar := none
      lines := []
      dies := y.dies.map fun d => { d.rewind with fault := none, flag := false, deq := d.done } }
  let s := s.trigger 2 c z.cause.code
  if x.inHandler then s.kill c (s.deathOf c z .doubleFault 0)
  else if x.tvec = 0 then s.kill c (s.deathOf c z .noHandler 0)
  else s.onSlot c fun x =>
    { x with
      progress := if x.ctx.podWait.any fun w => w.result.isNone then s.time else x.progress
      ctx := { x.ctx with inHandler := true, entryMask := x.ctx.dieMask, pc := x.ctx.tvec, podWait := none, podOuter := x.ctx.podWait } }

/-- ERET, after the other parts of its bundle (R411): outside a handler it has no effect (R312). -/
def Ctx.eret (y : Ctx) : Ctx :=
  if !y.inHandler then y
  else { y with
    inHandler := false, dieMask := y.entryMask, rebroadcast := true, podWait := y.podOuter, podOuter := none
    trbNext := BitVec.ofNat 64 (y.dtabMin + 1), lines := [], pc := y.tsEarly }

/-- A sequencer fault (R118, R289, R311): outside a handler a freeze without f begins; in one, TRAP escalates and any
other is a double fault (R258). -/
def State.seqFault (s : State) (c : BitVec 4) (cause : Cause) (slot det : Nat) (stop : Xword) : State :=
  let y := (s.slot c).ctx
  let z : Freeze := ⟨false, none, y.sent, stop, cause, slot, none, none, 0xFF, det⟩
  if y.inHandler then
    if cause = .softwareTrap then
      let orig := bits y.trec 15 8
      let die := bits y.trec 327 320
      let l := bits y.trec 383 352
      s.kill c
        { (DeadInfo.plain .escalated) with
          ld := if die = 0xFF then none else some die
          pd := if die = 0xFF then none else some ((s.slot c).phys die).toNat
          cell := if l = 0xFFFFFFFF then none else some l
          orig := orig, code := det % 2 ^ 32 }
    else s.kill c (s.deathOf c z .doubleFault 0)
  else s.startFreeze c z

end Sys2Proof.Machine
end

