-- ==== Sys2Proof/Machine/Translate.lean ====
section
/-!
DEFINITION. Handles, the table window, page walks and the translation of addresses (09 R169-R180).
-/
namespace Sys2Proof.Machine
open Sys2Proof

/-- What a request does (R171). -/
inductive Access where
  | read | write | atomic | fetch
  deriving DecidableEq, Repr

/-- Its number in a class 1 record (R254). -/
def Access.code : Access → Nat
  | .read => 0 | .write => 1 | .atomic => 2 | .fetch => 3

/-! ### The handle table (R169, R170) -/

/-- A handle's place of zeros. -/
def HandleSlot.zero (h : BitVec 12) : HandleSlot := ⟨h, Handle.zero, 0, 0, 0⟩

/-- The committed entry and the staging copy of a handle. -/
def Transl.slotOf (t : Transl) (h : BitVec 12) : HandleSlot :=
  (t.table.find? fun x => x.h == h).getD (HandleSlot.zero h)

/-- A place of the table put in, in ascending order; one of zeros is not listed. -/
def putHandle (x : HandleSlot) : List HandleSlot → List HandleSlot
  | [] => if x = HandleSlot.zero x.h then [] else [x]
  | y :: r =>
    if x.h.toNat < y.h.toNat then (if x = HandleSlot.zero x.h then y :: r else x :: y :: r)
    else if x.h = y.h then (if x = HandleSlot.zero x.h then r else x :: r)
    else y :: putHandle x r

/-- The table with a handle's place replaced. -/
def State.putHandle (s : State) (x : HandleSlot) : State :=
  { s with transl := { s.transl with table := Sys2Proof.Machine.putHandle x s.transl.table } }

/-- The entry of a handle as the sequencer's table holds it. -/
def State.entry (s : State) (h : BitVec 12) : Handle := (s.transl.slotOf h).entry
/-- The entry as the dies hold it: until a commit completes, the one it replaces (R172). -/
def State.dieEntry (s : State) (h : BitVec 12) : Handle :=
  match s.transl.pending.find? fun p => p.1 == h with
  | some p => p.2
  | none => s.entry h

/-- Whether a key slot holds a key pair (R60). -/
def State.keyed (s : State) (h : BitVec 12) : Bool := s.boot.keys.any fun k => k.1 == h

/-! ### Encrypted memory (R174) -/

/-- The key pair of a slot; an empty slot holds zeros (R56). -/
def State.keyPair (s : State) (h : BitVec 12) : BitVec 128 × BitVec 128 :=
  match s.boot.keys.find? fun k => k.1 == h with
  | some k => k.2
  | none => (0, 0)
/-- The data units that hold `m` bytes from place `x`, in the clear; `a` is the memory address of place `x` (log 34). -/
def State.units (s : State) (host : Bool) (a : Nat) (h : BitVec 12) (x m : Nat) : List Byte :=
  let k := s.keyPair h
  (List.range ((x % 64 + m + 63) / 64)).flatMap fun j =>
    xtsUnit false k.1 k.2 (x / 64 + j) (s.rdMem host (a - x % 64 + 64 * j) 64)
/-- The bytes of a run. -/
def State.rdRun (s : State) (r : Run) : List Byte :=
  match r.crypt with
  | none => s.rdMem r.host r.pa r.n
  | some (h, x) => ((s.units r.host r.pa h x r.n).drop (x % 64)).take r.n
/-- Data units encrypted, from unit `j` on. -/
def sealUnits (k : BitVec 128 × BitVec 128) : Nat → Nat → List Byte → List Byte
  | 0, _, _ => []
  | n + 1, j, b => xtsUnit true k.1 k.2 j (b.take 64) ++ sealUnits k n (j + 1) (b.drop 64)
/-- Bytes written to a run: each data unit they touch is read, changed and written (R174). -/
def State.wrRun (s : State) (r : Run) (b : List Byte) : State :=
  match r.crypt with
  | none => s.wrMem r.host r.pa b
  | some (h, x) =>
    let old := s.units r.host r.pa h x b.length
    let new := old.take (x % 64) ++ b ++ old.drop (x % 64 + b.length)
    s.wrMem r.host (r.pa - x % 64) (sealUnits (s.keyPair h) (new.length / 64) (x / 64) new)

/-- Bits 255:192 of an entry as a word (R170). -/
def Handle.word3 (e : Handle) : Xword :=
  BitVec.ofNat 64 (b2n e.rdp + 2 * b2n e.wrt + 4 * b2n e.exe + 8 * b2n e.atm + 32 * b2n e.enc + 64 * e.layer.toNat +
    e.gen.toNat * 2 ^ 32 + b2n e.valid * 2 ^ 63)
/-- The eight bytes that a write names replaced in a word. -/
def mergeBytes (old new : Xword) (be : BitVec 8) : Xword :=
  BitVec.ofNat 64 (packLanes 8 ((List.range 8).map fun i => lane 8 (if bit be i then new else old) i))
/-- An entry with its bits 255:192 written (R170); GEN is not among the written fields. -/
def Handle.withWord3 (e : Handle) (w : Xword) : Handle :=
  { e with valid := bit w 63, layer := BitVec.ofNat 2 (bits w 7 6), enc := bit w 5, atm := bit w 3, exe := bit w 2,
           wrt := bit w 1, rdp := bit w 0 }

/-- Why a commit is refused: CCAUSE (R170, R178). -/
def commitRefusal (e : Handle) : Option (BitVec 4) :=
  if e.valid ∧ e.limit.toNat < e.low.toNat then some 1
  else if 2 ≤ e.layer.toNat then some 2
  else if e.valid ∧ e.layer = 0 ∧ 2 ^ 41 ≤ e.base.toNat * 4096 + (e.limit.toNat - e.low.toNat) then some 3
  else if e.valid ∧ e.layer = 0 ∧ !e.enc then some 4
  else none

/-- A write to bits 191:0 of an entry reaches its staging copy alone (R170). -/
def State.stageHandle (s : State) (h : BitVec 12) (w : BitVec 2) (be : BitVec 8) (v : Xword) : State :=
  let x := s.transl.slotOf h
  if h = 0 then s
  else match w.toNat with
    | 0 => s.putHandle { x with base := BitVec.ofNat 52 (bits (mergeBytes (BitVec.ofNat 64 (x.base.toNat * 4096)) v be) 63 12) }
    | 1 => s.putHandle { x with limit := BitVec.ofNat 40 (bits (mergeBytes (x.limit.zeroExtend 64) v be) 39 0) }
    | 2 => s.putHandle { x with low := BitVec.ofNat 40 (bits (mergeBytes (x.low.zeroExtend 64) v be) 39 0) }
    | _ => s

/-- An entry becomes the committed one, with the next GEN; the dies hold the old one until the commit completes (R170,
R172). -/
def State.replaceHandle (s : State) (h : BitVec 12) (e : Handle) : State :=
  let old := s.transl.slotOf h
  let e := { e with gen := old.entry.gen + 1 }
  let s := s.putHandle ⟨h, e, e.low, e.limit, e.base⟩
  { s with transl := { s.transl with pending := s.transl.pending ++ [(h, old.entry)] } }

/-- A write to bits 255:192 commits the entry, or is refused into TSTAT; one for a handle being relocated is held (R170,
R173). -/
def State.commitHandle (s : State) (h : BitVec 12) (be : BitVec 8) (v : Xword) : State :=
  let x := s.transl.slotOf h
  if h = 0 ∨ be = 0 then s
  else if s.transl.relocRun.any (fun r => r.1 == h) then
    { s with transl := { s.transl with heldCommit := s.transl.heldCommit ++ [(be, v)] } }
  else
    let e := Handle.withWord3 { x.entry with low := x.low, limit := x.limit, base := x.base } (mergeBytes x.entry.word3 v be)
    match commitRefusal e with
    | some c =>
      let s := s.putHandle { x with low := x.entry.low, limit := x.entry.limit, base := x.entry.base }
      { s with transl := { s.transl with cref := true, ccause := c, chandle := h } }
    | none => s.replaceHandle h e

/-! ### The translation control registers (R178) -/

/-- An invalidation begins (R180). -/
def State.invalidate (s : State) (full : Bool) : State :=
  let t := s.transl
  { s with transl := { t with tinvBusy := true, tinvFull := full || (t.tinvBusy && t.tinvFull), tinvOf := t.tinvAddr } }

/-- A write of PTROOT: the root, and a full invalidation (R178). -/
def State.setRoot (s : State) (v : Xword) : State :=
  let s := { s with transl := { s.transl with root := BitVec.ofNat 41 (bits v 52 12), rootHost := bit v 1, rootEn := bit v 0 } }
  s.invalidate true

/-- A write of TINVCTL.GO; ignored while BUSY (R180). -/
def State.invalidateGo (s : State) (all : Bool) : State := if s.transl.tinvBusy then s else s.invalidate all

/-- A relocation command: it starts, or is refused (R173). -/
def State.relocate (s : State) : State :=
  let t := s.transl
  let e := s.entry t.rhandle
  let moved := { e with base := t.relocBase, layer := t.rlayer }
  if t.relocRun.isSome ∨ !e.valid ∨ t.rhandle = 0 ∨ (commitRefusal moved).isSome ∨ (!e.enc ∧ t.rlayer = 0) then
    { s with transl := { t with rst := 3 } }
  else { s with transl := { t with rst := 1, relocRun := some (t.rhandle, t.relocBase, t.rlayer) } }

/-- TSTAT (R178). -/
def Transl.tstat (t : Transl) : Xword :=
  BitVec.ofNat 64 (t.chandle.toNat + t.ccause.toNat * 2 ^ 12 + b2n t.cref * 2 ^ 16 + t.rlayer.toNat * 2 ^ 32 +
    t.rhandle.toNat * 2 ^ 36 + t.rst.toNat * 2 ^ 60)

/-- A read of 8 bytes of the table window (R169, R178). -/
def State.windowRead (s : State) (off : Nat) : Xword :=
  let t := s.transl
  if off < 0x20000 then
    let h := BitVec.ofNat 12 (off / 32)
    if h = 0 then 0
    else
      let e := s.entry h
      match off / 8 % 4 with
      | 0 => BitVec.ofNat 64 (e.base.toNat * 4096)
      | 1 => e.limit.zeroExtend 64
      | 2 => e.low.zeroExtend 64
      | _ => e.word3
  else match off - 0x20000 with
    | 0x00 => BitVec.ofNat 64 (b2n t.rootEn + 2 * b2n t.rootHost + t.root.toNat * 2 ^ 12)
    | 0x08 => t.tinvAddr
    | 0x10 => BitVec.ofNat 64 (b2n t.tinvAll + b2n t.tinvBusy * 2 ^ 62)
    | 0x18 => BitVec.ofNat 64 (t.relocBase.toNat * 4096)
    | 0x20 => t.tstat
    | 0x28 => BitVec.ofNat 64 (t.merges.toNat + t.walks.toNat * 2 ^ 32)
    | _ => 0

/-- A write of 8 bytes of the table window (R169, R170, R178). -/
def State.windowWrite (s : State) (off : Nat) (v : Xword) : State :=
  let t := s.transl
  if off < 0x20000 then
    let h := BitVec.ofNat 12 (off / 32)
    let w := off / 8 % 4
    if w = 3 then s.commitHandle h 0xFF v else s.stageHandle h (BitVec.ofNat 2 w) 0xFF v
  else match off - 0x20000 with
    | 0x00 => s.setRoot v
    | 0x08 => { s with transl := { t with tinvAddr := BitVec.ofNat 64 (bits v 56 12 * 4096) } }
    | 0x10 =>
      let s := { s with transl := { t with tinvAll := bit v 0 } }
      if bit v 63 then s.invalidateGo (bit v 0) else s
    | 0x18 => { s with transl := { t with relocBase := BitVec.ofNat 52 (bits v 63 12) } }
    | 0x20 =>
      let s := { s with transl := { t with
        rhandle := BitVec.ofNat 12 (bits v 47 36), rlayer := BitVec.ofNat 2 (bits v 33 32), cref := t.cref && !bit v 16 } }
      if bit v 63 then s.relocate else s
    | _ => s

/-! ### Translation (R171, R176, R177) -/

/-- Why an access does not go on: a recoverable cause, with the level of the walk (0xFF outside one); a walk to wait for;
a relocation to wait for. -/
inductive Stall where
  | fault (c : Cause) (level : Nat)
  | walk (page : Nat)
  | reloc
  deriving DecidableEq, Repr

/-- translate_handle of R171: the run of memory that `n` bytes at an offset of handle `h` are. `perms` false leaves out
the permission bits (R72). An atomic does not go to the host layer (R208, R296). Data units are numbered by the offset
(R174). -/
def translateHandle (e : Handle) (h : BitVec 12) (keyed : Bool) (off n : Nat) (k : Access) (perms : Bool) :
    Except Cause Run :=
  if !e.valid then .error .translationMiss
  else if off < e.low.toNat ∨ e.limit.toNat < off + n - 1 then .error .permission
  else if perms && !(match k with | .read => e.rdp | .write => e.wrt | .atomic => e.atm | .fetch => e.exe) then
    .error .permission
  else if e.enc && !keyed then .error .permission
  else if k = .atomic ∧ e.layer = 1 then .error .permission
  else .ok ⟨e.layer == 1, (e.base.toNat * 4096 + off - e.low.toNat) % 2 ^ 64, n, if e.enc then some (h, off) else none⟩

/-- A run of paged memory: key slot 0 in HBM, data units numbered by the address; host memory is in the clear (R174). -/
def pagedRun (host : Bool) (pa n : Nat) : Run := ⟨host, pa, n, if host then none else some (0, pa)⟩

/-- One level of a walk (R177): the entry at this level leads on, or maps the page, or the walk faults. -/
def walkStep (s : State) (va : Nat) : Nat → Bool → Nat → Except (Cause × Nat) Cached
  | level, host, table =>
    let idx := va / 2 ^ (12 + 9 * level) % 512
    let e := BitVec.ofNat 64 (ofBytes (s.rdRun (pagedRun host (table + 8 * idx) 8)))
    let addr := bits e 52 12 * 4096
    let toHost := bit e 6
    if !host && decide (2 ^ 41 ≤ table) then .error (.permission, level)
    else if !bit e 0 then .error (.translationMiss, level)
    else if bit e 1 then
      let size := match level with | 2 => 30 | 1 => 21 | _ => if bit e 7 then 16 else 12
      if 3 ≤ level ∨ addr % 2 ^ size ≠ 0 ∨ (!toHost ∧ 2 ^ 41 ≤ addr) then .error (.permission, level)
      else .ok ⟨va / 2 ^ size, size, toHost, addr, bit e 2, bit e 3, bit e 4, bit e 5⟩
    else match level with
      | 0 => .error (.permission, 0)
      | k + 1 => if !toHost ∧ 2 ^ 41 ≤ addr then .error (.permission, level) else walkStep s va k toHost addr

/-- A walk from the root (R176, R178). -/
def State.walkPages (s : State) (va : Nat) : Except (Cause × Nat) Cached :=
  if !s.transl.rootEn then .error (.translationMiss, 4)
  else walkStep s va 4 s.transl.rootHost (s.transl.root.toNat * 4096)

/-- A request checked against a translation (R177). -/
def useCached (c : Cached) (va n : Nat) (k : Access) : Except Cause Run :=
  if !(match k with | .read => c.rdp | .write => c.wrt | .atomic => c.atm | .fetch => c.exe) then .error .permission
  else if k = .atomic ∧ c.host then .error .permission
  else .ok (pagedRun c.host (c.base + va % 2 ^ c.bitsOf) n)

/-- The virtual address of a paged address word. -/
def vaOf (a : Xword) : Nat := bits a 56 0
/-- The handle and the offset of a handle address word. -/
def handleOf (a : Xword) : BitVec 12 := BitVec.ofNat 12 (bits a 51 40)
def handleOff (a : Xword) : Nat := bits a 39 0

/-- The translation of one access within a page, at a die (R171, R177, R179). -/
def State.translateAt (s : State) (p : BitVec 6) (a : Xword) (n : Nat) (k : Access) : Except Stall Run :=
  if tagOf a = 1 then
    let h := handleOf a
    if h = 0 then .error (.fault .permission 0xFF)
    else if s.transl.relocRun.any (fun r => r.1 == h) then .error .reloc
    else match translateHandle (s.dieEntry h) h (s.keyed h) (handleOff a) n k true with
      | .error c => .error (.fault c 0xFF)
      | .ok r => .ok r
  else if !s.transl.rootEn then .error (.fault .translationMiss 0xFF)
  else
    let va := vaOf a
    match (s.pdies.get p).cache.find? fun c => va / 2 ^ c.bitsOf == c.page with
    | none => .error (.walk (va / 4096))
    | some c => match useCached c va n k with
      | .error e => .error (.fault e 0xFF)
      | .ok r => .ok r

/-- The parts of an access: a paged one is split at a page boundary (R179). -/
def partsOf (a : Xword) (n : Nat) : List (Xword × Nat) :=
  let m := 4096 - vaOf a % 4096
  if tagOf a = 0 ∧ m < n then [(a, m), (a + BitVec.ofNat 64 m, n - m)] else [(a, n)]

/-- The translation of an access at a die: its parts. -/
def State.resolve (s : State) (p : BitVec 6) (a : Xword) (n : Nat) (k : Access) : Except Stall (List Run) :=
  (partsOf a n).foldr (fun q r =>
    match s.translateAt p q.1 q.2 k with
    | .error e => .error e
    | .ok x => match r with | .error e => .error e | .ok l => .ok (x :: l)) (.ok [])

/-- The bytes of some places, in order. -/
def State.readParts (s : State) (l : List Run) : List Byte := l.flatMap s.rdRun
/-- Bytes written to some places, in order. -/
def State.writeParts : State → List Run → List Byte → State
  | s, [], _ => s
  | s, q :: r, b => State.writeParts (s.wrRun q (b.take q.n)) r (b.drop q.n)

/-- Whether a relocation keeps a new request of an address waiting (R173). -/
def State.relocating (s : State) (a : Xword) : Bool := tagOf a == 1 && s.transl.relocRun.any fun r => r.1 == handleOf a
/-- The translation of a sequencer access (R295, R296): the table window, or a place in memory. -/
def State.seqPlace (s : State) (a : Xword) (n : Nat) (k : Access) : Option Place :=
  if a.toNat % n ≠ 0 then none
  else match tagOf a with
    | 1 =>
      let h := handleOf a
      if h = 0 then (if n = 8 then some (.window (handleOff a)) else none)
      else match translateHandle (s.entry h) h (s.keyed h) (handleOff a) n k true with
        | .ok r => some (.mem r)
        | .error _ => none
    | 0 => match s.walkPages (vaOf a) with
      | .error _ => none
      | .ok c => match useCached c (vaOf a) n k with
        | .ok r => some (.mem r)
        | .error _ => none
    | _ => none

end Sys2Proof.Machine
end

