-- ==== Sys2Proof/Machine/Pod.lean ====
section
/-!
DEFINITION. Free choices; routing on the pod's links (02 R44); pod rounds (02 R48-R50, 15 R315); the combining of the
reckoning tree (06 R112); signal objects (04 R72, 15 R314).
-/
namespace Sys2Proof.Machine
open Sys2Proof

/-- One of `n` choices that the rules leave open (log 7). -/
def State.choose (s : State) (n : Nat) : Nat × State :=
  if n ≤ 1 then (0, s) else (Config.pick s.fresh n % n, { s with fresh := s.fresh + 1 })

/-- Some numbers in an order that is left open: each is in its turn a free choice among those that remain (log 7). -/
def openOrder (seed : Nat) : Nat → List Nat → List Nat
  | 0, _ => []
  | k + 1, l =>
    let j := if l.length ≤ 1 then 0 else Config.pick (seed * 2 ^ 33 + k) l.length % l.length
    (l[j]?).getD 0 :: openOrder seed k (l.eraseIdx j)
/-- Which of `n` parts of a command is performed as number `k`, where the manual leaves their order open. -/
def openTurn (seed n k : Nat) : Nat := if n ≤ 1 then 0 else ((openOrder seed n (List.range n))[k]?).getD 0

/-! ### Routing (R44, R46) -/

/-- Whether a link carries traffic (R38). -/
def LinkState.carries : LinkState → Bool
  | .active | .activeHalf => true
  | _ => false
/-- The links on which traffic for a device may leave: those its PODRT entry names that carry traffic and do not drain
(R40, R44; log 110). -/
def State.routes (s : State) (j : BitVec 6) : List (BitVec 4) :=
  allSlots.filter fun n => bit (s.podrt.get j) n.toNat && (s.links.get n).state.carries && (s.links.get n).drain.isNone
/-- A flit leaves on one of the links that may carry it: which is the least loaded is a free choice (R44; log 7). One of this
device that finds none is dropped (log 116). -/
def State.sendFlit (s : State) (dest src : BitVec 6) (hops : BitVec 4) (b : PodBody) : State :=
  let l := s.routes dest
  let (i, s) := s.choose l.length
  match l[i]? with
  | none => s
  | some n => { s with flits := s.flits ++ [⟨n, dest, src, hops, b⟩] }

/-- The slot of the context of a pod group on this device (R46). -/
def State.groupSlot (s : State) (g : BitVec 32) : Option (BitVec 4) :=
  if g = 0 then none
  else allSlots.find? fun c =>
    (s.slot c).desc.podgrp == g && (s.slot c).state != .free && (s.slot c).state != .draining

/-! ### Combining (R112) -/

/-- The unsigned key of totalOrder (R112). -/
def totalKey (w : Nat) : Nat := if w < 2 ^ 31 then w + 2 ^ 31 else 2 ^ 32 - 1 - w
/-- The one of two FP32 patterns with the greater key, or the lesser. -/
def pickKey (greater : Bool) (a b : Nat) : Nat :=
  if greater then (if totalKey a < totalKey b then b else a) else (if totalKey b < totalKey a then b else a)

/-- The reckoning tree's result for an operation over the contributions, each 32 bits (R112). -/
def treeResult (op : Nat) (l : List Word) : Xword :=
  match op with
  | 0 => (l.foldl (fun a w => a ||| w) (0 : Word)).zeroExtend 64
  | 1 => (l.foldl (fun a w => a &&& w) (BitVec.allOnes 32)).zeroExtend 64
  | 2 => BitVec.ofInt 64 (l.foldl (fun a w => a + w.toInt) 0)
  | 3 => BitVec.ofNat 64 (l.foldl (fun a w => a + w.toNat) 0)
  | 4 => BitVec.ofInt 64 (l.foldl (fun a w => max a w.toInt) (-(2 ^ 31)))
  | 5 => BitVec.ofNat 64 (l.foldl (fun a w => max a w.toNat) 0)
  | 6 => BitVec.ofInt 64 (l.foldl (fun a w => min a w.toInt) (2 ^ 31 - 1))
  | 7 => BitVec.ofNat 64 (l.foldl (fun a w => min a w.toNat) 0xFFFFFFFF)
  | 8 => BitVec.ofNat 64 (l.foldl (fun a w => pickKey true a w.toNat) 0xFFFFFFFF)
  | 9 => BitVec.ofNat 64 (l.foldl (fun a w => pickKey false a w.toNat) 0x7FFFFFFF)
  | _ => BitVec.ofNat 64 (l.foldl (fun a w => a + w.toNat % 2) 0)

/-- The result of a PODRED over the contributions in ascending DEVNUM order (R49, R315). -/
def podResult (op : Nat) (l : List Xword) : Xword :=
  match op with
  | 0 => l.foldl (fun a w => a ||| w) 0
  | 1 => l.foldl (fun a w => a &&& w) (BitVec.allOnes 64)
  | 2 | 3 => l.foldl (fun a w => a + w) 0
  | 4 => BitVec.ofInt 64 (l.foldl (fun a w => max a w.toInt) (-(2 ^ 63)))
  | 5 => BitVec.ofNat 64 (l.foldl (fun a w => max a w.toNat) 0)
  | 6 => BitVec.ofInt 64 (l.foldl (fun a w => min a w.toInt) (2 ^ 63 - 1))
  | 7 => BitVec.ofNat 64 (l.foldl (fun a w => min a w.toNat) (2 ^ 64 - 1))
  | 8 => BitVec.ofNat 64 (l.foldl (fun a w => pickKey true a (w.toNat % 2 ^ 32)) 0xFFFFFFFF)
  | 9 => BitVec.ofNat 64 (l.foldl (fun a w => pickKey false a (w.toNat % 2 ^ 32)) 0x7FFFFFFF)
  | _ => BitVec.ofNat 64 (l.foldl (fun a w => a + w.toNat % 2) 0)

/-! ### Pod rounds (R48-R50) -/

/-- The flit payload of a pod message: 240 bytes, of which the first 24 are used (R48). -/
def podPayload (m : PodMsg) : List Byte :=
  bytesOf 1 m.kind.toNat ++ bytesOf 1 m.op.toNat ++ bytesOf 1 m.round.toNat ++ bytesOf 1 m.src.toNat ++
  bytesOf 4 m.group.toNat ++ bytesOf 8 m.mask.toNat ++ bytesOf 8 m.contrib.toNat ++ List.replicate 216 0

/-- The members of a mask other than this device, ascending. -/
def State.peers (s : State) (mask : Xword) : List (BitVec 6) :=
  allDies.filter fun d => bit mask d.toNat && d != s.devnum

/-- The messages of the round a context waits in, from whatever device. -/
def roundMsgs (w : PodWait) (l : List PodMsg) : List PodMsg := l.filter fun m => m.round == w.round

/-- The round a context waits in: that of the stream which its handler interrupted, or else that of the code it runs (R315). -/
def Ctx.roundOf (y : Ctx) (outer : Bool) : Option PodWait := if outer then y.podOuter else y.podWait
/-- The rounds a context waits in, the earlier first. -/
def Ctx.rounds (y : Ctx) : List PodWait := y.podOuter.toList ++ y.podWait.toList
/-- Whether a flit is one of this device's messages of an earlier round of a context's group: every peer that has sent one of
this round has held those (R39, R49). -/
def Flit.older (f : Flit) (dev : BitVec 6) (group : BitVec 32) (round : BitVec 8) : Bool :=
  match f.body with
  | .message m _ _ => m.src == dev && m.group == group && m.round != round
  | _ => false
/-- A round completes once every peer's message is held; the own messages of it stay on their links until they are
acknowledged (R39). Messages that disagree, from whatever device, end the context (R49). Past its deadline only the timeout
is left (R50). The wait's end starts the watchdog's count again (R260). A round of the handler completes after the one it
interrupted (R49). -/
def State.tryWait (s : State) (c : BitVec 4) (outer : Bool) : State :=
  let x := s.slot c
  match x.ctx.roundOf outer with
  | none => s
  | some w =>
    if w.result.isSome || decide (w.deadline ≤ s.time) || (!outer && x.ctx.podOuter.any fun o => o.result.isNone) then s
    else
      let ps := s.peers x.desc.podmask
      let ms := roundMsgs w x.ctx.podIn
      match ms.find? fun m => m.kind != w.kind || m.op != w.op || m.mask != x.desc.podmask with
      | some m => s.kill c { (DeadInfo.plain .podMismatch) with link := m.src.toNat }
      | none =>
        if ps.all fun p => ms.any fun m => m.src == p then
          let vals := (allDies.filter fun d => bit x.desc.podmask d.toNat).filterMap fun d =>
            if d == s.devnum then some w.contrib else (ms.find? fun m => m.src == d).map (·.contrib)
          let s : State := { s with flits := s.flits.filter fun f => !f.older s.devnum x.desc.podgrp w.round }
          let done := some { w with result := some (podResult w.op.toNat vals) }
          s.onSlot c fun x =>
            { x with
              progress := s.time
              ctx := { x.ctx with
                podIn := x.ctx.podIn.filter fun m => m.round != w.round
                podWait := if outer then x.ctx.podWait else done
                podOuter := if outer then done else x.ctx.podOuter } }
        else s
/-- The rounds a context waits in are looked at, the earlier first. -/
def State.tryRound (s : State) (c : BitVec 4) : State := (s.tryWait c true).tryWait c false

/-- A round begins: its number is taken and its messages go out; without a route to some member the context is dead and
no message goes (R48). -/
def State.startRound (s : State) (c : BitVec 4) (pc : Xword) (kind op : BitVec 8) (v : Xword) : State :=
  let x := s.slot c
  let ps := s.peers x.desc.podmask
  let lost := ps.filter fun p => !s.podValid || (s.routes p).isEmpty
  if !s.podValid ∨ lost ≠ [] then
    s.kill c { (DeadInfo.plain .podRoute) with link := (lost.head?.map (·.toNat)).getD 0xFF }
  else
    let r := x.ctx.podRound
    let msg : PodMsg := ⟨kind, op, r, s.devnum, x.desc.podgrp, x.desc.podmask, v⟩
    let s := ps.foldl (fun t p => t.sendFlit p t.devnum 0 (.message msg c x.life)) s
    let s := s.onCtx c fun y =>
      { y with podRound := r + 1, podWait := some ⟨pc, kind, op, r, v, s.time + msPs s.podtmo.toNat, none⟩ }
    s.tryRound c

/-! ### Signal objects (R64, R72) -/

/-- A field of `n` bytes of a packet or descriptor. -/
def fieldOf (b : List Byte) (off n : Nat) : Nat := ofBytes ((b.drop off).take n)

/-- Whether a queue has a WAIT at HEAD on an object whose value has been reached before its timeout has passed (R72). -/
def Queue.waitMet (q : Queue) (time obj : Nat) (v : Xword) : Bool :=
  match q.staged with
  | .bytes b => fieldOf b 0 1 == 2 && fieldOf b 16 2 == obj && decide (fieldOf b 24 8 ≤ v.toNat) &&
      (fieldOf b 32 4 == 0 || decide (time - q.since < msPs (fieldOf b 32 4)))
  | _ => false
/-- A signal object is updated; every WAIT on it is evaluated again (R72). -/
def State.setSig (s : State) (i : BitVec 8) (v : Xword) : State :=
  { s with
    sigobj := s.sigobj.put i v
    queues := s.queues.map fun q => if q.waitMet s.time i.toNat v then { q with met := true } else q }

end Sys2Proof.Machine
end

