-- ==== Sys2Proof/Machine/Park.lean ====
section
/-!
DEFINITION. Recoverable faults: parks, their records and their service (13 R254-R256).
-/
namespace Sys2Proof.Machine
open Sys2Proof

/-- What a class 1 record says of a request (R254). `req`: 0 copy, 1 gather and scatter, 2 network, 3 vault, 4 walker,
5 twin fetch, 6 bundle fetch. `cell` is the local cell. -/
structure ReqInfo where
  addr : Xword
  bsn : Nat
  req : Nat
  kind : Nat
  pd : Option Nat
  ld : Option Nat
  cell : Option Nat
  cls : Nat
  merged : Nat
  level : Nat
  deriving DecidableEq, Repr

/-- The logical cell index of a request (R83). -/
def ReqInfo.l (r : ReqInfo) : Option Nat := match r.ld, r.cell with | some d, some i => some (1600 * d + i) | _, _ => none

/-- The class 1 record of a park (R254); a die's request names the GEN of the entry that the die uses (R172). -/
def State.parkRec (s : State) (c : BitVec 4) (cause : Cause) (id : BitVec 12) (r : ReqInfo) : TrapRec :=
  let gen := if tagOf r.addr ≠ 1 then 0
    else ((if r.pd.isSome then s.dieEntry else s.entry) (handleOf r.addr)).gen.toNat
  ⟨1, cause, c, recOf (recHead 1 cause c (s.slot c).life s.ns ++
    [(16, r.addr.toNat), (24, r.bsn % 2 ^ 64), (32, id.toNat), (34, r.req), (35, r.kind), (36, r.pd.getD 0xFF),
     (37, r.ld.getD 0xFF), (38, r.l.getD 0xFFFFFFFF), (42, gen), (44, r.cls), (45, min 255 r.merged), (46, r.level)])⟩

/-- What a death by an unserviced park says (R254, R255). -/
def ReqInfo.death (r : ReqInfo) (cause : Cause) : DeadInfo := ⟨.unserviced, r.ld, r.pd, r.l, 0xFF, cause.code, 0, r.addr⟩

/-- The park IDs not in use. -/
def State.freeParks (s : State) : List Nat :=
  (List.range 4096).filter fun i => !s.parks.any fun p => p.id.toNat == i

/-- A request parks (R255): with the trap queue DISABLED its context is dead; with no ID free it waits without parking.
Which free ID it takes is a free choice (log 7). -/
def State.parkReq (s : State) (c : BitVec 4) (cause : Cause) (what : ParkOf) (r : ReqInfo) : Option (BitVec 12) × State :=
  if s.tq.state = .disabled then (none, s.kill c (r.death cause))
  else
    let ids := s.freeParks
    let (i, s) := s.choose ids.length
    match ids[i]? with
    | none => (none, s)
    | some id =>
      let id := BitVec.ofNat 12 id
      let s := s.offer (s.parkRec c cause id r)
      (some id, { s with parks := s.parks ++ [⟨id, c, what, r.death cause⟩] })

/-- A park ends. -/
def State.unpark (s : State) (id : BitVec 12) : State := { s with parks := s.parks.filter fun p => p.id != id }

end Sys2Proof.Machine
end

