-- ==== Sys2Proof/Machine/Launch.lean ====
section
/-!
DEFINITION. How a context comes into being: the launch descriptor with its limits and handles, the slot it takes (04 R71,
05 R77-R80).
-/
namespace Sys2Proof.Machine
open Sys2Proof

/-- The launch descriptor of 48 bytes (R71, R79). -/
def descOf (b : List Byte) : Desc where
  entry := BitVec.ofNat 64 (fieldOf b 0 8)
  saveh := BitVec.ofNat 12 (fieldOf b 8 2)
  mindie := fieldOf b 10 1
  maxdie := fieldOf b 11 1
  prio := BitVec.ofNat 3 (fieldOf b 12 1)
  fixed := fieldOf b 12 1 / 8 % 2 == 1
  coatctl := BitVec.ofNat 8 (fieldOf b 13 1)
  budget := BitVec.ofNat 32 (fieldOf b 16 4)
  podgrp := BitVec.ofNat 32 (fieldOf b 20 4)
  podmask := BitVec.ofNat 64 (fieldOf b 24 8)
  arg0 := BitVec.ofNat 64 (fieldOf b 32 8)
  arg1 := BitVec.ofNat 64 (fieldOf b 40 8)

/-- The limits of the descriptor's fields (R71). -/
def descLegal (b : List Byte) (dev : BitVec 6) : Bool :=
  let d := descOf b
  tagOf d.entry == 1 && decide (d.entry.toNat % 64 = 0) && decide (fieldOf b 8 2 < 2 ^ 12) &&
  decide (1 ≤ d.mindie ∧ d.mindie ≤ 64 ∧ d.mindie ≤ d.maxdie ∧ d.maxdie ≤ 64) && decide (fieldOf b 12 1 < 16) &&
  decide (fieldOf b 14 2 = 0) && (if d.podgrp = 0 then d.podmask == 0 else bit d.podmask dev.toNat)

/-- The size of the save area of `n` dies (R97). -/
def saveSize (n : Nat) : Nat := 65536 + n * 226164736

/-- Whether the handles of ENTRY and SAVEH are valid, and SAVEH covers the save area (R71, R80). -/
def State.handlesValid (s : State) (d : Desc) : Bool :=
  let e := s.entry (handleOf d.entry)
  let v := s.entry d.saveh
  handleOf d.entry != 0 && e.valid && d.saveh != 0 && v.valid && v.low == 0 && decide (saveSize d.maxdie ≤ v.limit.toNat + 1)

/-- The lowest-numbered free slot (R77). -/
def State.freeSlot (s : State) : Option (BitVec 4) := allSlots.find? fun c => (s.slot c).state == .free

/-- A LAUNCH packet stands BLOCKED for a slot. -/
def Queue.launchBlocked (q : Queue) : Bool :=
  q.state == .blocked && (match q.staged with | .bytes b => fieldOf b 0 1 == 1 | _ => false)
/-- The slot that a SPAWN takes: while a LAUNCH waits only one that has come free in this cycle, in which no time has passed
since (R71, R77; log 21). -/
def State.spawnSlot (s : State) : Option (BitVec 4) :=
  if s.queues.any Queue.launchBlocked then allSlots.find? fun c => (s.slot c).state == .free && (s.slot c).since == s.time
  else s.freeSlot

/-- A context takes a slot and waits for dies (R77, R90): its life count rises (R257). -/
def State.newContext (s : State) (c : BitVec 4) (d : Desc) (prio : BitVec 3) (queue : BitVec 6) (fam : Nat)
    (parent : Option (BitVec 4)) (join : Option (BitVec 6)) : State :=
  let life := (s.slot c).life + 1
  { s.putSlot c
      { Slot.blank with
        state := .waiting, prio := prio, queue := queue, spawned := parent.isSome, parent := parent.getD 0
        parentLife := (s.slot (parent.getD 0)).life, join := join, life := life, desc := d, launchTime := s.time
        since := s.time, fam := fam, ctx := { Ctx.blank with fixed := d.fixed } } with
    schedDue := true }

end Sys2Proof.Machine
end

