-- ==== Sys2Proof/Machine/SeqInt.lean ====
section
/-!
DEFINITION. How a sequencer instruction acts (15 R287, R289), and the sequencer's integer, immediate and branch
instructions (15 R292-R294, R298).
-/
namespace Sys2Proof.Machine
open Sys2Proof

/-! ### Acting in the S slot -/

/-- What an S part does: it goes on, it waits, or it raises a sequencer fault with its detail (R287, R289). -/
inductive SStep where
  | go (s : State)
  | wait
  | fault (c : Cause) (detail : Nat)
  deriving DecidableEq, Repr

/-- The bundle in hand with the fate of its S part. -/
def State.setSres (s : State) (r : SRes) : State :=
  { s with focus := s.focus.map fun f => { f with sres := r } }

/-- The one operation through which an S instruction acts: on the control core of the bundle in hand. Without a bundle in
hand there is no core to act on. -/
def onSeq (f : Focus → State → SStep) (s : State) : Out :=
  .next (match s.focus with
    | none => s
    | some fo => match f fo s with
      | .go t => t
      | .wait => s.setSres .wait
      | .fault c d => s.setSres (.fault c d))

/-- An S instruction that reads some x registers waits until their values are ready (R287). -/
def onSeqX (srcs : List (BitVec 5)) (f : Focus → State → SStep) : State → Out :=
  onSeq fun fo s => if srcs.any (s.slot fo.slot).ctx.xWaits then .wait else f fo s

/-- An S instruction that computes xD from x registers and its own place (R292). -/
def seqReg (d : BitVec 5) (srcs : List (BitVec 5)) (f : (BitVec 5 → Xword) → Xword) : State → Out :=
  onSeqX srcs fun fo s => .go (s.onCtx fo.slot fun c => c.setX d (f c.getX))

/-- The fetch address that follows the bundle in hand. -/
def State.jump (s : State) (a : Xword) : State := { s with focus := s.focus.map fun f => { f with nextAddr := a } }

/-- A truth value as a register's. -/
def xBool (b : Bool) : Xword := if b then 1 else 0

/-! ### R form (R292, R293) -/

/-- ADD (R292). -/
def execAdd (d a b : BitVec 5) (s : State) : Out := seqReg d [a, b] (fun x => x a + x b) s
/-- SUB (R292). -/
def execSub (d a b : BitVec 5) (s : State) : Out := seqReg d [a, b] (fun x => x a - x b) s
/-- MUL (R292). -/
def execMul (d a b : BitVec 5) (s : State) : Out := seqReg d [a, b] (fun x => x a * x b) s
/-- MULH: bits 127:64 of the signed product (R292). -/
def execMulh (d a b : BitVec 5) (s : State) : Out :=
  seqReg d [a, b] (fun x => BitVec.ofInt 64 ((x a).toInt * (x b).toInt / 2 ^ 64)) s
/-- MULHU: bits 127:64 of the unsigned product (R292). -/
def execMulhu (d a b : BitVec 5) (s : State) : Out :=
  seqReg d [a, b] (fun x => BitVec.ofNat 64 ((x a).toNat * (x b).toNat / 2 ^ 64)) s
/-- The signed quotient, towards zero; by zero −1 (R293). -/
def sdivX (a b : Xword) : Xword := if b = 0 then BitVec.allOnes 64 else BitVec.ofInt 64 (a.toInt.tdiv b.toInt)
/-- The unsigned quotient; by zero 2^64 − 1 (R293). -/
def udivX (a b : Xword) : Xword := if b = 0 then BitVec.allOnes 64 else BitVec.ofNat 64 (a.toNat / b.toNat)
/-- DIV (R292, R293). -/
def execDiv (d a b : BitVec 5) (s : State) : Out := seqReg d [a, b] (fun x => sdivX (x a) (x b)) s
/-- DIVU (R292, R293). -/
def execDivu (d a b : BitVec 5) (s : State) : Out := seqReg d [a, b] (fun x => udivX (x a) (x b)) s
/-- REM: a − b × quotient; by zero a (R292, R293). -/
def execRem (d a b : BitVec 5) (s : State) : Out :=
  seqReg d [a, b] (fun x => if x b = 0 then x a else x a - x b * sdivX (x a) (x b)) s
/-- REMU (R292, R293). -/
def execRemu (d a b : BitVec 5) (s : State) : Out :=
  seqReg d [a, b] (fun x => if x b = 0 then x a else x a - x b * udivX (x a) (x b)) s
/-- AND (R292). -/
def execAnd (d a b : BitVec 5) (s : State) : Out := seqReg d [a, b] (fun x => x a &&& x b) s
/-- OR (R292). -/
def execOr (d a b : BitVec 5) (s : State) : Out := seqReg d [a, b] (fun x => x a ||| x b) s
/-- XOR (R292). -/
def execXor (d a b : BitVec 5) (s : State) : Out := seqReg d [a, b] (fun x => x a ^^^ x b) s
/-- The shift count b[5:0] (R292). -/
def shiftOf (b : Xword) : Nat := b.toNat % 64
/-- SHL (R292). -/
def execShl (d a b : BitVec 5) (s : State) : Out := seqReg d [a, b] (fun x => x a <<< shiftOf (x b)) s
/-- SHR (R292). -/
def execShr (d a b : BitVec 5) (s : State) : Out := seqReg d [a, b] (fun x => x a >>> shiftOf (x b)) s
/-- SRA (R292). -/
def execSra (d a b : BitVec 5) (s : State) : Out := seqReg d [a, b] (fun x => (x a).sshiftRight (shiftOf (x b))) s
/-- SLT (R292). -/
def execSlt (d a b : BitVec 5) (s : State) : Out := seqReg d [a, b] (fun x => xBool ((x a).slt (x b))) s
/-- SLTU (R292). -/
def execSltu (d a b : BitVec 5) (s : State) : Out := seqReg d [a, b] (fun x => xBool ((x a).ult (x b))) s
/-- MIN: the signed smaller (R292). -/
def execMin (d a b : BitVec 5) (s : State) : Out :=
  seqReg d [a, b] (fun x => if (x b).slt (x a) then x b else x a) s
/-- MAX: the signed larger (R292). -/
def execMax (d a b : BitVec 5) (s : State) : Out :=
  seqReg d [a, b] (fun x => if (x a).slt (x b) then x b else x a) s
/-- The number of leading zero bits: 64 for zero (R292). -/
def clzX (a : Xword) : Nat := if a = 0 then 64 else 63 - a.toNat.log2
/-- CLZ (R292). -/
def execClz (d a : BitVec 5) (s : State) : Out := seqReg d [a] (fun x => BitVec.ofNat 64 (clzX (x a))) s
/-- The number of 1 bits (R292). -/
def popX (a : Xword) : Nat := ((List.range 64).filter fun i => bit a i).length
/-- POPC (R292). -/
def execPopc (d a : BitVec 5) (s : State) : Out := seqReg d [a] (fun x => BitVec.ofNat 64 (popX (x a))) s

/-! ### I form (R294) -/

/-- ADDI (R294). -/
def execAddi (d a : BitVec 5) (i : BitVec 14) (x : Option Word) (s : State) : Out :=
  seqReg d [a] (fun r => r a + immS i x) s
/-- ANDI (R294). -/
def execAndi (d a : BitVec 5) (i : BitVec 14) (x : Option Word) (s : State) : Out :=
  seqReg d [a] (fun r => r a &&& immS i x) s
/-- ORI (R294). -/
def execOri (d a : BitVec 5) (i : BitVec 14) (x : Option Word) (s : State) : Out :=
  seqReg d [a] (fun r => r a ||| immS i x) s
/-- XORI (R294). -/
def execXori (d a : BitVec 5) (i : BitVec 14) (x : Option Word) (s : State) : Out :=
  seqReg d [a] (fun r => r a ^^^ immS i x) s
/-- SHLI (R294). -/
def execShli (d a : BitVec 5) (n : BitVec 6) (s : State) : Out := seqReg d [a] (fun r => r a <<< n.toNat) s
/-- SHRI (R294). -/
def execShri (d a : BitVec 5) (n : BitVec 6) (s : State) : Out := seqReg d [a] (fun r => r a >>> n.toNat) s
/-- SRAI (R294). -/
def execSrai (d a : BitVec 5) (n : BitVec 6) (s : State) : Out := seqReg d [a] (fun r => (r a).sshiftRight n.toNat) s
/-- SLTI (R294). -/
def execSlti (d a : BitVec 5) (i : BitVec 14) (x : Option Word) (s : State) : Out :=
  seqReg d [a] (fun r => xBool ((r a).slt (immS i x))) s
/-- LIH: the low half of xA under the immediate (R294). -/
def execLih (d a : BitVec 5) (i : BitVec 14) (x : Option Word) (s : State) : Out :=
  seqReg d [a] (fun r => (BitVec.truncate 32 (immS i x) : Word) ++ (BitVec.truncate 32 (r a) : Word)) s

/-! ### Branches and jumps (R298) -/

/-- A branch: where its condition holds, the next fetch address is the header's plus 4·OFF (R298). -/
def branch (a b : BitVec 5) (o : BitVec 14) (x : Option Word) (c : Xword → Xword → Bool) : State → Out :=
  onSeqX [a, b] fun fo s =>
    let r := (s.slot fo.slot).ctx.getX
    .go (if c (r a) (r b) then s.jump (fo.pc + 4 * immS o x) else s)

/-- BEQ (R298). -/
def execBeq (a b : BitVec 5) (o : BitVec 14) (x : Option Word) (s : State) : Out := branch a b o x (fun p q => p == q) s
/-- BNE (R298). -/
def execBne (a b : BitVec 5) (o : BitVec 14) (x : Option Word) (s : State) : Out := branch a b o x (fun p q => p != q) s
/-- BLT (R298). -/
def execBlt (a b : BitVec 5) (o : BitVec 14) (x : Option Word) (s : State) : Out := branch a b o x (fun p q => p.slt q) s
/-- BGE (R298). -/
def execBge (a b : BitVec 5) (o : BitVec 14) (x : Option Word) (s : State) : Out := branch a b o x (fun p q => !p.slt q) s
/-- BLTU (R298). -/
def execBltu (a b : BitVec 5) (o : BitVec 14) (x : Option Word) (s : State) : Out := branch a b o x (fun p q => p.ult q) s
/-- BGEU (R298). -/
def execBgeu (a b : BitVec 5) (o : BitVec 14) (x : Option Word) (s : State) : Out := branch a b o x (fun p q => !p.ult q) s

/-- J (R298). -/
def execJ (o : BitVec 19) (x : Option Word) (s : State) : Out :=
  onSeq (fun fo s => .go (s.jump (fo.pc + 4 * immS o x))) s
/-- JAL: xD takes the next address (R298). -/
def execJal (d : BitVec 5) (o : BitVec 19) (x : Option Word) (s : State) : Out :=
  onSeq (fun fo s => .go ((s.onCtx fo.slot fun c => c.setX d fo.nextAddr).jump (fo.pc + 4 * immS o x))) s
/-- JALR: a target that is not a multiple of 4 raises a scalar memory fault (R298). -/
def execJalr (d a : BitVec 5) (i : BitVec 14) (x : Option Word) (s : State) : Out :=
  onSeqX [a] (fun fo s =>
    let t := (s.slot fo.slot).ctx.getX a + immS i x
    if t.toNat % 4 ≠ 0 then .fault .scalarMemory t.toNat
    else .go ((s.onCtx fo.slot fun c => c.setX d fo.nextAddr).jump t)) s

end Sys2Proof.Machine
end

