-- ==== Sys2Proof/Machine/SeqMem.lean ====
section
/-!
DEFINITION. Sequencer memory accesses (15 R295-R297), the order they are performed in (10 R211) and FENCE.S (15 R310).
-/
namespace Sys2Proof.Machine
open Sys2Proof

/-- 1, 2, 4 or 8 bytes (R291). -/
def sizeX (z : BitVec 2) : Nat := 2 ^ z.toNat

/-- A sequencer access that has been translated issues: it joins those to be performed in program order, and a read's
register awaits it (R211, R287). -/
def Ctx.access (c : Ctx) (a : SeqAccess) (reads : Bool) : Ctx :=
  let c := { c with acc := c.acc ++ [{ a with tok := c.tok }], tok := c.tok + 1 }
  if reads then c.pendX a.dest (c.tok - 1) else c

/-- The effective address XA + e (R295). -/
def seqAddr (c : Ctx) (a : BitVec 5) (x : Option Word) : Xword := c.getX a + BitVec.ofInt 64 (offS x)

/-- Whether an earlier access that writes the table window is still to be performed: translation keeps the program order
too (R211, R172; DEDUCED, log 44). -/
def Ctx.tableWrite (c : Ctx) : Bool :=
  c.acc.any fun a => a.kind != 0 && a.commit.isNone && (match a.place with | .window _ => true | .mem _ => false)

/-- A load (R295). -/
def load (d a : BitVec 5) (z : BitVec 2) (x : Option Word) (signed : Bool) : State → Out :=
  onSeqX [a] fun fo s =>
    let e := seqAddr (s.slot fo.slot).ctx a x
    if (s.slot fo.slot).ctx.tableWrite || s.relocating e then .wait
    else match s.seqPlace e (sizeX z) .read with
    | none => .fault .scalarMemory e.toNat
    | some p => .go (s.onCtx fo.slot fun c => c.access ⟨0, p, sizeX z, signed, 0, 0, 0, d, 0, none⟩ true)

/-- LD: XD := sext(value) (R295). -/
def execLd (d a : BitVec 5) (z : BitVec 2) (x : Option Word) (s : State) : Out := load d a z x true s
/-- LDU: XD := zext(value) (R295). -/
def execLdu (d a : BitVec 5) (z : BitVec 2) (x : Option Word) (s : State) : Out := load d a z x false s
/-- ST: a the base, b the data (R295). -/
def execSt (a b : BitVec 5) (z : BitVec 2) (x : Option Word) (s : State) : Out :=
  onSeqX [a, b] (fun fo s =>
    let c := (s.slot fo.slot).ctx
    let e := seqAddr c a x
    if c.tableWrite || s.relocating e then .wait
    else match s.seqPlace e (sizeX z) .write with
    | none => .fault .scalarMemory e.toNat
    | some p =>
      .go (s.onCtx fo.slot fun c => c.access ⟨1, p, sizeX z, false, 0, (c.getX b).toNat, 0, 0, 0, none⟩ false)) s
/-- SAMO (R296): u 1 unsigned, o the operation. -/
def execSamo (d a b : BitVec 5) (u : BitVec 1) (o : BitVec 4) (z : BitVec 2) (x : Option Word) (s : State) : Out :=
  onSeqX [a, b, d] (fun fo s =>
    let c := (s.slot fo.slot).ctx
    let e := seqAddr c a x
    if c.tableWrite || s.relocating e then .wait
    else match s.seqPlace e (sizeX z) .atomic with
    | none => .fault .scalarMemory e.toNat
    | some p =>
      .go (s.onCtx fo.slot fun c => c.access
        ⟨2, p, sizeX z, u == 0, o.toNat, (c.getX b).toNat, (c.getX d).toNat, d, 0, none⟩ true)) s

/-- FENCE.S waits until every earlier sequencer access is performed; bundles after it are fetched afresh (R279, R310). -/
def execFenceS (s : State) : Out :=
  onSeq (fun fo s =>
    if (s.slot fo.slot).ctx.acc ≠ [] then .wait
    else .go (s.onCtx fo.slot fun c => { c with lines := [] })) s

/-- The new value of SAMO (R296), for a width of `n` bits. -/
def samoNew (op n : Nat) (signed : Bool) (m d c : Nat) : Nat :=
  let d := d % 2 ^ n
  let less := if signed then decide (sextN m n < sextN d n) else decide (m < d)
  match op with
  | 0 => d
  | 1 => (m + d) % 2 ^ n
  | 2 => m &&& d
  | 3 => m ||| d
  | 4 => m ^^^ d
  | 5 => if less then m else d
  | 6 => if less then d else m
  | _ => if m = c % 2 ^ n then d else m

/-- A read value as a register takes it (R295, R296). -/
def widenX (signed : Bool) (n v : Nat) : Xword :=
  if signed then BitVec.ofInt 64 (sextN v n) else BitVec.ofNat 64 (v % 2 ^ n)

/-- The commit that a write of the table window starts and must outlast (R172). -/
def State.commitOf (s : State) : Place → Option (BitVec 12)
  | .window off =>
    let h := BitVec.ofNat 12 (off / 32)
    if off < 0x20000 ∧ off / 8 % 4 = 3 ∧
        (s.transl.pending.any (fun p => p.1 == h) ∨ s.transl.relocRun.any (fun r => r.1 == h)) then some h else none
  | .mem _ => none

/-- The value at a place. -/
def State.readPlace (s : State) (p : Place) (n : Nat) : Nat :=
  match p with
  | .window off => (s.windowRead off).toNat
  | .mem r => ofBytes (s.rdRun { r with n := n })
/-- A value written to a place. -/
def State.writePlace (s : State) (p : Place) (n v : Nat) : State :=
  match p with
  | .window off => s.windowWrite off (BitVec.ofNat 64 v)
  | .mem r => s.wrRun r (bytesOf n v)

/-- The oldest sequencer access of a context is performed at its home and its result written to xD; a store that commits
a handle entry is complete only with the commit (R172, R211, R287). -/
def State.performSeq (s : State) (c : BitVec 4) : State :=
  match (s.slot c).ctx.acc with
  | [] => s
  | a :: r =>
    match a.commit with
    | some h =>
      if s.transl.pending.any (fun p => p.1 == h) ∨ s.transl.relocRun.any (fun q => q.1 == h) then s
      else s.onCtx c fun y => { y with acc := r }
    | none =>
      let m := s.readPlace a.place a.size
      let n := 8 * a.size
      let s := match a.kind with
        | 0 => s
        | 1 => s.writePlace a.place a.size (a.data % 2 ^ n)
        | _ => s.writePlace a.place a.size (samoNew a.op n a.signed m a.data a.cmp)
      let s := if a.kind = 1 then s else s.onCtx c fun y => y.giveX a.dest a.tok (widenX a.signed n m)
      s.onCtx c fun y => { y with acc := match (if a.kind = 0 then none else s.commitOf a.place) with
        | some h => { a with commit := some h, kind := 1 } :: r
        | none => r }

/-- SEQUENCER_ACCESS_COMPLETE (R287). -/
def execSequencerAccessComplete (c : BitVec 4) (s : State) : Out := .next (s.performSeq c)

end Sys2Proof.Machine
end

