-- ==== Sys2Proof/Machine/Special.lean ====
section
/-!
DEFINITION. The special registers: what SRR reads and what SRW writes (20 R404-R408, R410; 11 R231, 12 R236, R243, 08 R157,
07 R126, R128, R136, 12 R250, 13 R257).
-/
namespace Sys2Proof.Machine
open Sys2Proof

/-- CLKMODE: the value in force, with PENDING (R126). -/
def Ctx.clkmode (c : Ctx) : Xword :=
  BitVec.ofNat 64 (b2n c.fixed + 2 * b2n c.clkPend.isSome + c.stagger.toNat * 2 ^ 4)
/-- CLKSTAT (R128). -/
def State.clkstat (s : State) (c : BitVec 4) : Xword :=
  let x := s.slot c
  BitVec.ofNat 64 (b2n x.ctx.fixed + 2 * b2n (x.regions.any s.throttledNow) + x.ctx.tripReg.toNat * 2 ^ 16 +
    x.ctx.trips.toNat * 2 ^ 32)
/-- The largest LATECYC over the set's dies (R405). -/
def Ctx.latecyc (c : Ctx) : Xword := BitVec.ofNat 64 (maxOf (c.dies.map fun d => d.late.toNat))
/-- The counters that the sequencer collects from the tree, registers 12 to 19 (R405). -/
def Ctx.counters (c : Ctx) : List Xword :=
  [c.latecyc, c.stretch, c.thrCyc, c.tripCyc, c.holdCyc, c.replay0, c.replay1, c.exhaust]
/-- The latency of the tree, 12 ns, in ps (R104). -/
def treeLatency : Nat := 12000
/-- The counters kept at a time: those that stood less than a tree latency ago, and the last before them (R405). -/
def Ctx.keepCounts (c : Ctx) (time : Nat) : Ctx :=
  let l := if (c.counted.getLast?.map (·.2)) = some c.counters then c.counted else c.counted ++ [(time, c.counters)]
  { c with counted := l.drop ((l.drop 1).countP fun e => decide (e.1 + treeLatency ≤ time)) }
/-- The values that SRR of a collected counter may read: an event of the last tree latency may be missing (R405; log 108). -/
def Ctx.counterReads (c : Ctx) (n : Nat) : List Xword :=
  let v := (c.counters[n - 12]?).getD 0
  v :: ((c.counted.filterMap fun e => e.2[n - 12]?).filter fun u => u != v).eraseDups
/-- Trap state offset 0x040 (R257). -/
def Slot.tstate (x : Slot) : Xword :=
  BitVec.ofNat 64 (b2n x.ctx.inHandler + 2 * b2n x.ctx.rebroadcast + 4 * b2n x.ctx.stepDeferred + 8 * b2n x.ctx.haltTaken +
    x.life.toNat * 2 ^ 8)

/-- The kinds of special register (R404). -/
inductive SpecialKind where
  | unassigned | readOnly | writable
  deriving DecidableEq, Repr

/-- The kind of register `n` (R404). -/
def specialKind (n : Nat) : SpecialKind :=
  if n ≤ 9 then .writable
  else if n ≤ 20 ∨ (32 ≤ n ∧ n ≤ 43) ∨ (48 ≤ n ∧ n ≤ 127) then .readOnly
  else .unassigned

/-- What SRR of register `n` reads (R404, R405, R410). -/
def State.readSpecial (s : State) (c : BitVec 4) (n : Nat) : Xword :=
  let x := s.slot c
  let y := x.ctx
  if 64 ≤ n then (if n - 64 < x.n then y.dtab.get (BitVec.ofNat 6 (n - 64)) else 0)
  else if 48 ≤ n then
    (match x.regions[n - 48]? with | some r => (s.istep.get r).zeroExtend 64 | none => 0)
  else if 32 ≤ n ∧ n < 40 then BitVec.ofNat 64 (lane 64 y.trec (n - 32))
  else match n with
    | 0 => y.fpctl
    | 1 => y.clkmode
    | 2 => y.coatctl
    | 3 => y.budget
    | 4 => y.guard
    | 5 => y.dieMask
    | 6 => y.preemptLimit.zeroExtend 64
    | 7 => y.tvec
    | 8 => y.tscr0
    | 9 => y.tscr1
    | 10 => s.clkstat c
    | 11 => y.cyc
    | 12 => y.latecyc
    | 13 => y.stretch
    | 14 => y.thrCyc
    | 15 => y.tripCyc
    | 16 => y.holdCyc
    | 17 => y.replay0
    | 18 => y.replay1
    | 19 => y.exhaust
    | 20 => y.lastMark
    | 40 => if y.trec = 0 then 0 else x.tstate
    | 41 => y.tsEarly
    | 42 => y.trbNext
    | 43 => y.trbHigh
    | _ => 0

/-- SRW of a register with a writable field; a set of `n` dies (R404, R406, R408, R410). -/
def Ctx.writeSpecial (y : Ctx) (n : Nat) (k : Nat) (v : Xword) : Ctx :=
  match k with
  | 0 => { y with fpctl := BitVec.ofNat 64 (bits v 8 0) }
  | 1 => { y with clkPend := some (bit v 0, BitVec.ofNat 8 (bits v 11 4)) }
  | 2 => { y with coatctl := coatWord v.toNat }
  | 3 => { y with budget := budgetWord v.toNat }
  | 4 => { y with guard := BitVec.ofNat 64 (bits v 0 0) }
  | 5 => { y with dieMask := v &&& maskOf n }
  | 6 => { y with preemptLimit := BitVec.ofNat 32 (max 1000 (bits v 31 0)) }
  | 7 => { y with tvec := BitVec.ofNat 64 (bits v 63 2 * 4) }
  | 8 => { y with tscr0 := v }
  | 9 => { y with tscr1 := v }
  | _ => y

/-- The detail of cause 0x23 (R290). -/
def detail23 (number kind : Nat) : Nat := number + kind * 2 ^ 32

/-- What SRR of a collected counter may read: in FIXED mode the replay counts stand as the sequencer holds them, so that every
run reads the same (R215, R405). -/
def Ctx.counterChoice (c : Ctx) (n : Nat) : List Xword :=
  if c.fixed && decide (17 ≤ n) then [(c.counters[n - 12]?).getD 0] else c.counterReads n
/-- SRR (R309); of a collected counter, a free choice among the values it may read (R405; log 108). -/
def execSrr (d : BitVec 5) (n : BitVec 9) (s : State) : Out :=
  onSeq (fun fo s =>
    if specialKind n.toNat = .unassigned then .fault .specialRegister (detail23 n.toNat 0)
    else if 12 ≤ n.toNat ∧ n.toNat < 20 then
      let l := (s.slot fo.slot).ctx.counterChoice n.toNat
      let (k, s) := s.choose l.length
      .go (s.onCtx fo.slot fun c => c.setX d ((l[k]?).getD 0))
    else .go (s.onCtx fo.slot fun c => c.setX d (s.readSpecial fo.slot n.toNat))) s
/-- SRW (R309). -/
def execSrw (a : BitVec 5) (n : BitVec 9) (s : State) : Out :=
  onSeqX [a] (fun fo s =>
    match specialKind n.toNat with
    | .unassigned => .fault .specialRegister (detail23 n.toNat 0)
    | .readOnly => .fault .specialRegister (detail23 n.toNat 1)
    | .writable => .go (s.onCtx fo.slot fun c => c.writeSpecial fo.n n.toNat (c.getX a))) s

end Sys2Proof.Machine
end

