-- ==== Sys2Proof/Machine/SeqSys.lean ====
section
/-!
DEFINITION. The sequencer's context, join-object and system instructions (15 R299-R315, 05 R84).
-/
namespace Sys2Proof.Machine
open Sys2Proof

/-- What the bundle in hand leaves to be done after its other parts. -/
def State.setAfter (s : State) (a : After) : State := { s with focus := s.focus.map fun f => { f with after := a } }

/-! ### Cells and context (R299-R303) -/

/-- GRD: it waits for the tree's result (R113, R299). -/
def execGrd (d : BitVec 5) (k : BitVec 3) (s : State) : Out :=
  onSeq (fun fo s =>
    let c := (s.slot fo.slot).ctx
    if (c.gPend.get k).isSome then .wait else .go (s.onCtx fo.slot fun c => c.setX d (c.g.get k))) s
/-- KSET: every die of the bundle writes its latch when it retires the bundle (R142, R300). -/
def execKset (k : BitVec 2) (a : BitVec 5) (x : Option Word) (s : State) : Out :=
  onSeqX (if x.isSome then [] else [a]) (fun fo s =>
    let v : Word := match x with | some e => e | none => ((s.slot fo.slot).ctx.getX a).truncate 32
    .go { s with focus := s.focus.map fun f => { f with kset := some (k, v) } }) s
/-- The DIEC result (R84). -/
def Slot.diec (x : Slot) : Xword :=
  BitVec.ofNat 64 (x.n + x.h * 2 ^ 8 + x.w * 2 ^ 16 + x.outcome.toNat * 2 ^ 24 + b2n x.moved * 2 ^ 26)
/-- DIEC clears MOVED (R301). -/
def execDiec (d : BitVec 5) (s : State) : Out :=
  onSeq (fun fo s =>
    let v := (s.slot fo.slot).diec
    .go ((s.onSlot fo.slot fun x => { x with moved := false }).onCtx fo.slot fun c => c.setX d v)) s
/-- STEP; in a handler bundle it records KEEP and nothing else (R302). -/
def execStep (s : State) : Out :=
  onSeq (fun fo s =>
    .go (if fo.handler then s.onSlot fo.slot fun x => { x with outcome := 0 } else s.setAfter .step)) s
/-- TLRD: the tree's minimum of a timeline comes into XD (R303); the bundle's cells give it when they execute the bundle. -/
def execTlrd (d : BitVec 5) (k : BitVec 2) (i : BitVec 1) (s : State) : Out :=
  let _ := (k, i)
  onSeq (fun fo s =>
    let t := (s.slot fo.slot).ctx.tok
    let s := s.onCtx fo.slot fun c => { c.pendX d t with tok := t + 1, tree := c.tree ++ [⟨t, .x d, [], none, false⟩] }
    .go { s with focus := s.focus.map fun f => { f with tlrd := some t } }) s

/-! ### Spawning (R304, R79) -/

/-- The launch descriptor at a place in memory: a read of the table window faults (R169). -/
def State.readDesc (s : State) (a : Xword) : Option (List Byte) :=
  (List.range 6).foldr (fun i r =>
    match s.seqPlace (a + BitVec.ofNat 64 (8 * i)) 8 .read with
    | some (.mem p) => r.map fun l => bytesOf 8 (s.readPlace (.mem p) 8) ++ l
    | _ => none) (some [])

/-- SPAWN's code and the state after it (R79): the limits first, then the handles, then the slots. -/
def State.spawn (s : State) (p : BitVec 4) (b : List Byte) (join : Option (BitVec 6)) : Xword × State :=
  let x := s.slot p
  let d := descOf b
  if !descLegal b s.devnum then (BitVec.ofInt 64 (-2), s)
  else if !s.handlesValid d then (BitVec.ofInt 64 (-3), s)
  else match s.spawnSlot with
    | none => (BitVec.ofInt 64 (-1), s)
    | some c =>
      let j := join.filter fun j => (x.ctx.joins.get j).valid && !(x.ctx.joins.get j).spent
      let prio := if x.prio.toNat < d.prio.toNat then x.prio else d.prio
      let s := s.newContext c d prio x.queue x.fam (some p) j
      let s := match j with
        | some j => s.onCtx p fun y => { y with joins := y.joins.put j (y.joins.get j).register }
        | none => s
      (c.zeroExtend 64, { s with families := s.families.map fun f => if f.id = x.fam then { f with alive := f.alive + 1 } else f })

/-- SPAWN (R304): it waits for earlier sequencer accesses, whose order its descriptor read keeps (R211). -/
def execSpawn (d a : BitVec 5) (e : BitVec 1) (jo : BitVec 6) (s : State) : Out :=
  onSeqX [a] (fun fo s =>
    let c := (s.slot fo.slot).ctx
    if e = 1 ∧ !(c.joins.get jo).valid then .fault .specialRegister (detail23 jo.toNat 2)
    else if c.acc ≠ [] ∨ s.relocating (c.getX a) = true then .wait
    else
      let at0 := c.getX a
      match s.readDesc at0 with
      | none => .fault .scalarMemory at0.toNat
      | some b =>
        let (v, s) := s.spawn fo.slot b (if e = 1 then some jo else none)
        .go (s.onCtx fo.slot fun c => c.setX d v)) s

/-! ### Join objects (R305-R308) -/

/-- An instruction on a join object of the bundle's context. -/
def onJoin (jo : BitVec 6) (s : State) (c : BitVec 4) (f : Join → Join) : State :=
  s.onCtx c fun y => { y with joins := y.joins.put jo (f (y.joins.get jo)) }
/-- BINIT (R306). -/
def execBinit (a : BitVec 5) (jo : BitVec 6) (s : State) : Out :=
  onSeqX [a] (fun fo s =>
    let c := (s.slot fo.slot).ctx
    let v := (c.getX a).toNat
    if (c.joins.get jo).pend ≠ 0 then .fault .specialRegister (detail23 jo.toNat 4)
    else if v = 0 ∨ 2 ^ 24 ≤ v then .fault .specialRegister (detail23 jo.toNat 3)
    else .go (onJoin jo s fo.slot fun _ => ⟨BitVec.ofNat 24 v, 0, 0, 0, 0, true, false⟩)) s
/-- BARR and BARD (R307). How many of the arrivals on their way to the object are delivered in the same cycle is a free
value (log 107). -/
def arriveHere (jo : BitVec 6) (drop : Nat) : State → Out :=
  onSeq fun fo s =>
    let j := (s.slot fo.slot).ctx.joins.get jo
    if !j.valid then .fault .specialRegister (detail23 jo.toNat 2)
    else if j.spent then .go s
    else
      let (n, s) := s.choose (((s.slot fo.slot).ctx.arrivals.countP fun a => a.1 == jo) + 1)
      .go (onJoin jo (s.onCtx fo.slot fun c => c.takeArrivals jo n) fo.slot fun j => j.deliver (n + 1) n drop)
/-- BARR: one arrival (R307). -/
def execBarr (jo : BitVec 6) (s : State) : Out := arriveHere jo 0 s
/-- BARD: one arrival and one drop (R307). -/
def execBard (jo : BitVec 6) (s : State) : Out := arriveHere jo 1 s
/-- Join arrivals on their way are delivered: how many in one cycle is a free value (R307; log 107). -/
def State.joinArrivals (s : State) : State :=
  allSlots.foldl (fun s c =>
    let k := (s.slot c).ctx.arrivals.length
    if k = 0 then s
    else
      let (n, s) := s.choose (k + 1)
      s.onCtx c fun y => y.stepArrivals n) s
/-- Every context's counters are kept (R405). -/
def State.keepCounts (s : State) : State :=
  { s with slots := s.slots.map fun x => if x.ctx.dies = [] then x else { x with ctx := x.ctx.keepCounts s.time } }
/-- BWAIT (R308). -/
def execBwait (d : BitVec 5) (jo : BitVec 6) (s : State) : Out :=
  onSeq (fun fo s =>
    let j := (s.slot fo.slot).ctx.joins.get jo
    if !j.valid then .fault .specialRegister (detail23 jo.toNat 2)
    else if j.rdy ≠ 0 then
      .go ((onJoin jo s fo.slot fun j => { j with rdy := j.rdy - 1 }).onCtx fo.slot fun c => c.setX d (j.rdy.zeroExtend 64))
    else if j.spent then .go (s.onCtx fo.slot fun c => c.setX d (BitVec.allOnes 64))
    else .wait) s
/-- BINV (R306). -/
def execBinv (jo : BitVec 6) (s : State) : Out :=
  onSeq (fun fo s =>
    if ((s.slot fo.slot).ctx.joins.get jo).pend ≠ 0 then .fault .specialRegister (detail23 jo.toNat 4)
    else .go (onJoin jo s fo.slot fun _ => Join.entry)) s

/-! ### Traps and ending (R311-R313) -/

/-- TRAP: it acts once the other parts of its bundle have executed (R311). -/
def execTrap (c : BitVec 14) (x : Option Word) (s : State) : Out :=
  onSeq (fun _ s => .go (s.setAfter (.trap (match x with | some e => e.toNat | none => c.toNat)))) s
/-- ERET: it acts once the other parts of its bundle have executed; outside a handler it has no effect (R312). -/
def execEret (s : State) : Out := onSeq (fun fo s => .go (if fo.handler then s.setAfter .eret else s)) s
/-- HALT: it acts once the other parts of its bundle have executed (R313). -/
def execHalt (a : BitVec 5) (s : State) : Out :=
  onSeqX [a] (fun fo s => .go (s.setAfter (.halt ((s.slot fo.slot).ctx.getX a)))) s

/-! ### The host and the pod (R314, R315) -/

/-- HOSTSIG: after every earlier sequencer access (R314). -/
def execHostsig (a : BitVec 5) (o : BitVec 1) (g : BitVec 8) (s : State) : Out :=
  onSeqX [a] (fun fo s =>
    let c := (s.slot fo.slot).ctx
    if c.acc ≠ [] then .wait
    else .go (s.setSig g (if o = 0 then c.getX a else s.sigobj.get g + c.getX a))) s

/-- A pod round of the bundle in hand: it begins, or the bundle waits for it, or it has completed with a result (R49,
R315; log 67). A context whose PODGRP is 0 completes at once. -/
def podRound (d : BitVec 5) (kind op : BitVec 8) (v : State → BitVec 4 → Xword) (fo : Focus) (s : State) : SStep :=
  let x := s.slot fo.slot
  if x.desc.podgrp = 0 then
    .go (s.onCtx fo.slot fun c =>
      { c.setX d (podResult op.toNat [v s fo.slot]) with podRound := c.podRound + 1 })
  else match x.ctx.podWait.filter fun w => w.pc == fo.pc with
    | none => .go (((s.startRound fo.slot fo.pc kind op (v s fo.slot)).setSres .wait))
    | some w => match w.result with
      | none => .wait
      | some r => .go (s.onCtx fo.slot fun c => { c.setX d r with podWait := none })

/-- PODBAR (R315). -/
def execPodbar (s : State) : Out := onSeq (podRound 0 1 0 fun _ _ => 0) s
/-- PODRED (R315). -/
def execPodred (d a : BitVec 5) (o : BitVec 4) (s : State) : Out :=
  onSeqX [a] (podRound d 2 (o.zeroExtend 8) fun s c => (s.slot c).ctx.getX a) s

end Sys2Proof.Machine
end

