-- ==== Sys2Proof/Machine/Stream.lean ====
section
/-!
DEFINITION. Stream accesses, atomics, permutations, tree reductions and timeline marks as they start in the cell (19
R382-R386, R390).
-/
namespace Sys2Proof.Machine
open Sys2Proof

/-- The start of a store or atomic: its checks, and the flag's address form (R382, R383). -/
def streamStart (env : Env) (a : Xword) (n : Nat) (fl : Option (BitVec 4)) (op : CmdOp) (land : Nat) (dests : List CellReg)
    (c : Cell) : Except CellFault (Start × Cell) :=
  match (flagCheck fl a).or (accessCheck env 0xFF a n n) with
  | some f => .error f
  | none => .ok (⟨op, land, dests, none⟩, c)

/-- bD, or b(D+1):bD, as an operand (R382, R383). -/
def wordOrPair (c : Cell) (d : BitVec 4) (w : BitVec 1) : Nat :=
  if w = 1 then (c.getB64 d).toNat else (c.getB d).toNat
/-- 4 or 8 bytes. -/
def sizeOf1 (w : BitVec 1) : Nat := if w = 1 then 8 else 4

/-- DST (R382). -/
def execDst (l d b : BitVec 4) (e : BitVec 1) (jo : BitVec 6) (w : BitVec 1) (x : Option Word) (s : State) : Out :=
  onCells (command 2 l e jo fun env pre post =>
    let a := addrC pre b (offC x)
    streamStart env a (sizeOf1 w) (flagC x) (.store a (bytesOf (sizeOf1 w) (wordOrPair pre d w)) (flagC x)) 0 [] post) s
/-- DSTV: 64 bytes (R382). -/
def execDstv (l : BitVec 4) (d : BitVec 5) (b : BitVec 4) (e : BitVec 1) (jo : BitVec 6) (x : Option Word) (s : State) : Out :=
  onCells (command 2 l e jo fun env pre post =>
    let a := addrC pre b (offC x)
    streamStart env a 64 (flagC x) (.store a (bytesOf 64 (pre.getV d).toNat) (flagC x)) 0 [] post) s
/-- DLD: 64 bytes landing in vD at E + LAND (R382). -/
def execDld (l : BitVec 4) (d : BitVec 5) (b : BitVec 4) (e : BitVec 1) (jo : BitVec 6) (f : BitVec 20) (n : BitVec 12)
    (s : State) : Out :=
  onCells (command 2 l e jo fun env pre post =>
    let a := addrC pre b f.toInt
    streamStart env a 64 none (.load a d.toNat) n.toNat [.v d.toNat] post) s

/-- DATOM, operations 0 to 8: no value returns (R383). -/
def execDatom (l : BitVec 4) (w : BitVec 1) (d b : BitVec 4) (e : BitVec 1) (jo : BitVec 6) (o : BitVec 4) (x : Option Word)
    (s : State) : Out :=
  onCells (command 2 l e jo fun env pre post =>
    let a := addrC pre b (offC x)
    streamStart env a (sizeOf1 w) (flagC x)
      (.atom a (w == 1) o.toNat (wordOrPair pre d w) 0 env.carried.fpctl (flagC x)) 0 [] post) s
/-- DATOM, operations 9 to 12: the old value lands in bD, or in b(D+1):bD (R383). -/
def execDatomRet (l : BitVec 4) (w : BitVec 1) (d b : BitVec 4) (e : BitVec 1) (jo : BitVec 6) (o : BitVec 4) (f : BitVec 20)
    (n : BitVec 12) (s : State) : Out :=
  onCells (command 2 l e jo fun env pre post =>
    let a := addrC pre b f.toInt
    let c := if o = 10 then (if w = 1 then (pre.getB64 (d + 2)).toNat else (pre.getB (d + 1)).toNat) else 0
    streamStart env a (sizeOf1 w) none (.atom a (w == 1) o.toNat (wordOrPair pre d w) c env.carried.fpctl none) n.toNat
      (.b d.toNat :: (if w = 1 then [.b (d.toNat + 1)] else [])) post) s

/-- DPERM: a slice address on this device, 4-byte aligned, within the destination scratchpad (R385). -/
def execDperm (v : BitVec 5) (b : BitVec 4) (e : BitVec 1) (jo : BitVec 6) (x : Option Word) (s : State) : Out :=
  onCells (command 2 0 e jo fun env pre post =>
    let a := addrC pre b (offC x)
    let bad := if tagOf a = 2 ∧ sliceDev a = env.dev.toNat then none else some (badAddr 0xFF a)
    match bad.or (accessCheck env 0xFF a 64 4) with
    | some f => .error f
    | none => .ok (Start.plain (.perm a (bytesOf 64 (pre.getV v).toNat)), post)) s

/-- The destination of a permutation kind (R384): logical die, row and column, for s = sext(OFF, 20). -/
def permDest (env : Env) (kind : Nat) (k : Int) : Nat × Nat :=
  let ld := env.die
  let y := env.cell / 40
  let x := env.cell % 40
  let md := fun (a : Int) (m : Nat) => (a % (m : Int)).toNat
  match kind with
  | 0 => (md (ld + k) env.n, env.cell)
  | 1 => let z := ld ^^^ md k 64; (if z < env.n then z else ld, env.cell)
  | 2 => (ld / env.w * env.w + md ((ld % env.w : Nat) + k) env.w, env.cell)
  | 3 => (md ((ld / env.w : Nat) + k) env.h * env.w + ld % env.w, env.cell)
  | 4 => (ld, 40 * y + md (x + k) 40)
  | 5 => (ld, 40 * md (y + k) 40 + x)
  | _ => let l := md ((1600 * ld + env.cell : Nat) + k) (1600 * env.n); (l / 1600, l % 1600)

/-- A slice address word (R166). -/
def sliceAddr (dev ld cell off : Nat) : Xword :=
  BitVec.ofNat 64 (2 ^ 63 + dev * 2 ^ 56 + ld * 2 ^ 50 + cell * 2 ^ 39 + off)

/-- DPERMCFG: b(D+1):bD := the slice address of the destination (R384). -/
def execDpermcfg (d k p : BitVec 4) (x : Option Word) (s : State) : Out :=
  onCells (pureOp fun env pre post =>
    let (ld, c) := permDest env p.toNat (offC x)
    let a := sliceAddr env.dev.toNat ld c ((pre.getB k).toNat % 2 ^ 17)
    (post.setB d (a.truncate 32)).setB (d + 1) ((a >>> 32).truncate 32)) s

/-- DRED's source (R386): a b register, half of CFLAGS, or a condition bit for operation 10. -/
def redSource (c : Cell) (v : BitVec 5) (o : BitVec 4) : Word :=
  if o = 10 then BitVec.ofNat 32 (b2n (c.c.get (v.truncate 2)))
  else if v.toNat < 16 then c.getB (v.truncate 4)
  else if v = 16 then c.cflags.word.truncate 32 else (c.cflags.word >>> 32).truncate 32

/-- DTLMARK (R390): with ISS, the commands of timeline K sent from earlier bundles and, for one in C1, from C0 of its own
bundle; else tlK. -/
def execDtlmark (d : BitVec 4) (k : BitVec 2) (i : BitVec 1) (s : State) : Out :=
  onCells (pureOp fun _ pre post =>
    let same := (post.leaving.filter fun l => l.cmd.tl = k).length
    post.setB d (BitVec.ofNat 32 (if i = 1 then pre.issue.get k + same else pre.tl.get k))) s

end Sys2Proof.Machine
end

