-- ==== Sys2Proof/Machine/Tree.lean ====
section
/-!
DEFINITION. The reckoning tree's result channel (06 R111-R113, 15 R303, 19 R386): DRED, what a bundle's cells contribute,
and the delivery of results.
-/
namespace Sys2Proof.Machine
open Sys2Proof

/-- A result put before the TLRD result of the same bundle, if it has one: DRED's comes first (R303). -/
def putBefore (t : Option Nat) (p : TreePend) (l : List TreePend) : List TreePend :=
  l.takeWhile (fun q => some q.tok != t) ++ p :: l.dropWhile fun q => some q.tok != t
/-- A tree result is awaited by a g register from the bundle in hand on (R113). -/
def State.awaitTree (s : State) (g : BitVec 3) : State :=
  match s.focus with
  | none => s
  | some f =>
    if !f.issuing then s
    else
      let t := (s.slot f.slot).ctx.tok
      let s := s.onCtx f.slot fun c =>
        { c with tok := t + 1, gPend := c.gPend.put g (some t), tree := putBefore f.tlrd ⟨t, .g g, [], none, false⟩ c.tree }
      { s with focus := some { f with dred := some t } }

/-- DRED: each active cell places its value on the result channel, and gK awaits the tree's result (R386). -/
def execDred (v : BitVec 5) (g : BitVec 3) (o : BitVec 4) (s : State) : Out :=
  onCells (pureOp fun _ pre post => { post with contrib := some (redSource pre v o) }) (s.awaitTree g)

/-- The operation of a bundle's DRED. -/
def dredOp (b : Bundle) : Option Nat :=
  b.ops.findSome? fun o => match o.2 with | .dred _ _ op => some op.toNat | _ => none
/-- The timeline of a bundle's TLRD, and whether it asks for issue numbers. -/
def tlrdOp (b : Bundle) : Option (BitVec 2 × Bool) :=
  b.ops.findSome? fun o => match o.2 with | .tlrd _ k i => some (k, i == 1) | _ => none

/-- What a cell gives to TLRD (R303). -/
def tlrdValue (k : BitVec 2) (iss : Bool) (c : Cell) : Nat := if iss then c.issue.get k else c.tl.get k
/-- What the cells of a die give to TLRD: their minimum; a die without cells gives nothing (R303). -/
def tlrdGive (k : BitVec 2) (iss : Bool) (cells : List Cell) : List Nat :=
  match cells.map (tlrdValue k iss) with
  | [] => []
  | a :: r => [r.foldl min a]

/-- A die's contribution to the result with a token (R111). -/
def Ctx.contribute (c : Ctx) (t : Option Nat) (die : Nat) (l : List Nat) : Ctx :=
  match t with
  | none => c
  | some t => { c with tree := c.tree.map fun p =>
      if p.tok = t then { p with got := (p.got.filter fun g => g.1 != die) ++ [(die, l)] } else p }
/-- What a die gives to the results of a bundle that it executes: to DRED as its slots leave its cells, to TLRD as they
find them (R303, R386). -/
def Ctx.give (c : Ctx) (f : Focus) (w : Window) : Ctx :=
  let c := match dredOp f.bundle with
    | none => c
    | some _ => c.contribute f.dred w.die ((w.post.filterMap (·.contrib)).map (·.toNat))
  match tlrdOp f.bundle with
  | none => c
  | some (k, iss) => c.contribute f.tlrd w.die (tlrdGive k iss w.pre)

/-- Whether every unmasked die has executed a bundle; dies execute a handler bundle together. -/
def Ctx.executed (c : Ctx) (mask : Xword) (bsn : Option Nat) : Bool :=
  match bsn with
  | none => true
  | some b => (List.range c.dies.length).all fun d =>
      !bit mask d || match c.dies[d]? with | some x => decide (b ≤ x.done) | none => true

/-- The contributions to a result, in the order of the dies. -/
def TreePend.inputs (p : TreePend) (n : Nat) : List Nat :=
  (List.range n).flatMap fun d => ((p.got.find? fun g => g.1 == d).map (·.2)).getD []
/-- The result with a token is there for the tree to deliver. -/
def Ctx.treeValue (c : Ctx) (t : Option Nat) (v : List Nat → Xword) : Ctx :=
  match t with
  | none => c
  | some t => { c with tree := c.tree.map fun p =>
      if p.tok = t && p.value.isNone then { p with value := some (v (p.inputs c.dies.length)) } else p }

/-- The results of a bundle, once every unmasked die has executed it: DRED's first, then TLRD's (R111, R303). -/
def Ctx.reduce (c : Ctx) (f : Focus) : Ctx :=
  if !c.executed f.carried.dieMask f.bsn then c
  else
    let c := match dredOp f.bundle with
      | none => c
      | some op => c.treeValue f.dred fun l => treeResult op (l.map (BitVec.ofNat 32))
    match tlrdOp f.bundle with
    | none => c
    | some _ => c.treeValue f.tlrd fun l => BitVec.ofNat 64 (l.foldl min (2 ^ 64 - 1))

/-- A register awaits a result again whose bundle is rebroadcast; TLRD collects afresh, from the dies that have already
executed it as they now stand (R123). -/
def Ctx.reawait (c : Ctx) (e : HistEntry) : Ctx :=
  c.tree.foldl (fun c p =>
    if !p.again || !(e.dred == some p.tok || e.tlrd == some p.tok) then c
    else
      let c := { c with tree := c.tree.map fun (q : TreePend) => if q.tok = p.tok then { q with again := false } else q }
      match p.dest with
      | .g k => { c with gPend := c.gPend.put k (some p.tok) }
      | .x d =>
        (List.range c.dies.length).foldl (fun c i =>
          match tlrdOp e.bundle, c.dies[i]? with
          | some (k, iss), some x =>
            if bit e.carried.dieMask i && decide (e.bsn ≤ x.done) then c.contribute (some p.tok) i (tlrdGive k iss x.cells) else c
          | _, _ => c) (c.pendX d p.tok)) c

/-- The tree delivers the first result that is there (R113). -/
def Ctx.deliverTree (c : Ctx) : Ctx :=
  match c.tree.find? fun p => p.value.isSome with
  | none => c
  | some p =>
    let v := p.value.getD 0
    let c := { c with tree := c.tree.filter fun q => q.tok != p.tok }
    match p.dest with
    | .g k => c.giveG k p.tok v
    | .x d => c.giveX d p.tok v

end Sys2Proof.Machine
end

