-- ==== Sys2Proof/Machine/Sync.lean ====
section
/-!
DEFINITION. The sync field (20 R392-R403, 10 R203, R206, R207, 08 R156).
-/
namespace Sys2Proof.Machine
open Sys2Proof

/-- A flag has reached a value (R395). -/
def flagReached (y v : BitVec 16) : Bool := decide ((y - v).toNat < 2 ^ 15)
/-- The target of a timeline wait for an issue number and a 32-bit value (R398). -/
def waitTarget (issue v : Nat) : Int := (issue : Int) - ((((issue : Int) - v) % 2 ^ 32))
/-- Whether a timeline has reached the target for a value (R398). -/
def Cell.timelineReached (c : Cell) (k : BitVec 2) (v : Nat) : Bool :=
  decide (waitTarget (c.issue.get k) v ≤ (c.tl.get k : Int))

/-- Whether an access of a class has been performed at its destination, or an engine command has completed; commands that
carry no class are not waited for (R196, R203). -/
def Cmd.fenced (q : Cmd) (mask : BitVec 16) : Bool :=
  !bit mask q.cls.toNat ||
  (match q.op with
   | .store _ _ _ | .load _ _ | .atom _ _ _ _ _ _ _ =>
     (match q.st with | .performed _ => true | .complete => true | _ => false)
   | .copy _ _ _ _ _ | .gather _ _ _ | .scatter _ _ _ _ | .indexed _ _ _ _ _ _ => q.st == .complete
   | _ => true)

/-- Whether a wait of the sync field is met in a cell; a cell with A = 0 completes it at once (R206, R207, R394). A register
that YWAITT reads is not pending (R161). -/
def waitMet (y : Instr) (c : Cell) : Bool :=
  !c.act ||
  match y with
  | .ywaitf k v => flagReached (c.y.get k) (v.zeroExtend 16)
  | .ywaitfExt k v => flagReached (c.y.get k) v
  | .ywaitt k v => c.timelineReached k v.toNat
  | .ywaittB k j => (c.hawk.all fun h => h.dest != .b j.toNat) && c.timelineReached k (c.getB j).toNat
  | .yfence m => c.cmds.all fun q => q.fenced m
  | _ => true

/-- The guard entries that a YWAITT removes when it completes (R158). -/
def Cell.dropGuards (c : Cell) (k : BitVec 2) (v : Nat) : Cell :=
  let t := waitTarget (c.issue.get k) v
  { c with guards := c.guards.filter fun g => !(g.tl == k && decide ((g.num : Int) ≤ t)) }
/-- Whether the sync wait of a bundle has completed in a cell. -/
def Cell.waitedFor (c : Cell) (b : Option Nat) : Bool := b.isSome && c.waited == b
/-- A cell executes a bundle whose wait has completed: what it reads from that completion on, engines have written before
(R158, R205, R207). -/
def Cell.passWait (y : Instr) (b : Option Nat) (c : Cell) : Cell :=
  let c := if c.waitedFor b then c else { c with raced := [] }
  match y with
  | .ywaitt k v => c.dropGuards k v.toNat
  | .ywaittB k j => c.dropGuards k (c.getB j).toNat
  | _ => c

/-- A wait of the sync field: a die with a cell where it is not met does not execute the bundle yet; a handler bundle waits
as a whole (R122, R206, R394). A wait that SYNC_WAIT_COMPLETE has completed in a cell stays complete. -/
def syncWait (y : Instr) (s : State) : Out :=
  .next (match s.focus with
    | none => s
    | some f =>
      let met := fun (w : Window) => w.pre.all fun c => c.waitedFor f.bsn || waitMet y c
      if f.handler && !f.windows.all met then s.setSres .wait
      else
        let pass := fun (w : Window) =>
          { w with pre := w.pre.map (Cell.passWait y f.bsn), post := w.post.map (Cell.passWait y f.bsn) }
        { s with focus := some { f with windows := (f.windows.filter met).map pass } })

/-- YWAITF (R396). -/
def execYwaitf (k : BitVec 4) (v : BitVec 15) (s : State) : Out := syncWait (.ywaitf k v) s
/-- YWAITF with a second word (R396). -/
def execYwaitfExt (k : BitVec 4) (v : BitVec 16) (s : State) : Out := syncWait (.ywaitfExt k v) s
/-- YWAITT with a second word (R398). -/
def execYwaitt (k : BitVec 2) (v : BitVec 32) (s : State) : Out := syncWait (.ywaitt k v) s
/-- YWAITT with a b register (R398). -/
def execYwaittB (k : BitVec 2) (j : BitVec 4) (s : State) : Out := syncWait (.ywaittB k j) s
/-- Whether a command that a fence awaits is done. -/
def Cell.fenceDone (c : Cell) (k : BitVec 2 × Nat) : Bool :=
  c.cmds.all fun q => !(q.tl == k.1 && q.num == k.2) || q.fenced 0xFFFF
/-- Whether a cell's C slots are free of fences, that of the bundle in hand included (R203, R206). -/
def Cell.unfenced (c : Cell) (y : Option Instr) : Bool :=
  c.fence.all c.fenceDone && match y with
    | some (.yfence m) => c.cmds.all fun q => q.fenced m
    | _ => true
/-- A fence: the accesses and commands of its classes that have left the cell and are not done are awaited before a C slot
starts again; the V and M units are not held (R203, R399; log 23). -/
def Cell.putFence (c : Cell) (m : BitVec 16) : Cell :=
  { c with fence := c.fence.filter (fun k => !c.fenceDone k) ++
      (c.cmds.filter fun q => !q.fenced m).map fun q => (q.tl, q.num) }
/-- YFENCE (R203, R207, R399). -/
def execYfence (m : BitVec 16) (s : State) : Out :=
  onCells (pureOp fun _ _ post => post.putFence m) s

/-- YPOSTF: every cell of the bundle's dies, whatever its A, adds to its flag (R397, R207). -/
def execYpostf (k : BitVec 4) (n : BitVec 15) (s : State) : Out :=
  onCells (fun _ _ post => .ok { post with y := post.y.put k (post.y.get k + n.zeroExtend 16) }) s

/-- YLOCK: `n` is the count minus 1 (R273, R400). -/
def execYlock (m : BitVec 16) (n : BitVec 3) (s : State) : Out :=
  .next { s with focus := s.focus.map fun f => { f with lock := some (m, n.zeroExtend 4 + 1) } }

/-- YYIELD (R401): with a pre-emption request pending, the sequencer judges the banks once every die has completed the
bundles issued (DEDUCED, log 24). -/
def execYyield (s : State) : Out :=
  .next (match s.focus with
    | none => s
    | some f =>
      let x := s.slot f.slot
      if !f.issuing || f.handler || (s.asked f.slot).isNone then s
      else if x.ctx.dmin < x.ctx.sent then s.setSres .wait
      else if x.ctx.anyLive then s
      else { s with focus := some { f with after := .yield } })

/-- YBAR: the sequencer waits before it issues the next bundle (R402). Handler bundles run at every die at once (R122). -/
def execYbar (s : State) : Out :=
  .next (match s.focus with
    | none => s
    | some f => if f.handler then s else match f.bsn with
      | none => s
      | some b => if f.issuing then s.onCtx f.slot fun c => { c with ybar := some b } else s)

/-- YMARK: the trigger, then LASTMARK (R403, R410). -/
def execYmark (m : BitVec 16) (s : State) : Out :=
  .next (match s.focus with
    | none => s
    | some f =>
      if !f.issuing then s
      else (s.trigger 1 f.slot 0).onCtx f.slot fun c =>
        { c with lastMark := BitVec.ofNat 64 (m.toNat + (f.bsn.getD 0) % 2 ^ 48 * 2 ^ 16) })

/-- Whether a sync operation waits for something in its cells (R206). -/
def isWait : Instr → Bool
  | .ywaitf _ _ | .ywaitfExt _ _ | .ywaitt _ _ | .ywaittB _ _ => true
  | _ => false
/-- Whether a wait of the sync field stands in the bundle after a die's last (R206). -/
def Ctx.nextWait (c : Ctx) (d : Nat) : Option (Nat × Instr) :=
  match c.dies[d]? with
  | none => none
  | some y => (c.hist.find? fun e => e.bsn == y.done + 1).bind fun e =>
      if bit e.carried.dieMask d then (e.bundle.sync.filter isWait).map fun i => (e.bsn, i) else none
/-- A cell in which the wait of a bundle is met completes it, once and for all. -/
def Cell.endWait (c : Cell) (y : Instr) (b : Nat) : Cell :=
  if c.waited = some b ∨ waitMet y c = false then c else { c with waited := some b, raced := [] }
/-- Whether a cell of a die has yet to complete the wait of its next bundle and can. -/
def Die.waitEnds (d : Die) (y : Instr) (b : Nat) : Bool := d.cells.any fun c => c.waited != some b && waitMet y c

end Sys2Proof.Machine
end

