-- ==== Sys2Proof/Machine/Issue.lean ====
section
/-!
DEFINITION. Fetch, decode and issue; execution and retirement at the dies; barriers; faults, freezes, the entry into the
handler and the rebroadcast after it (06 R105-R124, 14 R265-R279, 15 R289, R311-R313, 20 R393, R409-R411).
-/
namespace Sys2Proof.Machine
open Sys2Proof

/-! ### What stops a set (R131, R132, R134) -/

/-- Whether a tile holds a FIXED set, once every die has taken its bundle: from its squash until its replay has been judged
(R248). -/
def Tile.replaying (t : Tile) : Bool :=
  match t.st with
  | .passing => t.rep0 + t.rep1 != 0
  | .ready => false
  | _ => true
/-- Whether every die has taken a bundle, or can take it no more for the freeze or handler in force (R248). -/
def Ctx.allTook (y : Ctx) (bsn : Option Nat) : Bool :=
  match bsn with
  | none => true
  | some b => y.inHandler || y.dies.all fun d => decide (b ≤ d.done) || match y.freeze with
      | some z => decide (y.stopOf z d ≤ d.done)
      | none => false
/-- Whether a die of a set is stopped by a hard trip. -/
def State.tripped (s : State) (c : BitVec 4) : Bool := (s.slot c).pdies.any fun p => (s.pdies.get p).tripped
/-- Whether a FIXED set has a DPERM whose writes are not performed 128 cycles after its start (R385). -/
def Ctx.permLate (y : Ctx) : Bool :=
  y.fixed && y.dies.any fun d => d.cells.any fun q => q.cmds.any fun k =>
    !k.st.isPerformed && decide (k.cyc + 128 ≤ d.cyc.toNat + 1) && (match k.op with | .perm _ _ => true | _ => false)
/-- Whether a hard trip, a late landing, a late permutation or a replay stops a FIXED set (R132, R134, R248, R385). -/
def State.halted (s : State) (c : BitVec 4) (landings : Bool) : Bool :=
  let y := (s.slot c).ctx
  y.fixed && (s.tripped c || (landings && y.permLate) || y.dies.any fun d =>
    (landings && d.frozen) || d.cells.any fun q => q.tiles.any fun t => t.replaying && y.allTook t.bsn)
/-- Whether an emergency refresh holds a die (R183). -/
def State.refreshHeld (s : State) (p : BitVec 6) : Bool := decide (s.time < (s.pdies.get p).holdTo)
/-- Whether a refresh or a throttle holds a FIXED set (R134, R137, R183). -/
def State.softHeld (s : State) (c : BitVec 4) : Bool :=
  (s.slot c).ctx.fixed && ((s.slot c).pdies.any s.refreshHeld || (s.slot c).regions.any s.throttledNow)
/-- Whether the stop wire holds a FIXED set for another cause than a late landing (R132, R134, R137, R248). -/
def State.wired (s : State) (c : BitVec 4) : Bool := s.halted c false || s.softHeld c
/-- Whether the stop wire holds a FIXED set: every die, the control core, the beam and the tree (R132, R134). -/
def State.held (s : State) (c : BitVec 4) : Bool := s.halted c true || s.softHeld c
/-- Whether the clock of a slot's die runs: the slot holds dies, which no trip or refresh stops; the set's, in FIXED mode,
is held for a landing at most (R131, R132, R134). -/
def State.clocked (s : State) (c : BitVec 4) (d : Nat) : Bool :=
  let x := s.slot c
  x.holds && x.state != .restoring && x.state != .draining &&
  (if x.ctx.fixed then !s.wired c && !x.ctx.permLate
   else !(s.pdies.get (x.phys d)).tripped && !s.refreshHeld (x.phys d))

/-! ### Fetch (R279) -/

/-- The line that holds an address. -/
def lineOf (a : Xword) : Xword := BitVec.ofNat 64 (a.toNat / 64 * 64)
/-- The place of a line for fetch, through the handle translation; an address of another space is refused as permission
(R171, R279; log 25). -/
def State.fetchPlace (s : State) (a : Xword) : Except Cause Run :=
  if tagOf a ≠ 1 ∨ handleOf a = 0 then .error .permission
  else translateHandle (s.entry (handleOf a)) (handleOf a) (s.keyed (handleOf a)) (handleOff a) 64 .fetch true
/-- The 16 words of a line. -/
def lineWords (b : List Byte) : List Word := (List.range 16).map fun i => BitVec.ofNat 32 (fieldOf b (4 * i) 4)
/-- The line at an address and those that follow it, as far as they translate, up to a count (R279). -/
def State.fetchLines (s : State) : Nat → Xword → List (Xword × List Word)
  | 0, _ => []
  | k + 1, a => match s.fetchPlace a with
    | .error _ => []
    | .ok r => (a, lineWords (s.rdRun r)) :: State.fetchLines s k (a + 64)

/-- Whether the control core lacks the line of its next bundle and may fetch it. -/
def State.wantsFetch (s : State) (c : BitVec 4) : Bool :=
  let x := s.slot c
  s.resetRun.isNone && x.state == .running && x.core.isSome && x.ctx.freeze.isNone && x.ctx.fetchPark.isNone && x.ctx.ybar.isNone &&
  !s.held c &&
  (x.ctx.inHandler || !x.ctx.resending) && !x.ctx.lines.any (fun l => l.1 == lineOf x.ctx.pc) &&
  !(s.transl.relocRun.any fun r => r.1 == handleOf x.ctx.pc && tagOf x.ctx.pc == 1)

/-- BUNDLE_FETCH: the line of the next bundle and up to four lines ahead, or a park (R256, R279). -/
def execBundleFetch (c : BitVec 4) (ahead : BitVec 3) (s : State) : Out :=
  if !s.wantsFetch c then .next s
  else
    let a := lineOf (s.slot c).ctx.pc
    match s.fetchPlace a with
    | .ok r =>
      if !r.host && decide (2 ^ 41 ≤ r.pa + 63) then .fault (.outsideHbm r.pa)
      else .next (s.onCtx c fun y => { y with lines := s.fetchLines (1 + min 4 ahead.toNat) a })
    | .error cause =>
      let (id, s) := s.parkReq c cause .fetch ⟨a, 0, 6, 3, none, none, none, 0, 0, 0xFF⟩
      .next (match id with
        | none => s
        | some id => s.onCtx c fun y => { y with fetchPark := some id })

/-! ### Which bundles go down the beam (R105, R288) -/

/-- The S instructions that are beam-carried (R288). -/
def isBeamS : Instr → Bool
  | .kset _ _ _ | .step | .tlrd _ _ _ => true
  | .srw _ n => n == 0 || n == 2 || n == 3 || n == 4
  | _ => false
/-- Whether a bundle is beam-carried (R105). -/
def isBeam (b : Bundle) : Bool :=
  b.gather || (match b.sync with | none => false | some i => i != .yyield) || b.ops.any fun o => o.1 != .s || isBeamS o.2
/-- The vault commands (R94). -/
def isVault : Instr → Bool
  | .dvact _ _ _ _ | .dvpre _ _ _ _ | .dvrd _ _ _ _ _ _ | .dvrdSp _ _ _ _ _ _ | .dvwr _ _ _ _ _ | .dvwrSp _ _ _ _ _ _
  | .dvref _ _ _ _ | .dvlife _ _ _ _ _ _ => true
  | _ => false

/-! ### When a die can execute a bundle (R109, R144, R160, R161, R198, R249) -/

/-- The bank that an M instruction names. -/
def bankOf : Instr → Option (BitVec 3)
  | .tmma c _ _ _ _ _ _ => some c
  | .tmma64 c _ _ _ _ => some c
  | .taccz c => some c
  | .taccld c _ _ _ _ => some c
  | .taccst c _ _ _ _ => some c
  | .taccret c => some c
  | .taccrd c _ _ => some c
  | .taccwr c _ _ => some c
  | .tcoat c _ => some c
  | _ => none
/-- The ring that a ring instruction names. -/
def ringOf : Instr → Option (BitVec 3)
  | .qset q _ _ _ _ _ _ => some q
  | .qcommit q _ => some q
  | .qpop q _ => some q
  | .qstat q _ _ => some q
  | .qtwin q _ _ => some q
  | _ => none
/-- Whether an M operation can start beside a cell's tiles: none waits for its replay or replays; a handler's waits for every
pass and replay in hand (R247, R249, R374). -/
def Cell.mFree (c : Cell) (handler : Bool) : Bool :=
  c.tiles.all fun t => match t.st with
    | .squashed | .fetching _ _ | .parked _ _ _ _ => false
    | .passing => !handler && t.rep0 + t.rep1 == 0
    | .ready => true
/-- An M instruction waits for the tiles it depends on (R144, R249, R360, R363, R365, R370). -/
def tilesReady (c : Cell) (i : Instr) : Bool :=
  (match bankOf i with | some b => c.tiles.all fun t => t.bank != b | none => true) &&
  (match ringOf i with | some q => c.tiles.all fun t => t.qa != q && t.qb != q | none => true) &&
  (match i with | .tmon _ _ _ => c.tiles.isEmpty | _ => true)
/-- The class of a stream access (R196). -/
def streamClass : Instr → Option (BitVec 4)
  | .dst l _ _ _ _ _ _ => some l
  | .dstv l _ _ _ _ _ => some l
  | .dld l _ _ _ _ _ _ => some l
  | .datom l _ _ _ _ _ _ _ => some l
  | .datomRet l _ _ _ _ _ _ _ _ => some l
  | _ => none
/-- The destinations of a landing request (R160). -/
def landRegs : Instr → List CellReg
  | .dgath l d b e j c w f n => writes (.dgath l d b e j c w f n)
  | .dld l d b e j f n => writes (.dld l d b e j f n)
  | .datomRet l w d b e j o f n => writes (.datomRet l w d b e j o f n)
  | .dvrd d b e j f n => writes (.dvrd d b e j f n)
  | _ => []

/-- Whether a cell can perform a bundle's slots: no register they name is pending, the hawk has room, no stream would pass
32 accesses outstanding, no tile keeps an M operation from starting, and no fence a C slot. A cell with A = 0 passes them (R117). -/
def cellReady (b : Bundle) (handler : Bool) (c : Cell) : Bool :=
  !c.act || (
  ((b.ops.all fun o => o.1 != .c0 && o.1 != .c1) || c.unfenced b.sync) &&
  b.ops.all (fun o => tilesReady c o.2 && (o.1 != .m || c.mFree handler) &&
    c.hawk.all fun h => !(writes o.2).contains h.dest && !(reads o.2).contains h.dest) &&
  decide (c.hawk.length + (b.ops.flatMap fun o => landRegs o.2).length ≤ 32) &&
  (b.ops.filterMap fun o => streamClass o.2).all fun k =>
    decide ((c.outstanding k).length + (b.ops.filter fun o => streamClass o.2 == some k).length ≤ 32))

/-- Whether a landing falls due at a die before it can take another bundle (R160, R161). -/
def Die.landDue (d : Die) : Bool := d.cells.any fun q => q.hawk.any fun h => decide (h.due ≤ d.cyc.toNat + 1)
/-- Whether a die takes a bundle now: its clock runs, it has no fault pending at or below the bundle, a staggered start has
reached it, and no landing is due first (R131, R135, R138, R160). -/
def State.dieRuns (s : State) (c : BitVec 4) (d : Nat) (bsn : Option Nat) (y : Die) : Bool :=
  let x := s.slot c
  !(if x.ctx.fixed then x.ctx.dies.any Die.landDue else y.landDue) &&
  (y.fault.all fun q => bsn.any fun b => decide (b < q.bsn)) && !y.frozen && y.started &&
  !(s.pdies.get (x.phys d)).tripped && !s.refreshHeld (x.phys d)
/-- Whether a bundle may retire at a die as far as the others go: a collective only once every die of the set has retired
every bundle below it, so that a freeze finds it at no die (DEDUCED from R120 and R446, log 19). -/
def Ctx.together (y : Ctx) (bsn : Option Nat) (b : Bundle) : Bool :=
  match bsn with
  | some n => !isCollective b || y.dies.all fun x => decide (n ≤ x.done + 1)
  | none => true
/-- Whether a die can execute a bundle now: it has retired the bundle before, and every cell is ready (R109). -/
def State.dieReady (s : State) (c : BitVec 4) (d : Nat) (bsn : Option Nat) (b : Bundle) : Bool :=
  match (s.slot c).ctx.dies[d]? with
  | none => false
  | some y =>
    s.dieRuns c d bsn y && (match bsn with | some n => decide (y.done + 1 = n) | none => true) &&
    (s.slot c).ctx.together bsn b && y.cells.all (cellReady b bsn.isNone)

/-- The cells of a die as a bundle's accesses find them: what engines wrote to the banks of a lock that covers the bundle,
they wrote before its loads began (R156, R337). -/
def Die.view (y : Die) (bsn : Option Nat) : List Cell :=
  if y.lockLeft = 0 || (bsn.isNone && !y.lockBy) then y.cells
  else y.cells.map fun q => { q with raced := q.raced.filter fun r => !bit y.lockMask (r.off / 4 % 16) }
/-- The windows of the unmasked dies that can execute a bundle now. -/
def State.windows (s : State) (c : BitVec 4) (mask : Xword) (bsn : Option Nat) (b : Bundle) : List Window :=
  let x := s.slot c
  (List.range x.n).filterMap fun d =>
    if bit mask d && s.dieReady c d bsn b then (x.ctx.dies[d]?).map fun y => ⟨d, y.view bsn, y.view bsn, []⟩ else none

/-- The unmasked dies that have still to execute a bundle: all of them for a handler bundle. -/
def Ctx.owing (y : Ctx) (mask : Xword) (bsn : Option Nat) : Nat :=
  ((List.range y.dies.length).filter fun d =>
    bit mask d && match bsn, y.dies[d]? with
      | some b, some x => decide (x.done < b)
      | none, some _ => true
      | _, none => false).length

/-! ### Work in hand -/

/-- The sync operations that act before the slots of their bundle (R393). -/
def actsFirst : Instr → Bool
  | .ywaitf _ _ | .ywaitfExt _ _ | .ywaitt _ _ | .ywaittB _ _ | .yfence _ | .yyield => true
  | _ => false
/-- The parts of a bundle in the order in which they act: waits, the S part, the cell slots, the rest of the sync field
(R278, R393). The S part acts only at issue (R123). -/
def workOf (b : Bundle) (withS : Bool) : List (SlotName × Instr) :=
  let y := b.sync.toList
  (y.filter actsFirst).map (fun i => (SlotName.y, i)) ++
  (if withS then b.ops else b.ops.filter fun o => o.1 != .s) ++
  (y.filter fun i => !actsFirst i).map fun i => (SlotName.y, i)

/-- The values that a bundle of the context carries down the beam now (R106, R232). -/
def Ctx.carried (y : Ctx) : Carried := ⟨y.dieMask, y.fpctl, y.coatctl, y.budget, y.guard⟩

/-- A bundle in hand. -/
def State.take (s : State) (c : BitVec 4) (b : Bundle) (bsn : Option Nat) (k : Carried) (ws : List Window)
    (issuing beam : Bool) (nextAddr : Xword) (e : Option HistEntry) : State :=
  let x := s.slot c
  { s with
    focus := some
      { slot := c, n := x.n, h := x.h, w := x.w, dev := s.devnum, bsn := bsn, carried := k, now := .s
        ks := x.ctx.dies.map (·.k), windows := ws, issuing := issuing, handler := x.ctx.inHandler, carriedDown := beam
        bundle := b, pc := x.ctx.pc, nextAddr := nextAddr, kset := e.bind (·.kset), dred := e.bind (·.dred)
        tlrd := e.bind (·.tlrd), sres := .done, after := .none, lock := none
        tag := bsn.getD x.ctx.cyc.toNat, ahead := false, hold := [] }
    work := workOf b issuing }

/-! ### Closing a bundle -/

/-- Joins registered by commands that leave: on an object not valid or SPENT nothing registers (R307). -/
def leaveJoins (js : RegFile Join 6) : List Leaving → RegFile Join 6 × List Leaving
  | [] => (js, [])
  | l :: r =>
    match l.cmd.join with
    | none => let q := leaveJoins js r; (q.1, l :: q.2)
    | some j =>
      if (js.get j).valid && !(js.get j).spent then
        let q := leaveJoins (js.put j (js.get j).register) r
        (q.1, l :: q.2)
      else
        let q := leaveJoins js r
        (q.1, { l with cmd := { l.cmd with join := none } } :: q.2)

/-- The cells of a die at the retirement of a bundle in pipeline cycle `cyc`: commands leave, commands of cells with A = 0
complete in their turn (R109, R204, R207). -/
def commitCells (cyc : Nat) (js : RegFile Join 6) : List Cell → RegFile Join 6 × List (BitVec 6) × List Cell
  | [] => (js, [], [])
  | q :: r =>
    let l := leaveJoins js q.leaving
    let sent := l.2.foldl (fun c x => c.send cyc x)
      { q with leaving := [], contrib := none, stored := [], raced := [], waited := none, tiles := q.tiles.map (Tile.keep q.stored) }
    let done := sent.advance
    let p := commitCells cyc l.1 r
    (p.1, passedJoins sent done ++ p.2.1, done :: p.2.2)

/-- A die's bank lock at the retirement of a bundle: handler bundles do not use up a lock of the stream (R156, R400; log
30). -/
def Die.lockStep (d : Die) (handler : Bool) (lock : Option (BitVec 16 × BitVec 4)) : Die :=
  match lock with
  | some (m, n) => { d with lockMask := m, lockLeft := n, lockOn := false, lockBy := handler }
  | none =>
    if d.lockLeft = 0 || (handler && !d.lockBy) then d
    else { d with lockLeft := d.lockLeft - 1, lockOn := decide (d.lockLeft ≠ 1) }

/-- In FIXED mode every die's CYC, and the control core's, is equal (R128). -/
def Ctx.evenCyc (y : Ctx) : Ctx :=
  if !y.fixed then y
  else
    let m := BitVec.ofNat 64 (maxOf (y.cyc.toNat :: y.dies.map fun d => d.cyc.toNat))
    { y with cyc := m, dies := y.dies.map fun d => { d with cyc := m } }

/-- The pipeline cycle in which a domain takes its next bundle: in FIXED mode the set's own, if it has taken none in that
(R128). -/
def nextCyc (fixed : Bool) (used : Nat) (cyc : Xword) : Nat :=
  if fixed && decide (used < cyc.toNat) then cyc.toNat else cyc.toNat + 1
/-- A die takes a bundle in its next cycle, and has then passed it. -/
def Die.pass (d : Die) (fixed : Bool) (bsn : Option Nat) : Die :=
  let n := nextCyc fixed d.used d.cyc
  { d with
    done := bsn.getD d.done, deq := max d.deq (bsn.getD 0), cyc := BitVec.ofNat 64 n, used := n, ahead := none }
/-- A die retires the bundle in hand, and gives what it contributes to its results (R109, R111). -/
def Ctx.commit (y : Ctx) (f : Focus) (w : Window) : Ctx :=
  match y.dies[w.die]? with
  | none => y
  | some d =>
    let d := d.pass y.fixed f.bsn
    let r := commitCells d.used y.joins w.post
    let d := { d with
      cells := r.2.2
      k := match f.kset with | some (k, v) => d.k.put k v | none => d.k }
    (r.2.1.foldl Ctx.arrive { y with joins := r.1, dies := y.dies.set w.die (d.lockStep f.handler f.lock) }).give f w

/-- The fault a die detects for a bundle: the lowest cell, then the first in slot order (R118). -/
def Window.first (w : Window) : Option (Nat × SlotName × CellFault) :=
  w.faults.foldl (fun best f =>
    match best with
    | none => some f
    | some b => if f.1 < b.1 ∨ (f.1 = b.1 ∧ f.2.1.code < b.2.1.code) then some f else best) none

/-- A die detects a precise fault: its bundle does not retire (R109, R118). -/
def Ctx.detect (y : Ctx) (bsn : Nat) (w : Window) : Ctx :=
  match w.first with
  | none => y
  | some (i, n, e) => y.onDie w.die fun d => { d with fault := some ⟨bsn, i, n, e⟩, ahead := none }

/-- The beam history keeps what is above D_min (R110). -/
def Ctx.trim (y : Ctx) : Ctx := let m := y.dmin; { y with hist := y.hist.filter fun e => decide (m < e.bsn) }

/-- The dies' part of a beam-carried bundle with a BSN: those that can execute it now retire it or detect their faults;
once every unmasked die has executed it its results are there (R109, R111, R118). -/
def Ctx.settle (y : Ctx) (f : Focus) (bsn : Nat) : Ctx :=
  let y := f.windows.foldl (fun y w => if w.faults = [] then y.commit f w else y.detect bsn w) y
  ((y.reduce f).evenCyc).trim

/-- A handler bundle: every die performs it at once; a fault is a double fault (R122, R258). -/
def State.settleHandler (s : State) (f : Focus) : State :=
  match f.windows.findSome? fun w => w.first.map fun e => (w.die, e) with
  | some (d, i, _, e) =>
    s.kill f.slot ⟨.doubleFault, some d, some ((s.slot f.slot).phys d).toNat, some (1600 * d + i), 0xFF, e.cause.code, 0, 0⟩
  | none => s.onCtx f.slot fun y => ((f.windows.foldl (fun y w => y.commit f w) y).reduce f).evenCyc

/-- What remains once every other part of the bundle has executed (R92, R95, R311-R313). -/
def State.afterwards (s : State) (f : Focus) : State :=
  match f.after with
  | .none => s
  | .step => s.onSlot f.slot fun x => { x with state := .stepping }
  | .yield => s.onSlot f.slot fun x => { x with save := some .yield }
  | .trap code => s.seqFault f.slot .softwareTrap SlotName.s.code code f.nextAddr
  | .eret => s.onCtx f.slot Ctx.eret
  | .halt v => { s.onSlot f.slot (fun x => { x with state := .ending, halt := some v, request := none }) with schedDue := true }

/-- A cell as the slots that its units have taken ahead leave it: what they send stays in the cell until the die retires
their bundle (R109). -/
def AheadCell.put (cyc : Nat) (q : AheadCell) (c : Cell) : AheadCell :=
  { q with cell := (c.leaving.foldl (fun (c : Cell) l => c.send cyc l)
      { c with leaving := [], contrib := none, stored := [], waited := none }).advance }
/-- Units of a die have taken the bundle in hand ahead of one that is held; a fault of theirs is detected (R107, R118). -/
def Ctx.closeAhead (y : Ctx) (f : Focus) : Ctx :=
  f.windows.foldl (fun y w =>
    let t := y.onDie w.die fun x => { x with ahead := x.ahead.map fun a =>
      { a with
        k := match f.kset with | some (k, v) => a.k.put k v | none => a.k
        cells := a.cells.zipWith (AheadCell.put x.cyc.toNat) w.post } }
    if w.faults = [] then t else y.detect (f.bsn.getD 0) w) y

/-- The bundle in hand is closed: an S part that waits or faults leaves it unexecuted (R287, R289); otherwise it takes its
BSN, its dies retire it, and fetch goes on (R106, R109, R278). The first vault command ends self-refresh (R94, R184). An S
instruction executed and a bundle retired are progress (R260). -/
def State.closeBundle (s : State) : State :=
  match s.focus with
  | none => s
  | some f =>
    let s := { s with focus := none, work := [] }
    if f.ahead then s.onCtx f.slot fun y => y.closeAhead f else
    match f.sres with
    | .wait => s
    | .fault cause det => s.seqFault f.slot cause SlotName.s.code det f.pc
    | .done =>
      let bound := f.issuing && f.bundle.ops.any fun o => isVault o.2
      let s : State := if bound && !(s.slot f.slot).vbound then
          (s.slot f.slot).pdies.foldl (fun s p => s.onPdie p fun q => q.selfStop s.time) s
        else s
      let s := s.onSlot f.slot fun x => { x with vbound := x.vbound || bound }
      let was := (s.slot f.slot).ctx.dies.map (·.done)
      let s :=
        if f.issuing then s.onCtx f.slot fun y =>
          let n := nextCyc y.fixed y.used y.cyc
          let y := { y with pc := f.nextAddr, cyc := BitVec.ofNat 64 n, used := n }.evenCyc
          match f.bsn with
          | none => y
          | some b => { y with bsn := b + 1, hist := y.hist ++ [⟨b, f.bundle, f.carried, f.kset, f.dred, f.tlrd⟩] }
        else s
      let s := match f.bsn with
        | some b => s.onCtx f.slot fun y => y.settle f b
        | none => if f.carriedDown then s.settleHandler f else s
      let s : State := s.onSlot f.slot fun x =>
        if (f.issuing && f.bundle.ops.any fun o => o.1 == .s) || (f.bsn.isNone && f.carriedDown) ||
            x.ctx.dies.map (·.done) != was then { x with progress := s.time } else x
      if (s.slot f.slot).state = .draining then s else s.afterwards f

/-! ### Issue (R107, R110, R276-R278) -/

/-- A beam-carried bundle or a sequencer bundle begins (R105, R110, R278). A handler bundle runs at every die at once, or
waits (R122). -/
def State.beginBundle (s : State) (c : BitVec 4) (b : Bundle) (nextAddr : Xword) : State :=
  let y := (s.slot c).ctx
  let k := y.carried
  if !isBeam b then s.take c b none k [] true false nextAddr none
  else if y.inHandler then
    let ws := s.windows c k.dieMask none b
    if ws.length = y.owing k.dieMask none then s.take c b none k ws true true nextAddr none else s
  else if !(s.slot c).mayIssue y.bsn then s
  else s.take c b (some y.bsn) k (s.windows c k.dieMask (some y.bsn) b) true true nextAddr none

/-- The rebroadcast moves on to its next bundle. -/
def Ctx.stepResend (y : Ctx) : Ctx :=
  match y.resume with
  | some r => { y with resume := some { r with next := r.next + 1 } }
  | none => { y with trbNext := y.trbNext + 1 }
/-- The rebroadcast sends its next bundle, or ends (R123, R411). A YBAR that goes down again is waited for again. -/
def State.resend (s : State) (c : BitVec 4) : State :=
  let y := (s.slot c).ctx
  let b := y.resendNext
  if y.resendHigh < b then
    let s := s.onCtx c fun y => { y with rebroadcast := false, resume := none }
    if y.stepDeferred then s.onSlot c fun x => { x with state := .stepping }
    else if y.haltTaken then
      { s.onSlot c (fun x => { x with state := .ending, request := none, ctx := { x.ctx with haltTaken := false } }) with
        schedDue := true }
    else s
  else if !(s.slot c).mayIssue b then s
  else
    let s := s.onCtx c Ctx.stepResend
    match y.hist.find? fun e => e.bsn == b with
    | none => s
    | some e =>
      let s := s.onCtx c fun y => { y.reawait e with ybar := if e.bundle.sync = some .ybar then some b else y.ybar }
      s.take c e.bundle (some b) e.carried (s.windows c e.carried.dieMask (some b) e.bundle) false true y.pc (some e)

/-- Whether a sequencer issues: it runs, it is not stopped by a freeze, a yield, a barrier or the stop wire, and no landing is due
first in its FIXED set (R92, R114, R119, R132, R135). -/
def State.issues (s : State) (c : BitVec 4) : Bool :=
  let x := s.slot c
  s.resetRun.isNone && x.state == .running && x.save.isNone && x.core.isSome && x.ctx.freeze.isNone && x.ctx.ybar.isNone &&
  !s.held c && !(x.ctx.fixed && x.ctx.dies.any Die.landDue)

/-- Whether a context issues a SPAWN next and nothing keeps it waiting: SPAWNs of one cycle are served in ascending order of
their slots, before the LAUNCHes that wait (R77). -/
def State.spawnReady (s : State) (c : BitVec 4) : Bool :=
  let y := (s.slot c).ctx
  s.issues c && (y.inHandler || !y.resending) && y.acc.isEmpty && y.lines.any fun l =>
    l.1 == lineOf y.pc && match l.2.drop (y.pc.toNat % 64 / 4) with
      | hdr :: rest => (match decodeBundle hdr rest with
        | .ok b => b.ops.any fun o => match o.2 with | .spawn _ a _ _ => !y.xWaits a && !s.relocating (y.getX a) | _ => false
        | .error _ => false)
      | [] => false
/-- Whether a bundle's SPAWN waits for that of a lower slot (R77). -/
def State.spawnWaits (s : State) (c : BitVec 4) (b : Bundle) : Bool :=
  (b.ops.any fun o => match o.2 with | .spawn _ _ _ _ => true | _ => false) &&
  allSlots.any fun d => decide (d.toNat < c.toNat) && s.spawnReady d

/-- BUNDLE_ISSUE: the next bundle of a context, from the lines it holds or from the beam history; its parts are then to
act (R106, R123, R266, R276-R278). -/
def execBundleIssue (c : BitVec 4) (s : State) : Out :=
  .next (
    let y := (s.slot c).ctx
    if !s.issues c then s
    else if y.resending && !y.inHandler then s.resend c
    else match y.lines.find? fun l => l.1 == lineOf y.pc with
      | none => s
      | some (a, ws) =>
        let off := y.pc.toNat % 64 / 4
        match ws.drop off with
        | [] => s
        | hdr :: rest =>
          if hdr = 0 then s.onCtx c fun y => { y with pc := a + 64 }
          else match decodeBundle hdr rest with
            | .error (r, slot) => s.seqFault c .illegalBundle slot (slot + r.number * 2 ^ 8) y.pc
            | .ok b => if s.spawnWaits c b then s else s.beginBundle c b (y.pc + BitVec.ofNat 64 (4 * b.words)))

/-! ### Dies that lag (R107, R109, R120) -/

/-- How far the dies of a context may retire: what has been sent, and under a freeze each die's stop (R120). -/
def State.mayRetire (s : State) (c : BitVec 4) (d : Nat) (b : Nat) : Bool :=
  let x := s.slot c
  (x.state == .running || x.state == .stepping || x.state == .saving || x.state == .ending) && x.core.isSome &&
  !x.ctx.inHandler && decide (b ≤ x.ctx.sent) && !s.held c &&
  match x.ctx.freeze, x.ctx.dies[d]? with
  | none, some _ => true
  | some z, some y => decide (b ≤ x.ctx.stopOf z y)
  | _, none => false

/-- The bundle that stands next at a die. -/
def Ctx.nextAt (y : Ctx) (d : Nat) : Option HistEntry :=
  (y.dies[d]?).bind fun x => y.hist.find? fun e => e.bsn == x.done + 1

/-- A masked die takes and retires a bundle, without effect (R115). -/
def Die.passMasked (x : Die) (fixed : Bool) (bsn : Nat) : Die := (x.lockStep false none).pass fixed (some bsn)

/-! ### Units that stand apart (R107) -/

/-- The unit that takes a slot: 0 V, 1 M, 2 C. -/
def unitOf : SlotName → Nat
  | .m => 1
  | .c0 | .c1 => 2
  | _ => 0
/-- Whether an instruction's slot reads or writes the scratchpad itself. -/
def usesPad : Instr → Bool
  | .vld _ _ _ _ _ | .vst _ _ _ _ _ | .vlds _ _ _ _ _ _ | .vsts _ _ _ _ _ _ | .vgath _ _ _ _ _ _ _ | .vscat _ _ _ _ _ _ _
  | .vscata _ _ _ _ _ _ _ | .bld _ _ _ | .bst _ _ _ | .tmma _ _ _ _ _ _ _ | .tmma64 _ _ _ _ _ | .taccld _ _ _ _ _
  | .taccst _ _ _ _ _ | .qtwin _ _ _ => true
  | _ => false
/-- Whether a unit can take a slot in a cell whose units stand apart: nothing that it waits for in the cell is held (R160,
R161, R203, R249). A vault command waits for its die to retire every bundle before (R387). -/
def AheadCell.slotReady (q : AheadCell) (b : Bundle) (o : SlotName × Instr) : Bool :=
  let c := q.cell
  let regs := reads o.2 ++ writes o.2
  !c.act || (
  tilesReady c o.2 && (o.1 != .m || c.mFree false) && (regs.all fun r => !q.owed.contains r) &&
  (c.hawk.all fun h => !regs.contains h.dest) && !(q.pad && usesPad o.2) &&
  (unitOf o.1 != 2 || (c.unfenced b.sync && !isVault o.2 && decide (c.hawk.length + (landRegs o.2).length ≤ 32) &&
    ((streamClass o.2).all fun k => decide ((c.outstanding k).length < 32)))))
/-- Whether the sync wait of a bundle holds a cell. -/
def Cell.waits (c : Cell) (e : HistEntry) : Bool :=
  (e.bundle.sync.filter isWait).any fun i => !(c.waitedFor (some e.bsn) || waitMet i c)
/-- The units of a cell that a bundle holds: those held already, one with a slot that is not ready; every unit, where the
cell waits or an activity instruction is held (R107, R116, R396). -/
def AheadCell.stops (q : AheadCell) (e : HistEntry) : List Nat :=
  let ops := e.bundle.ops.filter fun o => o.1 != .s
  let l := [0, 1, 2].filter fun u => ops.any fun o => unitOf o.1 == u && (q.held.any (fun h => h.1 == u) || !q.slotReady e.bundle o)
  if q.cell.waits e || q.held.length == 3 || ops.any fun o => isActivity o.2 && l.contains (unitOf o.1) then [0, 1, 2] else l
/-- The slots of a bundle that are held back in a cell. -/
def AheadCell.back (q : AheadCell) (e : HistEntry) : List (SlotName × Instr) :=
  e.bundle.ops.filter fun o => o.1 != .s && (q.stops e).contains (unitOf o.1)
/-- A cell is offered a bundle: what it holds back, its registers owe (R109). -/
def AheadCell.offer (q : AheadCell) (e : HistEntry) : AheadCell :=
  { q with
    held := q.held ++ ((q.stops e).filter fun u => !q.held.any fun h => h.1 == u).map fun u => (u, e.bsn)
    owed := q.owed ++ (q.back e).flatMap fun o => writes o.2
    pad := q.pad || (q.back e).any fun o => usesPad o.2 || (unitOf o.1 == 2 && bit e.carried.guard 0) }
/-- The cell as a bundle that it does not hold back finds it. -/
def AheadCell.enter (q : AheadCell) (e : HistEntry) : Cell :=
  match e.bundle.sync.filter isWait with
  | some i => if (q.stops e).length == 3 then q.cell else q.cell.passWait i (some e.bsn)
  | none => q.cell
/-- What a die's units have taken ahead: at first, nothing. -/
def Die.aheadNow (x : Die) : Ahead := x.ahead.getD ⟨x.done, x.k, x.cells.map fun c => ⟨c, [], [], false⟩⟩
/-- The units of a die that nothing holds take the next bundle, while one of them is held and the bundle before it has not
retired: they hold the effects until the die retires it, and raise its faults (R107, R109). They begin again from the
retired bundles when they can go no further. -/
def State.runAhead (s : State) (c : BitVec 4) (d : Nat) (x : Die) : State :=
  let y := (s.slot c).ctx
  let a := x.aheadNow
  let stop := s.onCtx c fun y => y.onDie d fun x => { x with ahead := none }
  match y.hist.find? fun e => e.bsn == a.bsn + 1 with
  | none => stop
  | some e =>
    if x.fault.isSome || y.freeze.isSome || decide (x.deq < e.bsn) || !s.dieRuns c d (some e.bsn) x then stop
    else if !bit e.carried.dieMask d then
      s.onCtx c fun y => y.onDie d fun x => { x with ahead := some { a with bsn := e.bsn } }
    else
      let cells := a.cells.map fun q => q.enter e
      let t := (s.onCtx c fun y => y.onDie d fun x =>
        { x with ahead := some { a with bsn := e.bsn, cells := a.cells.map fun q => q.offer e } }).take c e.bundle (some e.bsn)
          e.carried [⟨d, cells, cells, []⟩] false true y.pc (some e)
      { t with
        focus := t.focus.map fun f =>
          { f with ahead := true, hold := a.cells.map fun q => (q.back e).map Prod.fst, ks := f.ks.set d a.k }
        work := (e.bundle.ops.filter fun o => o.1 != .s) ++
          (e.bundle.sync.toList.filter fun i => match i with | .ypostf _ _ => true | _ => false).map fun i => (SlotName.y, i) }

/-- BUNDLE_RETIRE: a die that lags executes its next bundle, or passes one that it is masked for (R109, R115); where a unit
of a cell is held, those that are not go on ahead (R107). -/
def execBundleRetire (c : BitVec 4) (d : BitVec 6) (s : State) : Out :=
  let y := (s.slot c).ctx
  .next (match y.nextAt d.toNat with
    | none => s
    | some e =>
      if !s.mayRetire c d.toNat e.bsn then s
      else if !bit e.carried.dieMask d.toNat then
        guarded ((y.dies[d.toNat]?).any (s.dieRuns c d.toNat (some e.bsn)) && y.together (some e.bsn) e.bundle)
          (s.onSlot c fun x =>
            { x with progress := s.time, ctx := ((x.ctx.onDie d.toNat fun z => z.passMasked y.fixed e.bsn).evenCyc).trim }) s
      else
        let ws := (s.windows c e.carried.dieMask (some e.bsn) e.bundle).filter fun w =>
          w.die = d.toNat && w.pre.all fun q => !q.waits e
        if ws = [] then (match y.dies[d.toNat]? with | some x => s.runAhead c d.toNat x | none => s)
        else s.take c e.bundle (some e.bsn) e.carried ws false true y.pc (some e))

/-- Whether a die has reached a YBAR: it has retired every bundle below; a masked one, once the YBAR's bundle may have left
its decode queue (R114, R115). -/
def Ctx.atBarrier (y : Ctx) (b d : Nat) : Bool :=
  match y.dies[d]? with
  | none => true
  | some x => decide (b ≤ x.done + 1) || (decide (b ≤ x.deq) &&
      match y.hist.find? fun e => e.bsn == b with | some e => !bit e.carried.dieMask d | none => true)
/-- Whether every die has reached the YBAR that the sequencer waits for. -/
def Ctx.barred (y : Ctx) : Bool := y.ybar.any fun b => (List.range y.dies.length).all fun d => y.atBarrier b d
/-- BARRIER_RELEASE: every die has reached the YBAR (R114); what the dies had counted by then, the tree has brought with it
(R405). -/
def execBarrierRelease (c : BitVec 4) (s : State) : Out :=
  .next (guarded ((s.slot c).ctx.barred && !s.held c) (s.onCtx c fun y => { y with ybar := none, counted := [] }) s)

/-- SYNC_WAIT_COMPLETE: in cells of a die the wait of its next bundle is met, and stays so (R206, R396, R398). -/
def execSyncWaitComplete (c : BitVec 4) (d : BitVec 6) (s : State) : Out :=
  .next (match (s.slot c).ctx.nextWait d.toNat with
    | some (b, i) => guarded (!s.held c)
        (s.onCtx c fun y => y.onDie d.toNat fun x => { x with cells := x.cells.map fun q => q.endWait i b }) s
    | none => s)

/-! ### Faults and freezes (R118-R121) -/

/-- Whether a die's tree contributions move: they keep their values while a trip stops it or the set is held (R131, R132). -/
def State.treeRuns (s : State) (c : BitVec 4) (d : Nat) : Bool :=
  !s.held c && !(s.pdies.get ((s.slot c).phys d)).tripped
/-- TREE_RESULT (R113). -/
def execTreeResult (c : BitVec 4) (s : State) : Out := .next (guarded (!s.held c) (s.onCtx c Ctx.deliverTree) s)
/-- CELL_FAULT: a die raises its fault flag (R111, R118). -/
def execCellFault (c : BitVec 4) (d : BitVec 6) (s : State) : Out :=
  .next (guarded (s.treeRuns c d.toNat) (s.onCtx c fun y => y.onDie d.toNat fun x => { x with flag := x.fault.isSome }) s)

/-- Whether a flag that has reached the sequencer starts a freeze (R119, R313). -/
def State.freezeDue (s : State) (c : BitVec 4) : Bool :=
  let x := s.slot c
  (x.state == .running || x.state == .stepping || x.state == .ending) &&
  x.ctx.freeze.isNone && !x.ctx.inHandler && x.ctx.dies.any (·.flag) && !s.held c

/-- FREEZE: the sequencer stops; f, F and S are fixed (R118, R119). -/
def execFreeze (c : BitVec 4) (s : State) : Out :=
  .next (
    let y := (s.slot c).ctx
    if !s.freezeDue c then s
    else match y.firstFault with
      | none => s
      | some (d, f) =>
        s.startFreeze c ⟨false, some f.bsn, y.sent, y.pc, f.fault.cause, f.slot.code, some d, some f.cell, f.fault.lane,
          f.fault.detail⟩)

/-- Whether every die has reported its D_d (R120, R121). -/
def Ctx.drained (y : Ctx) : Bool :=
  match y.freeze with
  | none => false
  | some z => y.dies.all fun d => decide (y.stopOf z d ≤ d.done)

/-- The dies of a drained set: the later bundles are discarded, and the waits of theirs are to be met anew (R120, R396). -/
def Ctx.rewind (y : Ctx) : Ctx := { y with dies := y.dies.map fun d => { d.rewind with deq := d.done } }
/-- FREEZE_DRAIN_DONE: the record and the table are placed and the handler is entered, or the forced save begins (R121). -/
def execFreezeDrainDone (c : BitVec 4) (s : State) : Out :=
  .next (
    let x := s.slot c
    if !x.ctx.drained || s.held c then s
    else match x.ctx.freeze with
      | none => s
      | some z =>
        if z.forced then
          (if x.save.isNone then s.onSlot c fun x => { x with save := some .forced, ctx := x.ctx.cancelTree.rewind } else s)
        else s.trapEntry c z)

/-! ### Decode queues (R107, R110) -/

/-- Whether a die moves bundles out of its decode queue: its clock runs and a staggered start has reached it (R131, R138). -/
def State.queueMoves (s : State) (c : BitVec 4) (d : Nat) (y : Die) : Bool :=
  y.started && !y.frozen && !(s.pdies.get ((s.slot c).phys d)).tripped && !s.refreshHeld ((s.slot c).phys d)
/-- The dies of every set move what they can out of their decode queues (R107, R110). -/
def State.moveQueues (s : State) : State :=
  allSlots.foldl (fun s c =>
    let x := s.slot c
    if x.core.isNone || x.ctx.freeze.isSome || x.ctx.inHandler || s.held c then s
    else s.onCtx c fun y => { y with dies := y.dies.mapIdx fun d z => if s.queueMoves c d z then y.moveQueue z else z }) s

end Sys2Proof.Machine
end

