-- ==== Sys2Proof/Machine/Access.lean ====
section
/-!
DEFINITION. How an off-cell access is performed at its home (10 R191-R213): where an address leads (09 R168-R179), the
bank lock (08 R156), atomic operations (19 R383), walks in flight (09 R179), parks (13 R255), accesses to other devices
(02 R46).
-/
namespace Sys2Proof.Machine
open Sys2Proof

/-! ### Atomic operations (R383) -/

/-- The sum of two FP32 numbers at a home: under the FPCTL of the bundle, flags discarded (R210, R383). -/
def homeFadd (fp : Xword) (m d : Nat) : Nat := (fadd .fp32 (FpCtl.ofWord fp) (m % 2 ^ 32) (d % 2 ^ 32)).1

/-- The new value of a DATOM of `n` bits: `m` the old value, `d` the operand, `c` the comparand (R383). -/
def atomNew (op n m d c : Nat) (fp : Xword) : Nat :=
  let d := d % 2 ^ n
  let least := fun (lt : Bool) => if lt then m else d
  match op with
  | 0 | 11 => (m + d) % 2 ^ n
  | 1 => m &&& d
  | 2 => m ||| d
  | 3 => m ^^^ d
  | 4 => least (decide (sextN m n < sextN d n))
  | 5 => least (decide (m < d))
  | 6 => least (decide (sextN d n < sextN m n))
  | 7 => least (decide (d < m))
  | 8 | 12 => homeFadd fp m d
  | 9 => d
  | _ => if m = c % 2 ^ n then d else m

/-! ### Where an access leads -/

/-- The bank of a scratchpad byte (R150). -/
def bankAt (a : Nat) : Nat := a / 4 % 16
/-- Whether the bank lock of a die keeps an engine request of `n` bytes from its banks: it is in force from the first bundle
that it covers to the last, whatever happens between; a save, which no lock outlives, waits for no lock (R97, R156; log 30). -/
def State.barred (s : State) (c : BitVec 4) (d off n : Nat) : Bool :=
  let x := s.slot c
  x.state != .saving &&
  match x.ctx.dies[d]? with
  | none => false
  | some y => y.lockOn && (List.range n).any fun i => bit y.lockMask (bankAt (off + i))

/-- Why an access is not performed now. -/
inductive Bar where
  | stall (e : Stall)
  /-- A bank lock keeps it waiting. -/
  | lock
  deriving DecidableEq, Repr

/-- The home of an access of `n` bytes that a cell of die `d` makes (R168, R169, R171, R177, R191). -/
def State.homeOf (s : State) (c : BitVec 4) (d : Nat) (a : Xword) (n : Nat) (k : Access) : Except Stall Home :=
  if tagOf a = 2 then
    if sliceDev a ≠ s.devnum.toNat then .ok (.far (BitVec.ofNat 6 (sliceDev a)))
    else .ok (.pad (sliceDie a) (sliceCell a) (sliceOff a))
  else match s.resolve ((s.slot c).phys d) a n k with
    | .ok l => .ok (.mem l)
    | .error e => .error e
/-- Whether a bank lock keeps an access from its home. -/
def State.homeBarred (s : State) (c : BitVec 4) (h : Home) (n : Nat) : Bool :=
  match h with
  | .pad d _ off => s.barred c d off n
  | _ => false
/-- The home of an access that can be performed now. -/
def State.locate (s : State) (c : BitVec 4) (d : Nat) (a : Xword) (n : Nat) (k : Access) : Except Bar Home :=
  match s.homeOf c d a n k with
  | .error e => .error (.stall e)
  | .ok h => if s.homeBarred c h n then .error .lock else .ok h

/-- Whether a bundle that a die has still to execute may have begun its loads before a write (R155, R337). -/
def Ctx.races (y : Ctx) (d : Nat) : Bool := (y.dies[d]?).any fun x => decide (x.done < y.sent)
/-- A cell whose scratchpad something else than its pipeline writes: what it overwrites may still be read by loads of bundles
up to a BSN, if one is given (R159, R337). -/
def Cell.overwrite (q : Cell) (upTo : Option Nat) (off : Nat) (b : List Byte) : Cell :=
  { q with
    pad := q.pad.putBytes off b
    raced := match upTo with
      | some n => q.raced ++ b.mapIdx fun j _ => ⟨n, off + j, q.pad.get (off + j)⟩
      | none => q.raced }

/-- The bytes at a home on this device. -/
def State.readHome (s : State) (c : BitVec 4) (h : Home) (n : Nat) : List Byte :=
  match h with
  | .pad d i off => match (s.slot c).ctx.cell? d i with
    | some q => q.pad.bytes off n
    | none => List.replicate n 0
  | .far _ => []
  | .mem l => s.readParts l
/-- Bytes written at a home on this device: in ELASTIC mode a load under way may have read what they overwrite (R337). -/
def State.writeHome (s : State) (c : BitVec 4) (h : Home) (b : List Byte) : State :=
  match h with
  | .pad d i off => s.onCtx c fun y => y.onCell d i fun q =>
      q.overwrite (if !y.fixed && y.races d then some y.sent else none) off b
  | .far _ => s
  | .mem l => s.writeParts l b

/-! ### Commands of a context -/

/-- A command of a context's cell. -/
def State.cmd? (s : State) (c : BitVec 4) (d i : Nat) (tl : BitVec 2) (num : Nat) : Option Cmd :=
  ((s.slot c).ctx.cell? d i).bind fun q => q.cmd? tl num
/-- A command of a context's cell changed. -/
def State.onCmd (s : State) (c : BitVec 4) (d i : Nat) (tl : BitVec 2) (num : Nat) (f : Cmd → Cmd) : State :=
  s.onCtx c fun y => y.onCell d i fun q => q.onCmd tl num f
/-- A command's standing changed. -/
def State.setSt (s : State) (c : BitVec 4) (d i : Nat) (q : Cmd) (st : CmdSt) : State :=
  s.onCmd c d i q.tl q.num fun r => { r with st := st }
/-- A command completes. -/
def State.complete (s : State) (c : BitVec 4) (d i : Nat) (q : Cmd) : State :=
  s.onCtx c fun y => y.completeCmd d i q.tl q.num

/-- Every command of a context changed. -/
def Ctx.mapCmds (y : Ctx) (f : Nat → Cmd → Cmd) : Ctx :=
  { y with dies := (List.range y.dies.length).zipWith (fun d (x : Die) =>
      { x with cells := x.cells.map fun q => { q with cmds := q.cmds.map (f d) } }) y.dies }

/-- The requester of a command in a class 1 record (R254). -/
def CmdOp.requester : CmdOp → Nat
  | .copy _ _ _ _ _ => 0
  | .gather _ _ _ | .scatter _ _ _ _ | .indexed _ _ _ _ _ _ => 1
  | .vact _ _ | .vpre _ | .vrd _ _ _ _ _ | .vwr _ _ _ _ _ _ | .vref _ | .vlife _ _ _ => 3
  | _ => 2

/-! ### Walks (R179) -/

/-- A walk joins one of its page among some. -/
def joinWalk (w : Walk) (l : List Walk) : List Walk :=
  l.map fun v => if v.page = w.page then { v with merged := v.merged + w.merged + 1 } else v
/-- A walk's requests join the walk of its page in flight, or a free slot takes it, or it waits in arrival order (R179).
WALKSTAT counts each. -/
def State.addWalk (s : State) (p : BitVec 6) (w : Walk) : State :=
  let x := s.pdies.get p
  let t := s.transl
  if x.walks.any fun v => v.page == w.page then
    { s.onPdie p (fun x => { x with walks := joinWalk w x.walks }) with transl := { t with merges := t.merges + 1 } }
  else if x.walkQueue.any fun v => v.page == w.page then
    { s.onPdie p (fun x => { x with walkQueue := joinWalk w x.walkQueue }) with transl := { t with merges := t.merges + 1 } }
  else if x.walks.length < 384 then
    { s.onPdie p (fun x => { x with walks := x.walks ++ [w] }) with transl := { t with walks := t.walks + 1 } }
  else s.onPdie p fun x => { x with walkQueue := x.walkQueue ++ [w] }
/-- The part of a command that an access of an address belongs to: a page, or a handle, and the kind of access (R179). -/
def partKey (a : Xword) (k : Access) : Nat := (if tagOf a = 0 then vaOf a / 4096 else 2 ^ 60 + (handleOf a).toNat) * 4 + k.code
/-- Whether a part of a command walks or is parked. -/
def Cmd.stalled (q : Cmd) (key : Nat) : Bool := q.stalls.any fun p => p.1 == key
/-- A part of a command walks or is parked. -/
def State.addStall (s : State) (c : BitVec 4) (d i : Nat) (q : Cmd) (key : Nat) (st : CmdSt) : State :=
  s.onCmd c d i q.tl q.num fun r => { r with stalls := r.stalls ++ [(key, st)] }
/-- A part of a command walks (R179). -/
def State.walkFor (s : State) (c : BitVec 4) (d i : Nat) (q : Cmd) (a : Xword) (k : Access) (page : Nat) : State :=
  (s.addWalk ((s.slot c).phys d) ⟨page, 0, c, q.bsn.getD 0, a, k.code, q.cls.toNat⟩).addStall c d i q (partKey a k) (.walking page)

/-- A part of a command parks (R255). Without a free park ID it waits as it is. -/
def State.parkCmd (s : State) (c : BitVec 4) (d i : Nat) (q : Cmd) (cause : Cause) (a : Xword) (k : Access) (level : Nat) :
    State :=
  let pd := ((s.slot c).phys d).toNat
  let (id, s) := s.parkReq c cause (.command d i q.tl q.num)
    ⟨a, q.bsn.getD 0, q.op.requester, k.code, some pd, some d, some i, q.cls.toNat, 0, level⟩
  match id with
  | some id => s.addStall c d i q (partKey a k) (.parked id)
  | none => s

/-- What a command does when its access cannot be performed: the part waits, walks or parks, the others go on (R179). -/
def State.stallCmd (s : State) (c : BitVec 4) (d i : Nat) (q : Cmd) (a : Xword) (k : Access) : Bar → State
  | .lock => s
  | .stall .reloc => s
  | .stall (.walk page) => s.walkFor c d i q a k page
  | .stall (.fault cause level) => s.parkCmd c d i q cause a k level

/-- Where an access of a command leads now. If nowhere: what the command does, unless its part waits already (R179). -/
def State.reach (s : State) (c : BitVec 4) (d i : Nat) (q : Cmd) (a : Xword) (n : Nat) (k : Access) : Except (Option State) Home :=
  if q.stalled (partKey a k) then .error none
  else match s.locate c d a n k with
    | .ok h => .ok h
    | .error .lock | .error (.stall .reloc) => .error none
    | .error b => .error (some (s.stallCmd c d i q a k b))

/-! ### Accesses to other devices (R46) -/

/-- An access leaves for another device, or its context is dead for want of a route (R46, R254). `after`: the number of
the last earlier access of its stream to its destination that is not performed. -/
def State.sendFar (s : State) (c : BitVec 4) (d i : Nat) (q : Cmd) (dev : BitVec 6) (a : Xword) (kind size op data cmp : Nat)
    (fp : Xword) (flag : Option (BitVec 4)) (after : Option Nat) : State :=
  if !s.podValid ∨ (s.routes dev).isEmpty then
    s.kill c ⟨.podRoute, some d, some ((s.slot c).phys d).toNat, some (1600 * d + i), dev.toNat, 0, 0, a⟩
  else
    let acc : PodAccess :=
      { srcDev := s.devnum, srcSlot := c, srcLife := (s.slot c).life, srcDie := BitVec.ofNat 6 d, srcCell := BitVec.ofNat 11 i, tl := q.tl
        num := BitVec.ofNat 64 q.num, group := (s.slot c).desc.podgrp, cls := q.cls, seq := q.seq, stream := q.op.isStream
        addr := a, kind := BitVec.ofNat 2 kind, size := BitVec.ofNat 7 size, op := BitVec.ofNat 4 op
        data := BitVec.ofNat 512 data, cmp := BitVec.ofNat 64 cmp, fp := fp, flag := flag
        after := after.map (BitVec.ofNat 64) }
    (s.sendFlit dev s.devnum 0 (.access acc)).setSt c d i q .remote

/-! ### Landing data (R160) -/

/-- Data for the registers of a command enters the hawk. -/
def Cell.fillHawk (c : Cell) (tl : BitVec 2) (num : Nat) (f : CellReg → Vec) : Cell :=
  { c with hawk := c.hawk.map fun h => if h.tl = tl ∧ h.num = num then { h with data := some (f h.dest) } else h }

/-- A value spread over the registers of a landing from the first: 512 bits a vector register, 32 bits a b register. -/
def spread (first : Nat) (v : Nat) : CellReg → Vec
  | .v k => BitVec.ofNat 512 (v / 2 ^ (512 * (k - first)))
  | .b k => BitVec.ofNat 512 (v / 2 ^ (32 * (k - first)) % 2 ^ 32)
  | _ => 0

end Sys2Proof.Machine
end

