-- ==== Sys2Proof/Machine/Copy.lean ====
section
/-!
DEFINITION. Copies, shapes, gathers and scatters as they start in the cell (19 R378-R381).
-/
namespace Sys2Proof.Machine
open Sys2Proof

/-- The first of some checks that fails. -/
def firstOf (l : List (Option CellFault)) : Option CellFault := l.findSome? id

/-- DCOPY's checks, in the order address form, scratchpad range, misaligned (R378, R469). -/
def copyCheck (env : Env) (src dst : Shape) (tr : Nat) (ls ld : Bool) : Option CellFault :=
  let esz := src.esz = dst.esz ∧ (tr = 1 → src.esz = 0) ∧ (tr = 2 → src.esz = 1)
  let ext := if tr = 0 then src.e = dst.e
    else src.ext 0 = dst.ext 1 ∧ src.ext 1 = dst.ext 0 ∧ src.ext 2 = dst.ext 2 ∧ src.ext 3 = dst.ext 3
  firstOf [
    if esz ∧ ext then none else some (badAddr 0xFF src.base),
    if ls then localForm src else farForm env src,
    if ld then localForm dst else farForm env dst,
    if ls then localRange src else farRange env src,
    if ld then localRange dst else farRange env dst,
    sideAlign src, sideAlign dst]

/-- The scratchpad bytes a shape reaches from an offset, for the range guard (R158, R378). -/
def Shape.spanFrom (h : Shape) (off : Nat) : Nat × Nat := (((off : Int) + h.reachLo).toNat, ((off : Int) + h.reachHi).toNat)
/-- The scratchpad bytes a local shape reaches. -/
def Shape.span (h : Shape) : Nat × Nat := h.spanFrom h.base.toNat
/-- The bytes of the cell's own scratchpad that a copy writes: through a local side, or by the cell's own slice address
(R158). -/
def copyGuard (env : Env) (dst : Shape) (ld : Bool) : Option (Nat × Nat) :=
  if ld then some dst.span
  else if tagOf dst.base = 2 ∧ sliceDev dst.base = env.dev.toNat ∧ sliceDie dst.base = env.die ∧ sliceCell dst.base = env.cell then
    some (dst.spanFrom (sliceOff dst.base))
  else none

/-- DCOPY: l the class, d and sh the shapes, e and jo the join, o the options (R377, R378). -/
def execDcopy (l : BitVec 4) (d sh : BitVec 3) (e : BitVec 1) (jo : BitVec 6) (o : BitVec 4) (s : State) : Out :=
  onCells (command 0 l e jo fun env pre post =>
    let src := pre.h.get sh
    let dst := pre.h.get d
    let tr := o.toNat % 4
    match copyCheck env src dst tr (bit o 2) (bit o 3) with
    | some f => .error f
    | none => .ok (⟨.copy src dst tr (bit o 2) (bit o 3), 0, [], copyGuard env dst (bit o 3)⟩, post)) s

/-- The cell with a shape register replaced. -/
def Cell.setShape (c : Cell) (i : BitVec 3) (f : Shape → Shape) : Cell := { c with h := c.h.put i (f (c.h.get i)) }

/-- DSHAPE: field 0 BASE, 1-4 extents, 5-8 strides, 9 element size (R379). -/
def execDshape (d : BitVec 3) (k f : BitVec 4) (x : Option Word) (s : State) : Out :=
  onCells (ifActive fun _ pre post =>
    let v := wrapN 32 ((pre.getB k).toNat + offC x)
    if f = 0 then .ok (post.setShape d fun h => { h with base := addrC pre k (offC x) })
    else if f.toNat ≤ 4 then
      (if 1 ≤ v ∧ v ≤ 65536 then
        .ok (post.setShape d fun h => { h with e := h.e.put (BitVec.ofNat 2 (f.toNat - 1)) (BitVec.ofNat 16 (v - 1)) })
      else .error (badAddr 0xFF (BitVec.ofNat 64 v)))
    else if f.toNat ≤ 8 then
      .ok (post.setShape d fun h => { h with s := h.s.put (BitVec.ofNat 2 (f.toNat - 5)) (BitVec.ofNat 32 v) })
    else if v = 1 ∨ v = 2 ∨ v = 4 ∨ v = 8 then
      .ok (post.setShape d fun h => { h with esz := BitVec.ofNat 2 v.log2 })
    else .error (badAddr 0xFF (BitVec.ofNat 64 v))) s

/-! ### Register forms (R380) -/

/-- The register after the data registers, which holds the indices (R380). -/
def idxReg (d : BitVec 5) (w : BitVec 2) : BitVec 5 := d + (if w = 3 then 2 else 1)
/-- Index of element t (R380). -/
def elemIdx (c : Cell) (d : BitVec 5) (w : BitVec 2) (t : Nat) : Int := sextN (lane 32 (c.getV (idxReg d w)) t) 32
/-- The limit, zext(b(K+2), 32) (R380). -/
def elemLim (c : Cell) (b : BitVec 4) : Nat := (c.getB (b + 2)).toNat
/-- Whether element t is in range. -/
def elemIn (c : Cell) (d : BitVec 5) (b : BitVec 4) (w : BitVec 2) (t : Nat) : Bool :=
  decide (0 ≤ elemIdx c d w t ∧ elemIdx c d w t < elemLim c b)
/-- The address of element j (R380). -/
def elemAddr (base : Xword) (esz : Nat) (j : Int) : Xword := base + BitVec.ofInt 64 (j * 2 ^ esz)

/-- The check of element t of a register form (R380, R469): its index under .chk, the form and range of its address, the
alignment of the base, which every element breaks. -/
def regElemCheck (env : Env) (c : Cell) (base : Xword) (d : BitVec 5) (b : BitVec 4) (w : BitVec 2) (chk : Bool) (t : Nat) :
    Option CellFault :=
  let esz := w.toNat
  let j := elemIdx c d w t
  let isIn := elemIn c d b w t
  let a := elemAddr base esz j
  if chk && !isIn then some (laneFault .indexRange t [(0, wrapN 32 j), (4, elemLim c b)])
  else if !addrOk env base then some (badAddr t base)
  else (if isIn then accessCheck env t a (2 ^ esz) 1 else none).or
    (if base.toNat % min (2 ^ esz) 4 = 0 then none
     else some (laneFault .misaligned t [(0, if tagOf base = 2 then sliceOff base else base.toNat % 2 ^ 32)]))

/-- The number of the 16 elements that are out of range (R380). -/
def regOob (c : Cell) (d : BitVec 5) (b : BitVec 4) (w : BitVec 2) : Nat :=
  ((List.range 16).filter fun t => !elemIn c d b w t).length

/-- The value of element t: lane t of vD, lanes 8-15 of an 8-byte scatter in v(D+1) (R380). -/
def elemVal (c : Cell) (d : BitVec 5) (w : BitVec 2) (t : Nat) : Nat :=
  if w = 3 ∧ 8 ≤ t then lane 64 (c.getV (d + 1)) (t - 8) else lane (8 * 2 ^ w.toNat) (c.getV d) t

/-- DGATH, register form: c .chk, w ESZ, f OFF, n LAND (R380). -/
def execDgath (l : BitVec 4) (d : BitVec 5) (b : BitVec 4) (e : BitVec 1) (jo : BitVec 6) (c : BitVec 1) (w : BitVec 2)
    (f : BitVec 20) (n : BitVec 12) (s : State) : Out :=
  onCells (command 1 l e jo fun env pre post =>
    let base := addrC pre b f.toInt
    match firstFault (regElemCheck env pre base d b w (c == 1)) 16 with
    | some f => .error f
    | none =>
      let el := (List.range 16).map fun t =>
        if elemIn pre d b w t then some (elemAddr base w.toNat (elemIdx pre d w t)) else none
      .ok (⟨.gather el w.toNat d.toNat, n.toNat,
            .v d.toNat :: (if w = 3 then [.v (d.toNat + 1)] else []), none⟩,
        { post with cflags := post.cflags.addOob (regOob pre d b w) })) s

/-- The register-form scatters: `add` 0 store, 1 integer addition, 2 FP32 addition (R380, R381). -/
def scatterOp (l : BitVec 4) (d : BitVec 5) (b : BitVec 4) (e : BitVec 1) (jo : BitVec 6) (c : BitVec 1) (w : BitVec 2)
    (x : Option Word) (add : Nat) : CellFn :=
  command 1 l e jo fun env pre post =>
    let base := addrC pre b (offC x)
    match firstFault (regElemCheck env pre base d b w (c == 1)) 16 with
    | some f => .error f
    | none =>
      let el := ((List.range 16).filter (elemIn pre d b w)).map fun t =>
        (t, elemAddr base w.toNat (elemIdx pre d w t), elemVal pre d w t)
      .ok (Start.plain (.scatter el w.toNat add env.carried.fpctl),
        { post with cflags := post.cflags.addOob (regOob pre d b w) })

/-- DSCAT, register form (R381). -/
def execDscat (l : BitVec 4) (d : BitVec 5) (b : BitVec 4) (e : BitVec 1) (jo : BitVec 6) (c : BitVec 1) (w : BitVec 2)
    (x : Option Word) (s : State) : Out := onCells (scatterOp l d b e jo c w x 0) s
/-- DSCATA, register form; LAND bit 0 chooses FP32 (R377, R381). -/
def execDscata (l : BitVec 4) (d : BitVec 5) (b : BitVec 4) (e : BitVec 1) (jo : BitVec 6) (c : BitVec 1) (w : BitVec 2)
    (x : Option Word) (s : State) : Out := onCells (scatterOp l d b e jo c w x (1 + landC x % 2)) s

/-! ### Scratchpad forms (R380) -/

/-- The scratchpad forms' start: kind 0 gather, 1 store, 2 integer addition, 3 FP32 addition. -/
def indexedOp (l : BitVec 4) (d : BitVec 3) (b : BitVec 4) (e : BitVec 1) (jo : BitVec 6) (w : BitVec 2) (x : Option Word)
    (kind : Nat) : CellFn :=
  command 1 l e jo fun env pre post =>
    let base := addrC pre b (offC x)
    let h := pre.h.get d
    let list := (pre.getB (b + 3)).toNat
    let n := h.count
    match firstOf [
      if h.esz = w then none else some (badAddr 0xFF base),
      localForm h,
      if addrOk env base then none else some (badAddr 0xFF base),
      localRange h,
      if padSize < list + 4 * n then some (plainFault .padRange [(0, list)]) else none,
      sideAlign h,
      if list % 4 = 0 then none else some (plainFault .misaligned [(0, list)]),
      if base.toNat % min (2 ^ w.toNat) 4 = 0 then none
        else some (plainFault .misaligned [(0, base.toNat % 2 ^ 32)])] with
    | some f => .error f
    | none => .ok (⟨.indexed kind base (elemLim pre b) list h env.carried.fpctl, 0, [],
        if kind = 0 then some h.span else none⟩, post)

/-- DGATH.sp (R380). -/
def execDgathSp (l : BitVec 4) (d : BitVec 3) (b : BitVec 4) (e : BitVec 1) (jo : BitVec 6) (w : BitVec 2) (x : Option Word)
    (s : State) : Out := onCells (indexedOp l d b e jo w x 0) s
/-- DSCAT.sp (R381). -/
def execDscatSp (l : BitVec 4) (d : BitVec 3) (b : BitVec 4) (e : BitVec 1) (jo : BitVec 6) (w : BitVec 2) (x : Option Word)
    (s : State) : Out := onCells (indexedOp l d b e jo w x 1) s
/-- DSCATA.sp (R381). -/
def execDscataSp (l : BitVec 4) (d : BitVec 3) (b : BitVec 4) (e : BitVec 1) (jo : BitVec 6) (w : BitVec 2) (x : Option Word)
    (s : State) : Out := onCells (indexedOp l d b e jo w x (2 + landC x % 2)) s

end Sys2Proof.Machine
end

