-- ==== Sys2Proof/Machine/Engines.lean ====
section
/-!
DEFINITION. Stream accesses at their destinations (10 R197-R202), the copy and the gather and scatter engines (19
R378-R381, 10 R204), permutations (19 R385) and landings (08 R160-R162, 07 R135).
-/
namespace Sys2Proof.Machine
open Sys2Proof

/-- Whether the engines and buffers of a die's cells run: they go on during every stall, freeze and hold (R206); only an
ELASTIC die that a hard trip has stopped has no clock (R125, R131). What a reset waits for runs on (R25). -/
def State.engineRuns (s : State) (c : BitVec 4) (d : Nat) : Bool :=
  s.resetRun.isSome || (s.slot c).ctx.fixed || !(s.pdies.get ((s.slot c).phys d)).tripped

/-! ### Streams (R197-R201) -/

/-- The address, the size and the kind of a stream access. -/
def CmdOp.streamOf : CmdOp → Option (Xword × Nat × Access)
  | .store a b _ => some (a, b.length, .write)
  | .load a _ => some (a, 64, .read)
  | .atom a w _ _ _ _ _ => some (a, if w then 8 else 4, .atomic)
  | _ => none
/-- The destination of a stream access: the cell of a slice address, else the aligned 64-byte unit of the address word
(R196). -/
def streamDest (a : Xword) : Nat × Nat := if tagOf a = 2 then (1, bits a 61 39) else (0, a.toNat / 64)
/-- The earlier accesses of the stream to the same destination that are not yet performed (R198, R200). -/
def Cell.ahead (x : Cell) (q : Cmd) (a : Xword) : List Cmd :=
  x.cmds.filter fun r => r.cls == q.cls && decide (r.num < q.num) && !r.st.isPerformed &&
    match r.op.streamOf with
    | some (b, _, _) => streamDest b == streamDest a
    | none => false

/-- The number of the last of them. -/
def Cell.lastAhead (x : Cell) (q : Cmd) (a : Xword) : Option Nat :=
  ((x.ahead q a).map (·.num)).foldl (fun b n => match b with | none => some n | some m => some (max m n)) none

/-- The reorder buffer that an arrival waits in: that of a cell of the context, or that of the memory controller of its
home (R175, R199). -/
def bufferOf (c : BitVec 4) : Home → Option (Nat × Nat)
  | .pad d i _ => some (0, 102400 * c.toNat + 1600 * d + i)
  | .mem (r :: _) => some (if r.host then (1, 0) else (2, nbits r.pa 16 12 ^^^ nbits r.pa 21 17))
  | _ => none
/-- The arrivals that a reorder buffer holds (R199). -/
def State.heldIn (s : State) (b : Option (Nat × Nat)) : Nat :=
  ((allSlots.map fun c =>
    let y := (s.slot c).ctx
    ((List.range y.dies.length).map fun d => match y.dies[d]? with
      | none => 0
      | some x => ((x.cells.flatMap fun q => q.cmds).filter fun r => r.st == .held &&
          match r.op.streamOf with
          | some (a, n, k) => (match s.homeOf c d a n k with | .ok h => bufferOf c h == b | .error _ => false)
          | none => false).length).foldl (· + ·) 0).foldl (· + ·) 0) +
  (s.podWaiting.filter fun p => match s.groupSlot p.group with
    | some c => bufferOf c (.pad (sliceDie p.addr) (sliceCell p.addr) 0) == b
    | none => false).length

/-- A flag of a cell is incremented (R147, R200). -/
def State.bumpFlag (s : State) (c : BitVec 4) (d i : Nat) (k : Option (BitVec 4)) : State :=
  match k with
  | none => s
  | some k => s.onCtx c fun y => y.onCell d i fun q => { q with y := q.y.put k (q.y.get k + 1) }

/-- A stream access is performed at its home: the old bytes are what it returns (R200). -/
def State.performStream (s : State) (c : BitVec 4) (op : CmdOp) (h : Home) (n : Nat) : Nat × State :=
  let m := ofBytes (s.readHome c h n)
  let s := match op with
    | .store _ b _ => s.writeHome c h b
    | .atom _ _ o v cmp fp _ => s.writeHome c h (bytesOf n (atomNew o (8 * n) m v cmp fp))
    | _ => s
  let s := match h with | .pad d i _ => s.bumpFlag c d i op.flag | _ => s
  (m, s)

/-- The part of a stream access that lies in one page is performed: what it gives to the value returned. -/
def State.performPart (s : State) (c : BitVec 4) (op : CmdOp) (a : Xword) (p : Xword × Nat) (h : Home) : Nat × State :=
  let o := (p.1 - a).toNat
  (ofBytes (s.readHome c h p.2) * 256 ^ o,
   match op with | .store _ b _ => s.writeHome c h ((b.drop o).take p.2) | _ => s)
/-- A stream access that crosses a page: each part that translates is performed, each other walks or parks by itself
(R179). `done` has a bit for each part performed, `buf` what they return. -/
def State.arriveParts (s : State) (c : BitVec 4) (d i : Nat) (q : Cmd) (a : Xword) (n : Nat) (k : Access) : State :=
  let ps := (partsOf a n).mapIdx fun j p => (j, p)
  let r := ps.foldl (fun (r : State × Nat × Nat) (jp : Nat × Xword × Nat) =>
    if r.2.1.testBit jp.1 then r
    else match r.1.reach c d i q jp.2.1 jp.2.2 k with
      | .error none => r
      | .error (some t) => (t, r.2)
      | .ok h => let w := r.1.performPart c q.op a jp.2 h; (w.2, r.2.1 + 2 ^ jp.1, r.2.2 + w.1)) (s, q.done, q.buf.headD 0)
  if ps.all fun jp => r.2.1.testBit jp.1 then r.1.setSt c d i q (.performed r.2.2)
  else r.1.onCmd c d i q.tl q.num fun z => { z with done := r.2.1, buf := [r.2.2] }

/-- A stream access arrives: it commits in its stream's order, is held, or is refused (R199, R200). -/
def State.arriveStream (s : State) (c : BitVec 4) (d i : Nat) (x : Cell) (q : Cmd) : State :=
  match q.op.streamOf with
  | none => s
  | some (a, n, k) =>
    if (partsOf a n).length = 2 ∧ x.ahead q a = [] then s.arriveParts c d i q a n k
    else match s.reach c d i q a n k with
    | .error none => s
    | .error (some t) => t
    | .ok (.far dev) =>
      if (x.ahead q a).any (fun r => r.st == .sent) then s
      else match q.op with
        | .store _ b f => s.sendFar c d i q dev a 1 n 0 (ofBytes b) 0 0 f (x.lastAhead q a)
        | .atom _ _ o v cmp fp f => s.sendFar c d i q dev a 2 n o v cmp fp f (x.lastAhead q a)
        | _ => s.sendFar c d i q dev a 0 n 0 0 0 0 none (x.lastAhead q a)
    | .ok h =>
      if !(match h with | .pad e _ _ => s.engineRuns c e | _ => true) then s
      else if x.ahead q a ≠ [] then
        if q.st = .held then s
        else s.setSt c d i q (if 64 ≤ s.heldIn (bufferOf c h) then .refused else .held)
      else
        let (v, s) := s.performStream c q.op h n
        s.setSt c d i q (.performed v)

/-- STREAM_ARRIVAL (R200). -/
def execStreamArrival (c : BitVec 4) (d : BitVec 6) (i : BitVec 11) (num : Xword) (s : State) : Out :=
  .next (match (s.slot c).ctx.cell? d.toNat i.toNat with
    | none => s
    | some x => match x.cmd? 2 num.toNat with
      | none => s
      | some q => guarded (q.st == .sent || q.st == .held) (s.arriveStream c d.toNat i.toNat x q) s)

/-- STREAM_RESEND: a refused access is sent again (R199). -/
def execStreamResend (c : BitVec 4) (d : BitVec 6) (i : BitVec 11) (num : Xword) (s : State) : Out :=
  .next (s.onCmd c d.toNat i.toNat 2 num.toNat fun q => if q.st = .refused then { q with st := .sent } else q)

/-- What queues at the source of a stream leaves once nothing holds it (R201). -/
def Cell.releaseStream (x : Cell) (cls : BitVec 4) : Cell :=
  x.cmds.foldl (fun x q =>
    if q.op.isStream && q.cls == cls && q.st == .queued then
      let prior := (x.outstanding cls).filter fun r => decide (r.num < q.num)
      if prior.any (fun r => r.st == .queued) || (q.op.flag.isSome && !prior.isEmpty) then x
      else x.onCmd q.tl q.num fun r => { r with st := .sent }
    else x) x

/-- The number of the first register that a command lands in. -/
def Cell.landFirst (x : Cell) (tl : BitVec 2) (num : Nat) : Nat :=
  match x.hawk.find? fun h => h.tl == tl && h.num == num with
  | some h => (match h.dest with | .v k => k | .b k => k | _ => 0)
  | none => 0

/-- The acknowledgement of a stream access reaches its source (R198, R201, R204): data enters the hawk, the timeline
advances, and a .flag access that waited is sent. -/
def State.ackStream (s : State) (c : BitVec 4) (d i : Nat) (q : Cmd) (v : Nat) : State :=
  let s := s.onCtx c fun y => y.onCell d i fun x => x.fillHawk q.tl q.num (spread (x.landFirst q.tl q.num) v)
  (s.complete c d i q).onCtx c fun y => y.onCell d i fun x => x.releaseStream q.cls

/-- STREAM_ACK (R198, R201). -/
def execStreamAck (c : BitVec 4) (d : BitVec 6) (i : BitVec 11) (num : Xword) (s : State) : Out :=
  .next (match s.cmd? c d.toNat i.toNat 2 num.toNat with
    | none => s
    | some q => match q.op.isStream, q.st with
      | true, .performed v => guarded (s.engineRuns c d.toNat) (s.ackStream c d.toNat i.toNat q v) s
      | _, _ => s)

/-! ### What the engines read and write (R193, R195, R378-R381) -/

/-- What the open order of a command's parts is chosen by (log 31). -/
def orderSeed (c : BitVec 4) (d i : Nat) (q : Cmd) : Nat := (((q.num * 2 ^ 64 + q.cyc) * 16 + c.toNat) * 64 + d) * 2048 + i
/-- The aligned 4-byte word of an address. -/
def wordAt (a : Xword) : Nat := a.toNat / 4
/-- The accesses of at most a word that an element of `n` bytes takes. -/
def elemParts (a : Xword) (n : Nat) : List (Xword × Nat) :=
  (List.range (max 1 (n / 4))).map fun j => (a + BitVec.ofNat 64 (4 * j), min 4 n)
/-- The bytes of a word that some accesses take, as one access. -/
def spanOf (l : List (Xword × Nat)) (w : Nat) : Xword × Nat :=
  match l.filter fun p => wordAt p.1 == w with
  | [] => (BitVec.ofNat 64 (4 * w), 4)
  | p :: r =>
    let lo := r.foldl (fun m q => min m q.1.toNat) p.1.toNat
    let hi := r.foldl (fun m q => max m (q.1.toNat + q.2)) (p.1.toNat + p.2)
    (BitVec.ofNat 64 lo, hi - lo)
/-- A word that a command's engine has read. -/
def Cmd.word? (q : Cmd) (w : Nat) : Option Nat := (q.got.find? fun p => p.1 == w).map (·.2)
/-- A value of at most a word, among the words read. -/
def Cmd.piece (q : Cmd) (a : Xword) (n : Nat) : Nat := (q.word? (wordAt a)).getD 0 / 256 ^ (a.toNat % 4) % 256 ^ n
/-- The value of an element of `n` bytes, among the words read. -/
def Cmd.elem (q : Cmd) (a : Xword) (n : Nat) : Nat :=
  ofBytes ((elemParts a n).flatMap fun p => bytesOf p.2 (q.piece p.1 p.2))
/-- A command's engine has read the bytes of a word, from an address on. -/
def State.addWord (s : State) (c : BitVec 4) (d i : Nat) (q : Cmd) (a : Xword) (v : Nat) : State :=
  s.onCmd c d i q.tl q.num fun r => { r with st := .sent, got := r.got ++ [(wordAt a, v * 256 ^ (a.toNat % 4))] }
/-- An engine reads one of some words that it lacks, the first that it can: all the bytes of it that the command takes, at
once (R193, R195). `reads` are the command's accesses. -/
def State.readTry (s : State) (c : BitVec 4) (d i : Nat) (q : Cmd) (reads : List (Xword × Nat)) (ws : List Nat) : Option State :=
  (ws.eraseDups.filter fun w => (q.word? w).isNone).findSome? fun w =>
    let p := spanOf reads w
    match s.reach c d i q p.1 p.2 .read with
    | .error r => r
    | .ok (.far dev) =>
      some ((s.onCmd c d i q.tl q.num fun r => { r with asked := 2 * w }).sendFar c d i q dev p.1 0 p.2 0 0 0 0 none none)
    | .ok h => some (s.addWord c d i q p.1 (ofBytes (s.readHome c h p.2)))

/-- A piece of an engine's write: what stands for its value, and the address of its bytes, which lie in one aligned 4-byte
word. -/
abbrev Piece (α : Type) := α × Xword
/-- A piece put with those of its destination word, in order. -/
def addPiece {α : Type} (p : Piece α) : List (List (Piece α)) → List (List (Piece α))
  | [] => [[p]]
  | g :: r => if g.any fun q => wordAt q.2 == wordAt p.2 then (g ++ [p]) :: r else g :: addPiece p r
/-- The pieces of a command by destination word, each word's in ascending order of its tuples (R378). -/
def byWord {α : Type} (l : List (Piece α)) : List (List (Piece α)) := l.foldl (fun g p => addPiece p g) []
/-- The bytes that pieces of `n` bytes give one word, by their place: of several that reach a byte the last stands (R378). -/
def wordBytes (n : Nat) (l : List (Piece Nat)) : List (Option Byte) :=
  (List.range 4).map fun o => l.foldl (fun b p =>
    let a := p.2.toNat % 4
    if a ≤ o ∧ o < a + n then some (BitVec.ofNat 8 (p.1 / 256 ^ (o - a))) else b) none
/-- Bytes as runs, each from its place. -/
def runsFrom : Nat → List (Option Byte) → List (Nat × List Byte)
  | _, [] => []
  | a, none :: r => runsFrom (a + 1) r
  | a, some b :: r =>
    match runsFrom (a + 1) r with
    | (k, l) :: t => if k = a + 1 then (a, b :: l) :: t else (a, [b]) :: (k, l) :: t
    | [] => [(a, [b])]
/-- The writes that pieces of one word make: an address and its bytes each. -/
def pieceRuns (n : Nat) (l : List (Piece Nat)) : List (Xword × List Byte) :=
  let base := ((l.head?.map fun p => wordAt p.2 * 4).getD 0)
  (runsFrom 0 (wordBytes n l)).map fun r => (BitVec.ofNat 64 (base + r.1), r.2)

/-- Whether every run of a word's write leads somewhere; if not, what the command does (R171, R179). -/
def State.reachRuns (s : State) (c : BitVec 4) (d i : Nat) (q : Cmd) : List (Xword × List Byte) → Except (Option State) (List Home)
  | [] => .ok []
  | r :: l =>
    match s.reach c d i q r.1 r.2.length .write with
    | .error e => .error e
    | .ok h => match State.reachRuns s c d i q l with
      | .error e => .error e
      | .ok hs => .ok (h :: hs)
/-- The write of a word's runs as one access: its address, its length, its bytes, and a mask of those it writes. -/
def maskOfRuns (l : List (Xword × List Byte)) : Xword × Nat × Nat × Nat :=
  let lo := (l.head?.map fun r => r.1.toNat).getD 0
  let hi := l.foldl (fun m r => max m (r.1.toNat + r.2.length)) lo
  (BitVec.ofNat 64 lo, hi - lo,
   (l.map fun r => ofBytes r.2 * 256 ^ (r.1.toNat - lo)).foldl (· + ·) 0,
   (l.map fun r => (2 ^ r.2.length - 1) * 2 ^ (r.1.toNat - lo)).foldl (· + ·) 0)
/-- Part `k` of a command has been performed; with the last of `count` it completes. -/
def State.donePart (s : State) (c : BitVec 4) (d i : Nat) (q : Cmd) (k : Nat) : State :=
  s.onCmd c d i q.tl q.num fun r => { r with st := .sent, done := r.done + 2 ^ k }
/-- An engine writes word `k` of its command at once, here or on another device, if it can (R171, R193). -/
def State.writeTry (s : State) (c : BitVec 4) (d i : Nat) (q : Cmd) (k : Nat) (runs : List (Xword × List Byte)) : Option State :=
  match s.reachRuns c d i q runs with
  | .error r => r
  | .ok (.far dev :: _) =>
    let (a, n, v, mask) := maskOfRuns runs
    some ((s.onCmd c d i q.tl q.num fun r => { r with asked := 2 * k + 1 }).sendFar c d i q dev a
      (if runs.length = 1 then 1 else 3) n 0 v mask 0 none none)
  | .ok hs => some (((hs.zip runs).foldl (fun s p => s.writeHome c p.1 p.2.2) s).donePart c d i q k)
/-- The parts of a command that are not performed, in the order that is left open (R378; log 31). -/
def Cmd.left (q : Cmd) (c : BitVec 4) (d i n : Nat) : List Nat :=
  ((List.range n).map (openTurn (orderSeed c d i q) n)).filter fun k => !q.done.testBit k
/-- Another device has answered an engine: a word it gives, or one it has written (R46). -/
def State.engineReply (s : State) (c : BitVec 4) (d i : Nat) (q : Cmd) (reads : List (Xword × Nat)) (v : Nat) : State :=
  if q.asked % 2 = 0 then s.addWord c d i q (spanOf reads (q.asked / 2)).1 v else s.donePart c d i q (q.asked / 2)

/-- The out-of-range count of a scratchpad form is added at its completion (R380). -/
def State.addOob (s : State) (c : BitVec 4) (d i k : Nat) : State :=
  s.onCtx c fun y => y.onCell d i fun x => { x with cflags := x.cflags.addOob k }

/-! ### DCOPY (R378) -/

/-- The address of an element of a side: a local side is the cell's own scratchpad. -/
def sideAddr (dev : BitVec 6) (d i : Nat) (isLocal : Bool) (h : Shape) (t : Nat × Nat × Nat × Nat) : Xword :=
  let a := h.base + BitVec.ofInt 64 (h.disp t)
  if isLocal then sliceAddr dev.toNat d i a.toNat else a
/-- The source tuple of a destination tuple (R378). -/
def sourceTuple (tr : Nat) (t : Nat × Nat × Nat × Nat) : Nat × Nat × Nat × Nat :=
  if tr = 0 then t else (t.2.1, t.1, t.2.2.1, t.2.2.2)
/-- The pieces of a copy: the address each is read from, and the one it is written to (R378). -/
def copyPieces (dev : BitVec 6) (d i : Nat) (src dst : Shape) (tr : Nat) (ls ld : Bool) : List (Piece Xword) :=
  (List.range dst.count).flatMap fun k =>
    let t := dst.tuple k
    (List.range (max 1 (2 ^ dst.esz.toNat / 4))).map fun j =>
      (sideAddr dev d i ls src (sourceTuple tr t) + BitVec.ofNat 64 (4 * j), sideAddr dev d i ld dst t + BitVec.ofNat 64 (4 * j))
/-- The bytes of a piece: 2^ESZ, at most a word. -/
def pieceBytes (h : Shape) : Nat := min 4 (2 ^ h.esz.toNat)
/-- What a copy reads. -/
def copyReads (ps : List (Piece Xword)) (n : Nat) : List (Xword × Nat) := ps.map fun p => (p.1, n)
/-- A copy's next act for one destination word: it reads a word that this takes, or writes it (R193, R195, R378). -/
def State.copyTry (s : State) (c : BitVec 4) (d i : Nat) (q : Cmd) (ps : List (Piece Xword)) (n k : Nat) (g : List (Piece Xword)) :
    Option State :=
  let ws := g.map fun p => wordAt p.1
  if ws.all fun w => (q.word? w).isSome then s.writeTry c d i q k (pieceRuns n (g.map fun p => (q.piece p.1 n, p.2)))
  else s.readTry c d i q (copyReads ps n) ws
/-- The copy engine's next act, for the first destination word that lets it go on; with none left the copy completes (R179,
R378; log 31). -/
def State.copyStep (s : State) (c : BitVec 4) (d i : Nat) (q : Cmd) (src dst : Shape) (tr : Nat) (ls ld : Bool) : State :=
  let ps := copyPieces s.devnum d i src dst tr ls ld
  let gs := byWord ps
  match q.left c d i gs.length with
  | [] => s.complete c d i q
  | l => (l.findSome? fun k => s.copyTry c d i q ps (pieceBytes dst) k ((gs[k]?).getD [])).getD s

/-! ### Gathers and scatters (R380, R381) -/

/-- The pieces that elements of `n` bytes give, an address and a value each, by word: of several that reach a byte the last
stands (R381). -/
def elemWords (n : Nat) (l : List (Xword × Nat)) : List (List (Piece Nat)) :=
  byWord (l.flatMap fun e => (List.range (max 1 (n / 4))).map fun j => (e.2 / 2 ^ (32 * j), e.1 + BitVec.ofNat 64 (4 * j)))
/-- The writes of word number `k` of them. -/
def wordRuns (n : Nat) (gs : List (List (Piece Nat))) (k : Nat) : List (Xword × List Byte) :=
  pieceRuns (min 4 n) ((gs[k]?).getD [])
/-- The words of some elements are written, in any order; the first that can go on does (R179, R381; log 31). -/
def State.writeWords (s : State) (c : BitVec 4) (d i : Nat) (q : Cmd) (n : Nat) (gs : List (List (Piece Nat))) (fin : State) : State :=
  match q.left c d i gs.length with
  | [] => fin
  | l => (l.findSome? fun k => s.writeTry c d i q k (wordRuns n gs k)).getD s

/-- What a gather into registers reads. -/
def gatherReads (elems : List (Option Xword)) (esz : Nat) : List (Xword × Nat) :=
  elems.flatMap fun e => match e with | some a => elemParts a (2 ^ esz) | none => []
/-- The gather engine's next act: it reads a word that it lacks; with all of them its data enters the hawk (R195, R204,
R380). A repeated address takes the value already read. -/
def State.gatherStep (s : State) (c : BitVec 4) (d i : Nat) (q : Cmd) (elems : List (Option Xword)) (esz dest : Nat) : State :=
  let reads := gatherReads elems esz
  let ws := reads.map fun p => wordAt p.1
  if ws.all fun w => (q.word? w).isSome then
    let v := packLanes (8 * 2 ^ esz) (elems.map fun e => match e with | some a => q.elem a (2 ^ esz) | none => 0)
    (s.onCtx c fun y => y.onCell d i fun x => x.fillHawk q.tl q.num (spread dest v)).complete c d i q
  else (s.readTry c d i q reads ws).getD s

/-- An addition goes to the element's home and is held there, if every part of it leads somewhere (R179, R381). -/
def State.holdTry (s : State) (c : BitVec 4) (d i : Nat) (q : Cmd) (t : Nat) (a : Xword) (esz v : Nat) (fp : Bool) (ctl : Xword) :
    Option State :=
  match (partsOf a (2 ^ esz)).findSome? fun p => match s.reach c d i q p.1 p.2 .atomic with
    | .error (some u) => some u
    | _ => none with
  | some u => some u
  | none => match s.homeOf c d a (2 ^ esz) .atomic with
    | .error _ => none
    | .ok h =>
      some ((s.onCtx c fun y => { y with adds := y.adds ++ [⟨q.bsn, 1600 * d + i, q.num, t, a, h, esz, fp, v, ctl⟩] }).donePart c d i q t)
/-- The count of elements out of range that a command adds at its completion (R380). -/
def Cmd.oob (q : Cmd) : Nat := match q.op with | .indexed _ _ _ _ _ _ => q.buf.count 0 | _ => 0
/-- An indexed command completes (R380). -/
def State.endIndexed (s : State) (c : BitVec 4) (d i : Nat) (q : Cmd) : State := (s.addOob c d i q.oob).complete c d i q
/-- Whether additions of a command are still held at their homes. -/
def Ctx.hasAdds (y : Ctx) (d i : Nat) (q : Cmd) : Bool := y.adds.any fun h => h.cell == 1600 * d + i && h.num == q.num
/-- A command of additions has sent all of them: it waits for them to be applied (R381). -/
def State.holdEnd (s : State) (c : BitVec 4) (d i : Nat) (q : Cmd) : State :=
  if (s.slot c).ctx.hasAdds d i q then s.setSt c d i q .holding else s.endIndexed c d i q
/-- The additions of a command go to their homes, each by itself (R179, R381): `elems` are t, the address and the value. -/
def State.holdAll (s : State) (c : BitVec 4) (d i : Nat) (q : Cmd) (elems : List (Nat × Xword × Nat)) (esz : Nat) (fp : Bool) (ctl : Xword) :
    State :=
  match elems.filter fun e => !q.done.testBit e.1 with
  | [] => s.holdEnd c d i q
  | l => (l.findSome? fun e => s.holdTry c d i q e.1 e.2.1 esz e.2.2 fp ctl).getD s

/-- The words that a register-form DSCAT writes (R381). -/
def scatterWords (elems : List (Nat × Xword × Nat)) (esz : Nat) : List (List (Piece Nat)) :=
  elemWords (2 ^ esz) (elems.map (·.2))
/-- The scatter engine's next act (R381): a word of a DSCAT, an element of a DSCATA. -/
def State.scatterStep (s : State) (c : BitVec 4) (d i : Nat) (q : Cmd) (elems : List (Nat × Xword × Nat)) (esz add : Nat)
    (fp : Xword) : State :=
  if add = 0 then s.writeWords c d i q (2 ^ esz) (scatterWords elems esz) (s.endIndexed c d i q)
  else s.holdAll c d i q elems esz (add == 2) fp

/-- The address of element `j` of a scratchpad form, unless it is out of range: beyond the limit, or an address word that
breaks R167 or passes the end of the scratchpad it names (R380). -/
def State.indexAddr (s : State) (c : BitVec 4) (base : Xword) (lim : Nat) (esz : Nat) (j : Int) : Option Xword :=
  let a := elemAddr base esz j
  if j < 0 ∨ (lim : Int) ≤ j then none
  else if mbzOk a && tagOf a != 3 && (tagOf a != 2 || (decide (sliceCell a < 1600) &&
      (sliceDev a != s.devnum.toNat || (decide (sliceDie a < (s.slot c).n) && decide (sliceOff a + 2 ^ esz ≤ padSize))))) then
    some a
  else none

/-- Where element `k` of a local shape lies, as an address of the cell's own scratchpad (R146). -/
def Shape.own (h : Shape) (dev : BitVec 6) (d i k : Nat) : Xword := sideAddr dev d i true h (h.tuple k)
/-- The elements in range of a scratchpad form that has read its indices: t, and the address of each. -/
def takenElems (buf : List Nat) : List (Nat × Xword) :=
  (List.range buf.length).filterMap fun t => match buf[t]? with
    | some (a + 1) => some (t, BitVec.ofNat 64 a)
    | _ => none
/-- What a scratchpad form reads besides its indices: a gather the elements, the others their data (R380). -/
def indexReads (dev : BitVec 6) (d i : Nat) (kind : Nat) (h : Shape) (buf : List Nat) : List (Xword × Nat) :=
  (takenElems buf).flatMap fun e => elemParts (if kind = 0 then e.2 else h.own dev d i e.1) (2 ^ h.esz.toNat)
/-- The words that a scratchpad-form gather writes, zero for an element out of range (R380). -/
def gatherWords (dev : BitVec 6) (d i : Nat) (h : Shape) (q : Cmd) : List (List (Piece Nat)) :=
  elemWords (2 ^ h.esz.toNat) ((List.range h.count).map fun k =>
    (h.own dev d i k, match q.buf[k]? with | some (a + 1) => q.elem (BitVec.ofNat 64 a) (2 ^ h.esz.toNat) | _ => 0))
/-- The elements of a scratchpad-form DSCAT or DSCATA: t, the address and the value. -/
def indexElems (dev : BitVec 6) (d i : Nat) (h : Shape) (q : Cmd) : List (Nat × Xword × Nat) :=
  (takenElems q.buf).map fun e => (e.1, e.2, q.elem (h.own dev d i e.1) (2 ^ h.esz.toNat))

/-- The next act of a scratchpad form (R380, R381): it reads its next index; with all of them a word that it takes; with all
of these it writes, or its additions go to their homes. `buf` holds the address plus 1 of each element whose index has been
read, 0 out of range. -/
def State.indexStep (s : State) (c : BitVec 4) (d i : Nat) (x : Cell) (q : Cmd) (kind : Nat) (base : Xword)
    (lim list : Nat) (h : Shape) (fp : Xword) : State :=
  let n := 2 ^ h.esz.toNat
  if q.buf.length < h.count then
    let o := list + 4 * q.buf.length
    if s.barred c d o 4 then s
    else
      let a := s.indexAddr c base lim h.esz.toNat (sextN (x.pad.read o 4) 32)
      s.onCmd c d i q.tl q.num fun r => { r with buf := r.buf ++ [match a with | some a => a.toNat + 1 | none => 0] }
  else
    let reads := indexReads s.devnum d i kind h q.buf
    let ws := reads.map fun p => wordAt p.1
    if !ws.all fun w => (q.word? w).isSome then (s.readTry c d i q reads ws).getD s
    else if kind = 0 then s.writeWords c d i q n (gatherWords s.devnum d i h q) (s.endIndexed c d i q)
    else
      let elems := indexElems s.devnum d i h q
      if kind = 1 then s.writeWords c d i q n (scatterWords elems h.esz.toNat) (s.endIndexed c d i q)
      else s.holdAll c d i q elems h.esz.toNat (kind == 3) fp

/-! ### DSCATA's order (R381) -/

/-- Whether a command is a DSCATA of a bundle; 0 stands for a handler bundle. -/
def Cmd.isAdd (q : Cmd) (bsn : Nat) : Bool :=
  q.bsn.getD 0 == bsn &&
  match q.op with
  | .scatter _ _ add _ => add != 0
  | .indexed kind _ _ _ _ _ => decide (2 ≤ kind)
  | _ => false
/-- Ascending order of (L, t), then of the command (R381). -/
def HeldAdd.before (a b : HeldAdd) : Bool :=
  decide (a.cell < b.cell ∨ (a.cell = b.cell ∧ (a.t < b.t ∨ (a.t = b.t ∧ a.num ≤ b.num))))
/-- An addition put in its place. -/
def insertAdd (a : HeldAdd) : List HeldAdd → List HeldAdd
  | [] => [a]
  | b :: r => if a.before b then a :: b :: r else b :: insertAdd a r

/-- Whether the additions of a bundle may be applied: every die has retired it, every one has come to its home, no bank
lock stands before one (R156, R381). -/
def State.addsReady (s : State) (c : BitVec 4) (bsn : Nat) : Bool :=
  let y := (s.slot c).ctx
  decide (bsn ≤ y.dmin) &&
  y.dies.all (fun d => d.cells.all fun x => x.cmds.all fun q => !q.isAdd bsn || q.st == .holding || q.st == .complete) &&
  y.adds.all fun a => a.bsn.getD 0 != bsn || !s.homeBarred c a.home (2 ^ a.esz)

/-- Whether an addition's home is another device. -/
def HeldAdd.away (a : HeldAdd) : Bool := match a.home with | .far _ => true | _ => false
/-- One addition is applied at its home here (R381). -/
def State.applyAdd (s : State) (c : BitVec 4) (a : HeldAdd) : State :=
  let n := 2 ^ a.esz
  let m := ofBytes (s.readHome c a.home n)
  s.writeHome c a.home (bytesOf n (if a.fp then homeFadd a.fpctl m a.value else m + a.value))
/-- An addition leaves for its home on another device, which applies it as it comes: the next follows it once it has been
applied (R381). -/
def State.sendAdd (s : State) (c : BitVec 4) (a : HeldAdd) : State :=
  match a.home, s.cmd? c (a.cell / 1600) (a.cell % 1600) 1 a.num with
  | .far dev, some q =>
    (s.onCtx c fun y => { y with adds := y.adds.erase a }).sendFar c (a.cell / 1600) (a.cell % 1600) q dev a.addr 2 (2 ^ a.esz)
      (if a.fp then 8 else 0) a.value 0 a.fpctl none none
  | _, _ => s

/-- The commands of a bundle with no addition left complete (R380, R381). -/
def State.endAdds (s : State) (c : BitVec 4) (bsn : Nat) : State :=
  let y := (s.slot c).ctx
  (List.range y.dies.length).foldl (fun s d =>
    match y.dies[d]? with
    | none => s
    | some x => (List.range x.cells.length).foldl (fun s i =>
        match x.cells[i]? with
        | none => s
        | some z => z.cmds.foldl (fun s q =>
            if q.isAdd bsn && q.st == .holding && !y.hasAdds d i q then s.endIndexed c d i q else s) s) s) s

/-- DSCATA_APPLY: the additions of a bundle whose homes are here are applied in their order; then those for other devices
leave in it, one after another (R381). -/
def execDscataApply (c : BitVec 4) (bsn : Xword) (s : State) : Out :=
  let b := bsn.toNat
  let mine := ((s.slot c).ctx.adds.filter fun a => a.bsn.getD 0 == b).foldl (fun l a => insertAdd a l) []
  .next (guarded (mine ≠ [] && s.addsReady c b)
    (match mine.filter fun a => !a.away with
     | [] => (match mine with | a :: _ => s.sendAdd c a | [] => s)
     | near =>
       let t := s.onCtx c fun y => { y with adds := y.adds.filter fun a => a.bsn.getD 0 != b || a.away }
       (near.foldl (fun t a => t.applyAdd c a) t).endAdds c b) s)

/-! ### DPERM (R385) -/

/-- Whether a command is a DPERM of a bundle. -/
def Cmd.isPerm (q : Cmd) (bsn : Option Nat) : Bool :=
  q.bsn == bsn && match q.op with | .perm _ _ => true | _ => false
/-- The commands of a context that satisfy a test, in ascending order of L, each with its die and cell. -/
def Ctx.cmdsWhere (y : Ctx) (p : Cmd → Bool) : List (Nat × Nat × Cmd) :=
  (List.range y.dies.length).flatMap fun d => match y.dies[d]? with
    | none => []
    | some x => (List.range x.cells.length).flatMap fun i => match x.cells[i]? with
      | none => []
      | some z => (z.cmds.filter p).map fun q => (d, i, q)

/-- Whether a cell of a higher L has already written a word with its own part of the same DPERM (R385). -/
def State.permBeaten (s : State) (c : BitVec 4) (d i : Nat) (q : Cmd) (a : Nat) : Bool :=
  ((s.slot c).ctx.cmdsWhere fun r => r.isPerm q.bsn && r.st.isPerformed).any fun p =>
    decide (1600 * d + i < 1600 * p.1 + p.2.1) && match p.2.2.op with
      | .perm b _ => decide (b.toNat ≤ a ∧ a < b.toNat + 64)
      | _ => false
/-- A word of a DPERM is written: in both clock modes an access before its completion reads old or new words (R385). -/
def State.writePerm (s : State) (c : BitVec 4) (a : Nat × Nat × Nat) (b : List Byte) : State :=
  s.onCtx c fun y => y.onCell a.1 a.2.1 fun q => q.overwrite (if y.races a.1 then some y.sent else none) a.2.2 b
/-- The writes of one DPERM command are performed, but for words that a source of higher L has written: that one stands
(R385). -/
def State.performPerm (s : State) (c : BitVec 4) (d i : Nat) (q : Cmd) : State :=
  match q.op with
  | .perm a b =>
    ((List.range 16).foldl (fun t k =>
      if s.permBeaten c d i q (a.toNat + 4 * k) then t
      else t.writePerm c (sliceDie a, sliceCell a, sliceOff a + 4 * k) ((b.drop (4 * k)).take 4)) s).setSt c d i q
      (.performed 0)
  | _ => s
/-- In FIXED mode what an access reads after a DPERM has completed is what it wrote (R385). -/
def Ctx.permSeen (y : Ctx) : Ctx :=
  if y.fixed then { y with dies := y.dies.map fun d => { d with cells := d.cells.map fun q => { q with raced := [] } } } else y
/-- A DPERM completes in every cell once every write that any cell sent with it has been performed: every die has executed
it, and no write is left (R385). -/
def State.endPerm (s : State) (c : BitVec 4) (bsn : Option Nat) : State :=
  let y := (s.slot c).ctx
  let l := y.cmdsWhere fun q => q.isPerm bsn && q.st != .complete
  if (match bsn with | some b => decide (b ≤ y.dmin) | none => true) && l.all fun p => p.2.2.st.isPerformed then
    (l.foldl (fun s p => s.complete c p.1 p.2.1 p.2.2) s).onCtx c Ctx.permSeen
  else s
/-- Late DPERMs: the set is held until the writes left are performed, engine grants going on while it is held; the held
cycles, at least one, count in LATECYC (R135, R385). -/
def State.permRelease (s : State) (c : BitVec 4) (held : Xword) : State :=
  let l := (s.slot c).ctx.cmdsWhere fun q => !q.st.isPerformed && match q.op with | .perm _ _ => true | _ => false
  (l.foldl (fun t p => (t.performPerm c p.1 p.2.1 p.2.2).endPerm c p.2.2.bsn) s).onCtx c fun y =>
    { y with dies := y.dies.map fun d => { d with late := d.late + BitVec.ofNat 64 (max 1 held.toNat) } }
/-- DPERM_DEADLINE: in FIXED mode a DPERM has writes left 128 cycles after its start (R385). -/
def execDpermDeadline (c : BitVec 4) (held : Xword) (s : State) : Out :=
  .next (guarded (s.slot c).ctx.permLate (s.permRelease c held) s)
/-- A DPERM's write, unless a bank lock keeps it out; then its completion, if it is due (R156, R385). A late one is performed
with all that are left. -/
def State.permStep (s : State) (c : BitVec 4) (d i : Nat) (q : Cmd) (a : Xword) : State :=
  if q.st.isPerformed then s.endPerm c q.bsn
  else if (s.slot c).ctx.permLate then s.permRelease c (Config.free s.fresh)
  else if s.barred c (sliceDie a) (sliceOff a) 64 then s
  else (s.performPerm c d i q).endPerm c q.bsn

/-! ### The engines' event (R204) -/

/-- ENGINE_COMMAND_COMPLETE: the engine of a command performs what comes next of it; with the last of its accesses the
command completes, its timeline advances and its join arrival is delivered (R204). A vault command without bursts that
has started completes while the vault clock runs (R388, R470). -/
def execEngineCommandComplete (c : BitVec 4) (d : BitVec 6) (i : BitVec 11) (tl : BitVec 2) (num : Xword) (s : State) : Out :=
  let d := d.toNat
  let i := i.toNat
  .next (match (s.slot c).ctx.cell? d i with
    | none => s
    | some x => match x.cmd? tl num.toNat with
      | none => s
      | some q =>
        if q.st = .vault 0 then
          guarded (!(s.pdies.get ((s.slot c).phys d)).tripped)
            (match q.op with
             | .vact _ _ | .vpre _ | .vref _ | .vlife _ _ _ => s.complete c d i q
             | _ => s) s
        else if (q.st ≠ .sent ∧ q.st ≠ .performed 0) ∨ s.engineRuns c d = false then s
        else match q.op with
          | .copy src dst tr ls ld => s.copyStep c d i q src dst tr ls ld
          | .gather elems esz dest => s.gatherStep c d i q elems esz dest
          | .scatter elems esz add fp => s.scatterStep c d i q elems esz add fp
          | .indexed kind base lim list h fp => s.indexStep c d i x q kind base lim list h fp
          | .perm a _ => s.permStep c d i q a
          | _ => s)

/-- A reply from another device for a command (R46): what it returns is taken, and the command goes on. After an addition
the others of its command follow, or it completes (R380, R381). -/
def State.podReply (s : State) (c : BitVec 4) (d i : Nat) (q : Cmd) (v : Nat) : State :=
  match q.op with
  | .store _ _ _ | .load _ _ | .atom _ _ _ _ _ _ _ => s.ackStream c d i q v
  | .copy src dst tr ls ld =>
    s.engineReply c d i q (copyReads (copyPieces s.devnum d i src dst tr ls ld) (pieceBytes dst)) v
  | .gather elems esz _ => s.engineReply c d i q (gatherReads elems esz) v
  | .scatter _ _ add _ => if add = 0 then s.engineReply c d i q [] v else s.holdEnd c d i q
  | .indexed kind _ _ _ h _ =>
    if kind ≤ 1 then s.engineReply c d i q (indexReads s.devnum d i kind h q.buf) v else s.holdEnd c d i q
  | _ => s

/-! ### Landings (R160-R162, R135) -/

/-- The least landing cycle of a die. -/
def Die.leastDue (x : Die) : Option Nat :=
  (x.cells.flatMap fun q => q.hawk.map (·.due)).foldl (fun b l => match b with | none => some l | some m => some (min m l)) none
/-- Whether every datum that lands in a cycle is in the hawk. -/
def Die.landed (x : Die) (l : Nat) : Bool := x.cells.all fun q => q.hawk.all fun h => h.due != l || h.data.isSome
/-- A landing writes its register and frees its entry (R160, R161). -/
def Cell.landAt (x : Cell) (l : Nat) : Cell :=
  let x' := (x.hawk.filter fun h => h.due == l).foldl (fun x h =>
    match h.data, h.dest with
    | some v, .v k => x.setV (BitVec.ofNat 5 k) v
    | some v, .b k => x.setB (BitVec.ofNat 4 k) (BitVec.ofNat 32 v.toNat)
    | _, _ => x) x
  { x' with hawk := x.hawk.filter fun h => h.due != l }
/-- The landings of a cycle at a die. -/
def Die.landAll (x : Die) (l : Nat) : Die := { x with cells := x.cells.map fun q => q.landAt l, frozen := false, ahead := none }

/-- LANDING: the next landing cycle of a die has come. Its data is written, or the die freezes, or the set is held, until
it comes (R135, R160, R161). In FIXED mode the set's cycles come in order. -/
def execLanding (c : BitVec 4) (d : BitVec 6) (s : State) : Out :=
  let y := (s.slot c).ctx
  .next (match y.dies[d.toNat]? with
    | none => s
    | some x => match x.leastDue with
      | none => s
      | some l =>
        if x.frozen || !s.clocked c d.toNat || (y.fixed && y.dies.any fun z => match z.leastDue with
            | some m => decide (m < l)
            | none => false) then s
        else
          let n := max x.cyc.toNat (l - 1)
          let x' := if x.landed l then x.landAll l else { x with frozen := true, ahead := none }
          s.onCtx c fun y => (y.onDie d.toNat fun _ => { x' with cyc := BitVec.ofNat 64 n, used := n }).evenCyc)

/-- LANDING_DATA_ARRIVAL: data that was late has come; the frozen cycles, at least one, count in LATECYC (R134, R135). In
FIXED mode the set is held until the last such data has come, and the hold counts once, at every die. -/
def execLandingDataArrival (c : BitVec 4) (d : BitVec 6) (held : Xword) (s : State) : Out :=
  let y := (s.slot c).ctx
  .next (match y.dies[d.toNat]? with
    | none => s
    | some x => match x.leastDue with
      | none => s
      | some l => guarded (x.frozen && x.landed l)
          (s.onCtx c fun y =>
            let y := y.onDie d.toNat fun x => x.landAll l
            let k := BitVec.ofNat 64 (max 1 held.toNat)
            if !y.fixed then y.onDie d.toNat fun z => { z with late := z.late + k }
            else if y.dies.any (·.frozen) then y
            else { y with dies := y.dies.map fun z => { z with late := z.late + k } }) s)

end Sys2Proof.Machine
end

