-- ==== Sys2Proof/Machine/HostQueue.lean ====
section
/-!
DEFINITION. The host's command queues: doorbells, staging, the packets, their records, errors and destruction (04 R64-R76).
-/
namespace Sys2Proof.Machine
open Sys2Proof

/-- A queue changed. -/
def State.onQueue (s : State) (q : BitVec 6) (f : Queue → Queue) : State := { s with queues := s.queues.put q (f (s.queues.get q)) }
/-- The ring offset of a packet (R64). -/
def Queue.offset (q : Queue) (i : BitVec 32) : Nat := 64 * (i.toNat % 2 ^ q.size.toNat)
/-- Entry to ERROR, which signals the vector (R65); a queue in ERROR enters it again, with the new cause (R66, R73; log
38). -/
def State.queueError (s : State) (q : BitVec 6) (code : BitVec 4) (off : Nat) : State :=
  match (s.queues.get q).state with
  | .disabled | .destroying => s
  | _ => (s.onQueue q fun x =>
      { x with state := .error, errcode := code, erroff := BitVec.ofNat 24 off, staged := .empty, met := false }).signal q.toNat
/-- ACTIVE, or IDLE with nothing to act (R65). -/
def Queue.resume (q : Queue) : Queue :=
  { q with state := if q.head = q.tail then .idle else .active, staged := .empty, met := false }
/-- A packet retires: HEAD moves past it (R70). -/
def Queue.retire (q : Queue) : Queue := ({ q with head := q.head + 1 }).resume

/-! ### Completion records (R73) -/

/-- The record of a packet: the slot is 0xFFFF but for LAUNCH. -/
def recordBytes (p : PacketId) (status slot ns value : Nat) : List Byte :=
  bytesOf 1 p.type.toNat ++ bytesOf 1 status ++ bytesOf 2 slot ++ bytesOf 4 p.tag.toNat ++ bytesOf 4 p.index.toNat ++
  bytesOf 4 p.queue.toNat ++ bytesOf 8 ns ++ bytesOf 8 value
/-- Whether no record is written for a packet: it asks for none, its queue is being destroyed, or a reset discards it
(R73, R75, R76). -/
def State.noRecord (s : State) (p : PacketId) : Bool :=
  p.cpl == 0 || (s.queues.get p.queue).state == .destroying || s.resetRun.isSome
/-- The record of a packet goes to the host; its vector follows if IRQ is 1, and then the entry to ERROR that it precedes,
if any (R73). -/
def State.post (s : State) (p : PacketId) (status slot value : Nat) (err : Option (BitVec 4 × Nat)) : State :=
  { s with posted := s.posted ++
      [⟨some p, none, p.cpl.toNat, recordBytes p status slot s.ns value, if p.irq then some p.queue.toNat else none, err⟩] }
/-- A packet completes (R73). -/
def State.record (s : State) (p : PacketId) (status slot value : Nat) : State :=
  if s.noRecord p then s else s.post p status slot value none
/-- A packet fails: its record is written before its queue enters ERROR (R73). -/
def State.recordError (s : State) (p : PacketId) (status value : Nat) (code : BitVec 4) (off : Nat) : State :=
  if s.noRecord p then s.queueError p.queue code off else s.post p status 0xFFFF value (some (code, off))
/-- RECORD_WRITE_FAIL: the oldest record of a queue on its way is lost, and the queue enters ERROR; the entry that the
record precedes follows (R73; log 38). -/
def execRecordWriteFail (q : BitVec 6) (s : State) : Out :=
  .next (match s.posted.find? fun p => p.queue.any fun k => k.queue == q with
    | none => s
    | some p =>
      let s := { s with posted := s.posted.erase p }
      let s := s.queueError q 6 ((s.queues.get q).offset ((p.queue.map (·.index)).getD 0))
      match p.err with
      | some e => s.queueError q e.1 e.2
      | none => s)

/-! ### Doorbells and staging (R66-R69) -/

/-- DOORBELL (R66); while the window is silent it is dropped (R25, R32, R57; log 79). -/
def execDoorbell (q : BitVec 6) (tail : BitVec 32) (s : State) : Out :=
  let x := s.queues.get q
  let n := (tail - x.head).toNat
  let o := (x.tail - x.head).toNat
  .next (
    if x.state = .disabled ∨ x.state = .destroying ∨ s.d3hot ∨ !s.hostOpen then s
    else if 2 ^ x.size.toNat < n ∨ n < o then s.queueError q 7 (x.offset x.head)
    else s.onQueue q fun x => { x with tail := tail, state := if x.state = .idle ∧ tail ≠ x.head then .active else x.state })

/-- Whether the bytes of a packet from `i` up to `j` are zero. -/
def zeroes (b : List Byte) (i j : Nat) : Bool := fieldOf b i (j - i) == 0
/-- Whether an HCOPY side that is no bus address is a handle address (R72; must-be-zero bits DEDUCED, log 38). -/
def copyAddrOk (bus : Bool) (a : Xword) : Bool := bus || (tagOf a == 1 && mbzOk a)
/-- Whether a packet keeps the rules of the header and of its type (R69, R71, R72). -/
def packetLegal (b : List Byte) (dev : BitVec 6) : Bool :=
  let t := fieldOf b 0 1
  let fl := fieldOf b 40 1
  decide (1 ≤ t ∧ t ≤ 6) && decide (fieldOf b 1 1 < 2) && zeroes b 2 4 && decide (fieldOf b 8 8 % 32 = 0) &&
  match t with
  | 1 => descLegal (b.drop 16) dev
  | 2 => decide (fieldOf b 16 2 < 256) && zeroes b 18 24 && zeroes b 36 64
  | 3 => decide (fieldOf b 16 2 < 256) && decide (fieldOf b 18 1 < 2) && zeroes b 19 24 && zeroes b 32 64
  | 4 => decide (1 ≤ fieldOf b 32 8 ∧ fieldOf b 32 8 ≤ 2 ^ 32) && decide (fl < 3) && zeroes b 41 64 &&
      copyAddrOk (fl % 2 == 1) (BitVec.ofNat 64 (fieldOf b 16 8)) && copyAddrOk (fl / 2 == 1) (BitVec.ofNat 64 (fieldOf b 24 8))
  | 5 => zeroes b 16 64
  | _ => decide (fieldOf b 24 1 < 2) && zeroes b 25 64

/-- PACKET_STAGE: the packet at HEAD is read and judged (R68, R69, R71). -/
def execPacketStage (q : BitVec 6) (fail : BitVec 1) (s : State) : Out :=
  let x := s.queues.get q
  let off := x.offset x.head
  .next (
    if x.state ≠ .active ∨ x.staged ≠ .empty ∨ x.head = x.tail then s
    else if fail = 1 then s.queueError q 5 off
    else
      let b := s.rdMem true (x.base.toNat * 4096 + off) 64
      if !packetLegal b s.devnum then s.queueError q 1 off
      else if fieldOf b 0 1 = 1 ∧ !s.handlesValid (descOf (b.drop 16)) then s.queueError q 2 off
      else s.onQueue q fun x =>
        let x := { x with staged := .bytes b, since := s.time, met := false }
        { x with met := x.waitMet s.time (fieldOf b 16 2) (s.sigobj.get (BitVec.ofNat 8 (fieldOf b 16 2))) })

/-- What a record repeats of a packet. -/
def packetId (q : BitVec 6) (i : BitVec 32) (b : List Byte) : PacketId :=
  ⟨q, i, BitVec.ofNat 8 (fieldOf b 0 1), BitVec.ofNat 32 (fieldOf b 4 4), BitVec.ofNat 64 (fieldOf b 8 8), fieldOf b 1 1 % 2 == 1⟩

/-- A packet of a type stands at HEAD, staged, and acts or waits: what it does. -/
def State.onPacket (s : State) (q : BitVec 6) (type : Nat) (f : List Byte → PacketId → State) : State :=
  let x := s.queues.get q
  match x.state, x.staged with
  | .active, .bytes b => if fieldOf b 0 1 = type then f b (packetId q x.head b) else s
  | .blocked, .bytes b => if fieldOf b 0 1 = type then f b (packetId q x.head b) else s
  | _, _ => s
/-- The packet at HEAD waits (R65). -/
def State.block (s : State) (q : BitVec 6) : State := s.onQueue q fun x => { x with state := .blocked }
/-- The packet at HEAD retires and completes at once (R70). -/
def State.finish (s : State) (q : BitVec 6) (p : PacketId) (value : Nat) : State :=
  (s.onQueue q Queue.retire).record p 0 0xFFFF value

/-! ### The packets (R71, R72) -/

/-- The launches that wait for slots: their queue, priority and staging time. -/
def State.launches (s : State) : List (BitVec 6 × Nat × Nat) :=
  allDies.filterMap fun q =>
    let x := s.queues.get q
    match x.staged with
    | .bytes b => if x.launchBlocked then some (q, fieldOf b 28 1 % 8, x.since) else none
    | _ => none

/-- A LAUNCH at HEAD: the context takes the lowest free slot, in order of priority and then of staging among the launches that
wait (R70, R71, R77). -/
def State.launchTo (s : State) (q : BitVec 6) : State :=
  s.onPacket q 1 fun b p =>
    let d := descOf (b.drop 16)
    let x := s.queues.get q
    let before := s.launches.any fun l => l.1 != q &&
      (decide (d.prio.toNat < l.2.1) || (l.2.1 == d.prio.toNat && decide (l.2.2 < x.since)))
    match (if before then none else s.freeSlot) with
    | none => s.block q
    | some c =>
      let fam := s.famNo + 1
      let s := s.newContext c d d.prio q fam none none
      ({ s with famNo := fam, families := s.families ++ [Family.mk fam p c 1 0 none false] }).onQueue q Queue.retire
/-- LAUNCH: it waits while a SPAWN issues in the same cycle (R77). -/
def execLaunch (q : BitVec 6) (s : State) : Out :=
  .next (if allSlots.any s.spawnReady then s.onPacket q 1 fun _ _ => s.block q else s.launchTo q)
/-- The cycle in which slots came free ends: LAUNCHes that wait take those left, in their order (R71, R77). -/
def State.serveLaunches (s : State) : State :=
  (List.range 16).foldl (fun s _ =>
    if s.freeSlot.isNone then s
    else allDies.foldl (fun s q => if (s.queues.get q).launchBlocked then s.launchTo q else s) s) s

/-- WAIT: it retires if its condition has held at any moment since it was staged (R72). -/
def execWait (q : BitVec 6) (s : State) : Out :=
  .next (s.onPacket q 2 fun _ p => if (s.queues.get q).met then s.finish q p 0 else s.block q)
/-- WAIT_TIMEOUT: the record carries TIMEOUT, then the queue enters ERROR (R72, R73). -/
def execWaitTimeout (q : BitVec 6) (s : State) : Out :=
  .next (s.onPacket q 2 fun b p =>
    let x := s.queues.get q
    let t := fieldOf b 32 4
    guarded (t != 0 && decide (msPs t ≤ s.time - x.since) && !x.met) (s.recordError p 3 0 4 (x.offset x.head)) s)
/-- SIGNAL: 0 SET, 1 ADD (R72). -/
def execSignal (q : BitVec 6) (s : State) : Out :=
  .next (s.onPacket q 3 fun b p =>
    let i := BitVec.ofNat 8 (fieldOf b 16 2)
    let v := BitVec.ofNat 64 (fieldOf b 24 8)
    (s.setSig i (if fieldOf b 18 1 = 0 then v else s.sigobj.get i + v)).finish q p 0)
/-- FENCE: it waits until every earlier packet of its queue has completed (R70). -/
def execFence (q : BitVec 6) (s : State) : Out :=
  .next (s.onPacket q 5 fun _ p =>
    if (s.queues.get q).copies ≠ [] ∨ s.families.any (fun f => f.pkt.queue == q && !f.gone) then s.block q else s.finish q p 0)
/-- MARK (R72). -/
def execMark (q : BitVec 6) (s : State) : Out :=
  .next (s.onPacket q 6 fun b p =>
    (if fieldOf b 24 1 = 1 then s.trigger 4 0 0 else s).finish q p (fieldOf b 16 8))

/-- HCOPY: the copy is started and its packet retires (R70, R72). -/
def execHcopy (q : BitVec 6) (s : State) : Out :=
  .next (s.onPacket q 4 fun b p =>
    let k : HostCopy :=
      ⟨p, BitVec.ofNat 64 (fieldOf b 16 8), BitVec.ofNat 64 (fieldOf b 24 8), fieldOf b 32 8, fieldOf b 40 1 % 2 == 1,
       fieldOf b 40 1 / 2 == 1, false⟩
    s.onQueue q fun x => ({ x with copies := x.copies ++ [k] }).retire)

/-- How many bytes of a side a copy can reach before a fault: all of a bus side; of a handle those from its offset to its
LIMIT, if it is valid and its key slot is full (R72, R171); of the table window all, an HCOPY into it being a multiple of
8 bytes at a multiple of 8 (R169). -/
def State.copyReach (s : State) (bus into : Bool) (a : Xword) (len : Nat) : Nat :=
  let h := handleOf a
  let e := s.entry h
  let off := handleOff a
  if bus then len
  else if h = 0 then (if into && (off % 8 != 0 || len % 8 != 0) then 0 else len)
  else if !e.valid || decide (off < e.low.toNat) || (e.enc && !s.keyed h) then 0
  else min len (e.limit.toNat + 1 - off)
/-- The bytes of a source. -/
def State.copyRead (s : State) (bus : Bool) (a : Xword) (len : Nat) : List Byte :=
  if bus then s.rdMem true a.toNat len
  else if handleOf a = 0 then (List.range len).map fun i =>
    let off := handleOff a + i
    BitVec.ofNat 8 (lane 8 (s.windowRead (off / 8 * 8)) (off % 8))
  else match translateHandle (s.entry (handleOf a)) (handleOf a) (s.keyed (handleOf a)) (handleOff a) len .read false with
    | .ok r => s.rdRun r
    | .error _ => []
/-- Words written to the table window in ascending order (R169). -/
def State.windowFill : Nat → State → Nat → List Byte → State
  | 0, s, _, _ => s
  | k + 1, s, off, b => State.windowFill k (s.windowWrite off (BitVec.ofNat 64 (fieldOf b 0 8))) (off + 8) (b.drop 8)
/-- Bytes written to a destination. -/
def State.copyWrite (s : State) (bus : Bool) (a : Xword) (b : List Byte) : State :=
  if bus then s.wrMem true a.toNat b
  else if handleOf a = 0 then s.windowFill (b.length / 8) (handleOff a) b
  else match translateHandle (s.entry (handleOf a)) (handleOf a) (s.keyed (handleOf a)) (handleOff a) b.length .write false with
    | .ok r => s.wrRun r b
    | .error _ => s

/-- Where the first `n` bytes of a side lie in memory. -/
def State.copyRun (s : State) (bus : Bool) (a : Xword) (n : Nat) : Option Run :=
  if bus then some ⟨true, a.toNat, n, none⟩
  else if handleOf a = 0 then none
  else match translateHandle (s.entry (handleOf a)) (handleOf a) (s.keyed (handleOf a)) (handleOff a) n .read false with
    | .ok r => some r
    | .error _ => none
/-- Whether the two sides of a copy overlap in memory (R72). -/
def State.copyClash (s : State) (k : HostCopy) (n : Nat) : Bool :=
  match s.copyRun k.srcBus k.src n, s.copyRun k.dstBus k.dst n with
  | some a, some b => a.host == b.host && decide (a.pa < b.pa + n ∧ b.pa < a.pa + n)
  | _, _ => false
/-- The first `n` bytes of a copy whose sides overlap, one by one in an open order: each receives its source byte as it
was either before or after that byte was written (R72; log 31). -/
def State.copyMixed (s : State) (k : HostCopy) (n : Nat) : State :=
  (openOrder (k.pkt.index.toNat * 64 + k.pkt.queue.toNat) n (List.range n)).foldl (fun t j =>
    t.copyWrite k.dstBus (k.dst + BitVec.ofNat 64 j) (t.copyRead k.srcBus (k.src + BitVec.ofNat 64 j) 1)) s
/-- The first `n` bytes of a copy. -/
def State.copyBytes (s : State) (k : HostCopy) (n : Nat) : State :=
  if n = 0 then s else if s.copyClash k n then s.copyMixed k n else s.copyWrite k.dstBus k.dst (s.copyRead k.srcBus k.src n)
/-- A copy is at an end. -/
def State.dropCopy (s : State) (q : BitVec 6) (i : BitVec 32) : State :=
  s.onQueue q fun x => { x with copies := x.copies.filter fun k => k.pkt.index != i }
/-- A copy stops in a fault: what it has written stays, its record carries COPYFAULT, and the queue enters ERROR (R72,
R73). -/
def State.copyFault (s : State) (q : BitVec 6) (k : HostCopy) (n : Nat) : State :=
  ((s.copyBytes k n).dropCopy q k.pkt.index).recordError k.pkt 2 n 3 ((s.queues.get q).offset k.pkt.index)
/-- How many bytes of a copy no fault stops. -/
def State.copyLength (s : State) (k : HostCopy) : Nat :=
  min (s.copyReach k.srcBus false k.src k.len) (s.copyReach k.dstBus true k.dst k.len)
/-- A copy is abandoned: each destination byte, or each word of the table window, holds its old value or its copied one, a
free choice (R25, R75; log 7). -/
def State.copyPart (s : State) (k : HostCopy) : State :=
  let u := if !k.dstBus && handleOf k.dst == 0 then 8 else 1
  let b := s.copyRead k.srcBus k.src (s.copyLength k)
  if k.written then s
  else (List.range (b.length / u)).foldl (fun s j =>
    let (i, s) := s.choose 2
    if i = 0 then s else s.copyWrite k.dstBus (k.dst + BitVec.ofNat 64 (u * j)) ((b.drop (u * j)).take u)) s
/-- Every copy of a queue is abandoned. -/
def State.dropCopies (s : State) (q : BitVec 6) : State :=
  ((s.queues.get q).copies.foldl State.copyPart s).onQueue q fun x => { x with copies := [] }
/-- Whether a relocation holds a side of a copy. -/
def State.copyHeld (s : State) (k : HostCopy) : Bool :=
  s.transl.relocRun.any fun r => (!k.srcBus && handleOf k.src == r.1) || (!k.dstBus && handleOf k.dst == r.1)

/-- HCOPY_COMPLETE: a copy ends with its last byte, or at the first that faults; one that has committed handle entries
completes with those commits (R72, R73, R172). -/
def execHcopyComplete (q : BitVec 6) (i : BitVec 32) (s : State) : Out :=
  .next (match (s.queues.get q).copies.find? fun k => k.pkt.index == i with
    | none => s
    | some k =>
      let done := fun (s : State) =>
        if !k.dstBus && handleOf k.dst == 0 && (s.transl.pending != [] || !s.transl.heldCommit.isEmpty) then
          s.onQueue q fun x => { x with copies := x.copies.map fun j => if j.pkt.index = i then { j with written := true } else j }
        else (s.dropCopy q i).record k.pkt 0 0xFFFF k.len
      if k.written then done s
      else if s.copyHeld k then s
      else
        let n := s.copyLength k
        if n < k.len then s.copyFault q k n else done (s.copyBytes k k.len))

/-- HCOPY_FAULT: a request of a copy fails after so many bytes (R30, R72). -/
def execHcopyFault (q : BitVec 6) (i : BitVec 32) (bytes : BitVec 32) (s : State) : Out :=
  .next (match (s.queues.get q).copies.find? fun k => k.pkt.index == i with
    | none => s
    | some k =>
      if k.written then s
      else s.copyFault q k (min bytes.toNat (s.copyLength k)))

/-! ### Control (R65, R74, R75) -/

/-- A DISABLED queue becomes IDLE (R65). -/
def State.queueEnable (s : State) (q : BitVec 6) : State :=
  guarded ((s.queues.get q).state == .disabled) (s.onQueue q fun x => { x with state := .idle, head := 0, tail := 0 }) s
/-- ENABLE of QCFG (R65). -/
def execEnable (q : BitVec 6) (s : State) : Out := .next (guarded s.hostOpen (s.queueEnable q) s)
/-- In ERROR, staging resumes with the packet at HEAD (R74). -/
def State.queueRetry (s : State) (q : BitVec 6) : State :=
  guarded ((s.queues.get q).state == .error) (s.onQueue q Queue.resume) s
/-- RETRY of QCFG (R65, R74). -/
def execRetry (q : BitVec 6) (s : State) : Out := .next (guarded s.hostOpen (s.queueRetry q) s)
/-- In ERROR, the packet that failed at HEAD is retired; for the other causes staging resumes (R74). -/
def State.queueSkip (s : State) (q : BitVec 6) : State :=
  let x := s.queues.get q
  let failed := x.errcode == 1 || x.errcode == 2 || x.errcode == 4 || x.errcode == 5
  guarded (x.state == .error) (s.onQueue q fun x => if failed then x.retire else x.resume) s
/-- SKIP of QCFG (R65, R74). -/
def execSkip (q : BitVec 6) (s : State) : Out := .next (guarded s.hostOpen (s.queueSkip q) s)

/-- A queue is destroyed: its copies are abandoned, its contexts are dead, and no packet of it is ever recorded (R65,
R75). -/
def State.queueDestroy (s : State) (q : BitVec 6) : State :=
  match (s.queues.get q).state with
  | .disabled | .destroying => s
  | _ =>
    let s := (s.onQueue q fun x => { x with state := .destroying, staged := .empty, met := false }).dropCopies q
    let s := { s with families := s.families.map fun f =>
      if f.pkt.queue = q then { f with pkt := { f.pkt with cpl := 0 }, gone := true } else f }
    allSlots.foldl (fun s c =>
      if (s.slot c).state != .free && (s.slot c).queue == q then s.kill c (DeadInfo.plain .queueDestroyed) else s) s
/-- DESTROY of QCFG (R65, R75). -/
def execDestroy (q : BitVec 6) (s : State) : Out := .next (guarded s.hostOpen (s.queueDestroy q) s)
/-- Whether the fatal record of a slot is still to be written (R261, R262). -/
def State.fatalWaits (s : State) (c : BitVec 4) : Bool :=
  s.tq.fatal.any (fun r => r.slot == c) ||
  s.tq.lost.any fun r => r.cls == 4 && r.slot == c
/-- DESTROY_DRAIN_DONE: with the requests of the contexts made dead drained the queue is DISABLED; a record that waits for the
trap queue keeps its slot, not the queue, and a context that was ENDING ends by itself (R75). What is dead has none outstanding
(R259), so nothing is left for the 100 µs. -/
def execDestroyDrainDone (q : BitVec 6) (s : State) : Out :=
  let x := s.queues.get q
  let busy := allSlots.any fun c =>
    (s.slot c).state == .draining && (s.slot c).queue == q && !s.fatalWaits c
  .next (guarded (x.state == .destroying && !busy)
    (s.onQueue q fun x => { x with state := .disabled, head := 0, tail := 0, errcode := 0, erroff := 0 }) s)

/-- A QCFG write: SIZE while DISABLED; DESTROY alone where it is set; RETRY and SKIP together nothing (R64, R65). -/
def State.queueControl (s : State) (q : BitVec 6) (v : Xword) : State :=
  let n := bits v 4 0
  if bit v 11 then s.queueDestroy q
  else
    let s := guarded ((s.queues.get q).state == .disabled)
      (s.onQueue q fun x => { x with size := if 4 ≤ n ∧ n ≤ 16 then BitVec.ofNat 5 n else 4 }) s
    let s := if bit v 8 then s.queueEnable q else s
    if bit v 10 && bit v 9 then s else if bit v 10 then s.queueRetry q else if bit v 9 then s.queueSkip q else s

/-- SIGOBJ_WRITE: a host write of a signal object (R64, R72). -/
def execSigobjWrite (i : BitVec 8) (v : Xword) (s : State) : Out := .next (guarded s.hostOpen (s.setSig i v) s)

end Sys2Proof.Machine
end

