-- ==== Sys2Proof/Machine/Power.lean ====
section
/-!
DEFINITION. Columns, power and temperature, and the requests for a reset (01 R11-R28, 02 R32).
-/
namespace Sys2Proof.Machine
open Sys2Proof

/-! ### Temperature and power (R14-R17) -/

/-- A column changed. -/
def State.onColumn (s : State) (d : BitVec 6) (f : Column → Column) : State :=
  { s with columns := s.columns.put d (f (s.columns.get d)) }

/-- TEMP_SAMPLE: TEMP, and TWARN with vector 65 when it comes to be set (R15, R21, R35). -/
def execTempSample (d : BitVec 6) (temp : BitVec 8) (s : State) : Out :=
  let warn := decide (s.twarnLvl.toNat ≤ temp.toNat)
  let new := warn && !(s.columns.get d).twarn
  let s := s.onColumn d fun c => { c with temp := temp, twarn := c.twarn || warn }
  .next (if new then s.signal 65 else s)

/-- The slots whose die set contains a die, or for which it is reserved. -/
def State.holders (s : State) (d : BitVec 6) : List (BitVec 4) :=
  allSlots.filter fun c =>
    let x := s.slot c
    (x.holds || (x.state == .saved && x.vbound)) && x.pdies.contains d

/-- THERMAL_TRIP: a column at 110 °C loses its rail, its contents, and every context that holds its die (R16, R17); with no
rail it draws no current (R21). -/
def execThermalTrip (d : BitVec 6) (s : State) : Out :=
  let col := s.columns.get d
  .next (guarded (decide (110 ≤ col.temp.toNat) && !col.offline)
    ((s.holders d).foldl (fun t c =>
        t.kill c { (DeadInfo.plain .thermalTrip) with ld := (s.slot c).logical d, pd := some d.toNat })
      (((s.onColumn d fun c => { c with offline := true, ttrip := true, heat := true, vset := 0, imeas := 0, pgood := false }).onPdie d fun p =>
        { p with vaults := [], cache := [], pads := [] }).signal 65)) s)

/-- PLIM_THROTTLE: the 10 ms average, and whether it has reached PLIM (R14, R19, R137). -/
def execPlimThrottle (watts : BitVec 16) (s : State) : Out :=
  .next { s with pmeas := watts, plimThrottle := decide (s.plim.toNat ≤ watts.toNat) }

/-- HOST_REQUEST_ERROR: a request of a context to the host fails, which ends the context (R30). A cell that is none of
the set's stands for the sequencer, whose record names no die and no cell (R254; log 96). -/
def execHostRequestError (c : BitVec 4) (d : BitVec 6) (i : BitVec 11) (addr : Xword) (s : State) : Out :=
  let cell := decide (d.toNat < (s.slot c).n ∧ i.toNat < cellsPerDie)
  .next (s.kill c
    { (DeadInfo.plain .hostRequest) with
      ld := if cell then some d.toNat else none
      pd := if cell then some ((s.slot c).phys d.toNat).toNat else none
      cell := if cell then some (1600 * d.toNat + i.toNat) else none, addr := addr })

/-! ### Clearing (R22, R32) -/

/-- Vault control takes over the refresh of the vault-bound contexts' dies (R24, R184). -/
def State.refreshOwned (s : State) : State :=
  { s with pdies := s.pdies.map fun p =>
      if p.owner.any fun c => (s.slot c).vbound then { p with selfNext := s.time + selfInterval } else p }

/-- Every context slot cleared: contexts are discarded and no completion record is written for them; their cells'
scratchpads stay (R22). Accesses held for them are refused when they are looked at again (R47, R259). -/
def State.clearSlots (s : State) : State :=
  let s := allSlots.foldl State.leavePads s
  { s with
    slots := RegFile.fill 4 Slot.blank, families := [], schedDue := false, parks := [], focus := none, work := []
    pdies := s.pdies.map fun p => { p with owner := none, reserved := none, walks := [], walkQueue := [], level := 0, trips := 0, tripped := false }
    podHeld := [], podArrived := s.podArrived ++ s.podHeld.map fun h => (h.link, .access h.acc) }

/-- D3HOT_ENTRY: every slot is treated as at warm reset (R32); queues that hold packets go on (log 90). -/
def execD3hotEntry (s : State) : Out := .next { s.refreshOwned.clearSlots with d3hot := true }
/-- D0_ENTRY: the function returns to D0 (R32). -/
def execD0Entry (s : State) : Out := .next { s with d3hot := false }

/-- The translation state at warm reset: PTROOT, RELOCBASE and RHANDLE are kept, and the handle table, whose staging
fields read as the entries do (R22, R170, R178; for TINVADDR, TINVCTL.ALL and WALKSTAT log 91). -/
def Transl.warm (t : Transl) : Transl :=
  { Transl.reset with
    table := (t.table.map fun e => { e with low := e.entry.low, limit := e.entry.limit, base := e.entry.base }).filter
      fun e => e != HandleSlot.zero e.h
    root := t.root, rootHost := t.rootHost, rootEn := t.rootEn, relocBase := t.relocBase, rhandle := t.rhandle }

/-- A column at warm reset: what it measures is to be measured again, and TWARN is clear (R5, R21). -/
def Column.warm (c : Column) : Column := { c with imeas := 0, twarn := false }

/-- What warm reset clears (R5, R22, R64, R76; for the boot block logs 26 and 92, for the pod registers log 27, for the
MSI-X table and QBUF log 93). -/
def State.clearWarm (s : State) : State :=
  let s := s.clearSlots
  { s with
    queues := RegFile.fill 6 Queue.reset, sigobj := RegFile.fill 8 0, tq := TrapQueue.reset, posted := [], flits := []
    podArrived := [], podBlocked := [], podWaiting := [], podDone := []
    podValid := false, devnum := 0, transl := s.transl.warm, throttled := RegFile.fill 4 false
    pmeas := 0, plimThrottle := false, columns := s.columns.map Column.warm
    links := s.links.map fun l => { l with lost := false }
    boot := { s.boot with statWarm := true, stripStep := 0, fwAddr := 0, fwLen := 0, fwst := 0, keySel := 0, keyStatus := 0
                          keyData := RegFile.fill 2 0, qnonce := RegFile.fill 2 0, qdone := false } }

/-- A column at cold reset: as self-test finds it; one that is offline for its heat stays so unless it has cooled (R16, R21,
R23; the TWARNLVL that judges it is the one before the reset: log 94). -/
def State.coldColumn (s : State) (d : Nat) (c : Column) : Column :=
  if c.heat && decide (s.twarnLvl.toNat ≤ c.temp.toNat) then { c with vset := 0, offline := true, ttrip := false, pgood := false, imeas := 0 }
  else Column.selfTest s.selfTests d

/-- A vector 65 for each column that has gone offline (R35). -/
def State.offlineNote (was s : State) : State :=
  (allDies.filter fun d => !(was.columns.get d).offline && (s.columns.get d).offline).foldl (fun s _ => s.signal 65) s

/-- The vaults and scratchpads of a die whose column has no power are lost (R11, R16). -/
def PDie.unpower (p : PDie) (off : Bool) : PDie := if off then { p with vaults := [], cache := [], pads := [] } else p
/-- Every row of a die has just been refreshed, and its lanes are trained again (R24, R188). -/
def PDie.coldRows (p : PDie) : PDie :=
  { p with
    rowTime := RegFile.fill 12 0, selfPos := 0, selfNext := selfInterval, holdTo := 0, thrTo := 0
    vaults := p.vaults.map fun v =>
      { v with rows := v.rows.map fun r => { r with restored := 0, act := false }, spare := RegFile.fill 2 none } }
/-- What cold reset clears besides (R5, R23): the handle table (R170), links train, columns are evaluated, the time of R73
starts again, every row has just been refreshed (R24), the boot ROM is due. D3hot is kept (log 111), and quotes that wait
are dropped (log 112). -/
def State.clearCold (s : State) : State :=
  let was := s
  let s := s.clearWarm
  let cols := s.columns.mapIdx fun d c => s.coldColumn d c
  State.offlineNote was { s with
    time := 0, columns := cols, selfTests := s.selfTests + 1, plim := 9000, twarnLvl := 95
    istep := RegFile.fill 4 40, podtmo := 100, podrt := RegFile.fill 6 0, links := RegFile.fill 4 (Link.cold true)
    transl := Transl.reset, schedAt := 0
    pdies := s.pdies.mapIdx fun d p => (p.unpower (RegFile.get cols (BitVec.ofNat 6 d)).offline).coldRows
    boot := { s.boot with pending := true, statWarm := false, stage := .rom, cust := .none, custVer := 0, baseVer := 0
                          baseCopy := 2, meas := RegFile.fill 2 0, stripStep := 0, quotes := []
                          resets := s.boot.resets + 1 } }

/-! ### Requests (R25-R28) -/

/-- RESETCTL.BUSY (R26): while a reset runs, a cold one until its links are trained and the boot ROM is entered, and during a
strip (R23, R25; log 79). -/
def State.busy (s : State) : Bool := s.resetRun.isSome || s.stripping

/-- What the next act of a command of a cell does. -/
def State.nextAct (s : State) (c : BitVec 4) (d i : Nat) (q : Cmd) : State :=
  match (if q.op.isStream then execStreamArrival c (BitVec.ofNat 6 d) (BitVec.ofNat 11 i) (BitVec.ofNat 64 q.num) s
         else execEngineCommandComplete c (BitVec.ofNat 6 d) (BitVec.ofNat 11 i) q.tl (BitVec.ofNat 64 q.num) s) with
  | .next t => t
  | _ => s
/-- The commands whose next act writes host memory: those writes have been sent (R25; log 88). -/
def State.hostReqs (s : State) : List (BitVec 4 × Nat × Nat × Cmd) :=
  allSlots.flatMap fun c => ((s.slot c).ctx.cmdsWhere fun q => q.st == .sent).filterMap fun p =>
    if (s.nextAct c p.1 p.2.1 p.2.2).host = s.host then none else some (c, p)
/-- Whether such a write is still to be made: its command stands as it stood. -/
def State.stillSent (s : State) (p : BitVec 4 × Nat × Nat × Cmd) : Bool :=
  s.cmd? p.1 p.2.1 p.2.2.1 p.2.2.2.tl p.2.2.2.num == some p.2.2.2

/-- A reset is requested (R28): step 1 of R25 stops every control core. A warm request merges with a warm reset and is
ignored in a cold one, and until the boot ROM has handed over (log 95); the cause of a merged one is dropped, and a cold request
begins afresh, in a cold reset too (log 113). -/
def State.requestReset (s : State) (cold : Bool) (cause : BitVec 4) : State :=
  if !cold && (s.resetRun.isSome || s.boot.pending) then s
  else
    let sent := match s.resetRun with | some r => r.sent | none => s.hostReqs
    let s := if s.resetRun.isSome then s else s.refreshOwned
    { s with resetRun := some ⟨cold, cause, s.time, false, sent, false⟩, lastCause := cause, focus := none, work := [] }
/-- A strip that power-on, PERST# or recovery abandons (R28, R58). -/
def State.abandonStrip (s : State) : State :=
  if s.stripping then { s with boot := { s.boot with abandoned := s.boot.abandoned + 1, byCommand := false } } else s

/-- POWER_ON: nothing but the non-volatile state survives, and nothing is outstanding; the regions come up in order (R27,
R28). -/
def execPowerOn (s : State) : Out :=
  let s := s.abandonStrip.clearSlots
  let s : State := { s with
    regionsUp := 0, hbm := [], msixMask := BitVec.allOnes 69, msixPend := 0, d3hot := false, snap := Snap.reset
    queues := RegFile.fill 6 Queue.reset, posted := []
    pdies := s.pdies.map fun p => { p with cache := [], vaults := [], pads := [] }
    transl := { s.transl with table := [] }
    boot := { s.boot with keys := [] } }
  .next (s.requestReset true 0)
/-- POWER_REGION_BRINGUP: the regions come up in order of pr (R28). -/
def execPowerRegionBringup (pr : BitVec 4) (s : State) : Out :=
  .next (guarded (s.regionsUp.toNat == pr.toNat) { s with regionsUp := s.regionsUp + 1 } s)
/-- PERST: a cold reset that abandons a strip (R27, R28). -/
def execPerst (s : State) : Out := .next (s.abandonStrip.requestReset true 1)
/-- FUNCTION_LEVEL_RESET: a warm reset (R27). -/
def execFunctionLevelReset (s : State) : Out := .next (s.requestReset false 4)
/-- RECOVERY_PIN: a cold reset whose boot ignores the customer slot (R27, R52). -/
def execRecoveryPin (s : State) : Out := .next (s.abandonStrip.requestReset true 5)
/-- Whether a host write of RESETCTL acts: not while a strip runs, nor in ROMHALT, where the host sees the boot block alone
(R28, R54). -/
def State.mayReset (s : State) : Bool := !s.stripping && s.boot.stage != .romhalt
/-- WARM: a host write of RESETCTL (R26, R28). -/
def execWarm (s : State) : Out := .next (guarded s.mayReset (s.requestReset false 3) s)
/-- COLD: a host write of RESETCTL (R26, R28). -/
def execCold (s : State) : Out := .next (guarded s.mayReset (s.requestReset true 2) s)

/-- Whether requests to host memory are outstanding (R25). -/
def State.hostBusy (s : State) : Bool :=
  s.queues.any (fun q => !q.copies.isEmpty) ||
  (allSlots.any fun c => (s.slot c).ctx.acc.any fun a => match a.place with | .mem r => r.host | .window _ => false) ||
  (match s.resetRun with | some r => r.sent.any s.stillSent | none => false)
/-- RESET_HOST_TIMEOUT: what is still outstanding after 100 µs is abandoned; a copy leaves each byte as it was or copied
(R25). -/
def execResetHostTimeout (s : State) : Out :=
  .next (match s.resetRun with
    | none => s
    | some r =>
      guarded (!r.abandoned && decide (r.since + 100000000 ≤ s.time))
        (let s := allDies.foldl State.dropCopies s
         { s with resetRun := some { r with abandoned := true, sent := [] } }) s)

end Sys2Proof.Machine
end

