-- ==== Sys2Proof/Machine/Boot.lean ====
section
/-!
DEFINITION. The end of a reset, the boot ROM, the strip, the management commands, key slots and quotes (01 R25, 03
R51-R63).
-/
namespace Sys2Proof.Machine
open Sys2Proof

/-! ### Firmware images (R53) -/

/-- A run of bytes. -/
def slice (b : List Byte) (off n : Nat) : List Byte := (b.drop off).take n

/-- The first check of R53 that an image fails, for a kind, an expected key hash and a minimum version; `bad`: its body
cannot be read. -/
def imageFault (img : List Byte) (bad : Bool) (kind : Nat) (hash : BitVec 256) (minVer : Nat) : Option CustStat :=
  let len := fieldOf img 12 4
  let body := slice img 256 len
  let key := slice img 48 64
  if img.length < 256 ∨ fieldOf img 0 4 ≠ 0x5746594C ∨ fieldOf img 4 2 ≠ kind ∨ fieldOf img 6 2 ≠ 1 ∨ len = 0 ∨
      2 ^ 24 < len ∨ fieldOf img 10 2 ≠ 0 ∨ fieldOf img 112 80 ≠ 0 then some .badhdr
  else if Config.sm3 key ≠ hash ∨ !Config.sm2Verify key (slice img 0 192) (slice img 192 64) then some .badsig
  else if bad ∨ body.length < len ∨ (Config.sm3 body).toNat ≠ fieldOf img 16 32 then some .badbody
  else if fieldOf img 8 2 < minVer then some .oldver
  else none

/-- Whether a base runtime copy is valid (R53, R54). -/
def baseValid (bad : Bool) : Option (List Byte) → Bool
  | none => false
  | some img => (imageFault img bad 1 Config.follasKeyHash Config.follasMinVersion.toNat).isNone

/-! ### The strip (R56-R59) -/

/-- A store entry of the strip record (R59); a count of bad units that its field does not hold is 0xFFFF (log 115). -/
def storeEntry (store status bad count dur bytes : Nat) : List Byte :=
  bytesOf 1 store ++ bytesOf 1 status ++ bytesOf 2 (min bad 0xFFFF) ++ bytesOf 4 0 ++ bytesOf 4 count ++ bytesOf 4 dur ++ bytesOf 8 bytes

/-- The stores of R59 with their unit counts and, where the manual gives it, the bytes of one unit. -/
def stores : List (Nat × Nat × Option Nat) :=
  [(1, 4096, some 32), (2, 32, some (2 ^ 36)), (3, 102400, some 131072), (4, 102400, some (2 ^ 23)), (5, 102400, none),
   (6, 102400, none), (7, 64, none), (8, 4096, some 32), (9, 16, none), (10, 65, none), (11, 128, none), (12, 65, none),
   (13, 1, none), (14, 1, none)]

/-- The strip record's 576 signed bytes and its signature (R58). A store in an offline column is UNREACHABLE, another
with units whose read-back differed FAILED (R57, R59; log 100). Durations, and byte counts the manual gives no size for, are
free values (log 28). -/
def State.stripRecord (s : State) : List Byte :=
  let off := 1600 * (allDies.filter fun d => (s.columns.get d).offline).length
  let free := fun (k : Nat) => (Config.free (s.fresh + k)).toNat
  let entries := stores.flatMap fun e =>
    let gone := if 3 ≤ e.1 ∧ e.1 ≤ 5 then off else 0
    let failed := (s.boot.badUnits.get (BitVec.ofNat 4 e.1)).toNat
    let bad := min e.2.1 (gone + failed)
    storeEntry e.1 (if gone ≠ 0 then 2 else if failed ≠ 0 then 1 else 0) bad e.2.1 (free e.1)
      (match e.2.2 with | some n => (e.2.1 - bad) * n | none => free (16 + e.1))
  let b := s.boot
  let body := bytesOf 4 0x5253594C ++ bytesOf 2 1 ++ bytesOf 2 16 ++ bytesOf 8 b.stripSeq.toNat ++
    bytesOf 32 (if b.byCommand then b.nonce.toNat else 0) ++ bytesOf 4 (free 0) ++ bytesOf 4 b.abandoned.toNat ++ bytesOf 8 0 ++
    entries ++ bytesOf 48 0 ++
    bytesOf 32 (b.meas.get 0).toNat ++ bytesOf 32 (b.meas.get 1).toNat ++ bytesOf 32 (b.meas.get 2).toNat ++
    bytesOf 32 (Config.sm3 (bytesOf 64 Config.identityKey.toNat)).toNat
  body ++ bytesOf 64 (Config.sm2Sign b.drbg body).toNat

/-- The random bit generator moves on, to a state that the model leaves free (log 87). -/
def State.reseed (s : State) : State := { s with fresh := s.fresh + 1, boot := { s.boot with drbg := Config.free s.fresh } }
/-- What a strip overwrites in its third step: every store but those of an offline column (R56, R57). -/
def State.scrub (s : State) : State :=
  { s with
    slots := RegFile.fill 4 Slot.blank, families := [], parks := [], queues := RegFile.fill 6 Queue.reset
    sigobj := RegFile.fill 8 0, tq := TrapQueue.reset, posted := [], transl := Transl.reset, snap := Snap.reset
    flits := [], podArrived := [], podHeld := [], podBlocked := [], podWaiting := [], podDone := []
    pdies := (RegFile.fill 6 ()).mapIdx fun d _ =>
      let p := s.pdies.get (BitVec.ofNat 6 d)
      if (s.columns.get (BitVec.ofNat 6 d)).offline then { p with cache := [], walks := [], walkQueue := [] }
      else { p with cache := [], walks := [], walkQueue := [], rowTime := RegFile.fill 12 s.time, vaults := [], pads := [] }
    boot := { s.boot with flash := s.boot.flash.put 2 none } }
/-- One step of the strip (R56): the key slots; HBM; every other store; the random bit generator. -/
def State.stripStep (s : State) : State :=
  let s := { s with boot := { s.boot with stripStep := s.boot.stripStep + 1, lease := .stripping } }
  match s.boot.stripStep.toNat with
  | 1 => { s with boot := { s.boot with keys := [] } }
  | 2 => { s with hbm := [] }
  | 3 => s.scrub
  | _ => s.reseed
/-- The end of the strip (R56). -/
def State.stripEnd (s : State) : State :=
  State.reseed { s with
    fresh := s.fresh + 32
    boot := { s.boot with
      stripRec := s.stripRecord, recValid := true, stripSeq := s.boot.stripSeq + 1, keyHash := 0, minVer := 0
      lease := .vacant, pend := false, byCommand := false, abandoned := 0, resets := 0, badUnits := RegFile.fill 4 0 } }

/-! ### The boot ROM (R54) -/

/-- The customer slot (R54). -/
def State.bootCustomer (s : State) : State :=
  let b := s.boot
  let ends := fun (c : CustStat) => { s with boot := { b with cust := c } }
  if s.lastCause = 5 then ends .skipped
  else if b.lease ≠ .enrolled then ends .none
  else match b.flash.get 2 with
    | none => ends .empty
    | some img => match imageFault img (b.flashBad.get 2) 2 b.keyHash b.minVer.toNat with
      | some c => ends c
      | none =>
        { s with boot := { b with
            meas := b.meas.put 2 (Config.sm3 (img.take 256)), cust := .running, stage := .custom
            custVer := BitVec.ofNat 16 (fieldOf img 8 2) } }

/-- The base runtime that is valid, the copy booted last first, runs; without one the ROM halts (R54). -/
def State.bootBase (s : State) : State :=
  let b := { s.boot with pending := false, meas := s.boot.meas.put 0 (Config.sm3 Config.bootRom) }
  let copies : List (BitVec 1) := [b.lastCopy, b.lastCopy + 1]
  match copies.find? fun k => baseValid (b.flashBad.get (k.zeroExtend 2)) (b.flash.get (k.zeroExtend 2)) with
  | none => { s with boot := { b with stage := .romhalt } }
  | some k =>
    let img := (b.flash.get (k.zeroExtend 2)).getD []
    let b := { b with
      meas := b.meas.put 1 (Config.sm3 (img.take 256)), stage := .base, baseCopy := k.zeroExtend 2, lastCopy := k
      baseVer := BitVec.ofNat 16 (fieldOf img 8 2) }
    ({ s with boot := b }).bootCustomer

/-- The boot ROM: it zeroes the key slots after power-on, then runs a strip step by step if one is due, then boots (R54,
R56). -/
def State.runRom (s : State) : State :=
  let s := if s.lastCause = 0 ∧ s.boot.stripStep = 0 then { s with boot := { s.boot with keys := [] } } else s
  if s.stripDue then
    (if s.boot.stripStep.toNat < 4 then s.stripStep else s.stripEnd)
  else s.bootBase

/-- RESET_COMPLETE: the reset clears the state once requests to host memory have completed or been abandoned and every
power region is up (R25, R28). A cold one ends once no link trains any more; then the boot ROM runs (R23, R25, R54). What it
changes of BOOTSTAT and STRIPSTAT signals vector 67 (R35). -/
def execResetComplete (s : State) : Out :=
  .next (s.bootNote (match s.resetRun with
    | some r =>
      if r.cleared then (if s.linkTrains then s else { s with resetRun := none })
      else if (s.hostBusy && !r.abandoned) || s.regionsUp != 16 then s
      else if r.cold then { s.clearCold with resetRun := some { r with sent := [], cleared := true } }
      else { s.clearWarm with resetRun := none }
    | none => if s.boot.pending then s.runRom else s))

/-! ### Management commands (R51, R52) -/

/-- A reply of the I3C target. -/
def State.reply (s : State) (r : Option (List Byte)) : State := { s with boot := { s.boot with replies := s.boot.replies ++ [r] } }
/-- A reply that is a status byte: 0 accepted, 1 rejected, 2 busy. -/
def State.status (s : State) (code : BitVec 8) : State := s.reply (some [code])

/-- STATUS (R51). -/
def execStatus (s : State) : Out :=
  .next (s.reply (some (0 :: bytesOf 8 s.boot.bootstat.toNat ++ bytesOf 8 s.boot.stripstat.toNat)))
/-- ENROLL (R51). -/
def execEnroll (hash : BitVec 256) (minver : BitVec 16) (s : State) : Out :=
  .next (if s.boot.lease = .vacant then
      (({ s with boot := { s.boot with keyHash := hash, minVer := minver, lease := .enrolled } }).signal 67).status 0
    else s.status 1)
/-- STRIP: it sets PEND, stores the nonce and issues the cold reset (R51, R56). -/
def execStrip (nonce : BitVec 256) (s : State) : Out :=
  .next (if s.stripping then s.status 2
    else ((({ s with boot := { s.boot with pend := true, lease := .stripping, nonce := nonce, byCommand := true } }).signal 67).requestReset
      true 6).status 0)
/-- RECOVER (R51). -/
def execRecover (s : State) : Out := .next ((s.abandonStrip.requestReset true 5).status 0)
/-- READREC (R51); before any strip has completed, zeros (log 101). -/
def execReadrec (s : State) : Out :=
  .next (if s.stripping then s.status 1
    else s.reply (some (0 :: (if s.boot.recValid then s.boot.stripRec else List.replicate 640 0))))
/-- QUOTE: the reply comes when it has been signed (R51, R62). -/
def execQuote (nonce : BitVec 256) (s : State) : Out :=
  .next (if s.hasRuntime then { s with boot := { s.boot with quotes := s.boot.quotes ++ [⟨nonce, false⟩] } } else s.status 1)
/-- READID (R51). -/
def execReadid (s : State) : Out := .next (s.reply (some (0 :: bytesOf 64 Config.identityKey.toNat)))
/-- BASEUPD: a valid base runtime goes to the copy not booted last (R51); another is rejected (log 114). -/
def execBaseupd (image : List Byte) (s : State) : Out :=
  .next (if s.stripping ∨ !baseValid false (some image) then s.status 1
    else ({ s with boot := { s.boot with
      flash := s.boot.flash.put ((s.boot.lastCopy + 1).zeroExtend 2) (some image) } }).status 0)
/-- I3C_NAK: an unlisted code or a wrong length (R51). -/
def execI3cNak (code : BitVec 8) (s : State) : Out := let _ := code; .next (s.reply none)

/-! ### Firmware loading, keys and quotes of the host (R55, R60-R63) -/

/-- The host asks for a firmware load: ignored while one runs; without a lease it ends at once (R55, R63). Without a base
runtime nothing loads (log 29). -/
def State.startLoad (s : State) : State :=
  if s.boot.fwst = 1 ∨ !s.hasRuntime then s
  else { s with boot := { s.boot with fwst := if s.boot.lease = .enrolled then 1 else 4 } }
/-- FWCTL_GO: a write of FWCTL (R63). -/
def execFwctlGo (s : State) : Out := .next (guarded s.windowOpen s.startLoad s)
/-- FW_LOAD_DONE: the image is checked and written to the customer slot (R55, R63). -/
def execFwLoadDone (fail : BitVec 1) (s : State) : Out :=
  let b := s.boot
  .next (if b.fwst ≠ 1 then s
    else if fail = 1 then { s with boot := { b with fwst := 5 } }
    else if 2 ^ 24 + 256 < b.fwLen.toNat then { s with boot := { b with fwst := 3 } }
    else
      let img := s.host.bytes b.fwAddr.toNat b.fwLen.toNat
      match imageFault img false 2 b.keyHash b.minVer.toNat with
      | some _ => { s with boot := { b with fwst := 3 } }
      | none => { s with boot := { b with fwst := 2, flash := b.flash.put 2 (some img) } })

/-- A key pair put into its place. -/
def putKey (n : BitVec 12) (k t : BitVec 128) : List (BitVec 12 × BitVec 128 × BitVec 128) →
    List (BitVec 12 × BitVec 128 × BitVec 128)
  | [] => [(n, k, t)]
  | p :: r => if n.toNat < p.1.toNat then (n, k, t) :: p :: r
    else if n = p.1 then (n, k, t) :: r else p :: putKey n k t r

/-- A key command ends: KEYDATA is cleared (R60). -/
def State.keyDone (s : State) (status : BitVec 2) (f : Boot → Boot) : State :=
  { s with boot := { f s.boot with keyStatus := status, keyData := RegFile.fill 2 0 } }
/-- The refusals that LOAD and ZERO share: BUSY, then IN_USE (R60). -/
def State.keyRefusal (s : State) : Option (BitVec 2) :=
  if s.stripping ∨ s.boot.stage = .romhalt then some 3
  else if (s.entry s.boot.keySel).valid then some 1 else none
/-- LOAD of KEYCMD (R60). -/
def State.keyLoad (s : State) : State :=
  let b := s.boot
  let data := b.keyData.get 1 ++ b.keyData.get 0
  let tweak := b.keyData.get 3 ++ b.keyData.get 2
  match s.keyRefusal with
  | some e => s.keyDone e id
  | none => if data = tweak then s.keyDone 2 id
    else s.keyDone 0 fun b => { b with keys := putKey b.keySel data tweak b.keys }
/-- KEYCMD_LOAD: while a strip runs it answers BUSY (R60; log 102). -/
def execKeycmdLoad (s : State) : Out := .next (guarded s.resetRun.isNone s.keyLoad s)
/-- ZERO of KEYCMD (R60). -/
def State.keyZero (s : State) : State :=
  match s.keyRefusal with
  | some e => s.keyDone e id
  | none => s.keyDone 0 fun b => { b with keys := b.keys.filter fun k => k.1 != b.keySel }
/-- KEYCMD_ZERO (R60; log 102). -/
def execKeycmdZero (s : State) : Out := .next (guarded s.resetRun.isNone s.keyZero s)

/-- The host asks for a quote over QNONCE0-3; DONE clears (R62, R63). Without a base runtime nothing happens (log 29). -/
def State.askQuote (s : State) : State :=
  let n := s.boot.qnonce
  if !s.hasRuntime then s
  else { s with boot := { s.boot with
    qdone := false
    quotes := s.boot.quotes ++ [⟨n.get 3 ++ n.get 2 ++ n.get 1 ++ n.get 0, true⟩] } }
/-- QCTL_GO: a write of QCTL (R62, R63). -/
def execQctlGo (s : State) : Out := .next (guarded s.windowOpen s.askQuote s)
/-- A quote (R61). -/
def State.quote (s : State) (nonce : BitVec 256) : List Byte :=
  let b := s.boot
  let body := bytesOf 4 0x5451594C ++ bytesOf 4 1 ++ bytesOf 8 (fieldOf b.stripRec 8 8) ++ bytesOf 32 nonce.toNat ++
    bytesOf 32 (b.meas.get 0).toNat ++ bytesOf 32 (b.meas.get 1).toNat ++ bytesOf 32 (b.meas.get 2).toNat ++
    bytesOf 32 (if b.lease = .vacant then 0 else b.keyHash.toNat) ++ bytesOf 8 b.resets.toNat ++ bytesOf 8 0
  body ++ bytesOf 64 (Config.sm2Sign b.drbg body).toNat
/-- QUOTE_DONE: the oldest request is answered; DONE is set for the host's last GO alone (R62, R63). -/
def execQuoteDone (s : State) : Out :=
  .next (match s.boot.quotes with
    | [] => s
    | q :: r =>
      let a := s.quote q.nonce
      let s := State.reseed { s with boot := { s.boot with quotes := r } }
      if q.byHost then { s with boot := { s.boot with qbuf := a, qdone := !r.any (·.byHost) } }
      else s.reply (some (0 :: a)))

end Sys2Proof.Machine
end

