-- ==== Sys2Proof/Machine/SaveArea.lean ====
section
/-!
DEFINITION. The save area (05 R97-R99): its records as bytes, as a save writes them and as a restore loads them (08 R145,
R146, 13 R254, R257, 15 R305, 18 R359, R369, 20 R406).
-/
namespace Sys2Proof.Machine
open Sys2Proof

/-- A run of zero bytes. -/
def zeroBytes (n : Nat) : List Byte := List.replicate n 0
/-- Values of `n` bytes each, in order. -/
def row (n : Nat) (l : List Nat) : List Byte := l.flatMap (bytesOf n)
/-- A register file as a row. -/
def rowOf {α : Type} {k : Nat} (n : Nat) (r : RegFile α k) (f : α → Nat) : List Byte := row n (r.toList.map f)

/-- Where the fields of a record are read: the value of `n` bytes at an offset. -/
abbrev Reader := Nat → Nat → Nat
/-- A reader moved up. -/
def Reader.from (r : Reader) (base : Nat) : Reader := fun off n => r (base + off) n
/-- A register file read from a row. -/
def Reader.regs {α : Type} (r : Reader) (k base n : Nat) (f : Nat → α) (z : α) : RegFile α k :=
  (List.range (2 ^ k)).foldl (fun t i => t.put (BitVec.ofNat k i) (f (r (base + n * i) n))) (RegFile.fill k z)

/-! ### Cells -/

/-- A shape register as 40 bytes (R146). -/
def Shape.number (h : Shape) : Nat :=
  h.base.toNat + packLanes 16 (h.e.toList.map (·.toNat)) * 2 ^ 64 + packLanes 32 (h.s.toList.map (·.toNat)) * 2 ^ 128 +
  h.esz.toNat * 2 ^ 256
/-- A shape register from its number. -/
def Shape.ofNumber (x : Nat) : Shape where
  base := BitVec.ofNat 64 x
  e := (List.range 4).foldl (fun t i => t.put (BitVec.ofNat 2 i) (BitVec.ofNat 16 (x / 2 ^ (64 + 16 * i)))) (RegFile.fill 2 0)
  s := (List.range 4).foldl (fun t i => t.put (BitVec.ofNat 2 i) (BitVec.ofNat 32 (x / 2 ^ (128 + 32 * i)))) (RegFile.fill 2 0)
  esz := BitVec.ofNat 2 (x / 2 ^ 256)

/-- A ring descriptor as 16 bytes (R145). -/
def Ring.number (q : Ring) : Nat :=
  q.base.toNat + q.tsz.toNat * 2 ^ 17 + q.cap.toNat * 2 ^ 21 + b2n q.hold * 2 ^ 29 + q.fmt.toNat * 2 ^ 32 + b2n q.side * 2 ^ 36 +
  q.head.toNat * 2 ^ 64 + q.tail.toNat * 2 ^ 80
/-- A ring's state as 8 bytes (R97, R359). -/
def Ring.stateNumber (q : Ring) : Nat := q.rp.toNat + b2n q.empt * 2 ^ 16 + b2n q.full * 2 ^ 17
/-- A ring from its descriptor and its state. -/
def Ring.ofNumbers (x y : Nat) : Ring where
  base := BitVec.ofNat 17 x
  tsz := BitVec.ofNat 4 (x / 2 ^ 17)
  cap := BitVec.ofNat 8 (x / 2 ^ 21)
  hold := x / 2 ^ 29 % 2 == 1
  fmt := BitVec.ofNat 4 (x / 2 ^ 32)
  side := x / 2 ^ 36 % 2 == 1
  head := BitVec.ofNat 16 (x / 2 ^ 64)
  tail := BitVec.ofNat 16 (x / 2 ^ 80)
  rp := BitVec.ofNat 16 y
  empt := y / 2 ^ 16 % 2 == 1
  full := y / 2 ^ 17 % 2 == 1

/-- The condition bits, A and the activity stack as 8 bytes; the list holds the newest entry first (R97, R116). -/
def Cell.condNumber (c : Cell) : Nat :=
  packLanes 1 (c.c.toList.map b2n) + b2n c.act * 2 ^ 4 + c.stack.length * 2 ^ 8 + packLanes 1 (c.stack.reverse.map b2n) * 2 ^ 16
/-- The liveness of the banks and the validity of their shadows, as 8 bytes (R97). -/
def Cell.bankNumber (c : Cell) (forced : Bool) : Nat :=
  packLanes 1 (c.acc.toList.map fun b => b2n b.live) + packLanes 1 (c.acc.toList.map fun b => b2n (forced && b.shadow.isSome)) * 2 ^ 8
/-- A hawk entry's 8 bytes, with the cycles that remain to it (R97, R162). -/
def HawkEntry.number (h : HawkEntry) (cyc : Nat) : Nat :=
  (h.due - cyc) % 2 ^ 12 + (match h.dest with | .v k => k % 32 * 2 ^ 16 | .b k => k % 32 * 2 ^ 16 + 2 ^ 22 | _ => 0) + 2 ^ 31
/-- A guard table entry's 16 bytes (R97, R158). -/
def GuardEntry.number (g : GuardEntry) : Nat :=
  g.lo % 2 ^ 17 + g.hi % 2 ^ 17 * 2 ^ 32 + g.tl.toNat * 2 ^ 56 + g.num % 2 ^ 64 * 2 ^ 64
/-- A list of numbers filled with zeros up to a length. -/
def padTo (n : Nat) (l : List Nat) : List Nat := l.take n ++ List.replicate (n - l.length) 0

/-- The record of a cell whose die stands at pipeline cycle `cyc` (R97). -/
def Cell.save (c : Cell) (forced : Bool) (cyc : Nat) : List Byte :=
  let hawk := if forced then c.hawk else []
  c.pad.bytes 0 padSize ++ rowOf 64 c.v (·.toNat) ++ rowOf 256 c.acc (·.data.toNat) ++
  rowOf 256 c.acc (fun b => if forced && b.live then (b.shadow.getD 0).toNat else 0) ++
  row 64 (padTo 32 (hawk.map fun h => (h.data.getD 0).toNat)) ++
  row 4 ((List.range 16).map fun i => (c.getB (BitVec.ofNat 4 i)).toNat) ++
  row 2 ((List.range 8).map fun i => (c.getM (BitVec.ofNat 3 i)).toNat) ++
  bytesOf 8 c.condNumber ++ bytesOf 8 (c.bankNumber forced) ++
  rowOf 40 c.h Shape.number ++ rowOf 16 c.q Ring.number ++ rowOf 8 c.q Ring.stateNumber ++ rowOf 2 c.y (·.toNat) ++
  (List.range 4).flatMap (fun k => bytesOf 8 (c.tl.get (BitVec.ofNat 2 k)) ++ bytesOf 8 (c.issue.get (BitVec.ofNat 2 k))) ++
  bytesOf 8 c.cflags.word.toNat ++ bytesOf 8 (c.rc0.toNat + c.rc1.toNat * 2 ^ 16 + c.exh.toNat * 2 ^ 32) ++
  bytesOf 8 c.monlast.toNat ++ rowOf 4 c.acc (·.record.toNat) ++ zeroBytes 8 ++
  row 8 (padTo 32 (hawk.map fun h => h.number cyc)) ++ row 16 (padTo 16 (c.guards.map GuardEntry.number)) ++
  bytesOf 8 (min 16 c.guards.length) ++ zeroBytes 760

/-- The hawk entries of a record. -/
def Reader.hawk (r : Reader) (cyc : Nat) : List HawkEntry :=
  (List.range 32).filterMap fun k =>
    let x := r (0x22300 + 8 * k) 8
    if x / 2 ^ 31 % 2 = 1 then
      let n := x / 2 ^ 16 % 32
      some ⟨if x / 2 ^ 22 % 4 = 1 then .b n else .v n, cyc + x % 2 ^ 12, 0, 0, some (BitVec.ofNat 512 (r (0x21800 + 64 * k) 64))⟩
    else none
/-- The guard entries of a record. -/
def Reader.guards (r : Reader) : List GuardEntry :=
  (List.range (min 16 (r 0x22500 8 % 32))).map fun k =>
    let x := r (0x22400 + 16 * k) 16
    ⟨x % 2 ^ 17, x / 2 ^ 32 % 2 ^ 17, BitVec.ofNat 2 (x / 2 ^ 56), x / 2 ^ 64 % 2 ^ 64⟩
/-- A cell loaded from its record; what no field of the record holds stays as it was (R99; log 39). -/
def Cell.restore (c : Cell) (r : Reader) (cyc : Nat) : Cell :=
  let cond := r 0x22050 8
  let bank := r 0x22058 8
  { c with
    pad := Mem.putBytes [] 0 (bytesOf padSize (r 0 padSize))
    v := r.regs 5 0x20000 64 (BitVec.ofNat 512) 0
    b := r.regs 4 0x22000 4 (BitVec.ofNat 32) 0
    m := r.regs 3 0x22040 2 (BitVec.ofNat 16) 0
    c := (List.range 4).foldl (fun t i => t.put (BitVec.ofNat 2 i) (cond / 2 ^ i % 2 == 1)) (RegFile.fill 2 false)
    act := cond / 2 ^ 4 % 2 == 1
    stack := ((List.range (min 8 (cond / 2 ^ 8 % 16))).map fun i => cond / 2 ^ (16 + i) % 2 == 1).reverse
    acc := (List.range 8).foldl (fun t i => t.put (BitVec.ofNat 3 i)
      ⟨BitVec.ofNat 2048 (r (0x20800 + 256 * i) 256), bank / 2 ^ i % 2 == 1,
       if bank / 2 ^ (8 + i) % 2 = 1 then some (BitVec.ofNat 2048 (r (0x21000 + 256 * i) 256)) else none,
       BitVec.ofNat 32 (r (0x222D8 + 4 * i) 4)⟩) (RegFile.fill 3 BankState.entry)
    q := (List.range 8).foldl (fun t i => t.put (BitVec.ofNat 3 i)
      (Ring.ofNumbers (r (0x221A0 + 16 * i) 16) (r (0x22220 + 8 * i) 8))) (RegFile.fill 3 Ring.entry)
    h := r.regs 3 0x22060 40 Shape.ofNumber Shape.entry
    y := r.regs 4 0x22260 2 (BitVec.ofNat 16) 0
    tl := r.regs 2 0x22280 16 (· % 2 ^ 64) 0
    issue := r.regs 2 0x22280 16 (· / 2 ^ 64) 0
    cflags := CFlags.ofWord (BitVec.ofNat 64 (r 0x222C0 8))
    rc0 := BitVec.ofNat 16 (r 0x222C8 8)
    rc1 := BitVec.ofNat 16 (r 0x222C8 8 / 2 ^ 16)
    exh := BitVec.ofNat 16 (r 0x222C8 8 / 2 ^ 32)
    monlast := BitVec.ofNat 64 (r 0x222D0 8)
    hawk := r.hawk cyc
    guards := r.guards
    waited := none }

/-! ### Dies -/

/-- The record of a logical die (R97). -/
def Die.save (d : Die) (forced : Bool) : List Byte :=
  rowOf 4 d.k (·.toNat) ++ bytesOf 8 d.done ++ bytesOf 8 d.cyc.toNat ++ bytesOf 8 d.late.toNat ++ zeroBytes 65496 ++
  d.cells.flatMap fun c => c.save forced d.cyc.toNat
/-- The size of a cell record. -/
def cellRecord : Nat := 141312
/-- The size of a die record. -/
def dieRecord : Nat := 226164736
/-- A die loaded from its record. -/
def Die.restore (d : Die) (r : Reader) : Die :=
  let cyc := r 0x18 8
  { d with
    k := r.regs 2 0 4 (BitVec.ofNat 32) 0
    done := r 0x10 8
    deq := r 0x10 8
    used := 0
    ahead := none
    cyc := BitVec.ofNat 64 cyc
    late := BitVec.ofNat 64 (r 0x20 8)
    cells := d.cells.mapIdx fun i (c : Cell) => c.restore (r.from (65536 + cellRecord * i)) cyc }

/-! ### The context header -/

/-- A join object's 16 bytes (R305). -/
def Join.number (j : Join) : Nat :=
  j.exp.toNat + j.rdy.toNat * 2 ^ 24 + j.arr.toNat * 2 ^ 32 + j.pend.toNat * 2 ^ 64 + j.drop.toNat * 2 ^ 96 +
  b2n j.valid * 2 ^ 120 + b2n j.spent * 2 ^ 121
/-- A join object from its bytes. -/
def Join.ofNumber (x : Nat) : Join :=
  ⟨BitVec.ofNat 24 x, BitVec.ofNat 8 (x / 2 ^ 24), BitVec.ofNat 32 (x / 2 ^ 32), BitVec.ofNat 32 (x / 2 ^ 64),
   BitVec.ofNat 24 (x / 2 ^ 96), x / 2 ^ 120 % 2 == 1, x / 2 ^ 121 % 2 == 1⟩

/-- The slot of a special register in the save area (R406). -/
def State.savedSpecial (s : State) (c : BitVec 4) (n : Nat) : Nat :=
  if n = 12 ∨ 32 ≤ n then 0 else (s.readSpecial c n).toNat

/-- The trap state's 1,024 bytes (R257). -/
def Slot.trapState (x : Slot) : List Byte :=
  bytesOf 64 x.ctx.trec.toNat ++ bytesOf 8 x.tstate.toNat ++ bytesOf 8 x.ctx.tsEarly.toNat ++ bytesOf 8 x.ctx.trbNext.toNat ++
  bytesOf 8 x.ctx.trbHigh.toNat ++ zeroBytes 160 ++ rowOf 8 x.ctx.dtab (·.toNat) ++ zeroBytes 256

/-- The F and the S of a forced save's record: those of its freeze, or in a handler the F of the freeze it serves and the
address of the next handler bundle (R93). -/
def Ctx.forcedPoint (y : Ctx) (k : SaveKind) : Nat × Xword :=
  match k, y.freeze with
  | .forcedHandler, _ => (bits y.trec 255 192, y.pc)
  | _, some z => (z.ff, z.stop)
  | _, none => (y.sent, y.pc)
/-- The class 6 record of a forced save (R93, R254). -/
def State.forcedRec (s : State) (c : BitVec 4) (k : SaveKind) : BitVec 512 :=
  let p := (s.slot c).ctx.forcedPoint k
  s.freezeRec c ⟨true, none, p.1, p.2, .preemption, 7, none, none, 0xFF, 0⟩ p.2

/-- Whether a save is forced. -/
def SaveKind.isForced : SaveKind → Bool
  | .forced | .forcedHandler => true
  | .yield | .step => false
/-- The context header (R97, R121). -/
def State.saveHeader (s : State) (c : BitVec 4) (k : SaveKind) : List Byte :=
  let x := s.slot c
  let p := x.ctx.forcedPoint k
  let f := k.isForced
  bytesOf 4 0x5653594C ++ bytesOf 2 1 ++ bytesOf 1 c.toNat ++ bytesOf 1 (b2n f + 2 * b2n x.vbound) ++
  bytesOf 8 (if f then p.1 + 1 else x.ctx.bsn) ++ bytesOf 8 (if f then p.2 else x.ctx.pc).toNat ++
  row 1 [x.n, x.h, x.w, 8 * x.row + x.col] ++ zeroBytes 36 ++
  row 8 ((List.range 32).map fun i => (x.ctx.getX (BitVec.ofNat 5 i)).toNat) ++ rowOf 8 x.ctx.g (·.toNat) ++
  row 8 ((List.range 128).map (s.savedSpecial c)) ++ rowOf 16 x.ctx.joins Join.number ++
  (match k with
   | .forced => row 8 (padTo 64 (x.ctx.dies.map (·.done)))
   | .forcedHandler => rowOf 8 x.ctx.dtab (·.toNat)
   | _ => zeroBytes 512) ++
  x.trapState ++ (if f then bytesOf 64 (s.forcedRec c k).toNat else zeroBytes 64) ++ zeroBytes 61504
/-- The save area of a context (R97). -/
def State.saveArea (s : State) (c : BitVec 4) (k : SaveKind) : List Byte :=
  s.saveHeader c k ++ (s.slot c).ctx.dies.flatMap fun d => d.save k.isForced

/-! ### Through the save handle (R98) -/

/-- A run of the save area in memory. -/
def State.savePlace (s : State) (x : Slot) (off n : Nat) (k : Access) : Except Cause Run :=
  translateHandle (s.entry x.desc.saveh) x.desc.saveh (s.keyed x.desc.saveh) off n k true
/-- The fields of a save area as memory holds them. -/
def State.saveReader (s : State) (x : Slot) : Reader := fun off n =>
  match s.savePlace x off n .read with
  | .ok r => ofBytes (s.rdRun r)
  | .error _ => 0

/-- The special registers that a restore loads (R406): a pending CLKMODE stays as it is, for no field of the area holds
its value (log 39). -/
def Ctx.restoreSpecial (y : Ctx) (r : Reader) : Ctx :=
  let w := fun (n : Nat) => BitVec.ofNat 64 (r (0x180 + 8 * n) 8)
  { y with
    fpctl := BitVec.ofNat 64 (bits (w 0) 8 0)
    fixed := bit (w 1) 0
    stagger := BitVec.ofNat 8 (bits (w 1) 11 4)
    coatctl := coatWord (w 2).toNat
    budget := budgetWord (w 3).toNat
    guard := BitVec.ofNat 64 (bits (w 4) 0 0)
    dieMask := w 5 &&& maskOf y.dies.length
    preemptLimit := BitVec.ofNat 32 (bits (w 6) 31 0)
    tvec := BitVec.ofNat 64 (bits (w 7) 63 2 * 4)
    tscr0 := w 8
    tscr1 := w 9
    trips := BitVec.ofNat 32 (bits (w 10) 63 32)
    tripReg := BitVec.ofNat 16 (bits (w 10) 31 16)
    cyc := w 11
    stretch := w 13
    thrCyc := w 14
    tripCyc := w 15
    holdCyc := w 16
    replay0 := w 17
    replay1 := w 18
    exhaust := w 19
    lastMark := w 20 }

/-- The trap state that a restore loads (R99, R257). -/
def Ctx.restoreTrap (y : Ctx) (r : Reader) : Ctx :=
  let t := r 0x40 8
  { y with
    trec := BitVec.ofNat 512 (r 0 64)
    inHandler := t % 2 == 1
    rebroadcast := t / 2 % 2 == 1
    stepDeferred := t / 4 % 2 == 1
    haltTaken := t / 8 % 2 == 1
    tsEarly := BitVec.ofNat 64 (r 0x48 8)
    trbNext := BitVec.ofNat 64 (r 0x50 8)
    trbHigh := BitVec.ofNat 64 (r 0x58 8)
    dtab := r.regs 6 0x100 8 (BitVec.ofNat 64) 0 }

/-- Where a restored context continues (R99): after a forced save outside a handler by rebroadcast from min(D_d) + 1. The
last BSN is that of the save's F, or of a rebroadcast that the save interrupted (R124). -/
def Ctx.restorePoint (y : Ctx) (r : Reader) (old : Nat) : Ctx :=
  let forced := r 7 1 % 2 == 1
  let f := r 8 8 - 1
  let high := if y.inHandler || y.rebroadcast || y.resume.isSome then max f old else f
  let least := ((List.range y.dies.length).map fun d => r (0x980 + 8 * d) 8).foldl min f
  { y with
    pc := BitVec.ofNat 64 (if forced && y.inHandler then r (0xF80 + 32) 8 else r 0x10 8)
    bsn := if forced then high + 1 else r 8 8
    resume := if forced && !y.inHandler then some ⟨least, least + 1, high⟩ else none }

/-- A control core and its dies loaded from a save area (R97, R99). -/
def Ctx.restore (y : Ctx) (r : Reader) : Ctx :=
  let old := y.resendHigh
  let y := { y with
    x := r.regs 5 0x40 8 (BitVec.ofNat 64) 0
    g := r.regs 3 0x140 8 (BitVec.ofNat 64) 0
    joins := r.regs 6 0x580 16 Join.ofNumber Join.entry
    dies := y.dies.mapIdx fun d (x : Die) => x.restore (r.from (65536 + dieRecord * d))
    freeze := none
    ybar := none
    counted := []
    used := 0
    lines := [] }
  let y := { y with dies := y.dies.map fun (d : Die) => { d with fault := none, flag := false } }
  ((y.restoreSpecial r).restoreTrap (r.from 0xB80)).restorePoint r old

end Sys2Proof.Machine
end

