-- ==== Sys2Proof/Machine/Scheduler.lean ====
section
/-!
DEFINITION. The scheduler: die sets, the waiting order, pre-emption, STEP, save and restore, and the end of contexts (05
R81-R99, R101, 07 R126, R127, R138, 13 R259, 15 R302, R313).
-/
namespace Sys2Proof.Machine
open Sys2Proof

/-! ### Rectangles (R82, R83, R87) -/

/-- A rectangle of the die grid. -/
structure Rect where
  row : Nat
  col : Nat
  h : Nat
  w : Nat
  deriving DecidableEq, Repr

/-- Its die count. -/
def Rect.n (r : Rect) : Nat := r.h * r.w
/-- The physical index of its die in a row and a column of it. -/
def Rect.die (r : Rect) (i j : Nat) : BitVec 6 := BitVec.ofNat 6 (8 * (r.row + i) + (r.col + j))
/-- Its dies by logical index (R83). -/
def Rect.dies (r : Rect) : List (BitVec 6) := (List.range r.n).map fun ld => r.die (ld / r.w) (ld % r.w)
/-- The rectangle of a slot. -/
def Slot.rect (x : Slot) : Rect := ⟨x.row, x.col, x.h, x.w⟩
/-- The rectangles of the grid. -/
def allRects : List Rect :=
  (List.range 8).flatMap fun i => (List.range 8).flatMap fun j =>
    (List.range (8 - i)).flatMap fun h => (List.range (8 - j)).map fun w => ⟨i, j, h + 1, w + 1⟩
/-- The keys of R82 as one number, the least first: the largest n, the smallest |h − w|, the smallest h, the smallest
corner. -/
def Rect.key (r : Rect) : Nat :=
  (64 - r.n) * 2 ^ 24 + (if r.h < r.w then r.w - r.h else r.h - r.w) * 2 ^ 16 + r.h * 2 ^ 8 + (8 * r.row + r.col)
/-- The rectangle that R82's keys choose among those that meet a condition. -/
def bestRect (ok : Rect → Bool) : Option Rect :=
  (allRects.filter ok).foldl (fun best r =>
    match best with
    | none => some r
    | some b => if r.key < b.key then some r else best) none

/-- A die is free: online, held by no context, reserved for none (R82). -/
def State.dieFree (s : State) (p : BitVec 6) : Bool :=
  !(s.columns.get p).offline && (s.pdies.get p).owner.isNone && (s.pdies.get p).reserved.isNone
/-- The candidate of a waiting or saved context when the dies that meet `free` are free (R82, R87). -/
def State.candidate (s : State) (c : BitVec 4) (free : BitVec 6 → Bool) : Option Rect :=
  let x := s.slot c
  if x.state = .saved then
    if x.vbound then
      (if x.pdies.all (fun p => !(s.columns.get p).offline && (s.pdies.get p).owner.isNone && (s.pdies.get p).reserved == some c)
       then some x.rect else none)
    else bestRect fun r => r.h == x.h && r.w == x.w && r.dies.all free
  else bestRect fun r => decide (x.desc.mindie ≤ r.n ∧ r.n ≤ x.desc.maxdie) && r.dies.all free
/-- Whether some rectangle of online dies meets a context's bounds, whoever holds them; it is asked when the context is
first considered (R17, R81). -/
def State.placeable (s : State) (c : BitVec 4) : Bool :=
  (s.slot c).state != .waiting || (s.slot c).considered || (s.candidate c fun p => !(s.columns.get p).offline).isSome
/-- The control cores that no context holds (R90). -/
def State.freeCores (s : State) : List (BitVec 3) :=
  ((List.range 8).map (BitVec.ofNat 3)).filter fun k => allSlots.all fun c => (s.slot c).coreHeld != some k

/-! ### The waiting order (R85, R86) -/

/-- Whether one waiting context stands before another: effective priority, then launch time, then slot (log 40). -/
def State.before (s : State) (a b : BitVec 4) : Bool :=
  let x := s.slot a
  let y := s.slot b
  let p := x.eprio s.time
  let q := y.eprio s.time
  decide (q < p ∨ (p = q ∧ (x.launchTime < y.launchTime ∨ (x.launchTime = y.launchTime ∧ a.toNat ≤ b.toNat))))
/-- A slot put into the waiting order. -/
def State.insertWaiter (s : State) (c : BitVec 4) : List (BitVec 4) → List (BitVec 4)
  | [] => [c]
  | d :: r => if s.before c d then c :: d :: r else d :: s.insertWaiter c r
/-- The waiting order (R86). -/
def State.waitingOrder (s : State) : List (BitVec 4) :=
  (allSlots.filter fun c => (s.slot c).state.waits).foldr s.insertWaiter []
/-- Whether a context has held effective priority 7 for 10 ms without running (R86). -/
def State.overdue (s : State) (c : BitVec 4) : Bool :=
  let x := s.slot c
  x.state.waits && decide (x.since + msPs (10 * (7 - x.prio.toNat)) + msPs 10 ≤ s.time)

/-! ### Allocation (R78, R82, R90, R138) -/

/-- A start of issue: in ELASTIC mode with STAGGER not 0 the dies of the set's first region begin, the others wait for
theirs (R138). -/
def Slot.stagger (x : Slot) (time : Nat) : Slot :=
  let first := x.regions.head?
  { x with
    issueSince := time
    ctx := { x.ctx with dies := x.ctx.dies.mapIdx fun d (y : Die) =>
      { y with started := x.ctx.fixed || x.ctx.stagger == 0 || some (regionOf (x.phys d)) == first } } }
/-- The dies of a rectangle go to a context; one that comes to it newly counts its trips from then on. Self-refresh has
run up to now (R184). -/
def State.holdDies (s : State) (c : BitVec 4) (r : Rect) : State :=
  r.dies.foldl (fun s p => s.onPdie p fun q =>
    let q := q.selfCatch s.time
    { q with owner := some c, reserved := none, pads := [], trips := if q.owner = some c then q.trips else 0 }) s
/-- A context releases every die it holds or has reserved; self-refresh resumes there if it had ended (R94, R184). -/
def State.freeDies (s : State) (c : BitVec 4) : State :=
  let bound := (s.slot c).vbound
  State.fillWalks { s with
    pdies := s.pdies.map fun p =>
      let p := p.dropWalks fun w => w.slot == c
      if p.owner = some c ∨ p.reserved = some c then
        { p with owner := none, reserved := none, selfNext := if bound && p.owner == some c then s.time else p.selfNext }
      else p }

/-- What came for a context while it had no dies reaches it: join arrivals, pod accesses (R47, R97; log 20). -/
def State.catchUp (s : State) (c : BitVec 4) : State :=
  let x := s.slot c
  let mine := fun (h : HeldPod) => x.desc.podgrp != 0 && h.acc.group == x.desc.podgrp
  let s := s.onSlot c fun x => { x with lateJoins := [], ctx := x.lateJoins.foldl Ctx.arrive x.ctx }
  { s with
    podArrived := s.podArrived ++ (s.podHeld.filter mine).map fun h => (h.link, PodBody.access h.acc)
    podHeld := s.podHeld.filter fun h => !mine h }

/-- A context takes a rectangle and a control core: one that has not run starts as R78 states, and takes what pod accesses are
held for it (R47); a saved one is restored (R90). -/
def State.allocate (s : State) (c : BitVec 4) (r : Rect) (core : BitVec 3) : State :=
  let saved := (s.slot c).state == .saved
  let s := (s.holdDies c r).onSlot c fun x => { x with core := some core, row := r.row, col := r.col, h := r.h, w := r.w }
  if saved then s.onSlot c fun x => { x with state := .restoring, waited := s.time - x.since }
  else (s.onSlot c fun x =>
    ({ x with
      state := .running, ranSince := s.time, progress := s.time
      ctx := { Ctx.entry x.desc r.n cellsPerDie with podIn := x.ctx.podIn } }).stagger s.time).catchUp c

/-- The scheduler considers the contexts of the waiting order in turn (R81, R82, R86). -/
def State.considerAll : List (BitVec 4) → State → State
  | [], s => s
  | c :: r, s =>
    if !s.placeable c then State.considerAll r (s.kill c (DeadInfo.plain .dieSet))
    else
      let s := s.onSlot c fun x => { x with considered := true }
      match s.candidate c s.dieFree, s.freeCores with
      | some q, k :: ks =>
        let (i, s) := s.choose (ks.length + 1)
        State.considerAll r (s.allocate c q (((k :: ks)[i]?).getD k))
      | _, _ => if s.overdue c then s else State.considerAll r s

/-! ### Pre-emption (R88, R91, R93) -/

/-- Requests whose waiter has been allocated or is dead are withdrawn (R91). -/
def State.withdraw (s : State) : State :=
  allSlots.foldl (fun s c =>
    if (s.slot c).state = .saving ∨ (s.slot c).save.isSome then s else s.onSlot c fun x => { x with request := s.asked c }) s
/-- Whether one victim is taken before another: lowest base priority, then latest launch time, then slot (log 40). -/
def State.victimBefore (s : State) (a b : BitVec 4) : Bool :=
  let x := s.slot a
  let y := s.slot b
  decide (x.prio.toNat < y.prio.toNat ∨ (x.prio = y.prio ∧
    (y.launchTime < x.launchTime ∨ (x.launchTime = y.launchTime ∧ a.toNat ≤ b.toNat))))
/-- A slot put into the order of victims. -/
def State.insertVictim (s : State) (c : BitVec 4) : List (BitVec 4) → List (BitVec 4)
  | [] => [c]
  | d :: r => if s.victimBefore c d then c :: d :: r else d :: s.insertVictim c r
/-- The possible victims for a waiting context, in order (R88). -/
def State.victims (s : State) (w : BitVec 4) : List (BitVec 4) :=
  (allSlots.filter fun c =>
    let x := s.slot c
    x.state == .running && decide (x.prio.toNat < (s.slot w).eprio s.time) && decide (x.ranSince + msPs 1 ≤ s.time)).foldr
      s.insertVictim []
/-- The free dies together with those of some victims, vault-bound ones apart (R88). -/
def State.freeWith (s : State) (vs : List (BitVec 4)) (p : BitVec 6) : Bool :=
  s.dieFree p || (!(s.columns.get p).offline && vs.any fun v => !(s.slot v).vbound && (s.pdies.get p).owner == some v)
/-- Victims are added one at a time until they are enough; if all are not enough, none is chosen (R88). -/
def State.pickVictims (s : State) (w : BitVec 4) : List (BitVec 4) → List (BitVec 4) → List (BitVec 4)
  | _, [] => []
  | taken, v :: r =>
    let taken := taken ++ [v]
    if (s.candidate w (s.freeWith taken)).isSome then taken else s.pickVictims w taken r

/-- Pre-emption requests of a nominal cycle of the clock mode in ps (R93). -/
def Ctx.nominal (y : Ctx) : Nat := if y.fixed then 500 else 400
/-- The chosen victims are asked to yield; each counts its PREEMPT_LIMIT from now (R88, R93). -/
def State.ask (s : State) (w : BitVec 4) (vs : List (BitVec 4)) : State :=
  vs.foldl (fun s v => s.onSlot v fun x =>
    { x with request := match x.request with
      | some r => some r
      | none => some ⟨s.time + x.ctx.preemptLimit.toNat * x.ctx.nominal, w, (s.slot w).life⟩ }) s
/-- The scheduler looks for victims for the first context of the waiting order, unless some are already asked for it
(R88). -/
def State.preempt (s : State) : State :=
  match s.waitingOrder with
  | [] => s
  | w :: _ =>
    if allSlots.any fun c => (s.slot c).request.any fun r => r.waiter == w && r.life == (s.slot w).life then s
    else s.ask w (s.pickVictims w [] (s.victims w))

/-- SCHEDULER_DECISION: at the events of R86 and every 1 ms. -/
def execSchedulerDecision (s : State) : Out :=
  .next (guarded (s.resetRun.isNone && (s.schedDue || decide (s.schedAt + msPs 1 ≤ s.time)))
    (let s := { s with schedDue := false, schedAt := s.time }
     ((State.considerAll s.waitingOrder s).withdraw).preempt) s)

/-- PREEMPT_LIMIT_EXPIRY: with no yield point by then, the set is frozen and a forced save begins; in a handler, which
has drained, without a freeze (R93). -/
def execPreemptLimitExpiry (c : BitVec 4) (s : State) : Out :=
  let x := s.slot c
  let y := x.ctx
  .next (match s.asked c with
    | none => s
    | some r =>
      if x.state ≠ .running ∨ x.save.isSome ∨ y.freeze.isSome ∨ s.time < r.deadline then s
      else if y.inHandler then s.onSlot c fun x => { x with state := .saving, save := some .forcedHandler }
      else s.onSlot c fun x =>
        { x with state := .saving,
                 ctx := { x.ctx with freeze := some ⟨true, none, y.sent, y.pc, .preemption, 7, none, none, 0xFF, 0⟩ } })

/-! ### Save and restore (R92-R94, R97-R99) -/

/-- Whether tree results on their way have come: those that a freeze has cancelled have no value yet (R119). -/
def Ctx.treeQuiet (y : Ctx) : Bool := y.tree.all fun t => t.value.isNone
/-- Whether what a save waits for has ended (R92, R93). -/
def Slot.savable (x : Slot) (k : SaveKind) : Bool :=
  x.ctx.treeQuiet &&
  match k with
  | .yield | .step => x.ctx.freeze.isNone && decide (x.ctx.sent ≤ x.ctx.dmin) && x.ctx.quiet true
  | .forced => x.ctx.drained && x.ctx.quiet false
  | .forcedHandler => x.ctx.quiet false
/-- Yields whose sets have drained begin to save (R90, R92). -/
def State.beginSaves (s : State) : State :=
  allSlots.foldl (fun s c =>
    let x := s.slot c
    if x.state = .running && x.save = some .yield && x.savable .yield then s.onSlot c fun x => { x with state := .saving }
    else s) s
/-- Whether a relocation holds the save handle of a slot (R173). -/
def State.saveHeld (s : State) (x : Slot) : Bool := s.transl.relocRun.any fun r => r.1 == x.desc.saveh

/-- SAVE_COMPLETE: the save area has been written; the slot is SAVED and has released its core and, unless it is
vault-bound, its dies (R90, R94, R97). -/
def execSaveComplete (c : BitVec 4) (fail : BitVec 1) (s : State) : Out :=
  let x := s.slot c
  .next (match x.state, x.save with
    | .saving, some k =>
      if !x.savable k || s.saveHeld x then s
      else
        let b := s.saveArea c k
        match (if fail = 1 then .error .saveFailure else s.savePlace x 0 (saveSize x.n) .write) with
        | .error _ => s.kill c (DeadInfo.plain .saveFailure)
        | .ok r =>
          let s := ((s.wrRun r b).leavePads c).freeDies c
          let s := if x.vbound then x.pdies.foldl (fun s p => s.onPdie p fun q => { q with reserved := some c }) s else s
          { s.onSlot c (fun x =>
              { x with state := .saved, core := none, since := s.time, request := none
                       ctx := { x.ctx with freeze := none, lines := [] } }) with
            schedDue := true }
    | _, _ => s)

/-- A pending CLKMODE comes into force (R126, R127). -/
def Ctx.applyClk (y : Ctx) : Ctx :=
  match y.clkPend with
  | none => y
  | some (f, st) =>
    let cyc := BitVec.ofNat 64 (maxOf (y.dies.map fun d => d.cyc.toNat))
    let y' := { y with fixed := f, stagger := st, clkPend := none }
    if f && !y.fixed then { y' with cyc := cyc, dies := y.dies.map fun d => { d with cyc := cyc } } else y'

/-- RESTORE_COMPLETE: the records have been loaded by logical index and the context continues; self-refresh ends at the dies of
a vault-bound one (R99, R184). -/
def execRestoreComplete (c : BitVec 4) (fail : BitVec 1) (s : State) : Out :=
  let x := s.slot c
  .next (
    if x.state ≠ .restoring ∨ s.saveHeld x then s
    else match (if fail = 1 then .error .saveFailure else s.savePlace x 0 (saveSize x.n) .read) with
      | .error _ => s.kill c (DeadInfo.plain .saveFailure)
      | .ok _ =>
        let y := x.ctx.restore (s.saveReader x)
        let y := if x.save = some .step then y.applyClk else y
        let s := if x.vbound then x.pdies.foldl (fun s p => s.onPdie p fun q => q.selfStop s.time) s else s
        let s := s.onSlot c fun x =>
          ({ x with
            state := .running, save := none, moved := true, ranSince := s.time, progress := s.time, waited := 0
            ctx := y }).stagger s.time
        (s.catchUp c).tryRound c)

/-! ### STEP (R95, R96) -/

/-- A rectangle that contains another. -/
def Rect.contains (r q : Rect) : Bool := q.dies.all fun p => r.dies.contains p
/-- The smaller rectangle that would leave the first waiting context a candidate (R95). -/
def State.shrinkTo (s : State) (c : BitVec 4) : Option Rect :=
  let x := s.slot c
  match s.waitingOrder with
  | [] => none
  | w :: _ =>
    if (s.slot w).eprio s.time ≤ x.prio.toNat ∨ (s.candidate w s.dieFree).isSome then none
    else bestRect fun r =>
      decide (x.desc.mindie ≤ r.n) && r != x.rect && x.rect.contains r &&
      (s.candidate w fun p => s.dieFree p || (x.pdies.contains p && !(s.columns.get p).offline && !r.dies.contains p)).isSome
/-- The larger rectangle that free dies complete while no context waits (R95). -/
def State.growTo (s : State) (c : BitVec 4) : Option Rect :=
  let x := s.slot c
  if s.waitingOrder ≠ [] then none
  else bestRect fun r =>
    decide (r.n ≤ x.desc.maxdie) && r != x.rect && r.contains x.rect && r.dies.all fun p => s.dieFree p || x.pdies.contains p

/-- The cells and dies of a set of `n` dies, by logical index (R96): those below keep their state, new ones start as R78
states with the control core's CYC. -/
def Ctx.resize (y : Ctx) (n : Nat) : Ctx :=
  { y with
    dieMask := maskOf n
    dies := y.dies.take n ++ List.replicate (n - y.dies.length)
      { Die.entry cellsPerDie with done := y.sent, deq := y.sent, cyc := y.cyc } }
/-- The set of a context moves to a rectangle (R96). -/
def State.reshape (s : State) (c : BitVec 4) (r : Rect) : State :=
  let x := s.slot c
  let s := (x.pdies.filter fun p => !r.dies.contains p).foldl (fun s p => s.onPdie p fun q => { q with owner := none })
    (s.leavePads c)
  (s.holdDies c r).onSlot c fun x => { x with row := r.row, col := r.col, h := r.h, w := r.w }

/-- The outcome of a STEP comes into force and issue resumes (R95, R96, R126). DIEMASK is set whatever the outcome
(R406). -/
def State.stepTo (s : State) (c : BitVec 4) (r : Rect) (outcome : BitVec 2) : State :=
  let s := if r = (s.slot c).rect then s else s.reshape c r
  { s.onSlot c (fun x =>
      ({ x with
        state := .running, outcome := outcome, progress := s.time
        ctx := { (x.ctx.applyClk).resize r.n with stepDeferred := false } }).stagger s.time) with
    schedDue := true }

/-- STEP_DECISION: after the drain, a yield on request, or SHRINK, GROW or KEEP (R92, R95). -/
def execStepDecision (c : BitVec 4) (s : State) : Out :=
  let x := s.slot c
  .next (
    if x.state ≠ .stepping ∨ !x.savable .step ∨ s.held c then s
    else if (s.asked c).isSome ∧ !x.ctx.anyLive then
      s.onSlot c fun x => { x with state := .saving, save := some .step, outcome := 3, ctx := { x.ctx with stepDeferred := false } }
    else if x.vbound then s.stepTo c x.rect 0
    else match s.shrinkTo c with
      | some r => s.stepTo c r 2
      | none => match s.growTo c with
        | some r => s.stepTo c r 1
        | none => s.stepTo c x.rect 0)

/-! ### The end of a context (R79, R259, R313) -/

/-- A member of a family has ended: the record of the LAUNCH that began it follows the last (R73, R79). -/
def State.memberEnd (s : State) (c : BitVec 4) : State :=
  let x := s.slot c
  match s.families.find? fun f => f.id == x.fam with
  | none => s
  | some f =>
    let f := { f with
      alive := f.alive - 1
      haltVal := if f.root = c && !x.spawned then x.halt.getD f.haltVal else f.haltVal }
    if f.alive = 0 then
      let s := { s with families := s.families.filter fun g => g.id != f.id }
      match f.dead with
      | none => s.record f.pkt 0 f.root.toNat f.haltVal.toNat
      | some k => s.record f.pkt 1 f.root.toNat k.code
    else { s with families := s.families.map fun g => if g.id = f.id then f else g }
/-- A slot is FREE; its life count stays (R90, R257). -/
def State.freeSlotNow (s : State) (c : BitVec 4) : State :=
  ((s.leavePads c).freeDies c).onSlot c fun x => { Slot.blank with life := x.life, since := s.time }

/-- CONTEXT_END: every bundle issued has retired, and every command and access has completed (R313). -/
def execContextEnd (c : BitVec 4) (s : State) : Out :=
  let x := s.slot c
  .next (guarded (x.state == .ending && x.retired && x.ctx.quiet false && !s.held c)
    (((s.tellParent c).memberEnd c).freeSlotNow c) s)

/-- The dies and the core of a slot are free. -/
def State.loseDies (s : State) (c : BitVec 4) : State :=
  ((s.leavePads c).freeDies c).onSlot c fun x => { x with core := none, h := 0, w := 0 }
/-- DEAD_DRAIN_DONE: no tagged request remains, so the dies are free; once the fatal record is written, so is the completion
record, and the slot is FREE (R90, R259, R261). -/
def execDeadDrainDone (c : BitVec 4) (s : State) : Out :=
  .next (guarded ((s.slot c).state == .draining)
    (if s.fatalWaits c then s.loseDies c else (s.memberEnd c).freeSlotNow c) s)

end Sys2Proof.Machine
end

