-- ==== Sys2Proof/Machine/Clock.lean ====
section
/-!
DEFINITION. Droop, hard trips, throttling and staggered starts (07 R125-R138).
-/
namespace Sys2Proof.Machine
open Sys2Proof

/-- The context that holds a die and does work there, if any. -/
def State.clockOwner (s : State) (p : BitVec 6) : Option (BitVec 4) :=
  (s.pdies.get p).owner.filter fun c => (s.slot c).holds
/-- The place of a die's power region among those of a set (R128). -/
def Slot.regionIndex (x : Slot) (r : BitVec 4) : Nat := x.regions.findIdx (· == r)
/-- A 32-bit count that saturates. -/
def satWord (w : Word) (k : Nat) : Word := BitVec.ofNat 32 (min (2 ^ 32 - 1) (w.toNat + k))

/-- A hard trip at a die of a context: TRIPS, the region's bit in TRIPREG and 32 cycles in TRIPCYC (R131-R133). -/
def Ctx.trip (y : Ctx) (k : Nat) : Ctx :=
  { y with
    trips := satWord y.trips 1, tripReg := y.tripReg ||| BitVec.ofNat 16 (2 ^ k), tripCyc := y.tripCyc + 32 }

/-- A droop level stretches the next cycle of an ELASTIC die, unless a late landing holds it (R129, R130). -/
def Slot.stretch (x : Slot) (p : BitVec 6) (l : Nat) : Slot :=
  let frozen := (x.logical p).any fun d => (x.ctx.dies[d]?).any (·.frozen)
  if frozen then x else { x with ctx := { x.ctx with stretch := x.ctx.stretch + BitVec.ofNat 64 l } }
/-- DROOP_REPORT: the demand level of an edge of a die (R130). In ELASTIC mode levels 1 to 4 stretch the next cycle and 5
is a trip of the die; in FIXED mode 3 or more is a trip of the set, and of a set that a trip holds only its region's bit
(R131-R133; log 41). -/
def execDroopReport (p : BitVec 6) (level : BitVec 3) (s : State) : Out :=
  let l := level.toNat
  .next (
    if 5 < l then s
    else
      let t := s.onPdie p fun q => { q with level := level }
      let stop := t.onPdie p fun q => { q with tripped := true, trips := satWord q.trips 1 }
      match s.clockOwner p with
      | none => if l = 5 then t.onPdie p fun q => { q with tripped := true } else t
      | some c =>
        let k := (s.slot c).regionIndex (regionOf p)
        if (s.slot c).ctx.fixed then
          (if l < 3 then t
           else if s.tripped c then t.onCtx c fun y => { y with tripReg := y.tripReg ||| BitVec.ofNat 16 (2 ^ k) }
           else stop.onCtx c fun y => y.trip k)
        else if (s.pdies.get p).tripped then t
        else if l = 5 then stop.onCtx c fun y => y.trip k
        else t.onSlot c fun x => x.stretch p l)

/-- TRIP_HOLD_EXPIRY: 32 cycles have passed; the stop ends, or goes on for 32 more if a detector still reports too high
(R131, R132). -/
def execTripHoldExpiry (p : BitVec 6) (again : BitVec 1) (s : State) : Out :=
  .next (
    if !(s.pdies.get p).tripped then s
    else if again = 0 then s.onPdie p fun q => { q with tripped := false }
    else match s.clockOwner p with
      | none => s
      | some c => s.onCtx c fun y => { y with tripCyc := y.tripCyc + 32 })

/-- The dies of a set that meet a test and whose throttled cycles no stronger cause counts: in FIXED mode all of them or none
(R129). -/
def State.throttledDies (s : State) (c : BitVec 4) (here : BitVec 6 → Bool) : List (BitVec 6) :=
  let x := s.slot c
  if !x.holds || (x.ctx.fixed && s.halted c true) then []
  else if x.ctx.fixed then (if x.pdies.any here then x.pdies else [])
  else ((List.range x.n).filter fun d => here (x.phys d) && !(s.pdies.get (x.phys d)).tripped &&
    !(x.ctx.dies[d]?).any (·.frozen)).map x.phys
/-- Until when the cycles of some dies have been counted, or a refresh counts them (R129). -/
def State.countedTo (s : State) (l : List (BitVec 6)) : Nat :=
  l.foldl (fun m p => max m (max (s.pdies.get p).thrTo (s.pdies.get p).holdTo)) s.time
/-- Cycles add to THRCYC. -/
def Ctx.addThrottle (y : Ctx) (n : Nat) : Ctx := { y with thrCyc := y.thrCyc + BitVec.ofNat 64 n }
/-- The dies of a set that meet a test are throttled for some cycles from now: those not counted before count in THRCYC, summed
over the dies in ELASTIC mode, where a cycle lasts 600 ps; as one hold of the set, in steps of 8 cycles, in FIXED mode (R128,
R129, R137). -/
def State.throttle (s : State) (c : BitVec 4) (here : BitVec 6 → Bool) (cycles : Nat) : State :=
  let l := s.throttledDies c here
  let fixed := (s.slot c).ctx.fixed
  let unit := if fixed then 500 else 600
  let til := s.time + (if fixed then (cycles + 7) / 8 * 8 else cycles) * unit
  let n := if fixed then (til - s.countedTo l) / unit
    else (l.map fun p => (til - s.countedTo [p]) / unit).foldl (· + ·) 0
  if l = [] then s
  else (l.foldl (fun s p => s.onPdie p fun q => { q with thrTo := max q.thrTo til }) s).onCtx c fun y => y.addThrottle n
/-- REGION_THROTTLE: a power region is throttled under ISTEP for some cycles, or no longer; a LIMIT of 0 is no limit (R136,
R137). -/
def execRegionThrottle (r : BitVec 4) (on : BitVec 1) (cycles : Xword) (s : State) : Out :=
  .next (
    if on = 0 then { s with throttled := s.throttled.put r false }
    else guarded (s.istep.get r != 0)
      (allSlots.foldl (fun t c => t.throttle c (fun p => regionOf p == r) cycles.toNat)
        { s with throttled := s.throttled.put r true }) s)
/-- How much of the first `t` ps since the cold reset lies in the first halves of microseconds. -/
def plimTime (t : Nat) : Nat := t / 1000000 * 500000 + min 500000 (t % 1000000)
/-- How many cycles PLIM has throttled by a time: of 600 ps, or, in a FIXED set, of 500 ps in steps of 8 (R137). -/
def plimCycles (fixed : Bool) (t : Nat) : Nat :=
  if !fixed then plimTime t / 600 else t / 1000000 * 1000 + min 1000 (t % 1000000 / 4000 * 8)
/-- Time passes under PLIM: what lies in the first 500 ns of each 1 µs is throttled in every region; a set that lies in several
is held once (R137; log 99). -/
def State.plimPass (s : State) (dt : Nat) : State :=
  if !s.plimThrottle then s
  else allSlots.foldl (fun s c =>
    let l := s.throttledDies c fun _ => true
    let fixed := (s.slot c).ctx.fixed
    let past := fun (l : List (BitVec 6)) => plimCycles fixed (s.time + dt) - plimCycles fixed (s.countedTo l)
    let n := if fixed then (if l = [] then 0 else past l) else (l.map fun p => past [p]).foldl (· + ·) 0
    if l = [] then s else s.onCtx c fun y => y.addThrottle n) s

/-- The dies of a region begin to take bundles. -/
def Slot.startRegion (x : Slot) (r : BitVec 4) (l : List Die) : List Die :=
  l.mapIdx fun d (z : Die) => if regionOf (x.phys d) = r then { z with started := true } else z
/-- STAGGER_START: the dies of the set's k-th region begin k·STAGGER·50 ns after those of the first, the regions in order
(R138). -/
def execStaggerStart (c : BitVec 4) (r : BitVec 4) (s : State) : Out :=
  let x := s.slot c
  let due := x.issueSince + x.regionIndex r * x.ctx.stagger.toNat * 50000
  let k := x.regionIndex r
  let earlier := (List.range x.n).all fun d =>
    decide (k ≤ x.regionIndex (regionOf (x.phys d))) || (x.ctx.dies[d]?).any (·.started)
  .next (guarded (x.holds && earlier && decide (due ≤ s.time))
    (s.onCtx c fun y => { y with dies := x.startRegion r y.dies }) s)

end Sys2Proof.Machine
end

