-- ==== Sys2Proof/Machine/Links.lean ====
section
/-!
DEFINITION. The Utzen links, the pod's routing, and what other devices send (02 R36-R50, 13 R259).
-/
namespace Sys2Proof.Machine
open Sys2Proof

/-- A link changed. -/
def State.onLink (s : State) (n : BitVec 4) (f : Link → Link) : State := { s with links := s.links.put n (f (s.links.get n)) }
/-- A link's bit cleared in every PODRT entry (R39-R41). -/
def State.unroute (s : State) (n : BitVec 4) : State :=
  { s with podrt := s.podrt.map fun e => e &&& ~~~(BitVec.ofNat 16 (2 ^ n.toNat)) }
/-- The flits of a link are acknowledged, or lost with it. -/
def State.dropFlits (s : State) (n : BitVec 4) : State := { s with flits := s.flits.filter fun f => f.link != n }

/-- An identity exchange of a link in UP (R38): with both ends valid it becomes ACTIVE, ACTIVE_HALF or CONFLICT, which
raises vector 66 (R35). -/
def State.exchange (s : State) (n : BitVec 4) : State :=
  let l := s.links.get n
  if l.state ≠ .up ∨ !s.podValid ∨ !l.peerValid then s
  else if l.peerDev = s.devnum then (s.onLink n fun l => { l with state := .conflict }).signal 66
  else s.onLink n fun l => { l with state := if l.lanes = 0xFF then .active else .activeHalf }

/-- A link in a state without traffic, whose lanes are in use only once trained (R38, R42). -/
def Link.rest (l : Link) (next : LinkState) : Link :=
  { l with state := next, peerValid := false, drain := none, lanes := if next = .up then l.lanes else 0 }
/-- LINK_TRAINING_DONE: all 8 lanes, one group of 4, or failure (R38). -/
def execLinkTrainingDone (n : BitVec 4) (lanes : BitVec 8) (s : State) : Out :=
  .next (guarded ((s.links.get n).state == .training)
    (if lanes = 0xFF ∨ lanes = 0x0F ∨ lanes = 0xF0 then
      (s.onLink n fun l => { l with state := .up, lanes := lanes }).exchange n
    else s.onLink n fun l => l.rest .down) s)

/-- The contexts of this device with a pod access or message in flight on a link, each with the request of the first, if
it is an access (R39): the flit's tag names the slot and its life (R259). -/
def State.inFlightOn (s : State) (n : BitVec 4) : List (BitVec 4 × Option Origin) :=
  allSlots.filterMap fun c => (s.flits.find? fun f => f.link == n && f.src == s.devnum &&
    match f.body with
    | .access a => a.srcSlot == c && a.srcLife == (s.slot c).life
    | .message _ k life => k == c && life == (s.slot c).life
    | _ => false).map fun f => (c, match f.body with | .access a => some ⟨a.srcDie, a.srcCell, a.addr⟩ | _ => none)

/-- Where a link goes that is lost: to what a host write waited for, else to the state given (R39, R40, R42). -/
def Link.lostTo (l : Link) (next : LinkState) : LinkState :=
  if !l.enable then .disabled
  else match l.drain with
    | some .retrain | some .disable => .training
    | _ => next

/-- A link leaves ACTIVE or ACTIVE_HALF other than by a host write (R39). -/
def State.loseLink (s : State) (n : BitVec 4) (next : LinkState) : State :=
  let dead := s.inFlightOn n
  let s := s.onLink n fun l => { (l.rest (l.lostTo next)) with lost := true }
  let s := ((s.unroute n).dropFlits n).signal 66
  dead.foldl (fun s p => s.kill p.1 (s.deathAt p.1 .linkLoss n.toNat p.2)) s

/-- LINK_LOSS (R39); a link without traffic goes DOWN alone. -/
def execLinkLoss (n : BitVec 4) (s : State) : Out :=
  .next (match (s.links.get n).state with
    | .active | .activeHalf => s.loseLink n .down
    | .disabled => s
    | _ => s.onLink n fun l => l.rest .down)

/-- PEER_IDENTITY: what a peer tells of itself. An active link whose peer withdraws or changes is lost and stands in UP
(R38, R39, R41). -/
def execPeerIdentity (n : BitVec 4) (valid : BitVec 1) (dev : BitVec 6) (peer : BitVec 4) (s : State) : Out :=
  .next (
    let tell := fun (s : State) =>
      (s.onLink n fun l => { l with peerDev := dev, peerLink := peer, peerValid := valid == 1 }).exchange n
    let l := s.links.get n
    match l.state with
    | .up => tell s
    | .active | .activeHalf => if valid = 1 ∧ l.peerDev = dev then s else tell (s.loseLink n .up)
    | .conflict => if valid = 1 ∧ l.peerDev = dev then s else tell (s.onLink n fun l => l.rest .up)
    | _ => s)

/-- A link retrains: not while DISABLED; an active one drains first, whatever else waits for that (R40, R42). -/
def Link.retrain (l : Link) : Link :=
  match l.state with
  | .disabled => l
  | .active | .activeHalf => { l with drain := some (if l.drain = some .disable then .disable else .retrain) }
  | _ => l.rest .training
/-- RETRAIN: a write of ULCTL (R40, R42). -/
def execRetrain (n : BitVec 4) (s : State) : Out := .next (guarded s.hostOpen (s.onLink n Link.retrain) s)
/-- ENABLE of a link: 0 disables it, an active one once it has drained; 0 to 1 starts training (R40, R42). -/
def Link.setEnable (l : Link) (on : Bool) : Link :=
  if on then (if l.state = .disabled then { (l.rest .training) with enable := true } else { l with enable := true })
  else match l.state with
    | .active | .activeHalf => { l with enable := false, drain := some .disable }
    | _ => { (l.rest .disabled) with enable := false }
/-- LINK_ENABLE: a write of ULCTL (R40, R42). -/
def execLinkEnable (n : BitVec 4) (on : BitVec 1) (s : State) : Out :=
  .next (guarded s.hostOpen (s.onLink n fun l => l.setEnable (on == 1)) s)

/-- REPLAY_BUFFER_DRAINED: every flit of a link has been acknowledged, and what waited for that is done (R40, R41). -/
def execReplayBufferDrained (n : BitVec 4) (s : State) : Out :=
  .next (match (s.links.get n).drain with
    | none => s.dropFlits n
    | some w =>
      let s := ((s.dropFlits n).unroute n).onLink n fun l =>
        l.rest (if !l.enable then .disabled else if w = .podcfg then .up else .training)
      s.exchange n)

/-- A write of PODCFG (R38, R41-R43): ignored while any slot is not FREE. -/
def State.podConfig (s : State) (v : Xword) : State :=
    if allSlots.any fun c => (s.slot c).state != .free then s
    else
      let valid := bit v 7
      let dev := BitVec.ofNat 6 (bits v 5 0)
      let withdraws := (s.podValid && !valid) || dev != s.devnum
      let s := { s with podtmo := BitVec.ofNat 16 (max 1 (bits v 47 32)), podValid := valid, devnum := dev }
      let s := if withdraws then
          { s with links := s.links.map fun l =>
              match l.state with
              | .active | .activeHalf | .conflict => { l with drain := some (l.drain.getD .podcfg) }
              | _ => l }
        else s
      allSlots.foldl (fun s n => s.exchange n) s
/-- PODCFG_WRITE (R43). -/
def execPodcfgWrite (v : Xword) (s : State) : Out := .next (guarded s.hostOpen (s.podConfig v) s)

/-- FLIT_CRC_FAIL: the flit is sent again and counted (R37). -/
def execFlitCrcFail (n : BitVec 4) (s : State) : Out :=
  .next (s.onLink n fun l => { l with replays := BitVec.ofNat 16 (min 0xFFFF (l.replays.toNat + 1)) })

/-! ### Flits (R44-R47) -/

/-- The request that an access from a device comes from. -/
def originOf (a : PodAccess) : Option Origin := some ⟨a.srcDie, a.srcCell, a.addr⟩
/-- A refusal goes to the source of an access, or its context here, if it is still the same one, is dead (R44, R47, R168,
R259). -/
def State.refuse (s : State) (dev : BitVec 6) (c life : BitVec 4) (cause : Cause) (link : Nat) (o : Option Origin) : State :=
  if dev = s.devnum then
    (if (s.slot c).life = life then s.kill c (s.deathAt c cause link o) else s)
  else s.sendFlit dev s.devnum 0 (.refusal c life (BitVec.ofNat 8 cause.code) o)

/-- The causes for which a device refuses an access (R44, R47, R168, R259). -/
def refusalCause (code : BitVec 8) : Cause :=
  match code.toNat with
  | 0x48 => .podRoute
  | 0x49 => .podTimeout
  | 0x4B => .sliceRange
  | _ => .podPeerDead

/-- A flit for this device: a reply or a refusal is taken by the context it is tagged for (R44-R47, R259); anything else
stands at its link. -/
def State.takeFlit (s : State) (link : BitVec 4) (src : BitVec 6) : PodBody → State
  | .reply c life d i tl num v =>
    match s.cmd? c d.toNat i.toNat tl num.toNat with
    | none => s
    | some q =>
      if q.st ≠ .remote ∨ (s.slot c).life ≠ life then s
      else
        let s := { s with flits := s.flits.filter fun f => match f.body with
          | .access a => !(a.srcSlot == c && a.srcLife == life && a.srcDie == d && a.srcCell == i && a.tl == tl && a.num == num)
          | _ => true }
        s.podReply c d.toNat i.toNat q v.toNat
  | .refusal c life code o =>
    if (s.slot c).life = life then
      s.kill c (s.deathAt c (refusalCause code) (if refusalCause code = .sliceRange then 0xFF else src.toNat) o)
    else s
  | b => { s with podArrived := s.podArrived ++ [(link, b)] }

/-- A flit that is received: one for this device is taken; another is forwarded, unless that were its ninth hop or no link
leads on, which ends its source context (log 109): of a reply or a refusal, the context that waits for it (R44; log 89). -/
def State.receive (s : State) (f : Flit) : State :=
  if f.dest = s.devnum then s.takeFlit f.link f.src f.body
  else if 7 ≤ f.hops.toNat ∨ !s.podValid ∨ (s.routes f.dest).isEmpty then
    match f.body with
    | .access a => s.refuse f.src a.srcSlot a.srcLife .podRoute f.dest.toNat (originOf a)
    | .message _ c life => s.refuse f.src c life .podRoute f.dest.toNat none
    | .reply c life _ _ _ _ _ => s.refuse f.dest c life .podRoute f.dest.toNat none
    | .refusal c life _ o => s.refuse f.dest c life .podRoute f.dest.toNat o
  else s.sendFlit f.dest f.src (f.hops + 1) f.body
/-- Whether a link's buffers hold an arrival, which blocks its other traffic (R47). -/
def State.linkHeld (s : State) (n : BitVec 4) : Bool := s.podHeld.any fun h => h.link == n
/-- Flits that stood behind a held arrival are received once their link holds none (R47). -/
def State.unblock (s : State) : State :=
  (s.podBlocked.filter fun f => !s.linkHeld f.link).foldl State.receive
    { s with podBlocked := s.podBlocked.filter fun f => s.linkHeld f.link }

/-- FLIT_ARRIVAL (R44, R47). `hops` counts the hops before the one it arrives by. -/
def execFlitArrival (dest src : BitVec 6) (hops : BitVec 4) (r : Received) (s : State) : Out :=
  .next (if s.linkHeld r.link then { s with podBlocked := s.podBlocked ++ [⟨r.link, dest, src, hops, r.body⟩] }
    else s.receive ⟨r.link, dest, src, hops, r.body⟩)

/-- The mark that an access leaves at its destination once it has been performed there. -/
def doneOf (a : PodAccess) : PodDone :=
  ⟨a.srcDev, a.srcSlot, a.srcLife, a.srcDie, a.srcCell, a.cls, streamDest a.addr, a.num⟩
/-- Whether an access of a stream comes before an earlier one of its stream to the same destination has been performed
there (R45, R197, R200). -/
def State.podAhead (s : State) (a : PodAccess) : Bool :=
  match a.after with
  | none => false
  | some k => a.stream && !s.podDone.any fun r => { r with num := 0 } == { doneOf a with num := 0 } && decide (k.toNat ≤ r.num.toNat)
/-- An access has come to its end at its destination. -/
def State.podNote (s : State) (a : PodAccess) : State :=
  if a.stream then
    { s with podDone := (s.podDone.filter fun r => { r with num := 0 } != { doneOf a with num := 0 }) ++ [doneOf a] }
  else s

/-- The bytes that a write of some of the bytes of one word leaves: bit k of the mask has byte k written. -/
def maskedBytes (n m v : Nat) (mask : Xword) : List Byte :=
  (List.range n).map fun k => BitVec.ofNat 8 ((if bit mask k then v else m) / 256 ^ k)
/-- An access from another device is performed in its context and answered (R46, R200). -/
def State.performPod (s : State) (c : BitVec 4) (a : PodAccess) : State :=
  let d := sliceDie a.addr
  let i := sliceCell a.addr
  let h : Home := .pad d i (sliceOff a.addr)
  let n := a.size.toNat
  let m := ofBytes (s.readHome c h n)
  let s := match a.kind.toNat with
    | 1 => s.writeHome c h (bytesOf n a.data.toNat)
    | 3 => s.writeHome c h (maskedBytes n m a.data.toNat a.cmp)
    | 2 => s.writeHome c h (bytesOf n (atomNew a.op.toNat (8 * n) m a.data.toNat a.cmp.toNat a.fp))
    | _ => s
  ((s.bumpFlag c d i a.flag).podNote a).sendFlit a.srcDev s.devnum 0
    (.reply a.srcSlot a.srcLife a.srcDie a.srcCell a.tl a.num (BitVec.ofNat 512 m))

/-- An access as it stands at a link that holds no arrival. -/
def State.standing (s : State) (a : PodAccess) : Option (BitVec 4 × PodBody) :=
  s.podArrived.find? fun p => p.2 == .access a && !s.linkHeld p.1
/-- Whether an access stands somewhere where it can be taken: at a link that holds no arrival, in a reorder buffer, or in
the link's buffers. -/
def State.podStands (s : State) (a : PodAccess) : Bool :=
  (s.standing a).isSome || s.podWaiting.contains a || s.podHeld.any fun h => h.acc == a
/-- An access that has arrived leaves the place where it stands; another that is equal to it stays. -/
def State.dropPod (s : State) (a : PodAccess) : State :=
  match s.standing a with
  | some p => { s with podArrived := s.podArrived.erase p }
  | none =>
    if s.podWaiting.contains a then { s with podWaiting := s.podWaiting.erase a }
    else { s with podHeld := s.podHeld.eraseP fun h => h.acc == a }
/-- An access that cannot be performed is refused (R47, R168, R259). -/
def State.refusePod (s : State) (a : PodAccess) (cause : Cause) : State :=
  ((s.dropPod a).podNote a).refuse a.srcDev a.srcSlot a.srcLife cause (if cause = .sliceRange then 0xFF else a.srcDev.toNat)
    (originOf a)

/-- POD_ACCESS_ARRIVAL: an access from another device reaches the context of its pod group (R46, R47, R168, R200, R259). -/
def execPodAccessArrival (a : PodAccess) (s : State) : Out :=
  .next (
    if !s.podStands a then s
    else match s.groupSlot a.group with
      | none => (s.refusePod a .podPeerDead).unblock
      | some c =>
        match (s.slot c).state with
        | .waiting | .saved | .restoring =>
          (match s.standing a with
           | some p => { (s.dropPod a) with podHeld := s.podHeld ++ [⟨p.1, a, s.time⟩] }
           | none => s)
        | _ =>
          if (s.slot c).n ≤ sliceDie a.addr ∨ 1600 ≤ sliceCell a.addr ∨ padSize < sliceOff a.addr + a.size.toNat ∨ !mbzOk a.addr then
            (s.refusePod a .sliceRange).unblock
          else if s.podAhead a then
            (if s.podWaiting.contains a ∨ 64 ≤ s.heldIn (bufferOf c (.pad (sliceDie a.addr) (sliceCell a.addr) 0)) then s
             else State.unblock { (s.dropPod a) with podWaiting := s.podWaiting ++ [a] })
          else if s.barred c (sliceDie a.addr) (sliceOff a.addr) a.size.toNat then s
          else ((s.dropPod a).performPod c a).unblock)

/-- POD_ACCESS_TIMEOUT: arrivals held for PODTMO are discarded, and their sources are dead with cause pod timeout (R47). -/
def execPodAccessTimeout (s : State) : Out :=
  let late := s.podHeld.filter fun h => decide (msPs s.podtmo.toNat ≤ s.time - h.since)
  let s := { s with podHeld := s.podHeld.filter fun h => !decide (msPs s.podtmo.toNat ≤ s.time - h.since) }
  .next ((late.foldl (fun s h => (s.podNote h.acc).refuse h.acc.srcDev h.acc.srcSlot h.acc.srcLife .podTimeout
    h.acc.srcDev.toNat (originOf h.acc)) s).unblock)

/-! ### Rounds (R49, R50) -/

/-- POD_MESSAGE_ARRIVAL: a message reaches the context of its group, which holds it until its round (R49, R50); for a
group without one it is dropped (log 98). -/
def execPodMessageArrival (m : PodMsg) (s : State) : Out :=
  .next (
    let here := s.podArrived.find? fun p => match p.2 with | .message k _ _ => k == m | _ => false
    if !here.any (fun p => !s.linkHeld p.1) then s
    else
      let s := { s with podArrived := match here with | some p => s.podArrived.erase p | none => s.podArrived }
      match s.groupSlot m.group with
      | none => s
      | some c =>
        let s := s.onCtx c fun y => { y with podIn := y.podIn ++ [m] }
        if (s.slot c).state.waits || (s.slot c).state == SlotState.restoring then s else s.tryRound c)

/-- POD_ROUND_TIMEOUT (R50): the record names the first member whose message is missing. -/
def execPodRoundTimeout (c : BitVec 4) (s : State) : Out :=
  let x := s.slot c
  .next (match x.ctx.rounds.find? fun w => w.result.isNone && decide (w.deadline ≤ s.time) with
    | none => s
    | some w =>
      let ps := s.peers x.desc.podmask
      let ms := roundMsgs w x.ctx.podIn
      (s.kill c { (DeadInfo.plain .podTimeout) with
            link := ((ps.find? fun p => !ms.any fun m => m.src == p).map (·.toNat)).getD 0xFF }))

end Sys2Proof.Machine
end

