-- ==== Sys2Proof/Machine/Tiles.lean ====
section
/-!
DEFINITION. Tiles: block scaling, the feed converter, matrix accumulation and the monitors of a pass (11 R225-R230, 12
R238-R245).
-/
namespace Sys2Proof.Machine
open Sys2Proof

/-- A positive rational n/d · 2^e. -/
structure Ratio where
  n : Nat
  d : Nat
  e : Int
  deriving DecidableEq, Repr

/-- Whether a < b. -/
def Ratio.lt (a b : Ratio) : Bool :=
  let lo := min a.e b.e
  decide (a.n * b.d * 2 ^ (a.e - lo).toNat < b.n * a.d * 2 ^ (b.e - lo).toNat)
/-- The ceiling. -/
def Ratio.ceil (a : Ratio) : Nat :=
  let p := if 0 ≤ a.e then a.n * 2 ^ a.e.toNat else a.n
  let q := if 0 ≤ a.e then a.d else a.d * 2 ^ (-a.e).toNat
  (p + q - 1) / q
/-- The magnitude of a finite value; zero otherwise. -/
def magOf : Exact → Ratio
  | .val _ n d e => ⟨n, d, e⟩
  | _ => ⟨0, 1, 0⟩

/-- The formats a tile may hold or be converted to (R225, R235). -/
inductive TileFmt where
  | e2m1 | q16 | e4m3 | e5m2 | bf16
  deriving DecidableEq, Repr

/-- The tile format of a ring's FMT (R145, R360). -/
def TileFmt.ofCode (f : BitVec 4) : TileFmt :=
  match f.toNat with | 3 => .e2m1 | 4 => .q16 | 1 => .e4m3 | 2 => .e5m2 | _ => .bf16
/-- The coat of a format (R235). -/
def TileFmt.coat : TileFmt → Nat
  | .e2m1 | .q16 => 0
  | .e4m3 | .e5m2 => 1
  | .bf16 => 2
/-- M of R227. -/
def TileFmt.top : TileFmt → Nat
  | .e2m1 => 6 | .q16 => 1 | .e4m3 => 448 | .e5m2 => 57344 | .bf16 => 1
/-- An element pattern in its format; a Q16 index decodes to its level. -/
def TileFmt.decode (f : TileFmt) (p : Nat) : Num :=
  match f with
  | .e2m1 => decodeNum .e2m1 p
  | .q16 => .num (q16Exact p)
  | .e4m3 => decodeNum .e4m3 p
  | .e5m2 => decodeNum .e5m2 p
  | .bf16 => decodeNum .bf16 p

/-- The product of two values; a NaN, or infinity times zero, is a NaN (R229). -/
def Num.mul : Num → Num → Num
  | .num x, .num y => match x.mul y with | some z => .num z | none => .nan false
  | _, _ => .nan false

/-- β of a block: rne32(S × k) × 2^-8, exact (R226). -/
def betaOf (s : Nat) (k : Nat) : Num :=
  match decodeNum .fp32 s with
  | .nan b => .nan b
  | .num x =>
    match x.mul (if k = 0 then .zero false else .val false k 1 0) with
    | none => .nan false
    | some y =>
      match decodeNum .fp32 (rnd .fp32 .rne y).1 with
      | .num (.val n a d e) => .num (.val n a d (e - 8))
      | r => r

/-- An element as the multiplier takes it: decoded and scaled, with the clip event and the zero event of its conversion. -/
structure FedElem where
  val : Num
  clip : Bool
  zero : Bool
  deriving DecidableEq, Repr
/-- A tile as the multiplier takes it: 256 elements. -/
abbrev Fed := List FedElem
/-- An element that no conversion touches. -/
def FedElem.plain (x : Num) : FedElem := ⟨x, false, false⟩
/-- The value of an element of a fed tile. -/
def Fed.val (t : Fed) (e : Nat) : Num := match t[e]? with | some x => x.val | none => .nan false

/-- A tile stored at its own coat, from a scratchpad offset (R225, R226). -/
def storedTile (pad : Mem) (o : Nat) (f : TileFmt) : Fed :=
  let pat := fun (e : Nat) => match f.coat with
    | 0 => (pad.get (o + e / 2)).toNat / 16 ^ (e % 2) % 16
    | 1 => (pad.get (o + e)).toNat
    | _ => pad.read (o + 2 * e) 2
  let sw := if f.coat = 0 then o + 128 else o + 256
  let s := pad.read sw 4
  let k := fun b => (pad.get (sw + 4 + b)).toNat
  (List.range 256).map fun e => .plain
    (if f = .bf16 then f.decode (pat e)
     else if k (e / 64) = 0 then .num (.zero false)
     else (f.decode (pat e)).mul (betaOf s (k (e / 64))))

/-- The largest magnitude among finite elements. -/
def maxMag (l : List Num) : Ratio :=
  l.foldl (fun a x => match x with
    | .num y => let m := magOf y; if a.lt m then m else a
    | .nan _ => a) ⟨0, 1, 0⟩

/-- rne32(S × k) × 2^-8 × M, for a finite S. -/
def reach (s k m : Nat) : Ratio :=
  match betaOf s k with
  | .num (.val _ n d e) => ⟨n * m, d, e⟩
  | .num (.inf _) => ⟨1, 1, 100000⟩
  | _ => ⟨0, 1, 0⟩

/-- The steps that raise S until 255 blocks of it reach `a` (R227); a few suffice, since S was rounded up. -/
def raiseS (a : Ratio) (m : Nat) : Nat → Nat → Nat
  | 0, s => s
  | fuel + 1, s => if (reach s 255 m).lt a && decide (s < 0x7F7FFFFF) then raiseS a m fuel (s + 1) else s
/-- The steps that raise a block code until it reaches `a` (R227). -/
def raiseK (a : Ratio) (s m : Nat) : Nat → Nat → Nat
  | 0, k => k
  | fuel + 1, k => if decide (k < 255) && (reach s k m).lt a then raiseK a s m fuel (k + 1) else k

/-- block_scale: the super-scale's pattern and the four block codes (R227). -/
def blockScale (t : List Num) (f : TileFmt) : Nat × List Nat :=
  let a := maxMag t
  let m := f.top
  if a.n = 0 then (0, [0, 0, 0, 0])
  else
    let s := (rnd .fp32 .rup (.val false (a.n * 256) (a.d * 255 * m) a.e)).1
    let s := raiseS a m 16 s
    let s := if s = 0x7F800000 then 0x7F7FFFFF else s
    let sv := magOf (exactOf .fp32 s)
    (s, (List.range 4).map fun b =>
      let ab := maxMag ((t.drop (64 * b)).take 64)
      if ab.n = 0 then 0
      else
        let k := min 255 (Ratio.ceil ⟨ab.n * 256 * sv.d, ab.d * sv.n * m, ab.e - sv.e⟩)
        raiseK ab s m 255 k)

/-- The feed conversion of one element (R228): its pattern, and whether it reports a clip event and a zero event. A finite
element over an infinite β (R226) is a zero. -/
def feedElem (f : TileFmt) (beta : Num) : Num → Nat × Bool × Bool
  | .nan _ => match f with
    | .e2m1 => (7, true, false)
    | .q16 => (15, true, false)
    | .e4m3 => (0x7F, false, false)
    | .e5m2 => (0x7E, false, false)
    | .bf16 => (0x7FC0, false, false)
  | .num (.inf n) => match f with
    | .e2m1 => (if n then 15 else 7, true, false)
    | .q16 => (if n then 0 else 15, true, false)
    | .e4m3 => (Fmt.e4m3.signed n 0x7E, true, false)
    | .e5m2 => (Fmt.e5m2.signed n 0x7C, false, false)
    | .bf16 => (Fmt.bf16.signed n 0x7F80, false, false)
  | .num (.zero n) => match f with
    | .e2m1 => (Fmt.e2m1.signed n 0, false, false)
    | .q16 => (7, false, false)
    | .e4m3 => (Fmt.e4m3.signed n 0, false, false)
    | .e5m2 => (Fmt.e5m2.signed n 0, false, false)
    | .bf16 => (Fmt.bf16.signed n 0, false, false)
  | .num (.val n p d e) =>
    let q : Exact := match beta with
      | .num (.val _ bn bd be) => .val n (p * bd) (d * bn) (e - be)
      | _ => .zero n
    let clip := Ratio.lt ⟨f.top, 1, 0⟩ (magOf q)
    match f with
    | .e2m1 => let r := (rnd .e2m1 .rne q).1; (r, clip, r % 8 = 0)
    | .q16 => let r := q16Enc q; (r, clip, r = 7)
    | .e4m3 => let r := (rnd .e4m3sat .rne q).1; (r, clip, r % 128 = 0)
    | .e5m2 =>
      let r := (rnd .e5m2 .rne q).1
      (if r % 128 = 0x7C then Fmt.e5m2.signed n 0x7B else r, clip, r % 128 = 0)
    | .bf16 => ((rnd .bf16 .rne q).1, false, false)

/-- A WIDE ring's tile fed at a coat (R238): the BF16 tile as stored at coat 2, else converted. -/
def wideTile (pad : Mem) (o : Nat) (f : TileFmt) : Fed :=
  let t := (List.range 256).map fun e => decodeNum .bf16 (pad.read (o + 2 * e) 2)
  if f = .bf16 then t.map .plain
  else
    let (s, ks) := blockScale t f
    (List.range 256).map fun e =>
      let k := (ks[e / 64]?).getD 0
      if k = 0 then .plain (.num (.zero false))
      else
        let beta := betaOf s k
        let r := feedElem f beta ((t[e]?).getD (.nan false))
        ⟨(f.decode r.1).mul beta, r.2.1, r.2.2⟩

/-- The format of a side at a coat when COATCTL chooses it (R236, R239): `b` selects the B side. -/
def coatFmt (coatctl : Xword) (b : Bool) (coat : Nat) : TileFmt :=
  match coat with
  | 0 => if b && bit coatctl 4 then .q16 else .e2m1
  | 1 => if bit coatctl (if b then 6 else 5) then .e5m2 else .e4m3
  | _ => .bf16

/-- The scratchpad offset of slot `i` of a ring (R145). -/
def Ring.slot (r : Ring) (i : Nat) : Nat := r.base.toNat + 64 * r.tsz.toNat * i
/-- The replay slot (R145). -/
def Ring.replaySlot (r : Ring) : Nat := r.slot r.cap.toNat
/-- The twin pointer's place for slot `i` (R145). -/
def Ring.twinAt (r : Ring) (i : Nat) : Nat := r.replaySlot + 512 + 8 * i

/-- One side of a pass (R238-R240). -/
def feedSide (pad : Mem) (t : Tile) (b : Bool) : Fed :=
  let r := if b then t.rb else t.ra
  let s := if b then t.sb else t.sa
  if !r.hold then wideTile pad (r.slot s) (coatFmt t.coatctl b t.coat)
  else
    let f := TileFmt.ofCode r.fmt
    if t.coat ≤ f.coat then storedTile pad (r.slot s) f
    else storedTile pad r.replaySlot (coatFmt t.coatctl b t.coat)

/-- The beats of a pass at a coat (R235). -/
def beatsOf (coat : Nat) : Nat := match coat with | 0 => 8 | 1 => 16 | _ => 32
/-- The scratchpad that a beat finds, of one for all beats or one for each. -/
def padOf (pads : List Mem) (beat : Nat) : Mem := ((pads[beat]?).or pads.head?).getD []
/-- One side of a pass whose beats may find the scratchpad different: an element is read in the beat that multiplies it (R229,
R367). -/
def feedOver (pads : List Mem) (t : Tile) (b : Bool) : Fed :=
  match pads with
  | [p] => feedSide p t b
  | _ =>
    let feds := pads.map fun p => feedSide p t b
    (List.range 256).map fun e => (((feds[e % 32 / (32 / beatsOf t.coat)]?).getD [])[e]?).getD (.plain (.nan false))

/-- Whether a value is an infinity, and its sign. -/
def Num.infSign : Num → Option Bool
  | .num (.inf n) => some n
  | _ => none
/-- Whether a value is zero. -/
def Num.isZero : Num → Bool
  | .num (.zero _) => true
  | _ => false
/-- Whether a value is a NaN. -/
def Num.isNaN : Num → Bool
  | .nan _ => true
  | _ => false

/-- beat_sum of R229: the new element and the window exponent. -/
def beatSum (c : Nat) (prods : List Num) : Nat × Option Int :=
  let terms := decodeNum .fp32 c :: prods
  let infs := terms.filterMap Num.infSign
  if terms.any Num.isNaN || (infs.contains true && infs.contains false) then (0x7FC00000, none)
  else match infs with
    | n :: _ => (Fmt.fp32.signed n 0x7F800000, none)
    | [] =>
      if terms.all Num.isZero then
        (if terms.all (fun t => match t with | .num (.zero n) => n | _ => false) then (0x80000000, none) else (0, none))
      else
        let vals := terms.filterMap fun t => match t with | .num (.val n p d e) => some (n, p, d, e) | _ => none
        let top := vals.foldl (fun (a : Option Int) v =>
          let l := log2Frac v.2.1 v.2.2.1 + v.2.2.2
          match a with | none => some l | some x => some (max x l)) none
        let e := top.getD 0
        let u := e - 63
        let cut := vals.map fun v => let r := roundTo false v.2.1 v.2.2.1 v.2.2.2 u .rtz; (v.1, r.1, r.2)
        let s : Int := cut.foldl (fun a v => if v.1 then a - v.2.1 else a + v.2.1) 0
        let sticky := cut.any fun v => !v.2.2
        if s = 0 then (0, some e)
        else ((rnd .fp32 .rne (.val (decide (s < 0)) (2 * s.natAbs + b2n sticky) 1 (u - 1))).1, some e)

/-- What the monitors see of one element: its value, an overflow, a cancellation (R242). -/
structure ElemRun where
  c : Nat
  ovf : Bool
  can : Bool
  deriving DecidableEq, Repr

/-- One beat of one element (R229, R242). -/
def elemBeat (canbits : Nat) (r : ElemRun) (prods : List Num) : ElemRun :=
  let (z, e) := beatSum r.c prods
  let finite := (decodeNum .fp32 r.c :: prods).all fun t => !t.isNaN && t.infSign.isNone
  let ovf := finite && (decodeNum .fp32 z).infSign.isSome
  let can := match e with
    | none => false
    | some e =>
      canbits != 0 &&
      (match decodeNum .fp32 z with
       | .num (.zero _) => true
       | .num (.val _ n d x) => decide ((canbits : Int) < e - (log2Frac n d + x)) ||
          (match decodeNum .fp32 r.c with
           | .num (.val _ n d x) => decide (log2Frac n d + x < e - 63)
           | _ => false)
       | _ => false)
  ⟨z, r.ovf || ovf, r.can || can⟩

/-- A pass over a bank's FP32 view: the new bank and the monitors (R229, R242). -/
def runPass (pads : List Mem) (t : Tile) : Bank × Monitors :=
  let fa := feedOver pads t false
  let fb := feedOver pads t true
  let bs := beatsOf t.coat
  let p := 32 / bs
  let canbits := bits t.budget 31 24
  let els := (List.range 64).map fun ij =>
    let i := ij / 8
    let j := ij % 8
    (List.range bs).foldl (fun r beat =>
      elemBeat canbits r ((List.range p).map fun q =>
        let kk := p * beat + q
        (fa.val (32 * i + kk)).mul (fb.val (32 * j + kk))))
      (⟨lane 32 t.shadow ij, false, false⟩ : ElemRun)
  (BitVec.ofNat 2048 (packLanes 32 (els.map (·.c))),
   ⟨(fa ++ fb).countP (·.clip) + els.countP (·.ovf), (fa ++ fb).countP (·.zero), els.countP (·.can)⟩)

/-- Whether a pass is over budget; a limit of 255 is never exceeded (R243). -/
def overBudget (budget : Xword) (m : Monitors) : Bool :=
  let past := fun (x lim : Nat) => lim != 255 && decide (lim < x)
  past m.sat (bits budget 7 0) || past m.ufl (bits budget 15 8) || past m.can (bits budget 23 16)

/-- fma64 of R230 in FP64, RNE. -/
def fma64 (a b c : Nat) : Nat :=
  let ctl : FpCtl := ⟨.rne, false, false, 0⟩
  if [a, b, c].any (isNan .fp64) then 0x7FF8000000000000 else (fmaWith .fp64 ctl false false a b c).1

/-- TMMA64's result past a bank; bytes 255:128 stay (R230, R368). -/
def runPass64 (pads : List Mem) (sa sb : Nat) (bank : Bank) : Bank :=
  let els := (List.range 16).map fun ij =>
    let i := ij / 4
    let j := ij % 4
    (List.range 8).foldl (fun c k =>
        fma64 ((padOf pads k).read (sa + 8 * (8 * i + k)) 8) ((padOf pads k).read (sb + 8 * (8 * j + k)) 8) c)
      (lane 64 bank ij)
  BitVec.ofNat 2048 (packLanes 64 els + bank.toNat / 2 ^ 1024 * 2 ^ 1024)

end Sys2Proof.Machine
end

