-- ==== Sys2Proof/Machine/Matrix.lean ====
section
/-!
DEFINITION. The M slot: matrix, bank and ring instructions (18 R357-R373, 12 R235-R237).
-/
namespace Sys2Proof.Machine
open Sys2Proof

/-- The cell with a bank replaced. -/
def Cell.setBank (c : Cell) (i : BitVec 3) (f : BankState → BankState) : Cell := { c with acc := c.acc.put i (f (c.acc.get i)) }
/-- The cell with a ring replaced. -/
def Cell.setRing (c : Cell) (i : BitVec 3) (f : Ring → Ring) : Cell := { c with q := c.q.put i (f (c.q.get i)) }

/-- (TAIL − HEAD) mod 2^16 (R359). -/
def Ring.used (r : Ring) : Nat := (r.tail - r.head).toNat
/-- (TAIL − RP) mod 2^16 (R359). -/
def Ring.unread (r : Ring) : Nat := (r.tail - r.rp).toNat

/-- The fault of a ring that is not set (R252, R365). -/
def ringUnset (q : BitVec 3) : CellFault := plainFault .ringUnset [(0, q.toNat)]

/-- The stored coat the freeze record gives: 0xFF for a WIDE ring (R254). -/
def Ring.coatByte (r : Ring) : Nat := if r.hold then (TileFmt.ofCode r.fmt).coat else 0xFF
/-- The stored coat by which TMMA fixes its pass coat: 0 for a WIDE ring (R237). -/
def Ring.coatMin (r : Ring) : Nat := if r.hold then (TileFmt.ofCode r.fmt).coat else 0

/-- Pass coat and top (R237). -/
def passCoat (coatctl : Xword) (fi ci : Nat) (a b : Ring) : Nat × Nat :=
  let fl := max fi (bits coatctl 1 0)
  let ce := min ci (bits coatctl 3 2)
  let p := max fl (max a.coatMin b.coatMin)
  (p, max ce p)

/-- The early touch of a tile's slots (R367). -/
def feedGuard (c : Cell) (r : Ring) (s : Nat) : Option CellFault :=
  (guardHit c (r.slot s) (64 * r.tsz.toNat)).map fun g =>
    plainFault .earlyTouch [(0, max (r.slot s) g.lo), (4, g.lo), (8, g.hi), (12, g.tl.toNat)]

/-- A skipped TMMA (R366): EMPT of each ring found empty, SKIP in the record, the bank made live. -/
def skipTile (c : Cell) (bank qa qb : BitVec 3) (ea eb : Bool) : Cell :=
  let c := if ea then c.setRing qa fun r => { r with empt := true } else c
  let c := if eb then c.setRing qb fun r => { r with empt := true } else c
  c.setBank bank fun b => { b with live := true, record := b.record ||| 0x20 }

/-- Open a tile (R244, R365): the read points, the shadow and the liveness. Its first pass runs until its verdict. -/
def openTile (c : Cell) (t : Tile) : Cell :=
  let c := if t.popA then c.setRing t.qa fun r => { r with rp := r.rp + 1 } else c
  let c := if t.popB then c.setRing t.qb fun r => { r with rp := r.rp + 1 } else c
  let c := c.setBank t.bank fun b => { b with live := true, shadow := if t.fp64 then b.shadow else some b.data }
  { c with tiles := c.tiles ++ [{ t with id := c.tileNo }], tileNo := c.tileNo + 1 }

/-- TMMA and TMMA64 at their start, once their forms have been checked: `p` and `top` are the pass coat and the top. -/
def startTile (env : Env) (pre post : Cell) (c a b : BitVec 3) (fp64 : Bool) (p top : Nat) (popA popB : Bool) :
    Except CellFault Cell :=
  let ra := pre.q.get a
  let rb := pre.q.get b
  if ra.unread = 0 ∨ rb.unread = 0 then .ok (skipTile post c a b (ra.unread = 0) (rb.unread = 0))
  else
    let sa := ra.rp.toNat % ra.cap.toNat
    let sb := rb.rp.toNat % rb.cap.toNat
    match (feedGuard pre ra sa).or (feedGuard pre rb sb) with
    | some f => .error f
    | none => .ok (openTile post
        { id := 0, tag := env.tag, bank := c, fp64 := fp64, bsn := env.bsn, qa := a, qb := b, ra := ra, rb := rb, sa := sa, sb := sb,
          popA := popA, popB := popB, coat := p, top := top, coatctl := env.carried.coatctl,
          budget := env.carried.budget, shadow := (pre.acc.get c).data, pad := earliestView env pre, kept := [], mon := ⟨0, 0, 0⟩, exceeded := false,
          exhaust := false, rep0 := 0, rep1 := 0, own0 := 0, own1 := 0, st := .passing })

/-- TMMA (R365): c the bank, a and b the rings, f the floor, g the ceiling, x and y the pops. -/
def execTmma (c a b : BitVec 3) (f g : BitVec 2) (x y : BitVec 1) (s : State) : Out :=
  onCells (ifActive fun env pre post =>
    let ra := pre.q.get a
    let rb := pre.q.get b
    if ra.cap = 0 then .error (ringUnset a)
    else if rb.cap = 0 then .error (ringUnset b)
    else
      let (p, top) := passCoat env.carried.coatctl f.toNat g.toNat ra rb
      if ra.side || !rb.side || ra.fmt == 6 || rb.fmt == 6 || (ra.hold && decide (ra.coatMin < p)) ||
          (rb.hold && decide (rb.coatMin < p)) then
        .error (plainFault .coatForm [(0, p), (1, ra.coatByte), (2, rb.coatByte)])
      else startTile env pre post c a b false p top (x == 1) (y == 1)) s

/-- The stored coat TMMA64's coat-form record gives: 3 for FP64, 2 for BF16 (R368). -/
def Ring.coatByte64 (r : Ring) : Nat := if r.fmt == 6 then 3 else (TileFmt.ofCode r.fmt).coat

/-- TMMA64 (R368). -/
def execTmma64 (c a b : BitVec 3) (x y : BitVec 1) (s : State) : Out :=
  onCells (ifActive fun env pre post =>
    let ra := pre.q.get a
    let rb := pre.q.get b
    if ra.cap = 0 then .error (ringUnset a)
    else if rb.cap = 0 then .error (ringUnset b)
    else if ra.hold || rb.hold || ra.fmt != 6 || rb.fmt != 6 || ra.side || !rb.side then
      .error (plainFault .coatForm [(0, 0xFF), (1, ra.coatByte64), (2, rb.coatByte64)])
    else startTile env pre post c a b true 0 0 (x == 1) (y == 1)) s

/-- TACCZ: a live bank stays live, its shadow unchanged (R371). -/
def execTaccz (c : BitVec 3) (s : State) : Out :=
  onCells (pureOp fun _ _ post => post.setBank c fun b => { b with data := 0, record := 0 }) s
/-- TACCRET: the end of liveness, the shadow discarded (R371). -/
def execTaccret (c : BitVec 3) (s : State) : Out :=
  onCells (pureOp fun _ _ post => post.setBank c fun b => { b with live := false, shadow := none }) s

/-- The bytes a TACCLD or TACCST covers (R372). -/
def bankBytes (f : BitVec 2) : Nat := if f = 0 then 256 else 128
/-- The checks of TACCLD and TACCST (R372, R469). -/
def bankCheck (c : Cell) (a : BitVec 4) (f : BitVec 2) (x : Option Word) : Option CellFault :=
  padCheck c 0xFF (padBase c a x) (bankBytes f) 4

/-- The place of element `l` of a view with `w` columns, transposed when TR is 1 (R372). -/
def elemAt (w l : Nat) (tr : BitVec 1) : Nat := if tr = 1 then w * (l % w) + l / w else l

/-- TACCLD (R372): f 0 FP32, 1 BF16, 2 FP64; r TR. -/
def execTaccld (c : BitVec 3) (a : BitVec 4) (f : BitVec 2) (r : BitVec 1) (x : Option Word) (s : State) : Out :=
  onCells (ifActive fun env pre post =>
    match bankCheck pre a f x with
    | some e => .error e
    | none =>
      let base := (padBase pre a x).toNat
      let pad := raceView env pre
      let data (old : Bank) : Bank := match f.toNat with
        | 0 => BitVec.ofNat 2048 (packLanes 32 ((List.range 64).map fun l => pad.read (base + 4 * elemAt 8 l r) 4))
        | 1 => BitVec.ofNat 2048 (packLanes 32 ((List.range 64).map fun l => pad.read (base + 2 * elemAt 8 l r) 2 * 2 ^ 16))
        | _ => BitVec.ofNat 2048 (packLanes 64 ((List.range 16).map fun l => pad.read (base + 8 * elemAt 4 l r) 8) +
                 old.toNat / 2 ^ 1024 * 2 ^ 1024)
      .ok (post.setBank c fun b => { b with data := data b.data, live := true })) s

/-- An FP32 pattern narrowed to BF16 by rne16, NaNs under R339 (R372). -/
def narrow16 (p : Nat) : Nat :=
  match decodeNum .fp32 p with
  | .nan _ => nanTo .fp32 .bf16 p
  | .num x => (rnd .bf16 .rne x).1

/-- Where the V0 slot of the bundle has stored to bytes that a store of this slot covers too, each word takes them from the one
or the other, a free choice (R154, R194; log 52). -/
def eitherStore (env : Env) (post : Cell) (base n : Nat) (pad : Mem) : Mem :=
  (List.range n).foldl (fun p j =>
    let k := base + j
    if post.stored.any (fun r => decide (r.1 ≤ k ∧ k < r.1 + r.2)) ∧ Config.pick (2 * wordSeed env k) 2 % 2 = 1 then
      p.set k (post.pad.get k)
    else p) pad

/-- TACCST (R372). -/
def execTaccst (c : BitVec 3) (a : BitVec 4) (f : BitVec 2) (r : BitVec 1) (x : Option Word) (s : State) : Out :=
  onCells (ifActive fun env pre post =>
    match bankCheck pre a f x with
    | some e => .error e
    | none =>
      let base := (padBase pre a x).toNat
      let d := (pre.acc.get c).data
      let pad := match f.toNat with
        | 0 => (List.range 64).foldl (fun p l => p.write (base + 4 * elemAt 8 l r) 4 (lane 32 d l)) post.pad
        | 1 => (List.range 64).foldl (fun p l => p.write (base + 2 * elemAt 8 l r) 2 (narrow16 (lane 32 d l))) post.pad
        | _ => (List.range 16).foldl (fun p l => p.write (base + 8 * elemAt 4 l r) 8 (lane 64 d l)) post.pad
      .ok (post.store (eitherStore env post base (bankBytes f) pad) [(base, bankBytes f)])) s

/-- TACCRD: part p of the bank into vD, raw (R373). -/
def execTaccrd (c : BitVec 3) (d : BitVec 5) (p : BitVec 2) (s : State) : Out :=
  onCells (pureOp fun _ pre post => post.setV d (BitVec.ofNat 512 (lane 512 (pre.acc.get c).data p.toNat))) s
/-- TACCWR: vA into part p of the bank (R373). -/
def execTaccwr (c : BitVec 3) (a : BitVec 5) (p : BitVec 2) (s : State) : Out :=
  onCells (pureOp fun _ pre post => post.setBank c fun b =>
    { b with data := BitVec.ofNat 2048 (packLanes 512 ((List.range 4).map fun i =>
        if i = p.toNat then (pre.getV a).toNat else lane 512 b.data i)) }) s

/-- TCOAT: the bank record into bD (R369). -/
def execTcoat (c : BitVec 3) (d : BitVec 4) (s : State) : Out :=
  onCells (pureOp fun _ pre post => post.setB d (pre.acc.get c).record) s

/-- RCNT as the word of R251. -/
def Cell.rcnt (c : Cell) : Xword :=
  BitVec.ofNat 64 (c.rc0.toNat + c.rc1.toNat * 2 ^ 16 + c.exh.toNat * 2 ^ 32)

/-- TMON (R370). -/
def execTmon (d : BitVec 4) (sel : BitVec 2) (l : BitVec 1) (s : State) : Out :=
  onCells (pureOp fun _ pre post =>
    let w := if sel.toNat < 2 then pre.monlast else pre.rcnt
    let v := BitVec.ofNat 32 (if sel.toNat % 2 = 0 then w.toNat else w.toNat / 2 ^ 32)
    let post := post.setB d v
    if l = 1 then (if sel.toNat < 2 then { post with monlast := 0 } else { post with rc0 := 0, rc1 := 0, exh := 0 })
    else post) s

/-! ### Rings -/

/-- QSET (R360): s SIDE, f FMT, h HOLD, c CAP, z TSZ, b BASE. -/
def execQset (q : BitVec 3) (sd : BitVec 1) (f : BitVec 4) (h : BitVec 1) (c : BitVec 8) (z : BitVec 4) (b : BitVec 17)
    (s : State) : Out :=
  onCells (pureOp fun _ _ post =>
    post.setRing q fun _ => ⟨b, z, c, h == 1, f, sd == 1, 0, 0, 0, false, false⟩) s

/-- A ring instruction other than QSET: it raises ring unset when CAP is 0 (R252). -/
def ringOp (q : BitVec 3) (g : Env → Cell → Cell → Cell) : CellFn :=
  ifActive fun env pre post => if (pre.q.get q).cap = 0 then .error (ringUnset q) else .ok (g env pre post)

/-- QCOMMIT (R361). -/
def execQcommit (q : BitVec 3) (n : BitVec 8) (s : State) : Out :=
  onCells (ringOp q fun _ _ post => post.setRing q fun r =>
    if n.toNat ≤ r.cap.toNat - r.used then { r with tail := r.tail + BitVec.ofNat 16 n.toNat } else { r with full := true }) s
/-- QPOP (R362). -/
def execQpop (q : BitVec 3) (n : BitVec 8) (s : State) : Out :=
  onCells (ringOp q fun _ _ post => post.setRing q fun r =>
    let hd := r.head + BitVec.ofNat 16 (min n.toNat r.used)
    { r with head := hd, rp := hd, empt := r.empt || decide (r.used < n.toNat) }) s
/-- QSTAT's word (R363). -/
def Ring.stat (r : Ring) : Word :=
  BitVec.ofNat 32 (r.used % 256 + r.head.toNat % r.cap.toNat * 2 ^ 8 + r.tail.toNat % r.cap.toNat * 2 ^ 16 +
    b2n r.empt * 2 ^ 24 + b2n r.full * 2 ^ 25 + b2n r.hold * 2 ^ 26 + b2n r.side * 2 ^ 27 + r.fmt.toNat * 2 ^ 28)
/-- QSTAT (R363). -/
def execQstat (q : BitVec 3) (d : BitVec 4) (l : BitVec 1) (s : State) : Out :=
  onCells (ringOp q fun _ pre post =>
    let post := post.setB d (pre.q.get q).stat
    if l = 1 then post.setRing q fun r => { r with empt := false, full := false } else post) s
/-- QTWIN: the twin pointer of slot (TAIL + i) mod CAP; no effect on a WIDE ring (R364). -/
def execQtwin (q : BitVec 3) (k : BitVec 4) (i : BitVec 8) (s : State) : Out :=
  onCells (ringOp q fun env pre post =>
    let r := pre.q.get q
    let o := r.twinAt ((r.tail.toNat + i.toNat) % r.cap.toNat)
    if r.hold then post.store (eitherStore env post o 8 (post.pad.write o 8 (pre.getB64 k).toNat)) [(o, 8)] else post) s

end Sys2Proof.Machine
end

