-- ==== Sys2Proof/Machine/VaultRun.lean ====
section
/-!
DEFINITION. The vault: its commands, its rows' ages, its refreshes and the protection of its transfers (09 R181-R189, 19
R387-R389).
-/
namespace Sys2Proof.Machine
open Sys2Proof

/-! ### Rows (R183, R186) -/

/-- The vault above a cell of a physical die. -/
def PDie.vault (p : PDie) (i : Nat) : Vault := (p.vaults.find? fun v => v.cell == i).getD (Vault.blank i)
/-- A vault put in its place, in ascending order of its cell. -/
def putVault (v : Vault) : List Vault → List Vault
  | [] => [v]
  | w :: r => if v.cell < w.cell then v :: w :: r else if v.cell = w.cell then v :: r else w :: putVault v r
/-- A vault changed. -/
def State.onVault (s : State) (p : BitVec 6) (i : Nat) (f : Vault → Vault) : State :=
  s.onPdie p fun x => { x with vaults := putVault (f (x.vault i)) x.vaults }

/-- What is special about a row. -/
def Vault.info? (v : Vault) (k : BitVec 2) (r : BitVec 12) : Option RowInfo := v.rows.find? fun x => x.bank == k && x.row == r
/-- When a row was last restored: on its own or with its index (R183). -/
def PDie.restoredAt (p : PDie) (v : Vault) (k : BitVec 2) (r : BitVec 12) : Nat :=
  max (p.rowTime.get r) (((v.info? k r).map (·.restored)).getD 0)
/-- The age of a row, in whole intervals of 400 ps (R183). -/
def State.rowAge (s : State) (p : BitVec 6) (i : Nat) (k : BitVec 2) (r : BitVec 12) : Nat :=
  let x := s.pdies.get p
  (s.time - x.restoredAt (x.vault i) k r) / 400
/-- Whether a row is short-lived (R186). -/
def Vault.isShort (v : Vault) (k : BitVec 2) (r : BitVec 12) : Bool := ((v.info? k r).map (·.short)).getD false
/-- A row's own entry replaced. -/
def Vault.putRow (v : Vault) (x : RowInfo) : Vault :=
  { v with rows := x :: v.rows.filter fun y => !(y.bank == x.bank && y.row == x.row) }
/-- A row restored, by an activate or a refresh, and whether it is then short-lived. -/
def Vault.restore (v : Vault) (time : Nat) (short act : Bool) (r : BitVec 12) (k : BitVec 2) : Vault :=
  v.putRow ⟨k, r, time, short, act⟩

/-- The four banks. -/
def allBanks : List (BitVec 2) := [0, 1, 2, 3]
/-- The age at which a row's data expires: 32 ms (R183). -/
def retention : Nat := 80000000

/-- Whether the vault control has still to refresh a tracked row (R183). -/
def State.lateRow (s : State) (p : BitVec 6) (i : Nat) (r : BitVec 12) : Option (BitVec 2) :=
  allBanks.find? fun k => !((s.pdies.get p).vault i).isShort k r && decide (retention ≤ s.rowAge p i k r)

/-! ### Commands at the vault (R181) -/

/-- The place of a burst in a vault. -/
def burstAt (k : BitVec 2) (r : BitVec 12) (b : Nat) : Nat := k.toNat * 2 ^ 21 + r.toNat * 512 + b * 64

/-- Whether a burst of a bank is of an expired row and not written since the row opened (R186). -/
def Vault.isExpired (v : Vault) (k : BitVec 2) (b : Nat) : Bool :=
  match v.isOpen.get k with
  | some o => o.expired && !bit o.written b
  | none => false
/-- What a DVRD takes from the vault as it starts, which no later command changes: for each burst twice its data, plus 1 if
it is expired (R181, R186). -/
def Vault.bursts (v : Vault) (k : BitVec 2) (r : BitVec 12) (b n : Nat) : List Nat :=
  (List.range n).map fun j => 2 * ofBytes (v.data.bytes (burstAt k r (b + j)) 64) + b2n (v.isExpired k (b + j))
/-- What a command of a vault takes from it as it starts. -/
def CmdOp.taken (o : CmdOp) (v : Vault) : List Nat :=
  match o with
  | .vrd k r b n _ => v.bursts k r b n
  | _ => []

/-- What a command does at the vault when it starts (R183, R186, R388). -/
def State.vaultStart (s : State) (p : BitVec 6) (i : Nat) (op : CmdOp) : State :=
  match op with
  | .vact k r =>
    let expired := ((s.pdies.get p).vault i).isShort k r && decide (retention < s.rowAge p i k r)
    s.onVault p i fun v =>
      let v := v.restore s.time (v.isShort k r) true r k
      { v with isOpen := v.isOpen.put k (some ⟨r, expired, 0⟩) }
  | .vpre k => s.onVault p i fun v => { v with isOpen := v.isOpen.put k none }
  | .vref r => s.onVault p i fun v => allBanks.foldl (fun v k => v.restore s.time false false r k) v
  | .vlife r mask n =>
    let at0 := (s.pdies.get p)
    s.onVault p i fun v => (List.range n).foldl (fun v j =>
      let r := r + BitVec.ofNat 12 j
      allBanks.foldl (fun v k =>
        if bit mask k.toNat then v.putRow ⟨k, r, at0.restoredAt v k r, true, true⟩ else v) v) v
  | _ => s

/-- Whether a command names a row whose emergency refresh comes first (R183). -/
def State.refreshFirst (s : State) (p : BitVec 6) (i : Nat) (op : CmdOp) : Bool :=
  match op with
  | .vact _ r => (s.lateRow p i r).isSome
  | .vref r => (s.lateRow p i r).isSome
  | .vlife r _ n => (List.range n).any fun j => (s.lateRow p i (r + BitVec.ofNat 12 j)).isSome
  | _ => false

/-- Whether a command is a vault command. -/
def CmdOp.isVault : CmdOp → Bool
  | .vact _ _ | .vpre _ | .vrd _ _ _ _ _ | .vwr _ _ _ _ _ _ | .vref _ | .vlife _ _ _ => true
  | _ => false

/-- A burst transfer's place: port, bank, row, first burst, count. -/
def CmdOp.transfer : CmdOp → Option (Nat × BitVec 2 × BitVec 12 × Nat × Nat)
  | .vrd k r b n _ => some (0, k, r, b, n)
  | .vwr k r b n _ _ => some (1, k, r, b, n)
  | _ => none
/-- The bank that a vault command names. -/
def CmdOp.bank : CmdOp → Option (BitVec 2)
  | .vact k _ | .vpre k | .vrd k _ _ _ _ | .vwr k _ _ _ _ _ => some k
  | _ => none
/-- Whether a burst that a transfer has still to move is one that another names. -/
def sameBurst (a b : CmdOp) (done : Nat) : Bool :=
  match a.transfer, b.transfer with
  | some (_, k, r, x, n), some (_, l, t, y, m) => k == l && r == t && decide (x + done < y + m ∧ y < x + n)
  | _, _ => false
/-- Whether a vault command can start behind an earlier one of its cell that has started, of whose bursts some are done: the
spacing between them is met (R181; log 32). -/
def CmdOp.spaced (a b : CmdOp) (done : Nat) : Bool :=
  match a, b with
  | .vref _, _ => false
  | .vlife _ _ _, _ | _, .vlife _ _ _ => true
  | .vact _ _, .vref _ | .vpre _, .vref _ => false
  | .vact _ _, _ => a.bank != b.bank
  | .vpre k, .vact l _ => k != l
  | .vpre _, _ => true
  | .vrd _ _ _ n _, .vrd _ _ _ _ _ => decide (n ≤ done + 2)
  | .vrd k _ _ n _, .vpre l => k != l || decide (n ≤ done + 2)
  | .vwr _ _ _ _ _ _, .vwr _ _ _ _ _ _ => false
  | .vwr k _ _ _ _ _, .vpre l => k != l
  | _, _ => !sameBurst a b done
/-- Whether an earlier command of a cell lets a vault command start: it is complete, parked, or has started long enough ago
(R181). -/
def Cmd.letsStart (r : Cmd) (b : CmdOp) : Bool :=
  r.op == .nothing || match r.st with
    | .complete | .parked _ => true
    | .vault _ => r.op.spaced b r.done
    | _ => false
/-- VAULT_COMMAND_START: the cell's next vault command starts, in issue order, once every spacing to the earlier ones is met
(R181, R387; log 32). The vault clock must run (R470). -/
def execVaultCommandStart (c : BitVec 4) (d : BitVec 6) (i : BitVec 11) (num : Xword) (s : State) : Out :=
  let p := (s.slot c).phys d.toNat
  .next (match (s.slot c).ctx.cell? d.toNat i.toNat with
    | none => s
    | some x => match x.cmd? 3 num.toNat with
      | none => s
      | some q =>
        let earlier := x.cmds.filter fun r => r.tl == 3 && decide (r.num < q.num)
        guarded (q.op.isVault && q.st == .sent && earlier.all (fun r => r.letsStart q.op) && !(s.pdies.get p).tripped && !s.refreshFirst p i.toNat q.op)
          ((s.vaultStart p i.toNat q.op).onCmd c d.toNat i.toNat 3 num.toNat fun r =>
            { r with st := .vault 0, buf := q.op.taken ((s.pdies.get p).vault i.toNat) }) s)

/-! ### Records (R189) -/

/-- The fields of a vault record that its kind fixes. -/
structure VaultNote where
  kind : Nat
  port : Nat
  group : Nat
  limit : Nat
  att : Nat
  words : Nat
  syn : Nat
  deriving DecidableEq, Repr

/-- The pipeline cycle that a die is in: while a late landing holds it, that landing's (R135, R189). -/
def Ctx.cycleAt (y : Ctx) (d : Nat) : Nat :=
  match y.dies[d]? with
  | none => 0
  | some x => match (if x.frozen then x.leastDue else if y.fixed then (y.dies.find? (·.frozen)).bind Die.leastDue else none) with
    | some l => l
    | none => x.cyc.toNat
/-- A vault record is offered (R189). -/
def State.vaultNote (s : State) (c : BitVec 4) (d i : Nat) (bank burst row bsn : Nat) (v : VaultNote) : State :=
  let x := s.slot c
  s.offer ⟨5, .vaultEvent, c, recOf (recHead 5 .vaultEvent c x.life s.ns ++
    [(16, v.kind), (17, v.port + 2 * v.group + 4 * v.limit), (18, v.att), (19, v.words), (20, bank), (21, burst), (22, row),
     (24, (x.phys d).toNat), (25, d), (26, i), (28, v.syn), (32, bsn % 2 ^ 64), (40, x.ctx.cycleAt d)])⟩

/-- The vault address word of a burst (R166). -/
def vaultAddr (k : BitVec 2) (r : BitVec 12) (b : Nat) : Xword :=
  BitVec.ofNat 64 (3 * 2 ^ 62 + k.toNat * 2 ^ 34 + r.toNat * 2 ^ 22 + b * 64)

/-- What a death at a cell's vault says (R254). -/
def State.vaultDeath (s : State) (c : BitVec 4) (d i : Nat) (cause : Cause) (a : Xword) : State :=
  s.kill c ⟨cause, some d, some ((s.slot c).phys d).toNat, some (1600 * d + i), 0xFF, 0, 0, a⟩

/-! ### Bursts (R187, R188) -/

/-- Whether an entry of wrong bits is of a burst. -/
def WrongBurst.isOf (w : WrongBurst) (k : BitVec 2) (r : BitVec 12) (b : Nat) : Bool := w.bank == k && w.row == r && w.burst == b
/-- A read finds errors in a burst besides those found before, which stay in the array (R187). -/
def Vault.findWrong (v : Vault) (k : BitVec 2) (r : BitVec 12) (b : Nat) (single syn : BitVec 8) (double : Bool) : WrongBurst :=
  match v.wrong.find? fun w => w.isOf k r b with
  | none => ⟨k, r, b, single, syn, double⟩
  | some w => { w with single := w.single ||| single, syn := if single = 0 then w.syn else syn, double := w.double || double }
/-- They stay until the burst is written (R187; log 118). -/
def Vault.putWrong (v : Vault) (w : WrongBurst) : Vault :=
  { v with wrong :=
      (if w.single = 0 && !w.double then [] else [w]) ++ v.wrong.filter fun u => !u.isOf w.bank w.row w.burst }
/-- The next burst of a transfer, or its completion (R204). -/
def State.burstNext (s : State) (c : BitVec 4) (d i : Nat) (q : Cmd) (n : Nat) : State :=
  if q.done + 1 < n then s.onCmd c d i q.tl q.num fun r => { r with done := q.done + 1, st := .vault 0 }
  else s.complete c d i q
/-- A read burst is delivered to the hawk or the scratchpad (R389). -/
def State.burstData (s : State) (c : BitVec 4) (d i : Nat) (q : Cmd) (pad : Option Nat) (n : Nat) (b : List Byte) : State :=
  let s := match pad with
    | some o => s.writeHome c (.pad d i (o + 64 * q.done)) b
    | none => s.onCtx c fun y => y.onCell d i fun x => x.fillHawk q.tl q.num fun _ => BitVec.ofNat 512 (ofBytes b)
  s.burstNext c d i q n
/-- The poison of an expired row, in every 4-byte word (R186). -/
def poison : List Byte := (List.range 16).flatMap fun _ => bytesOf 4 0x7FC00000

/-- A read burst that has passed parity: poison and a park for an expired row, death for a double error, else delivery,
with a record for what was corrected (R186, R187); what was wrong in the array before still is. Its data is what its command took
as it started. -/
def State.readBurst (s : State) (c : BitVec 4) (d i : Nat) (q : Cmd) (k : BitVec 2) (r : BitVec 12) (b n : Nat)
    (pad : Option Nat) (single syn : BitVec 8) (double : Bool) : State :=
  let p := (s.slot c).phys d
  let x := (q.buf[q.done]?).getD 0
  let a := vaultAddr k r b
  let w := ((s.pdies.get p).vault i).findWrong k r b single syn double
  let s := s.onVault p i fun v => v.putWrong w
  if x % 2 = 1 then
    let (id, s) := s.parkReq c .vaultExpired (.command d i q.tl q.num)
      ⟨a, q.bsn.getD 0, 3, 0, some p.toNat, some d, some i, 0, 0, 0xFF⟩
    match id with
    | some id => s.setSt c d i q (.parked id)
    | none => s
  else if w.double then s.vaultDeath c d i .uncorrectable a
  else
    let s := if w.single = 0 then s
      else s.vaultNote c d i k.toNat b r.toNat (q.bsn.getD 0) ⟨1, 0, 0, 0, 0, w.single.toNat, w.syn.toNat⟩
    s.burstData c d i q pad n (bytesOf 64 (x / 2))

/-- A written burst that has passed parity is in the array (R181, R389). -/
def State.writeBurst (s : State) (c : BitVec 4) (d i : Nat) (q : Cmd) (k : BitVec 2) (r : BitVec 12) (b n : Nat)
    (data : List Byte) : State :=
  let p := (s.slot c).phys d
  let s := s.onVault p i fun v =>
    { v with
      data := v.data.putBytes (burstAt k r b) data
      wrong := v.wrong.filter fun w => !w.isOf k r b
      isOpen := match v.isOpen.get k with
        | some o => v.isOpen.put k (some { o with written := o.written ||| BitVec.ofNat 8 (2 ^ b) })
        | none => v.isOpen }
  s.burstNext c d i q n

/-- The scratchpad bytes that the burst in hand uses, if a bank lock keeps them (R156). -/
def State.burstBarred (s : State) (c : BitVec 4) (d : Nat) (q : Cmd) : Bool :=
  match q.op with
  | .vrd _ _ _ _ (some o) => s.barred c d (o + 64 * q.done) 64
  | .vwr _ _ _ _ (some o) _ => s.barred c d (o + 64 * q.done) 64
  | _ => false

/-- A sending that passes parity (R188). -/
def State.burstPass (s : State) (c : BitVec 4) (d i : Nat) (q : Cmd) (single syn : BitVec 8) (double : Bool) : State :=
  match q.op with
  | .vrd k r b0 n pad => s.readBurst c d i q k r (b0 + q.done) n pad single syn double
  | .vwr k r b0 n pad data =>
    let data := match pad, (s.slot c).ctx.cell? d i with
      | some o, some x => x.pad.bytes (o + 64 * q.done) 64
      | _, _ => data
    s.writeBurst c d i q k r (b0 + q.done) n data
  | _ => s

/-- VAULT_BURST_DONE: a sending of the burst in hand ends, the transfers of a port one after another (R181, R187, R188).
`sent.group` is the group in which the sendings before it failed, for their record (R189; log 105). -/
def execVaultBurstDone (c : BitVec 4) (d : BitVec 6) (i : BitVec 11) (num : Xword) (sent : Sending) (single syn : BitVec 8)
    (double : BitVec 1) (s : State) : Out :=
  let d := d.toNat
  let i := i.toNat
  .next (match s.cmd? c d i 3 num.toNat with
    | none => s
    | some q => match q.op.transfer, q.st with
      | some (port, k, r, b0, n), .vault f =>
        let note := fun (s : State) (limit att : Nat) =>
          s.vaultNote c d i k.toNat (b0 + q.done) r.toNat (q.bsn.getD 0) ⟨2, port, sent.group.toNat, limit, att, 0, 0⟩
        let behind := ((s.slot c).ctx.cell? d i).any fun x => x.cmds.any fun r => r.tl == 3 && decide (r.num < q.num) &&
          (match r.op.transfer, r.st with | some (p, _), .vault _ => p == port | _, _ => false)
        if f = 4 || behind || s.burstBarred c d q || (s.pdies.get ((s.slot c).phys d)).tripped then s
        else if f = 6 then
          (match q.op with | .vrd _ _ _ _ pad => s.burstData c d i q pad n poison | _ => s)
        else if sent.pass = 1 then
          s |> (fun s => if 1 ≤ f ∧ f ≤ 3 then note s 0 f else s) |> fun s =>
            s.burstPass c d i q single syn (double == 1)
        else if f < 3 then s.setSt c d i q (.vault (f + 1))
        else if f = 3 then (note s 1 3).setSt c d i q (.vault 4)
        else s.vaultDeath c d i .laneFailure (vaultAddr k r (b0 + q.done))
      | _, _ => s)

/-- LANETEST_DONE: the failing lane is swapped to its group's spare, or the context is dead (R188). -/
def execLanetestDone (c : BitVec 4) (d : BitVec 6) (i : BitVec 11) (num : Xword) (found group : BitVec 1) (lane : BitVec 5)
    (s : State) : Out :=
  let d := d.toNat
  let i := i.toNat
  .next (match s.cmd? c d i 3 num.toNat with
    | none => s
    | some q => match q.op.transfer, q.st with
      | some (port, k, r, b0, _), .vault 4 =>
        let p := (s.slot c).phys d
        let g := BitVec.ofNat 2 (2 * port + group.toNat)
        if (s.pdies.get p).tripped then s
        else if found = 1 ∧ (((s.pdies.get p).vault i).spare.get g).isNone then
          let s := s.onVault p i fun v => { v with spare := v.spare.put g (some lane) }
          let s := s.vaultNote c d i k.toNat (b0 + q.done) r.toNat (q.bsn.getD 0) ⟨3, port, group.toNat, 0, lane.toNat, 0, 0⟩
          s.setSt c d i q (.vault 5)
        else s.vaultDeath c d i .laneFailure (vaultAddr k r (b0 + q.done))
      | _, _ => s)

/-! ### Refresh (R183, R184) -/

/-- Whether the vault control of a physical die refreshes by itself: during a reset at every die (R24, R184). -/
def State.selfRefreshing (s : State) (p : BitVec 6) : Bool :=
  s.resetRun.isSome || match (s.pdies.get p).owner with
  | none => true
  | some c => !(s.slot c).vbound || (s.slot c).state == .saved || (s.slot c).state == .restoring

/-- SELF_REFRESH (R184). -/
def execSelfRefresh (p : BitVec 6) (s : State) : Out :=
  .next (guarded (s.selfRefreshing p) (s.onPdie p fun x => x.selfCatch s.time) s)

/-- A cell and a row index of a physical die whose emergency refresh is due (R183). -/
def State.lateIndex (s : State) (p : BitVec 6) : Option (Nat × BitVec 12) :=
  if (s.pdies.get p).owner.isNone || s.selfRefreshing p || (s.pdies.get p).tripped then none
  else (List.range cellsPerDie).findSome? fun i =>
    ((List.range 4096).find? fun r => (s.lateRow p i (BitVec.ofNat 12 r)).isSome).map fun r => (i, BitVec.ofNat 12 r)
/-- The least length of an emergency refresh: the refresh, and before it the precharge of banks that stand open (R181, R183). -/
def Vault.refreshCycles (v : Vault) : Nat := 40 + if allBanks.any fun k => (v.isOpen.get k).isSome then 14 else 0

/-- Whether a hard trip or a late landing holds a die, which counts before a refresh (R129). -/
def State.heldFirst (s : State) (c : BitVec 4) (d : Nat) : Bool :=
  let x := s.slot c
  (if x.ctx.fixed then s.tripped c || x.ctx.permLate else (s.pdies.get (x.phys d)).tripped) ||
  (if x.ctx.fixed then x.ctx.dies.any (·.frozen) else (x.ctx.dies[d]?).any (·.frozen))
/-- A die, or its FIXED set, is held for a refresh of so many cycles from now: those that no earlier refresh holds count in
HOLDCYC, but for those that a stronger cause counts (R128, R129, R183); of these `held` are left. -/
def State.refreshHold (s : State) (c : BitVec 4) (d : Nat) (least held : Nat) : State :=
  let x := s.slot c
  let unit := if x.ctx.fixed then 500 else 400
  let dies := if x.ctx.fixed then x.pdies else [x.phys d]
  let seen := dies.foldl (fun m p => max m (s.pdies.get p).holdTo) s.time
  let til := s.time + max least held * unit
  let n := (til - seen) / unit
  let s := dies.foldl (fun s p => s.onPdie p fun q => { q with holdTo := max q.holdTo til }) s
  s.onCtx c fun y => { y with holdCyc := y.holdCyc + BitVec.ofNat 64 (if s.heldFirst c d then min held n else n) }
/-- EMERGENCY_REFRESH: a tracked row has reached 32 ms; its index is refreshed while the die or the set is held, and a
LATE_REFRESH record is written (R183, R189). Banks that it closes are open again after it. -/
def execEmergencyRefresh (p : BitVec 6) (i : BitVec 11) (r : BitVec 12) (held : Xword) (s : State) : Out :=
  .next (match (s.pdies.get p).owner, s.lateRow p i.toNat r with
    | some c, some k =>
      if s.selfRefreshing p then s
      else match (List.range (s.slot c).n).find? fun d => (s.slot c).phys d == p with
        | none => s
        | some d =>
          let least := ((s.pdies.get p).vault i.toNat).refreshCycles
          let s := s.onVault p i.toNat fun v => allBanks.foldl (fun v k => v.restore s.time (v.isShort k r) false r k) v
          let s := s.vaultNote c d i.toNat k.toNat 0 r.toNat 0 ⟨4, 0, 0, 0, 0, 0, 0⟩
          s.refreshHold c d least held.toNat
    | _, _ => s)

end Sys2Proof.Machine
end

