-- ==== Sys2Proof/Machine/TileRun.lean ====
section
/-!
DEFINITION. The life of a tile after its first pass: the verdict, the squash and replay, the twin fetches, the retirement
(12 R238-R251, 18 R365-R369).
-/
namespace Sys2Proof.Machine
open Sys2Proof

/-- The tile of a cell replaced by what a function makes of it. -/
def Cell.onTile (x : Cell) (id : Nat) (f : Tile → Tile) : Cell :=
  { x with tiles := x.tiles.map fun t => if t.id = id then f t else t }
/-- The first tile of a cell in a standing. -/
def Cell.tileAt (x : Cell) (p : TileSt → Bool) : Option Tile := x.tiles.find? fun t => p t.st
/-- A cell of a context changed. -/
def State.onCell (s : State) (c : BitVec 4) (d i : Nat) (f : Cell → Cell) : State := s.onCtx c fun y => y.onCell d i f

/-- Whether the M units of a die run: no hard trip and no late landing stops it, or its FIXED set (R131, R132, R134). -/
def State.tileRuns (s : State) (c : BitVec 4) (d : Nat) : Bool :=
  let x := s.slot c
  !(s.pdies.get (x.phys d)).tripped && !(x.ctx.dies[d]?).any (·.frozen) &&
  !(x.ctx.fixed && (s.tripped c || x.ctx.dies.any (·.frozen) || x.regions.any s.throttledNow))

/-- The words of the scratchpad that a pass of a tile reads. -/
def Tile.feedWords (t : Tile) : List Nat :=
  let side := fun (r : Ring) (i : Nat) =>
    (List.range (16 * r.tsz.toNat)).map (fun k => r.slot i + 4 * k) ++ (List.range 128).map (fun k => r.replaySlot + 4 * k)
  side t.ra t.sa ++ side t.rb t.sb
/-- What the beats of a pass find in the scratchpad: a word written since the pass began reads as before or as now, in each beat
a free choice, but for the words that the pipeline has stored, which it never reads (R154, R194, R367; log 106). -/
def Tile.pads (t : Tile) (now : Mem) (seed : Nat) : List Mem :=
  match t.feedWords.filter fun k => t.pad.read k 4 != now.read k 4 && !t.kept.contains (k / 4) with
  | [] => [t.pad]
  | ws => (List.range 32).map fun beat =>
    ws.foldl (fun p k => if Config.pick ((seed * 32 + beat) * 32768 + k / 4) 2 % 2 = 1 then p.write k 4 (now.read k 4) else p) t.pad
/-- A pass of a tile: the bank it leaves, and its monitors; TMMA64 has none (R365, R368). -/
def Tile.pass (t : Tile) (pads : List Mem) : Bank × Monitors :=
  if t.fp64 then (runPass64 pads (t.ra.slot t.sa) (t.rb.slot t.sb) t.shadow, ⟨0, 0, 0⟩) else runPass pads t

/-- The verdict of a pass (R244): retirement, retirement with an exhaust at the top, or a squash. -/
def Tile.verdict (t : Tile) : Tile :=
  let past := !t.fp64 && overBudget t.budget t.mon
  if past && decide (t.coat < t.top) then
    { t with exceeded := true, st := .squashed, own0 := t.own0 + b2n (t.coat == 0), own1 := t.own1 + b2n (t.coat == 1) }
  else { t with exceeded := past, exhaust := past, st := .ready }

/-- The end of a tile's pass: the bank it leaves, and its verdict (R244, R365). -/
def Cell.passEnd (x : Cell) (seed : Nat) (t : Tile) : Cell :=
  let r := t.pass (t.pads x.pad seed)
  (x.setBank t.bank fun b => { b with data := r.1 }).onTile t.id fun t => Tile.verdict { t with mon := r.2 }
/-- TILE_VERDICT (R244). -/
def execTileVerdict (c : BitVec 4) (d : BitVec 6) (i : BitVec 11) (s : State) : Out :=
  .next (guarded (s.tileRuns c d.toNat)
    ({ s with fresh := s.fresh + 1 }.onCell c d.toNat i.toNat fun x =>
      match x.tileAt fun z => z == TileSt.passing with
      | none => x
      | some t => x.passEnd s.fresh t) s)

/-- The scratchpad as a replay of a tile finds it: words that its pipeline has stored since the tile's start read as before
(R194, R245). -/
def Tile.replayPad (t : Tile) (now : Mem) : Mem := t.kept.foldl (fun p k => p.write (4 * k) 4 (t.pad.read (4 * k) 4)) now
/-- The pass of a replay begins: the bank is restored from the shadow (R245). -/
def Cell.replayPass (x : Cell) (t : Tile) : Cell :=
  (x.setBank t.bank fun b => { b with data := t.shadow }).onTile t.id fun _ => { t with pad := t.replayPad x.pad, st := .passing }
/-- The stored coat of a narrow ring (R239). -/
def Ring.stored (r : Ring) : Nat := (TileFmt.ofCode r.fmt).coat
/-- Whether a ring's image must be fetched for a pass at a coat (R240). -/
def Ring.fetches (r : Ring) (coat : Nat) : Bool := r.hold && decide (r.stored < coat)
/-- Whether a tile waits for twin images, which come into its rings' replay slots. -/
def Tile.awaitsImage (t : Tile) : Bool := match t.st with | .fetching _ _ | .parked _ _ _ _ => true | _ => false
/-- A tile that replays at its next coat: it waits for the images that its narrow rings need (R240, R245). -/
def Tile.nextCoat (t : Tile) : Tile :=
  { t with
    rep0 := t.rep0 + b2n (t.coat == 0), rep1 := t.rep1 + b2n (t.coat == 1), coat := t.coat + 1
    st := .fetching (t.ra.fetches (t.coat + 1)) (t.rb.fetches (t.coat + 1)) }
/-- In ELASTIC mode a tile whose images are all there makes its pass (R247). -/
def Cell.startPass (x : Cell) (t : Tile) : Cell := if t.st = .fetching false false then x.replayPass t else x.onTile t.id fun _ => t

/-- REPLAY: in ELASTIC mode a squashed tile of one cell replays, once every other tile that its M unit has begun is done or
squashed (R215, R247). -/
def execReplay (c : BitVec 4) (d : BitVec 6) (i : BitVec 11) (s : State) : Out :=
  .next (guarded (!(s.slot c).ctx.fixed && s.tileRuns c d.toNat)
    (s.onCell c d.toNat i.toNat fun x =>
      match x.tileAt fun z => z == .squashed with
      | none => x
      | some t => if x.tiles.any fun u => u.st != .squashed then x else x.startPass t.nextCoat) s)

/-- The tiles of a context. -/
def Ctx.tiles (y : Ctx) : List Tile := y.dies.flatMap fun d => d.cells.flatMap fun x => x.tiles

/-- A cell at a replay order: its tile of the bundle replays if its pass is below its top (R248). -/
def Cell.replayOrder (tag : Nat) (x : Cell) : Cell :=
  { x with tiles := x.tiles.map fun t => if t.tag = tag ∧ t.coat < t.top then t.nextCoat else t }
/-- A cell's replay of a bundle passes, if it waits for nothing. -/
def Cell.startPasses (tag : Nat) (x : Cell) : Cell :=
  match x.tiles.find? fun t => t.tag == tag && t.st == .fetching false false with
  | some t => x.replayPass t
  | none => x
/-- In FIXED mode the replays of a bundle restore their banks and pass once the last image of the set has come (R248). -/
def Ctx.startPasses (y : Ctx) (tag : Nat) : Ctx :=
  if y.tiles.any fun t => t.tag == tag && t.awaitsImage && t.st != .fetching false false then y
  else { y with dies := y.dies.map fun d => { d with cells := d.cells.map (Cell.startPasses tag) } }

/-- The squashed tile of the earliest bundle (R248). -/
def Ctx.squashed (y : Ctx) : Option Tile :=
  (y.tiles.filter fun t => t.st == .squashed).foldl (fun a t => match a with
    | none => some t
    | some u => if t.tag < u.tag then some t else a) none
/-- The cycles for which a replay of some tiles holds their set: 51 and the beats of the new coat for the first replay, 47
and those beats for a further one, and the wait for images (R248). -/
def replayHold (l : List Tile) (wait : Nat) : Nat :=
  (if l.all fun t => t.rep0 + t.rep1 == 0 then 51 else 47) + maxOf (l.map fun t => beatsOf (t.coat + 1)) +
  if l.any fun t => t.ra.fetches (t.coat + 1) || t.rb.fetches (t.coat + 1) then wait else 0
/-- The cycles of them that count in HOLDCYC: all, unless a stronger cause holds the set too (R129). -/
def State.replayCount (s : State) (c : BitVec 4) (l : List Tile) (wait : Nat) : Nat :=
  if s.tripped c || (s.slot c).ctx.dies.any (·.frozen) then min wait (replayHold l wait) else replayHold l wait

/-- REPLAY_ORDER: in FIXED mode, once every die has taken the bundle and every cell's verdict is known, every tile of the
bundle below its top replays, no tile of another passing then; the held cycles count once (R248). `wait` is the wait for twin
images. -/
def execReplayOrder (c : BitVec 4) (wait : Xword) (s : State) : Out :=
  let y := (s.slot c).ctx
  .next (match y.squashed with
    | none => s
    | some t0 =>
      guarded (y.fixed && !s.tripped c && y.allTook t0.bsn && !y.tiles.any (fun t => t.awaitsImage || t.st == .passing) &&
          y.tiles.all fun t => t.tag != t0.tag || t.st == .squashed || t.st == .ready)
        (s.onCtx c fun y => Ctx.startPasses
          { y with
            holdCyc := y.holdCyc + BitVec.ofNat 64
              (s.replayCount c (y.tiles.filter fun t => t.tag == t0.tag && decide (t.coat < t.top)) wait.toNat)
            dies := y.dies.map fun d => { d with cells := d.cells.map (Cell.replayOrder t0.tag) } } t0.tag) s)

/-! ### Twin fetches (R239-R241) -/

/-- Where the image for a coat lies from the twin pointer, and its size (R239). -/
def twinImage (stored coat : Nat) : Nat × Nat :=
  if coat = 1 then (0, 320) else if stored = 0 then (320, 512) else (0, 512)

/-- An image has come into a ring's replay slot (R240): the tile reads it whatever the pipeline has stored there before. -/
def Cell.imageDone (x : Cell) (t : Tile) (side : Bool) (a b : Bool) (img : List Byte) : Cell :=
  let r := if side then t.rb else t.ra
  { x with pad := x.pad.putBytes r.replaySlot img }.onTile t.id fun t =>
    { t with
      st := .fetching (a && side) (b && !side)
      kept := t.kept.filter fun k => !decide (r.replaySlot ≤ 4 * k ∧ 4 * k < r.replaySlot + img.length) }
/-- With the last of the images the pass is made: in ELASTIC mode the cell's own, in FIXED mode the set's (R247, R248). -/
def Ctx.afterImage (y : Ctx) (d i : Nat) (t : Tile) : Ctx :=
  if y.fixed then y.startPasses t.tag
  else y.onCell d i fun x => match x.tiles.find? fun u => u.id == t.id with | some u => x.startPass u | none => x

/-- One twin fetch (R239-R241). -/
def State.twinFetch (s : State) (c : BitVec 4) (d i : Nat) (x : Cell) (t : Tile) (a b : Bool) : State :=
  let side := !a
  let r := if side then t.rb else t.ra
  let k := if side then t.sb else t.sa
  let ptr := BitVec.ofNat 64 (x.pad.read (r.twinAt k) 8)
  let pd := (s.slot c).phys d
  if tagOf ptr ≠ 1 ∨ !mbzOk ptr then
    s.kill c ⟨.twinForm, some d, some pd.toNat, some (1600 * d + i), 0xFF, 0, 0, ptr⟩
  else
    let (off, n) := twinImage r.stored t.coat
    let at' := ptr + BitVec.ofNat 64 off
    if s.barred c d r.replaySlot n then s
    else match s.resolve pd at' n .read with
      | .ok l => (s.onCell c d i fun x => x.imageDone t side a b (s.readParts l)).onCtx c fun y => y.afterImage d i t
      | .error (.fault _ level) =>
        let (id, s) := s.parkReq c .twinFetch (.twin d i t.id)
          ⟨at', t.bsn.getD 0, 5, 0, some pd.toNat, some d, some i, 0, 0, level⟩
        match id with
        | some id => s.onCell c d i fun x => x.onTile t.id fun t => { t with st := .parked id side a b }
        | none => s
      | .error _ => s

/-- TWIN_FETCH_DONE (R240, R241). -/
def execTwinFetchDone (c : BitVec 4) (d : BitVec 6) (i : BitVec 11) (s : State) : Out :=
  .next (match (s.slot c).ctx.cell? d.toNat i.toNat with
    | none => s
    | some x => match x.tileAt (fun z => match z with | .fetching a b => a || b | _ => false) with
      | some t => (match t.st with
        | .fetching a b => guarded (s.engineRuns c d.toNat) (s.twinFetch c d.toNat i.toNat x t a b) s
        | _ => s)
      | none => s)

/-! ### Retirement (R246, R250, R251, R369) -/

/-- MONLAST of a tile's final pass (R251). -/
def Tile.monWord (t : Tile) : Xword :=
  BitVec.ofNat 64 (min 255 t.mon.sat + min 255 t.mon.ufl * 2 ^ 8 + min 255 t.mon.can * 2 ^ 16 + t.coat * 2 ^ 32 +
    b2n t.exceeded * 2 ^ 34)
/-- A count that saturates at 0xFFFF. -/
def satAdd (a : BitVec 16) (k : Nat) : BitVec 16 := BitVec.ofNat 16 (min 0xFFFF (a.toNat + k))
/-- The bank record after a tile retires (R368, R369). -/
def recordTile (w : Word) (t : Tile) : Word :=
  let n := min 0xFFFF (bits w 31 16 + 1) * 2 ^ 16
  if t.fp64 then BitVec.ofNat 32 (n + bits w 15 0)
  else BitVec.ofNat 32 (n + b2n (bit w 5) * 2 ^ 5 + b2n (bit w 4 || t.exhaust) * 2 ^ 4 + max (bits w 3 2) t.coat * 2 ^ 2 +
    t.coat)

/-- A tile of a cell retires: its pops, the counts and the bank record (R246, R250, R251). -/
def Cell.retireTile (x : Cell) (t : Tile) : Cell :=
  let x := if t.popA then x.setRing t.qa fun r => { r with head := r.head + 1 } else x
  let x := if t.popB then x.setRing t.qb fun r => { r with head := r.head + 1 } else x
  let x := x.setBank t.bank fun b => { b with record := recordTile b.record t }
  let x := { x with tiles := x.tiles.filter fun u => u.id != t.id }
  if t.fp64 then x
  else { x with monlast := t.monWord, rc0 := satAdd x.rc0 t.own0, rc1 := satAdd x.rc1 t.own1, exh := satAdd x.exh (b2n t.exhaust) }

/-- Whether the tiles of a cell that started before one let it retire: in FIXED mode tiles retire in their order; in ELASTIC
mode only one that replays is passed (R215, R246, R247). -/
def Cell.inTurn (x : Cell) (fixed : Bool) (t : Tile) : Bool :=
  (x.tiles.takeWhile fun u => u.id != t.id).all fun u => !fixed && (u.st != .passing || u.rep0 + u.rep1 != 0)
/-- TILE_RETIRE: a tile whose verdict allows it retires, in its turn; in FIXED mode every die has taken its bundle, and no
cell's tile of it has still to replay (R246, R248, R250). -/
def execTileRetire (c : BitVec 4) (d : BitVec 6) (i : BitVec 11) (s : State) : Out :=
  let y := (s.slot c).ctx
  .next (match (y.cell? d.toNat i.toNat).bind fun x => (x.tileAt fun z => z == .ready).map fun t => (x, t) with
    | none => s
    | some (x, t) =>
      guarded (s.tileRuns c d.toNat && x.inTurn y.fixed t && (!y.fixed || (y.allTook t.bsn && y.tiles.all fun u => u.tag != t.tag || u.st == .ready)))
        ((s.onCell c d.toNat i.toNat fun x => x.retireTile t).onCtx c fun y =>
          { y with
            replay0 := y.replay0 + BitVec.ofNat 64 t.rep0, replay1 := y.replay1 + BitVec.ofNat 64 t.rep1
            exhaust := y.exhaust + BitVec.ofNat 64 (b2n t.exhaust) }) s)

end Sys2Proof.Machine
end

