-- ==== Sys2Proof/Machine/TranslEvents.lean ====
section
/-!
DEFINITION. The events of the translation unit: handle writes and commits, relocations, page walks and invalidations (09
R169-R180).
-/
namespace Sys2Proof.Machine
open Sys2Proof

/-- HANDLE_STAGING_WRITE: a write of bits 191:0 of an entry (R170). -/
def execHandleStagingWrite (h : BitVec 12) (w : BitVec 2) (be : BitVec 8) (v : Xword) (s : State) : Out :=
  .next (s.stageHandle h w be v)
/-- HANDLE_COMMIT: a write of bits 255:192 of an entry (R170, R172). -/
def execHandleCommit (h : BitVec 12) (be : BitVec 8) (v : Xword) (s : State) : Out := .next (s.commitHandle h be v)

/-- The oldest commit of a handle whose old entry the dies still hold is at an end. -/
def dropPending (h : BitVec 12) : List (BitVec 12 × Handle) → List (BitVec 12 × Handle)
  | [] => []
  | p :: r => if p.1 = h then r else p :: dropPending h r
/-- COMMIT_COMPLETE: every die has dropped its copy (R172). -/
def execCommitComplete (h : BitVec 12) (s : State) : Out :=
  .next { s with transl := { s.transl with pending := dropPending h s.transl.pending } }

/-- RGO: a relocation command (R173). -/
def execRgo (s : State) : Out := .next s.relocate

/-- Whether a request translated through a handle is still to be performed, or may be: an addition held at its home, a
sequencer access (R172, R173; DEDUCED, log 36). -/
def State.usesHandle (s : State) (h : BitVec 12) : Bool :=
  allSlots.any fun c =>
    let y := (s.slot c).ctx
    y.adds.any (fun a => tagOf a.addr == 1 && handleOf a.addr == h) ||
    y.acc.any fun a => match a.place with | .mem _ => true | .window _ => false

/-- RELOCATION_COMPLETE: the object is copied as stored, its entry committed, and the commits held for it apply (R173). -/
def execRelocationComplete (s : State) : Out :=
  .next (match s.transl.relocRun with
    | none => s
    | some (h, base, layer) =>
      if s.usesHandle h then s
      else
        let e := s.entry h
        let b := s.rdMem (e.layer == 1) (e.base.toNat * 4096) (e.limit.toNat + 1 - e.low.toNat)
        let s := s.wrMem (layer == 1) (base.toNat * 4096) b
        let s := s.replaceHandle h { e with base := base, layer := layer }
        let held := s.transl.heldCommit
        let s : State := { s with transl :=
          { s.transl with
            pending := s.transl.pending.filter fun p => p.1 != h
            relocRun := none, heldCommit := [], rst := 2 } }
        held.foldl (fun s k => s.commitHandle h k.1 k.2) s)

/-- A write of PTROOT (R178). -/
def execPtrootWrite (v : Xword) (s : State) : Out := .next (s.setRoot v)
/-- A write of TINVCTL with GO; ALL is written with it (R178, R180). -/
def execTinvctlGo (all : BitVec 1) (s : State) : Out :=
  .next (({ s with transl := { s.transl with tinvAll := all == 1 } }).invalidateGo (all == 1))

/-- INVALIDATION_DONE: every die has dropped the translations the invalidation covers, of any page size (R180). -/
def execInvalidationDone (s : State) : Out :=
  let t := s.transl
  let keep := fun (c : Cached) => !t.tinvFull && vaOf t.tinvOf / 2 ^ c.bitsOf != c.page
  .next (guarded t.tinvBusy
    { s with
      transl := { t with tinvBusy := false, tinvFull := false }
      pdies := s.pdies.map fun p => { p with cache := p.cache.filter keep } } s)

/-- The parts of a context's commands at a die that stand in one way stand in another, or go on (R179). -/
def State.moveCmds (s : State) (c : BitVec 4) (d : Nat) (old : CmdSt) (new : Option CmdSt) : State :=
  s.onCtx c fun y => y.mapCmds fun k q =>
    if k = d then { q with stalls := q.stalls.filterMap fun p => if p.2 = old then new.map fun n => (p.1, n) else some p } else q

/-- WALK_COMPLETE: a walk reads its entries and maps its page, and its requests go on; or it faults and parks with all of
them (R177, R179). -/
def execWalkComplete (p : BitVec 6) (page : BitVec 45) (s : State) : Out :=
  let page := page.toNat
  .next (match (s.pdies.get p).walks.find? fun w => w.page == page with
    | none => s
    | some w =>
      let ld := (List.range (s.slot w.slot).n).find? fun d => (s.slot w.slot).phys d == p
      let drop := fun (s : State) => (s.onPdie p fun x =>
        { x with walks := x.walks.filter fun v => v.page != page }).fillWalks
      match s.walkPages (page * 4096) with
      | .ok e =>
        (drop s).onPdie p (fun x => { x with cache := e :: x.cache.filter fun f => f.page != e.page || f.bitsOf != e.bitsOf })
          |>.moveCmds w.slot (ld.getD 64) (.walking page) none
      | .error (cause, level) =>
        let (id, s) := s.parkReq w.slot cause (.walk p w)
          ⟨w.addr, w.bsn, 4, w.kind, some p.toNat, ld, none, w.cls, w.merged, level⟩
        match id with
        | some id => (drop s).moveCmds w.slot (ld.getD 64) (.walking page) (some (.parked id))
        | none => s)

/-- A walk that was parked starts again with all its requests (R179, R255). -/
def State.restartWalk (s : State) (p : BitVec 6) (w : Walk) (id : BitVec 12) : State :=
  let ld := ((List.range (s.slot w.slot).n).find? fun d => (s.slot w.slot).phys d == p).getD 64
  (s.addWalk p w).moveCmds w.slot ld (.parked id) (some (.walking w.page))

end Sys2Proof.Machine
end

