-- ==== Sys2Proof/Machine/TrapEvents.lean ====
section
/-!
DEFINITION. The trap queue's events, the service of parks, deaths by event, the watchdog, snapshots and vectors (13
R252-R264, 05 R100, 02 R35).
-/
namespace Sys2Proof.Machine
open Sys2Proof

/-! ### Parks (R255) -/

/-- What a park holds is tried again (R186, R255). -/
def State.retryPark (s : State) (p : Park) : State :=
  match p.what with
  | .command d i tl num => s.onCmd p.slot d i tl num fun q =>
      if q.st = .parked p.id then
        { q with st := if p.info.orig = Cause.vaultExpired.code then .vault 6 else .sent }
      else { q with stalls := q.stalls.filter fun z => z.2 != .parked p.id }
  | .walk pd w => s.restartWalk pd w p.id
  | .twin d i tile => s.onCell p.slot d i fun x => x.onTile tile fun t =>
      match t.st with
      | .parked id _ a b => if id = p.id then { t with st := .fetching a b } else t
      | _ => t
  | .fetch => s.onCtx p.slot fun y => { y with fetchPark := none }

/-- A park is tried again; an ID not in use is ignored; an expired read completes with the poison (R186, R255). The
watchdog's interval starts again (R260). -/
def State.serviceRetry (s : State) (id : BitVec 12) : State :=
  match s.parks.find? fun p => p.id == id with
  | none => s
  | some p => ((s.unpark id).retryPark p).onSlot p.slot fun x => { x with progress := s.time }
/-- The owner of a park is dead (R255). -/
def State.serviceKill (s : State) (id : BitVec 12) : State :=
  match s.parks.find? fun p => p.id == id with
  | none => s
  | some p => s.kill p.slot p.info
/-- TQSERVICE RETRY (R255). -/
def execTqserviceRetry (id : BitVec 12) (s : State) : Out :=
  .next (guarded s.hostOpen (s.serviceRetry id) s)
/-- TQSERVICE KILL (R255). -/
def execTqserviceKill (id : BitVec 12) (s : State) : Out :=
  .next (guarded s.hostOpen (s.serviceKill id) s)

/-! ### The trap queue (R261-R263) -/

/-- A write of HEAD: one below the current HEAD or past TAIL is ignored; slots that come free let waiting records be written
(R261, R262). -/
def State.tqHead (s : State) (h : BitVec 32) : State :=
  let q := s.tq
  guarded (decide ((h - q.head).toNat ≤ (q.tail - q.head).toNat)) ({ s with tq := { q with head := h } }).drainTraps s
/-- TQ_HEAD_WRITE: a write of TQPTR (R262). -/
def execTqHeadWrite (h : BitVec 32) (s : State) : Out := .next (guarded s.hostOpen (s.tqHead h) s)

/-- A record behind one whose write has failed: a fatal one waits, before those that wait already, a recoverable one is
held, an informational one is dropped (R262). -/
def TrapQueue.turnBack (q : TrapQueue) (r : TrapRec) : TrapQueue :=
  if r.cls = 5 then q.drop
  else if r.cls = 4 then { q with fatal := r :: q.fatal }
  else { q.hold r with held := r :: q.held }
/-- TRAP_RECORD_WRITE_FAIL: the queue enters ERROR; the failed record waits, and those behind it were never written (R262). -/
def execTrapRecordWriteFail (s : State) : Out :=
  let l := s.posted.filterMap (·.trap)
  let q := s.tq
  .next (match l with
    | [] => s
    | r :: rest => guarded (q.state == .active)
      { s with
        posted := s.posted.filter fun p => p.trap.isNone
        tq := rest.foldr (fun r q => q.turnBack r)
          { q with state := .error, lost := some r, tail := q.tail - BitVec.ofNat 32 l.length } } s)
/-- RESUME in ERROR: the queue is ACTIVE and the failed record is written again (R262). -/
def State.tqResume (s : State) : State :=
  guarded (s.tq.state == .error)
    (let t := { s with tq := { s.tq with state := .active, lost := none } }
     (match s.tq.lost with | some r => t.postTrap r | none => t).drainTraps) s
/-- RESUME: a write of TQCFG (R262). -/
def execResume (s : State) : Out := .next (guarded s.hostOpen s.tqResume s)
/-- A write of TQCFG.ENABLE: 0 to 1 clears the pointers and the counts; 0 is honoured only while every slot is FREE
(R263). -/
def State.tqEnable (s : State) (on : Bool) : State :=
  let q := s.tq
  if on then
    guarded (q.state == .disabled)
      { s with tq := { q with state := .active, head := 0, tail := 0, held := [], lost := none, ovf := 0, dropped := 0 } } s
  else guarded (allSlots.all fun c => (s.slot c).state == .free) { s with tq := { q with state := .disabled } } s
/-- A write of TQCFG.ENABLE (R263). -/
def execTqEnable (on : BitVec 1) (s : State) : Out := .next (guarded s.hostOpen (s.tqEnable (on == 1)) s)

/-! ### Deaths and the watchdog (R259, R260) -/

/-- The fatal causes of R252. -/
def fatalCauses : List Cause :=
  [.uncorrectable, .hostRequest, .laneFailure, .linkLoss, .watchdog, .saveFailure, .thermalTrip, .dieSet, .podRoute,
   .podTimeout, .podMismatch, .sliceRange, .twinForm, .doubleFault, .escalated, .noHandler, .hostKill, .queueDestroyed,
   .unserviced, .podPeerDead]
/-- CONTEXT_DEAD: a context becomes dead for a fatal cause that arises outside the model's steps, such as an
uncorrectable error of HBM, with the request that met it where there is one (R252, R254, R259). -/
def execContextDead (c : BitVec 4) (r : DeathReport) (s : State) : Out :=
  .next (match fatalCauses.find? fun k => k.code == r.code.toNat with
    | none => s
    | some k => s.kill c (s.deathAt c k 0xFF r.origin))
/-- A save or a restore abandoned by a KILL leaves the save area with bytes that are free values (R91; log 7). -/
def State.spoilSave (s : State) (x : Slot) : State :=
  if x.state = .saving ∨ x.state = .restoring then
    match s.savePlace x 0 (saveSize x.n) .write with
    | .error _ => s
    | .ok r =>
      { s.wrRun r ((List.range (saveSize x.n)).map fun k => BitVec.ofNat 8 (Config.free (s.fresh + k)).toNat) with
        fresh := s.fresh + saveSize x.n }
  else s
/-- A context is killed by the host (R91, R100). -/
def State.hostKill (s : State) (c : BitVec 4) : State := (s.kill c (DeadInfo.plain .hostKill)).spoilSave (s.slot c)
/-- KILL: the host writes CTXCTL.KILL (R91, R100). -/
def execKill (c : BitVec 4) (s : State) : Out := .next (guarded s.hostOpen (s.hostKill c) s)

/-- Whether the watchdog time of a context has passed in one unbroken interval (R260). -/
def State.watchdogDue (s : State) (c : BitVec 4) : Bool :=
  let x := s.slot c
  x.state == .running && s.tq.wdms != 0 && decide (msPs s.tq.wdms.toNat ≤ s.time - x.progress) &&
  s.parks.all (fun p => p.slot != c) && !(x.ctx.podWait.any fun w => w.result.isNone)
/-- WATCHDOG (R260). -/
def execWatchdog (c : BitVec 4) (s : State) : Out :=
  .next (guarded (s.watchdogDue c) (s.kill c (DeadInfo.plain .watchdog)) s)

/-! ### Snapshots and vectors (R264, R35) -/

/-- TRIG: a host write fires the trigger (R264). -/
def execTrig (s : State) : Out := .next (guarded s.hostOpen (s.trigger 3 0 0) s)
/-- The next trigger latches (R264). -/
def State.arm (s : State) : State := { s with snap := { s.snap with armed := true, missed := 0 } }
/-- ARM (R264). -/
def execArm (s : State) : Out := .next (guarded s.hostOpen s.arm s)
/-- A vector is unmasked: a pending one sends its message (R35). -/
def State.unmask (s : State) (v : Nat) : State :=
  let b := BitVec.ofNat 69 (2 ^ v)
  let t := { s with msixMask := s.msixMask &&& ~~~b, msixPend := s.msixPend &&& ~~~b }
  if bit s.msixPend v then { t with messages := t.messages ++ [v] } else t
/-- VECTOR_UNMASK: the host clears the mask of a vector (R35). -/
def execVectorUnmask (v : BitVec 7) (s : State) : Out := .next (guarded s.hostOpen (s.unmask v.toNat) s)

end Sys2Proof.Machine
end

