-- ==== Sys2Proof/Machine/Regs.lean ====
section
/-!
DEFINITION. The management window: what a host access reads at each offset, and what a write replaces, clears or ignores
(00 R4, 01 R18-R26, 02 R34, R35, R42, R43, 03 R63, 04 R64, 05 R100, 13 R263, R264, 20 R407).
-/
namespace Sys2Proof.Machine
open Sys2Proof

/-! ### Reading -/

/-- RESETCTL (R26). -/
def State.resetctl (s : State) : Xword :=
  BitVec.ofNat 64 (b2n s.busy * 4 + s.lastCause.toNat * 2 ^ 4)
/-- PKGPWR (R19). -/
def State.pkgpwr (s : State) : Xword := BitVec.ofNat 64 (s.plim.toNat + s.pmeas.toNat * 2 ^ 32)
/-- COLSTAT (R21). -/
def Column.word (c : Column) : Xword :=
  BitVec.ofNat 64 (b2n c.pgood + 2 * b2n c.twarn + 4 * b2n c.ttrip + 8 * b2n c.offline + c.vset.toNat * 2 ^ 20 +
    c.imeas.toNat * 2 ^ 30 + c.temp.toNat * 2 ^ 40)
/-- The power block (R18). -/
def State.readPower (s : State) (o : Nat) : Xword :=
  if o = 0 then s.pkgpwr
  else if o = 8 then s.twarnLvl.zeroExtend 64
  else if o = 16 then s.resetctl
  else if 0x100 ≤ o ∧ o < 0x300 then (s.columns.get (BitVec.ofNat 6 ((o - 0x100) / 8))).word
  else 0
/-- The MSI-X table: address, then data and mask (R34, R35). -/
def State.readMsix (s : State) (o : Nat) : Xword :=
  let v := o / 16
  if 69 ≤ v then 0
  else
    let e := s.msixTable.get (BitVec.ofNat 7 v)
    if o % 16 = 0 then e.addr else BitVec.ofNat 64 (e.data.toNat + b2n (bit s.msixMask v) * 2 ^ 32)
/-- The command queue control block (R64). -/
def State.readQueues (s : State) (o : Nat) : Xword :=
  let q := s.queues.get (BitVec.ofNat 6 (o / 0x200))
  if 0x8000 ≤ o then (if o < 0x8800 then s.sigobj.get (BitVec.ofNat 8 ((o - 0x8000) / 8)) else 0)
  else match o % 0x200 with
    | 0x00 => BitVec.ofNat 64 (q.base.toNat * 4096)
    | 0x08 => BitVec.ofNat 64 (q.size.toNat + b2n (q.state != .disabled) * 2 ^ 8)
    | 0x10 => BitVec.ofNat 64 (q.state.code + q.errcode.toNat * 2 ^ 8 + q.erroff.toNat * 2 ^ 16)
    | 0x18 => BitVec.ofNat 64 (q.head.toNat + q.tail.toNat * 2 ^ 32)
    | _ => 0
/-- TQSTAT (R263). -/
def TrapQueue.word (q : TrapQueue) : Xword :=
  BitVec.ofNat 64 (q.state.code + min 255 (q.fatal.length + b2n (q.lost.any fun r => r.cls == 4)) * 2 ^ 8 + min 0xFFFF q.held.length * 2 ^ 16 + q.ovf.toNat * 2 ^ 32 +
    q.dropped.toNat * 2 ^ 48)
/-- The scheduler and trap queue block (R100, R263, R407). -/
def State.readSched (s : State) (o : Nat) : Xword :=
  if o < 0x100 then (if o % 16 = 0 then s.ctxStat (BitVec.ofNat 4 (o / 16)) else 0)
  else if 0x2000 ≤ o ∧ o < 0x2080 then (s.istep.get (BitVec.ofNat 4 ((o - 0x2000) / 8))).zeroExtend 64
  else match o with
    | 0x1000 => BitVec.ofNat 64 (s.tq.base.toNat * 4096)
    | 0x1008 => BitVec.ofNat 64 (s.tq.size.toNat + b2n (s.tq.state != .disabled) * 2 ^ 8)
    | 0x1010 => BitVec.ofNat 64 (s.tq.head.toNat + s.tq.tail.toNat * 2 ^ 32)
    | 0x1018 => s.tq.word
    | 0x1028 => s.tq.wdms.zeroExtend 64
    | _ => 0
/-- ULSTAT (R42); the peer's fields are valid in states 3 to 5. -/
def Link.word (l : Link) : Xword :=
  BitVec.ofNat 64 (l.state.code + b2n l.lost * 2 ^ 3 + l.lanes.toNat * 2 ^ 8 + l.peerLink.toNat * 2 ^ 22 +
    l.peerDev.toNat * 2 ^ 26 + l.replays.toNat * 2 ^ 32)
/-- The link and pod block (R42). -/
def State.readLinks (s : State) (o : Nat) : Xword :=
  if o < 0x100 then
    let l := s.links.get (BitVec.ofNat 4 (o / 16))
    (if o % 16 = 0 then BitVec.ofNat 64 (b2n l.enable) else l.word)
  else if o = 0x100 then BitVec.ofNat 64 (s.devnum.toNat + b2n s.podValid * 2 ^ 7 + s.podtmo.toNat * 2 ^ 32)
  else if 0x200 ≤ o ∧ o < 0x400 then (s.podrt.get (BitVec.ofNat 6 ((o - 0x200) / 8))).zeroExtend 64
  else 0
/-- Eight bytes of a run as a word. -/
def wordOf (b : List Byte) (o : Nat) : Xword := BitVec.ofNat 64 (fieldOf b o 8)
/-- The boot, lease, keys and strip block (R63). -/
def State.readBoot (s : State) (o : Nat) : Xword :=
  let b := s.boot
  if 0x040 ≤ o ∧ o < 0x0A0 then
    let k := (o - 0x040) / 8
    BitVec.ofNat 64 ((b.meas.get (BitVec.ofNat 2 (k / 4))).toNat / 2 ^ (64 * (k % 4)))
  else if 0x300 ≤ o ∧ o < 0x320 then b.qnonce.get (BitVec.ofNat 2 ((o - 0x300) / 8))
  else if 0x400 ≤ o ∧ o < 0x500 then wordOf b.qbuf (o - 0x400)
  else if 0x800 ≤ o ∧ o < 0xA80 then (if b.recValid then wordOf b.stripRec (o - 0x800) else 0)
  else if 0x1000 ≤ o ∧ o < 0x1040 then wordOf (bytesOf 64 Config.identityKey.toNat) (o - 0x1000)
  else match o with
    | 0x000 => b.bootstat
    | 0x008 => b.stripstat
    | 0x100 => b.fwAddr
    | 0x108 => b.fwLen
    | 0x110 => BitVec.ofNat 64 (b.fwst.toNat * 2)
    | 0x200 => b.keySel.zeroExtend 64
    | 0x208 => BitVec.ofNat 64 (b.keyStatus.toNat * 2 ^ 4)
    | 0x320 => BitVec.ofNat 64 (b2n b.qdone * 2)
    | _ => 0
/-- SNAPCTL (R264). -/
def Snap.word (p : Snap) : Xword :=
  BitVec.ofNat 64 (b2n p.armed * 4 + p.src.toNat * 2 ^ 32 + p.slot.toNat * 2 ^ 36 + p.cause.toNat * 2 ^ 40 +
    p.missed.toNat * 2 ^ 48)
/-- The snapshot window (R264). -/
def State.readSnap (s : State) (o : Nat) : Xword :=
  let p := s.snap
  if o = 0 then p.word
  else if 0x1000 ≤ o ∧ o < 0x1200 then (p.seqr[(o - 0x1000) / 8]?).getD 0
  else if 0x1200 ≤ o ∧ o < 0x1280 then (p.seqSlots[(o - 0x1200) / 8]?).getD 0
  else if 0x10000 ≤ o ∧ o < 0x90000 then
    ((p.dies[(o - 0x10000) / 8192]?).bind fun d => d[(o - 0x10000) % 8192 / 8]?).getD 0
  else 0

/-- What a 64-bit host read of the management window at an offset gives (R34): an unaligned one reads zero; while a reset
or a strip runs only RESETCTL and PKGPWR respond, in ROMHALT the boot block alone (R25, R54, R57). -/
def State.hostRead (s : State) (o : Nat) : Xword :=
  if o % 8 ≠ 0 ∨ 2 ^ 25 ≤ o then 0
  else if !s.windowOpen ∧ o ≠ 0x1000 ∧ o ≠ 0x1010 then 0
  else if s.windowOpen ∧ !s.hostOpen ∧ (o < 0x60000 ∨ 0x70000 ≤ o) then 0
  else if o = 0 then BitVec.ofNat 64 (0x6400 + Config.stepping.toNat * 2 ^ 16)
  else if 0x1000 ≤ o ∧ o < 0x2000 then s.readPower (o - 0x1000)
  else if 0x10000 ≤ o ∧ o < 0x11000 then s.readMsix (o - 0x10000)
  else if 0x18000 ≤ o ∧ o < 0x19000 then
    (if o - 0x18000 < 16 then BitVec.ofNat 64 (s.msixPend.toNat / 2 ^ (8 * (o - 0x18000))) else 0)
  else if 0x20000 ≤ o ∧ o < 0x30000 then s.readQueues (o - 0x20000)
  else if 0x30000 ≤ o ∧ o < 0x40000 then s.readSched (o - 0x30000)
  else if 0x40000 ≤ o ∧ o < 0x41000 then s.readLinks (o - 0x40000)
  else if 0x60000 ≤ o ∧ o < 0x70000 then s.readBoot (o - 0x60000)
  else if 0x100000 ≤ o ∧ o < 0x200000 then s.readSnap (o - 0x100000)
  else 0

/-- What a host read of `n` bytes gives: one narrower than 64 bits reads zero (R18, R34). -/
def State.hostReadN (s : State) (o n : Nat) : Xword := if n = 8 then s.hostRead o else 0

/-! ### Writing (R4) -/

/-- The power block: PLIM and TWARNLVL stay within their limits, COLD comes before WARM, TWARN clears (R19-R21, R26, R28).
A new PLIM is held against PMEAS at once (R14, R137). -/
def State.writePower (s : State) (o : Nat) (v : Xword) : State :=
  if o = 0 then
    let plim := BitVec.ofNat 16 (min 9000 (max 2000 (bits v 15 0)))
    { s with plim := plim, plimThrottle := decide (plim.toNat ≤ s.pmeas.toNat) }
  else if o = 8 then { s with twarnLvl := BitVec.ofNat 8 (min 105 (max 40 (bits v 7 0))) }
  else if o = 16 then
    (if !s.mayReset then s else if bit v 1 then s.requestReset true 2 else if bit v 0 then s.requestReset false 3 else s)
  else if 0x100 ≤ o ∧ o < 0x300 then
    s.onColumn (BitVec.ofNat 6 ((o - 0x100) / 8)) fun c => { c with twarn := c.twarn && !bit v 1 }
  else s
/-- The MSI-X table; a vector whose mask is cleared sends what is pending (R34, R35). -/
def State.writeMsix (s : State) (o : Nat) (v : Xword) : State :=
  let k := o / 16
  let i := BitVec.ofNat 7 k
  if 69 ≤ k then s
  else if o % 16 = 0 then { s with msixTable := s.msixTable.put i { s.msixTable.get i with addr := v } }
  else
    let s := { s with msixTable := s.msixTable.put i { s.msixTable.get i with data := v.truncate 32 } }
    if bit v 32 then { s with msixMask := s.msixMask ||| BitVec.ofNat 69 (2 ^ k) } else s.unmask k
/-- The command queues and the signal objects (R64, R65). -/
def State.writeQueues (s : State) (o : Nat) (v : Xword) : State :=
  let q := BitVec.ofNat 6 (o / 0x200)
  if 0x8000 ≤ o then (if o < 0x8800 then s.setSig (BitVec.ofNat 8 ((o - 0x8000) / 8)) v else s)
  else match o % 0x200 with
    | 0x00 => guarded ((s.queues.get q).state == .disabled) (s.onQueue q fun x => { x with base := BitVec.ofNat 52 (bits v 63 12) }) s
    | 0x08 => s.queueControl q v
    | _ => s
/-- TQCFG: SIZE while DISABLED, ENABLE, RESUME (R263). -/
def State.tqControl (s : State) (v : Xword) : State :=
  let n := bits v 4 0
  let s := guarded (s.tq.state == .disabled) { s with tq := { s.tq with size := if 6 ≤ n ∧ n ≤ 16 then BitVec.ofNat 5 n else 6 } } s
  let s := s.tqEnable (bit v 8)
  if bit v 9 then s.tqResume else s
/-- The scheduler and trap queue block (R100, R255, R263, R407). -/
def State.writeSched (s : State) (o : Nat) (v : Xword) : State :=
  if o < 0x100 then (if o % 16 = 8 && bit v 0 then s.hostKill (BitVec.ofNat 4 (o / 16)) else s)
  else if 0x2000 ≤ o ∧ o < 0x2080 then
    { s with istep := s.istep.put (BitVec.ofNat 4 ((o - 0x2000) / 8)) (BitVec.ofNat 16 (bits v 15 0)) }
  else match o with
    | 0x1000 => guarded (s.tq.state == .disabled) { s with tq := { s.tq with base := BitVec.ofNat 52 (bits v 63 12) } } s
    | 0x1008 => s.tqControl v
    | 0x1010 => s.tqHead (BitVec.ofNat 32 (bits v 31 0))
    | 0x1020 =>
      let id := BitVec.ofNat 12 (bits v 11 0)
      (match bits v 17 16 with | 0 => s.serviceRetry id | 1 => s.serviceKill id | _ => s)
    | 0x1028 => { s with tq := { s.tq with wdms := BitVec.ofNat 16 (bits v 15 0) } }
    | _ => s
/-- The link and pod block: ENABLE, RETRAIN, LOST clears, PODCFG, PODRT (R40-R43). -/
def State.writeLinks (s : State) (o : Nat) (v : Xword) : State :=
  let n := BitVec.ofNat 4 (o / 16)
  if o < 0x100 then
    (if o % 16 = 8 then s.onLink n fun l => { l with lost := l.lost && !bit v 3 }
     else
      s.onLink n fun l => let l := l.setEnable (bit v 0); if bit v 1 then l.retrain else l)
  else if o = 0x100 then s.podConfig v
  else if 0x200 ≤ o ∧ o < 0x400 then { s with podrt := s.podrt.put (BitVec.ofNat 6 ((o - 0x200) / 8)) (BitVec.ofNat 16 (bits v 15 0)) }
  else s
/-- The boot, lease, keys and strip block (R60, R63). -/
def State.writeBoot (s : State) (o : Nat) (v : Xword) : State :=
  let b := s.boot
  if 0x220 ≤ o ∧ o < 0x240 then { s with boot := { b with keyData := b.keyData.put (BitVec.ofNat 2 ((o - 0x220) / 8)) v } }
  else if 0x300 ≤ o ∧ o < 0x320 then { s with boot := { b with qnonce := b.qnonce.put (BitVec.ofNat 2 ((o - 0x300) / 8)) v } }
  else match o with
    | 0x100 => { s with boot := { b with fwAddr := v } }
    | 0x108 => { s with boot := { b with fwLen := v } }
    | 0x110 => if bit v 0 then s.startLoad else s
    | 0x200 => { s with boot := { b with keySel := BitVec.ofNat 12 (bits v 11 0) } }
    | 0x208 => (match bits v 1 0 with | 1 => s.keyLoad | 2 => s.keyZero | _ => s)
    | 0x320 =>
      let s := { s with boot := { b with qdone := b.qdone && !bit v 1 } }
      if bit v 0 then s.askQuote else s
    | _ => s
/-- SNAPCTL: ARM, then TRIG (R264; log 103). -/
def State.writeSnap (s : State) (o : Nat) (v : Xword) : State :=
  if o ≠ 0 then s
  else
    let s := if bit v 0 then s.arm else s
    if bit v 1 then s.trigger 3 0 0 else s

/-- REGISTER_WRITE: a 64-bit host write of the management window replaces, clears or ignores each field as its access
code says, and sets off what its control bits ask for; a narrower or unaligned one is ignored (R4, R18, R34). The events of
the table that stand for such a bit alone do the same (log 42). -/
def execRegisterWrite (o : BitVec 25) (w : HostWord) (s : State) : Out :=
  let o := o.toNat
  let v := w.value
  .next (
    if o % 8 ≠ 0 ∨ w.bytes ≠ 8 then s
    else if 0x60000 ≤ o ∧ o < 0x70000 then
      (if s.windowOpen ∨ (o = 0x60208 ∧ s.resetRun.isNone) then s.writeBoot (o - 0x60000) v else s)
    else if !s.hostOpen ∧ (s.windowOpen ∨ (o ≠ 0x1000 ∧ o ≠ 0x1010)) then s
    else if 0x1000 ≤ o ∧ o < 0x2000 then s.writePower (o - 0x1000) v
    else if 0x10000 ≤ o ∧ o < 0x11000 then s.writeMsix (o - 0x10000) v
    else if 0x20000 ≤ o ∧ o < 0x30000 then s.writeQueues (o - 0x20000) v
    else if 0x30000 ≤ o ∧ o < 0x40000 then s.writeSched (o - 0x30000) v
    else if 0x40000 ≤ o ∧ o < 0x41000 then s.writeLinks (o - 0x40000) v
    else if 0x100000 ≤ o ∧ o < 0x200000 then s.writeSnap (o - 0x100000) v
    else s)

end Sys2Proof.Machine
end

