-- ==== Sys2Proof/Machine/VInt.lean ====
section
/-!
DEFINITION. Vector integer, shift, reduction, move and hash instructions, and the cell scalar instructions without memory
(16 R316-R323, R327-R330).
-/
namespace Sys2Proof.Machine
open Sys2Proof

/-- The lane-wise two-operand instructions: a from vA, b from vB or the immediate, both as n-bit patterns (R318, R320). -/
def binOp (t : BitVec 4) (d a b : BitVec 5) (m : BitVec 3) (x : Option Word) (f : Nat → Nat → Nat) : CellFn :=
  vecOp t.toNat m d fun _ c i =>
    f (lane (tyBits t.toNat) (c.getV a) i) (immOr t.toNat x (c.getV b) i)

/-- The lane-wise one-operand instructions (R320). -/
def unOp (t : Nat) (d a : BitVec 5) (m : BitVec 3) (f : Nat → Nat) : CellFn :=
  vecOp t m d fun _ c i => f (lane (tyBits t) (c.getV a) i)

/-- A lane result computed on integers read under the type, modulo 2^n (R320). -/
def intLane (t : Nat) (f : Int → Int → Int) (a b : Nat) : Nat :=
  wrapN (tyBits t) (f (asInt t (tyBits t) a) (asInt t (tyBits t) b))

/-- VADD (R320). -/
def execVadd (t : BitVec 4) (d a b : BitVec 5) (m : BitVec 3) (x : Option Word) (s : State) : Out :=
  onCells (binOp t d a b m x (intLane t.toNat (· + ·))) s
/-- VSUB (R320). -/
def execVsub (t : BitVec 4) (d a b : BitVec 5) (m : BitVec 3) (x : Option Word) (s : State) : Out :=
  onCells (binOp t d a b m x (intLane t.toNat (· - ·))) s
/-- VMUL (R320). -/
def execVmul (t : BitVec 4) (d a b : BitVec 5) (m : BitVec 3) (x : Option Word) (s : State) : Out :=
  onCells (binOp t d a b m x (intLane t.toNat (· * ·))) s
/-- VMULH: bits 2n−1:n of the exact product (R320). -/
def execVmulh (t : BitVec 4) (d a b : BitVec 5) (m : BitVec 3) (x : Option Word) (s : State) : Out :=
  onCells (binOp t d a b m x (intLane t.toNat fun p q => p * q / 2 ^ tyBits t.toNat)) s
/-- VMIN (R320). -/
def execVmin (t : BitVec 4) (d a b : BitVec 5) (m : BitVec 3) (x : Option Word) (s : State) : Out :=
  onCells (binOp t d a b m x (intLane t.toNat min)) s
/-- VMAX (R320). -/
def execVmax (t : BitVec 4) (d a b : BitVec 5) (m : BitVec 3) (x : Option Word) (s : State) : Out :=
  onCells (binOp t d a b m x (intLane t.toNat max)) s
/-- VSADD: clamped to the range of the type (R320). -/
def execVsadd (t : BitVec 4) (d a b : BitVec 5) (m : BitVec 3) (x : Option Word) (s : State) : Out :=
  onCells (binOp t d a b m x (intLane t.toNat fun p q => clampTo (tySigned t.toNat) (tyBits t.toNat) (p + q))) s
/-- VSSUB (R320). -/
def execVssub (t : BitVec 4) (d a b : BitVec 5) (m : BitVec 3) (x : Option Word) (s : State) : Out :=
  onCells (binOp t d a b m x (intLane t.toNat fun p q => clampTo (tySigned t.toNat) (tyBits t.toNat) (p - q))) s
/-- VABD: the exact distance, as an unsigned value (R320). -/
def execVabd (t : BitVec 4) (d a b : BitVec 5) (m : BitVec 3) (x : Option Word) (s : State) : Out :=
  onCells (binOp t d a b m x (intLane t.toNat fun p q => ((p - q).natAbs : Int))) s
/-- VAND (R320). -/
def execVand (t : BitVec 4) (d a b : BitVec 5) (m : BitVec 3) (x : Option Word) (s : State) : Out :=
  onCells (binOp t d a b m x (· &&& ·)) s
/-- VOR (R320). -/
def execVor (t : BitVec 4) (d a b : BitVec 5) (m : BitVec 3) (x : Option Word) (s : State) : Out :=
  onCells (binOp t d a b m x (· ||| ·)) s
/-- VXOR (R320). -/
def execVxor (t : BitVec 4) (d a b : BitVec 5) (m : BitVec 3) (x : Option Word) (s : State) : Out :=
  onCells (binOp t d a b m x (· ^^^ ·)) s

/-- A shift: the count from vB's lane read as unsigned, or the immediate (R321). -/
def shiftOp (t : BitVec 4) (d a b : BitVec 5) (m : BitVec 3) (x : Option Word) (f : Nat → Nat → Nat) : CellFn :=
  vecOp t.toNat m d fun _ c i =>
    f (lane (tyBits t.toNat) (c.getV a) i)
      (match x with | some e => e.toNat % 64 | none => lane (tyBits t.toNat) (c.getV b) i)

/-- VSHL (R321). -/
def execVshl (t : BitVec 4) (d a b : BitVec 5) (m : BitVec 3) (x : Option Word) (s : State) : Out :=
  onCells (shiftOp t d a b m x fun p k =>
    if tyBits t.toNat ≤ k then 0 else p * 2 ^ k % 2 ^ tyBits t.toNat) s
/-- VSHR (R321). -/
def execVshr (t : BitVec 4) (d a b : BitVec 5) (m : BitVec 3) (x : Option Word) (s : State) : Out :=
  onCells (shiftOp t d a b m x fun p k => if tyBits t.toNat ≤ k then 0 else p / 2 ^ k) s
/-- VSRA: at a count of the width or more, every bit equals the sign bit (R321). -/
def execVsra (t : BitVec 4) (d a b : BitVec 5) (m : BitVec 3) (x : Option Word) (s : State) : Out :=
  onCells (shiftOp t d a b m x fun p k =>
    wrapN (tyBits t.toNat) (sextN p (tyBits t.toNat) / 2 ^ min k (tyBits t.toNat))) s

/-- VMAD (R322). -/
def execVmad (t : BitVec 4) (d a b : BitVec 5) (m : BitVec 3) (c : BitVec 5) (s : State) : Out :=
  onCells (vecOp t.toNat m d fun _ p i =>
    let n := tyBits t.toNat
    (lane n (p.getV a) i * lane n (p.getV b) i + lane n (p.getV c) i) % 2 ^ n) s

/-- VABS: |a| modulo 2^n, of the signed type 8 + 2t (R320). -/
def execVabs (t : BitVec 2) (d a : BitVec 5) (m : BitVec 3) (s : State) : Out :=
  let ty := 8 + 2 * t.toNat
  onCells (unOp ty d a m fun p => (sextN p (tyBits ty)).natAbs % 2 ^ tyBits ty) s
/-- VNEG (R320). -/
def execVneg (t : BitVec 4) (d a : BitVec 5) (m : BitVec 3) (s : State) : Out :=
  onCells (unOp t.toNat d a m fun p => wrapN (tyBits t.toNat) (-(p : Int))) s
/-- VNOT (R320). -/
def execVnot (t : BitVec 4) (d a : BitVec 5) (m : BitVec 3) (s : State) : Out :=
  onCells (unOp t.toNat d a m fun p => 2 ^ tyBits t.toNat - 1 - p) s
/-- The number of leading zero bits of an n-bit pattern. -/
def clzN (n p : Nat) : Nat := if p = 0 then n else n - 1 - p.log2
/-- The number of 1 bits among the low n bits. -/
def popN : Nat → Nat → Nat
  | 0, _ => 0
  | n + 1, p => p % 2 + popN n (p / 2)
/-- VCLZ (R320). -/
def execVclz (t : BitVec 4) (d a : BitVec 5) (m : BitVec 3) (s : State) : Out :=
  onCells (unOp t.toNat d a m (clzN (tyBits t.toNat))) s
/-- VPOPC (R320). -/
def execVpopc (t : BitVec 4) (d a : BitVec 5) (m : BitVec 3) (s : State) : Out :=
  onCells (unOp t.toNat d a m (popN (tyBits t.toNat))) s

/-! ### Reductions (R323) -/

/-- The enabled lanes of vA, as integers under the type. -/
def enabledInts (t : Nat) (m : BitVec 16) (v : Vec) : List Int :=
  ((List.range (tyLanes t)).filter (en m (tyBits t))).map (laneInt t (tyBits t) v)

/-- A reduction writes bits 63:0 of vD and clears the rest. -/
def reduceOp (t : BitVec 4) (d a : BitVec 5) (m : BitVec 3) (f : List Int → Int) : CellFn :=
  pureOp fun _ pre post =>
    post.setV d (BitVec.ofNat 512 (wrapN 64 (f (enabledInts t.toNat (pre.getM m) (pre.getV a)))))

/-- The least and greatest values of a type (R220). -/
def tyLeast (t : Nat) : Int := if tySigned t then -(2 ^ (tyBits t - 1)) else 0
def tyGreatest (t : Nat) : Int := if tySigned t then 2 ^ (tyBits t - 1) - 1 else 2 ^ tyBits t - 1

/-- VRSUM (R323). -/
def execVrsum (t : BitVec 4) (d a : BitVec 5) (m : BitVec 3) (s : State) : Out :=
  onCells (reduceOp t d a m fun l => l.foldl (· + ·) 0) s
/-- VRMAX (R323). -/
def execVrmax (t : BitVec 4) (d a : BitVec 5) (m : BitVec 3) (s : State) : Out :=
  onCells (reduceOp t d a m fun l => l.foldl max (tyLeast t.toNat)) s
/-- VRMIN (R323). -/
def execVrmin (t : BitVec 4) (d a : BitVec 5) (m : BitVec 3) (s : State) : Out :=
  onCells (reduceOp t d a m fun l => l.foldl min (tyGreatest t.toNat)) s

/-! ### Lane moves (R327, R328) -/

/-- VMOV. -/
def execVmov (t : BitVec 4) (d a : BitVec 5) (m : BitVec 3) (s : State) : Out :=
  onCells (unOp t.toNat d a m id) s
/-- VMOVI. -/
def execVmovi (t : BitVec 4) (d : BitVec 5) (m : BitVec 3) (i : BitVec 32) (s : State) : Out :=
  onCells (vecOp t.toNat m d fun _ _ _ => immLane t.toNat i) s
/-- VBROAD: from bA, or kA when FN is 1. -/
def execVbroad (t : BitVec 4) (d : BitVec 5) (a : BitVec 4) (m : BitVec 3) (f : BitVec 1) (s : State) : Out :=
  onCells (vecOp t.toNat m d fun env c _ =>
    immLane t.toNat (if f = 1 then env.k.get (a.truncate 2) else c.getB a)) s
/-- VSEL: every lane is written. -/
def execVsel (t : BitVec 4) (d a b : BitVec 5) (m : BitVec 3) (s : State) : Out :=
  onCells (pureOp fun _ pre post =>
    let n := tyBits t.toNat
    post.setV d (ofLanes n (512 / n) fun i =>
      if en (pre.getM m) n i then lane n (pre.getV a) i else lane n (pre.getV b) i)) s
/-- VSHUF. -/
def execVshuf (t : BitVec 4) (d a b : BitVec 5) (m : BitVec 3) (s : State) : Out :=
  onCells (vecOp t.toNat m d fun _ c i =>
    let n := tyBits t.toNat
    lane n (c.getV a) (lane n (c.getV b) i % tyLanes t.toNat)) s
/-- VROTL: lane i receives lane (i − r) mod L. -/
def execVrotl (t : BitVec 4) (d a : BitVec 5) (b : BitVec 4) (m : BitVec 3) (x : Option Word) (s : State) : Out :=
  onCells (vecOp t.toNat m d fun _ c i =>
    let l := tyLanes t.toNat
    let r := match x with | some e => e.toNat % 128 | none => (c.getB b).toNat
    lane (tyBits t.toNat) (c.getV a) ((i + l - r % l) % l)) s
/-- The lane that VEXT and VINS name: bB mod L, or the immediate. -/
def laneNo (t : Nat) (c : Cell) (b : BitVec 4) (x : Option Word) : Nat :=
  match x with | some e => e.toNat % 128 | none => (c.getB b).toNat % tyLanes t
/-- VEXT: a lane into bD, extended to 32 bits, or a half of a 64-bit lane. -/
def execVext (t : BitVec 4) (d : BitVec 4) (a : BitVec 5) (b : BitVec 4) (h : BitVec 1) (x : Option Word) (s : State) : Out :=
  onCells (pureOp fun _ pre post =>
    let n := tyBits t.toNat
    let l := lane n (pre.getV a) (laneNo t.toNat pre b x)
    post.setB d (if n = 64 then BitVec.ofNat 32 (if h = 1 then l / 2 ^ 32 else l)
                 else BitVec.ofNat 32 (wrapN 32 (asInt t.toNat n l)))) s
/-- VINS: only lane j of vD changes. -/
def execVins (t : BitVec 4) (d : BitVec 5) (a b : BitVec 4) (h : BitVec 1) (x : Option Word) (s : State) : Out :=
  onCells (pureOp fun _ pre post =>
    let n := tyBits t.toNat
    let j := laneNo t.toNat pre b x
    let old := pre.getV d
    let val := if n = 64 ∧ h = 1 then lane 64 old j % 2 ^ 32 + (pre.getB a).toNat * 2 ^ 32
               else immLane t.toNat (pre.getB a)
    post.setV d (ofLanes n (512 / n) fun i => if i = j then val else lane n old i)) s
/-- VIOTA: bA, extended under the type, plus the lane number. -/
def execViota (t : BitVec 4) (d : BitVec 5) (a : BitVec 4) (m : BitVec 3) (s : State) : Out :=
  onCells (vecOp t.toNat m d fun _ c i =>
    wrapN (tyBits t.toNat) (asInt t.toNat 32 (c.getB a).toNat + i)) s
/-- VCELLID: the cell's position from logical indices, of the type 12 + t (R328). -/
def execVcellid (t : BitVec 2) (d : BitVec 5) (m : BitVec 3) (f : BitVec 2) (s : State) : Out :=
  let ty := 12 + t.toNat
  onCells (vecOp ty m d fun env _ i =>
    let l := 1600 * env.die + env.cell
    (match f.toNat with
     | 0 => l
     | 1 => env.die
     | 2 => env.cell
     | _ => l * tyLanes ty + i) % 2 ^ tyBits ty) s

/-! ### VHASH (R329) -/

/-- The round constants K of R329. -/
def hashK : List Nat := [0xD2B74407, 0xA3E59C1B, 0x8F1D2B65, 0xC6A4A793]
/-- The four rounds over a counter and the key words. -/
def vhash (c : Nat) (key : List Nat) : Nat :=
  (hashK.zip key).foldl (fun x kk => let p := x * kk.1; (p / 2 ^ 32) ^^^ (p % 2 ^ 32) ^^^ kk.2) c
/-- VHASH. -/
def execVhash (t : BitVec 1) (d a b : BitVec 5) (m : BitVec 3) (s : State) : Out :=
  onCells (vecOp (12 + t.toNat) m d fun _ c i =>
    vhash (lane 32 (c.getV a) i) ((List.range 4).map (lane 32 (c.getV b)))) s

/-! ### Cell scalar instructions (R330) -/

/-- A cell scalar result. -/
def scalarOp (d : BitVec 4) (f : Cell → Word) : CellFn := pureOp fun _ pre post => post.setB d (f pre)
/-- BADD. -/
def execBadd (d a b : BitVec 4) (s : State) : Out := onCells (scalarOp d fun c => c.getB a + c.getB b) s
/-- BSUB. -/
def execBsub (d a b : BitVec 4) (s : State) : Out := onCells (scalarOp d fun c => c.getB a - c.getB b) s
/-- BMUL. -/
def execBmul (d a b : BitVec 4) (s : State) : Out := onCells (scalarOp d fun c => c.getB a * c.getB b) s
/-- BSHL: 0 for a count of 32 or more. -/
def execBshl (d a b : BitVec 4) (s : State) : Out :=
  onCells (scalarOp d fun c => c.getB a <<< (c.getB b).toNat) s
/-- BSHR: logical, or arithmetic with sign fill. -/
def execBshr (d a b : BitVec 4) (f : BitVec 1) (s : State) : Out :=
  onCells (scalarOp d fun c =>
    if f = 1 then (c.getB a).sshiftRight (c.getB b).toNat else c.getB a >>> (c.getB b).toNat) s
/-- BADDI. -/
def execBaddi (d a : BitVec 4) (i : BitVec 32) (s : State) : Out := onCells (scalarOp d fun c => c.getB a + i) s
/-- BAND. -/
def execBand (d a b : BitVec 4) (s : State) : Out := onCells (scalarOp d fun c => c.getB a &&& c.getB b) s
/-- BOR. -/
def execBor (d a b : BitVec 4) (s : State) : Out := onCells (scalarOp d fun c => c.getB a ||| c.getB b) s
/-- BXOR. -/
def execBxor (d a b : BitVec 4) (s : State) : Out := onCells (scalarOp d fun c => c.getB a ^^^ c.getB b) s
/-- BMOV. -/
def execBmov (d a : BitVec 4) (s : State) : Out := onCells (scalarOp d fun c => c.getB a) s
/-- BLI. -/
def execBli (d : BitVec 4) (i : BitVec 32) (s : State) : Out := onCells (scalarOp d fun _ => i) s
/-- BCMP: 0 eq, 1 ne, 2 lt signed, 3 ltu. -/
def execBcmp (d : BitVec 2) (a b : BitVec 4) (c : BitVec 2) (s : State) : Out :=
  onCells (pureOp fun _ pre post =>
    let p := pre.getB a
    let q := pre.getB b
    post.setC d (match c.toNat with | 0 => p == q | 1 => p != q | 2 => p.slt q | _ => p.ult q)) s

end Sys2Proof.Machine
end

