-- ==== Sys2Proof/Machine/VMask.lean ====
section
/-!
DEFINITION. Compares, mask operations and the activity instructions (06 R116, 16 R324-R326, R331).
-/
namespace Sys2Proof.Machine
open Sys2Proof

/-- The 16 bits a compare writes (R324): bit k is 0 where the mask governs it so; for 32-bit lanes it is lane k's result,
for 64-bit lanes the result of lane k/2, for narrower lanes the conjunction over the lanes it governs. -/
def cmpBits (n : Nat) (m : BitVec 16) (r : Nat → Bool) : BitVec 16 :=
  let bitAt (k : Nat) : Bool :=
    if n = 64 then en m 64 (k / 2) && r (k / 2)
    else m.getLsbD k && (List.range (32 / n)).all fun j => r (k * (32 / n) + j)
  BitVec.ofNat 16 (packLanes 1 ((List.range 16).map fun k => b2n (bitAt k)))

/-- VCMP: 0 eq, 1 ne, 2 lt, 3 le (R324). -/
def execVcmp (t : BitVec 4) (d : BitVec 3) (a b : BitVec 5) (m : BitVec 3) (c : BitVec 2) (x : Option Word) (s : State) : Out :=
  onCells (pureOp fun _ pre post =>
    let n := tyBits t.toNat
    post.setM d (cmpBits n (pre.getM m) fun i =>
      let p := laneInt t.toNat n (pre.getV a) i
      let q := asInt t.toNat n (immOr t.toNat x (pre.getV b) i)
      match c.toNat with
      | 0 => decide (p = q) | 1 => decide (p ≠ q) | 2 => decide (p < q) | _ => decide (p ≤ q))) s

/-- VTEST: 0 any, 1 all (R325). -/
def execVtest (t : BitVec 4) (d : BitVec 2) (a : BitVec 5) (m : BitVec 3) (f : BitVec 1) (s : State) : Out :=
  onCells (pureOp fun _ pre post =>
    let n := tyBits t.toNat
    let ls := (List.range (512 / n)).filter (en (pre.getM m) n)
    let nz := fun i => lane n (pre.getV a) i != 0
    post.setC d (if f = 1 then ls.all nz else ls.any nz)) s

/-- VMAND (R326). -/
def execVmand (d a b : BitVec 3) (s : State) : Out :=
  onCells (pureOp fun _ pre post => post.setM d (pre.getM a &&& pre.getM b)) s
/-- VMOR (R326). -/
def execVmor (d a b : BitVec 3) (s : State) : Out :=
  onCells (pureOp fun _ pre post => post.setM d (pre.getM a ||| pre.getM b)) s
/-- VMXOR (R326). -/
def execVmxor (d a b : BitVec 3) (s : State) : Out :=
  onCells (pureOp fun _ pre post => post.setM d (pre.getM a ^^^ pre.getM b)) s
/-- VMNOT (R326). -/
def execVmnot (d a : BitVec 3) (s : State) : Out :=
  onCells (pureOp fun _ pre post => post.setM d (~~~ pre.getM a)) s
/-- VMPOPC (R326). -/
def execVmpopc (d : BitVec 4) (a m : BitVec 3) (s : State) : Out :=
  onCells (pureOp fun _ pre post =>
    post.setB d (BitVec.ofNat 32 (popN 16 (pre.getM a &&& pre.getM m).toNat))) s

/-! ### Activity (R116): in every cell of an unmasked die, whatever its A -/

/-- VPUSHACT. -/
def execVpushact (k : BitVec 2) (s : State) : Out :=
  onCells (fun _ pre post =>
    if pre.stack.length = 8 then .error (plainFault .activityOverflow [(0, 8)])
    else .ok { post with stack := pre.act :: pre.stack, act := pre.act && pre.c.get k }) s
/-- VELSE. -/
def execVelse (s : State) : Out :=
  onCells (fun _ pre post =>
    match pre.stack with
    | [] => .error (plainFault .activityUnderflow [(0, 0)])
    | top :: _ => .ok { post with act := top && !pre.act }) s
/-- VPOPACT. -/
def execVpopact (s : State) : Out :=
  onCells (fun _ pre post =>
    match pre.stack with
    | [] => .error (plainFault .activityUnderflow [(0, 0)])
    | top :: r => .ok { post with act := top, stack := r }) s

end Sys2Proof.Machine
end

