-- ==== Sys2Proof/Machine/VFloat.lean ====
section
/-!
DEFINITION. Vector floating-point instructions (17 R338-R349).
-/
namespace Sys2Proof.Machine
open Sys2Proof

/-- FPCTL as the bundle carries it (R232). -/
def ctlOf (env : Env) : FpCtl := FpCtl.ofWord env.carried.fpctl

/-- A lane-wise floating-point operation into vD: results and flags by lane, from the cell before the bundle. -/
def fpLanes (t : Nat) (d : BitVec 5) (m : BitVec 3) (res : FpCtl → Cell → Nat → Nat × Flags5) : CellFn :=
  ifActive fun env pre post =>
    let n := tyBits t
    let mk := pre.getM m
    let r := res (ctlOf env) pre
    fpVec (ctlOf env) ((enabledLanes mk n (512 / n)).map fun i => (i, (r i).2))
      (post.setV d (mergeLanes n mk (pre.getV d) fun i => (r i).1))

/-- A two-operand operation with the immediate of R338. -/
def fpBin (t : BitVec 4) (d a b : BitVec 5) (m : BitVec 3) (x : Option Word)
    (f : Fmt → FpCtl → Nat → Nat → Nat × Flags5) : CellFn :=
  fpLanes t.toNat d m fun c p i =>
    f (fmtF t) c (lane (tyBits t.toNat) (p.getV a) i) (immFp t.toNat x (p.getV b) i)
/-- A one-operand operation. -/
def fpUn (t : BitVec 4) (d a : BitVec 5) (m : BitVec 3) (f : Fmt → FpCtl → Nat → Nat × Flags5) : CellFn :=
  fpLanes t.toNat d m fun c p i => f (fmtF t) c (lane (tyBits t.toNat) (p.getV a) i)
/-- A fused three-operand operation (R341). -/
def fpTri (t : BitVec 4) (d a b : BitVec 5) (m : BitVec 3) (e : BitVec 5) (negProd negC : Bool) : CellFn :=
  fpLanes t.toNat d m fun c p i =>
    let n := tyBits t.toNat
    fmaWith (fmtF t) c negProd negC (lane n (p.getV a) i) (lane n (p.getV b) i) (lane n (p.getV e) i)

/-- VFADD (R341). -/
def execVfadd (t : BitVec 4) (d a b : BitVec 5) (m : BitVec 3) (x : Option Word) (s : State) : Out :=
  onCells (fpBin t d a b m x fadd) s
/-- VFSUB (R341). -/
def execVfsub (t : BitVec 4) (d a b : BitVec 5) (m : BitVec 3) (x : Option Word) (s : State) : Out :=
  onCells (fpBin t d a b m x fsub) s
/-- VFMUL (R341). -/
def execVfmul (t : BitVec 4) (d a b : BitVec 5) (m : BitVec 3) (x : Option Word) (s : State) : Out :=
  onCells (fpBin t d a b m x fmul) s
/-- VFMA: a × b + c (R341). -/
def execVfma (t : BitVec 4) (d a b : BitVec 5) (m : BitVec 3) (c : BitVec 5) (s : State) : Out :=
  onCells (fpTri t d a b m c false false) s
/-- VFMS: a × b − c (R341). -/
def execVfms (t : BitVec 4) (d a b : BitVec 5) (m : BitVec 3) (c : BitVec 5) (s : State) : Out :=
  onCells (fpTri t d a b m c false true) s
/-- VFNMA: c − a × b (R341). -/
def execVfnma (t : BitVec 4) (d a b : BitVec 5) (m : BitVec 3) (c : BitVec 5) (s : State) : Out :=
  onCells (fpTri t d a b m c true false) s
/-- VFDIV (R342). -/
def execVfdiv (t : BitVec 4) (d a b : BitVec 5) (m : BitVec 3) (x : Option Word) (s : State) : Out :=
  onCells (fpBin t d a b m x fdiv) s
/-- VFSQRT (R342). -/
def execVfsqrt (t : BitVec 4) (d a : BitVec 5) (m : BitVec 3) (s : State) : Out :=
  onCells (fpUn t d a m fsqrt) s
/-- VFMIN (R343). -/
def execVfmin (t : BitVec 4) (d a b : BitVec 5) (m : BitVec 3) (x : Option Word) (s : State) : Out :=
  onCells (fpBin t d a b m x fun f c p q => fminmax f c false p q) s
/-- VFMAX (R343). -/
def execVfmax (t : BitVec 4) (d a b : BitVec 5) (m : BitVec 3) (x : Option Word) (s : State) : Out :=
  onCells (fpBin t d a b m x fun f c p q => fminmax f c true p q) s

/-- A bit-pattern operation on enabled lanes: no DAZ, no flags, no trap (R344, R346). -/
def patOp (t : BitVec 4) (d a : BitVec 5) (m : BitVec 3) (f : Nat → Nat → Nat) : CellFn :=
  vecOp t.toNat m d fun _ c i => f (tyBits t.toNat) (lane (tyBits t.toNat) (c.getV a) i)
/-- VFABS clears the sign bit (R344). -/
def execVfabs (t : BitVec 4) (d a : BitVec 5) (m : BitVec 3) (s : State) : Out :=
  onCells (patOp t d a m fun n p => p % 2 ^ (n - 1)) s
/-- VFNEG inverts the sign bit (R344). -/
def execVfneg (t : BitVec 4) (d a : BitVec 5) (m : BitVec 3) (s : State) : Out :=
  onCells (patOp t d a m fun n p => (p + 2 ^ (n - 1)) % 2 ^ n) s
/-- VFCLASS (R346). -/
def execVfclass (t : BitVec 4) (d a : BitVec 5) (m : BitVec 3) (s : State) : Out :=
  onCells (patOp t d a m fun _ p => 2 ^ fclass (fmtF t) p) s

/-- VFRCP (R347). -/
def execVfrcp (t : BitVec 4) (d a : BitVec 5) (m : BitVec 3) (s : State) : Out :=
  onCells (fpUn t d a m fun f c p => fspecial f c .rcp p) s
/-- VFRSQ (R347). -/
def execVfrsq (t : BitVec 4) (d a : BitVec 5) (m : BitVec 3) (s : State) : Out :=
  onCells (fpUn t d a m fun f c p => fspecial f c .rsq p) s
/-- VFEXP2 (R347). -/
def execVfexp2 (t : BitVec 4) (d a : BitVec 5) (m : BitVec 3) (s : State) : Out :=
  onCells (fpUn t d a m fun f c p => fspecial f c .exp2 p) s
/-- VFLOG2 (R347). -/
def execVflog2 (t : BitVec 4) (d a : BitVec 5) (m : BitVec 3) (s : State) : Out :=
  onCells (fpUn t d a m fun f c p => fspecial f c .log2 p) s
/-- VFTANH (R347). -/
def execVftanh (t : BitVec 4) (d a : BitVec 5) (m : BitVec 3) (s : State) : Out :=
  onCells (fpUn t d a m fun f c p => fspecial f c .tanh p) s

/-- VFCMP: 0 eq, 1 lt, 2 le, 3 un, into mD by the bit rule of VCMP (R324, R345). -/
def execVfcmp (t : BitVec 4) (d : BitVec 3) (a b : BitVec 5) (m : BitVec 3) (c : BitVec 2) (x : Option Word) (s : State) : Out :=
  onCells (ifActive fun env pre post =>
    let n := tyBits t.toNat
    let mk := pre.getM m
    let r := fun i => fcmp (fmtF t) (ctlOf env) c.toNat (lane n (pre.getV a) i) (immFp t.toNat x (pre.getV b) i)
    fpVec (ctlOf env) ((enabledLanes mk n (512 / n)).map fun i => (i, (r i).2))
      (post.setM d (cmpBits n mk fun i => (r i).1))) s

/-- VSCALE: the exponent from vB's lane as a signed integer of the lane's width, or the immediate (R349). -/
def execVscale (t : BitVec 4) (d a b : BitVec 5) (m : BitVec 3) (x : Option Word) (s : State) : Out :=
  onCells (fpLanes t.toNat d m fun c p i =>
    let n := tyBits t.toNat
    let k : Int := match x with | some e => e.toInt | none => sextN (lane n (p.getV b) i) n
    fscale (fmtF t) c (lane n (p.getV a) i) k) s

/-! ### VFRSUM (R348) -/

/-- One level of the tree: pairs of neighbours, each present or absent, with the flags gathered. -/
def pairSums (f : Fmt) (c : FpCtl) : List (Option Nat) → List (Option Nat) × Flags5
  | some x :: some y :: r =>
    let (z, fl) := fadd f { c with daz := false } x y
    let (zs, fs) := pairSums f c r
    (some z :: zs, fl ||| fs)
  | some x :: none :: r => let (zs, fs) := pairSums f c r; (some x :: zs, fs)
  | none :: y :: r => let (zs, fs) := pairSums f c r; (y :: zs, fs)
  | [x] => ([x], 0)
  | [] => ([], 0)

/-- The levels of the tree. -/
def treeSum (f : Fmt) (c : FpCtl) : Nat → List (Option Nat) → Option Nat × Flags5
  | 0, l => ((l.head?).getD none, 0)
  | k + 1, l =>
    let (l', fl) := pairSums f c l
    let (r, fs) := treeSum f c k l'
    (r, fl ||| fs)

/-- A lane as the tree takes it: DAZ, then a BF16 lane widened with its signalling NaN quieted, which sets NV. -/
def treeLane (f : Fmt) (c : FpCtl) (p : Nat) : Nat × Flags5 :=
  let p := dazIn f c.daz p
  if f = .bf16 then
    (if isNan f p then (nanTo .bf16 .fp32 p, if isSnan f p then Flags5.nv else 0) else (p * 2 ^ 16, 0))
  else (p, 0)

/-- VFRSUM. -/
def execVfrsum (t : BitVec 4) (d a : BitVec 5) (m : BitVec 3) (s : State) : Out :=
  onCells (ifActive fun env pre post =>
    let n := tyBits t.toNat
    let mk := pre.getM m
    let c := ctlOf env
    let wf : Fmt := if t = 6 then .fp64 else .fp32
    let ls := (List.range (512 / n)).map fun i =>
      if en mk n i then some (treeLane (fmtF t) c (lane n (pre.getV a) i)) else none
    let fl0 := ls.foldl (fun z l => match l with | some q => z ||| q.2 | none => z) (0 : Flags5)
    let (r, fl) := treeSum wf c (512 / n).log2 (ls.map fun l => l.map (·.1))
    fpVec c [(0xFF, fl0 ||| fl)] (post.setV d (BitVec.ofNat 512 (r.getD 0)))) s

end Sys2Proof.Machine
end

