-- ==== Sys2Proof/Machine/VConvert.lean ====
section
/-!
DEFINITION. Conversion, packing and Q16 quantisation (17 R350-R356).
-/
namespace Sys2Proof.Machine
open Sys2Proof

/-- The rounding mode of a VCVT: FPCTL.RM, or the static mode of RMO (R340). -/
def cvtMode (c : FpCtl) (r : BitVec 3) : Rm := if r = 0 then c.rm else Rm.ofCode r.toNat

/-- VCVT: t the destination, y the source, p the part (R350-R352). An integer to integer conversion sets no flag. -/
def execVcvt (t : BitVec 4) (d a : BitVec 5) (m : BitVec 3) (y : BitVec 4) (sat : BitVec 1) (r : BitVec 3) (p : BitVec 4)
    (s : State) : Out :=
  onCells (ifActive fun env pre post =>
    let nd := tyBits t.toNat
    let ns := tyBits y.toNat
    let ld := tyLanes t.toNat
    let ls := tyLanes y.toNat
    let mk := pre.getM m
    let c := ctlOf env
    let cv := fun j => conv c (cvtMode c r) y.toNat t.toNat (sat == 1) (lane ns (pre.getV a) j)
    if ld ≤ ls then
      fpVec c ((enabledLanes mk nd ld).map fun i => (i, (cv (p.toNat * ld + i)).2))
        (post.setV d (mergeLanes nd mk (pre.getV d) fun i => (cv (p.toNat * ld + i)).1))
    else
      let lo := p.toNat * ls
      let here := fun i => decide (lo ≤ i ∧ i < lo + ls) && en mk nd i
      fpVec c (((List.range ld).filter here).map fun i => (i, (cv (i - lo)).2))
        (post.setV d (ofLanes nd ld fun i => if here i then (cv (i - lo)).1 else lane nd (pre.getV d) i))) s

/-- VPACK (R353). -/
def execVpack (t : BitVec 4) (d a b : BitVec 5) (m : BitVec 3) (sat : BitVec 1) (s : State) : Out :=
  onCells (vecOp t.toNat m d fun _ c i =>
    let n := tyBits t.toNat
    let half := tyLanes t.toNat / 2
    let src := if i < half then lane (2 * n) (c.getV a) i else lane (2 * n) (c.getV b) (i - half)
    if sat = 1 then wrapN n (clampTo (tySigned t.toNat) n (asInt t.toNat (2 * n) src)) else src % 2 ^ n) s

/-- VUNPACK: half h of vA, each lane widened to twice its width (R354). -/
def execVunpack (t : BitVec 4) (d a : BitVec 5) (m : BitVec 3) (h : BitVec 1) (s : State) : Out :=
  onCells (pureOp fun _ pre post =>
    let n := tyBits t.toNat
    let ld := tyLanes t.toNat / 2
    post.setV d (mergeLanes (2 * n) (pre.getM m) (pre.getV d) fun i =>
      let x := lane n (pre.getV a) (h.toNat * ld + i)
      if 8 ≤ t.toNat ∧ t.toNat % 2 = 0 then wrapN (2 * n) (sextN x n) else x)) s

/-- VQENC: the product with the FP32 value of bB, quantised into part p (R355). -/
def execVqenc (t : BitVec 4) (d a : BitVec 5) (b : BitVec 4) (m : BitVec 3) (p : BitVec 3) (s : State) : Out :=
  onCells (pureOp fun env pre post =>
    let n := tyBits t.toNat
    let ls := 512 / n
    let lo := p.toNat * ls
    let c := ctlOf env
    let sc := dazIn .fp32 c.daz (pre.getB b).toNat
    let q := fun i =>
      let x := dazIn (fmtF t) c.daz (lane n (pre.getV a) i)
      if isNan (fmtF t) x || isNan .fp32 sc then 7
      else match (exactOf (fmtF t) x).mul (exactOf .fp32 sc) with
        | none => 7
        | some y => q16Enc y
    post.setV d (ofLanes 4 128 fun i =>
      if lo ≤ i ∧ i < lo + ls ∧ en (pre.getM m) 4 i = true then q (i - lo) else lane 4 (pre.getV d) i)) s

/-- VQDEC: part p of vA as indices, each level exact (R356). -/
def execVqdec (t : BitVec 4) (d a : BitVec 5) (m : BitVec 3) (p : BitVec 3) (s : State) : Out :=
  onCells (vecOp t.toNat m d fun _ c i =>
    (rnd (fmtF t) .rne (q16Exact (lane 4 (c.getV a) (p.toNat * tyLanes t.toNat + i)))).1) s

end Sys2Proof.Machine
end

