-- ==== Sys2Proof/Machine/VScratch.lean ====
section
/-!
DEFINITION. Scratchpad access from the V0 slot (16 R330, R332-R337; 08 R151, R159, R469).
-/
namespace Sys2Proof.Machine
open Sys2Proof

/-- The alignment an element of `n` bytes needs (R151). -/
def alignOf (n : Nat) : Nat := if n = 8 then 4 else n

/-- The bytes of a lane of VLD and VST: lane `i` lies at its place in the 64 contiguous bytes; a 4-bit lane shares its
byte (R333). -/
def bytesTouched (n i : Nat) : Nat × Nat := (n * i / 8, max 1 (n / 8))

/-- The checks of a contiguous form: every enabled lane's bytes, with the 4-byte alignment of the base (R332, R333). -/
def contigCheck (c : Cell) (m : BitVec 16) (n : Nat) (base : Int) : Option CellFault :=
  firstFault (fun i =>
    if en m n i then
      let (o, k) := bytesTouched n i
      match padCheck c i (base + o) k 1 with
      | some f => if f.cause = .padRange then some f
                  else if base % 4 ≠ 0 then some (laneFault .misaligned i [(0, wrapN 32 (base + o))]) else some f
      | none => if base % 4 ≠ 0 then some (laneFault .misaligned i [(0, wrapN 32 (base + o))]) else none
    else none) (512 / n)

/-- VLD (R333). -/
def execVld (t : BitVec 4) (d : BitVec 5) (a : BitVec 4) (m : BitVec 3) (x : Option Word) (s : State) : Out :=
  onCells (ifActive fun env pre post =>
    let n := tyBits t.toNat
    let mk := pre.getM m
    let base := padBase pre a x
    match contigCheck pre mk n base with
    | some f => .error f
    | none =>
      let word := BitVec.ofNat 512 (padWord (raceView env pre) base)
      .ok (post.setV d (mergeLanes n mk (pre.getV d) (lane n word)))) s

/-- The bytes of the enabled lanes of a vector, each with its place (R333). -/
def storedBytes (n : Nat) (m : BitVec 16) (v : Vec) : List (Nat × Byte) :=
  ((List.range 64).filter fun i => en m n (8 * i / n)).map fun i => (i, BitVec.ofNat 8 (lane 8 v i))

/-- VST: the bytes of the enabled lanes; the other bytes of memory stay (R333). -/
def execVst (t : BitVec 4) (d : BitVec 5) (a : BitVec 4) (m : BitVec 3) (x : Option Word) (s : State) : Out :=
  onCells (ifActive fun _ pre post =>
    let n := tyBits t.toNat
    let mk := pre.getM m
    let base := padBase pre a x
    match contigCheck pre mk n base with
    | some f => .error f
    | none =>
      let l := (storedBytes n mk (pre.getV d)).map fun b => ((base + b.1).toNat, b.2)
      .ok (post.store (l.foldl (fun p b => p.set b.1 b.2) post.pad) (l.map fun b => (b.1, 1)))) s

/-- The checks of a form whose lane `i` lies at an offset of its own: range, alignment, guard (R332). -/
def elementCheck (c : Cell) (m : BitVec 16) (n : Nat) (l : Nat) (at_ : Nat → Int) : Option CellFault :=
  firstFault (fun i => if en m n i then padCheck c i (at_ i) (n / 8) (alignOf (n / 8)) else none) l

/-- VLDS: lane i at base + i·s, s = sext(bB, 32) (R334). -/
def execVlds (t : BitVec 4) (d : BitVec 5) (a b : BitVec 4) (m : BitVec 3) (x : Option Word) (s : State) : Out :=
  onCells (ifActive fun env pre post =>
    let n := tyBits t.toNat
    let mk := pre.getM m
    let off := fun (i : Nat) => padBase pre a x + i * (pre.getB b).toInt
    let pad := raceView env pre
    match elementCheck pre mk n (512 / n) off with
    | some f => .error f
    | none => .ok (post.setV d (mergeLanes n mk (pre.getV d) fun i => pad.read (off i).toNat (n / 8)))) s

/-- Elements written in ascending lane order, so that the highest lane's value stands (R334, R335). -/
def storeLanes (p : Mem) (n : Nat) (ls : List (Nat × Nat)) : Mem :=
  ls.foldl (fun p e => p.write e.1 (n / 8) e.2) p

/-- VSTS (R334). -/
def execVsts (t : BitVec 4) (d : BitVec 5) (a b : BitVec 4) (m : BitVec 3) (x : Option Word) (s : State) : Out :=
  onCells (ifActive fun _ pre post =>
    let n := tyBits t.toNat
    let mk := pre.getM m
    let off := fun (i : Nat) => padBase pre a x + i * (pre.getB b).toInt
    match elementCheck pre mk n (512 / n) off with
    | some f => .error f
    | none =>
      let ls := ((List.range (512 / n)).filter (en mk n)).map fun i => ((off i).toNat, lane n (pre.getV d) i)
      .ok (post.store (storeLanes post.pad n ls) (ls.map fun e => (e.1, n / 8)))) s

/-! ### Gather and scatter (R335, R336) -/

/-- The index of lane i, read in the 32-bit layout. -/
def gIndex (c : Cell) (b : BitVec 5) (i : Nat) : Int := sextN (lane 32 (c.getV b) i) 32
/-- The limit, held in the b register after the base. -/
def gLimit (c : Cell) (a : BitVec 4) : Nat := (c.getB (a + 1)).toNat
/-- Whether lane i's index names an element. -/
def gIn (c : Cell) (a : BitVec 4) (b : BitVec 5) (i : Nat) : Bool :=
  decide (0 ≤ gIndex c b i ∧ gIndex c b i < gLimit c a)

/-- The checks of a gather or scatter: the lowest lane that breaks one, an index out of range under .chk before the
checks of the element (R335, R469). -/
def gatherCheck (c : Cell) (m : BitVec 16) (n : Nat) (chk : Bool) (a : BitVec 4) (b : BitVec 5) (x : Option Word) :
    Option CellFault :=
  firstFault (fun i =>
    if en m n i then
      if gIn c a b i then padCheck c i (padBase c a x + gIndex c b i * (n / 8 : Nat)) (n / 8) (alignOf (n / 8))
      else if chk then some (laneFault .indexRange i [(0, wrapN 32 (gIndex c b i)), (4, gLimit c a)])
      else none
    else none) (512 / n)

/-- The enabled lanes out of range. -/
def gOob (c : Cell) (m : BitVec 16) (n : Nat) (a : BitVec 4) (b : BitVec 5) : Nat :=
  ((List.range (512 / n)).filter fun i => en m n i && !gIn c a b i).length

/-- The enabled lanes in range, with their offsets. -/
def gLanes (c : Cell) (m : BitVec 16) (n : Nat) (a : BitVec 4) (b : BitVec 5) (x : Option Word) : List (Nat × Nat) :=
  ((List.range (512 / n)).filter fun i => en m n i && gIn c a b i).map fun i =>
    (i, (padBase c a x + gIndex c b i * (n / 8 : Nat)).toNat)

/-- VGATH: an enabled lane out of range receives zero (R335). -/
def execVgath (t : BitVec 4) (d : BitVec 5) (a : BitVec 4) (b : BitVec 5) (m : BitVec 3) (c : BitVec 1) (x : Option Word)
    (s : State) : Out :=
  onCells (ifActive fun env pre post =>
    let n := tyBits t.toNat
    let mk := pre.getM m
    let pad := raceView env pre
    match gatherCheck pre mk n (c == 1) a b x with
    | some f => .error f
    | none =>
      let val := fun i => if gIn pre a b i
        then pad.read (padBase pre a x + gIndex pre b i * (n / 8 : Nat)).toNat (n / 8) else 0
      .ok { (post.setV d (mergeLanes n mk (pre.getV d) val)) with
        cflags := post.cflags.addOob (gOob pre mk n a b) }) s

/-- VSCAT: in ascending lane order; a lane out of range writes nothing (R335). -/
def execVscat (t : BitVec 4) (d : BitVec 5) (a : BitVec 4) (b : BitVec 5) (m : BitVec 3) (c : BitVec 1) (x : Option Word)
    (s : State) : Out :=
  onCells (ifActive fun _ pre post =>
    let n := tyBits t.toNat
    let mk := pre.getM m
    match gatherCheck pre mk n (c == 1) a b x with
    | some f => .error f
    | none =>
      let ls := (gLanes pre mk n a b x).map fun e => (e.2, lane n (pre.getV d) e.1)
      .ok { post.store (storeLanes post.pad n ls) (ls.map fun e => (e.1, n / 8)) with
        cflags := post.cflags.addOob (gOob pre mk n a b) }) s

/-- VSCATA's additions in ascending lane order, with the flags of the FP32 ones (R336). -/
def addLanes (ctl : FpCtl) (t n : Nat) : List (Nat × Nat × Nat) → Mem × List (Nat × Flags5) → Mem × List (Nat × Flags5)
  | [], r => r
  | (i, o, v) :: ls, (p, fl) =>
    let old := p.read o (n / 8)
    if t = 5 then
      let (z, f) := fadd .fp32 ctl old v
      addLanes ctl t n ls (p.write o 4 z, fl ++ [(i, f)])
    else addLanes ctl t n ls (p.write o (n / 8) ((old + v) % 2 ^ n), fl)

/-- VSCATA (R336). The additions read the elements before the bundle. -/
def execVscata (t : BitVec 4) (d : BitVec 5) (a : BitVec 4) (b : BitVec 5) (m : BitVec 3) (c : BitVec 1) (x : Option Word)
    (s : State) : Out :=
  onCells (ifActive fun env pre post =>
    let n := tyBits t.toNat
    let mk := pre.getM m
    let ctl := FpCtl.ofWord env.carried.fpctl
    match gatherCheck pre mk n (c == 1) a b x with
    | some f => .error f
    | none =>
      let ls := (gLanes pre mk n a b x).map fun e => (e.1, e.2, lane n (pre.getV d) e.1)
      let (p, fl) := addLanes ctl t.toNat n ls (pre.pad, [])
      match fpTrap ctl fl with
      | some f => .error f
      | none =>
        -- the elements as summed, over whatever other slots of the bundle left elsewhere
        .ok { post.store (ls.foldl (fun q e => q.write e.2.1 (n / 8) (p.read e.2.1 (n / 8))) post.pad)
            (ls.map fun e => (e.2.1, n / 8)) with
          cflags := { post.cflags.addOob (gOob pre mk n a b) with fp := post.cflags.fp ||| orFlags fl } }) s

/-- BLD (R330). -/
def execBld (d a : BitVec 4) (x : Option Word) (s : State) : Out :=
  onCells (ifActive fun env pre post =>
    let base := padBase pre a x
    match padCheck pre 0xFF base 4 4 with
    | some f => .error f
    | none => .ok (post.setB d (BitVec.ofNat 32 ((raceView env pre).read base.toNat 4)))) s
/-- BST (R330). -/
def execBst (d a : BitVec 4) (x : Option Word) (s : State) : Out :=
  onCells (ifActive fun _ pre post =>
    let base := padBase pre a x
    match padCheck pre 0xFF base 4 4 with
    | some f => .error f
    | none => .ok (post.store (post.pad.write base.toNat 4 (pre.getB d).toNat) [(base.toNat, 4)])) s

end Sys2Proof.Machine
end

