-- ==== Sys2Proof/Machine/Vault.lean ====
section
/-!
DEFINITION. Vault commands as they start in the cell (19 R387-R389, 09 R166, R182).
-/
namespace Sys2Proof.Machine
open Sys2Proof

/-- The fields of a vault address (R166). -/
def vBank (a : Xword) : BitVec 2 := BitVec.ofNat 2 (bits a 35 34)
def vRow (a : Xword) : BitVec 12 := BitVec.ofNat 12 (bits a 33 22)
def vBurst (a : Xword) : Nat := bits a 8 6

/-- A vault command accepts a vault address and nothing else (R167). -/
def vaultForm (a : Xword) : Option CellFault := if tagOf a = 3 ∧ mbzOk a = true then none else some (badAddr 0xFF a)
/-- The vault protocol fault of command number `n` (R182, R254). -/
def protocol (n : Nat) (a : Xword) : CellFault :=
  plainFault .vaultProtocol [(0, (vBank a).toNat), (1, (vRow a).toNat), (3, n)]
/-- The scratchpad range of a scratchpad form (R389). -/
def vaultPad (o n : Nat) : List (Option CellFault) :=
  [if padSize < o + n then some (plainFault .padRange [(0, o)]) else none,
   if o % 4 = 0 then none else some (plainFault .misaligned [(0, o)])]

/-- A vault command: its address operand, its checks in order, what it sends, and the open rows it leaves (R182, R388). -/
def vaultCmd (b : BitVec 4) (e : BitVec 1) (jo : BitVec 6) (x : Int)
    (chk : Cell → Cell → Xword → List (Option CellFault)) (st : Cell → Xword → Start)
    (rows : Cell → Xword → Cell) : CellFn :=
  command 3 0 e jo fun _ pre post =>
    let a := addrC pre b x
    match (vaultForm a :: chk pre post a).findSome? id with
    | some f => .error f
    | none => .ok (st pre a, rows post a)

/-- The cell after its commands leave a bank open at a row, or closed. -/
def Cell.setOpen (c : Cell) (k : BitVec 2) (r : Option (BitVec 12)) : Cell := { c with openRow := c.openRow.put k r }

/-- DVACT: a bank that has a row open breaks the protocol (R182). -/
def execDvact (b : BitVec 4) (e : BitVec 1) (jo : BitVec 6) (x : Option Word) (s : State) : Out :=
  onCells (vaultCmd b e jo (offC x)
    (fun _ post a => [if (post.openRow.get (vBank a)).isSome then some (protocol 0 a) else none])
    (fun _ a => Start.plain (.vact (vBank a) (vRow a)))
    (fun c a => c.setOpen (vBank a) (some (vRow a)))) s
/-- DVPRE: a DVPRE of a closed bank has no effect and raises nothing (R182). -/
def execDvpre (b : BitVec 4) (e : BitVec 1) (jo : BitVec 6) (x : Option Word) (s : State) : Out :=
  onCells (vaultCmd b e jo (offC x) (fun _ _ _ => []) (fun _ a => Start.plain (.vpre (vBank a)))
    (fun c a => c.setOpen (vBank a) none)) s

/-- The bursts lie within the row (R388). -/
def burstForm (a : Xword) (n : Nat) : Option CellFault := if vBurst a + n ≤ 8 then none else some (badAddr 0xFF a)
/-- A read or write names the open row of its bank (R182). -/
def rowOpen (c : Cell) (n : Nat) (a : Xword) : Option CellFault :=
  if c.openRow.get (vBank a) = some (vRow a) then none else some (protocol n a)

/-- DVRD, register form: the burst lands in vD at E + LAND (R389). -/
def execDvrd (d : BitVec 5) (b : BitVec 4) (e : BitVec 1) (jo : BitVec 6) (f : BitVec 20) (n : BitVec 12) (s : State) : Out :=
  onCells (vaultCmd b e jo f.toInt (fun _ post a => [burstForm a 1, rowOpen post 2 a])
    (fun _ a => ⟨.vrd (vBank a) (vRow a) (vBurst a) 1 none, n.toNat, [.v d.toNat], none⟩) (fun c _ => c)) s
/-- DVRD, scratchpad form: n + 1 bursts to zext(bD, 32) + 64j (R389). -/
def execDvrdSp (d b : BitVec 4) (e : BitVec 1) (jo : BitVec 6) (n : BitVec 3) (x : Option Word) (s : State) : Out :=
  onCells (vaultCmd b e jo (offC x)
    (fun pre post a => burstForm a (n.toNat + 1) :: vaultPad (pre.getB d).toNat (64 * (n.toNat + 1)) ++ [rowOpen post 2 a])
    (fun c a =>
      let o := (c.getB d).toNat
      ⟨.vrd (vBank a) (vRow a) (vBurst a) (n.toNat + 1) (some o), 0, [], some (o, o + 64 * (n.toNat + 1) - 1)⟩)
    (fun c _ => c)) s
/-- DVWR, register form: writes vD, read at E (R389). -/
def execDvwr (d : BitVec 5) (b : BitVec 4) (e : BitVec 1) (jo : BitVec 6) (x : Option Word) (s : State) : Out :=
  onCells (vaultCmd b e jo (offC x) (fun _ post a => [burstForm a 1, rowOpen post 3 a])
    (fun c a => Start.plain (.vwr (vBank a) (vRow a) (vBurst a) 1 none (bytesOf 64 (c.getV d).toNat))) (fun c _ => c)) s
/-- DVWR, scratchpad form: each burst is read from the scratchpad shortly before it is sent (R389). -/
def execDvwrSp (d b : BitVec 4) (e : BitVec 1) (jo : BitVec 6) (n : BitVec 3) (x : Option Word) (s : State) : Out :=
  onCells (vaultCmd b e jo (offC x)
    (fun pre post a => burstForm a (n.toNat + 1) :: vaultPad (pre.getB d).toNat (64 * (n.toNat + 1)) ++ [rowOpen post 3 a])
    (fun c a => Start.plain (.vwr (vBank a) (vRow a) (vBurst a) (n.toNat + 1) (some (c.getB d).toNat) []))
    (fun c _ => c)) s
/-- DVREF: no bank may be open (R182). -/
def execDvref (b : BitVec 4) (e : BitVec 1) (jo : BitVec 6) (x : Option Word) (s : State) : Out :=
  onCells (vaultCmd b e jo (offC x)
    (fun _ post a => [if (List.range 4).any (fun k => (post.openRow.get (BitVec.ofNat 2 k)).isSome) then some (protocol 4 a) else none])
    (fun _ a => Start.plain (.vref (vRow a))) (fun c _ => c)) s
/-- DVLIFE: rows r0 to r0 + zext(bC) − 1 of each masked bank become short-lived (R388). -/
def execDvlife (c b : BitVec 4) (e : BitVec 1) (jo : BitVec 6) (m : BitVec 4) (x : Option Word) (s : State) : Out :=
  onCells (vaultCmd b e jo (offC x)
    (fun pre _ a => [if (vRow a).toNat + (pre.getB c).toNat ≤ 4096 then none else some (badAddr 0xFF a)])
    (fun q a => Start.plain (.vlife (vRow a) m (q.getB c).toNat)) (fun q _ => q)) s

end Sys2Proof.Machine
end

