-- ==== Sys2Proof/Machine/Dispatch.lean ====
section
/-!
DEFINITION. The meaning of every instruction and step, by one direct call each.
-/
namespace Sys2Proof.Machine
open Sys2Proof

/-- The meaning of an instruction or step. -/
def exec (i : Instr) (s : State) : Host.Outcome State Fault Refusal :=
  match i with
  | .add d a b => Sys2Proof.Machine.execAdd d a b s
  | .sub d a b => Sys2Proof.Machine.execSub d a b s
  | .mul d a b => Sys2Proof.Machine.execMul d a b s
  | .mulh d a b => Sys2Proof.Machine.execMulh d a b s
  | .mulhu d a b => Sys2Proof.Machine.execMulhu d a b s
  | .div d a b => Sys2Proof.Machine.execDiv d a b s
  | .divu d a b => Sys2Proof.Machine.execDivu d a b s
  | .rem d a b => Sys2Proof.Machine.execRem d a b s
  | .remu d a b => Sys2Proof.Machine.execRemu d a b s
  | .and d a b => Sys2Proof.Machine.execAnd d a b s
  | .or d a b => Sys2Proof.Machine.execOr d a b s
  | .xor d a b => Sys2Proof.Machine.execXor d a b s
  | .shl d a b => Sys2Proof.Machine.execShl d a b s
  | .shr d a b => Sys2Proof.Machine.execShr d a b s
  | .sra d a b => Sys2Proof.Machine.execSra d a b s
  | .slt d a b => Sys2Proof.Machine.execSlt d a b s
  | .sltu d a b => Sys2Proof.Machine.execSltu d a b s
  | .min d a b => Sys2Proof.Machine.execMin d a b s
  | .max d a b => Sys2Proof.Machine.execMax d a b s
  | .clz d a => Sys2Proof.Machine.execClz d a s
  | .popc d a => Sys2Proof.Machine.execPopc d a s
  | .addi d a iv x => Sys2Proof.Machine.execAddi d a iv x s
  | .andi d a iv x => Sys2Proof.Machine.execAndi d a iv x s
  | .ori d a iv x => Sys2Proof.Machine.execOri d a iv x s
  | .xori d a iv x => Sys2Proof.Machine.execXori d a iv x s
  | .shli d a n => Sys2Proof.Machine.execShli d a n s
  | .shri d a n => Sys2Proof.Machine.execShri d a n s
  | .srai d a n => Sys2Proof.Machine.execSrai d a n s
  | .slti d a iv x => Sys2Proof.Machine.execSlti d a iv x s
  | .lih d a iv x => Sys2Proof.Machine.execLih d a iv x s
  | .ld d a z x => Sys2Proof.Machine.execLd d a z x s
  | .ldu d a z x => Sys2Proof.Machine.execLdu d a z x s
  | .st a b z x => Sys2Proof.Machine.execSt a b z x s
  | .samo d a b u o z x => Sys2Proof.Machine.execSamo d a b u o z x s
  | .beq a b o x => Sys2Proof.Machine.execBeq a b o x s
  | .bne a b o x => Sys2Proof.Machine.execBne a b o x s
  | .blt a b o x => Sys2Proof.Machine.execBlt a b o x s
  | .bge a b o x => Sys2Proof.Machine.execBge a b o x s
  | .bltu a b o x => Sys2Proof.Machine.execBltu a b o x s
  | .bgeu a b o x => Sys2Proof.Machine.execBgeu a b o x s
  | .j o x => Sys2Proof.Machine.execJ o x s
  | .jal d o x => Sys2Proof.Machine.execJal d o x s
  | .jalr d a iv x => Sys2Proof.Machine.execJalr d a iv x s
  | .grd d k => Sys2Proof.Machine.execGrd d k s
  | .kset k a x => Sys2Proof.Machine.execKset k a x s
  | .diec d => Sys2Proof.Machine.execDiec d s
  | .spawn d a e jo => Sys2Proof.Machine.execSpawn d a e jo s
  | .tlrd d k iv => Sys2Proof.Machine.execTlrd d k iv s
  | .srr d n => Sys2Proof.Machine.execSrr d n s
  | .srw a n => Sys2Proof.Machine.execSrw a n s
  | .binit a jo => Sys2Proof.Machine.execBinit a jo s
  | .barr jo => Sys2Proof.Machine.execBarr jo s
  | .bard jo => Sys2Proof.Machine.execBard jo s
  | .bwait d jo => Sys2Proof.Machine.execBwait d jo s
  | .binv jo => Sys2Proof.Machine.execBinv jo s
  | .trap c x => Sys2Proof.Machine.execTrap c x s
  | .halt a => Sys2Proof.Machine.execHalt a s
  | .hostsig a o g => Sys2Proof.Machine.execHostsig a o g s
  | .podred d a o => Sys2Proof.Machine.execPodred d a o s
  | .vadd t d a b m x => Sys2Proof.Machine.execVadd t d a b m x s
  | .vsub t d a b m x => Sys2Proof.Machine.execVsub t d a b m x s
  | .vmul t d a b m x => Sys2Proof.Machine.execVmul t d a b m x s
  | .vmulh t d a b m x => Sys2Proof.Machine.execVmulh t d a b m x s
  | .vmad t d a b m c => Sys2Proof.Machine.execVmad t d a b m c s
  | .vabs t d a m => Sys2Proof.Machine.execVabs t d a m s
  | .vneg t d a m => Sys2Proof.Machine.execVneg t d a m s
  | .vmin t d a b m x => Sys2Proof.Machine.execVmin t d a b m x s
  | .vmax t d a b m x => Sys2Proof.Machine.execVmax t d a b m x s
  | .vsadd t d a b m x => Sys2Proof.Machine.execVsadd t d a b m x s
  | .vssub t d a b m x => Sys2Proof.Machine.execVssub t d a b m x s
  | .vabd t d a b m x => Sys2Proof.Machine.execVabd t d a b m x s
  | .vshl t d a b m x => Sys2Proof.Machine.execVshl t d a b m x s
  | .vshr t d a b m x => Sys2Proof.Machine.execVshr t d a b m x s
  | .vsra t d a b m x => Sys2Proof.Machine.execVsra t d a b m x s
  | .vand t d a b m x => Sys2Proof.Machine.execVand t d a b m x s
  | .vor t d a b m x => Sys2Proof.Machine.execVor t d a b m x s
  | .vxor t d a b m x => Sys2Proof.Machine.execVxor t d a b m x s
  | .vnot t d a m => Sys2Proof.Machine.execVnot t d a m s
  | .vsel t d a b m => Sys2Proof.Machine.execVsel t d a b m s
  | .vclz t d a m => Sys2Proof.Machine.execVclz t d a m s
  | .vpopc t d a m => Sys2Proof.Machine.execVpopc t d a m s
  | .vcmp t d a b m c x => Sys2Proof.Machine.execVcmp t d a b m c x s
  | .vtest t d a m f => Sys2Proof.Machine.execVtest t d a m f s
  | .vmand d a b => Sys2Proof.Machine.execVmand d a b s
  | .vmor d a b => Sys2Proof.Machine.execVmor d a b s
  | .vmxor d a b => Sys2Proof.Machine.execVmxor d a b s
  | .vmnot d a => Sys2Proof.Machine.execVmnot d a s
  | .vmpopc d a m => Sys2Proof.Machine.execVmpopc d a m s
  | .vmov t d a m => Sys2Proof.Machine.execVmov t d a m s
  | .vmovi t d m iv => Sys2Proof.Machine.execVmovi t d m iv s
  | .vbroad t d a m f => Sys2Proof.Machine.execVbroad t d a m f s
  | .vshuf t d a b m => Sys2Proof.Machine.execVshuf t d a b m s
  | .vrotl t d a b m x => Sys2Proof.Machine.execVrotl t d a b m x s
  | .vext t d a b h x => Sys2Proof.Machine.execVext t d a b h x s
  | .vins t d a b h x => Sys2Proof.Machine.execVins t d a b h x s
  | .viota t d a m => Sys2Proof.Machine.execViota t d a m s
  | .vcellid t d m f => Sys2Proof.Machine.execVcellid t d m f s
  | .vrsum t d a m => Sys2Proof.Machine.execVrsum t d a m s
  | .vrmax t d a m => Sys2Proof.Machine.execVrmax t d a m s
  | .vrmin t d a m => Sys2Proof.Machine.execVrmin t d a m s
  | .vhash t d a b m => Sys2Proof.Machine.execVhash t d a b m s
  | .vld t d a m x => Sys2Proof.Machine.execVld t d a m x s
  | .vst t d a m x => Sys2Proof.Machine.execVst t d a m x s
  | .vlds t d a b m x => Sys2Proof.Machine.execVlds t d a b m x s
  | .vsts t d a b m x => Sys2Proof.Machine.execVsts t d a b m x s
  | .vgath t d a b m c x => Sys2Proof.Machine.execVgath t d a b m c x s
  | .vscat t d a b m c x => Sys2Proof.Machine.execVscat t d a b m c x s
  | .vscata t d a b m c x => Sys2Proof.Machine.execVscata t d a b m c x s
  | .badd d a b => Sys2Proof.Machine.execBadd d a b s
  | .bsub d a b => Sys2Proof.Machine.execBsub d a b s
  | .bmul d a b => Sys2Proof.Machine.execBmul d a b s
  | .bshl d a b => Sys2Proof.Machine.execBshl d a b s
  | .baddi d a iv => Sys2Proof.Machine.execBaddi d a iv s
  | .bshr d a b f => Sys2Proof.Machine.execBshr d a b f s
  | .band d a b => Sys2Proof.Machine.execBand d a b s
  | .bor d a b => Sys2Proof.Machine.execBor d a b s
  | .bxor d a b => Sys2Proof.Machine.execBxor d a b s
  | .bmov d a => Sys2Proof.Machine.execBmov d a s
  | .bli d iv => Sys2Proof.Machine.execBli d iv s
  | .bcmp d a b c => Sys2Proof.Machine.execBcmp d a b c s
  | .bld d a x => Sys2Proof.Machine.execBld d a x s
  | .bst d a x => Sys2Proof.Machine.execBst d a x s
  | .vpushact k => Sys2Proof.Machine.execVpushact k s
  | .vfadd t d a b m x => Sys2Proof.Machine.execVfadd t d a b m x s
  | .vfsub t d a b m x => Sys2Proof.Machine.execVfsub t d a b m x s
  | .vfmul t d a b m x => Sys2Proof.Machine.execVfmul t d a b m x s
  | .vfma t d a b m c => Sys2Proof.Machine.execVfma t d a b m c s
  | .vfms t d a b m c => Sys2Proof.Machine.execVfms t d a b m c s
  | .vfnma t d a b m c => Sys2Proof.Machine.execVfnma t d a b m c s
  | .vfmin t d a b m x => Sys2Proof.Machine.execVfmin t d a b m x s
  | .vfmax t d a b m x => Sys2Proof.Machine.execVfmax t d a b m x s
  | .vfabs t d a m => Sys2Proof.Machine.execVfabs t d a m s
  | .vfneg t d a m => Sys2Proof.Machine.execVfneg t d a m s
  | .vfdiv t d a b m x => Sys2Proof.Machine.execVfdiv t d a b m x s
  | .vfsqrt t d a m => Sys2Proof.Machine.execVfsqrt t d a m s
  | .vfrcp t d a m => Sys2Proof.Machine.execVfrcp t d a m s
  | .vfrsq t d a m => Sys2Proof.Machine.execVfrsq t d a m s
  | .vfexp2 t d a m => Sys2Proof.Machine.execVfexp2 t d a m s
  | .vflog2 t d a m => Sys2Proof.Machine.execVflog2 t d a m s
  | .vftanh t d a m => Sys2Proof.Machine.execVftanh t d a m s
  | .vfclass t d a m => Sys2Proof.Machine.execVfclass t d a m s
  | .vfcmp t d a b m c x => Sys2Proof.Machine.execVfcmp t d a b m c x s
  | .vcvt t d a m y sv r p => Sys2Proof.Machine.execVcvt t d a m y sv r p s
  | .vpack t d a b m sv => Sys2Proof.Machine.execVpack t d a b m sv s
  | .vunpack t d a m h => Sys2Proof.Machine.execVunpack t d a m h s
  | .vscale t d a b m x => Sys2Proof.Machine.execVscale t d a b m x s
  | .vqenc t d a b m p => Sys2Proof.Machine.execVqenc t d a b m p s
  | .vqdec t d a m p => Sys2Proof.Machine.execVqdec t d a m p s
  | .vfrsum t d a m => Sys2Proof.Machine.execVfrsum t d a m s
  | .tmma c a b f g x y => Sys2Proof.Machine.execTmma c a b f g x y s
  | .tmma64 c a b x y => Sys2Proof.Machine.execTmma64 c a b x y s
  | .taccz c => Sys2Proof.Machine.execTaccz c s
  | .taccld c a f r x => Sys2Proof.Machine.execTaccld c a f r x s
  | .taccst c a f r x => Sys2Proof.Machine.execTaccst c a f r x s
  | .taccret c => Sys2Proof.Machine.execTaccret c s
  | .taccrd c d p => Sys2Proof.Machine.execTaccrd c d p s
  | .taccwr c a p => Sys2Proof.Machine.execTaccwr c a p s
  | .tcoat c d => Sys2Proof.Machine.execTcoat c d s
  | .tmon d sv l => Sys2Proof.Machine.execTmon d sv l s
  | .qset q sv f h c z b => Sys2Proof.Machine.execQset q sv f h c z b s
  | .qcommit q n => Sys2Proof.Machine.execQcommit q n s
  | .qpop q n => Sys2Proof.Machine.execQpop q n s
  | .qstat q d l => Sys2Proof.Machine.execQstat q d l s
  | .qtwin q k iv => Sys2Proof.Machine.execQtwin q k iv s
  | .dcopy l d sv e jo o => Sys2Proof.Machine.execDcopy l d sv e jo o s
  | .dshape d k f x => Sys2Proof.Machine.execDshape d k f x s
  | .dgath l d b e jo c w f n => Sys2Proof.Machine.execDgath l d b e jo c w f n s
  | .dgathSp l d b e jo w x => Sys2Proof.Machine.execDgathSp l d b e jo w x s
  | .dscat l d b e jo c w x => Sys2Proof.Machine.execDscat l d b e jo c w x s
  | .dscatSp l d b e jo w x => Sys2Proof.Machine.execDscatSp l d b e jo w x s
  | .dscata l d b e jo c w x => Sys2Proof.Machine.execDscata l d b e jo c w x s
  | .dscataSp l d b e jo w x => Sys2Proof.Machine.execDscataSp l d b e jo w x s
  | .dst l d b e jo w x => Sys2Proof.Machine.execDst l d b e jo w x s
  | .dstv l d b e jo x => Sys2Proof.Machine.execDstv l d b e jo x s
  | .dld l d b e jo f n => Sys2Proof.Machine.execDld l d b e jo f n s
  | .datom l w d b e jo o x => Sys2Proof.Machine.execDatom l w d b e jo o x s
  | .datomRet l w d b e jo o f n => Sys2Proof.Machine.execDatomRet l w d b e jo o f n s
  | .dperm sv b e jo x => Sys2Proof.Machine.execDperm sv b e jo x s
  | .dpermcfg d k p x => Sys2Proof.Machine.execDpermcfg d k p x s
  | .dred sv g o => Sys2Proof.Machine.execDred sv g o s
  | .dvact b e jo x => Sys2Proof.Machine.execDvact b e jo x s
  | .dvpre b e jo x => Sys2Proof.Machine.execDvpre b e jo x s
  | .dvrd d b e jo f n => Sys2Proof.Machine.execDvrd d b e jo f n s
  | .dvrdSp d b e jo n x => Sys2Proof.Machine.execDvrdSp d b e jo n x s
  | .dvwr d b e jo x => Sys2Proof.Machine.execDvwr d b e jo x s
  | .dvwrSp d b e jo n x => Sys2Proof.Machine.execDvwrSp d b e jo n x s
  | .dvref b e jo x => Sys2Proof.Machine.execDvref b e jo x s
  | .dvlife c b e jo m x => Sys2Proof.Machine.execDvlife c b e jo m x s
  | .dtlmark d k iv => Sys2Proof.Machine.execDtlmark d k iv s
  | .ywaitf k v => Sys2Proof.Machine.execYwaitf k v s
  | .ywaitfExt k v => Sys2Proof.Machine.execYwaitfExt k v s
  | .ypostf k n => Sys2Proof.Machine.execYpostf k n s
  | .ywaitt k v => Sys2Proof.Machine.execYwaitt k v s
  | .ywaittB k jb => Sys2Proof.Machine.execYwaittB k jb s
  | .yfence m => Sys2Proof.Machine.execYfence m s
  | .ylock m n => Sys2Proof.Machine.execYlock m n s
  | .ymark c => Sys2Proof.Machine.execYmark c s
  | .podAccessArrival a => Sys2Proof.Machine.execPodAccessArrival a s
  | .podMessageArrival msg => Sys2Proof.Machine.execPodMessageArrival msg s
  | .podRoundTimeout slot => Sys2Proof.Machine.execPodRoundTimeout slot s
  | .packetStage queue fail => Sys2Proof.Machine.execPacketStage queue fail s
  | .launch queue => Sys2Proof.Machine.execLaunch queue s
  | .wait queue => Sys2Proof.Machine.execWait queue s
  | .waitTimeout queue => Sys2Proof.Machine.execWaitTimeout queue s
  | .signal queue => Sys2Proof.Machine.execSignal queue s
  | .hcopy queue => Sys2Proof.Machine.execHcopy queue s
  | .hcopyComplete queue index => Sys2Proof.Machine.execHcopyComplete queue index s
  | .fence queue => Sys2Proof.Machine.execFence queue s
  | .mark queue => Sys2Proof.Machine.execMark queue s
  | .destroyDrainDone queue => Sys2Proof.Machine.execDestroyDrainDone queue s
  | .preemptLimitExpiry slot => Sys2Proof.Machine.execPreemptLimitExpiry slot s
  | .saveComplete slot fail => Sys2Proof.Machine.execSaveComplete slot fail s
  | .restoreComplete slot fail => Sys2Proof.Machine.execRestoreComplete slot fail s
  | .stepDecision slot => Sys2Proof.Machine.execStepDecision slot s
  | .bundleFetch slot ahead => Sys2Proof.Machine.execBundleFetch slot ahead s
  | .bundleIssue slot => Sys2Proof.Machine.execBundleIssue slot s
  | .bundleRetire slot die => Sys2Proof.Machine.execBundleRetire slot die s
  | .barrierRelease slot => Sys2Proof.Machine.execBarrierRelease slot s
  | .cellFault slot die => Sys2Proof.Machine.execCellFault slot die s
  | .freeze slot => Sys2Proof.Machine.execFreeze slot s
  | .freezeDrainDone slot => Sys2Proof.Machine.execFreezeDrainDone slot s
  | .landing slot die => Sys2Proof.Machine.execLanding slot die s
  | .landingDataArrival slot die held => Sys2Proof.Machine.execLandingDataArrival slot die held s
  | .staggerStart slot region => Sys2Proof.Machine.execStaggerStart slot region s
  | .commitComplete handle => Sys2Proof.Machine.execCommitComplete handle s
  | .walkComplete die page => Sys2Proof.Machine.execWalkComplete die page s
  | .vaultCommandStart slot die cell num => Sys2Proof.Machine.execVaultCommandStart slot die cell num s
  | .vaultBurstDone slot die cell num pass single syndrome double => Sys2Proof.Machine.execVaultBurstDone slot die cell num pass single syndrome double s
  | .streamArrival slot die cell num => Sys2Proof.Machine.execStreamArrival slot die cell num s
  | .streamResend slot die cell num => Sys2Proof.Machine.execStreamResend slot die cell num s
  | .streamAck slot die cell num => Sys2Proof.Machine.execStreamAck slot die cell num s
  | .engineCommandComplete slot die cell tl num => Sys2Proof.Machine.execEngineCommandComplete slot die cell tl num s
  | .syncWaitComplete slot die => Sys2Proof.Machine.execSyncWaitComplete slot die s
  | .dscataApply slot bsn => Sys2Proof.Machine.execDscataApply slot bsn s
  | .tileVerdict slot die cell => Sys2Proof.Machine.execTileVerdict slot die cell s
  | .replay slot die cell => Sys2Proof.Machine.execReplay slot die cell s
  | .replayOrder slot held => Sys2Proof.Machine.execReplayOrder slot held s
  | .twinFetchDone slot die cell => Sys2Proof.Machine.execTwinFetchDone slot die cell s
  | .tileRetire slot die cell => Sys2Proof.Machine.execTileRetire slot die cell s
  | .deadDrainDone slot => Sys2Proof.Machine.execDeadDrainDone slot s
  | .watchdog slot => Sys2Proof.Machine.execWatchdog slot s
  | .contextEnd slot => Sys2Proof.Machine.execContextEnd slot s
  | .treeResult slot => Sys2Proof.Machine.execTreeResult slot s
  | .sequencerAccessComplete slot => Sys2Proof.Machine.execSequencerAccessComplete slot s
  | .emergencyRefresh die cell row held => Sys2Proof.Machine.execEmergencyRefresh die cell row held s
  | .powerOn => Sys2Proof.Machine.execPowerOn s
  | .powerRegionBringup pr => Sys2Proof.Machine.execPowerRegionBringup pr s
  | .perst => Sys2Proof.Machine.execPerst s
  | .functionLevelReset => Sys2Proof.Machine.execFunctionLevelReset s
  | .recoveryPin => Sys2Proof.Machine.execRecoveryPin s
  | .warm => Sys2Proof.Machine.execWarm s
  | .cold => Sys2Proof.Machine.execCold s
  | .resetHostTimeout => Sys2Proof.Machine.execResetHostTimeout s
  | .resetComplete => Sys2Proof.Machine.execResetComplete s
  | .tempSample col temp => Sys2Proof.Machine.execTempSample col temp s
  | .thermalTrip col => Sys2Proof.Machine.execThermalTrip col s
  | .plimThrottle watts => Sys2Proof.Machine.execPlimThrottle watts s
  | .d3hotEntry => Sys2Proof.Machine.execD3hotEntry s
  | .hostRequestError slot die cell addr => Sys2Proof.Machine.execHostRequestError slot die cell addr s
  | .linkTrainingDone link lanes => Sys2Proof.Machine.execLinkTrainingDone link lanes s
  | .linkLoss link => Sys2Proof.Machine.execLinkLoss link s
  | .retrain link => Sys2Proof.Machine.execRetrain link s
  | .linkEnable link on => Sys2Proof.Machine.execLinkEnable link on s
  | .replayBufferDrained link => Sys2Proof.Machine.execReplayBufferDrained link s
  | .podcfgWrite value => Sys2Proof.Machine.execPodcfgWrite value s
  | .flitCrcFail link => Sys2Proof.Machine.execFlitCrcFail link s
  | .flitArrival dest src hops body => Sys2Proof.Machine.execFlitArrival dest src hops body s
  | .podAccessTimeout => Sys2Proof.Machine.execPodAccessTimeout s
  | .status => Sys2Proof.Machine.execStatus s
  | .enroll hash minver => Sys2Proof.Machine.execEnroll hash minver s
  | .strip nonce => Sys2Proof.Machine.execStrip nonce s
  | .recover => Sys2Proof.Machine.execRecover s
  | .readrec => Sys2Proof.Machine.execReadrec s
  | .quote nonce => Sys2Proof.Machine.execQuote nonce s
  | .readid => Sys2Proof.Machine.execReadid s
  | .baseupd image => Sys2Proof.Machine.execBaseupd image s
  | .fwctlGo => Sys2Proof.Machine.execFwctlGo s
  | .keycmdLoad => Sys2Proof.Machine.execKeycmdLoad s
  | .keycmdZero => Sys2Proof.Machine.execKeycmdZero s
  | .qctlGo => Sys2Proof.Machine.execQctlGo s
  | .quoteDone => Sys2Proof.Machine.execQuoteDone s
  | .doorbell queue tail => Sys2Proof.Machine.execDoorbell queue tail s
  | .hcopyFault queue index bytes => Sys2Proof.Machine.execHcopyFault queue index bytes s
  | .recordWriteFail queue => Sys2Proof.Machine.execRecordWriteFail queue s
  | .enable queue => Sys2Proof.Machine.execEnable queue s
  | .destroy queue => Sys2Proof.Machine.execDestroy queue s
  | .retry queue => Sys2Proof.Machine.execRetry queue s
  | .skip queue => Sys2Proof.Machine.execSkip queue s
  | .sigobjWrite obj value => Sys2Proof.Machine.execSigobjWrite obj value s
  | .schedulerDecision => Sys2Proof.Machine.execSchedulerDecision s
  | .kill slot => Sys2Proof.Machine.execKill slot s
  | .droopReport die level => Sys2Proof.Machine.execDroopReport die level s
  | .tripHoldExpiry die again => Sys2Proof.Machine.execTripHoldExpiry die again s
  | .regionThrottle region on cycles => Sys2Proof.Machine.execRegionThrottle region on cycles s
  | .handleStagingWrite handle word lanes value => Sys2Proof.Machine.execHandleStagingWrite handle word lanes value s
  | .handleCommit handle lanes value => Sys2Proof.Machine.execHandleCommit handle lanes value s
  | .rgo => Sys2Proof.Machine.execRgo s
  | .ptrootWrite value => Sys2Proof.Machine.execPtrootWrite value s
  | .tinvctlGo all => Sys2Proof.Machine.execTinvctlGo all s
  | .invalidationDone => Sys2Proof.Machine.execInvalidationDone s
  | .lanetestDone slot die cell num found group lane => Sys2Proof.Machine.execLanetestDone slot die cell num found group lane s
  | .selfRefresh die => Sys2Proof.Machine.execSelfRefresh die s
  | .dpermDeadline slot held => Sys2Proof.Machine.execDpermDeadline slot held s
  | .tqserviceRetry park => Sys2Proof.Machine.execTqserviceRetry park s
  | .tqserviceKill park => Sys2Proof.Machine.execTqserviceKill park s
  | .tqHeadWrite head => Sys2Proof.Machine.execTqHeadWrite head s
  | .trapRecordWriteFail => Sys2Proof.Machine.execTrapRecordWriteFail s
  | .resume => Sys2Proof.Machine.execResume s
  | .tqEnable on => Sys2Proof.Machine.execTqEnable on s
  | .contextDead slot cause => Sys2Proof.Machine.execContextDead slot cause s
  | .trig => Sys2Proof.Machine.execTrig s
  | .arm => Sys2Proof.Machine.execArm s
  | .registerWrite offset value => Sys2Proof.Machine.execRegisterWrite offset value s
  | .d0Entry => Sys2Proof.Machine.execD0Entry s
  | .vectorUnmask vector => Sys2Proof.Machine.execVectorUnmask vector s
  | .peerIdentity link valid devnum peer => Sys2Proof.Machine.execPeerIdentity link valid devnum peer s
  | .i3cNak code => Sys2Proof.Machine.execI3cNak code s
  | .fwLoadDone fail => Sys2Proof.Machine.execFwLoadDone fail s
  | .relocationComplete => Sys2Proof.Machine.execRelocationComplete s
  | .step => Sys2Proof.Machine.execStep s
  | .fenceS => Sys2Proof.Machine.execFenceS s
  | .eret => Sys2Proof.Machine.execEret s
  | .podbar => Sys2Proof.Machine.execPodbar s
  | .velse => Sys2Proof.Machine.execVelse s
  | .vpopact => Sys2Proof.Machine.execVpopact s
  | .yyield => Sys2Proof.Machine.execYyield s
  | .ybar => Sys2Proof.Machine.execYbar s

end Sys2Proof.Machine
end

