-- ==== Sys2Proof/Machine/Outside.lean ====
section
/-!
DEFINITION. What the outside world brings that is no row of the opcode table: the host's writes of host memory, the
current of a column, what flash and the read-back of a strip will show, pipeline cycles that pass without a bundle, and
throttling against a refresh (01 R21, 03 R53, R57, 07 R128, R139, 10 R190, R214; log 87).
-/
namespace Sys2Proof.Machine
open Sys2Proof

/-- The cycles that a die can pass before its next landing is due, at most `k` (R160). -/
def Die.idleRoom (d : Die) (k : Nat) : Nat :=
  match d.leastDue with
  | none => k
  | some l => min k (l - 1 - d.cyc.toNat)
/-- Pipeline cycles pass in which no bundle is taken: at the control core and every die of a FIXED set; else at one die, or
with no such die at the control core (R128). Landings that fall due come first. -/
def Ctx.idle (y : Ctx) (d k : Nat) : Ctx :=
  if y.fixed then
    let j := BitVec.ofNat 64 (y.dies.foldl (fun k x => x.idleRoom k) k)
    { y with cyc := y.cyc + j, dies := y.dies.map fun x => { x with cyc := x.cyc + j } }
  else if d < y.dies.length then
    y.onDie d fun x => if x.frozen then x else { x with cyc := x.cyc + BitVec.ofNat 64 (x.idleRoom k) }
  else { y with cyc := y.cyc + BitVec.ofNat 64 k }

/-- The length of a refresh in ps (R139, R181). -/
def refreshTime : Nat := 16000
/-- Whether a vault of a physical die refreshes now: by itself, or by a command or emergency refresh of the last 40 cycles
(R139, R184). -/
def State.refreshes (s : State) (p : BitVec 6) : Bool :=
  let x := s.pdies.get p
  (s.selfRefreshing p && decide (s.time < x.selfNext - selfInterval + refreshTime)) ||
  x.vaults.any fun v => v.rows.any fun r => !r.act && decide (s.time < r.restored + refreshTime)

/-- What the outside world brings, but for an event of the opcode table. A column draws at most 312 A (R11). -/
def State.outside (s : State) : Outside → State
  | .event _ => s
  | .hostWrite a b => { s with host := s.host.putBytes a.toNat b }
  | .current d amps => guarded (!(s.columns.get d).offline) (s.onColumn d fun c => { c with imeas := BitVec.ofNat 10 (min 312 amps.toNat) }) s
  | .flashRead i fails => { s with boot := { s.boot with flashBad := s.boot.flashBad.put i fails } }
  | .readBack k n => { s with boot := { s.boot with badUnits := s.boot.badUnits.put k n } }
  | .idle c d k =>
    let x := s.slot c
    guarded (x.holds && x.state != .restoring && x.state != .draining && !s.held c &&
        (decide (x.n ≤ d.toNat) || s.clocked c d.toNat))
      (s.onCtx c fun y => y.idle d.toNat k.toNat) s
  | .refreshThrottle p k =>
    let n := min 40 k.toNat
    guarded (s.refreshes p) (match s.clockOwner p with
      | none => s
      | some c => s.throttle c (fun q => q == p) n) s

end Sys2Proof.Machine
end

