-- ==== Sys2Proof/Machine/Step.lean ====
section
/-!
DEFINITION. One step of the machine: what the outside world brings next, or one of the events the state allows; the parts
of the bundle in hand; and the placing of an instruction where the next step runs it.
-/
namespace Sys2Proof.Machine
open Sys2Proof

/-! ### What the state allows -/

/-- Events under a condition. -/
def opts (b : Bool) (l : List Instr) : List Instr := if b then l else []

/-- The events that a command of a cell awaits. What fails on the way is the outside world's to say (log 8). -/
def cmdEvents (c : BitVec 4) (d : BitVec 6) (i : BitVec 11) (q : Cmd) : List Instr :=
  let n := BitVec.ofNat 64 q.num
  if q.op = .nothing then []
  else match q.st with
    | .sent =>
      if q.op.isStream then [.streamArrival c d i n]
      else if q.op.isVault then [.vaultCommandStart c d i n]
      else [.engineCommandComplete c d i q.tl n]
    | .held => [.streamArrival c d i n]
    | .refused => [.streamResend c d i n]
    | .performed _ => if q.op.isStream then [.streamAck c d i n] else [.engineCommandComplete c d i q.tl n]
    | .vault f =>
      if q.op.transfer.isNone then [.engineCommandComplete c d i q.tl n]
      else if f = 4 then [] else [.vaultBurstDone c d i n ⟨1, 0⟩ 0 0 0]
    | _ => []
/-- The events that a tile awaits. -/
def tileEvents (c : BitVec 4) (d : BitVec 6) (i : BitVec 11) (fixed : Bool) (held : Xword) (t : Tile) : List Instr :=
  match t.st with
  | .passing => [.tileVerdict c d i]
  | .squashed => if fixed then [.replayOrder c held] else [.replay c d i]
  | .fetching a b => opts (a || b) [.twinFetchDone c d i]
  | .parked _ _ _ _ => []
  | .ready => [.tileRetire c d i]
/-- The events of a cell. -/
def cellEvents (c : BitVec 4) (d : BitVec 6) (i : BitVec 11) (fixed : Bool) (held : Xword) (x : Cell) : List Instr :=
  x.cmds.flatMap (cmdEvents c d i) ++ x.tiles.flatMap (tileEvents c d i fixed held)
/-- The events of the cells of a die, from cell `i` on. -/
def cellsEvents (c : BitVec 4) (d : BitVec 6) (fixed : Bool) (held : Xword) : Nat → List Cell → List Instr
  | _, [] => []
  | i, x :: r => cellEvents c d (BitVec.ofNat 11 i) fixed held x ++ cellsEvents c d fixed held (i + 1) r

/-- The events of a logical die. -/
def State.dieEvents (s : State) (c : BitVec 4) (held : Xword) (d : Nat) (x : Die) : List Instr :=
  let y := (s.slot c).ctx
  let k := BitVec.ofNat 6 d
  opts (match y.nextAt d with | some e => s.mayRetire c d e.bsn | none => false) [.bundleRetire c k] ++
  opts (match y.nextWait d with | some (b, i) => !s.held c && x.waitEnds i b | none => false) [.syncWaitComplete c k] ++
  opts (x.fault.isSome && !x.flag && s.treeRuns c d) [.cellFault c k] ++
  opts (x.cells.any fun q => !q.hawk.isEmpty) [if x.frozen then .landingDataArrival c k held else .landing c k] ++
  opts (!x.started) [.staggerStart c (regionOf ((s.slot c).phys d))] ++
  cellsEvents c k y.fixed held 0 x.cells

/-- Whether the deadline of a pod round that a context waits in has passed (R50). -/
def State.roundLate (s : State) (c : BitVec 4) : Bool :=
  (s.slot c).ctx.rounds.any fun w => w.result.isNone && decide (w.deadline ≤ s.time)
/-- The events of a context slot. -/
def State.slotEvents (s : State) (held : Xword) (c : BitVec 4) : List Instr :=
  let x := s.slot c
  let y := x.ctx
  match x.state with
  | .free => []
  | .waiting | .saved => opts (s.roundLate c) [.podRoundTimeout c]
  | .draining => [.deadDrainDone c]
  | .restoring => opts (s.roundLate c) [.podRoundTimeout c] ++ [.restoreComplete c 0]
  | _ =>
    opts (s.wantsFetch c) ((List.range 5).map fun k => .bundleFetch c (BitVec.ofNat 3 k)) ++
    opts (s.issues c && ((y.resending && !y.inHandler) || y.lines.any fun l => l.1 == lineOf y.pc)) [.bundleIssue c] ++
    opts (y.barred && !s.held c) [.barrierRelease c] ++
    opts (s.freezeDue c) [.freeze c] ++
    opts (y.drained && x.save.isNone && !s.held c) [.freezeDrainDone c] ++
    opts ((y.tree.any fun t => t.value.isSome) && !s.held c) [.treeResult c] ++
    opts (!y.acc.isEmpty) [.sequencerAccessComplete c] ++
    opts (x.state == .running && x.save.isNone && y.freeze.isNone && match s.asked c with | some r => decide (r.deadline ≤ s.time) | none => false)
      [.preemptLimitExpiry c] ++
    opts (x.state == .saving && match x.save with | some k => x.savable k | none => false) [.saveComplete c 0] ++
    opts (x.state == .stepping && x.savable .step && !s.held c) [.stepDecision c] ++
    opts (x.state == .ending && x.retired && y.quiet false && !s.held c) [.contextEnd c] ++
    opts (s.watchdogDue c) [.watchdog c] ++
    opts (s.roundLate c) [.podRoundTimeout c] ++
    y.adds.map (fun a => .dscataApply c (BitVec.ofNat 64 (a.bsn.getD 0))) ++
    (List.range y.dies.length).flatMap fun d => match y.dies[d]? with | some z => s.dieEvents c held d z | none => []

/-- The events of a command queue. -/
def State.queueEvents (s : State) (q : BitVec 6) : List Instr :=
  let x := s.queues.get q
  let packet := match x.staged with
    | .bytes b => (match fieldOf b 0 1 with
      | 1 => [.launch q]
      | 2 => if x.met then [.wait q]
        else if x.state = .active then [.wait q]
        else opts (fieldOf b 32 4 != 0 && decide (msPs (fieldOf b 32 4) ≤ s.time - x.since)) [.waitTimeout q]
      | 3 => [.signal q]
      | 4 => [.hcopy q]
      | 5 => [.fence q]
      | _ => [.mark q])
    | _ => [.packetStage q 0]
  (match x.state with
   | .disabled | .idle | .error => []
   | .destroying => [.destroyDrainDone q]
   | .active | .blocked => packet) ++
  x.copies.map fun k => .hcopyComplete q k.pkt.index

/-- The events of a physical die. -/
def State.pdieEvents (s : State) (p : BitVec 6) : List Instr :=
  (s.pdies.get p).walks.map fun w => .walkComplete p (BitVec.ofNat 45 w.page)

/-- The events of the pod. -/
def State.podEvents (s : State) : List Instr :=
  s.podArrived.filterMap (fun p => if s.linkHeld p.1 then none else match p.2 with
    | .access a => some (.podAccessArrival a)
    | .message m _ _ => some (.podMessageArrival m)
    | _ => none) ++
  s.podWaiting.map (fun a => .podAccessArrival a) ++
  opts (s.podHeld.any fun h => decide (msPs s.podtmo.toNat ≤ s.time - h.since)) [.podAccessTimeout]

/-- The events of translation, quotes and the boot ROM; with a base runtime, those of the command queues and the scheduler
(R54). -/
def State.unitEvents (s : State) : List Instr :=
  s.transl.pending.map (fun p => .commitComplete p.1) ++
  opts s.transl.tinvBusy [.invalidationDone] ++
  opts s.transl.relocRun.isSome [.relocationComplete] ++
  opts (!s.boot.quotes.isEmpty) [.quoteDone] ++
  opts s.boot.pending [.resetComplete] ++
  opts s.hasRuntime (allDies.flatMap s.queueEvents) ++
  opts (s.hasRuntime && (s.schedDue || decide (s.schedAt + msPs 1 ≤ s.time))) [.schedulerDecision]

/-- The events of a reset under way: requests to the host come to their end; the reset ends once its links are trained, which
is the outside world's to say (R25, R28, R38). -/
def State.resetEvents (s : State) (r : ResetRun) : List Instr :=
  if r.cleared then opts (!s.linkTrains) [.resetComplete] else
  allSlots.flatMap (fun c => opts (!(s.slot c).ctx.acc.isEmpty) [.sequencerAccessComplete c]) ++
  allDies.flatMap (fun q => (s.queues.get q).copies.map fun k => .hcopyComplete q k.pkt.index) ++
  ((r.sent.filter s.stillSent).map fun p =>
    let d := BitVec.ofNat 6 p.2.1
    let i := BitVec.ofNat 11 p.2.2.1
    let n := BitVec.ofNat 64 p.2.2.2.num
    if p.2.2.2.op.isStream then .streamArrival p.1 d i n else .engineCommandComplete p.1 d i p.2.2.2.tl n) ++
  opts (!r.abandoned && decide (r.since + 100000000 ≤ s.time)) [.resetHostTimeout] ++
  opts ((!s.hostBusy || r.abandoned) && s.regionsUp == 16) [.resetComplete]

/-- The events that the state allows now, but for those of the outside world: the host, the peers, the environment, the
detectors and real-time clocks of power and vaults, the firmware; self-refresh catches up by itself where it matters
(log 8). Durations that the rules leave open are free values (log 7). -/
def enabled (s : State) : List Instr :=
  match s.resetRun with
  | some r => s.resetEvents r
  | none =>
    let held := Config.free s.fresh
    allSlots.flatMap (s.slotEvents held) ++ allDies.flatMap s.pdieEvents ++
    s.podEvents ++ s.unitEvents

/-! ### Around an event -/

/-- A posted write reaches the host: its record, then the vector that follows it, then the entry to ERROR that it precedes
(R31, R73, R261). -/
def State.deliver (s : State) (p : Posted) : State :=
  let s := { s with host := s.host.putBytes p.addr p.data }
  let s := match p.vector with
    | some v => s.signal v
    | none => s
  match p.queue, p.err with
  | some k, some e => s.queueError k.queue e.1 e.2
  | _, _ => s
/-- Every posted write reaches the host, unless the outside world's next word is that one fails. -/
def State.settle (s : State) : State :=
  match s.inputs with
  | .event (.recordWriteFail _) :: _ => s
  | .event .trapRecordWriteFail :: _ => s
  | _ => s.posted.foldl State.deliver { s with posted := [] }
/-- Join arrivals on their way come in (R307), decode queues take what they can (R107), and real time passes, by an amount that
the model leaves free (log 7); with it the cycle ends, and LAUNCHes that wait take the slots left free (R77); under PLIM some of
it is throttled (R137). -/
def State.tick (s : State) : State :=
  let s := s.joinArrivals.keepCounts
  let s := s.moveQueues
  let dt := (Config.free s.fresh).toNat
  let s := if s.queues.any Queue.launchBlocked && decide (0 < dt) then s.serveLaunches else s
  { s.plimPass dt with time := s.time + dt, fresh := s.fresh + 1 }

/-- The parts of the bundle in hand act in their order (R278); an S part that waits or faults keeps the others from it
(R287, R289). -/
def runWork : List (SlotName × Instr) → State → Out
  | [], s => .next s
  | (n, i) :: r, s =>
    match s.focus with
    | none => .next s
    | some f =>
      if f.sres ≠ .done then .next s
      else match exec i { s with work := r, focus := some { f with now := n } } with
        | .next t => runWork r t
        | .fault e => .fault e
        | .refused e => .refused e

/-- What follows an event: the bundle it takes in hand; a yield that has drained begins to save; then time passes. -/
def afterEvent (o : Out) : Out :=
  match o with
  | .next t =>
    (match runWork t.work t with
     | .next u => .next u.closeBundle.beginSaves.tick
     | .fault e => .fault e
     | .refused e => .refused e)
  | .fault e => .fault e
  | .refused e => .refused e

/-- One event and what follows it. -/
def stepOn (i : Instr) (s : State) : Out := afterEvent (exec i s)
/-- The emergency refresh that is due, if one is: a physical die, a cell and a row index (R183). -/
def State.refreshDue (s : State) : Option (BitVec 6 × Nat × BitVec 12) :=
  allDies.findSome? fun p => (s.lateIndex p).map fun k => (p, k.1, k.2)

/-- One step: posted writes reach the host; then what the outside world brings next happens, or an event that the state
allows, which one being a free choice (log 7, log 8); with none, time passes. An emergency refresh that is due comes first
(R183). -/
def step (s : State) : Host.Outcome State Fault Refusal :=
  let s := s.settle
  match s.refreshDue with
  | some (p, i, r) => afterEvent (execEmergencyRefresh p (BitVec.ofNat 11 i) r (Config.free s.fresh) s)
  | none =>
    match s.inputs with
    | .event i :: r => stepOn i { s with inputs := r }
    | o :: r => .next (State.outside { s with inputs := r } o).tick
    | [] =>
      match enabled s with
      | [] => .next s.tick
      | [i] => stepOn i s
      | i :: l =>
        let (k, s) := s.choose (l.length + 1)
        stepOn (((i :: l)[k]?).getD i) s

/-! ### Placing an instruction -/

/-- The address from which a placed instruction is fetched: offset 0 of handle 1. -/
def placeAt : Xword := 0x4000010000000000

/-- The words of a bundle that holds one instruction of the opcode table and nothing else (R265-R273): in the slot that
`decodeTableWord` finds for its word, with an extension or second word of zeros where it asks for one. -/
def placeWords (nbits w : Nat) : List Word :=
  if nbits ≤ 24 then
    let y := w % 2 ^ 24
    match decodeYop (y / 2 ^ 19) (y % 2 ^ 19) none with
    | .ok _ => [BitVec.ofNat 32 y]
    | .error _ => [BitVec.ofNat 32 (y + 2 ^ 31), 0]
  else
    let word : Word := BitVec.ofNat 32 w
    let x : Option Word := if bit word 31 then some 0 else none
    let fits := fun (k : SlotName) => match decodeSlot k word x with | .ok _ => true | .error _ => false
    let hdr : Word := if fits .s then 0x1000000 else if fits .v0 then 0x2000000 else if fits .m then 0x8000000 else 0x10000000
    hdr :: word :: x.toList

/-- The bytes of a line that begins with a bundle of some words. -/
def placeLine (l : List Word) : List Byte := (l ++ List.replicate (16 - l.length) 0).flatMap fun (w : Word) => bytesOf 4 w.toNat

/-- A machine whose next step runs one instruction (log 43): the host has placed its bundle in host memory and a handle
over it, and a context in slot 0, on core 0 and die 0, has fetched its line and stands before it. From `State.reset` with
nothing placed a program comes to run by the boot ROM, a queue's packets and the scheduler. -/
def State.withFetchWord (s : State) (nbits w : Nat) : State :=
  let l := placeWords nbits w
  let line := placeLine l
  let d : Desc := { Desc.blank with entry := placeAt, mindie := 1, maxdie := 1 }
  let e : Handle := { Handle.zero with valid := true, layer := 1, exe := true, rdp := true, limit := 63 }
  let s := s.putHandle ⟨1, e, 0, 63, 0⟩
  { s with
    resetRun := none
    boot := { s.boot with pending := false, stage := .base }
    host := s.host.putBytes 0 line
    pdies := s.pdies.put 0 { s.pdies.get 0 with owner := some 0 }
    slots := s.slots.put 0
      { Slot.blank with
        state := .running, life := 1, core := some 0, h := 1, w := 1, desc := d
        ctx := { Ctx.entry d 1 cellsPerDie with lines := [(placeAt, lineWords line)] } }
    inputs := [], focus := none, work := [] }

end Sys2Proof.Machine
end

