-- ==== Sys2Proof/Safety.lean ====
section
/-!
DEFINITION. What counts as a safe run, and the terms in which the statements speak of the machine: an instruction that
completes, the registers it writes, the cells it acts on, the faults it raises, the memories' canonical form.
-/
namespace Sys2Proof.Machine
open Sys2Proof

/-! ### Safe runs -/

/-- An outcome that neither faults nor refuses. -/
def Completes (o : Out) : Prop := ∃ t, o = .next t
/-- `k` steps from a state meet no fault and no refusal. -/
def SafeFor (k : Nat) (s : State) : Prop := Completes (Host.Core.run Sys2Proof.core k s)

/-- HBM and host memory are in their canonical form. -/
def State.MemoriesInForm (s : State) : Prop := Mem.wf s.hbm = true ∧ Mem.wf s.host = true

/-- The handle table lists its handles once, in ascending order, and none whose place is all zeros. -/
def State.TableInForm (s : State) : Prop :=
  (s.transl.table.map fun x => x.h.toNat).Pairwise (· < ·) ∧ ∀ x ∈ s.transl.table, x ≠ HandleSlot.zero x.h
/-- Every scratchpad is in its canonical form: those of the contexts, as they stand and as units ahead of the others leave
them, those of the dies that no context holds, and those of the bundle in hand. -/
def State.PadsInForm (s : State) : Prop :=
  (∀ c, ∀ d ∈ (s.slot c).ctx.dies, (∀ q ∈ d.cells, Mem.wf q.pad = true) ∧
    ∀ a, d.ahead = some a → ∀ q ∈ a.cells, Mem.wf q.cell.pad = true) ∧
  (∀ p, ∀ m ∈ (s.pdies.get p).pads, Mem.wf m = true) ∧
  ∀ f, s.focus = some f → ∀ w ∈ f.windows, ∀ q, (q ∈ w.pre ∨ q ∈ w.post) → Mem.wf q.pad = true

/-! ### The sequencer -/

/-- The machine with another bundle in hand. -/
def State.hand (s : State) (f : Focus) : State := { s with focus := some f }

/-- The bundle in hand stands at slot `c`, and the x registers named are ready (15 R287). -/
def Ready (s : State) (f : Focus) (srcs : List (BitVec 5)) : Prop :=
  s.focus = some f ∧ ∀ r ∈ srcs, (s.slot f.slot).ctx.xWaits r = false

/-- Between two states a context's x registers alone have changed, and of them only `d`, which now holds `v`; x0 reads
zero. The register awaits no earlier result any more. -/
structure WroteX (s t : State) (c : BitVec 4) (d : BitVec 5) (v : Xword) : Prop where
  value : (t.slot c).ctx.getX d = if d = 0 then 0 else v
  ready : (t.slot c).ctx.xWaits d = false
  others : ∀ r, r ≠ d → (t.slot c).ctx.getX r = (s.slot c).ctx.getX r ∧ (t.slot c).ctx.xWaits r = (s.slot c).ctx.xWaits r
  rest : ∃ x p, t = s.onCtx c fun y => { y with x := x, xPend := p }

/-- An S instruction completes with `v` in xD and nothing else changed. -/
def WritesX (i : Instr) (s : State) (f : Focus) (d : BitVec 5) (v : Xword) : Prop :=
  ∃ t, exec i s = .next t ∧ WroteX s t f.slot d v

/-! ### The cells of the bundle in hand -/

/-- Every cell of the dies that execute the bundle in hand, and whose unit takes the slot in hand, meets a condition on its
surroundings, its registers before the bundle and its registers as earlier slots left them. -/
def EveryCell (f : Focus) (h : Env → Cell → Cell → Prop) : Prop :=
  ∀ w ∈ f.windows, ∀ j p q, w.pre[j]? = some p → w.post[j]? = some q → f.skips j = false → h (envOf f w.die j) p q

/-- The windows after a slot has acted: each cell that takes it stands in a relation to what it was, one whose unit is held (06
R107) is as it was, and no fault has been raised. -/
def WindowsBecome (f : Focus) (r : Env → Cell → Cell → Cell → Prop) (ws : List Window) : Prop :=
  ws.length = f.windows.length ∧
  ∀ (k : Nat) (w w' : Window), f.windows[k]? = some w → ws[k]? = some w' →
    w'.die = w.die ∧ w'.pre = w.pre ∧ w'.faults = w.faults ∧ w'.post.length = w.post.length ∧
    ∀ j p q q', w.pre[j]? = some p → w.post[j]? = some q → w'.post[j]? = some q' →
      (f.skips j = false → r (envOf f w.die j) p q q') ∧ (f.skips j = true → q' = q)

/-- A cell slot's instruction completes on every cell that meets `h`, each becoming what `r` says; nothing of the machine
but those cells changes. -/
def ActsOnCells (i : Instr) (h : Env → Cell → Cell → Prop) (r : Env → Cell → Cell → Cell → Prop) : Prop :=
  ∀ s f, s.focus = some f → EveryCell f h →
    ∃ ws, exec i s = .next (s.hand { f with windows := ws }) ∧ WindowsBecome f r ws

/-- A cell slot's instruction raises `e` in every cell that takes the slot and meets `h`: the window of a die names each such cell, after
the faults of earlier slots, and the cell stays as it was. -/
def RaisesInCells (i : Instr) (h : Env → Cell → Cell → Prop) (e : Env → Cell → Cell → CellFault) : Prop :=
  ∀ s f, s.focus = some f →
    ∃ ws, exec i s = .next (s.hand { f with windows := ws }) ∧ ws.length = f.windows.length ∧
      ∀ (k : Nat) (w w' : Window), f.windows[k]? = some w → ws[k]? = some w' →
        ∀ j p q, w.pre[j]? = some p → w.post[j]? = some q → f.skips j = false → h (envOf f w.die j) p q →
          w'.post[j]? = some q ∧ (j, f.now, e (envOf f w.die j) p q) ∈ w'.faults

/-- No condition on the cells. -/
def anyCell : Env → Cell → Cell → Prop := fun _ _ _ => True
/-- Every cell is active (06 R116). -/
def activeCell : Env → Cell → Cell → Prop := fun _ p _ => p.act = true

/-- A cell with A = 0 is as it was; an active one is as `r` says (06 R117). -/
def IfActive (r : Env → Cell → Cell → Cell → Prop) : Env → Cell → Cell → Cell → Prop :=
  fun env p q q' => (p.act = false → q' = q) ∧ (p.act = true → r env p q q')

/-- Only vector register `d` of a cell has changed. -/
def OnlyV (d : BitVec 5) (q q' : Cell) : Prop := q' = { q with v := q'.v } ∧ ∀ r, r ≠ d → q'.getV r = q.getV r
/-- Only mask register `d` of a cell has changed; m0 reads as all ones whatever is written. -/
def OnlyM (d : BitVec 3) (q q' : Cell) : Prop := q' = { q with m := q'.m } ∧ ∀ r, r ≠ d → q'.getM r = q.getM r
/-- Only b register `d` of a cell has changed. -/
def OnlyB (d : BitVec 4) (q q' : Cell) : Prop := q' = { q with b := q'.b } ∧ ∀ r, r ≠ d → q'.getB r = q.getB r
/-- Only condition bit `d` of a cell has changed. -/
def OnlyC (d : BitVec 2) (q q' : Cell) : Prop := q' = { q with c := q'.c } ∧ ∀ r, r ≠ d → q'.c.get r = q.c.get r
/-- Only a cell's scratchpad has changed, and with it the list of what the bundle's V0 slot has stored. -/
def OnlyPad (q q' : Cell) : Prop := q' = { q with pad := q'.pad, stored := q'.stored }
/-- A byte of a scratchpad as it was before the engines' writes that the bundle in hand may have overtaken (08 R159, 16 R337):
the oldest value among those writes, if it had been issued by then. -/
def heldBefore (env : Env) (p : Cell) (k : Nat) : Byte :=
  match env.bsn with
  | none => p.pad.get k
  | some b => ((p.raced.find? fun r => r.off == k && decide (b ≤ r.upTo)).map fun r => r.old).getD (p.pad.get k)
/-- A scratchpad as a bundle's reads may find it: each 4-byte word holds what it held before those writes or what it holds
after them (08 R159, 16 R337). -/
def MayFind (env : Env) (p : Cell) (v : Mem) : Prop :=
  ∀ w, (∀ j, j < 4 → v.get (4 * w + j) = p.pad.get (4 * w + j)) ∨ (∀ j, j < 4 → v.get (4 * w + j) = heldBefore env p (4 * w + j))
/-- The byte at `k` after an M slot has stored `v` there: where the bundle's V0 slot has stored to it too, the word takes its value
from one of the two stores, as `v0` says word by word (08 R154; log 52). -/
def storedEither (v0 : Nat → Bool) (q : Cell) (k : Nat) (v : Byte) : Byte :=
  if (q.stored.any fun r => decide (r.1 ≤ k ∧ k < r.1 + r.2)) && v0 (k / 4) then q.pad.get k else v
/-- Only accumulator bank `d` of a cell has changed. -/
def OnlyBank (d : BitVec 3) (q q' : Cell) : Prop := q' = { q with acc := q'.acc } ∧ ∀ r, r ≠ d → q'.acc.get r = q.acc.get r
/-- Only ring `d` of a cell has changed. -/
def OnlyRing (d : BitVec 3) (q q' : Cell) : Prop := q' = { q with q := q'.q } ∧ ∀ r, r ≠ d → q'.q.get r = q.q.get r

/-- vD receives `f i` in each lane i of `n` bits that mask mK enables (08 R143); every other lane keeps what it held before
the bundle, and nothing else of the cell changes (16 R317). -/
def LanesOf (n : Nat) (d : BitVec 5) (m : BitVec 3) (f : Env → Cell → Nat → Nat) : Env → Cell → Cell → Cell → Prop :=
  IfActive fun env p q q' => OnlyV d q q' ∧
    ∀ i, i < 512 / n → lane n (q'.getV d) i = if (p.getM m).getLsbD (n * i / 32) then f env p i else lane n (p.getV d) i
/-- bD receives a value; b0 discards it (08 R141). -/
def ScalarOf (d : BitVec 4) (f : Env → Cell → Word) : Env → Cell → Cell → Cell → Prop :=
  IfActive fun env p q q' => OnlyB d q q' ∧ q'.getB d = if d = 0 then 0 else f env p
/-- mD receives a value; m0 discards it (08 R141). -/
def MaskOf (d : BitVec 3) (f : Env → Cell → BitVec 16) : Env → Cell → Cell → Cell → Prop :=
  IfActive fun env p q q' => OnlyM d q q' ∧ q'.getM d = if d = 0 then 0xFFFF else f env p

/-! ### Commands and addresses -/

/-- An address word that a command other than a vault command accepts (09 R166, R167): a paged, handle or slice address
whose must-be-zero bits are zero; a slice address names a cell, and on this device a die of the set. -/
def GoodAddress (env : Env) (a : Xword) : Prop :=
  (a.extractLsb' 62 2 = 0 ∧ a.extractLsb' 57 5 = 0) ∨ (a.extractLsb' 62 2 = 1 ∧ a.extractLsb' 52 10 = 0) ∨
  (a.extractLsb' 62 2 = 2 ∧ a.extractLsb' 17 22 = 0 ∧ (a.extractLsb' 39 11).toNat < 1600 ∧
    (a.extractLsb' 56 6 = env.dev → (a.extractLsb' 50 6).toNat < env.n))
/-- `n` bytes at a slice address of this device lie within its scratchpad (09 R168). -/
def InPad (env : Env) (a : Xword) (n : Nat) : Prop :=
  a.extractLsb' 62 2 = 2 → a.extractLsb' 56 6 = env.dev → (a.extractLsb' 0 17).toNat + n ≤ 131072
/-- An address that an access of `n` bytes aligned to `k` accepts. -/
def GoodAccess (env : Env) (a : Xword) (n k : Nat) : Prop := GoodAddress env a ∧ InPad env a n ∧ a.toNat % k = 0
/-- The address operand of a C slot (19 R376): a pair of b registers and the word's 20-bit offset. -/
def addressOf (p : Cell) (b : BitVec 4) (off : BitVec 20) : Xword := (p.getB (b + 1) ++ p.getB b) + off.signExtend 64
/-- The offset in an extension word, zero without one (14 R272). -/
def offsetOf (x : Option Word) : BitVec 20 := (x.map fun (w : Word) => w.extractLsb' 12 20).getD 0
/-- The flag that an extension word names (19 R376). -/
def flagOf (x : Option Word) : Option (BitVec 4) :=
  x.bind fun (w : Word) => if w.getLsbD 4 then some (w.extractLsb' 0 4) else none

/-- A command joins those that leave with the bundle: `st` is what it carries, under timeline `tl`, class `cls` and the
join object named (19 R375). -/
def Leaves (tl : BitVec 2) (cls : BitVec 4) (e : BitVec 1) (jo : BitVec 6) (st : Start) (env : Env) (q q' : Cell) : Prop :=
  ∃ l, q'.leaving = q.leaving ++ [l] ∧ l.cmd.tl = tl ∧ l.cmd.cls = cls ∧ l.cmd.bsn = env.bsn ∧
    l.cmd.join = (if e = 1 then some jo else none) ∧ l.cmd.op = st.op ∧ l.cmd.st = .sent ∧ l.land = st.land ∧
    l.dests = st.dests ∧ l.guarded = (if env.carried.guard.getLsbD 0 then st.guarded else none)

/-- A command completes on every cell whose checks `ok` pass: an active cell's carries `st` and leaves the cell as `eff`
says, a cell with A = 0 sends a command that carries nothing (10 R207). -/
def Commands (i : Instr) (tl : BitVec 2) (cls : BitVec 4) (e : BitVec 1) (jo : BitVec 6)
    (ok : Env → Cell → Cell → Prop) (st : Env → Cell → Start) (eff : Cell → Cell → Cell → Prop) : Prop :=
  ActsOnCells i (fun env p q => p.act = true → ok env p q) fun env p q q' =>
    Leaves tl cls e jo (if p.act then st env p else Start.plain .nothing) env q q' ∧
    (p.act = false → q' = { q with leaving := q'.leaving }) ∧ (p.act = true → eff p q q')
/-- A command changes nothing of its cell but the list of what leaves. -/
def onlyLeaves : Cell → Cell → Cell → Prop := fun _ q q' => q' = { q with leaving := q'.leaving }

/-! ### Events -/

/-- An event answers a next state that meets a condition. -/
def Gives (i : Instr) (s : State) (p : State → Prop) : Prop := ∃ t, exec i s = .next t ∧ p t

end Sys2Proof.Machine
end

