-- ==== Sys2Proof/Certificates/Slice0/Obligations.lean ====
section
/-!
DEFINITION. The statements about the model. Each names the rules of spec/ that it formalises or rests on; a statement that
speaks of a choice the model made names the log entry of that choice.
-/
open Sys2Proof Sys2Proof.Machine

/-! ### The sequencer's integer instructions and jumps -/

/-- R292: the R form's sums, products, logic, shifts, comparisons and choices of xA and xB come into xD, and nothing
else of the machine changes; the shift count is b[5:0]. ADD, SUB, MUL, AND, OR, XOR, SHL, SHR, SRA, SLT, SLTU, MIN and
MAX complete whenever both registers are ready. R292, R293: the high halves of the 128-bit products, the quotients and
remainders with their corners at zero, the count of leading zeros and the count of ones. MULH, MULHU, DIV, DIVU, REM,
REMU, CLZ and POPC complete whenever their registers are ready. R269, R294: the I form with its field or its extension
word sign-extended, the shifts by their six bits, and LIH's two halves. ADDI, ANDI, ORI, XORI, SHLI, SHRI, SRAI, SLTI
and LIH complete whenever xA is ready. -/
def Obligations.SequencerIntegers : Prop :=
  (∀ (s : State) (f : Focus) (d a b : BitVec 5), Ready s f [a, b] →
     let x := (s.slot f.slot).ctx.getX a
     let y := (s.slot f.slot).ctx.getX b
     let n := y.toNat % 64
     WritesX (.add d a b) s f d (x + y) ∧ WritesX (.sub d a b) s f d (x - y) ∧ WritesX (.mul d a b) s f d (x * y) ∧
     WritesX (.and d a b) s f d (x &&& y) ∧ WritesX (.or d a b) s f d (x ||| y) ∧ WritesX (.xor d a b) s f d (x ^^^ y) ∧
     WritesX (.shl d a b) s f d (BitVec.ofNat 64 (x.toNat * 2 ^ n)) ∧
     WritesX (.shr d a b) s f d (BitVec.ofNat 64 (x.toNat / 2 ^ n)) ∧
     WritesX (.sra d a b) s f d (BitVec.ofInt 64 (x.toInt / 2 ^ n)) ∧
     WritesX (.slt d a b) s f d (if x.toInt < y.toInt then 1 else 0) ∧
     WritesX (.sltu d a b) s f d (if x.toNat < y.toNat then 1 else 0) ∧
     WritesX (.min d a b) s f d (if x.toInt ≤ y.toInt then x else y) ∧
     WritesX (.max d a b) s f d (if x.toInt ≤ y.toInt then y else x)) ∧
  ((∀ (s : State) (f : Focus) (d a b : BitVec 5), Ready s f [a, b] →
     let x := (s.slot f.slot).ctx.getX a
     let y := (s.slot f.slot).ctx.getX b
     WritesX (.mulh d a b) s f d ((x.signExtend 128 * y.signExtend 128).extractLsb' 64 64) ∧
     WritesX (.mulhu d a b) s f d ((x.zeroExtend 128 * y.zeroExtend 128).extractLsb' 64 64) ∧
     WritesX (.div d a b) s f d (if y = 0 then BitVec.allOnes 64 else x.sdiv y) ∧
     WritesX (.divu d a b) s f d (if y = 0 then BitVec.allOnes 64 else x.udiv y) ∧
     WritesX (.rem d a b) s f d (if y = 0 then x else x.srem y) ∧
     WritesX (.remu d a b) s f d (if y = 0 then x else x.umod y)) ∧
   (∀ (s : State) (f : Focus) (d a : BitVec 5), Ready s f [a] →
     let x := (s.slot f.slot).ctx.getX a
     (∀ n, n ≤ 64 → x.toNat < 2 ^ (64 - n) → (n = 64 ∨ 2 ^ (63 - n) ≤ x.toNat) →
       WritesX (.clz d a) s f d (BitVec.ofNat 64 n)) ∧
     WritesX (.popc d a) s f d (BitVec.ofNat 64 ((List.range 64).countP x.getLsbD)))) ∧
  (∀ (s : State) (f : Focus) (d a : BitVec 5), Ready s f [a] →
     let x := (s.slot f.slot).ctx.getX a
     (∀ (i : BitVec 14) (e : Option Word),
       let v : Xword := (e.map fun (w : Word) => w.signExtend 64).getD (i.signExtend 64)
       WritesX (.addi d a i e) s f d (x + v) ∧ WritesX (.andi d a i e) s f d (x &&& v) ∧
       WritesX (.ori d a i e) s f d (x ||| v) ∧ WritesX (.xori d a i e) s f d (x ^^^ v) ∧
       WritesX (.slti d a i e) s f d (if x.toInt < v.toInt then 1 else 0) ∧
       WritesX (.lih d a i e) s f d (BitVec.ofNat 64 (v.toNat % 2 ^ 32 * 2 ^ 32 + x.toNat % 2 ^ 32))) ∧
     (∀ n : BitVec 6,
       WritesX (.shli d a n) s f d (BitVec.ofNat 64 (x.toNat * 2 ^ n.toNat)) ∧
       WritesX (.shri d a n) s f d (BitVec.ofNat 64 (x.toNat / 2 ^ n.toNat)) ∧
       WritesX (.srai d a n) s f d (BitVec.ofInt 64 (x.toInt / 2 ^ n.toNat))))

/-- R298: a branch whose condition holds makes the header's address plus 4·OFF the next fetch address, and one whose
condition does not hold changes nothing; J and JAL always jump, JAL and JALR write the address that follows the bundle
into xD, and JALR's target is xA plus its immediate. BEQ, BNE, BLT, BGE, BLTU, BGEU, J and JAL complete whenever their
registers are ready, and JALR when its target is a multiple of 4. -/
def Obligations.BranchesAndJumps : Prop :=
  (∀ (s : State) (f : Focus) (a b : BitVec 5) (o : BitVec 14) (e : Option Word), Ready s f [a, b] →
    let x := (s.slot f.slot).ctx.getX a
    let y := (s.slot f.slot).ctx.getX b
    let v : Xword := (e.map fun (w : Word) => w.signExtend 64).getD (o.signExtend 64)
    let goes := fun (c : Prop) [Decidable c] =>
      Host.Outcome.next (φ := Fault) (ρ := Refusal) (if c then (s.hand { f with nextAddr := f.pc + 4 * v }) else s)
    exec (.beq a b o e) s = goes (x = y) ∧ exec (.bne a b o e) s = goes (x ≠ y) ∧
    exec (.blt a b o e) s = goes (x.toInt < y.toInt) ∧ exec (.bge a b o e) s = goes (y.toInt ≤ x.toInt) ∧
    exec (.bltu a b o e) s = goes (x.toNat < y.toNat) ∧ exec (.bgeu a b o e) s = goes (y.toNat ≤ x.toNat)) ∧
  (∀ (s : State) (f : Focus) (d a : BitVec 5) (o : BitVec 19) (i : BitVec 14) (e : Option Word), Ready s f [a] →
    let v : Xword := (e.map fun (w : Word) => w.signExtend 64).getD (o.signExtend 64)
    let t : Xword := (s.slot f.slot).ctx.getX a + (e.map fun (w : Word) => w.signExtend 64).getD (i.signExtend 64)
    exec (.j o e) s = .next (s.hand { f with nextAddr := f.pc + 4 * v }) ∧
    (∃ u, WroteX s u f.slot d f.nextAddr ∧
      exec (.jal d o e) s = .next (u.hand { f with nextAddr := f.pc + 4 * v })) ∧
    (t.toNat % 4 = 0 → ∃ u, WroteX s u f.slot d f.nextAddr ∧
      exec (.jalr d a i e) s = .next (u.hand { f with nextAddr := t })) ∧
    (t.toNat % 4 ≠ 0 →
      exec (.jalr d a i e) s = .next (s.hand { f with sres := .fault .scalarMemory t.toNat })))

/-! ### The sequencer's memory accesses -/

/-- R295, R296, R310: LD, LDU, ST and SAMO complete when their registers are ready, no write of the table window is under way
(log 44), no relocation of their handle runs and the address translates: the access joins those that are performed in program
order, with what it carries, and a read's register awaits it. One that does not translate is a scalar memory fault that names
the address; behind a write of the table window or a relocation the bundle waits. FENCE.S goes on once no earlier access
remains, and bundles after it are fetched afresh; before that it waits. R211, R287, R295, R296: SEQUENCER_ACCESS_COMPLETE
performs the oldest access of a context. The value of a load or of a SAMO, wherever it lies, comes into the register that still
awaits it, extended as the access says, and a load changes no memory; a store or SAMO to HBM or host memory in the clear
changes its own bytes and no others, a SAMO to what its operation makes of the old value. -/
def Obligations.SequencerAccesses : Prop :=
  ((∀ (s : State) (f : Focus) (d a b : BitVec 5) (u : BitVec 1) (o : BitVec 4) (z : BitVec 2) (e : Option Word),
     Ready s f [a, b, d] →
     let y := (s.slot f.slot).ctx
     let ea : Xword := y.getX a + (e.map fun (w : Word) => w.signExtend 64).getD 0
     let n := 2 ^ z.toNat
     let reads := fun (i : Instr) (p : Place) (signed : Bool) =>
       Gives i s fun t => ∃ q, (t.slot f.slot).ctx.acc = y.acc ++ [q] ∧ q.kind = 0 ∧ q.place = p ∧ q.size = n ∧
         q.dest = d ∧ q.signed = signed ∧ (d ≠ 0 → (t.slot f.slot).ctx.xPend.get d = some q.tok) ∧
         (t.slot f.slot).ctx.x = y.x ∧ t.hbm = s.hbm ∧ t.host = s.host ∧ t.focus = s.focus
     let faults := fun (i : Instr) => exec i s = .next (s.hand { f with sres := .fault .scalarMemory ea.toNat })
     let waits := fun (i : Instr) => exec i s = .next (s.hand { f with sres := .wait })
     (y.tableWrite = true ∨ s.relocating ea = true →
       waits (.ld d a z e) ∧ waits (.ldu d a z e) ∧ waits (.st a b z e) ∧ waits (.samo d a b u o z e)) ∧
     (y.tableWrite = false → s.relocating ea = false →
     (∀ p, s.seqPlace ea n .read = some p → reads (.ld d a z e) p true ∧ reads (.ldu d a z e) p false) ∧
     (∀ p, s.seqPlace ea n .write = some p →
       Gives (.st a b z e) s fun t => ∃ q, (t.slot f.slot).ctx.acc = y.acc ++ [q] ∧ q.kind = 1 ∧ q.place = p ∧ q.size = n ∧
         q.data = (y.getX b).toNat ∧ (t.slot f.slot).ctx.x = y.x ∧ (t.slot f.slot).ctx.xPend = y.xPend ∧
         t.hbm = s.hbm ∧ t.host = s.host ∧ t.focus = s.focus) ∧
     (∀ p, s.seqPlace ea n .atomic = some p →
       Gives (.samo d a b u o z e) s fun t => ∃ q, (t.slot f.slot).ctx.acc = y.acc ++ [q] ∧ q.kind = 2 ∧ q.place = p ∧
         q.size = n ∧ q.op = o.toNat ∧ q.data = (y.getX b).toNat ∧ q.cmp = (y.getX d).toNat ∧ q.dest = d ∧
         q.signed = decide (u = 0) ∧ (d ≠ 0 → (t.slot f.slot).ctx.xPend.get d = some q.tok) ∧ (t.slot f.slot).ctx.x = y.x ∧
         t.hbm = s.hbm ∧ t.host = s.host ∧ t.focus = s.focus) ∧
     (s.seqPlace ea n .read = none → faults (.ld d a z e) ∧ faults (.ldu d a z e)) ∧
     (s.seqPlace ea n .write = none → faults (.st a b z e)) ∧
     (s.seqPlace ea n .atomic = none → faults (.samo d a b u o z e)))) ∧
   (∀ (s : State) (f : Focus), s.focus = some f → (s.slot f.slot).ctx.acc = [] →
     exec .fenceS s = .next (s.onCtx f.slot fun y => { y with lines := [] })) ∧
   (∀ (s : State) (f : Focus), s.focus = some f → (s.slot f.slot).ctx.acc ≠ [] →
     exec .fenceS s = .next (s.hand { f with sres := .wait }))) ∧
  (∀ (s : State) (c : BitVec 4) (q : SeqAccess) (l : List SeqAccess), (s.slot c).ctx.acc = q :: l → q.commit = none →
     let w := 8 * q.size
     let old := s.readPlace q.place q.size
     let came := fun (t : State) =>
       (q.dest ≠ 0 → (s.slot c).ctx.xPend.get q.dest = some q.tok →
         (t.slot c).ctx.getX q.dest = if q.signed then BitVec.ofInt 64 (sextN old w) else BitVec.ofNat 64 (old % 2 ^ w)) ∧
       (∀ k, k ≠ q.dest → (t.slot c).ctx.getX k = (s.slot c).ctx.getX k)
     (q.kind = 0 → Gives (.sequencerAccessComplete c) s fun t =>
       came t ∧ (t.slot c).ctx.acc = l ∧ t.hbm = s.hbm ∧ t.host = s.host) ∧
     (∀ r : Run, s.MemoriesInForm → q.place = .mem r → r.crypt = none →
       let d := q.data % 2 ^ w
       let less := if q.signed then decide (sextN old w < sextN d w) else decide (old < d)
       let put := fun (t : State) (v : Nat) =>
         (∀ h k, (h = r.host ∧ r.pa ≤ k ∧ k < r.pa + q.size) → t.rdMem h k 1 = [BitVec.ofNat 8 (v / 256 ^ (k - r.pa))]) ∧
         (∀ h k, ¬(h = r.host ∧ r.pa ≤ k ∧ k < r.pa + q.size) → t.rdMem h k 1 = s.rdMem h k 1) ∧ (t.slot c).ctx.acc = l
       old = ofBytes (s.rdMem r.host r.pa q.size) ∧
       (q.kind = 1 → Gives (.sequencerAccessComplete c) s fun t => put t d ∧ (t.slot c).ctx.x = (s.slot c).ctx.x) ∧
       (q.kind = 2 → Gives (.sequencerAccessComplete c) s fun t => came t ∧ put t
         (match q.op with
          | 0 => d
          | 1 => (old + d) % 2 ^ w
          | 2 => old &&& d
          | 3 => old ||| d
          | 4 => old ^^^ d
          | 5 => if less then old else d
          | 6 => if less then d else old
          | _ => if old = q.cmp % 2 ^ w then d else old))))

/-! ### The sequencer's context, join-object and system instructions -/

/-- R299-R301, R309, R404, R410: GRD reads a g register whose result has come; KSET prepares the latch that every die
of the bundle writes; DIEC reads the die count, the height, the width, the last outcome and MOVED, and clears MOVED;
SRR reads a register that is assigned, of the counters 12 to 19 a value of the last tree latency, which one being free (R405;
log 108), but in FIXED mode the replay counts as they stand, and SRW writes one that has a writable field; a register that is not assigned is a special register fault. GRD, KSET, DIEC, SRR and SRW complete under these conditions. R236, R243, R406, R408,
R410: what the writable special registers hold after SRW: FPCTL its low nine bits, COATCTL with a coat of 3 read as 2,
BUDGET with CANBITS above 63 set to 63, GUARD its low bit, DIEMASK only bits of dies of the set, PREEMPT_LIMIT at
least 1,000, TVEC with bits 1:0 zero, the scratch registers whole; CLKMODE is pending until it takes effect. -/
def Obligations.SpecialRegisters : Prop :=
  (∀ (s : State) (f : Focus) (d a : BitVec 5), Ready s f [a] →
     let x := s.slot f.slot
     (∀ k, x.ctx.gPend.get k = none → WritesX (.grd d k) s f d (x.ctx.g.get k)) ∧
     (∀ k (e : Option Word), exec (.kset k a e) s =
       .next (s.hand { f with kset := some (k, e.getD (BitVec.ofNat 32 (x.ctx.getX a).toNat)) })) ∧
     (Gives (.diec d) s fun t => ∃ u, WroteX s u f.slot d (BitVec.ofNat 64
         (x.h * x.w + x.h * 2 ^ 8 + x.w * 2 ^ 16 + x.outcome.toNat * 2 ^ 24 + b2n x.moved * 2 ^ 26)) ∧
       t = u.onSlot f.slot fun y => { y with moved := false }) ∧
     (∀ n : BitVec 9, n.toNat ≤ 11 ∨ n = 20 ∨ (32 ≤ n.toNat ∧ n.toNat ≤ 43) ∨ (48 ≤ n.toNat ∧ n.toNat ≤ 127) →
       WritesX (.srr d n) s f d (s.readSpecial f.slot n.toNat)) ∧
     (∀ n : BitVec 9, 12 ≤ n.toNat → n.toNat ≤ 19 →
       Gives (.srr d n) s fun t => ∃ v k, v ∈ x.ctx.counterReads n.toNat ∧ WroteX { s with fresh := k } t f.slot d v ∧
         (x.ctx.counted = [] ∨ (x.ctx.fixed = true ∧ 17 ≤ n.toNat) → v = s.readSpecial f.slot n.toNat)) ∧
     (∀ n : BitVec 9, n.toNat ≤ 9 →
       exec (.srw a n) s = .next (s.onCtx f.slot fun y => y.writeSpecial f.n n.toNat (y.getX a))) ∧
     (∀ n : BitVec 9, (21 ≤ n.toNat ∧ n.toNat ≤ 31) ∨ (44 ≤ n.toNat ∧ n.toNat ≤ 47) ∨ 128 ≤ n.toNat →
       ∀ i, (i = .srr d n ∨ i = .srw a n) →
         exec i s = .next (s.hand { f with sres := .fault .specialRegister n.toNat })) ∧
     (∀ n : BitVec 9, (10 ≤ n.toNat ∧ n.toNat ≤ 20) ∨ (32 ≤ n.toNat ∧ n.toNat ≤ 43) ∨ (48 ≤ n.toNat ∧ n.toNat ≤ 127) →
       exec (.srw a n) s = .next (s.hand { f with sres := .fault .specialRegister (n.toNat + 2 ^ 32) }))) ∧
  (∀ (s : State) (f : Focus) (a : BitVec 5) (n : BitVec 9), Ready s f [a] → f.n = (s.slot f.slot).n → n.toNat ≤ 9 →
     Gives (.srw a n) s fun t =>
       let v := (s.slot f.slot).ctx.getX a
       let r := t.readSpecial f.slot n.toNat
       (n = 0 → r.toNat = v.toNat % 2 ^ 9) ∧
       (n = 1 → r.toNat = (s.readSpecial f.slot 1).toNat % 2 + 2 + (s.readSpecial f.slot 1).toNat / 16 % 256 * 16) ∧
       (n = 2 → r.toNat = min 2 (v.toNat % 4) + 4 * min 2 (v.toNat / 4 % 4) + v.toNat / 16 % 8 * 16) ∧
       (n = 3 → r.toNat = v.toNat % 2 ^ 24 + min 63 (v.toNat / 2 ^ 24 % 256) * 2 ^ 24) ∧
       (n = 4 → r.toNat = v.toNat % 2) ∧
       (n = 5 → ∀ k, k < 64 → r.getLsbD k = (v.getLsbD k && decide (k < f.n))) ∧
       (n = 6 → r.toNat = max 1000 (v.toNat % 2 ^ 32)) ∧
       (n = 7 → r.toNat = v.toNat / 4 * 4) ∧ (n = 8 ∨ n = 9 → r = v) ∧
       (∀ k, k ≠ n.toNat → t.readSpecial f.slot k = s.readSpecial f.slot k) ∧
       (∀ k, (t.slot f.slot).ctx.getX k = (s.slot f.slot).ctx.getX k))

/-- R305-R308: BINIT sets an object of EXP = xA, valid, with every other field zero; BINV makes one invalid; BARR counts an
arrival, and BARD an arrival and a drop, with as many of the object's arrivals on their way as come in the same cycle (how many
is free, log 107); an arrival that reaches EXP raises RDY, to at most 255, clears ARR, takes DROP
from EXP and makes the object SPENT when nothing is left; BWAIT takes a completion or, of a SPENT object, all ones. (BINIT
with arrivals pending and a bad count names the arrivals: the model's choice, log 56.) BINIT, BINV, BARR, BARD and BWAIT complete under the conditions stated, and raise a special register fault under the others. -/
def Obligations.JoinObjects : Prop :=
  ∀ (s : State) (f : Focus) (d a : BitVec 5) (jo : BitVec 6), Ready s f [a] →
    let j := (s.slot f.slot).ctx.joins.get jo
    let v := ((s.slot f.slot).ctx.getX a).toNat
    let put := fun (q : Join) => Host.Outcome.next (φ := Fault) (ρ := Refusal)
      (s.onCtx f.slot fun y => { y with joins := y.joins.put jo q })
    let bad := fun (k : Nat) => Host.Outcome.next (φ := Fault) (ρ := Refusal)
      (s.hand { f with sres := .fault .specialRegister (jo.toNat + k * 2 ^ 32) })
    let here := fun (y : Ctx) => y.arrivals.countP fun a => a.1 == jo
    (j.pend = 0 → 1 ≤ v → v < 2 ^ 24 → exec (.binit a jo) s = put ⟨BitVec.ofNat 24 v, 0, 0, 0, 0, true, false⟩) ∧
    (j.pend = 0 → (v = 0 ∨ 2 ^ 24 ≤ v) → exec (.binit a jo) s = bad 3) ∧
    (j.pend ≠ 0 → exec (.binit a jo) s = bad 4 ∧ exec (.binv jo) s = bad 4) ∧
    (j.pend = 0 → exec (.binv jo) s = put ⟨0, 0, 0, 0, 0, false, false⟩) ∧
    (j.valid = false → exec (.barr jo) s = bad 2 ∧ exec (.bard jo) s = bad 2 ∧ exec (.bwait d jo) s = bad 2) ∧
    (j.valid = true → j.spent = true → exec (.barr jo) s = .next s ∧ exec (.bard jo) s = .next s) ∧
    (j.valid = true → j.spent = false → ∀ i k, (i = .barr jo ∧ k = 0 ∨ i = .bard jo ∧ k = 1) →
      Gives i s fun t => ∃ (q : Join) (n : Nat), n ≤ here (s.slot f.slot).ctx ∧ here (t.slot f.slot).ctx = here (s.slot f.slot).ctx - n ∧
        (t.slot f.slot).ctx = { (s.slot f.slot).ctx with
          joins := (s.slot f.slot).ctx.joins.put jo q, arrivals := (t.slot f.slot).ctx.arrivals } ∧
        (∀ c, c ≠ f.slot → t.slot c = s.slot c) ∧ t.focus = s.focus ∧ t.hbm = s.hbm ∧ t.host = s.host ∧
        q.pend = j.pend - BitVec.ofNat 32 n ∧ q.valid = true ∧
        (j.arr.toNat + n + 1 < j.exp.toNat → q.arr.toNat = j.arr.toNat + n + 1 ∧ q.exp = j.exp ∧ q.rdy = j.rdy ∧
          q.drop = j.drop + BitVec.ofNat 24 k ∧ q.spent = false) ∧
        (j.exp.toNat ≤ j.arr.toNat + n + 1 → j.arr.toNat + n + 1 < 2 ^ 32 → j.drop.toNat + 1 < 2 ^ 24 →
          q.arr = 0 ∧ q.drop = 0 ∧ q.rdy.toNat = min 255 (j.rdy.toNat + 1) ∧ q.exp.toNat = j.exp.toNat - (j.drop.toNat + k) ∧
          (q.spent = true ↔ j.exp.toNat ≤ j.drop.toNat + k))) ∧
    (j.valid = true → j.rdy ≠ 0 → Gives (.bwait d jo) s fun t => ∃ u, WroteX s u f.slot d (BitVec.ofNat 64 j.rdy.toNat) ∧
      t = u.onCtx f.slot fun y => { y with joins := y.joins.put jo { j with rdy := j.rdy - 1 } }) ∧
    (j.valid = true → j.rdy = 0 → j.spent = true → WritesX (.bwait d jo) s f d (BitVec.allOnes 64)) ∧
    (j.valid = true → j.rdy = 0 → j.spent = false →
      exec (.bwait d jo) s = .next (s.hand { f with sres := .wait }))

/-- R303, R311-R314: TLRD asks the tree for a result and xD awaits it; STEP, TRAP, ERET and HALT leave what follows the
other parts of their bundle; HOSTSIG writes or adds to a signal object once every earlier access is performed, and until then it waits. -/
def Obligations.SystemInstructions : Prop :=
  ∀ (s : State) (f : Focus) (d a : BitVec 5), Ready s f [a] →
    let y := (s.slot f.slot).ctx
    let x := y.getX a
    (∀ k i, Gives (.tlrd d k i) s fun t => (t.slot f.slot).ctx.tree = y.tree ++ [⟨y.tok, .x d, [], none, false⟩] ∧
      (d ≠ 0 → (t.slot f.slot).ctx.xPend.get d = some y.tok) ∧ (t.slot f.slot).ctx.x = y.x ∧
      t.focus = some { f with tlrd := some y.tok }) ∧
    (f.handler = false → exec .step s = .next (s.hand { f with after := .step })) ∧
    (f.handler = true → exec .step s = .next (s.onSlot f.slot fun z => { z with outcome := 0 })) ∧
    (∀ (c : BitVec 14) (e : Option Word),
      exec (.trap c e) s = .next (s.hand { f with after := .trap ((e.map (·.toNat)).getD c.toNat) })) ∧
    (f.handler = true → exec .eret s = .next (s.hand { f with after := .eret })) ∧
    (f.handler = false → exec .eret s = .next s) ∧
    exec (.halt a) s = .next (s.hand { f with after := .halt x }) ∧
    (y.acc = [] → ∀ (o : BitVec 1) (g : BitVec 8), Gives (.hostsig a o g) s fun t =>
      t.sigobj.get g = (if o = 0 then x else s.sigobj.get g + x) ∧ (∀ k, k ≠ g → t.sigobj.get k = s.sigobj.get k) ∧
      t.slots = s.slots ∧ t.hbm = s.hbm ∧ t.focus = s.focus) ∧
    (y.acc ≠ [] → ∀ (o : BitVec 1) (g : BitVec 8), exec (.hostsig a o g) s = .next (s.hand { f with sres := .wait }))

/-- R79, R304: SPAWN of a legal descriptor with valid handles takes a free slot, whose number comes into xD, and the new
context waits there with the queue and the family of its parent and a priority no higher than its parent's; with E = 1 it
registers an arrival of the join object, unless that is SPENT. A descriptor outside its limits gives −2, handles that are
not valid −3, and no free slot −1; a join object that is not valid is a special register fault, and a descriptor that cannot be
read a scalar memory fault. Behind earlier accesses, or a relocation of its handle, it waits. (The model's choice: the join
object comes first, then the wait behind earlier accesses, though SPAWN never waits for a slot, then the descriptor: log 55; while
a LAUNCH waits only a slot that came free in this cycle is taken: log 21.) -/
def Obligations.Spawning : Prop :=
  ∀ (s : State) (f : Focus) (d a : BitVec 5) (e : BitVec 1) (jo : BitVec 6), Ready s f [a] →
    let i : Instr := .spawn d a e jo
    let p := s.slot f.slot
    let j := p.ctx.joins.get jo
    (e = 1 → j.valid = false →
      exec i s = .next (s.hand { f with sres := .fault .specialRegister (jo.toNat + 2 * 2 ^ 32) })) ∧
    ((e = 1 → j.valid = true) → (p.ctx.acc ≠ [] ∨ s.relocating (p.ctx.getX a) = true) →
      exec i s = .next (s.hand { f with sres := .wait })) ∧
    ((e = 1 → j.valid = true) → p.ctx.acc = [] → s.relocating (p.ctx.getX a) = false → s.readDesc (p.ctx.getX a) = none →
      exec i s = .next (s.hand { f with sres := .fault .scalarMemory (p.ctx.getX a).toNat })) ∧
    (∀ b, (e = 1 → j.valid = true) → p.ctx.acc = [] → s.relocating (p.ctx.getX a) = false → s.readDesc (p.ctx.getX a) = some b →
      (descLegal b s.devnum = false → WritesX i s f d (BitVec.ofInt 64 (-2))) ∧
      (descLegal b s.devnum = true → s.handlesValid (descOf b) = false → WritesX i s f d (BitVec.ofInt 64 (-3))) ∧
      (descLegal b s.devnum = true → s.handlesValid (descOf b) = true → s.spawnSlot = none →
        WritesX i s f d (BitVec.ofInt 64 (-1))) ∧
      (∀ c, descLegal b s.devnum = true → s.handlesValid (descOf b) = true → s.spawnSlot = some c → c ≠ f.slot →
        Gives i s fun t => (d ≠ 0 → (t.slot f.slot).ctx.getX d = BitVec.ofNat 64 c.toNat) ∧
          (t.slot c).state = .waiting ∧ (t.slot c).spawned = true ∧ (t.slot c).parent = f.slot ∧
          (t.slot c).queue = p.queue ∧ (t.slot c).fam = p.fam ∧ (t.slot c).desc = descOf b ∧
          (t.slot c).prio.toNat = min p.prio.toNat (descOf b).prio.toNat ∧
          (t.slot c).join = (if e = 1 ∧ j.spent = false then some jo else none) ∧
          (t.slot f.slot).ctx.joins.get jo = (if e = 1 ∧ j.spent = false then { j with pend := j.pend + 1 } else j) ∧
          (t.slot f.slot).state = p.state))

/-- R48, R49, R315: with PODGRP 0 a pod barrier or reduction completes at once, a reduction with its own value combined with the
identity of its operation; in a group it begins a round: one message to each other member leaves, and the bundle waits; it completes when the round's result
has come. Without a route to some member, or in a device that is in no pod, it sends nothing and the context is dead, the record
naming the lowest such member. -/
def Obligations.PodCollectives : Prop :=
  ∀ (s : State) (f : Focus) (d a : BitVec 5) (o : BitVec 4), Ready s f [a] →
    let x := s.slot f.slot
    (x.desc.podgrp = 0 → o.toNat ≤ 10 →
      (Gives .podbar s fun t => (t.slot f.slot).ctx.podRound = x.ctx.podRound + 1 ∧ (t.slot f.slot).ctx.x = x.ctx.x ∧
        t.focus = s.focus) ∧
      (Gives (.podred d a o) s fun t => (t.slot f.slot).ctx.podRound = x.ctx.podRound + 1 ∧ t.focus = s.focus ∧
        (d ≠ 0 → (t.slot f.slot).ctx.getX d =
          if o.toNat ≤ 7 then x.ctx.getX a
          else if o.toNat ≤ 9 then BitVec.ofNat 64 ((x.ctx.getX a).toNat % 2 ^ 32)
          else BitVec.ofNat 64 ((x.ctx.getX a).toNat % 2)))) ∧
    (∀ w r, x.desc.podgrp ≠ 0 → x.ctx.podWait = some w → w.pc = f.pc → w.result = some r →
      (Gives .podbar s fun t => (t.slot f.slot).ctx.podWait = none ∧ (t.slot f.slot).ctx.x = x.ctx.x ∧ t.focus = s.focus) ∧
      (Gives (.podred d a o) s fun t => (t.slot f.slot).ctx.podWait = none ∧ t.focus = s.focus ∧
        (d ≠ 0 → (t.slot f.slot).ctx.getX d = r))) ∧
    (∀ w, x.desc.podgrp ≠ 0 → x.ctx.podWait = some w → w.pc = f.pc → w.result = none →
      exec .podbar s = .next (s.hand { f with sres := .wait }) ∧
      exec (.podred d a o) s = .next (s.hand { f with sres := .wait })) ∧
    (x.desc.podgrp ≠ 0 → x.ctx.podWait = none → s.podValid = true → s.peers x.desc.podmask ≠ [] → x.ctx.podIn = [] →
      (∀ q, q ∈ s.peers x.desc.podmask → s.routes q ≠ []) →
      ∀ i k op v, (i = .podbar ∧ k = 1 ∧ op = 0 ∧ v = 0 ∨ i = .podred d a o ∧ k = 2 ∧ op = o.zeroExtend 8 ∧ v = x.ctx.getX a) →
        Gives i s fun t => t.focus = some { f with sres := .wait } ∧ (t.slot f.slot).ctx.podRound = x.ctx.podRound + 1 ∧
          (t.slot f.slot).ctx.podWait =
            some ⟨f.pc, k, op, x.ctx.podRound, v, s.time + msPs s.podtmo.toNat, none⟩ ∧
          ∃ l : List Flit, t.flits = s.flits ++ l ∧ l.map (·.dest) = s.peers x.desc.podmask ∧
            ∀ m ∈ l, m.src = s.devnum ∧ m.hops = 0 ∧ m.link ∈ s.routes m.dest ∧
              m.body = .message ⟨k, op, x.ctx.podRound, s.devnum, x.desc.podgrp, x.desc.podmask, v⟩ f.slot x.life) ∧
    (x.desc.podgrp ≠ 0 → x.ctx.podWait = none →
      let lost := (s.peers x.desc.podmask).filter fun p => s.podValid == false || decide (s.routes p = [])
      (s.podValid = false ∨ lost ≠ []) → ∀ i, (i = .podbar ∨ i = .podred d a o) →
        exec i s = .next ((s.kill f.slot { (DeadInfo.plain .podRoute) with
          link := (lost.head?.map (·.toNat)).getD 0xFF }).setSres .wait))

/-! ### Vector integer instructions -/

/-- R220, R317, R318, R320: the lane-wise sums, differences, products, extremes, saturating forms, distances, absolute
values and negations. In each enabled lane of an active cell vD receives the result of the lanes of vA and vB (or of
the immediate) read under the type, modulo 2^n; the other lanes and everything else stay. VADD, VSUB, VMUL, VMULH,
VMAD, VMIN, VMAX, VSADD, VSSUB, VABD, VABS and VNEG complete on every cell. R317, R318, R320, R321: shifts by the lane
of vB or by the immediate, zero (or all sign bits) at a count of the width or more; bit-wise logic, on lanes of every
type code, 4-bit lanes among them; the counts of leading zeros and of ones. VSHL, VSHR, VSRA, VAND, VOR, VXOR, VNOT, VCLZ and VPOPC complete on every cell. -/
def Obligations.VectorIntegers : Prop :=
  (∀ (t : BitVec 4) (d a b c : BitVec 5) (m : BitVec 3) (x : Option Word), tyI t = true →
     let n := tyBits t.toNat
     let sg := decide (t.toNat % 2 = 0)
     let val := fun (u : Nat) => if sg then sextN u n else (u : Int)
     let lo : Int := if sg then -(2 ^ (n - 1)) else 0
     let hi : Int := if sg then 2 ^ (n - 1) - 1 else 2 ^ n - 1
     let va := fun (p : Cell) i => lane n (p.getV a) i
     let vb := fun (p : Cell) i => match x with
       | none => lane n (p.getV b) i
       | some e => if n = 64 then (if sg then wrapN 64 e.toInt else e.toNat) else e.toNat % 2 ^ n
     let is := fun (i : Instr) (f : Nat → Nat → Nat) => ActsOnCells i anyCell (LanesOf n d m fun _ p k => f (va p k) (vb p k))
     is (.vadd t d a b m x) (fun u v => (u + v) % 2 ^ n) ∧
     is (.vsub t d a b m x) (fun u v => (u + (2 ^ n - v % 2 ^ n)) % 2 ^ n) ∧
     is (.vmul t d a b m x) (fun u v => u * v % 2 ^ n) ∧
     is (.vmulh t d a b m x) (fun u v => wrapN n (val u * val v / 2 ^ n)) ∧
     is (.vmin t d a b m x) (fun u v => if val u ≤ val v then u else v) ∧
     is (.vmax t d a b m x) (fun u v => if val u ≤ val v then v else u) ∧
     is (.vsadd t d a b m x) (fun u v => wrapN n (max lo (min hi (val u + val v)))) ∧
     is (.vssub t d a b m x) (fun u v => wrapN n (max lo (min hi (val u - val v)))) ∧
     is (.vabd t d a b m x) (fun u v => (val u - val v).natAbs) ∧
     ActsOnCells (.vmad t d a b m c) anyCell (LanesOf n d m fun _ p k =>
       (va p k * lane n (p.getV b) k + lane n (p.getV c) k) % 2 ^ n) ∧
     ActsOnCells (.vneg t d a m) anyCell (LanesOf n d m fun _ p k => (2 ^ n - va p k) % 2 ^ n) ∧
     (∀ u : BitVec 2,
       let w := 8 * 2 ^ u.toNat
       ActsOnCells (.vabs u d a m) anyCell (LanesOf w d m fun _ p k =>
         let q := lane w (p.getV a) k
         if q < 2 ^ (w - 1) then q else 2 ^ w - q))) ∧
  (∀ (t : BitVec 4) (d a b : BitVec 5) (m : BitVec 3) (x : Option Word), tyD t = true →
     let n := tyBits t.toNat
     let va := fun (p : Cell) i => lane n (p.getV a) i
     let count := fun (p : Cell) i => match x with | none => lane n (p.getV b) i | some e => e.toNat % 64
     let vb := fun (p : Cell) i => match x with
       | none => lane n (p.getV b) i
       | some e => if n = 64 then (if t = 15 then e.toNat else wrapN 64 e.toInt) else e.toNat % 2 ^ n
     let is := fun (i : Instr) (f : Cell → Nat → Nat) => ActsOnCells i anyCell (LanesOf n d m fun _ p k => f p k)
     (tyI t = true →
       is (.vshl t d a b m x) (fun p k => va p k * 2 ^ count p k % 2 ^ n) ∧
       is (.vshr t d a b m x) (fun p k => va p k / 2 ^ count p k) ∧
       is (.vsra t d a b m x) (fun p k => wrapN n (sextN (va p k) n / 2 ^ count p k)) ∧
       is (.vclz t d a m) (fun p k => if va p k = 0 then n else n - 1 - (va p k).log2) ∧
       is (.vpopc t d a m) (fun p k => (List.range n).countP (va p k).testBit)) ∧
     is (.vand t d a b m x) (fun p k => va p k &&& vb p k) ∧
     is (.vor t d a b m x) (fun p k => va p k ||| vb p k) ∧
     is (.vxor t d a b m x) (fun p k => va p k ^^^ vb p k) ∧
     is (.vnot t d a m) (fun p k => va p k ^^^ (2 ^ n - 1)))

/-- R324-R326: a compare writes the 16 bits of mD by the bit rule: a bit that mask mK does not govern is 0, a 32-bit lane
gives its own bit, a 64-bit lane both of its bits, narrower lanes the conjunction over the lanes of a bit; VTEST puts into
cD whether any or every enabled lane is not zero, on lanes of every type code; the mask operations act bit by bit, and VMPOPC counts. VCMP, VTEST,
VMAND, VMOR, VMXOR, VMNOT and VMPOPC complete on every cell; a write of m0 is discarded. -/
def Obligations.ComparesAndMasks : Prop :=
  (∀ (t : BitVec 4) (d m : BitVec 3) (a b : BitVec 5) (c : BitVec 2) (x : Option Word), tyI t = true →
    let n := tyBits t.toNat
    let sg := decide (t.toNat % 2 = 0)
    let val := fun (u : Nat) => if sg then sextN u n else (u : Int)
    let holds := fun (p : Cell) i =>
      let u := val (lane n (p.getV a) i)
      let v := val (match x with
        | none => lane n (p.getV b) i
        | some e => if n = 64 then (if sg then wrapN 64 e.toInt else e.toNat) else e.toNat % 2 ^ n)
      if c = 0 then u = v else if c = 1 then u ≠ v else if c = 2 then u < v else u ≤ v
    ActsOnCells (.vcmp t d a b m c x) anyCell (IfActive fun _ p q q' => OnlyM d q q' ∧ (d ≠ 0 → ∀ k, k < 16 →
      ((q'.getM d).getLsbD k = true ↔
        if n = 64 then (p.getM m).getLsbD (2 * (k / 2)) = true ∧ holds p (k / 2)
        else (p.getM m).getLsbD k = true ∧ ∀ j, j < 32 / n → holds p (k * (32 / n) + j))))) ∧
  (∀ (t : BitVec 4) (d : BitVec 2) (m : BitVec 3) (a : BitVec 5) (f : BitVec 1), tyD t = true →
    let n := tyBits t.toNat
    ActsOnCells (.vtest t d a m f) anyCell (IfActive fun _ p q q' => OnlyC d q q' ∧
      (q'.c.get d = true ↔
        if f = 0 then ∃ i, i < 512 / n ∧ (p.getM m).getLsbD (n * i / 32) = true ∧ lane n (p.getV a) i ≠ 0
        else ∀ i, i < 512 / n → (p.getM m).getLsbD (n * i / 32) = true → lane n (p.getV a) i ≠ 0))) ∧
  (∀ d a b : BitVec 3,
    ActsOnCells (.vmand d a b) anyCell (MaskOf d fun _ p => p.getM a &&& p.getM b) ∧
    ActsOnCells (.vmor d a b) anyCell (MaskOf d fun _ p => p.getM a ||| p.getM b) ∧
    ActsOnCells (.vmxor d a b) anyCell (MaskOf d fun _ p => p.getM a ^^^ p.getM b) ∧
    ActsOnCells (.vmnot d a) anyCell (MaskOf d fun _ p => ~~~ p.getM a)) ∧
  (∀ (d : BitVec 4) (a m : BitVec 3),
    ActsOnCells (.vmpopc d a m) anyCell (ScalarOf d fun _ p =>
      BitVec.ofNat 32 ((List.range 16).countP fun k => (p.getM a).getLsbD k && (p.getM m).getLsbD k)))

/-- R327, R328: moves between lanes and from scalars, VMOV and VSEL on lanes of every type code. VMOV, VMOVI, VBROAD (from bA, or from the latch kA), VSEL (every
lane is written), VSHUF (indices modulo the lane count), VROTL, VIOTA and VCELLID complete on every cell. R327: VEXT
puts one lane into bD, sign- or zero-extended to 32 bits under its type, or a half of a 64-bit lane; VINS changes only
lane j of vD, from bA, whatever the mask. The lane is bB modulo the lane count, or the immediate. VEXT and VINS
complete on every cell. R323, R329: the reductions over the enabled lanes of vA write their 64-bit result to bits 63:0
of vD and clear the rest; with no lane enabled the sum is 0, the maximum the least and the minimum the greatest value
of the type. VHASH mixes each enabled lane's counter with the four key words of vB by the four rounds. VRSUM, VRMAX,
VRMIN and VHASH complete on every cell. -/
def Obligations.LaneMovesAndReductions : Prop :=
  (∀ (t : BitVec 4) (d a b : BitVec 5) (m : BitVec 3), tyD t = true →
     let n := tyBits t.toNat
     ActsOnCells (.vmov t d a m) anyCell (LanesOf n d m fun _ p k => lane n (p.getV a) k) ∧
     ActsOnCells (.vsel t d a b m) anyCell (IfActive fun _ p q q' => OnlyV d q q' ∧ ∀ k, k < 512 / n →
       lane n (q'.getV d) k = if (p.getM m).getLsbD (n * k / 32) then lane n (p.getV a) k else lane n (p.getV b) k)) ∧
  (∀ (t : BitVec 4) (d a b : BitVec 5) (m : BitVec 3), tyL t = true →
     let n := tyBits t.toNat
     let l := 512 / n
     let is := fun (i : Instr) (f : Env → Cell → Nat → Nat) => ActsOnCells i anyCell (LanesOf n d m f)
     let widen := fun (e : Word) => if n = 64 then (if t = 15 then e.toNat else wrapN 64 e.toInt) else e.toNat % 2 ^ n
     (∀ e : BitVec 32, is (.vmovi t d m e) (fun _ _ _ => widen e)) ∧
     (∀ k : BitVec 4, is (.vbroad t d k m 0) (fun _ p _ => widen (p.getB k)) ∧
       is (.vbroad t d k m 1) (fun env _ _ => widen (env.k.get (BitVec.ofNat 2 k.toNat)))) ∧
     is (.vshuf t d a b m) (fun _ p k => lane n (p.getV a) (lane n (p.getV b) k % l)) ∧
     (∀ (r : BitVec 4) (x : Option Word),
       is (.vrotl t d a r m x) (fun _ p k =>
         let by_ := match x with | none => (p.getB r).toNat | some e => e.toNat % 128
         lane n (p.getV a) ((k + (l - by_ % l)) % l))) ∧
     (tyI t = true → ∀ k : BitVec 4, is (.viota t d k m) (fun _ p i =>
       wrapN n ((if t.toNat % 2 = 0 then (p.getB k).toInt else ((p.getB k).toNat : Int)) + i))) ∧
     (∀ (u : BitVec 2) (f : BitVec 2),
       let w := if u.toNat < 2 then 32 else 64
       ActsOnCells (.vcellid u d m f) anyCell (LanesOf w d m fun env _ i =>
         let cell := 1600 * env.die + env.cell
         (if f = 0 then cell else if f = 1 then env.die else if f = 2 then env.cell else cell * (512 / w) + i) % 2 ^ w))) ∧
  (∀ (t : BitVec 4) (b c : BitVec 4) (v : BitVec 5) (h : BitVec 1) (x : Option Word), tyL t = true → laneOk t x = true →
     let n := tyBits t.toNat
     let l := 512 / n
     let at_ := fun (p : Cell) => match x with | none => (p.getB b).toNat % l | some e => e.toNat
     ActsOnCells (.vext t c v b h x) anyCell (ScalarOf c fun _ p =>
       let u := lane n (p.getV v) (at_ p)
       if n = 64 then BitVec.ofNat 32 (if h = 1 then u / 2 ^ 32 else u)
       else if t.toNat < 8 ∨ t.toNat % 2 = 0 then BitVec.ofInt 32 (sextN u n) else BitVec.ofNat 32 u) ∧
     ActsOnCells (.vins t v c b h x) anyCell (IfActive fun _ p q q' => OnlyV v q q' ∧ ∀ k, k < l →
       lane n (q'.getV v) k =
         if k ≠ at_ p then lane n (p.getV v) k
         else if n = 64 ∧ h = 1 then lane 64 (p.getV v) k % 2 ^ 32 + (p.getB c).toNat * 2 ^ 32
         else if n = 64 then (if t = 15 then (p.getB c).toNat else wrapN 64 (p.getB c).toInt)
         else (p.getB c).toNat % 2 ^ n)) ∧
  ((∀ (t : BitVec 4) (d a : BitVec 5) (m : BitVec 3), tyI t = true →
     let n := tyBits t.toNat
     let sg := decide (t.toNat % 2 = 0)
     let lo : Int := if sg then -(2 ^ (n - 1)) else 0
     let hi : Int := if sg then 2 ^ (n - 1) - 1 else 2 ^ n - 1
     let on := fun (p : Cell) => ((List.range (512 / n)).filter fun i => (p.getM m).getLsbD (n * i / 32)).map fun i =>
       if sg then sextN (lane n (p.getV a) i) n else (lane n (p.getV a) i : Int)
     let whole := fun (i : Instr) (r : Cell → Int → Prop) => ActsOnCells i anyCell (IfActive fun _ p q q' =>
       OnlyV d q q' ∧ ∃ v, r p v ∧ q'.getV d = BitVec.ofNat 512 (wrapN 64 v))
     whole (.vrsum t d a m) (fun p v => v = (on p).sum) ∧
     whole (.vrmax t d a m) (fun p v => (on p = [] → v = lo) ∧ (on p ≠ [] → v ∈ on p ∧ ∀ u ∈ on p, u ≤ v)) ∧
     whole (.vrmin t d a m) (fun p v => (on p = [] → v = hi) ∧ (on p ≠ [] → v ∈ on p ∧ ∀ u ∈ on p, v ≤ u))) ∧
   (∀ (t : BitVec 1) (d a b : BitVec 5) (m : BitVec 3),
     ActsOnCells (.vhash t d a b m) anyCell (LanesOf 32 d m fun _ p i =>
       let key := fun k => lane 32 (p.getV b) k
       let round := fun (k c z : Nat) => (k * c / 2 ^ 32) ^^^ (k * c % 2 ^ 32) ^^^ z
       round (round (round (round (lane 32 (p.getV a) i) 0xD2B74407 (key 0)) 0xA3E59C1B (key 1)) 0x8F1D2B65 (key 2))
         0xC6A4A793 (key 3))))

/-- R141, R330: the cell scalar instructions without memory. BADD, BSUB, BMUL, BSHL, BSHR (logical and arithmetic),
BADDI, BAND, BOR, BXOR, BMOV, BLI and BCMP complete on every cell; b0 reads zero and discards what is written to it.
R116, R331: VPUSHACT pushes A and ands it with a condition bit, VELSE turns A over under the top of the stack, VPOPACT
pops A; they act in every cell, whatever its A, and change nothing else. A ninth push is an activity stack overflow,
and VELSE or VPOPACT on an empty stack an underflow; the cell then stays as it was. -/
def Obligations.CellScalarsAndActivity : Prop :=
  (∀ (d a b : BitVec 4) (e : BitVec 32) (c : BitVec 2) (k : BitVec 2),
     let is := fun (i : Instr) (f : Word → Word → Word) =>
       ActsOnCells i anyCell (ScalarOf d fun _ p => f (p.getB a) (p.getB b))
     is (.badd d a b) (fun u v => u + v) ∧ is (.bsub d a b) (fun u v => u - v) ∧ is (.bmul d a b) (fun u v => u * v) ∧
     is (.bshl d a b) (fun u v => BitVec.ofNat 32 (u.toNat * 2 ^ v.toNat)) ∧
     is (.bshr d a b 0) (fun u v => BitVec.ofNat 32 (u.toNat / 2 ^ v.toNat)) ∧
     is (.bshr d a b 1) (fun u v => BitVec.ofInt 32 (u.toInt / 2 ^ v.toNat)) ∧
     is (.baddi d a e) (fun u _ => u + e) ∧ is (.band d a b) (fun u v => u &&& v) ∧ is (.bor d a b) (fun u v => u ||| v) ∧
     is (.bxor d a b) (fun u v => u ^^^ v) ∧ is (.bmov d a) (fun u _ => u) ∧ is (.bli d e) (fun _ _ => e) ∧
     ActsOnCells (.bcmp k a b c) anyCell (IfActive fun _ p q q' => OnlyC k q q' ∧
       (q'.c.get k = true ↔
         if c = 0 then p.getB a = p.getB b else if c = 1 then p.getB a ≠ p.getB b
         else if c = 2 then (p.getB a).toInt < (p.getB b).toInt else (p.getB a).toNat < (p.getB b).toNat))) ∧
  ((∀ k : BitVec 2,
     ActsOnCells (.vpushact k) (fun _ p _ => p.stack.length ≠ 8) (fun _ p q q' =>
       q' = { q with stack := p.act :: p.stack, act := p.act && p.c.get k }) ∧
     RaisesInCells (.vpushact k) (fun _ p _ => p.stack.length = 8) (fun _ _ _ => ⟨.activityOverflow, 0xFF, 8⟩)) ∧
   ActsOnCells .velse (fun _ p _ => p.stack ≠ []) (fun _ p q q' =>
     ∃ top r, p.stack = top :: r ∧ q' = { q with act := top && !p.act }) ∧
   ActsOnCells .vpopact (fun _ p _ => p.stack ≠ []) (fun _ p q q' =>
     ∃ top r, p.stack = top :: r ∧ q' = { q with act := top, stack := r }) ∧
   (∀ i, (i = .velse ∨ i = .vpopact) →
     RaisesInCells i (fun _ p _ => p.stack = []) (fun _ _ _ => ⟨.activityUnderflow, 0xFF, 0⟩)))

/-! ### Activity -/

/-! ### Scratchpad access from the V0 slot -/

/-- R151, R159, R330, R332-R335, R337: the loads from the scratchpad. With every enabled lane's bytes within the scratchpad,
aligned and not in a guarded range, the lanes receive the elements, lowest byte first: VLD from 64 contiguous bytes (a base
below 0 is met where the lanes there are disabled), VLDS at a stride, VGATH by the indices of vB (an enabled lane whose index is
out of range receives zero and is counted in OOBCNT), BLD one word. Each word is read as it stands, or as it stood before an
engine's write that the load may have overtaken. Nothing else of the cell changes. VLD, VLDS, VGATH and BLD complete under these
conditions. -/
def Obligations.ScratchpadLoads : Prop :=
  ∀ (t : BitVec 4) (d b5 : BitVec 5) (a b : BitVec 4) (m : BitVec 3) (x : Option Word), tyD t = true →
    let n := tyBits t.toNat
    let base := fun (p : Cell) => ((p.getB a).toNat : Int) + (x.map fun (w : Word) => w.toInt).getD 0
    let clear := fun (p : Cell) (o : Int) (k al : Nat) => 0 ≤ o ∧ o + k ≤ 131072 ∧ o % al = 0 ∧
      ∀ g ∈ p.guards, ¬(o ≤ g.hi ∧ (g.lo : Int) < o + k)
    let on := fun (p : Cell) i => (p.getM m).getLsbD (n * i / 32) = true
    let al := if n = 64 then 4 else n / 8
    let elem := fun (v : Mem) (o : Int) (k : Nat) => ((List.range k).map fun i => (v.get (o.toNat + i)).toNat * 256 ^ i).sum
    let loads := fun (i : Instr) (ok : Cell → Prop) (val : Mem → Cell → Nat → Nat) (oob : Cell → Nat) =>
      ActsOnCells i (fun _ p _ => Mem.wf p.pad = true ∧ (p.act = true → ok p))
        (IfActive fun env p q q' => ∃ v, MayFind env p v ∧
          q' = { q with
            v := q'.v
            cflags := { q.cflags with oobcnt := BitVec.ofNat 16 (min 0xFFFF (q.cflags.oobcnt.toNat + oob p)) } } ∧
          (∀ r, r ≠ d → q'.getV r = q.getV r) ∧
          ∀ i, i < 512 / n → lane n (q'.getV d) i =
            if (p.getM m).getLsbD (n * i / 32) = true then val v p i else lane n (p.getV d) i)
    loads (.vld t d a m x)
      (fun p => base p % 4 = 0 ∧ ∀ i, i < 512 / n → on p i → clear p (base p + (n * i / 8 : Nat)) (max 1 (n / 8)) 1)
      (fun v p i => elem v (base p + (n * i / 8 : Nat)) (max 1 (n / 8)) / (if n = 4 then 16 ^ (i % 2) else 1) % 2 ^ n)
      (fun _ => 0) ∧
    (tyL t = true →
      let at_ := fun (p : Cell) (i : Nat) => base p + i * (p.getB b).toInt
      loads (.vlds t d a b m x) (fun p => ∀ i, i < 512 / n → on p i → clear p (at_ p i) (n / 8) al)
        (fun v p i => elem v (at_ p i) (n / 8)) (fun _ => 0)) ∧
    (tyL t = true → ∀ c : BitVec 1,
      let idx := fun (p : Cell) i => sextN (lane 32 (p.getV b5) i) 32
      let isIn := fun (p : Cell) i => 0 ≤ idx p i ∧ idx p i < (p.getB (a + 1)).toNat
      let at_ := fun (p : Cell) (i : Nat) => base p + idx p i * (n / 8 : Nat)
      loads (.vgath t d a b5 m c x)
        (fun p => ∀ i, i < 512 / n → on p i → (isIn p i ∧ clear p (at_ p i) (n / 8) al) ∨ (¬isIn p i ∧ c = 0))
        (fun v p i => if isIn p i then elem v (at_ p i) (n / 8) else 0)
        (fun p => (List.range (512 / n)).countP fun i => (p.getM m).getLsbD (n * i / 32) && !decide (isIn p i))) ∧
    ActsOnCells (.bld b a x) (fun _ p _ => Mem.wf p.pad = true ∧ (p.act = true → clear p (base p) 4 4))
      (IfActive fun env p q q' => ∃ v, MayFind env p v ∧ OnlyB b q q' ∧
        q'.getB b = if b = 0 then 0 else BitVec.ofNat 32 (elem v (base p) 4))

/-- R330, R332-R336: the stores to the scratchpad. Where each enabled lane's element lies within the scratchpad, is aligned and is
not guarded, it is stored lowest byte first, and every byte outside these elements reads as before, as does every other part of
the cell. VST stores to 64 contiguous bytes (a base below 0 is met where the lanes there are disabled), BST one word, VSTS at a
stride, VSCAT by the indices of vB, a higher lane over a lower one. VSCATA adds in ascending lane order, each lane to the sum of
the lanes before it: integers modulo 2^n, FP32 under FPCTL with its flags gathered in CFLAGS, and on an enabled trap, the lowest
lane that raises it named, nothing is written. A lane whose index is out of range writes nothing and is counted in OOBCNT. VST,
BST, VSTS, VSCAT and VSCATA complete under these conditions. -/
def Obligations.ScratchpadStoresAndScatters : Prop :=
  ∀ (t : BitVec 4) (d b5 : BitVec 5) (a b : BitVec 4) (m : BitVec 3) (c : BitVec 1) (x : Option Word), tyD t = true →
    let n := tyBits t.toNat
    let base := fun (p : Cell) => ((p.getB a).toNat : Int) + (x.map fun (w : Word) => w.toInt).getD 0
    let clear := fun (p : Cell) (o : Int) (k al : Nat) => 0 ≤ o ∧ o + k ≤ 131072 ∧ o % al = 0 ∧
      ∀ g ∈ p.guards, ¬(o ≤ g.hi ∧ (g.lo : Int) < o + k)
    let on := fun (p : Cell) i => (p.getM m).getLsbD (n * i / 32) = true
    let al := if n = 64 then 4 else n / 8
    let form := fun (q : Cell) => Mem.wf q.pad = true
    -- the elements of the lanes in `w` stand at their offsets, a higher lane over a lower one, and nothing else has changed
    let stands := fun (w : Nat → Prop) (at_ : Nat → Int) (val : Nat → Nat) (q q' : Cell) =>
      (∀ i, i < 512 / n → w i → ∀ k, k < n / 8 →
        (∀ j, i < j → j < 512 / n → w j → ¬(at_ j ≤ at_ i + k ∧ at_ i + k < at_ j + (n / 8 : Nat))) →
        q'.pad.get ((at_ i).toNat + k) = BitVec.ofNat 8 (val i / 256 ^ k)) ∧
      (∀ k : Nat, (∀ i, i < 512 / n → w i → ¬(at_ i ≤ k ∧ (k : Int) < at_ i + (n / 8 : Nat))) → q'.pad.get k = q.pad.get k)
    let idx := fun (p : Cell) i => sextN (lane 32 (p.getV b5) i) 32
    let isIn := fun (p : Cell) i => 0 ≤ idx p i ∧ idx p i < (p.getB (a + 1)).toNat
    let indexed := fun (p : Cell) (i : Nat) => base p + idx p i * (n / 8 : Nat)
    let inRange := fun (p : Cell) => ∀ i, i < 512 / n → on p i →
      (isIn p i ∧ clear p (indexed p i) (n / 8) al) ∨ (¬isIn p i ∧ c = 0)
    let oob := fun (p q : Cell) => BitVec.ofNat 16 (min 0xFFFF (q.cflags.oobcnt.toNat +
      (List.range (512 / n)).countP fun i => (p.getM m).getLsbD (n * i / 32) && !decide (isIn p i)))
    let lanesIn := fun (p : Cell) => (List.range (512 / n)).filter fun i =>
      (p.getM m).getLsbD (n * i / 32) && decide (isIn p i)
    -- VSCATA: what lane i finds in its element, what it leaves there, and the flags it raises
    let add := fun (env : Env) (u v : Nat) =>
      if t = 5 then fadd .fp32 (FpCtl.ofWord env.carried.fpctl) u v else ((u + v) % 2 ^ n, 0)
    let found := fun (env : Env) (p : Cell) (i : Nat) =>
      (((lanesIn p).filter fun j => decide (j < i ∧ idx p j = idx p i)).foldl (fun u j => (add env u (lane n (p.getV d) j)).1 % 2 ^ n)
        (p.pad.read (indexed p i).toNat (n / 8)))
    let sum := fun (env : Env) (p : Cell) (i : Nat) => add env (found env p i) (lane n (p.getV d) i)
    let traps := fun (env : Env) (p : Cell) (i : Nat) => (sum env p i).2 &&& (FpCtl.ofWord env.carried.fpctl).enables ≠ 0
    ActsOnCells (.vst t d a m x)
      (fun _ p q => form q ∧ (p.act = true → base p % 4 = 0 ∧
        ∀ i, i < 512 / n → on p i → clear p (base p + (n * i / 8 : Nat)) (max 1 (n / 8)) 1))
      (IfActive fun _ p q q' =>
        let governs := fun (k : Nat) => (p.getM m).getLsbD (if n = 64 then k / 8 * 2 else k / 4) = true
        OnlyPad q q' ∧ form q' ∧
        (∀ k, k < 64 → governs k → q'.pad.get (base p + k).toNat = BitVec.ofNat 8 (lane 8 (p.getV d) k)) ∧
        (∀ k : Nat, (¬∃ j : Nat, j < 64 ∧ governs j ∧ (k : Int) = base p + j) → q'.pad.get k = q.pad.get k)) ∧
    ActsOnCells (.bst b a x) (fun _ p q => form q ∧ (p.act = true → clear p (base p) 4 4))
      (IfActive fun _ p q q' => OnlyPad q q' ∧ form q' ∧
        (∀ k, k < 4 → q'.pad.get ((base p).toNat + k) = BitVec.ofNat 8 ((p.getB b).toNat / 256 ^ k)) ∧
        (∀ k, (k < (base p).toNat ∨ (base p).toNat + 4 ≤ k) → q'.pad.get k = q.pad.get k)) ∧
    (tyL t = true →
      let strided := fun (p : Cell) (i : Nat) => base p + i * (p.getB b).toInt
      ActsOnCells (.vsts t d a b m x)
        (fun _ p q => form q ∧ (p.act = true → ∀ i, i < 512 / n → on p i → clear p (strided p i) (n / 8) al))
        (IfActive fun _ p q q' => OnlyPad q q' ∧ form q' ∧ stands (on p) (strided p) (lane n (p.getV d)) q q')) ∧
    (tyL t = true →
      ActsOnCells (.vscat t d a b5 m c x) (fun _ p q => form q ∧ (p.act = true → inRange p))
        (IfActive fun _ p q q' =>
          q' = { q with pad := q'.pad, stored := q'.stored, cflags := { q.cflags with oobcnt := oob p q } } ∧ form q' ∧
          stands (fun i => on p i ∧ isIn p i) (indexed p) (lane n (p.getV d)) q q')) ∧
    (t = 5 ∨ 12 ≤ t.toNat →
      ActsOnCells (.vscata t d a b5 m c x)
        (fun env p q => form q ∧ form p ∧ (p.act = true → inRange p ∧ ∀ i ∈ lanesIn p, ¬traps env p i))
        (IfActive fun env p q q' =>
          q' = { q with pad := q'.pad, stored := q'.stored, cflags := { q.cflags with oobcnt := oob p q, fp := q'.cflags.fp } } ∧
          form q' ∧ stands (fun i => on p i ∧ isIn p i) (indexed p) (fun i => (sum env p i).1) q q' ∧
          ∀ j, j < 5 → (q'.cflags.fp.getLsbD j = true ↔ q.cflags.fp.getLsbD j = true ∨
            ∃ i ∈ lanesIn p, (sum env p i).2.getLsbD j = true)) ∧
      ∀ k, RaisesInCells (.vscata t d a b5 m c x)
        (fun env p _ => form p ∧ p.act = true ∧ inRange p ∧ k ∈ lanesIn p ∧ traps env p k ∧
          ∀ j ∈ lanesIn p, j < k → ¬traps env p j)
        (fun env p _ => ⟨.fpException, k, ((lanesIn p).foldl (fun z j => z ||| (sum env p j).2) 0).toNat⟩))

/-- R151, R159, R254, R469: a scratchpad access of an active cell that leaves the scratchpad, is misaligned or touches
a guarded range raises scratchpad range, misaligned or early touch, in this order (the place of early touch is log
13), with the offset in its detail, and the cell stays as it was: BLD and BST, whose one access needs no lane, and VLD, VLDS,
VGATH, VST, VSTS, VSCAT and VSCATA in the lowest enabled lane that breaks a check; under .chk an index out of range raises index
range in its lane, before the checks of the element.
R232, R234, R254: where an enabled lane of an active cell raises a flag whose trap FPCTL enables, the cell raises an
FP exception in the lowest such lane, with the flags of all enabled lanes in the detail, and nothing is written: for
VFADD and VFMUL. R167, R168, R254, R469: in an active cell a stream access raises address form where its address word
breaks R167, scratchpad range where it passes the end of a scratchpad of this device, misaligned where only the
alignment fails; the cell sends nothing. For DST without a flag and DLD. -/
def Obligations.CellFaults : Prop :=
  (∀ (a b : BitVec 4) (x : Option Word) (i : Instr), (i = .bld b a x ∨ i = .bst b a x) →
     let base := fun (p : Cell) => ((p.getB a).toNat : Int) + (x.map fun (w : Word) => w.toInt).getD 0
     RaisesInCells i (fun _ p _ => p.act = true ∧ (base p < 0 ∨ 131072 < base p + 4))
       (fun _ p _ => ⟨.padRange, 0xFF, wrapN 32 (base p)⟩) ∧
     RaisesInCells i (fun _ p _ => p.act = true ∧ 0 ≤ base p ∧ base p + 4 ≤ 131072 ∧ base p % 4 ≠ 0)
       (fun _ p _ => ⟨.misaligned, 0xFF, (base p).toNat⟩) ∧
     (∀ g : GuardEntry, g.lo ≤ g.hi → g.hi < 131072 →
       RaisesInCells i (fun _ p _ => p.act = true ∧ 0 ≤ base p ∧ base p + 4 ≤ 131072 ∧ base p % 4 = 0 ∧ p.guards = [g] ∧
           base p ≤ g.hi ∧ (g.lo : Int) < base p + 4)
         (fun _ p _ => ⟨.earlyTouch, 0xFF,
           max (base p).toNat g.lo + g.lo * 2 ^ 32 + g.hi * 2 ^ 64 + g.tl.toNat * 2 ^ 96⟩))) ∧
  (∀ (t : BitVec 4) (d b5 : BitVec 5) (a b : BitVec 4) (m : BitVec 3) (c : BitVec 1) (x : Option Word), tyD t = true →
     let n := tyBits t.toNat
     let base := fun (p : Cell) => ((p.getB a).toNat : Int) + (x.map fun (w : Word) => w.toInt).getD 0
     let idx := fun (p : Cell) i => sextN (lane 32 (p.getV b5) i) 32
     let isIn := fun (p : Cell) i => 0 ≤ idx p i ∧ idx p i < (p.getB (a + 1)).toNat
     -- lane `l` has an element if `has`, of `k` bytes at `off`, misaligned if `mis`
     let faults := fun (i : Instr) (has : Cell → Nat → Prop) (off : Cell → Nat → Int) (k : Nat) (mis : Cell → Nat → Prop) =>
       let on := fun (p : Cell) => (List.range (512 / n)).filter fun l => (p.getM m).getLsbD (n * l / 32)
       let inside := fun (p : Cell) l => 0 ≤ off p l ∧ off p l + k ≤ 131072
       let touches := fun (p : Cell) l (g : GuardEntry) => off p l ≤ g.hi ∧ (g.lo : Int) < off p l + k
       let fine := fun (p : Cell) l => (has p l ∧ inside p l ∧ ¬mis p l ∧ ∀ g ∈ p.guards, ¬touches p l g) ∨ (¬has p l ∧ c = 0)
       ∀ j,
         let first := fun (p : Cell) => p.act = true ∧ j ∈ on p ∧ ∀ l ∈ on p, l < j → fine p l
         RaisesInCells i (fun _ p _ => first p ∧ has p j ∧ ¬inside p j) (fun _ p _ => ⟨.padRange, j, wrapN 32 (off p j)⟩) ∧
         RaisesInCells i (fun _ p _ => first p ∧ has p j ∧ inside p j ∧ mis p j) (fun _ p _ => ⟨.misaligned, j, (off p j).toNat⟩) ∧
         (∀ g : GuardEntry, g.lo ≤ g.hi → g.hi < 131072 →
           RaisesInCells i (fun _ p _ => first p ∧ has p j ∧ inside p j ∧ ¬mis p j ∧ p.guards = [g] ∧ touches p j g)
             (fun _ p _ => ⟨.earlyTouch, j,
               max (off p j).toNat g.lo + g.lo * 2 ^ 32 + g.hi * 2 ^ 64 + g.tl.toNat * 2 ^ 96⟩)) ∧
         (c = 1 → RaisesInCells i (fun _ p _ => first p ∧ ¬has p j)
           (fun _ p _ => ⟨.indexRange, j, lane 32 (p.getV b5) j + (p.getB (a + 1)).toNat * 2 ^ 32⟩))
     let al := if n = 64 then 4 else n / 8
     let every : Cell → Nat → Prop := fun _ _ => True
     let strided := fun (p : Cell) (i : Nat) => base p + i * (p.getB b).toInt
     let indexed := fun (p : Cell) (i : Nat) => base p + idx p i * (n / 8 : Nat)
     (∀ i, (i = .vld t d a m x ∨ i = .vst t d a m x) →
       faults i every (fun p l => base p + (n * l / 8 : Nat)) (max 1 (n / 8)) (fun p _ => base p % 4 ≠ 0)) ∧
     (tyL t = true →
       (∀ i, (i = .vlds t d a b m x ∨ i = .vsts t d a b m x) →
         faults i every strided (n / 8) (fun p l => strided p l % al ≠ 0)) ∧
       (∀ i, (i = .vgath t d a b5 m c x ∨ i = .vscat t d a b5 m c x ∨ i = .vscata t d a b5 m c x) →
         faults i isIn indexed (n / 8) (fun p l => indexed p l % al ≠ 0)))) ∧
  (∀ (t : BitVec 4) (d a b : BitVec 5) (m : BitVec 3) (x : Option Word), tyF t = true →
     let n := tyBits t.toNat
     let trap := fun (i : Instr) (op : FpCtl → Nat → Nat → Nat × Flags5) =>
       let r := fun (env : Env) (p : Cell) k => (op (FpCtl.ofWord env.carried.fpctl) (lane n (p.getV a) k) (immFp t.toNat x (p.getV b) k)).2
       let on := fun (p : Cell) => (List.range (512 / n)).filter fun k => (p.getM m).getLsbD (n * k / 32)
       ∀ k, RaisesInCells i (fun env p _ => p.act = true ∧ k ∈ on p ∧
           r env p k &&& (FpCtl.ofWord env.carried.fpctl).enables ≠ 0 ∧
           ∀ j, j < k → j ∈ on p → r env p j &&& (FpCtl.ofWord env.carried.fpctl).enables = 0)
         (fun env p _ => ⟨.fpException, k, ((on p).foldl (fun z j => z ||| r env p j) 0).toNat⟩)
     trap (.vfadd t d a b m x) (fadd (fmtF t)) ∧ trap (.vfmul t d a b m x) (fmul (fmtF t))) ∧
  (∀ (i : Instr) (b : BitVec 4) (off : BitVec 20) (n : Nat),
     ((∃ l d e jo x, i = .dst l d b e jo 0 x ∧ flagOf x = none ∧ off = offsetOf x ∧ n = 4) ∨
      (∃ l d e jo m, i = .dld l d b e jo off m ∧ n = 64)) →
     let a := fun p => addressOf p b off
     RaisesInCells i (fun env p _ => p.act = true ∧ ¬GoodAddress env (a p)) (fun _ p _ => ⟨.addressForm, 0xFF, (a p).toNat⟩) ∧
     RaisesInCells i (fun env p _ => p.act = true ∧ GoodAddress env (a p) ∧ ¬InPad env (a p) n)
       (fun _ p _ => ⟨.padRange, 0xFF, ((a p).extractLsb' 0 17).toNat⟩) ∧
     RaisesInCells i (fun env p _ => p.act = true ∧ GoodAddress env (a p) ∧ InPad env (a p) n ∧ (a p).toNat % n ≠ 0)
       (fun _ p _ => ⟨.misaligned, 0xFF,
         if (a p).extractLsb' 62 2 = 2 then ((a p).extractLsb' 0 17).toNat else (a p).toNat % 2 ^ 32⟩))

/-! ### Vector floating point -/

/-- R234, R341-R343, R347, R349: the lane-wise floating-point instructions. Where no enabled lane raises a flag whose trap FPCTL
enables, each enabled lane of vD receives its operation's result under FPCTL, CFLAGS gathers the flags of the enabled lanes, and
nothing else of the cell changes; otherwise the cell raises an FP exception in the lowest such lane, with the flags of all enabled
lanes in its detail, and nothing is written. VFADD, VFSUB, VFMUL, VFDIV, VFMIN, VFMAX, VFMA, VFMS, VFNMA, VFSQRT, VFRCP, VFRSQ, VFEXP2, VFLOG2, VFTANH and VSCALE
complete so on every cell without such a flag; a special function's value within its permitted distance is left free (log 10). -/
def Obligations.VectorFloatLanes : Prop :=
  ∀ (t : BitVec 4) (d a b c : BitVec 5) (m : BitVec 3) (x : Option Word), tyF t = true →
    let n := tyBits t.toNat
    let f := fmtF t
    let va := fun (p : Cell) i => lane n (p.getV a) i
    let vb := fun (p : Cell) i => immFp t.toNat x (p.getV b) i
    let vc := fun (p : Cell) i => lane n (p.getV c) i
    let on := fun (p : Cell) => (List.range (512 / n)).filter fun k => (p.getM m).getLsbD (n * k / 32)
    let is := fun (i : Instr) (op : FpCtl → Cell → Nat → Nat × Flags5) =>
      let res := fun (env : Env) (p : Cell) => op (FpCtl.ofWord env.carried.fpctl) p
      let traps := fun (env : Env) (p : Cell) k => (res env p k).2 &&& (FpCtl.ofWord env.carried.fpctl).enables ≠ 0
      ActsOnCells i (fun env p _ => p.act = true → ∀ k ∈ on p, ¬traps env p k) (IfActive fun env p q q' =>
        let r := res env p
        q' = { q with v := q'.v, cflags := q'.cflags } ∧ (∀ k, k ≠ d → q'.getV k = q.getV k) ∧
        (∀ k, k < 512 / n → lane n (q'.getV d) k =
          if (p.getM m).getLsbD (n * k / 32) = true then (r k).1 % 2 ^ n else lane n (p.getV d) k) ∧
        q'.cflags = { q.cflags with fp := q'.cflags.fp } ∧
        (∀ j, j < 5 → (q'.cflags.fp.getLsbD j = true ↔ q.cflags.fp.getLsbD j = true ∨
          ∃ k, k < 512 / n ∧ (p.getM m).getLsbD (n * k / 32) = true ∧ (r k).2.getLsbD j = true))) ∧
      ∀ k, RaisesInCells i
        (fun env p _ => p.act = true ∧ k ∈ on p ∧ traps env p k ∧ ∀ j ∈ on p, j < k → ¬traps env p j)
        (fun env p _ => ⟨.fpException, k, ((on p).foldl (fun z j => z ||| (res env p j).2) 0).toNat⟩)
    is (.vfadd t d a b m x) (fun ctl p k => fadd f ctl (va p k) (vb p k)) ∧
    is (.vfsub t d a b m x) (fun ctl p k => fsub f ctl (va p k) (vb p k)) ∧
    is (.vfmul t d a b m x) (fun ctl p k => fmul f ctl (va p k) (vb p k)) ∧
    is (.vfdiv t d a b m x) (fun ctl p k => fdiv f ctl (va p k) (vb p k)) ∧
    is (.vfmin t d a b m x) (fun ctl p k => fminmax f ctl false (va p k) (vb p k)) ∧
    is (.vfmax t d a b m x) (fun ctl p k => fminmax f ctl true (va p k) (vb p k)) ∧
    is (.vfma t d a b m c) (fun ctl p k => fmaWith f ctl false false (va p k) (lane n (p.getV b) k) (vc p k)) ∧
    is (.vfms t d a b m c) (fun ctl p k => fmaWith f ctl false true (va p k) (lane n (p.getV b) k) (vc p k)) ∧
    is (.vfnma t d a b m c) (fun ctl p k => fmaWith f ctl true false (va p k) (lane n (p.getV b) k) (vc p k)) ∧
    is (.vfsqrt t d a m) (fun ctl p k => fsqrt f ctl (va p k)) ∧
    is (.vfrcp t d a m) (fun ctl p k => fspecial f ctl .rcp (va p k)) ∧
    is (.vfrsq t d a m) (fun ctl p k => fspecial f ctl .rsq (va p k)) ∧
    is (.vfexp2 t d a m) (fun ctl p k => fspecial f ctl .exp2 (va p k)) ∧
    is (.vflog2 t d a m) (fun ctl p k => fspecial f ctl .log2 (va p k)) ∧
    is (.vftanh t d a m) (fun ctl p k => fspecial f ctl .tanh (va p k)) ∧
    is (.vscale t d a b m x) (fun ctl p k => fscale f ctl (va p k)
      (match x with | none => sextN (lane n (p.getV b) k) n | some e => e.toInt))

/-- R345, R346: VFCLASS names the class of a lane in one bit of ten, sets no flag and traps on nothing; VFCMP writes
its comparison into mD by the bit rule of the integer compare. R350-R356: VCVT converts lane by lane, part p of the wider side,
under the rounding mode of the instruction or of FPCTL; VPACK narrows two registers into one, clamped or modulo 2^n; VUNPACK
widens a half; VQENC writes the Q16 indices of part p, VQDEC the levels of part p. R348: VFRSUM sums the enabled lanes in its tree,
writes the sum into the low bits of vD, +0 where no lane is enabled, and clears the rest. R234: VFCMP, VCVT and VFRSUM gather in
CFLAGS the flags of the enabled lanes (VFRSUM those of its additions too), and where one of these flags is enabled as a trap the
cell raises an FP exception, in the lowest such lane (VFRSUM names none, 0xFF: the model's choice, log 49), with all the flags in its detail, and nothing is
written. VFCLASS, VPACK, VUNPACK, VQENC and VQDEC complete on every cell, VFCMP, VCVT and VFRSUM wherever none of the flags is
enabled as a trap; nothing of a cell changes but what is named. -/
def Obligations.FloatPatternsAndConversions : Prop :=
  let ctl := fun (env : Env) => FpCtl.ofWord env.carried.fpctl
  -- an instruction whose lanes `on` raise `fl`: its flags and its trap; `r` is what it writes
  let flagged := fun (i : Instr) (on : Cell → List Nat) (fl : Env → Cell → Nat → Flags5)
      (r : Env → Cell → Cell → Cell → Prop) =>
    let traps := fun (env : Env) (p : Cell) k => fl env p k &&& (ctl env).enables ≠ 0
    ActsOnCells i (fun env p _ => p.act = true → ∀ k ∈ on p, ¬traps env p k)
      (IfActive fun env p q q' => r env p q q' ∧ q'.cflags = { q.cflags with fp := q'.cflags.fp } ∧
        ∀ j, j < 5 → (q'.cflags.fp.getLsbD j = true ↔ q.cflags.fp.getLsbD j = true ∨ ∃ k ∈ on p, (fl env p k).getLsbD j = true)) ∧
    ∀ k, RaisesInCells i
      (fun env p _ => p.act = true ∧ k ∈ on p ∧ traps env p k ∧ ∀ j ∈ on p, j < k → ¬traps env p j)
      (fun env p _ => ⟨.fpException, k, ((on p).foldl (fun z j => z ||| fl env p j) 0).toNat⟩)
  let enabled := fun (n : Nat) (m : BitVec 3) (p : Cell) =>
    (List.range (512 / n)).filter fun k => (p.getM m).getLsbD (n * k / 32)
  (∀ (t : BitVec 4) (d a b : BitVec 5) (m : BitVec 3), tyF t = true →
     let n := tyBits t.toNat
     let va := fun (p : Cell) k => lane n (p.getV a) k
     ActsOnCells (.vfclass t d a m) anyCell (LanesOf n d m fun _ p k => 2 ^ fclass (fmtF t) (va p k)) ∧
     (∀ (r : BitVec 3) (c : BitVec 2) (x : Option Word),
       let res := fun (env : Env) (p : Cell) k => fcmp (fmtF t) (ctl env) c.toNat (va p k) (immFp t.toNat x (p.getV b) k)
       flagged (.vfcmp t r a b m c x) (enabled n m) (fun env p k => (res env p k).2) fun env p q q' =>
         q' = { q with m := q'.m, cflags := q'.cflags } ∧ (∀ k, k ≠ r → q'.getM k = q.getM k) ∧
         (r ≠ 0 → ∀ k, k < 16 → ((q'.getM r).getLsbD k = true ↔
           if n = 64 then (p.getM m).getLsbD (2 * (k / 2)) = true ∧ (res env p (k / 2)).1 = true
           else (p.getM m).getLsbD k = true ∧ ∀ j, j < 32 / n → (res env p (k * (32 / n) + j)).1 = true)))) ∧
  (∀ (t y : BitVec 4) (d a : BitVec 5) (m : BitVec 3) (sat : BitVec 1) (r : BitVec 3) (p : BitVec 4),
     cvtOk t y sat r p = true →
     let nd := tyBits t.toNat
     let ns := tyBits y.toNat
     -- the lanes of vD that part p fills, and the lane of vA that each takes
     let filled := fun k => decide (ns ≤ nd) || decide (p.toNat * (512 / ns) ≤ k ∧ k < (p.toNat + 1) * (512 / ns))
     let src := fun k => if ns ≤ nd then p.toNat * (512 / nd) + k else k - p.toNat * (512 / ns)
     let cv := fun (env : Env) (u : Cell) k =>
       conv (ctl env) (if r = 0 then (ctl env).rm else Rm.ofCode r.toNat) y.toNat t.toNat (sat == 1) (lane ns (u.getV a) (src k))
     flagged (.vcvt t d a m y sat r p) (fun u => (enabled nd m u).filter filled) (fun env u k => (cv env u k).2)
       fun env u q q' => q' = { q with v := q'.v, cflags := q'.cflags } ∧ (∀ k, k ≠ d → q'.getV k = q.getV k) ∧
         ∀ k, k < 512 / nd → lane nd (q'.getV d) k =
           if filled k && (u.getM m).getLsbD (nd * k / 32) then (cv env u k).1 % 2 ^ nd else lane nd (u.getV d) k) ∧
  (∀ (t : BitVec 4) (d a b : BitVec 5) (m : BitVec 3) (sat h : BitVec 1), tyP t = true →
     let n := tyBits t.toNat
     let l := 512 / n
     let sg := decide (t.toNat < 8 ∨ t.toNat % 2 = 0)
     ActsOnCells (.vpack t d a b m sat) anyCell (LanesOf n d m fun _ p i =>
       let w := if i < l / 2 then lane (2 * n) (p.getV a) i else lane (2 * n) (p.getV b) (i - l / 2)
       if sat = 0 then w % 2 ^ n
       else if sg then wrapN n (max (-(2 ^ (n - 1))) (min (2 ^ (n - 1) - 1) (sextN w (2 * n)))) else min (2 ^ n - 1) w) ∧
     ActsOnCells (.vunpack t d a m h) anyCell (LanesOf (2 * n) d m fun _ p i =>
       let w := lane n (p.getV a) (h.toNat * (l / 2) + i)
       if 8 ≤ t.toNat ∧ t.toNat % 2 = 0 then wrapN (2 * n) (sextN w n) else w)) ∧
  (∀ (t : BitVec 4) (d a : BitVec 5) (b : BitVec 4) (m : BitVec 3) (p : BitVec 3), tyX t = true → partOk t p = true →
     let n := tyBits t.toNat
     let l := 512 / n
     ActsOnCells (.vqenc t d a b m p) anyCell (IfActive fun env u q q' => OnlyV d q q' ∧
       let daz := (ctl env).daz
       let sc := dazIn .fp32 daz (u.getB b).toNat
       (∀ i, i < 128 → ¬(p.toNat * l ≤ i ∧ i < (p.toNat + 1) * l ∧ (u.getM m).getLsbD (i / 8) = true) →
         lane 4 (q'.getV d) i = lane 4 (u.getV d) i) ∧
       (∀ i, i < l → (u.getM m).getLsbD ((p.toNat * l + i) / 8) = true →
         let x := dazIn (fmtF t) daz (lane n (u.getV a) i)
         lane 4 (q'.getV d) (p.toNat * l + i) =
           if isNan (fmtF t) x = true ∨ isNan .fp32 sc = true then 7
           else match (exactOf (fmtF t) x).mul (exactOf .fp32 sc) with | none => 7 | some y => q16Enc y % 16)) ∧
     ActsOnCells (.vqdec t d a m p) anyCell (LanesOf n d m fun _ u i =>
       (rnd (fmtF t) .rne (q16Exact (lane 4 (u.getV a) (p.toNat * l + i)))).1 % 2 ^ n)) ∧
  (∀ (t : BitVec 4) (d a : BitVec 5) (m : BitVec 3), tyF t = true →
     let n := tyBits t.toNat
     let w := if t = 6 then Fmt.fp64 else .fp32
     let taken := fun (env : Env) (u : Cell) k => treeLane (fmtF t) (ctl env) (lane n (u.getV a) k)
     let sum := fun (env : Env) (u : Cell) => treeSum w (ctl env) (512 / n).log2 ((List.range (512 / n)).map fun k =>
       if (u.getM m).getLsbD (n * k / 32) then some (taken env u k).1 else none)
     let flags := fun (env : Env) (u : Cell) => (enabled n m u).foldl (fun z k => z ||| (taken env u k).2) (sum env u).2
     let writes := fun (env : Env) (u q q' : Cell) =>
       q' = { q with v := q'.v, cflags := { q.cflags with fp := q.cflags.fp ||| flags env u } } ∧
       (∀ k, k ≠ d → q'.getV k = q.getV k) ∧ q'.getV d = BitVec.ofNat 512 ((sum env u).1.getD 0)
     ActsOnCells (.vfrsum t d a m) (fun env u _ => u.act = true → flags env u &&& (ctl env).enables = 0) (IfActive writes) ∧
     (∀ env u, enabled n m u = [] → (sum env u).1 = none) ∧
     RaisesInCells (.vfrsum t d a m) (fun env u _ => u.act = true ∧ flags env u &&& (ctl env).enables ≠ 0)
       (fun env u _ => ⟨.fpException, 0xFF, (flags env u).toNat⟩))

/-! ### The M slot -/

/-- R369-R371, R373: TACCZ zeroes a bank and its record and leaves its liveness and shadow; TACCRET ends its liveness
and discards its shadow; TACCRD copies a 64-byte part of a bank into vD and TACCWR a vector register into one; TCOAT
reads the bank record; TMON reads half of MONLAST or of RCNT and with L clears it. TACCZ, TACCRET, TACCRD, TACCWR,
TCOAT and TMON complete on every cell. R372: TACCLD fills the FP32, the BF16-fed or the FP64 view of a bank from the
scratchpad, rows and columns exchanged with TR, keeps its record and makes it live; TACCST stores such a view, BF16 narrowed by
round to nearest even, changes no bank and leaves every byte outside it as it was. R154, R337: a word that an engine has written
meanwhile may be read as before that write, and a word that the bundle's V0 slot stores to as well takes its value from one of
the two. Both complete when the 256 or 128 bytes lie within the scratchpad, are aligned to 4 and are not guarded; otherwise they
raise scratchpad range, or else misaligned, with the offset, and move nothing. -/
def Obligations.Accumulators : Prop :=
  (∀ (c : BitVec 3) (d : BitVec 5) (b : BitVec 4) (p sel : BitVec 2) (l : BitVec 1),
     ActsOnCells (.taccz c) anyCell (IfActive fun _ _ q q' => OnlyBank c q q' ∧
       q'.acc.get c = { q.acc.get c with data := 0, record := 0 }) ∧
     ActsOnCells (.taccret c) anyCell (IfActive fun _ _ q q' => OnlyBank c q q' ∧
       q'.acc.get c = { q.acc.get c with live := false, shadow := none }) ∧
     ActsOnCells (.taccrd c d p) anyCell (IfActive fun _ u q q' => OnlyV d q q' ∧
       q'.getV d = (u.acc.get c).data.extractLsb' (512 * p.toNat) 512) ∧
     ActsOnCells (.taccwr c d p) anyCell (IfActive fun _ u q q' => OnlyBank c q q' ∧
       q'.acc.get c = { q.acc.get c with data := (q'.acc.get c).data } ∧
       ∀ k, k < 4 → lane 512 (q'.acc.get c).data k = if k = p.toNat then (u.getV d).toNat else lane 512 (q.acc.get c).data k) ∧
     ActsOnCells (.tcoat c b) anyCell (ScalarOf b fun _ u => (u.acc.get c).record) ∧
     ActsOnCells (.tmon b sel l) anyCell (IfActive fun _ u q q' =>
       let w : Xword := if sel.toNat < 2 then u.monlast else u.exh.zeroExtend 32 ++ (u.rc1 ++ u.rc0)
       let clear := fun (k : Bool) => l = 1 ∧ decide (sel.toNat < 2) = k
       (∀ r, r ≠ b → q'.getB r = q.getB r) ∧
       (q'.getB b = if b = 0 then 0 else if sel.toNat % 2 = 0 then w.truncate 32 else (w >>> 32).truncate 32) ∧
       (clear true → q' = { q with b := q'.b, monlast := 0 }) ∧
       (clear false → q' = { q with b := q'.b, rc0 := 0, rc1 := 0, exh := 0 }) ∧
       (l = 0 → q' = { q with b := q'.b }))) ∧
  (∀ (c : BitVec 3) (a : BitVec 4) (f : BitVec 2) (tr : BitVec 1) (x : Option Word), f ≠ 3 →
     let base := fun (p : Cell) => ((p.getB a).toNat : Int) + (x.map fun (w : Word) => w.toInt).getD 0
     let size := if f = 0 then 256 else 128
     let inside := fun (p : Cell) => 0 ≤ base p ∧ base p + size ≤ 131072
     let ok := fun (p : Cell) => inside p ∧ base p % 4 = 0 ∧ ∀ g ∈ p.guards, ¬(base p ≤ g.hi ∧ (g.lo : Int) < base p + size)
     let at_ := fun (w l : Nat) => if tr = 1 then w * (l % w) + l / w else l
     let o := fun (p : Cell) => (base p).toNat
     ActsOnCells (.taccld c a f tr x) (fun _ p _ => Mem.wf p.pad = true ∧ (p.act = true → ok p))
       (IfActive fun env p q q' => ∃ v, MayFind env p v ∧ OnlyBank c q q' ∧
         q'.acc.get c = { q.acc.get c with data := (q'.acc.get c).data, live := true } ∧
         (f = 0 → ∀ l, l < 64 → lane 32 (q'.acc.get c).data l = v.read (o p + 4 * at_ 8 l) 4) ∧
         (f = 1 → ∀ l, l < 64 → lane 32 (q'.acc.get c).data l = v.read (o p + 2 * at_ 8 l) 2 * 2 ^ 16) ∧
         (f = 2 → ∀ l, l < 32 → lane 64 (q'.acc.get c).data l =
           if l < 16 then v.read (o p + 8 * at_ 4 l) 8 else lane 64 (q.acc.get c).data l)) ∧
     ActsOnCells (.taccst c a f tr x) (fun _ p q => Mem.wf q.pad = true ∧ (p.act = true → ok p))
       (IfActive fun _ p q q' => OnlyPad q q' ∧ Mem.wf q'.pad = true ∧
         (∀ k, (k < o p ∨ o p + size ≤ k) → q'.pad.get k = q.pad.get k) ∧
         ∃ v0 : Nat → Bool,
           let stored := fun (n w k : Nat) => q'.pad.get (o p + k) = storedEither v0 q (o p + k) (BitVec.ofNat 8 (w / 256 ^ (k % n)))
           (f = 0 → ∀ l, l < 64 → ∀ j, j < 4 → stored 4 (lane 32 (p.acc.get c).data l) (4 * at_ 8 l + j)) ∧
           (f = 1 → ∀ l, l < 64 → ∀ j, j < 2 → stored 2 (narrow16 (lane 32 (p.acc.get c).data l)) (2 * at_ 8 l + j)) ∧
           (f = 2 → ∀ l, l < 16 → ∀ j, j < 8 → stored 8 (lane 64 (p.acc.get c).data l) (8 * at_ 4 l + j))) ∧
     ∀ i, (i = .taccld c a f tr x ∨ i = .taccst c a f tr x) →
       RaisesInCells i (fun _ p _ => p.act = true ∧ ¬inside p) (fun _ p _ => ⟨.padRange, 0xFF, wrapN 32 (base p)⟩) ∧
       RaisesInCells i (fun _ p _ => p.act = true ∧ inside p ∧ base p % 4 ≠ 0) (fun _ p _ => ⟨.misaligned, 0xFF, o p⟩))

/-- R237, R244, R252, R365-R368: TMMA and TMMA64 raise ring unset on a ring without capacity, and coat form, with the pass coat
and the coats the rings are stored at, where a ring's side or format does not suit or a NARROW ring is stored below the pass coat;
with both rings of the right
side and format they complete. On an empty ring the tile is skipped: the ring's EMPT, the record's SKIP bit, the bank made
live, and nothing else. Otherwise a tile opens at the pass coat over the scratchpad as its feed may find it: the bank is live
and TMMA's shadow keeps what it held, the rings popped advance their read points; the bank takes its result where the pass ends
(TILE_VERDICT). (That a tile keeps the scratchpad as at its start, each word the earliest that its feed may read, and that the bank
changes with the verdict, are the model's choices: logs 77 and 106.) -/
def Obligations.MatrixStart : Prop :=
  ∀ (c a b : BitVec 3) (fl ce : BitVec 2) (x y : BitVec 1),
    let empty := fun (r : Ring) => r.rp = r.tail
    let clear := fun (p : Cell) (r : Ring) =>
      let o := r.base.toNat + 64 * r.tsz.toNat * (r.rp.toNat % r.cap.toNat)
      ∀ g ∈ p.guards, ¬(o ≤ g.hi ∧ g.lo < o + 64 * r.tsz.toNat)
    let coat := fun (r : Ring) => if r.hold then (match r.fmt.toNat with | 3 => 0 | 4 => 0 | 1 => 1 | 2 => 1 | _ => 2) else 0
    let pass := fun (env : Env) (p : Cell) => max (max fl.toNat (bits env.carried.coatctl 1 0)) (max (coat (p.q.get a)) (coat (p.q.get b)))
    let set := fun (p : Cell) => (p.q.get a).cap ≠ 0 ∧ (p.q.get b).cap ≠ 0
    let stored := fun (r : Ring) => match r.fmt.toNat with | 3 => 0 | 4 => 0 | 1 => 1 | 2 => 1 | _ => 2
    let held := fun (r : Ring) => if r.hold then stored r else 0xFF
    let held64 := fun (r : Ring) => if r.fmt = 6 then 3 else stored r
    let sides := fun (p : Cell) => (p.q.get a).side = false ∧ (p.q.get b).side = true
    let fed := fun (p : Cell) => empty (p.q.get a) ∨ empty (p.q.get b) ∨ (clear p (p.q.get a) ∧ clear p (p.q.get b))
    let start := fun (fp64 : Bool) (coatOf topOf : Env → Cell → Nat) => IfActive fun env p q q' =>
      (∀ r, r ≠ c → q'.acc.get r = q.acc.get r) ∧
      (empty (p.q.get a) ∨ empty (p.q.get b) →
        q' = { q with q := q'.q, acc := q'.acc } ∧
        (∀ r, q'.q.get r = { q.q.get r with
          empt := (q.q.get r).empt || decide ((r = a ∧ empty (p.q.get a)) ∨ (r = b ∧ empty (p.q.get b))) }) ∧
        q'.acc.get c = { q.acc.get c with live := true, record := (q.acc.get c).record ||| 0x20 }) ∧
      (¬empty (p.q.get a) → ¬empty (p.q.get b) →
        q' = { q with q := q'.q, acc := q'.acc, tiles := q'.tiles, tileNo := q.tileNo + 1 } ∧
        (∀ r, r ≠ a → r ≠ b → q'.q.get r = q.q.get r) ∧
        (a ≠ b → q'.q.get a = { q.q.get a with rp := (q.q.get a).rp + x.zeroExtend 16 } ∧
          q'.q.get b = { q.q.get b with rp := (q.q.get b).rp + y.zeroExtend 16 }) ∧
        ∃ t : Tile, q'.tiles = q.tiles ++ [t] ∧ t.bank = c ∧ t.fp64 = fp64 ∧ t.qa = a ∧ t.qb = b ∧ t.ra = p.q.get a ∧
          t.rb = p.q.get b ∧ t.sa = t.ra.rp.toNat % t.ra.cap.toNat ∧ t.sb = t.rb.rp.toNat % t.rb.cap.toNat ∧
          t.coat = coatOf env p ∧ t.top = topOf env p ∧ t.shadow = (p.acc.get c).data ∧ t.st = .passing ∧ t.kept = [] ∧
          (Mem.wf p.pad = true → ∀ k, t.pad.get k = heldBefore env p k) ∧
          q'.acc.get c = { q.acc.get c with
            live := true, shadow := (if fp64 then (q.acc.get c).shadow else some (q.acc.get c).data) })
    (∀ i, (i = .tmma c a b fl ce x y ∨ i = .tmma64 c a b x y) →
      RaisesInCells i (fun _ p _ => p.act = true ∧ (p.q.get a).cap = 0) (fun _ _ _ => ⟨.ringUnset, 0xFF, a.toNat⟩) ∧
      RaisesInCells i (fun _ p _ => p.act = true ∧ (p.q.get a).cap ≠ 0 ∧ (p.q.get b).cap = 0)
        (fun _ _ _ => ⟨.ringUnset, 0xFF, b.toNat⟩)) ∧
    RaisesInCells (.tmma c a b fl ce x y)
      (fun env p _ => p.act = true ∧ set p ∧ (¬sides p ∨ (p.q.get a).fmt = 6 ∨ (p.q.get b).fmt = 6 ∨
        ((p.q.get a).hold = true ∧ coat (p.q.get a) < pass env p) ∨ ((p.q.get b).hold = true ∧ coat (p.q.get b) < pass env p)))
      (fun env p _ => ⟨.coatForm, 0xFF, pass env p + held (p.q.get a) * 2 ^ 8 + held (p.q.get b) * 2 ^ 16⟩) ∧
    RaisesInCells (.tmma64 c a b x y)
      (fun _ p _ => p.act = true ∧ set p ∧ (¬sides p ∨ (p.q.get a).fmt ≠ 6 ∨ (p.q.get b).fmt ≠ 6 ∨
        (p.q.get a).hold = true ∨ (p.q.get b).hold = true))
      (fun _ p _ => ⟨.coatForm, 0xFF, 0xFF + held64 (p.q.get a) * 2 ^ 8 + held64 (p.q.get b) * 2 ^ 16⟩) ∧
    ActsOnCells (.tmma c a b fl ce x y)
      (fun env p _ => p.act = true → set p ∧ sides p ∧ (p.q.get a).fmt ≠ 6 ∧ (p.q.get b).fmt ≠ 6 ∧
        ((p.q.get a).hold = true → coat (p.q.get a) = pass env p) ∧ ((p.q.get b).hold = true → coat (p.q.get b) = pass env p) ∧ fed p)
      (start false pass fun env p => max (min ce.toNat (bits env.carried.coatctl 3 2)) (pass env p)) ∧
    ActsOnCells (.tmma64 c a b x y)
      (fun _ p _ => p.act = true → set p ∧ sides p ∧ (p.q.get a).fmt = 6 ∧ (p.q.get b).fmt = 6 ∧ (p.q.get a).hold = false ∧
        (p.q.get b).hold = false ∧ fed p)
      (start true (fun _ _ => 0) fun _ _ => 0)

/-- R252, R359-R364: QSET sets a ring with its pointers at zero; the other ring instructions raise ring unset on a ring
without capacity. On a set ring QCOMMIT advances TAIL by n, or sets FULL where fewer slots are free; QPOP advances HEAD by
n or by what is there, with EMPT, and returns the read point to it; QSTAT reads the state and with L clears the sticky
bits; QTWIN writes the twin pointer of slot (TAIL + i) mod CAP of a NARROW ring and leaves a WIDE one alone (R154: a word that the
bundle's V0 slot stores to as well takes its value from one of the two). QSET completes
on every cell, QCOMMIT, QPOP, QSTAT and QTWIN on every set ring. -/
def Obligations.Rings : Prop :=
  ∀ (r : BitVec 3) (sd h l : BitVec 1) (f z k : BitVec 4) (n i : BitVec 8) (o : BitVec 17),
    let set := fun (p : Cell) => p.act = true → (p.q.get r).cap ≠ 0
    let used := fun (g : Ring) => (g.tail - g.head).toNat
    ActsOnCells (.qset r sd f h n z o) anyCell (IfActive fun _ _ q q' => OnlyRing r q q' ∧
      q'.q.get r = ⟨o, z, n, h == 1, f, sd == 1, 0, 0, 0, false, false⟩) ∧
    (∀ j : Instr, (j = .qcommit r n ∨ j = .qpop r n ∨ j = .qstat r k l ∨ j = .qtwin r k i) →
      RaisesInCells j (fun _ p _ => p.act = true ∧ (p.q.get r).cap = 0) (fun _ _ _ => ⟨.ringUnset, 0xFF, r.toNat⟩)) ∧
    ActsOnCells (.qcommit r n) (fun _ p _ => set p) (IfActive fun _ _ q q' => OnlyRing r q q' ∧
      q'.q.get r = if n.toNat ≤ (q.q.get r).cap.toNat - used (q.q.get r)
        then { q.q.get r with tail := (q.q.get r).tail + n.zeroExtend 16 } else { q.q.get r with full := true }) ∧
    ActsOnCells (.qpop r n) (fun _ p _ => set p) (IfActive fun _ _ q q' => OnlyRing r q q' ∧
      let hd := (q.q.get r).head + BitVec.ofNat 16 (min n.toNat (used (q.q.get r)))
      q'.q.get r = { q.q.get r with head := hd, rp := hd, empt := (q.q.get r).empt || decide (used (q.q.get r) < n.toNat) }) ∧
    ActsOnCells (.qstat r k l) (fun _ p _ => set p) (IfActive fun _ p q q' =>
      let g := p.q.get r
      q' = { q with b := q'.b, q := q'.q } ∧ (∀ j, j ≠ k → q'.getB j = q.getB j) ∧ (∀ j, j ≠ r → q'.q.get j = q.q.get j) ∧
      (q'.getB k = if k = 0 then 0 else BitVec.ofNat 32 (used g % 256 + g.head.toNat % g.cap.toNat * 2 ^ 8 +
        g.tail.toNat % g.cap.toNat * 2 ^ 16 + g.empt.toNat * 2 ^ 24 + g.full.toNat * 2 ^ 25 + g.hold.toNat * 2 ^ 26 +
        g.side.toNat * 2 ^ 27 + g.fmt.toNat * 2 ^ 28)) ∧
      (q'.q.get r = if l = 1 then { q.q.get r with empt := false, full := false } else q.q.get r)) ∧
    ActsOnCells (.qtwin r k i) (fun _ p q => Mem.wf q.pad = true ∧ set p) (IfActive fun _ p q q' =>
      let g := p.q.get r
      let w := g.base.toNat + 64 * g.tsz.toNat * g.cap.toNat + 512 + 8 * ((g.tail.toNat + i.toNat) % g.cap.toNat)
      (g.hold = false → q' = q) ∧
      (g.hold = true → OnlyPad q q' ∧ Mem.wf q'.pad = true ∧
        (∃ v0, ∀ j, j < 8 → q'.pad.get (w + j) = storedEither v0 q (w + j) (BitVec.ofNat 8 ((p.getB64 k).toNat / 256 ^ j))) ∧
        ∀ j, (j < w ∨ w + 8 ≤ j) → q'.pad.get j = q.pad.get j))

/-! ### The C slots -/

/-- R207, R376, R382, R383, R385: the stream accesses and DPERM read their address, data and operands from the registers
and leave with the bundle; those that return a value name their landing register and cycle; a cell with A = 0 sends a
command that carries nothing. DST, DSTV, DLD, DATOM, DATOM.ret and DPERM complete on every cell whose address word meets
R167 and R168 and is aligned to the access (a .flag access needs a slice address, DPERM one on this device). -/
def Obligations.StreamCommandsLeave : Prop :=
  ∀ (l d b o : BitVec 4) (v : BitVec 5) (e w : BitVec 1) (jo : BitVec 6) (x : Option Word) (f : BitVec 20) (n : BitVec 12),
    let a := fun p => addressOf p b (offsetOf x)
    let af := fun p => addressOf p b f
    let size := if w = 1 then 8 else 4
    let word := fun (p : Cell) (k : BitVec 4) => if w = 1 then (p.getB (k + 1) ++ p.getB k).toNat else (p.getB k).toNat
    let flagged := fun (p : Cell) => (flagOf x).isSome = true → (a p).extractLsb' 62 2 = 2
    Commands (.dst l d b e jo w x) 2 l e jo (fun env p _ => flagged p ∧ GoodAccess env (a p) size size)
      (fun _ p => Start.plain (.store (a p) (bytesOf size (word p d)) (flagOf x))) onlyLeaves ∧
    Commands (.dstv l v b e jo x) 2 l e jo (fun env p _ => flagged p ∧ GoodAccess env (a p) 64 64)
      (fun _ p => Start.plain (.store (a p) (bytesOf 64 (p.getV v).toNat) (flagOf x))) onlyLeaves ∧
    Commands (.dld l v b e jo f n) 2 l e jo (fun env p _ => GoodAccess env (af p) 64 64)
      (fun _ p => ⟨.load (af p) v.toNat, n.toNat, [.v v.toNat], none⟩) onlyLeaves ∧
    Commands (.datom l w d b e jo o x) 2 l e jo (fun env p _ => flagged p ∧ GoodAccess env (a p) size size)
      (fun env p => Start.plain (.atom (a p) (w == 1) o.toNat (word p d) 0 env.carried.fpctl (flagOf x))) onlyLeaves ∧
    Commands (.datomRet l w d b e jo o f n) 2 l e jo (fun env p _ => GoodAccess env (af p) size size)
      (fun env p => ⟨.atom (af p) (w == 1) o.toNat (word p d)
          (if o = 10 then word p (if w = 1 then d + 2 else d + 1) else 0) env.carried.fpctl none, n.toNat,
        .b d.toNat :: (if w = 1 then [.b (d.toNat + 1)] else []), none⟩) onlyLeaves ∧
    Commands (.dperm v b e jo x) 2 0 e jo
      (fun env p _ => (a p).extractLsb' 62 2 = 2 ∧ (a p).extractLsb' 56 6 = env.dev ∧ GoodAccess env (a p) 64 4)
      (fun _ p => Start.plain (.perm (a p) (bytesOf 64 (p.getV v).toNat))) onlyLeaves

/-- R380, R381: the register forms take 16 elements whose indices stand in the register after the data; an element whose
index is negative or not below the limit is out of range, is counted in OOBCNT, reads zero and writes nothing, and with
.chk raises index range in its lane. DGATH, DSCAT and DSCATA complete on every cell whose base meets R167 and is aligned and
whose elements in range meet R167 and R168. -/
def Obligations.RegisterGathersAndScatters : Prop :=
  ∀ (l b : BitVec 4) (d : BitVec 5) (e c : BitVec 1) (jo : BitVec 6) (w : BitVec 2) (x : Option Word) (f : BitVec 20)
    (n : BitVec 12),
    let idx := fun (p : Cell) t => sextN (lane 32 (p.getV (if w = 3 then d + 2 else d + 1)) t) 32
    let lim := fun (p : Cell) => (p.getB (b + 2)).toNat
    let isIn := fun (p : Cell) t => 0 ≤ idx p t ∧ idx p t < lim p
    let at_ := fun (base : Xword) (p : Cell) t => base + BitVec.ofInt 64 (idx p t * 2 ^ w.toNat)
    let ok := fun (off : BitVec 20) (env : Env) (p : Cell) =>
      let base := addressOf p b off
      (c = 1 → ∀ t, t < 16 → isIn p t) ∧ GoodAddress env base ∧ base.toNat % min (2 ^ w.toNat) 4 = 0 ∧
      ∀ t, t < 16 → isIn p t → GoodAddress env (at_ base p t) ∧ InPad env (at_ base p t) (2 ^ w.toNat)
    let val := fun (p : Cell) t => if w = 3 ∧ 8 ≤ t then lane 64 (p.getV (d + 1)) (t - 8) else lane (8 * 2 ^ w.toNat) (p.getV d) t
    let counts := fun (p q q' : Cell) => q' = { q with leaving := q'.leaving, cflags := q'.cflags } ∧
      q'.cflags = { q.cflags with oobcnt := BitVec.ofNat 16 (min 0xFFFF (q.cflags.oobcnt.toNat +
        (List.range 16).countP fun t => !decide (isIn p t))) }
    let elems := fun (p : Cell) => ((List.range 16).filter fun t => decide (isIn p t)).map fun t =>
      (t, at_ (addressOf p b (offsetOf x)) p t, val p t)
    Commands (.dgath l d b e jo c w f n) 1 l e jo (fun env p _ => ok f env p)
      (fun _ p => ⟨.gather ((List.range 16).map fun t => if isIn p t then some (at_ (addressOf p b f) p t) else none) w.toNat d.toNat,
        n.toNat, .v d.toNat :: (if w = 3 then [.v (d.toNat + 1)] else []), none⟩) counts ∧
    Commands (.dscat l d b e jo c w x) 1 l e jo (fun env p _ => ok (offsetOf x) env p)
      (fun env p => Start.plain (.scatter (elems p) w.toNat 0 env.carried.fpctl)) counts ∧
    Commands (.dscata l d b e jo c w x) 1 l e jo (fun env p _ => ok (offsetOf x) env p)
      (fun env p => Start.plain (.scatter (elems p) w.toNat (if x.any fun (y : Word) => y.getLsbD 0 then 2 else 1)
        env.carried.fpctl)) counts ∧
    (∀ i off, ((i = .dgath l d b e jo 1 w f n ∧ off = f) ∨
        ((i = .dscat l d b e jo 1 w x ∨ i = .dscata l d b e jo 1 w x) ∧ off = offsetOf x)) → ∀ k, k < 16 → RaisesInCells i
      (fun env p _ => p.act = true ∧ ¬isIn p k ∧ (∀ t, t < k → isIn p t ∧ GoodAddress env (at_ (addressOf p b off) p t) ∧
          InPad env (at_ (addressOf p b off) p t) (2 ^ w.toNat)) ∧
        GoodAddress env (addressOf p b off) ∧ (addressOf p b off).toNat % min (2 ^ w.toNat) 4 = 0)
      (fun _ p _ => ⟨.indexRange, k, lane 32 (p.getV (if w = 3 then d + 2 else d + 1)) k + lim p * 2 ^ 32⟩))

/-- R146, R378, R380, R381: a local shape keeps every element within the scratchpad; DCOPY and the scratchpad forms read
their shapes, base, limit and index list when they start, and a command that writes this scratchpad names the range it
guards. DCOPY, DGATH.sp, DSCAT.sp and DSCATA.sp complete on every cell whose shapes, list and base meet R378 and R380. -/
def Obligations.ShapedCommandsLeave : Prop :=
  ∀ (l b o : BitVec 4) (d sh : BitVec 3) (e : BitVec 1) (jo : BitVec 6) (w : BitVec 2) (x : Option Word),
    let inside := fun (base : Nat) (h : Shape) => ∀ i0 i1 i2 i3 : Nat, i0 < h.ext 0 → i1 < h.ext 1 → i2 < h.ext 2 → i3 < h.ext 3 →
      0 ≤ (base : Int) + h.disp (i0, i1, i2, i3) ∧ (base : Int) + h.disp (i0, i1, i2, i3) + 2 ^ h.esz.toNat ≤ 131072
    let aligned := fun (base : Nat) (h : Shape) => base % min (2 ^ h.esz.toNat) 4 = 0
    let near := fun (h : Shape) => h.base.toNat < 2 ^ 17 ∧ inside h.base.toNat h ∧ aligned h.base.toNat h
    let far := fun (env : Env) (h : Shape) => GoodAddress env h.base ∧ aligned h.base.toNat h ∧
      (h.base.extractLsb' 62 2 = 2 → h.base.extractLsb' 56 6 = env.dev → inside (h.base.extractLsb' 0 17).toNat h)
    let side := fun (env : Env) (isNear : Bool) (h : Shape) => if isNear then near h else far env h
    let tr := o.toNat % 4
    let base := fun p => addressOf p b (offsetOf x)
    let list := fun (p : Cell) => (p.getB (b + 3)).toNat
    let ok := fun (env : Env) (p : Cell) => (p.h.get d).esz = w ∧ near (p.h.get d) ∧ GoodAddress env (base p) ∧
      (base p).toNat % min (2 ^ w.toNat) 4 = 0 ∧ list p + 4 * (p.h.get d).count ≤ 131072 ∧ list p % 4 = 0
    let op := fun (kind : Nat) (env : Env) (p : Cell) =>
      CmdOp.indexed kind (base p) (p.getB (b + 2)).toNat (list p) (p.h.get d) env.carried.fpctl
    Commands (.dcopy l d sh e jo o) 0 l e jo
      (fun env p _ =>
        let s := p.h.get sh
        let t := p.h.get d
        s.esz = t.esz ∧ (tr = 1 → s.esz = 0) ∧ (tr = 2 → s.esz = 1) ∧ (tr = 0 → s.e = t.e) ∧
        (tr ≠ 0 → s.ext 0 = t.ext 1 ∧ s.ext 1 = t.ext 0 ∧ s.ext 2 = t.ext 2 ∧ s.ext 3 = t.ext 3) ∧
        side env (o.getLsbD 2) s ∧ side env (o.getLsbD 3) t)
      (fun env p =>
        let t := p.h.get d
        let own := t.base.extractLsb' 62 2 = 2 ∧ t.base.extractLsb' 56 6 = env.dev ∧
          (t.base.extractLsb' 50 6).toNat = env.die ∧ (t.base.extractLsb' 39 11).toNat = env.cell
        ⟨.copy (p.h.get sh) t tr (o.getLsbD 2) (o.getLsbD 3), 0, [],
          if o.getLsbD 3 then some t.span else if own then some (t.spanFrom (t.base.extractLsb' 0 17).toNat) else none⟩) onlyLeaves ∧
    Commands (.dgathSp l d b e jo w x) 1 l e jo (fun env p _ => ok env p)
      (fun env p => ⟨op 0 env p, 0, [], some (p.h.get d).span⟩) onlyLeaves ∧
    Commands (.dscatSp l d b e jo w x) 1 l e jo (fun env p _ => ok env p) (fun env p => Start.plain (op 1 env p)) onlyLeaves ∧
    Commands (.dscataSp l d b e jo w x) 1 l e jo (fun env p _ => ok env p)
      (fun env p => Start.plain (op (if x.any fun (y : Word) => y.getLsbD 0 then 3 else 2) env p)) onlyLeaves

/-- R182, R388, R389: a vault command reads the bank, row and burst of a vault address; it is checked against the rows that
the cell's earlier commands leave open, and DVACT and DVPRE leave theirs open or closed. A command that breaks the protocol
raises vault protocol with the bank, the row and its number. DVACT, DVPRE, DVRD, DVRD.sp, DVWR, DVWR.sp, DVREF and DVLIFE
complete on every cell whose address, bursts, scratchpad offset and open rows meet these rules. -/
def Obligations.VaultCommandsLeave : Prop :=
  ∀ (b d mk : BitVec 4) (v : BitVec 5) (e : BitVec 1) (jo : BitVec 6) (x : Option Word) (f : BitVec 20) (n : BitVec 12)
    (m : BitVec 3),
    let a := fun p => addressOf p b (offsetOf x)
    let af := fun p => addressOf p b f
    let form := fun (w : Xword) => w.extractLsb' 62 2 = 3 ∧ w.extractLsb' 56 6 = 0 ∧ w.extractLsb' 36 3 = 0 ∧
      w.extractLsb' 9 13 = 0 ∧ w.extractLsb' 0 6 = 0
    let bank := fun (w : Xword) => w.extractLsb' 34 2
    let row := fun (w : Xword) => w.extractLsb' 22 12
    let burst := fun (w : Xword) => (w.extractLsb' 6 3).toNat
    let opened := fun (w : Xword) (q : Cell) => q.openRow.get (bank w) = some (row w)
    let shut := fun (q : Cell) => ∀ k, q.openRow.get k = none
    let count := m.toNat + 1
    let pad := fun (p : Cell) => (p.getB d).toNat
    let fits := fun (p : Cell) => pad p + 64 * count ≤ 131072 ∧ pad p % 4 = 0 ∧ burst (a p) + count ≤ 8
    let rowIs := fun (r : Xword → Option (BitVec 12)) (p q q' : Cell) =>
      q' = { q with leaving := q'.leaving, openRow := q.openRow.put (bank (a p)) (r (a p)) }
    let breaks := fun (i : Instr) (k : Nat) (w : Cell → Xword) (h : Cell → Cell → Prop) =>
      RaisesInCells i (fun _ p q => p.act = true ∧ form (w p) ∧ h p q)
        (fun _ p _ => ⟨.vaultProtocol, 0xFF, (bank (w p)).toNat + (row (w p)).toNat * 2 ^ 8 + k * 2 ^ 24⟩)
    Commands (.dvact b e jo x) 3 0 e jo (fun _ p q => form (a p) ∧ q.openRow.get (bank (a p)) = none)
      (fun _ p => Start.plain (.vact (bank (a p)) (row (a p)))) (rowIs fun w => some (row w)) ∧
    Commands (.dvpre b e jo x) 3 0 e jo (fun _ p _ => form (a p))
      (fun _ p => Start.plain (.vpre (bank (a p)))) (rowIs fun _ => none) ∧
    Commands (.dvrd v b e jo f n) 3 0 e jo (fun _ p q => form (af p) ∧ opened (af p) q)
      (fun _ p => ⟨.vrd (bank (af p)) (row (af p)) (burst (af p)) 1 none, n.toNat, [.v v.toNat], none⟩) onlyLeaves ∧
    Commands (.dvrdSp d b e jo m x) 3 0 e jo (fun _ p q => form (a p) ∧ fits p ∧ opened (a p) q)
      (fun _ p => ⟨.vrd (bank (a p)) (row (a p)) (burst (a p)) count (some (pad p)), 0, [],
        some (pad p, pad p + 64 * count - 1)⟩) onlyLeaves ∧
    Commands (.dvwr v b e jo x) 3 0 e jo (fun _ p q => form (a p) ∧ opened (a p) q)
      (fun _ p => Start.plain (.vwr (bank (a p)) (row (a p)) (burst (a p)) 1 none (bytesOf 64 (p.getV v).toNat))) onlyLeaves ∧
    Commands (.dvwrSp d b e jo m x) 3 0 e jo (fun _ p q => form (a p) ∧ fits p ∧ opened (a p) q)
      (fun _ p => Start.plain (.vwr (bank (a p)) (row (a p)) (burst (a p)) count (some (pad p)) [])) onlyLeaves ∧
    Commands (.dvref b e jo x) 3 0 e jo (fun _ p q => form (a p) ∧ shut q)
      (fun _ p => Start.plain (.vref (row (a p)))) onlyLeaves ∧
    Commands (.dvlife d b e jo mk x) 3 0 e jo (fun _ p _ => form (a p) ∧ (row (a p)).toNat + pad p ≤ 4096)
      (fun _ p => Start.plain (.vlife (row (a p)) mk (pad p))) onlyLeaves ∧
    breaks (.dvact b e jo x) 0 a (fun p q => q.openRow.get (bank (a p)) ≠ none) ∧
    breaks (.dvrd v b e jo f n) 2 af (fun p q => ¬opened (af p) q) ∧
    breaks (.dvwr v b e jo x) 3 a (fun p q => ¬opened (a p) q) ∧
    breaks (.dvrdSp d b e jo m x) 2 a (fun p q => fits p ∧ ¬opened (a p) q) ∧
    breaks (.dvwrSp d b e jo m x) 3 a (fun p q => fits p ∧ ¬opened (a p) q) ∧
    breaks (.dvref b e jo x) 4 a (fun _ q => ¬shut q)

/-- R379, R384, R386, R390: DSHAPE writes one field of a shape register; DTLMARK reads a timeline counter, or with ISS the
commands of the timeline sent before it; DPERMCFG writes the slice address of a permutation's destination; DRED places each
active cell's value on the result channel and, where the sequencer issues it, makes gK wait for the tree. DTLMARK, DPERMCFG
and DRED complete on every cell, DSHAPE where the value suits the field. -/
def Obligations.ShapesMarksAndReductions : Prop :=
  (∀ (r : BitVec 3) (k f : BitVec 4) (x : Option Word),
    let v := fun (p : Cell) => wrapN 32 ((p.getB k).toNat + (offsetOf x).toInt)
    let suits := fun (p : Cell) => (1 ≤ f.toNat ∧ f.toNat ≤ 4 → 1 ≤ v p ∧ v p ≤ 65536) ∧
      (9 ≤ f.toNat → v p = 1 ∨ v p = 2 ∨ v p = 4 ∨ v p = 8)
    ActsOnCells (.dshape r k f x) (fun _ p _ => p.act = true → suits p) (IfActive fun _ p q q' =>
      let g := q.h.get r
      q' = { q with h := q'.h } ∧ (∀ j, j ≠ r → q'.h.get j = q.h.get j) ∧
      q'.h.get r = if f = 0 then { g with base := addressOf p k (offsetOf x) }
        else if f.toNat ≤ 4 then { g with e := g.e.put (BitVec.ofNat 2 (f.toNat - 1)) (BitVec.ofNat 16 (v p - 1)) }
        else if f.toNat ≤ 8 then { g with s := g.s.put (BitVec.ofNat 2 (f.toNat - 5)) (BitVec.ofNat 32 (v p)) }
        else { g with esz := if v p = 1 then 0 else if v p = 2 then 1 else if v p = 4 then 2 else 3 })) ∧
  (∀ (d : BitVec 4) (k : BitVec 2) (i : BitVec 1),
    ActsOnCells (.dtlmark d k i) anyCell (IfActive fun _ p q q' => OnlyB d q q' ∧ q'.getB d = if d = 0 then 0 else
      BitVec.ofNat 32 (if i = 1 then p.issue.get k + q.leaving.countP (fun l => decide (l.cmd.tl = k)) else p.tl.get k))) ∧
  (∀ (d k kind : BitVec 4) (x : Option Word),
    ActsOnCells (.dpermcfg d k kind x) (fun env _ _ => env.die < env.n ∧ env.n ≤ 64 ∧ env.cell < 1600 ∧ kind.toNat ≤ 6)
      (IfActive fun env p q q' =>
        let o := (offsetOf x).toInt
        let y : Int := ((env.cell / 40 : Nat) : Int)
        let c : Int := ((env.cell % 40 : Nat) : Int)
        let l : Int := ((1600 * env.die + env.cell : Nat) : Int)
        let m := fun (u : Int) (v : Nat) => (u % (v : Int)).toNat
        let flip := env.die ^^^ m o 64
        let dest := match kind.toNat with
          | 0 => (m (env.die + o) env.n, env.cell)
          | 1 => (if flip < env.n then flip else env.die, env.cell)
          | 2 => (env.die / env.w * env.w + m (((env.die % env.w : Nat) : Int) + o) env.w, env.cell)
          | 3 => (m (((env.die / env.w : Nat) : Int) + o) env.h * env.w + env.die % env.w, env.cell)
          | 4 => (env.die, 40 * (env.cell / 40) + m (c + o) 40)
          | 5 => (env.die, 40 * m (y + o) 40 + env.cell % 40)
          | _ => (m (l + o) (1600 * env.n) / 1600, m (l + o) (1600 * env.n) % 1600)
        let a : Xword := BitVec.ofNat 64 (2 ^ 63 + env.dev.toNat * 2 ^ 56 + dest.1 * 2 ^ 50 + dest.2 * 2 ^ 39 + (p.getB k).toNat % 2 ^ 17)
        q' = { q with b := q'.b } ∧ (∀ r, r ≠ d → r ≠ d + 1 → q'.getB r = q.getB r) ∧
        (d ≠ 0 → q'.getB d = a.truncate 32) ∧ (d + 1 ≠ 0 → q'.getB (d + 1) = (a >>> 32).truncate 32))) ∧
  (∀ (v : BitVec 5) (g : BitVec 3) (o : BitVec 4) (s : State) (f : Focus), s.focus = some f →
    let y := (s.slot f.slot).ctx
    let waits := if f.issuing then s.onCtx f.slot fun c =>
      { c with tok := y.tok + 1, gPend := c.gPend.put g (some y.tok), tree := c.tree ++ [⟨y.tok, .g g, [], none, false⟩] } else s
    let value := fun (p : Cell) =>
      if o = 10 then BitVec.ofNat 32 (p.c.get (v.truncate 2)).toNat
      else if v.toNat < 16 then p.getB (v.truncate 4)
      else if v = 16 then p.cflags.word.truncate 32 else (p.cflags.word >>> 32).truncate 32
    ∃ ws, exec (.dred v g o) s =
        .next (waits.hand { f with windows := ws, dred := if f.issuing then some y.tok else f.dred }) ∧
      WindowsBecome f (IfActive fun _ p q q' => q' = { q with contrib := some (value p) }) ws)

/-! ### The sync field -/

/-- R122, R158, R161, R203, R206, R207, R394-R399: a die goes on with a bundle only when its wait is met in every active
cell, or has been found met there before; the bundle acts on those dies alone, and a YWAITT that completes drops the guard entries
of the commands it waited for. A wait of a handler bundle that some die does not meet holds the whole bundle. YFENCE holds no die:
an active cell notes the commands of its classes that are not done, and until they are, and those of this bundle's own
fence, its C slots do not start. YWAITF, its extended form, YWAITT, YWAITT.b (which waits for its register too) and YFENCE complete
so on every state with a bundle in hand. R206, R207: SYNC_WAIT_COMPLETE notes the wait of the bundle next at a die in each cell
where it is met, so that it stays met there; nothing else changes. (The model's choices: a cell with A = 0 drops its guard entries
too, log 69; a wait that completes ends what reads may have found of earlier engine writes, log 106; how a fence is kept, log
23.) -/
def Obligations.SyncWaits : Prop :=
  (∀ (s : State) (f : Focus), s.focus = some f →
     let flag := fun (k : BitVec 4) (v : BitVec 16) (c : Cell) => decide ((c.y.get k - v).toNat < 2 ^ 15)
     let target : Nat → Nat → Int := fun issue v => (issue : Int) - (((issue : Int) - v) % 2 ^ 32)
     let past := fun (k : BitVec 2) (v : Nat) (c : Cell) => decide (target (c.issue.get k) v ≤ (c.tl.get k : Int))
     let drop := fun (k : BitVec 2) (v : Nat) (c : Cell) => { c with
       guards := c.guards.filter fun g => !(g.tl == k && decide ((g.num : Int) ≤ target (c.issue.get k) v)) }
     let waits := fun (i : Instr) (met : Cell → Bool) (done : Cell → Cell) =>
       let ready := fun (w : Window) =>
         w.pre.all fun c => (f.bsn.isSome && c.waited == f.bsn) || !c.act || met c
       let pass := fun (c : Cell) => done (if f.bsn.isSome && c.waited == f.bsn then c else { c with raced := [] })
       (f.handler = false ∨ f.windows.all ready = true →
         exec i s = .next (s.hand { f with windows := (f.windows.filter ready).map fun w =>
           { w with pre := w.pre.map pass, post := w.post.map pass } })) ∧
       (f.handler = true → f.windows.all ready = false → exec i s = .next (s.hand { f with sres := .wait }))
     (∀ k (v : BitVec 15), waits (.ywaitf k v) (flag k (v.zeroExtend 16)) id) ∧
     (∀ k (v : BitVec 16), waits (.ywaitfExt k v) (flag k v) id) ∧
     (∀ k (v : BitVec 32), waits (.ywaitt k v) (past k v.toNat) (drop k v.toNat)) ∧
     (∀ k b, waits (.ywaittB k b) (fun c => (c.hawk.all fun h => h.dest != .b b.toNat) && past k (c.getB b).toNat c)
       (fun c => drop k (c.getB b).toNat c))) ∧
  (let undone := fun (m : BitVec 16) (q : Cmd) => m.getLsbD q.cls.toNat = true ∧ match q.op with
     | .store _ _ _ | .load _ _ | .atom _ _ _ _ _ _ _ => (∀ v, q.st ≠ .performed v) ∧ q.st ≠ .complete
     | .copy _ _ _ _ _ | .gather _ _ _ | .scatter _ _ _ _ | .indexed _ _ _ _ _ _ => q.st ≠ .complete
     | _ => False
   let awaited := fun (c : Cell) (k : BitVec 2 × Nat) => ∃ q ∈ c.cmds, q.tl = k.1 ∧ q.num = k.2 ∧ undone 0xFFFF q
   (∀ m, ActsOnCells (.yfence m) anyCell (IfActive fun _ _ q q' => q' = { q with fence := q'.fence } ∧
     ∀ k, k ∈ q'.fence ↔ (k ∈ q.fence ∧ awaited q k) ∨ ∃ r ∈ q.cmds, (r.tl, r.num) = k ∧ undone m r)) ∧
   ∀ (b : Bundle) (h : Bool) (c : Cell), c.act = true → (∃ o ∈ b.ops, o.1 = .c0 ∨ o.1 = .c1) →
     ((∃ k ∈ c.fence, awaited c k) ∨ ∃ m, b.sync = some (.yfence m) ∧ ∃ q ∈ c.cmds, undone m q) → cellReady b h c = false) ∧
  (∀ (s : State) (c : BitVec 4) (d : BitVec 6) (x : Die) (e : HistEntry) (i : Instr),
     (s.slot c).ctx.dies[d.toNat]? = some x →
     ((s.slot c).ctx.hist.find? fun h => h.bsn == x.done + 1) = some e →
     e.carried.dieMask.getLsbD d.toNat = true → e.bundle.sync = some i →
     (∃ k v, i = .ywaitf k v) ∨ (∃ k v, i = .ywaitfExt k v) ∨ (∃ k v, i = .ywaitt k v) ∨ (∃ k b, i = .ywaittB k b) →
     s.held c = false →
     let ended := fun (q : Cell) =>
       if q.waited = some e.bsn ∨ waitMet i q = false then q else { q with waited := some e.bsn, raced := [] }
     exec (.syncWaitComplete c d) s =
       .next (s.onCtx c fun y => { y with dies := y.dies.modify d.toNat fun z => { z with cells := z.cells.map ended } }))

/-- R114, R156, R207, R397, R400-R403: YPOSTF adds to the flag of every cell, whatever its A; YLOCK asks for a bank lock over
the next n + 1 bundles; YBAR makes the sequencer wait for its release, once, at issue and outside a handler; YMARK fires the
snapshot trigger and writes LASTMARK from its code and its BSN, 0 for a handler bundle (R410); YYIELD begins a yield's save once the rest of its bundle has
executed, where a pre-emption request stands, every die has caught up and no bank is live, waits for the dies where they have
not, and otherwise does nothing. All five complete whenever a bundle is in hand. (That YYIELD waits for every die and then looks
at the banks is the model's choice: log 24.) -/
def Obligations.PostsLocksBarriersMarksYields : Prop :=
  (∀ (k : BitVec 4) (n : BitVec 15), ActsOnCells (.ypostf k n) anyCell fun _ _ q q' =>
    q' = { q with y := q'.y } ∧ (∀ j, j ≠ k → q'.y.get j = q.y.get j) ∧ q'.y.get k = q.y.get k + n.zeroExtend 16) ∧
  (∀ (s : State) (f : Focus), s.focus = some f →
    (∀ m n, exec (.ylock m n) s = .next (s.hand { f with lock := some (m, n.zeroExtend 4 + 1) })) ∧
    (∀ b, f.handler = false → f.issuing = true → f.bsn = some b →
      exec .ybar s = .next (s.onCtx f.slot fun y => { y with ybar := some b })) ∧
    (f.handler = true ∨ f.issuing = false ∨ f.bsn = none → exec .ybar s = .next s) ∧
    (∀ m, f.issuing = false → exec (.ymark m) s = .next s) ∧
    (∀ (m : BitVec 16) b, f.issuing = true → f.bsn = some b → exec (.ymark m) s =
      .next ((s.trigger 1 f.slot 0).onCtx f.slot fun y => { y with lastMark := BitVec.ofNat 48 b ++ m })) ∧
    (∀ m : BitVec 16, f.issuing = true → f.bsn = none → exec (.ymark m) s =
      .next ((s.trigger 1 f.slot 0).onCtx f.slot fun y => { y with lastMark := m.zeroExtend 64 })) ∧
    (let x := s.slot f.slot
     let asked := f.issuing = true ∧ f.handler = false ∧ ∃ r, x.request = some r ∧ (s.slot r.waiter).life = r.life ∧
       ((s.slot r.waiter).state = .waiting ∨ (s.slot r.waiter).state = .saved)
     let live := ∃ d ∈ x.ctx.dies, ∃ q ∈ d.cells, ∃ b, (q.acc.get b).live = true
     (¬asked → exec .yyield s = .next s) ∧
     (asked → x.ctx.dmin < x.ctx.sent → exec .yyield s = .next (s.hand { f with sres := .wait })) ∧
     (asked → x.ctx.sent ≤ x.ctx.dmin → live → exec .yyield s = .next s) ∧
     (asked → x.ctx.sent ≤ x.ctx.dmin → ¬live → exec .yyield s = .next (s.hand { f with after := .yield }))) ∧
    (f.after = .yield → s.afterwards f = s.onSlot f.slot fun y => { y with save := some .yield }))

/-! ### Fetch, issue, retirement, faults -/

/-- R255, R256, R279: a control core that lacks the line of its next bundle fetches it through the handle translation, with
up to four lines ahead; a line that does not translate parks the fetch under an unused ID, or with the trap queue DISABLED
makes the context dead. BUNDLE_FETCH completes wherever the core may fetch and the line lies in memory. -/
def Obligations.BundlesAreFetched : Prop :=
  ∀ (s : State) (c : BitVec 4) (ahead : BitVec 3), s.wantsFetch c = true →
    let a : Xword := BitVec.ofNat 64 ((s.slot c).ctx.pc.toNat / 64 * 64)
    (∀ r, s.fetchPlace a = .ok r → (r.host = false → r.pa + 64 ≤ 2 ^ 41) →
      ∃ ls, exec (.bundleFetch c ahead) s = .next (s.onCtx c fun y => { y with lines := ls }) ∧
        ls.length ≤ 1 + min 4 ahead.toNat ∧ ls.head? = some (a, lineWords (s.rdRun r))) ∧
    (∀ cause, s.fetchPlace a = .error cause → s.tq.state = .disabled →
      exec (.bundleFetch c ahead) s = .next (s.kill c ⟨.unserviced, none, none, none, 0xFF, cause.code, 0, a⟩)) ∧
    (∀ cause, s.fetchPlace a = .error cause → s.tq.state ≠ .disabled → s.parks.length < 4096 →
      ∃ t id, exec (.bundleFetch c ahead) s = .next t ∧ (∀ p ∈ s.parks, p.id ≠ id) ∧
        t.parks = s.parks ++ [⟨id, c, .fetch, ⟨.unserviced, none, none, none, 0xFF, cause.code, 0, a⟩⟩] ∧
        (t.slot c).ctx = { (s.slot c).ctx with fetchPark := some id })

/-- R105, R106, R266, R276-R278, R289: when the words at the pc decode to a bundle, BUNDLE_ISSUE takes it in hand, a
beam-carried one with the next BSN and the dies that can execute it, and a step that issues runs the instructions of its
slots in their order, then closes the bundle, lets a drained yield begin its save, and lets time pass. A header of zeros moves the
pc to the next line; words that decode to no bundle are the sequencer fault illegal bundle. (A bundle with a SPAWN may have to wait
for those of lower slots: R77.) A step is said for a machine whose next
event is this issue: the head of its inputs, or the only event enabled, with no emergency refresh due and no record to be posted. -/
def Obligations.StepRunsTheDecodedBundle : Prop :=
  ∀ (s : State) (c : BitVec 4) (a : Xword) (ws : List Word) (hdr : Word) (rest : List Word),
    let y := (s.slot c).ctx
    s.issues c = true → (y.resending = false ∨ y.inHandler = true) →
    (y.lines.find? fun l => l.1 == BitVec.ofNat 64 (y.pc.toNat / 64 * 64)) = some (a, ws) →
    ws.drop (y.pc.toNat % 64 / 4) = hdr :: rest →
    (hdr = 0 → exec (.bundleIssue c) s = .next (s.onCtx c fun z => { z with pc := a + 64 })) ∧
    (hdr ≠ 0 → ∀ r n, decodeBundle hdr rest = .error (r, n) →
      exec (.bundleIssue c) s = .next (s.seqFault c .illegalBundle n (n + r.number * 2 ^ 8) y.pc)) ∧
    (hdr ≠ 0 → ∀ b, decodeBundle hdr rest = .ok b → s.spawnWaits c b = false →
      let next := y.pc + BitVec.ofNat 64 (4 * b.words)
      let runs := fun (t : State) =>
        exec (.bundleIssue c) s = .next t ∧
        (s.posted = [] → s.refreshDue = none → s.inputs = [] → enabled s = [.bundleIssue c] →
          (step s = match runWork (workOf b true) t with
            | .next u => .next u.closeBundle.beginSaves.tick | .fault e => .fault e | .refused e => .refused e) ∧
          ∀ n i, workOf b true = [(n, i)] →
            step s = match exec i { t with work := [], focus := t.focus.map fun f => { f with now := n } } with
              | .next u => .next u.closeBundle.beginSaves.tick | .fault e => .fault e | .refused e => .refused e) ∧
        (∀ r, s.posted = [] → s.refreshDue = none → s.inputs = .event (.bundleIssue c) :: r →
          step s = match runWork (workOf b true) { t with inputs := r } with
            | .next u => .next u.closeBundle.beginSaves.tick | .fault e => .fault e | .refused e => .refused e)
      (isBeam b = false → runs (s.take c b none y.carried [] true false next none)) ∧
      (isBeam b = true → y.inHandler = false → y.bsn ≤ y.qmin + 64 → y.bsn ≤ y.dmin + 256 →
        runs (s.take c b (some y.bsn) y.carried (s.windows c y.dieMask (some y.bsn) b) true true next none)) ∧
      (isBeam b = true → y.inHandler = true → (s.windows c y.dieMask none b).length = y.owing y.dieMask none →
        runs (s.take c b none y.carried (s.windows c y.dieMask none b) true true next none)))

/-- R106, R109, R118, R287, R289: a bundle whose S part waits is taken out of hand and nothing else has changed; one
whose S part faults is a sequencer fault at its address; one that is done and issuing moves the pc on, takes its BSN
and, with no fault in any window, is retired by the dies of its windows. (Stated for bundles without a vault command
that leave nothing to be done after them.) R128: the control core's CYC counts it, in FIXED mode with every die's, once for each
cycle of the set. R109, R115, R138: a die that lags takes the next bundle of the beam history in hand where it may retire and
execute it now; a running die that DIEMASK leaves out only counts it. R156: what engines wrote to locked banks, a covered bundle
finds written. R107, R203, R399: where a unit of some cell is held, the slots that nothing holds are taken ahead; a fence holds the C
slots alone. BUNDLE_RETIRE completes so. (The model's choices: CYC rises by one for each bundle, log 65; masked bundles use up a
lock, log 30; a collective retires once every die has retired those below it, log 19; units ahead begin again, log 23.) -/
def Obligations.BundlesRetire : Prop :=
  (∀ (s : State) (f : Focus), s.focus = some f →
     let u := { s with focus := none, work := [] }
     (f.ahead = false → f.sres = .wait → s.closeBundle = u) ∧
     (∀ k n, f.ahead = false → f.sres = .fault k n → s.closeBundle = u.seqFault f.slot k SlotName.s.code n f.pc) ∧
     (f.ahead = false → f.sres = .done → f.issuing = true → f.after = .none → (f.bundle.ops.any fun o => isVault o.2) = false →
       let t := (s.closeBundle.slot f.slot).ctx
       let y := (s.slot f.slot).ctx
       (f.carriedDown = false → f.bsn = none →
         (y.fixed = false → t = { y with pc := f.nextAddr, cyc := y.cyc + 1, used := t.used }) ∧
         (y.fixed = true →
           t = { y with pc := f.nextAddr, cyc := t.cyc, used := t.used, dies := y.dies.map fun d => { d with cyc := t.cyc } } ∧
           ((∀ d ∈ y.dies, d.cyc = y.cyc) → y.cyc.toNat + 1 < 2 ^ 64 →
             t.cyc = if y.used < y.cyc.toNat then y.cyc else y.cyc + 1) ∧
           y.cyc.toNat ≤ t.cyc.toNat ∧ ∀ d ∈ y.dies, d.cyc.toNat ≤ t.cyc.toNat)) ∧
       (∀ b, f.bsn = some b → (∀ w ∈ f.windows, w.faults = []) → (f.windows.map (·.die)).Nodup →
         t.pc = f.nextAddr ∧ t.bsn = b + 1 ∧ t.x = y.x ∧
         (∀ w ∈ f.windows, w.die < y.dies.length → (t.dies[w.die]?).map (·.done) = some b)))) ∧
  (∀ (s : State) (c : BitVec 4) (d : BitVec 6) (x : Die) (e : HistEntry),
     let y := (s.slot c).ctx
     y.dies[d.toNat]? = some x → (y.hist.find? fun h => h.bsn == x.done + 1) = some e → s.mayRetire c d.toNat e.bsn = true →
     (e.carried.dieMask.getLsbD d.toNat = false → s.dieRuns c d.toNat (some e.bsn) x = true →
       (isCollective e.bundle = true → ∀ z ∈ y.dies, e.bsn ≤ z.done + 1) →
       ∃ t x', exec (.bundleRetire c d) s = .next t ∧ t.focus = s.focus ∧
         ((t.slot c).ctx.dies[d.toNat]?) = some x' ∧
         x' = { x with done := e.bsn, deq := max x.deq e.bsn, cyc := x'.cyc, used := x'.used, lockLeft := x'.lockLeft
                       lockOn := x'.lockOn, ahead := none } ∧
         (y.fixed = false → x'.cyc = x.cyc + 1) ∧ (x.lockLeft ≠ 0 → x'.lockLeft = x.lockLeft - 1) ∧
         ∀ k w, k ≠ d.toNat → y.dies[k]? = some w → ∃ w', (t.slot c).ctx.dies[k]? = some w' ∧ w' = { w with cyc := w'.cyc } ∧
           (y.fixed = false → w' = w)) ∧
     (let seen := x.view (some e.bsn)
      (x.lockLeft = 0 → seen = x.cells) ∧ seen.map (fun q => { q with raced := [] }) = x.cells.map (fun q => { q with raced := [] }) ∧
      (x.lockLeft ≠ 0 → ∀ q ∈ seen, ∀ r ∈ q.raced, x.lockMask.getLsbD (r.off / 4 % 16) = false) ∧
      (e.carried.dieMask.getLsbD d.toNat = true → d.toNat < (s.slot c).n → s.dieReady c d.toNat (some e.bsn) e.bundle = true →
        (∀ q ∈ seen, q.waits e = false) →
        ∃ f, exec (.bundleRetire c d) s = .next { s with focus := some f, work := workOf e.bundle false } ∧
          f.slot = c ∧ f.bundle = e.bundle ∧ f.bsn = some e.bsn ∧ f.carried = e.carried ∧ f.issuing = false ∧ f.ahead = false ∧
          f.windows = [⟨d.toNat, seen, seen, []⟩]) ∧
      (e.carried.dieMask.getLsbD d.toNat = true → x.ahead = none → x.fault = none → y.freeze = none → e.bsn ≤ x.deq →
        s.dieRuns c d.toNat (some e.bsn) x = true →
        (s.dieReady c d.toNat (some e.bsn) e.bundle = false ∨ ∃ q ∈ seen, q.waits e = true) →
        ∃ t f, exec (.bundleRetire c d) s = .next t ∧ t.focus = some f ∧ f.slot = c ∧ f.ahead = true ∧ f.bsn = some e.bsn ∧
          f.windows.map (·.die) = [d.toNat] ∧ f.hold.length = x.cells.length ∧
          (∀ o, o ∈ e.bundle.ops → o.1 ≠ .s → o ∈ t.work) ∧
          ((t.slot c).ctx.dies[d.toNat]?).map (fun z => { z with ahead := none }) = some x ∧
          ((e.bundle.sync = none ∨ ∃ m, e.bundle.sync = some (.yfence m)) → (∀ o ∈ e.bundle.ops, isActivity o.2 = false) →
            f.windows = [⟨d.toNat, x.cells, x.cells, []⟩] ∧
            ∀ (k : Nat) (q : Cell) (l : List SlotName), x.cells[k]? = some q → f.hold[k]? = some l → q.hawk = [] → q.tiles = [] →
              ∀ n ∈ l, n = .c0 ∨ n = .c1))))

/-- R111, R114, R115, R118-R121, R131, R132, R254, R257, R258, R409: a die with a fault pending raises its flag while its tree
contributions move; the flag starts a freeze that names the first fault; once every die has come to its stop the freeze record, the
table (of the at most 64 dies of a set, R81) and the stop address go to the trap state and the handler is entered at TVEC. x and g
stay as they were, but that tree results already there are written first (R119), and results still to come are awaited no more
until their bundles are sent again (R123), by g registers; an x register awaits TLRD's still (R303). Without a handler the context is dead, and a sequencer fault starts a freeze without f,
or within a handler is a double fault. A YBAR is released once every die has retired what is below it, or, masked for it, may have
taken it from its decode queue. (How far a decode queue has been emptied, and that a pod round in hand is put aside for the handler,
are the model's choices: logs 97 and 67.) CELL_FAULT, FREEZE, FREEZE_DRAIN_DONE and BARRIER_RELEASE complete so, the set not being held.
R411, R312: ERET leaves the handler once the other parts of its bundle have executed: DIEMASK is that of the entry, the
rebroadcast begins at the least D_d of the table plus 1, and fetch goes on at the stop address; outside a handler it has no
effect. -/
def Obligations.TrapsAndHandlers : Prop :=
  (∀ (s : State) (c : BitVec 4) (d : BitVec 6),
     let x := s.slot c
     let y := x.ctx
     (s.held c = false → (s.pdies.get (x.phys d.toNat)).tripped = false → exec (.cellFault c d) s =
       .next (s.onCtx c fun y => { y with dies := y.dies.modify d.toNat fun z => { z with flag := z.fault.isSome } })) ∧
     (∀ b, y.ybar = some b → s.held c = false →
       (∀ k z, y.dies[k]? = some z → b ≤ z.done + 1 ∨
         (b ≤ z.deq ∧ ∃ e, (y.hist.find? fun e => e.bsn == b) = some e ∧ e.carried.dieMask.getLsbD k = false)) →
       exec (.barrierRelease c) s = .next (s.onCtx c fun y => { y with ybar := none, counted := [] })) ∧
     (∀ k q, x.state = .running → y.freeze = none → y.inHandler = false → (∃ z ∈ y.dies, z.flag = true) → s.held c = false →
       y.firstFault = some (k, q) →
       exec (.freeze c) s = .next (s.onSlot c fun x => { x with save := none, ctx := { x.ctx with
         freeze := some ⟨false, some q.bsn, y.sent, y.pc, q.fault.cause, q.slot.code, some k, some q.cell, q.fault.lane, q.fault.detail⟩
         dies := x.ctx.dies.map fun w => { w with ahead := none } } })) ∧
     (∀ z, y.freeze = some z → (∀ w ∈ y.dies, y.stopOf z w ≤ w.done) → z.forced = false → s.held c = false →
       (y.inHandler = false → y.tvec ≠ 0 →
         ∃ t, exec (.freezeDrainDone c) s = .next t ∧
           let v := (t.slot c).ctx
           v.inHandler = true ∧ v.pc = y.tvec ∧ v.entryMask = y.dieMask ∧ v.trec = s.freezeRec c z z.stop ∧ v.tsEarly = z.stop ∧
           v.trbHigh = BitVec.ofNat 64 (if y.resending then y.resendHigh else z.ff) ∧
           v.freeze = none ∧ v.ybar = none ∧ v.lines = [] ∧ v.podWait = none ∧ v.podOuter = y.podWait ∧
           (y.dies.length ≤ 64 → ∀ k w, y.dies[k]? = some w → v.dtab.get (BitVec.ofNat 6 k) = BitVec.ofNat 64 w.done) ∧
           ((∀ p ∈ y.tree, p.value = none) → v.x = y.x ∧ v.g = y.g ∧ v.xPend = y.xPend) ∧
           (∀ p k u, y.tree = [p] → p.dest = .g k → p.value = some u → v.g = y.g.put k u) ∧
           (∀ p ∈ y.tree, ∀ k, p.value = none → p.dest = .g k → y.gPend.get k = some p.tok → v.gPend.get k = none) ∧
           v.tscr0 = y.tscr0 ∧ v.tscr1 = y.tscr1 ∧ v.dieMask = y.dieMask ∧ v.bsn = y.bsn ∧
           v.dies = y.dies.map (fun w => { w with
             fault := none, flag := false, deq := w.done, ahead := none, cells := w.cells.map fun q => { q with waited := none } }) ∧
           (y.dies ≠ [] → ∃ w ∈ y.dies, (∀ u ∈ y.dies, w.done ≤ u.done) ∧ v.trbNext = BitVec.ofNat 64 (w.done + 1)) ∧
           ((∃ w, y.podWait = some w ∧ w.result = none) → (t.slot c).progress = s.time) ∧
           (∀ k, k ≠ c → t.slot k = s.slot k) ∧ t.hbm = s.hbm ∧ t.host = s.host) ∧
       (y.inHandler = false → y.tvec = 0 → x.state = .running →
         ∃ t, exec (.freezeDrainDone c) s = .next t ∧ (t.slot c).state = .draining ∧
           ((t.slot c).dead.map (·.cause)) = some .noHandler)) ∧
     (∀ k n m stop, x.state = .running → y.inHandler = false →
       s.seqFault c k n m stop = s.onSlot c fun x => { x with save := none, ctx := { x.ctx with
         freeze := some ⟨false, none, y.sent, stop, k, n, none, none, 0xFF, m⟩
         dies := x.ctx.dies.map fun w => { w with ahead := none } } }) ∧
     (∀ k n m stop, x.state = .running → y.inHandler = true → k ≠ .softwareTrap →
       (((s.seqFault c k n m stop).slot c).dead.map (·.cause)) = some .doubleFault)) ∧
  (∀ (s : State) (f : Focus), f.after = .eret →
     let y := (s.slot f.slot).ctx
     (y.inHandler = false → s.afterwards f = s) ∧
     (y.inHandler = true → s.afterwards f = s.onCtx f.slot fun y => { y with
       inHandler := false, dieMask := y.entryMask, rebroadcast := true, trbNext := BitVec.ofNat 64 (y.dtabMin + 1)
       podWait := y.podOuter, podOuter := none, lines := [], pc := y.tsEarly }))

/-! ### Accesses, engines and landings -/

/-- R147, R198-R201, R383: a stream access whose home is on this device is performed there once no earlier access of
its stream to the same destination is left, old bytes being what it returns, one that crosses a page in its two parts, and a .flag access to a scratchpad then increments
the flag; until then it is held, or refused where 64 arrivals are held. A refused access is sent again; an acknowledged
one delivers its data to the hawk, completes, and lets what queued behind it leave. STREAM_ARRIVAL, STREAM_RESEND and
STREAM_ACK complete so where the clock of the die concerned runs (R131, R132). R383: what a DATOM leaves at its home, by operation,
with the operand and the comparand modulo 2^n. R148, R204: a timeline's counter rises to the greatest number such that every
command of the timeline numbered so or below is complete. Stated of a cell whose commands of that timeline carry distinct
numbers. -/
def Obligations.StreamsAndTimelines : Prop :=
  (∀ (s : State) (c : BitVec 4) (d : BitVec 6) (i : BitVec 11) (num : Xword) (x : Cell) (q : Cmd),
     (s.slot c).ctx.cell? d.toNat i.toNat = some x → x.cmd? 2 num.toNat = some q →
     let ahead := fun (a : Xword) => ∃ r ∈ x.cmds, r.cls = q.cls ∧ r.num < q.num ∧ r.st ≠ .complete ∧ (∀ v, r.st ≠ .performed v) ∧
       ∃ b n k, r.op.streamOf = some (b, n, k) ∧ streamDest b = streamDest a
     -- the home is on this device, where the access can be performed now
     let here := fun (a : Xword) (n : Nat) (k : Access) (h : Home) => s.locate c d.toNat a n k = .ok h ∧ (∀ g, h ≠ .far g) ∧
       q.stalls = [] ∧ (partsOf a n).length = 1 ∧ ∀ e j o, h = .pad e j o → s.engineRuns c e = true
     let done := fun (t : State) (h : Home) (f : Option (BitVec 4)) (v : Nat) =>
       (match h, f with
        | .pad e k _, some g => t.onCtx c fun y => y.onCell e k fun z => { z with y := z.y.put g (z.y.get g + 1) }
        | _, _ => t).setSt c d.toNat i.toNat q (.performed v)
     (∀ a b f h, q.op = .store a b f → (q.st = .sent ∨ q.st = .held) → here a b.length .write h → ¬ahead a →
       exec (.streamArrival c d i num) s = .next (done (s.writeHome c h b) h f (ofBytes (s.readHome c h b.length)))) ∧
     (∀ a r h, q.op = .load a r → (q.st = .sent ∨ q.st = .held) → here a 64 .read h → ¬ahead a →
       exec (.streamArrival c d i num) s = .next (done s h none (ofBytes (s.readHome c h 64)))) ∧
     (∀ a w o v u fp f h, q.op = .atom a w o v u fp f → (q.st = .sent ∨ q.st = .held) →
       let n := if w then 8 else 4
       here a n .atomic h → ¬ahead a →
       let old := ofBytes (s.readHome c h n)
       exec (.streamArrival c d i num) s = .next (done (s.writeHome c h (bytesOf n (atomNew o (8 * n) old v u fp))) h f old)) ∧
     -- one that crosses a page is performed part by part
     (∀ a n k m e h g, q.op.streamOf = some (a, n, k) → (q.st = .sent ∨ q.st = .held) → ¬ahead a → q.stalls = [] →
       partsOf a n = [(a, m), (e, n - m)] → q.done = 0 → q.buf = [] → s.locate c d.toNat a m k = .ok h →
       let t := s.performPart c q.op a (a, m) h
       t.2.locate c d.toNat e (n - m) k = .ok g →
       let u := t.2.performPart c q.op a (e, n - m) g
       exec (.streamArrival c d i num) s = .next (u.2.setSt c d.toNat i.toNat q (.performed (t.1 + u.1)))) ∧
     (∀ a n k h, q.op.streamOf = some (a, n, k) → q.st = .sent → here a n k h → ahead a →
       exec (.streamArrival c d i num) s = .next (s.setSt c d.toNat i.toNat q
         (if 64 ≤ s.heldIn (bufferOf c h) then .refused else .held))) ∧
     (q.st = .refused → ∃ t, exec (.streamResend c d i num) s = .next t ∧
       t = s.onCmd c d.toNat i.toNat 2 num.toNat fun r => if r.st = .refused then { r with st := .sent } else r) ∧
     (∀ v, q.op.isStream = true → q.st = .performed v → s.engineRuns c d.toNat = true →
       let filled := s.onCtx c fun y => y.onCell d.toNat i.toNat fun z => z.fillHawk 2 num.toNat (spread (z.landFirst 2 num.toNat) v)
       exec (.streamAck c d i num) s =
         .next ((filled.complete c d.toNat i.toNat q).onCtx c fun y => y.onCell d.toNat i.toNat fun z => z.releaseStream q.cls))) ∧
  (∀ (n m d c : Nat) (fp : Xword), 0 < n → m < 2 ^ n → d < 2 ^ n → c < 2 ^ n →
     let r := fun op => atomNew op n m d c fp
     let sg := fun (v : Nat) => if v < 2 ^ (n - 1) then (v : Int) else v - 2 ^ n
     r 0 = (m + d) % 2 ^ n ∧ r 11 = (m + d) % 2 ^ n ∧ r 1 = m &&& d ∧ r 2 = m ||| d ∧ r 3 = m ^^^ d ∧ r 9 = d ∧
     r 10 = (if m = c then d else m) ∧ r 5 = min m d ∧ r 7 = max m d ∧
     sg (r 4) = min (sg m) (sg d) ∧ sg (r 6) = max (sg m) (sg d) ∧
     r 8 = (fadd .fp32 (FpCtl.ofWord fp) (m % 2 ^ 32) (d % 2 ^ 32)).1 ∧ r 12 = r 8) ∧
  (∀ (x : Cell) (k : BitVec 2),
     let done := fun n => ∃ q ∈ x.cmds, q.tl = k ∧ q.num = n ∧ (q.st = .complete ∨ q.op = .nothing)
     ((x.cmds.filter fun q => q.tl == k).map fun q => q.num).Nodup →
     ∀ n, (∀ m, x.tl.get k < m → m ≤ n → done m) → x.tl.get k ≤ n → (¬done (n + 1)) → x.advance.tl.get k = n)

/-- R179, R193, R195, R204, R378, R380, R381, R388: an engine performs one part of its command at a time. It reads a word that it
lacks, at once; the copy engine writes a destination word once it has all that this takes, later tuples over earlier ones; the
gather engine, with all its words, gives its data, zero for an element out of range; the scatter engine writes a word, or sends
the next addition to its home; a scratchpad form first reads its indices. After the last part the command completes, or its
additions are held. The words are taken in an open order, each once. A vault command without bursts that has started completes.
ENGINE_COMMAND_COMPLETE completes so where the clocks concerned run (R131, R206, R470) and the part that is next leads to this
device and neither walks nor is parked. (One word or element an event is the model's choice, log 31.) -/
def Obligations.EnginesPerform : Prop :=
  (∀ (s : State) (c : BitVec 4) (d : BitVec 6) (i : BitVec 11) (tl : BitVec 2) (num : Xword) (x : Cell) (q : Cmd),
    (s.slot c).ctx.cell? d.toNat i.toNat = some x → x.cmd? tl num.toNat = some q →
    let e := exec (.engineCommandComplete c d i tl num) s
    let runs := q.st = .sent ∧ q.stalls = [] ∧ s.engineRuns c d.toNat = true
    let change := fun (t : State) (f : Cmd → Cmd) => t.onCmd c d.toNat i.toNat q.tl q.num fun r => { f r with st := .sent }
    let part := fun (t : State) (k : Nat) => change t fun r => { r with done := r.done + 2 ^ k }
    let completes := fun (t : State) => t.complete c d.toNat i.toNat q
    let ends := completes (s.onCtx c fun y => y.onCell d.toNat i.toNat fun z => { z with cflags := z.cflags.addOob q.oob })
    -- the word that is read next, of those lacking
    let fetches := fun (reads : List (Xword × Nat)) (ws : List Nat) =>
      ∀ w h, (ws.eraseDups.filter fun w => (q.word? w).isNone).head? = some w →
        let p := spanOf reads w
        s.locate c d.toNat p.1 p.2 .read = .ok h → (∀ g, h ≠ .far g) →
        e = .next (change s fun r => { r with
          got := r.got ++ [(wordAt p.1, ofBytes (s.readHome c h p.2) * 256 ^ (p.1.toNat % 4))] })
    let have_ := fun (ws : List Nat) => ∀ w ∈ ws, (q.word? w).isSome = true
    -- word `k` is written, all of it on this device
    let writes := fun (k : Nat) (l : List (Xword × List Byte)) =>
      ∀ hs : List Home, hs.length = l.length →
        (∀ (j : Nat) h r, hs[j]? = some h → l[j]? = some r → s.locate c d.toNat r.1 r.2.length .write = .ok h ∧ ∀ g, h ≠ .far g) →
        e = .next (part ((hs.zip l).foldl (fun u p => u.writeHome c p.1 p.2.2) s) k)
    let turns := fun (n : Nat) (last : State) (next : Nat → Prop) =>
      (q.left c d.toNat i.toNat n = [] → e = .next last) ∧ ∀ k l, q.left c d.toNat i.toNat n = k :: l → next k
    let stores := fun (n : Nat) (gs : List (List (Piece Nat))) =>
      turns gs.length ends fun k => ∀ g, gs[k]? = some g → writes k (pieceRuns n g)
    let adds := fun (elems : List (Nat × Xword × Nat)) (esz : Nat) (fp : Bool) (ctl : Xword) =>
      let l := elems.filter fun r => !q.done.testBit r.1
      (l = [] → e = .next (if (s.slot c).ctx.hasAdds d.toNat i.toNat q then s.setSt c d.toNat i.toNat q .holding else ends)) ∧
      ∀ t a v m h, l = (t, a, v) :: m → (partsOf a (2 ^ esz)).length = 1 → s.homeOf c d.toNat a (2 ^ esz) .atomic = .ok h →
        e = .next (part (s.onCtx c fun y => { y with
          adds := y.adds ++ [⟨q.bsn, 1600 * d.toNat + i.toNat, q.num, t, a, h, esz, fp, v, ctl⟩] }) t)
    (∀ src dst tr ls ld, q.op = .copy src dst tr ls ld → runs →
      let n := min 4 (2 ^ dst.esz.toNat)
      let ps := copyPieces s.devnum d.toNat i.toNat src dst tr ls ld
      let gs := byWord ps
      turns gs.length (completes s) fun k => ∀ g, gs[k]? = some g →
        let ws := g.map fun p => wordAt p.1
        fetches (ps.map fun p => (p.1, n)) ws ∧ (have_ ws → writes k (pieceRuns n (g.map fun p => (q.piece p.1 n, p.2))))) ∧
    (∀ elems esz r, q.op = .gather elems esz r → runs →
      let reads := gatherReads elems esz
      let ws := reads.map fun p => wordAt p.1
      fetches reads ws ∧
      (have_ ws → e = .next (completes (s.onCtx c fun y => y.onCell d.toNat i.toNat fun z => z.fillHawk q.tl q.num (spread r
        (packLanes (8 * 2 ^ esz) (elems.map fun o => match o with | some a => q.elem a (2 ^ esz) | none => 0))))))) ∧
    (∀ elems esz fp, q.op = .scatter elems esz 0 fp → runs → stores (min 4 (2 ^ esz)) (scatterWords elems esz)) ∧
    (∀ elems esz add fp, q.op = .scatter elems esz (add + 1) fp → runs → adds elems esz (add == 1) fp) ∧
    (∀ kind base lim list h fp, q.op = .indexed kind base lim list h fp → runs →
      let esz := h.esz.toNat
      let o := list + 4 * q.buf.length
      (q.buf.length < h.count → s.barred c d.toNat o 4 = false →
        e = .next (s.onCmd c d.toNat i.toNat q.tl q.num fun r => { r with buf := r.buf ++
          [match s.indexAddr c base lim esz (sextN (x.pad.read o 4) 32) with | some a => a.toNat + 1 | none => 0] })) ∧
      (h.count ≤ q.buf.length →
        let reads := indexReads s.devnum d.toNat i.toNat kind h q.buf
        let ws := reads.map fun p => wordAt p.1
        fetches reads ws ∧ (have_ ws →
          (kind = 0 → stores (min 4 (2 ^ esz)) (gatherWords s.devnum d.toNat i.toNat h q)) ∧
          (kind = 1 → stores (min 4 (2 ^ esz)) (scatterWords (indexElems s.devnum d.toNat i.toNat h q) esz)) ∧
          (2 ≤ kind → adds (indexElems s.devnum d.toNat i.toNat h q) esz (kind == 3) fp)))) ∧
    (q.st = .vault 0 → (s.pdies.get ((s.slot c).phys d.toNat)).tripped = false →
      ((∃ k r, q.op = .vact k r) ∨ (∃ k, q.op = .vpre k) ∨ (∃ r, q.op = .vref r) ∨ (∃ r m n, q.op = .vlife r m n)) →
      e = .next (completes s))) ∧
  (∀ l : List (Piece Nat), (byWord l).flatten.Perm l ∧
    ∀ g ∈ byWord l, g ≠ [] ∧ g.Sublist l ∧ ∀ p ∈ g, ∀ r ∈ g, p.2.toNat / 4 = r.2.toNat / 4) ∧
  (∀ seed n, ((List.range n).map (openTurn seed n)).Perm (List.range n))

/-- R111, R156, R381, R385: DSCATA_APPLY, once every die has retired a bundle and every addition of it has come to its home,
applies them in ascending order of (L, t); where each home is in memory or a scratchpad of this device the model's state is
that of the additions one after the other, and then the bundle's commands complete. DPERM_DEADLINE performs what is late of
a FIXED set's permutations and counts the held cycles, one at least, at every die (R135). Both complete so. (That a bank lock does
not keep late permutations back is the model's choice, log 30.) -/
def Obligations.OrderedAdditionsAndPermutations : Prop :=
  (∀ (s : State) (c : BitVec 4) (bsn : Xword),
    let y := (s.slot c).ctx
    let mine := y.adds.filter fun a => a.bsn.getD 0 == bsn.toNat
    mine ≠ [] → s.addsReady c bsn.toNat = true → (∀ a ∈ mine, ∀ g, a.home ≠ .far g) →
    ∃ l : List HeldAdd, l.Perm mine ∧ l.Pairwise (fun a b => a.cell < b.cell ∨ (a.cell = b.cell ∧ a.t ≤ b.t)) ∧
      exec (.dscataApply c bsn) s = .next ((l.foldl (fun t a =>
          let n := 2 ^ a.esz
          let m := ofBytes (t.readHome c a.home n)
          t.writeHome c a.home (bytesOf n (if a.fp then homeFadd a.fpctl m a.value else m + a.value)))
        (s.onCtx c fun y => { y with adds := y.adds.filter fun a => a.bsn.getD 0 != bsn.toNat })).endAdds c bsn.toNat)) ∧
  (∀ (s : State) (c : BitVec 4) (held : Xword), (s.slot c).ctx.permLate = true →
    ∃ t, exec (.dpermDeadline c held) s = .next t ∧ t.host = s.host ∧ t.hbm = s.hbm ∧
      (t.slot c).ctx.dies.map (·.late) = (s.slot c).ctx.dies.map (fun d => d.late + BitVec.ofNat 64 (max 1 held.toNat)) ∧ (∀ k, k ≠ c → t.slot k = s.slot k) ∧
      (∀ d i x q a b, (t.slot c).ctx.cell? d i = some x → q ∈ x.cmds →
        q.op = .perm a b → q.st.isPerformed = true))

/-- R113, R134, R135, R160-R162: a landing that falls due with its data in the hawk writes its registers and frees its
entries; without it the die freezes until the data has come, and the cycles it was frozen, one at least, count in LATECYC. The
reckoning tree delivers its first result to the register that waits for it, which then waits no more unless a later result is
due there (R112), unless the set is held (R132). LANDING,
LANDING_DATA_ARRIVAL and TREE_RESULT complete so; the landings for ELASTIC sets. -/
def Obligations.Landings : Prop :=
  (∀ (s : State) (c : BitVec 4) (d : BitVec 6) (x : Die) (l : Nat),
    let y := (s.slot c).ctx
    y.fixed = false → y.dies[d.toNat]? = some x → x.leastDue = some l →
    let there := ∀ q ∈ x.cells, ∀ h ∈ q.hawk, h.due = l → h.data.isSome
    let lands := fun (q q' : Cell) =>
      q' = { q with v := q'.v, b := q'.b, hawk := q.hawk.filter fun h => h.due != l } ∧
      (∀ k, (∀ h ∈ q.hawk, h.due = l → ∀ j, h.dest = .v j → BitVec.ofNat 5 j ≠ k) → q'.getV k = q.getV k) ∧
      (∀ k, (∀ h ∈ q.hawk, h.due = l → ∀ j, h.dest = .b j → BitVec.ofNat 4 j ≠ k) → q'.getB k = q.getB k) ∧
      (∀ (k : BitVec 5) h v, q.hawk = [h] → h.due = l → h.dest = .v k.toNat → h.data = some v → q'.getV k = v)
    (x.frozen = false → s.clocked c d.toNat = true →
      ∃ t x', exec (.landing c d) s = .next t ∧ (t.slot c).ctx.dies[d.toNat]? = some x' ∧
        x'.cyc.toNat = max x.cyc.toNat (l - 1) % 2 ^ 64 ∧ x'.done = x.done ∧
        (there → x'.frozen = false ∧ x'.cells.length = x.cells.length ∧
          ∀ (k : Nat) q q', x.cells[k]? = some q → x'.cells[k]? = some q' → lands q q') ∧
        (¬there → x'.frozen = true ∧ x'.cells = x.cells)) ∧
    (x.frozen = true → there → ∀ held,
      ∃ t x', exec (.landingDataArrival c d held) s = .next t ∧ (t.slot c).ctx.dies[d.toNat]? = some x' ∧
        x'.late = x.late + BitVec.ofNat 64 (max 1 held.toNat) ∧ x'.frozen = false ∧ x'.cyc = x.cyc ∧
          ∀ (k : Nat) q q', x.cells[k]? = some q → x'.cells[k]? = some q' → lands q q')) ∧
  (∀ (s : State) (c : BitVec 4) (p : TreePend) (v : Xword),
    let y := (s.slot c).ctx
    s.held c = false → (y.tree.find? fun p => p.value.isSome) = some p → p.value = some v →
    (∀ k, p.dest = .g k → y.gPend.get k = some p.tok →
      exec (.treeResult c) s = .next (s.onCtx c fun y => { y with
        tree := y.tree.filter fun r => r.tok != p.tok, g := y.g.put k v, gPend := y.gPend.put k none })) ∧
    (∀ k, p.dest = .g k → y.gPend.get k ≠ some p.tok →
      exec (.treeResult c) s = .next (s.onCtx c fun y => { y with
        tree := y.tree.filter fun r => r.tok != p.tok, g := y.g.put k v })) ∧
    (∀ r, p.dest = .x r → r ≠ 0 → y.xPend.get r = some p.tok →
      exec (.treeResult c) s = .next (s.onCtx c fun y => { y with
        tree := y.tree.filter fun r => r.tok != p.tok, x := y.x.put r v, xPend := y.xPend.put r none })))

/-! ### Vaults and tiles -/

/-- R129, R181, R183, R186-R188, R388, R389: a vault command starts once the earlier ones have finished or let it, its effect on open
rows and on rows' ages with it, and a read takes what its bursts hold then. A sending that passes parity delivers the burst read to
the scratchpad or the hawk, corrected errors recorded, those found before with them, or leaves the burst written in the array, its
errors gone; a failed one is tried again up to four times, then lane test begins, whose swap takes the group's spare and resends; a
burst of an expired row parks, a double error or a lane failure ends the context. VAULT_COMMAND_START, VAULT_BURST_DONE, LANETEST_DONE, SELF_REFRESH and EMERGENCY_REFRESH
complete so, the vault clock running (R470), the transfers of a port in their order. The cycles that a refresh holds a die or a FIXED
set count once, but for those that a late landing or a trip counts. (The model's choices: which spacings let a command start, log
32; that a write ends the errors of its burst, log 118.) -/
def Obligations.VaultsPerform : Prop :=
  ∀ (s : State) (c : BitVec 4) (d : BitVec 6) (i : BitVec 11) (num : Xword) (x : Cell) (q : Cmd),
    (s.slot c).ctx.cell? d.toNat i.toNat = some x → x.cmd? 3 num.toNat = some q →
    let p := (s.slot c).phys d.toNat
    let v := (s.pdies.get p).vault i.toNat
    let place := fun (k : BitVec 2) (r : BitVec 12) (b : Nat) => k.toNat * 2 ^ 21 + r.toNat * 512 + b * 64
    let set := fun (t : State) (st : CmdSt) => t.setSt c d.toNat i.toNat q st
    let running := (s.pdies.get p).tripped = false
    let burst := fun (pass group : BitVec 1) (single syn : BitVec 8) (double : BitVec 1) =>
      exec (.vaultBurstDone c d i num ⟨pass, group⟩ single syn double) s
    let note := fun (t : State) (k : BitVec 2) (r : BitVec 12) (b : Nat) (w : VaultNote) =>
      t.vaultNote c d.toNat i.toNat k.toNat b r.toNat (q.bsn.getD 0) w
    -- no earlier transfer of its port is under way
    let alone := ∀ r ∈ x.cmds, r.tl = 3 → r.num < q.num → ∀ f, r.st = .vault f → r.op.transfer.map (·.1) ≠ q.op.transfer.map (·.1)
    let others := fun (z : Vault) (k : BitVec 2) (r : BitVec 12) (b : Nat) =>
      z.wrong.filter fun u => !(u.bank == k && u.row == r && u.burst == b)
    -- sendings that failed before this one are recorded when it passes
    let after := fun (f port : Nat) (group : BitVec 1) (k : BitVec 2) (r : BitVec 12) (b : Nat) =>
      if 1 ≤ f ∧ f ≤ 3 then note s k r b ⟨2, port, group.toNat, 0, f, 0, 0⟩ else s
    let onward := fun (t : State) (n : Nat) =>
      if q.done + 1 < n then t.onCmd c d.toNat i.toNat q.tl q.num fun r => { r with done := q.done + 1, st := .vault 0 }
      else t.complete c d.toNat i.toNat q
    (q.op.isVault = true → q.st = .sent →
      (∀ r ∈ x.cmds, r.tl = 3 → r.num < q.num → r.st = .complete ∨ r.op = .nothing ∨ (∃ k, r.st = .parked k) ∨
        ∃ f, r.st = .vault f ∧ r.op.spaced q.op r.done = true) →
      running → s.refreshFirst p i.toNat q.op = false →
      exec (.vaultCommandStart c d i num) s = .next ((s.vaultStart p i.toNat q.op).onCmd c d.toNat i.toNat 3 num.toNat fun r =>
        { r with
          st := .vault 0
          buf := match q.op with
            | .vrd k r b n _ => (List.range n).map fun j =>
                2 * ofBytes (v.data.bytes (place k r (b + j)) 64) + (if v.isExpired k (b + j) then 1 else 0)
            | _ => [] })) ∧
    (∀ k r b n o f group single syn double w, q.op = .vrd k r b n o → q.st = .vault f → f ≤ 3 ∨ f = 5 → running → alone →
      s.burstBarred c d.toNat q = false → q.buf[q.done]? = some w →
      let old := v.wrong.find? fun u => u.bank == k && u.row == r && u.burst == b + q.done
      let all : WrongBurst := ⟨k, r, b + q.done, (old.map (·.single)).getD 0 ||| single,
        if single = 0 then (old.map (·.syn)).getD syn else syn, (old.map (·.double)).getD false || double == 1⟩
      let t := (after f 0 group k r (b + q.done)).onVault p i.toNat fun z =>
        { z with wrong := (if all.single = 0 ∧ all.double = false then [] else [all]) ++ others z k r (b + q.done) }
      (w % 2 = 0 → all.double = false →
        let t := if all.single = 0 then t else note t k r (b + q.done) ⟨1, 0, 0, 0, 0, all.single.toNat, all.syn.toNat⟩
        burst 1 group single syn double = .next (onward (match o with
          | none => t.onCtx c fun y => y.onCell d.toNat i.toNat fun z => z.fillHawk q.tl q.num fun _ => BitVec.ofNat 512 (w / 2)
          | some a => t.writeHome c (.pad d.toNat i.toNat (a + 64 * q.done)) (bytesOf 64 (w / 2))) n)) ∧
      (w % 2 = 0 → all.double = true → burst 1 group single syn double = .next (t.vaultDeath c d.toNat i.toNat .uncorrectable (vaultAddr k r (b + q.done)))) ∧
      (w % 2 = 1 → s.tq.state ≠ .disabled → s.parks.length < 4096 →
        ∃ t id z, burst 1 group single syn double = .next t ∧ (∀ y ∈ s.parks, y.id ≠ id) ∧ t.parks = s.parks ++ [z] ∧ z.id = id ∧
          z.slot = c ∧ (t.cmd? c d.toNat i.toNat 3 num.toNat).map (·.st) = some (.parked id))) ∧
    (∀ k r b n o data f group single syn double, q.op = .vwr k r b n o data → q.st = .vault f → f ≤ 3 ∨ f = 5 → running →
      alone → s.burstBarred c d.toNat q = false →
      burst 1 group single syn double = .next (onward ((after f 1 group k r (b + q.done)).onVault p i.toNat fun w => { w with
        data := w.data.putBytes (place k r (b + q.done)) (match o with | some a => x.pad.bytes (a + 64 * q.done) 64 | none => data)
        wrong := others w k r (b + q.done)
        isOpen := match w.isOpen.get k with
          | some o => w.isOpen.put k (some { o with written := o.written ||| BitVec.ofNat 8 (2 ^ (b + q.done)) })
          | none => w.isOpen }) n)) ∧
    (∀ port k r b n f group single syn double, q.op.transfer = some (port, k, r, b, n) → q.st = .vault f → running →
      alone → s.burstBarred c d.toNat q = false →
      (f < 3 → burst 0 group single syn double = .next (set s (.vault (f + 1)))) ∧
      (f = 3 → burst 0 group single syn double = .next (set (note s k r (b + q.done) ⟨2, port, group.toNat, 1, 3, 0, 0⟩) (.vault 4))) ∧
      (f = 5 → burst 0 group single syn double =
        .next (s.vaultDeath c d.toNat i.toNat .laneFailure (vaultAddr k r (b + q.done))))) ∧
    (∀ port k r b n group lane, q.op.transfer = some (port, k, r, b, n) → q.st = .vault 4 → running →
      let g := BitVec.ofNat 2 (2 * port + group.toNat)
      (v.spare.get g = none →
        ∃ t, exec (.lanetestDone c d i num 1 group lane) s = .next (set t (.vault 5)) ∧
          ((t.pdies.get p).vault i.toNat).spare.get g = some lane ∧ t.slots = s.slots ∧ t.hbm = s.hbm) ∧
      ∀ found, (found = 0 ∨ v.spare.get g ≠ none) → exec (.lanetestDone c d i num found group lane) s =
        .next (s.vaultDeath c d.toNat i.toNat .laneFailure (vaultAddr k r (b + q.done)))) ∧
    (s.selfRefreshing p = true → exec (.selfRefresh p) s = .next (s.onPdie p fun z => z.selfCatch s.time)) ∧
    (∀ r k held, (s.pdies.get p).owner = some c → d.toNat < (s.slot c).n → (∀ e, e < (s.slot c).n → (s.slot c).phys e = p → e = d.toNat) →
      s.selfRefreshing p = false → s.lateRow p i.toNat r = some k →
      let y := (s.slot c).ctx
      let cycles := max (if ∃ b, v.isOpen.get b ≠ none then 54 else 40) held.toNat
      let til := s.time + cycles * (if y.fixed then 500 else 400)
      let dies := if y.fixed then (s.slot c).pdies else [p]
      ∃ t, exec (.emergencyRefresh p i r held) s = .next t ∧
        ((∀ e ∈ dies, (s.pdies.get e).holdTo ≤ s.time) → (t.slot c).ctx.holdCyc = y.holdCyc +
          BitVec.ofNat 64 (if s.heldFirst c d.toNat then held.toNat else cycles)) ∧
        ((∃ e ∈ dies, til ≤ (s.pdies.get e).holdTo) → (t.slot c).ctx.holdCyc = y.holdCyc) ∧
        (∀ e ∈ dies, (t.pdies.get e).holdTo = max (s.pdies.get e).holdTo til) ∧
        t.hbm = s.hbm ∧ t.host = s.host ∧
        ∀ b : BitVec 2, (((t.pdies.get p).vault i.toNat).info? b r).map (·.restored) = some s.time)

/-- R154, R194, R226, R229, R235, R244-R248, R251, R367-R369: a tile's pass ends with its bank's new elements, each beat having read
its words as the pass first found them or, where the pipeline has not stored them since, as they stand; a tile within budget, or at
its top, may then retire, another is squashed. A squashed tile of an ELASTIC set passes again at the next coat, with no other tile
under way, its bank restored from its shadow as the pass begins, once the twin images are there where a NARROW ring is stored below
that coat; in FIXED mode, once every die has taken the bundle, its tiles replay together when every verdict is known, pass once the
set's last image is there, and the held cycles count. A tile that retires, TMMA64's too, pops its rings, ORs its record, counts its
replays and leaves, in FIXED mode in its order, in ELASTIC mode before those that replay. TILE_VERDICT, REPLAY, REPLAY_ORDER and
TILE_RETIRE complete so where the M units run. R239-R241: a twin fetch takes the image for the tile's coat from the twin pointer of
its slot into the ring's replay slot, ring A's first; a pointer that is no handle address ends the context. TWIN_FETCH_DONE completes
so. (When tiles issue and retire, and what beats find of the engines' writes, are the model's choices, logs 77 and 106.) -/
def Obligations.TilesAndTwins : Prop :=
  (∀ (s : State) (c : BitVec 4) (d : BitVec 6) (i : BitVec 11) (x : Cell) (t : Tile) (pre rest : List Tile),
     let y := (s.slot c).ctx
     y.cell? d.toNat i.toNat = some x → x.tiles = pre ++ t :: rest → (∀ u ∈ pre ++ rest, u.id ≠ t.id) →
     let on := fun (u : State) (g : Cell → Cell) => u.onCtx c fun y => y.onCell d.toNat i.toNat g
     let turns := fun (u : Tile) (z : Cell) => { z with tiles := z.tiles.map fun w => if w.id = t.id then u else w }
     let becomes := fun (u : Tile) (data : Bank) (z : Cell) =>
       { turns u z with acc := z.acc.put t.bank { z.acc.get t.bank with data := data } }
     -- what a replay finds where the pipeline has stored since the tile's start
     let again := fun (kept : List Nat) (now : Mem) => kept.foldl (fun p k => p.write (4 * k) 4 (t.pad.read (4 * k) 4)) now
     let past := fun (m : Monitors) => t.fp64 = false ∧
       ((bits t.budget 7 0 ≠ 255 ∧ bits t.budget 7 0 < m.sat) ∨ (bits t.budget 15 8 ≠ 255 ∧ bits t.budget 15 8 < m.ufl) ∨
        (bits t.budget 23 16 ≠ 255 ∧ bits t.budget 23 16 < m.can))
     let higher := { t with rep0 := t.rep0 + (if t.coat = 0 then 1 else 0), rep1 := t.rep1 + (if t.coat = 1 then 1 else 0)
                            coat := t.coat + 1 }
     let fetchA := t.ra.hold && decide ((TileFmt.ofCode t.ra.fmt).coat < t.coat + 1)
     let fetchB := t.rb.hold && decide ((TileFmt.ofCode t.rb.fmt).coat < t.coat + 1)
     let mine := y.tiles.filter fun u => u.tag == t.tag && decide (u.coat < u.top)
     let runs := s.tileRuns c d.toNat = true
     (t.st = .passing → (∀ u ∈ pre, u.st ≠ .passing) → runs → Mem.wf t.pad = true → t.ra.base.toNat % 4 = 0 → t.rb.base.toNat % 4 = 0 →
       ∃ (pads : List Mem) (data : Bank) (m : Monitors), pads ≠ [] ∧
         (∀ p ∈ pads, ∀ k ∈ t.feedWords, p.read k 4 = t.pad.read k 4 ∨ (t.kept.contains (k / 4) = false ∧ p.read k 4 = x.pad.read k 4)) ∧
         (if t.fp64 then data = runPass64 pads (t.ra.slot t.sa) (t.rb.slot t.sb) t.shadow ∧ m = ⟨0, 0, 0⟩
          else (data, m) = runPass pads t) ∧
         (past m → t.coat < t.top → exec (.tileVerdict c d i) s = .next (on { s with fresh := s.fresh + 1 } (becomes { t with
           mon := m, exceeded := true, st := .squashed, own0 := t.own0 + (if t.coat = 0 then 1 else 0)
           own1 := t.own1 + (if t.coat = 1 then 1 else 0) } data))) ∧
         (past m → t.top ≤ t.coat → exec (.tileVerdict c d i) s = .next (on { s with fresh := s.fresh + 1 } (becomes { t with
           mon := m, exceeded := true, exhaust := true, st := .ready } data))) ∧
         (¬past m → exec (.tileVerdict c d i) s = .next (on { s with fresh := s.fresh + 1 } (becomes { t with
           mon := m, exceeded := false, exhaust := false, st := .ready } data)))) ∧
     (t.st = .squashed → pre = [] → y.fixed = false → runs → (∀ u ∈ rest, u.st = .squashed) →
       exec (.replay c d i) s = .next (on s (if fetchA || fetchB then turns { higher with st := .fetching fetchA fetchB }
         else becomes { higher with pad := again t.kept x.pad, st := .passing } t.shadow))) ∧
     (t.st = .squashed → y.fixed = true → s.tripped c = false → (∀ u ∈ y.tiles, u.awaitsImage = false ∧ u.st ≠ .passing) →
       (∀ u ∈ y.tiles, u.tag = t.tag → (u.st = .squashed ∨ u.st = .ready) ∧ y.allTook u.bsn = true) →
       (∀ u ∈ y.tiles, u.st = .squashed → u.tag = t.tag) → (∀ u ∈ pre ++ rest, u.tag ≠ t.tag) →
       let images := ∃ u ∈ mine, u.ra.fetches (u.coat + 1) = true ∨ u.rb.fetches (u.coat + 1) = true
       ∀ wait, ∃ u, exec (.replayOrder c wait) s = .next u ∧
         ((∀ z ∈ y.dies, z.frozen = false) → (u.slot c).ctx.holdCyc = y.holdCyc + BitVec.ofNat 64
           ((if ∀ u ∈ mine, u.rep0 + u.rep1 = 0 then 51 else 47) + (mine.map fun u => if u.coat = 0 then 16 else 32).foldl max 0 +
            (if images then wait.toNat else 0))) ∧
         ∃ z w, (u.slot c).ctx.cell? d.toNat i.toNat = some z ∧ z.pad = x.pad ∧
           (t.coat < t.top → w ∈ z.tiles ∧ w.id = t.id ∧ w.coat = t.coat + 1 ∧
             (images → w.st = .fetching fetchA fetchB ∧ z.acc = x.acc) ∧
             (¬images → w.st = .passing ∧ w.pad = again t.kept x.pad ∧ (z.acc.get t.bank).data = t.shadow))) ∧
     (t.st = .ready → (∀ u ∈ pre, u.st ≠ .ready) → runs →
       (if y.fixed then pre = [] ∧ y.allTook t.bsn = true ∧ ∀ u ∈ y.tiles, u.tag = t.tag → u.st = .ready
        else ∀ u ∈ pre, u.st = .passing → u.rep0 + u.rep1 ≠ 0) →
       let was := (x.acc.get t.bank).record
       ∃ u z, exec (.tileRetire c d i) s = .next u ∧ (u.slot c).ctx.cell? d.toNat i.toNat = some z ∧ z.tiles = pre ++ rest ∧
         z.pad = x.pad ∧ z.v = x.v ∧
         (∀ k, (z.q.get k).head = (x.q.get k).head + (if t.popA = true ∧ k = t.qa then 1 else 0) + (if t.popB = true ∧ k = t.qb then 1 else 0)) ∧
         (z.acc.get t.bank).data = (x.acc.get t.bank).data ∧ (z.acc.get t.bank).live = (x.acc.get t.bank).live ∧
         (t.fp64 = true → (z.acc.get t.bank).record.toNat = min 0xFFFF (was.toNat / 2 ^ 16 + 1) * 2 ^ 16 + was.toNat % 2 ^ 16 ∧
           z.monlast = x.monlast ∧ z.rc0 = x.rc0 ∧ z.rc1 = x.rc1 ∧ z.exh = x.exh) ∧
         (t.fp64 = false → (z.acc.get t.bank).record.toNat = (min 0xFFFF (was.toNat / 2 ^ 16 + 1) * 2 ^ 16 +
             (if was.getLsbD 5 then 2 ^ 5 else 0) + (if was.getLsbD 4 || t.exhaust then 2 ^ 4 else 0) +
             max (was.toNat / 4 % 4) t.coat * 4 + t.coat) % 2 ^ 32 ∧
           z.monlast = t.monWord ∧ z.rc0.toNat = min 0xFFFF (x.rc0.toNat + t.own0) ∧
           z.rc1.toNat = min 0xFFFF (x.rc1.toNat + t.own1) ∧ z.exh.toNat = min 0xFFFF (x.exh.toNat + (if t.exhaust then 1 else 0))) ∧
         (u.slot c).ctx.replay0 = y.replay0 + BitVec.ofNat 64 t.rep0 ∧ (u.slot c).ctx.replay1 = y.replay1 + BitVec.ofNat 64 t.rep1 ∧
         (u.slot c).ctx.exhaust = y.exhaust + (if t.exhaust then 1 else 0)) ∧
     (∀ a b, t.st = .fetching a b → (a || b) = true → (∀ u ∈ pre, ∀ a b, u.st = .fetching a b → a = false ∧ b = false) →
       s.engineRuns c d.toNat = true →
       let r := if a then t.ra else t.rb
       let replay := r.base.toNat + 64 * r.tsz.toNat * r.cap.toNat
       let ptr : Xword := BitVec.ofNat 64 (x.pad.read (replay + 512 + 8 * (if a then t.sa else t.sb)) 8)
       let stored := (TileFmt.ofCode r.fmt).coat
       let off := if t.coat ≠ 1 ∧ stored = 0 then 320 else 0
       let n := if t.coat = 1 then 320 else 512
       let p := (s.slot c).phys d.toNat
       let form := ptr.extractLsb' 62 2 = 1 ∧ ptr.extractLsb' 52 10 = 0
       (¬form → exec (.twinFetchDone c d i) s =
         .next (s.kill c ⟨.twinForm, some d.toNat, some p.toNat, some (1600 * d.toNat + i.toNat), 0xFF, 0, 0, ptr⟩)) ∧
       (∀ l, form → s.barred c d.toNat replay n = false → s.resolve p (ptr + BitVec.ofNat 64 off) n .read = .ok l →
         let img := s.readParts l
         let pad := x.pad.putBytes replay img
         let kept := t.kept.filter fun k => !decide (replay ≤ 4 * k ∧ 4 * k < replay + img.length)
         let waits := fun (z : Cell) => turns { t with st := .fetching false (a && b), kept := kept } { z with pad := pad }
         exec (.twinFetchDone c d i) s = .next (
           if y.fixed then (on s waits).onCtx c fun y => y.startPasses t.tag
           else if a && b then on s waits
           else on s fun z => becomes { t with st := .passing, kept := kept, pad := again kept pad } t.shadow { z with pad := pad }))))

/-! ### Command queues -/

/-- R65-R69, R71-R73: a doorbell moves TAIL and wakes an IDLE queue; one that overruns the ring is the queue error 7; one
that comes while the window is silent is dropped (R25; log 79); a queue that errs, in ERROR too, enters ERROR with its code
and ring offset and signals its vector; a packet that fails has its record written before that, if one is due; a packet is
staged when its bytes are legal, and its failed read, its illegality or a LAUNCH's invalid handle are errors 5, 1 and 2; a
lost record is error 6, and the error that it precedes follows (log 38). DOORBELL, PACKET_STAGE and RECORD_WRITE_FAIL
complete so. -/
def Obligations.QueuesTakePackets : Prop :=
  ∀ (s : State) (q : BitVec 6),
    let x := s.queues.get q
    let put := fun (f : Queue → Queue) => { s with queues := s.queues.put q (f (s.queues.get q)) }
    let n := fun (tail : BitVec 32) => (tail - x.head).toNat
    let ring := fun (i : BitVec 32) => 64 * (i.toNat % 2 ^ x.size.toNat)
    let b := s.rdMem true (x.base.toNat * 4096 + ring x.head) 64
    (x.state ≠ .disabled → x.state ≠ .destroying → ∀ code off, s.queueError q code off =
      (put fun x => { x with state := .error, errcode := code, erroff := BitVec.ofNat 24 off, staged := .empty, met := false }).signal
        q.toNat) ∧
    (∀ (p : PacketId) (status value : Nat) (code : BitVec 4) (off : Nat), p.queue = q →
      s.recordError p status value code off =
        if p.cpl = 0 ∨ x.state = .destroying ∨ s.resetRun.isSome = true then s.queueError q code off
        else { s with posted := s.posted ++ [⟨some p, none, p.cpl.toNat, recordBytes p status 0xFFFF s.ns value,
          if p.irq = true then some q.toNat else none, some (code, off)⟩] }) ∧
    (∀ tail, s.hostOpen = false → exec (.doorbell q tail) s = .next s) ∧
    (∀ tail, s.hostOpen = true → x.state ≠ .disabled → x.state ≠ .destroying → s.d3hot = false → n x.tail ≤ n tail →
      n tail ≤ 2 ^ x.size.toNat →
      exec (.doorbell q tail) s = .next (put fun x =>
        { x with tail := tail, state := if x.state = .idle ∧ tail ≠ x.head then .active else x.state })) ∧
    (∀ tail, s.hostOpen = true → x.state ≠ .disabled → x.state ≠ .destroying → s.d3hot = false →
      (n tail < n x.tail ∨ 2 ^ x.size.toNat < n tail) →
      exec (.doorbell q tail) s = .next (s.queueError q 7 (ring x.head))) ∧
    (x.state = .active → x.staged = .empty → x.head ≠ x.tail →
      exec (.packetStage q 1) s = .next (s.queueError q 5 (ring x.head)) ∧
      (packetLegal b s.devnum = false → exec (.packetStage q 0) s = .next (s.queueError q 1 (ring x.head))) ∧
      (packetLegal b s.devnum = true → fieldOf b 0 1 = 1 → s.handlesValid (descOf (b.drop 16)) = false →
        exec (.packetStage q 0) s = .next (s.queueError q 2 (ring x.head))) ∧
      (packetLegal b s.devnum = true → (fieldOf b 0 1 = 1 → s.handlesValid (descOf (b.drop 16)) = true) →
        ∃ t, exec (.packetStage q 0) s = .next t ∧
          t = put fun x => { x with
            staged := .bytes b, since := s.time
            met := decide (fieldOf b 0 1 = 2 ∧ fieldOf b 16 2 < 256 ∧
              fieldOf b 24 8 ≤ (s.sigobj.get (BitVec.ofNat 8 (fieldOf b 16 2))).toNat) })) ∧
    (∀ p k, (s.posted.find? fun p => p.queue.any fun k => k.queue == q) = some p → p.queue = some k →
      let t := { s with posted := s.posted.erase p }.queueError q 6 (ring k.index)
      exec (.recordWriteFail q) s = .next (match p.err with | some e => t.queueError q e.1 e.2 | none => t))

/-- R70-R73, R77, R79: what a staged packet does at HEAD. LAUNCH creates its context in the lowest free slot, or blocks, as
it does behind a LAUNCH that comes before it or while a SPAWN issues (R77); WAIT retires once its condition has held, else blocks, and after its timeout
fails with TIMEOUT and error 4; SIGNAL sets or adds; FENCE retires
when nothing earlier of the queue is under way, what a destroy has left aside (R75); MARK writes its marker; HCOPY starts its copy. A packet that retires
advances HEAD and empties the staging buffer. LAUNCH, WAIT, WAIT_TIMEOUT, SIGNAL, FENCE, MARK and HCOPY complete so. -/
def Obligations.PacketsAct : Prop :=
  ∀ (s : State) (q : BitVec 6) (b : List Byte),
    let x := s.queues.get q
    (x.state = .active ∨ x.state = .blocked) → x.staged = .bytes b →
    let type := fun n => fieldOf b 0 1 = n
    let p : PacketId := ⟨q, x.head, BitVec.ofNat 8 (fieldOf b 0 1), BitVec.ofNat 32 (fieldOf b 4 4), BitVec.ofNat 64 (fieldOf b 8 8),
      decide (fieldOf b 1 1 % 2 = 1)⟩
    let put := fun (t : State) (f : Queue → Queue) => { t with queues := t.queues.put q (f (t.queues.get q)) }
    let retires := fun (t : State) => put t fun x => { x with
      head := x.head + 1, state := if x.head + 1 = x.tail then .idle else .active, staged := .empty, met := false }
    let blocked := put s fun x => { x with state := .blocked }
    let first := ∀ l ∈ s.launches, l.1 = q ∨
      ¬((descOf (b.drop 16)).prio.toNat < l.2.1 ∨ (l.2.1 = (descOf (b.drop 16)).prio.toNat ∧ l.2.2 < x.since))
    (type 1 → first → (∀ k, s.spawnReady k = false) → ∀ c, (s.slot c).state = .free → (∀ k, k.toNat < c.toNat → (s.slot k).state ≠ .free) →
      ∃ t, exec (.launch q) s = .next t ∧
        t.slot c = { Slot.blank with
          state := .waiting, prio := (descOf (b.drop 16)).prio, queue := q, parentLife := (s.slot 0).life
          life := (s.slot c).life + 1, desc := descOf (b.drop 16), launchTime := s.time, since := s.time, fam := s.famNo + 1
          ctx := { Ctx.blank with fixed := (descOf (b.drop 16)).fixed } } ∧
        (∀ k, k ≠ c → t.slot k = s.slot k) ∧ t.families = s.families ++ [⟨s.famNo + 1, p, c, 1, 0, none, false⟩] ∧
        t.queues = (retires s).queues ∧ t.schedDue = true) ∧
    (type 1 → ((∀ c, (s.slot c).state ≠ .free) ∨ ¬first ∨ ∃ k, s.spawnReady k = true) → exec (.launch q) s = .next blocked) ∧
    (type 2 → x.met = true → exec (.wait q) s = .next ((retires s).record p 0 0xFFFF 0)) ∧
    (type 2 → x.met = false → exec (.wait q) s = .next blocked) ∧
    (type 2 → x.met = false → fieldOf b 32 4 ≠ 0 → fieldOf b 32 4 * 10 ^ 9 ≤ s.time - x.since →
      exec (.waitTimeout q) s = .next (s.recordError p 3 0 4 (64 * (x.head.toNat % 2 ^ x.size.toNat)))) ∧
    (type 3 →
      let i : BitVec 8 := BitVec.ofNat 8 (fieldOf b 16 2)
      let v : Xword := BitVec.ofNat 64 (fieldOf b 24 8)
      exec (.signal q) s = .next ((retires (s.setSig i (if fieldOf b 18 1 = 0 then v else s.sigobj.get i + v))).record p 0 0xFFFF 0)) ∧
    (type 5 → x.copies = [] → (∀ f ∈ s.families, f.pkt.queue = q → f.gone = true) →
      exec (.fence q) s = .next ((retires s).record p 0 0xFFFF 0)) ∧
    (type 5 → (x.copies ≠ [] ∨ ∃ f ∈ s.families, f.pkt.queue = q ∧ f.gone = false) → exec (.fence q) s = .next blocked) ∧
    (type 6 → exec (.mark q) s =
      .next ((retires (if fieldOf b 24 1 = 1 then s.trigger 4 0 0 else s)).record p 0 0xFFFF (fieldOf b 16 8))) ∧
    (type 4 →
      let k : HostCopy := ⟨p, BitVec.ofNat 64 (fieldOf b 16 8), BitVec.ofNat 64 (fieldOf b 24 8), fieldOf b 32 8,
        decide (fieldOf b 40 1 % 2 = 1), decide (fieldOf b 40 1 / 2 = 1), false⟩
      exec (.hcopy q) s = .next (retires (put s fun x => { x with copies := x.copies ++ [k] })))

/-- R70, R72, R73: a copy that reaches its last byte has moved the bytes (in an open order where its sides overlap), and its record carries the length; one that
meets a fault, of its own translation or of a request on the bus, has moved what lies before (just that: log 73), its record
carries COPYFAULT and the queue enters ERROR with code 3; one that has committed handle entries waits for those commits.
HCOPY_COMPLETE and HCOPY_FAULT complete so. R64, R65, R72, R74, R75: while the window answers, ENABLE makes a DISABLED queue
IDLE with empty pointers; RETRY in ERROR stages again from HEAD, SKIP retires the packet that failed there; DESTROY ends the
queue's contexts and copies, and once its dead slots are FREE, or have only their fatal record to wait for, the queue is DISABLED;
a host write of a signal object has every WAIT on it whose timeout has not passed evaluated again. ENABLE, RETRY, SKIP,
DESTROY, DESTROY_DRAIN_DONE and SIGOBJ_WRITE complete so. -/
def Obligations.QueuesAndCopies : Prop :=
  (∀ (s : State) (q : BitVec 6) (i : BitVec 32) (k : HostCopy),
     ((s.queues.get q).copies.find? fun k => k.pkt.index == i) = some k → k.written = false →
     (∀ r, s.transl.relocRun = some r → (k.srcBus = true ∨ handleOf k.src ≠ r.1) ∧ (k.dstBus = true ∨ handleOf k.dst ≠ r.1)) →
     let shed := fun (x : Queue) => { x with copies := x.copies.filter fun k => k.pkt.index != i }
     let drop := fun (t : State) => { t with queues := t.queues.put q (shed (t.queues.get q)) }
     let reach := min (s.copyReach k.srcBus false k.src k.len) (s.copyReach k.dstBus true k.dst k.len)
     let moved := fun (n : Nat) => if n = 0 then s else if s.copyClash k n then s.copyMixed k n
       else s.copyWrite k.dstBus k.dst (s.copyRead k.srcBus k.src n)
     let fails := fun (n : Nat) => (drop (moved n)).recordError k.pkt 2 n 3
       (64 * (k.pkt.index.toNat % 2 ^ (s.queues.get q).size.toNat))
     (k.srcBus = true → k.dstBus = true → k.len ≠ 0 → s.copyClash k k.len = false → exec (.hcopyComplete q i) s =
       .next ((drop { s with host := s.host.putBytes k.dst.toNat (s.host.bytes k.src.toNat k.len) }).record k.pkt 0 0xFFFF k.len)) ∧
     (k.dstBus = true ∨ handleOf k.dst ≠ 0 → k.len ≤ reach →
       exec (.hcopyComplete q i) s = .next ((drop (moved k.len)).record k.pkt 0 0xFFFF k.len)) ∧
     (k.dstBus = false → handleOf k.dst = 0 → k.len ≤ reach →
       let t := moved k.len
       let wrote := fun (l : List HostCopy) => l.map fun j => if j.pkt.index = i then { j with written := true } else j
       let waits := fun (x : Queue) => { x with copies := wrote x.copies }
       exec (.hcopyComplete q i) s = .next (if t.transl.pending = [] ∧ t.transl.heldCommit = [] then
         (drop t).record k.pkt 0 0xFFFF k.len else { t with queues := t.queues.put q (waits (t.queues.get q)) })) ∧
     (reach < k.len → exec (.hcopyComplete q i) s = .next (fails reach)) ∧
     (∀ bytes : BitVec 32, exec (.hcopyFault q i bytes) s = .next (fails (min bytes.toNat reach)))) ∧
  (∀ (s : State) (q : BitVec 6), s.hostOpen = true →
     let x := s.queues.get q
     let put := fun (f : Queue → Queue) => { s with queues := s.queues.put q (f (s.queues.get q)) }
     let again := fun (x : Queue) => { x with state := if x.head = x.tail then .idle else .active, staged := .empty, met := false }
     (x.state = .disabled → exec (.enable q) s = .next (put fun x => { x with state := .idle, head := 0, tail := 0 })) ∧
     (x.state = .error → exec (.retry q) s = .next (put again)) ∧
     (x.state = .error → (x.errcode = 1 ∨ x.errcode = 2 ∨ x.errcode = 4 ∨ x.errcode = 5) →
       exec (.skip q) s = .next (put fun x => again { x with head := x.head + 1 })) ∧
     (x.state = .error → (x.errcode = 3 ∨ x.errcode = 6 ∨ x.errcode = 7) → exec (.skip q) s = .next (put again)) ∧
     (x.state ≠ .disabled → x.state ≠ .destroying →
       ∃ t, exec (.destroy q) s = .next t ∧
         t.queues.get q = { x with state := .destroying, staged := .empty, met := false, copies := [] } ∧
         (∀ k, k ≠ q → t.queues.get k = s.queues.get k) ∧
         (∀ c, (s.slot c).queue = q → (s.slot c).state ≠ .free → (s.slot c).state ≠ .draining → (s.slot c).state ≠ .ending →
           (t.slot c).state = .draining ∧ ((t.slot c).dead.map (·.cause)) = some .queueDestroyed)) ∧
     (x.state = .destroying →
       (∀ c, (s.slot c).queue = q → (s.slot c).state = .draining → s.fatalWaits c = true) →
       exec (.destroyDrainDone q) s =
         .next (put fun x => { x with state := .disabled, head := 0, tail := 0, errcode := 0, erroff := 0 })) ∧
     (∀ i v, ∃ t, exec (.sigobjWrite i v) s = .next t ∧ t.sigobj.get i = v ∧ (∀ j, j ≠ i → t.sigobj.get j = s.sigobj.get j) ∧
       ∀ b, x.staged = .bytes b → fieldOf b 0 1 = 2 → fieldOf b 16 2 = i.toNat → fieldOf b 24 8 ≤ v.toNat →
         (fieldOf b 32 4 = 0 ∨ s.time - x.since < fieldOf b 32 4 * 10 ^ 9) → t.queues.get q = { x with met := true }))

/-! ### The scheduler and the end of contexts -/

/-- R81, R82, R86, R88, R90, R95: a decision goes through the waiting order, withdraws requests and seeks victims; the
context in turn takes the rectangle that the keys choose among those that fit, with a free core, and starts, or is restored;
one that can fit nowhere when it is first considered is dead. The victims asked to yield run, at a lower base priority, for 1 ms or more, and are enough.
After a STEP's drain the context saves on request, or shrinks, grows or keeps its dies; a lower die keeps its state.
SCHEDULER_DECISION and STEP_DECISION complete so, the latter unless the set is held (R132). -/
def Obligations.DiesAreAllocated : Prop :=
  (∀ s : State, s.resetRun = none → (s.schedDue = true ∨ s.schedAt + 10 ^ 9 ≤ s.time) →
    let u := { s with schedDue := false, schedAt := s.time }
    exec .schedulerDecision s = .next ((State.considerAll u.waitingOrder u).withdraw.preempt)) ∧
  (∀ (s : State) (c : BitVec 4) (l : List (BitVec 4)),
    let x := s.slot c
    (s.placeable c = false ↔ x.state = .waiting ∧ x.considered = false ∧
      s.candidate c (fun p => !(s.columns.get p).offline) = none) ∧
    (s.placeable c = false → State.considerAll (c :: l) s = State.considerAll l (s.kill c (DeadInfo.plain .dieSet))) ∧
    (∀ r, s.placeable c = true → s.candidate c s.dieFree = some r → s.freeCores ≠ [] →
      ∃ t k, State.considerAll (c :: l) s = State.considerAll l t ∧ k ∈ s.freeCores ∧
        (t.slot c).core = some k ∧ (t.slot c).rect = r ∧
        (∀ p ∈ r.dies, (t.pdies.get p).owner = some c) ∧ (∀ p, p ∉ r.dies → t.pdies.get p = s.pdies.get p) ∧
        (∀ j, j ≠ c → t.slot j = s.slot j) ∧ t.hbm = s.hbm ∧ t.host = s.host ∧
        (x.state = .saved → (t.slot c).state = .restoring ∧ (t.slot c).ctx = x.ctx) ∧
        (x.state = .waiting → (t.slot c).state = .running ∧
          (∀ k, (t.slot c).ctx.getX k = if k = 10 then x.desc.arg0 else if k = 11 then x.desc.arg1 else 0) ∧
          (t.slot c).ctx.pc = x.desc.entry ∧ (t.slot c).ctx.bsn = 1 ∧ (t.slot c).ctx.dieMask.toNat = (2 ^ r.n - 1) % 2 ^ 64 ∧
          (t.slot c).ctx.dies.length = r.n ∧ ∀ z ∈ (t.slot c).ctx.dies, ∃ b, z = { Die.entry 1600 with started := b })) ∧
    (∀ r free, x.state = .waiting → s.candidate c free = some r →
      x.desc.mindie ≤ r.n ∧ r.n ≤ x.desc.maxdie ∧ r.row + r.h ≤ 8 ∧ r.col + r.w ≤ 8 ∧ 0 < r.h ∧ 0 < r.w ∧
      (∀ p ∈ r.dies, free p = true) ∧
      ∀ q : Rect, x.desc.mindie ≤ q.n → q.n ≤ x.desc.maxdie → q.row + q.h ≤ 8 → q.col + q.w ≤ 8 → 0 < q.h → 0 < q.w →
        (∀ p ∈ q.dies, free p = true) →
        q.n < r.n ∨ (q.n = r.n ∧ (((r.h : Int) - r.w).natAbs < ((q.h : Int) - q.w).natAbs ∨
          (((r.h : Int) - r.w).natAbs = ((q.h : Int) - q.w).natAbs ∧ (r.h < q.h ∨
            (r.h = q.h ∧ 8 * r.row + r.col ≤ 8 * q.row + q.col)))))) ∧
    (∀ v ∈ s.pickVictims c [] (s.victims c), (s.slot v).state = .running ∧ (s.slot v).prio.toNat < x.eprio s.time ∧
      (s.slot v).ranSince + 10 ^ 9 ≤ s.time ∧
      (s.candidate c (s.freeWith (s.pickVictims c [] (s.victims c)))).isSome = true)) ∧
  (∀ (s : State) (c : BitVec 4),
    let x := s.slot c
    x.state = .stepping → x.savable .step = true → s.held c = false →
    ((s.asked c).isSome = true → x.ctx.anyLive = false → exec (.stepDecision c) s = .next (s.onSlot c fun x =>
      { x with state := .saving, save := some .step, outcome := 3, ctx := { x.ctx with stepDeferred := false } })) ∧
    ((s.asked c = none ∨ x.ctx.anyLive = true) →
      (x.vbound = true → exec (.stepDecision c) s = .next (s.stepTo c x.rect 0)) ∧
      (∀ r, x.vbound = false → s.shrinkTo c = some r → exec (.stepDecision c) s = .next (s.stepTo c r 2)) ∧
      (∀ r, x.vbound = false → s.shrinkTo c = none → s.growTo c = some r → exec (.stepDecision c) s = .next (s.stepTo c r 1)) ∧
      (x.vbound = false → s.shrinkTo c = none → s.growTo c = none → exec (.stepDecision c) s = .next (s.stepTo c x.rect 0))) ∧
    (∀ r o, let y := ((s.stepTo c r o).slot c).ctx
      ((s.stepTo c r o).slot c).state = .running ∧ ((s.stepTo c r o).slot c).outcome = o ∧
      ((s.stepTo c r o).slot c).rect = r ∧ y.dies.length = r.n ∧ y.x = x.ctx.x ∧ y.g = x.ctx.g ∧ y.pc = x.ctx.pc ∧
      (∀ k z z', k < r.n → x.ctx.dies[k]? = some z → y.dies[k]? = some z' → z'.cells = z.cells ∧ z'.done = z.done) ∧
      (∀ (k : Nat) z', x.ctx.dies.length ≤ k → y.dies[k]? = some z' →
        z'.cells = List.replicate 1600 Cell.entry ∧ z'.done = x.ctx.sent)))

/-- R92-R94, R97-R99, R138: at the deadline of a request a forced save begins with a freeze; a save whose waits have ended
writes the save area and releases core and dies, a vault-bound context's dies staying reserved; a restore loads what the
area holds; a save handle that does not translate, or a failed access, is a fatal save failure. A region's dies begin to
issue k·STAGGER·50 ns after the first, the regions in order. PREEMPT_LIMIT_EXPIRY, SAVE_COMPLETE, RESTORE_COMPLETE and STAGGER_START complete so
(the restored context waits in no pod round). -/
def Obligations.ContextsAreSavedAndRestored : Prop :=
  ∀ (s : State) (c : BitVec 4),
    let x := s.slot c
    (∀ r, s.asked c = some r → x.state = .running → x.save = none → x.ctx.freeze = none → r.deadline ≤ s.time →
      (x.ctx.inHandler = true →
        exec (.preemptLimitExpiry c) s = .next (s.onSlot c fun x => { x with state := .saving, save := some .forcedHandler })) ∧
      (x.ctx.inHandler = false → exec (.preemptLimitExpiry c) s = .next (s.onSlot c fun x => { x with
        state := .saving
        ctx := { x.ctx with freeze := some ⟨true, none, x.ctx.sent, x.ctx.pc, .preemption, 7, none, none, 0xFF, 0⟩ } }))) ∧
    (∀ k, x.state = .saving → x.save = some k → x.savable k = true → s.saveHeld x = false →
      (∀ r, s.savePlace x 0 (saveSize x.n) .write = .ok r →
        ∃ t, exec (.saveComplete c 0) s = .next t ∧
          t.slot c = { x with
            state := .saved, core := none, since := s.time, request := none, ctx := { x.ctx with freeze := none, lines := [] } } ∧
          (∀ j, j ≠ c → t.slot j = s.slot j) ∧ t.schedDue = true ∧
          t.hbm = (s.wrRun r (s.saveArea c k)).hbm ∧ t.host = (s.wrRun r (s.saveArea c k)).host ∧
          (∀ p, (t.pdies.get p).owner ≠ some c) ∧
          (x.vbound = true → ∀ p ∈ x.pdies, (t.pdies.get p).reserved = some c)) ∧
      exec (.saveComplete c 1) s = .next (s.kill c (DeadInfo.plain .saveFailure)) ∧
      (∀ e, s.savePlace x 0 (saveSize x.n) .write = .error e →
        exec (.saveComplete c 0) s = .next (s.kill c (DeadInfo.plain .saveFailure)))) ∧
    (x.state = .restoring → s.saveHeld x = false →
      (∀ r, s.savePlace x 0 (saveSize x.n) .read = .ok r → x.ctx.rounds = [] →
        ∃ t, exec (.restoreComplete c 0) s = .next t ∧
          (t.slot c).state = .running ∧ (t.slot c).save = none ∧ (t.slot c).moved = true ∧ (t.slot c).core = x.core ∧
          let area := s.saveReader x
          let y := (t.slot c).ctx
          (∀ k : BitVec 5, k ≠ 0 → y.getX k = BitVec.ofNat 64 (area (0x40 + 8 * k.toNat) 8)) ∧
          (∀ k : BitVec 3, y.g.get k = BitVec.ofNat 64 (area (0x140 + 8 * k.toNat) 8)) ∧
          (area 7 1 % 2 = 0 → y.bsn = area 8 8 ∧ y.pc = BitVec.ofNat 64 (area 0x10 8)) ∧
          y.dies.length = x.ctx.dies.length ∧ t.hbm = s.hbm ∧ t.host = s.host ∧ ∀ j, j ≠ c → t.slot j = s.slot j) ∧
      exec (.restoreComplete c 1) s = .next (s.kill c (DeadInfo.plain .saveFailure)) ∧
      (∀ e, s.savePlace x 0 (saveSize x.n) .read = .error e →
        exec (.restoreComplete c 0) s = .next (s.kill c (DeadInfo.plain .saveFailure)))) ∧
    (∀ g, x.holds = true → (∀ e, e < x.n → x.regionIndex (regionOf (x.phys e)) < x.regionIndex g →
        ∃ z, x.ctx.dies[e]? = some z ∧ z.started = true) → x.issueSince + x.regionIndex g * x.ctx.stagger.toNat * 50000 ≤ s.time →
      exec (.staggerStart c g) s = .next (s.onCtx c fun y => { y with dies := x.startRegion g y.dies }) ∧
      ∀ k z z', x.ctx.dies[k]? = some z → (x.startRegion g x.ctx.dies)[k]? = some z' →
        z' = if regionOf (x.phys k) = g then { z with started := true } else z)

/-- R90, R252, R255, R259, R260, R313: a context that becomes dead drains: its cause is noted, its requests are dropped, its
parks released; in FREE, DRAINING and ENDING nothing happens (ENDING: log 18). A kill by the host, which leaves the save area
of an abandoned save or restore open (R91), the watchdog's time without progress and a fatal cause from outside, with the
request that met it, make it dead; its dies are held for it no more, and once its record is written, or for a context that
has halted once all it issued has completed, its set not held (R132), its slot is FREE. CONTEXT_END, DEAD_DRAIN_DONE,
WATCHDOG, KILL and CONTEXT_DEAD complete so. -/
def Obligations.ContextsEnd : Prop :=
  ∀ (s : State) (c : BitVec 4),
    let x := s.slot c
    let frees := fun (i : Instr) => Gives i s fun t =>
      t.slot c = { Slot.blank with life := x.life, since := s.time } ∧ (∀ p, (t.pdies.get p).owner ≠ some c ∧ (t.pdies.get p).reserved ≠ some c) ∧
      t.hbm = s.hbm ∧ t.host = s.host
    (x.state ≠ .free → x.state ≠ .draining → x.state ≠ .ending → ∀ i : DeadInfo,
      let t := s.kill c i
      (t.slot c).state = .draining ∧ (t.slot c).dead = some i ∧ (t.slot c).life = x.life ∧ (t.slot c).queue = x.queue ∧
      (t.slot c).ctx.acc = [] ∧ (t.slot c).ctx.adds = [] ∧ (t.slot c).ctx.freeze = none ∧
      (∀ z ∈ (t.slot c).ctx.dies, ∀ q ∈ z.cells, q.cmds = [] ∧ q.hawk = [] ∧ q.tiles = []) ∧
      (∀ p, p ∈ t.parks ↔ p ∈ s.parks ∧ p.slot ≠ c) ∧ t.schedDue = true ∧ t.hbm = s.hbm ∧ t.host = s.host ∧
      (∀ k, k ≠ c → k ≠ x.parent → t.slot k = s.slot k)) ∧
    (x.state = .free ∨ x.state = .draining ∨ x.state = .ending → ∀ i, s.kill c i = s) ∧
    (s.hostOpen = true → exec (.kill c) s = .next ((s.kill c (DeadInfo.plain .hostKill)).spoilSave x)) ∧
    (x.state ≠ .saving → x.state ≠ .restoring → ∀ t : State, t.spoilSave x = t) ∧
    (x.state = .running → s.tq.wdms ≠ 0 → s.tq.wdms.toNat * 10 ^ 9 ≤ s.time - x.progress → (∀ p ∈ s.parks, p.slot ≠ c) →
      (∀ w, x.ctx.podWait = some w → w.result ≠ none) → exec (.watchdog c) s = .next (s.kill c (DeadInfo.plain .watchdog))) ∧
    (∀ k ∈ fatalCauses, exec (.contextDead c ⟨BitVec.ofNat 8 k.code, none⟩) s = .next (s.kill c (DeadInfo.plain k)) ∧
      ∀ o : Origin, exec (.contextDead c ⟨BitVec.ofNat 8 k.code, some o⟩) s = .next (s.kill c
        ⟨k, some o.die.toNat, some (x.phys o.die.toNat).toNat, some (1600 * o.die.toNat + o.cell.toNat), 0xFF, 0, 0, o.addr⟩)) ∧
    (x.state = .draining → s.fatalWaits c = true → Gives (.deadDrainDone c) s fun t =>
      (t.slot c).state = .draining ∧ (t.slot c).dead = x.dead ∧ (t.slot c).core = none ∧
      (∀ p, (t.pdies.get p).owner ≠ some c ∧ (t.pdies.get p).reserved ≠ some c) ∧ t.hbm = s.hbm ∧ t.host = s.host) ∧
    (x.state = .draining → s.fatalWaits c = false → frees (.deadDrainDone c)) ∧
    (x.state = .ending → x.retired = true → x.ctx.quiet false = true → s.held c = false → frees (.contextEnd c))

/-! ### Handles, translation, parks and the trap queue -/

/-- R170-R173: a write of bits 191:0 of an entry reaches the staging copy alone; one of bits 255:192 commits it with the
next GEN, or is refused into TSTAT with the entry as it was; the dies use the old entry until the commit completes (that every die does is the model's choice, log 59);
a request through a handle is translated as translate_handle says. A relocation is taken up or refused; it holds commits of its
handle, and when it ends the object's bytes stand at its new place, its entry is committed there, and the held commits apply
in their order. A write to handle 0 is ignored.
HANDLE_STAGING_WRITE, HANDLE_COMMIT, COMMIT_COMPLETE, RGO and RELOCATION_COMPLETE complete so. -/
def Obligations.HandlesAreCommittedAndMoved : Prop :=
  (∀ (e : Handle) (h : BitVec 12) (keyed : Bool) (off n : Nat) (k : Access),
    let may := match k with | .read => e.rdp | .write => e.wrt | .atomic => e.atm | .fetch => e.exe
    let fits := e.low.toNat ≤ off ∧ off + n - 1 ≤ e.limit.toNat
    (e.valid = false → translateHandle e h keyed off n k true = .error .translationMiss) ∧
    (e.valid = true → fits → may = true → (e.enc = true → keyed = true) → (k = .atomic → e.layer ≠ 1) →
      translateHandle e h keyed off n k true =
        .ok ⟨decide (e.layer = 1), (e.base.toNat * 4096 + off - e.low.toNat) % 2 ^ 64, n, if e.enc then some (h, off) else none⟩) ∧
    (e.valid = true → (¬fits ∨ may = false ∨ (e.enc = true ∧ keyed = false) ∨ (k = .atomic ∧ e.layer = 1)) →
      translateHandle e h keyed off n k true = .error .permission)) ∧
  (∀ (old new : Xword) (be : BitVec 8) (i : Nat), i < 8 →
    (mergeBytes old new be).extractLsb' (8 * i) 8 = if be.getLsbD i then new.extractLsb' (8 * i) 8 else old.extractLsb' (8 * i) 8) ∧
  (∀ (s : State) (h : BitVec 12), s.TableInForm →
    let x := s.transl.slotOf h
    let only := fun (t : State) (y : HandleSlot) =>
      t.transl.slotOf h = y ∧ (∀ g, g ≠ h → t.transl.slotOf g = s.transl.slotOf g) ∧ t.transl.pending = s.transl.pending ∧
      t.hbm = s.hbm ∧ t.host = s.host ∧ t.slots = s.slots ∧ t.pdies = s.pdies
    (∀ (be : BitVec 8) (v : Xword), h ≠ 0 →
      Gives (.handleStagingWrite h 0 be v) s (fun t =>
        only t { x with base := (mergeBytes (BitVec.ofNat 64 (x.base.toNat * 4096)) v be).extractLsb' 12 52 }) ∧
      Gives (.handleStagingWrite h 1 be v) s (fun t => only t { x with limit := (mergeBytes (x.limit.zeroExtend 64) v be).extractLsb' 0 40 }) ∧
      Gives (.handleStagingWrite h 2 be v) s (fun t => only t { x with low := (mergeBytes (x.low.zeroExtend 64) v be).extractLsb' 0 40 })) ∧
    (∀ w be v, exec (.handleStagingWrite 0 w be v) s = .next s ∧ exec (.handleCommit 0 be v) s = .next s) ∧
    (∀ (be : BitVec 8) (v : Xword), h ≠ 0 → be ≠ 0 → (∀ r, s.transl.relocRun = some r → r.1 ≠ h) →
      let w := mergeBytes x.entry.word3 v be
      let e : Handle := { x.entry with
        low := x.low, limit := x.limit, base := x.base, valid := w.getLsbD 63, layer := w.extractLsb' 6 2, enc := w.getLsbD 5
        atm := w.getLsbD 3, exe := w.getLsbD 2, wrt := w.getLsbD 1, rdp := w.getLsbD 0 }
      let cause : Option (BitVec 4) :=
        if e.valid = true ∧ e.limit.toNat < e.low.toNat then some 1
        else if 2 ≤ e.layer.toNat then some 2
        else if e.valid = true ∧ e.layer = 0 ∧ 2 ^ 41 ≤ e.base.toNat * 4096 + (e.limit.toNat - e.low.toNat) then some 3
        else if e.valid = true ∧ e.layer = 0 ∧ e.enc = false then some 4 else none
      (cause = none → Gives (.handleCommit h be v) s fun t =>
        t.entry h = { e with gen := x.entry.gen + 1 } ∧ (∀ g, t.dieEntry g = s.dieEntry g) ∧
        (∀ g, g ≠ h → t.transl.slotOf g = s.transl.slotOf g) ∧ t.transl.pending = s.transl.pending ++ [(h, x.entry)] ∧
        t.hbm = s.hbm ∧ t.host = s.host) ∧
      (∀ k, cause = some k → Gives (.handleCommit h be v) s fun t =>
        t.entry h = x.entry ∧ (∀ g, g ≠ h → t.transl.slotOf g = s.transl.slotOf g) ∧ t.transl.cref = true ∧ t.transl.ccause = k ∧
        t.transl.chandle = h ∧ t.transl.pending = s.transl.pending ∧ t.hbm = s.hbm ∧ t.host = s.host)) ∧
    ((s.transl.pending.filter fun p => p.1 == h).length ≤ 1 → Gives (.commitComplete h) s fun t =>
      t.dieEntry h = s.entry h ∧ (∀ g, t.entry g = s.entry g) ∧ ∀ g, g ≠ h → t.dieEntry g = s.dieEntry g) ∧
    (let t := s.transl
     let e := s.entry t.rhandle
     let moved := { e with base := t.relocBase, layer := t.rlayer }
     let refused := t.relocRun.isSome = true ∨ e.valid = false ∨ t.rhandle = 0 ∨ (commitRefusal moved).isSome = true ∨
       (e.enc = false ∧ t.rlayer = 0)
     (refused → exec .rgo s = .next { s with transl := { t with rst := 3 } }) ∧
     (¬refused → exec .rgo s = .next { s with transl := { t with rst := 1, relocRun := some (t.rhandle, t.relocBase, t.rlayer) } })) ∧
    (∀ base layer, s.MemoriesInForm → s.transl.relocRun = some (h, base, layer) → s.usesHandle h = false →
      let e := x.entry
      let n := e.limit.toNat + 1 - e.low.toNat
      ∃ t, exec .relocationComplete s =
          .next (s.transl.heldCommit.foldl (fun t (k : BitVec 8 × Xword) => t.commitHandle h k.1 k.2) t) ∧
        t.rdMem (decide (layer = 1)) (base.toNat * 4096) n = s.rdMem (decide (e.layer = 1)) (e.base.toNat * 4096) n ∧
        (∀ m a, ¬(m = decide (layer = 1) ∧ base.toNat * 4096 ≤ a ∧ a < base.toNat * 4096 + n) → t.rdMem m a 1 = s.rdMem m a 1) ∧
        t.entry h = { e with base := base, layer := layer, gen := e.gen + 1 } ∧ t.dieEntry h = t.entry h ∧
        t.transl.rst = 2 ∧ t.transl.relocRun = none ∧ t.transl.heldCommit = []) ∧
    (∀ base layer (be : BitVec 8) (v : Xword), h ≠ 0 → be ≠ 0 → s.transl.relocRun = some (h, base, layer) →
      exec (.handleCommit h be v) s = .next { s with transl := { s.transl with
        heldCommit := s.transl.heldCommit ++ [(be, v)] } }))

/-- R176-R180, R255: a write of PTROOT sets the root and begins a full invalidation; TINVCTL.GO begins one unless one is
under way; when it ends each die keeps only the translations it does not cover. A walk of at most five levels maps its page
and lets its requests go on, or parks, and its place takes a walk that waits: a die runs at most 384. A park's RETRY tries again what it holds, its KILL ends the context. PTROOT_WRITE,
TINVCTL_GO, INVALIDATION_DONE, WALK_COMPLETE, TQSERVICE_RETRY and TQSERVICE_KILL complete so. -/
def Obligations.WalksAndParks : Prop :=
  (∀ s : State,
    (∀ v : Xword, exec (.ptrootWrite v) s = .next { s with transl := { s.transl with
      root := v.extractLsb' 12 41, rootHost := v.getLsbD 1, rootEn := v.getLsbD 0
      tinvBusy := true, tinvFull := true, tinvOf := s.transl.tinvAddr } }) ∧
    (∀ all : BitVec 1, s.transl.tinvBusy = false → exec (.tinvctlGo all) s = .next { s with transl := { s.transl with
      tinvAll := all == 1, tinvBusy := true, tinvFull := all == 1, tinvOf := s.transl.tinvAddr } }) ∧
    (∀ all : BitVec 1, s.transl.tinvBusy = true →
      exec (.tinvctlGo all) s = .next { s with transl := { s.transl with tinvAll := all == 1 } }) ∧
    (s.transl.tinvBusy = true → Gives .invalidationDone s fun t =>
      t.transl.tinvBusy = false ∧ t.slots = s.slots ∧ t.hbm = s.hbm ∧ t.host = s.host ∧
      ∀ p, (t.pdies.get p).walks = (s.pdies.get p).walks ∧ ∀ e, e ∈ (t.pdies.get p).cache ↔ e ∈ (s.pdies.get p).cache ∧
        s.transl.tinvFull = false ∧ (s.transl.tinvOf.extractLsb' 0 57).toNat / 2 ^ e.bitsOf ≠ e.page) ∧
    (∀ p, let x := s.pdies.get p
      (s.fillWalks.pdies.get p).walks = x.walks ++ x.walkQueue.take (384 - x.walks.length) ∧
      (s.fillWalks.pdies.get p).walkQueue = x.walkQueue.drop (384 - x.walks.length)) ∧
    s.fillWalks.slots = s.slots) ∧
  (∀ (s : State) (p : BitVec 6) (page : BitVec 45) (w : Walk),
    ((s.pdies.get p).walks.find? fun w => w.page == page.toNat) = some w →
    let ends := fun (x : PDie) => { x with walks := x.walks.filter fun v => v.page != page.toNat }
    let ld := ((List.range (s.slot w.slot).n).find? fun d => (s.slot w.slot).phys d == p)
    let u := (s.onPdie p ends).fillWalks
    (∀ e, s.walkPages (page.toNat * 4096) = .ok e → exec (.walkComplete p page) s = .next
      (State.moveCmds (u.onPdie p fun x =>
        { x with cache := e :: x.cache.filter fun f => f.page != e.page || f.bitsOf != e.bitsOf })
        w.slot (ld.getD 64) (.walking page.toNat) none)) ∧
    (∀ e, s.walkPages (page.toNat * 4096) = .error e → s.tq.state ≠ .disabled → s.parks.length < 4096 →
      Gives (.walkComplete p page) s fun t => ∃ k, (∀ q ∈ s.parks, q.id ≠ k.id) ∧ t.parks = s.parks ++ [k] ∧ k.slot = w.slot ∧
        k.what = .walk p w ∧ k.info.cause = .unserviced ∧ k.info.orig = e.1.code ∧ t.pdies = u.pdies ∧
        t.hbm = s.hbm ∧ t.host = s.host)) ∧
  (∀ (s : State) (va : Nat),
    (s.transl.rootEn = false → s.walkPages va = .error (.translationMiss, 4)) ∧
    (s.transl.rootEn = true → s.walkPages va = walkStep s va 4 s.transl.rootHost (s.transl.root.toNat * 4096)) ∧
    (∀ (level : Nat) (host : Bool) (table : Nat),
      let q := BitVec.ofNat 64 (ofBytes (s.rdRun (pagedRun host (table + 8 * (va / 2 ^ (12 + 9 * level) % 512)) 8)))
      let dest := (q.extractLsb' 12 41).toNat * 4096
      let bits := if level = 2 then 30 else if level = 1 then 21 else if q.getLsbD 7 then 16 else 12
      (host = true ∨ table < 2 ^ 41) →
      (q.getLsbD 0 = false → walkStep s va level host table = .error (.translationMiss, level)) ∧
      (q.getLsbD 0 = true → q.getLsbD 1 = true → level ≤ 2 → dest % 2 ^ bits = 0 → (q.getLsbD 6 = true ∨ dest < 2 ^ 41) →
        walkStep s va level host table =
          .ok ⟨va / 2 ^ bits, bits, q.getLsbD 6, dest, q.getLsbD 2, q.getLsbD 3, q.getLsbD 4, q.getLsbD 5⟩) ∧
      (q.getLsbD 0 = true → q.getLsbD 1 = true → (3 ≤ level ∨ dest % 2 ^ bits ≠ 0 ∨ (q.getLsbD 6 = false ∧ 2 ^ 41 ≤ dest)) →
        walkStep s va level host table = .error (.permission, level)) ∧
      (∀ k, level = k + 1 → q.getLsbD 0 = true → q.getLsbD 1 = false → (q.getLsbD 6 = true ∨ dest < 2 ^ 41) →
        walkStep s va level host table = walkStep s va k (q.getLsbD 6) dest))) ∧
  (∀ (s : State) (k : Park), (s.parks.find? fun p => p.id == k.id) = some k → s.hostOpen = true →
    exec (.tqserviceKill k.id) s = .next (s.kill k.slot k.info) ∧
    Gives (.tqserviceRetry k.id) s fun t =>
      (∀ p, p ∈ t.parks ↔ p ∈ s.parks ∧ p.id ≠ k.id) ∧ (t.slot k.slot).progress = s.time ∧ t.hbm = s.hbm ∧ t.host = s.host ∧
      (k.what = .fetch → (t.slot k.slot).ctx.fetchPark = none) ∧
      (∀ d i tl num x, k.what = .command d i tl num → (s.slot k.slot).ctx.cell? d i = some x →
        (t.slot k.slot).ctx.cell? d i = some { x with
          cmds := x.cmds.map fun q => if ¬(q.tl = tl ∧ q.num = num) then q
            else if q.st = .parked k.id then { q with st := if k.info.orig = Cause.vaultExpired.code then .vault 6 else .sent }
            else { q with stalls := q.stalls.filter fun z => z.2 != .parked k.id } }))

/-- R189, R261-R264, R35: a HEAD between the old one and TAIL is taken and lets waiting records be written; a failed record
write puts the queue into ERROR with the record held, those behind it waiting, held or dropped by their class, and RESUME
writes it again; ENABLE clears the counts, and a 0 is honoured while every slot is FREE; a record is admitted by the free
slots of the ring. TRIG latches a snapshot only when armed, else counts; a vector unmasked while pending sends its message.
TQ_HEAD_WRITE, TRAP_RECORD_WRITE_FAIL, RESUME, TQ_ENABLE, TRIG, ARM and VECTOR_UNMASK complete so, the host's writes while
the window answers. -/
def Obligations.TrapQueueAndSnapshots : Prop :=
  ∀ s : State,
    let q := s.tq
    let put := fun (f : TrapQueue → TrapQueue) => { s with tq := f s.tq }
    let room := 2 ^ q.size.toNat - (q.tail - q.head).toNat
    let back := fun (r : TrapRec) (q : TrapQueue) =>
      if r.cls = 5 then q.drop else if r.cls = 4 then { q with fatal := r :: q.fatal }
      else { q with held := r :: q.held, ovf := BitVec.ofNat 16 (min 0xFFFF (q.ovf.toNat + 1)) }
    (∀ r, (s.postTrap r).tq = { q with tail := q.tail + 1 } ∧
      ∃ p, (s.postTrap r).posted = s.posted ++ [p] ∧ p.trap = some r ∧ p.data = bytesOf 64 (r.data ||| BitVec.ofNat 512 (q.tail.toNat * 2 ^ 32)).toNat ∧
        p.addr = (q.base.toNat * 4096 + 64 * (q.tail.toNat % 2 ^ q.size.toNat)) % 2 ^ 64 ∧ p.vector = some 64) ∧
    (∀ r, q.state = .active → (q.fatal = [] ∧ (r.cls = 4 ∧ 1 ≤ room ∨ r.cls ≠ 4 ∧ r.cls ≠ 5 ∧ 2 ≤ room ∧ q.held = []) ∨
      r.cls = 5 ∧ 2 ≤ room) → s.takeRecord r = s.postTrap r) ∧
    (s.hostOpen = true →
      (∀ h : BitVec 32, (q.tail - q.head).toNat < (h - q.head).toNat → exec (.tqHeadWrite h) s = .next s) ∧
      (∀ h : BitVec 32, (h - q.head).toNat ≤ (q.tail - q.head).toNat →
        exec (.tqHeadWrite h) s = .next (put fun q => { q with head := h }).drainTraps) ∧
      (q.state = .error →
        let t := put fun q => { q with state := .active, lost := none }
        exec .resume s = .next (match q.lost with | some r => t.postTrap r | none => t).drainTraps) ∧
      (q.state = .disabled → exec (.tqEnable 1) s =
        .next (put fun q => { q with state := .active, head := 0, tail := 0, held := [], lost := none, ovf := 0, dropped := 0 })) ∧
      ((∀ c, (s.slot c).state = .free) → exec (.tqEnable 0) s = .next (put fun q => { q with state := .disabled })) ∧
      (s.snap.armed = false → exec .trig s =
        .next { s with snap := { s.snap with missed := BitVec.ofNat 16 (min 0xFFFF (s.snap.missed.toNat + 1)) } }) ∧
      (s.snap.armed = true → Gives .trig s fun t => t.snap.armed = false ∧ t.snap.src = 3 ∧ t.snap.missed = s.snap.missed ∧
        t.snap.seqr.length = 64 ∧ t.snap.seqSlots.length = 16 ∧ t.snap.dies.length = 64 ∧ t.slots = s.slots ∧
        (∀ (c : Nat), c < 16 → t.snap.seqSlots[c]? = some (s.ctxStat (BitVec.ofNat 4 c)))) ∧
      exec .arm s = .next { s with snap := { s.snap with armed := true, missed := 0 } } ∧
      (∀ v : BitVec 7, v.toNat < 69 → Gives (.vectorUnmask v) s fun t =>
        (∀ k, t.msixMask.getLsbD k = (s.msixMask.getLsbD k && decide (k ≠ v.toNat))) ∧
        (∀ k, t.msixPend.getLsbD k = (s.msixPend.getLsbD k && decide (k ≠ v.toNat))) ∧
        t.messages = s.messages ++ (if s.msixPend.getLsbD v.toNat then [v.toNat] else []))) ∧
    (∀ r rest, q.state = .active → (s.posted.filterMap fun p => p.trap) = r :: rest →
      exec .trapRecordWriteFail s = .next { s with
        posted := s.posted.filter fun p => p.trap.isNone
        tq := rest.foldr back { q with state := .error, lost := some r, tail := q.tail - BitVec.ofNat 32 (r :: rest).length } }) ∧
    (∀ r, q.state = .disabled → s.takeRecord r = if r.cls = 5 then put TrapQueue.drop else s) ∧
    (∀ r, q.state = .error → s.takeRecord r = put fun q =>
      if r.cls = 5 then q.drop else if r.cls = 4 then { q with fatal := q.fatal ++ [r] }
      else { q with held := q.held ++ [r], ovf := BitVec.ofNat 16 (min 0xFFFF (q.ovf.toNat + 1)) })

/-! ### Links and the pod -/

/-- R36-R43: training ends UP, with the lanes it found, or DOWN; in UP a link whose two ends are valid becomes ACTIVE,
ACTIVE_HALF by its lanes, or CONFLICT on equal numbers, which raises vector 66; a lost link is LOST, out of every PODRT entry,
goes DOWN or to what a host write waited for, and ends the contexts with traffic on it; a retraining, a disabling or PODCFG
first drains an active link; a flit sent again is counted. LINK_TRAINING_DONE, LINK_LOSS, RETRAIN, LINK_ENABLE,
REPLAY_BUFFER_DRAINED, PODCFG_WRITE, FLIT_CRC_FAIL and PEER_IDENTITY complete so, the host's writes while the window answers.
(Where a link goes that is lost or that its peer withdraws from, and its lanes then, are the model's choices, log 76.) -/
def Obligations.LinksTrainAndFail : Prop :=
  ∀ (s : State) (n : BitVec 4),
    let l := s.links.get n
    let put := fun (t : State) (l : Link) => { t with links := t.links.put n l }
    let active := l.state = .active ∨ l.state = .activeHalf
    let idle := fun (next : LinkState) => { l with
      state := next, peerValid := false, drain := none, lanes := if next = .up then l.lanes else 0 }
    let off := fun (t : State) => { t with
      podrt := t.podrt.map (fun (e : BitVec 16) => e &&& ~~~(BitVec.ofNat 16 (2 ^ n.toNat)))
      flits := t.flits.filter (fun (f : Flit) => f.link != n) }
    let lose := fun (next : LinkState) =>
      let next := if l.enable = false then .disabled else if l.drain = some .retrain ∨ l.drain = some .disable then .training else next
      (s.inFlightOn n).foldl (fun t p => t.kill p.1 (t.deathAt p.1 .linkLoss n.toNat p.2))
        ((off (put s { idle next with lost := true })).signal 66)
    (s.exchange n = if l.state = .up ∧ s.podValid = true ∧ l.peerValid = true then
        (if l.peerDev = s.devnum then (put s { l with state := .conflict }).signal 66
         else put s { l with state := if l.lanes = 0xFF then .active else .activeHalf })
      else s) ∧
    (l.state = .training → ∀ lanes : BitVec 8,
      ((lanes = 0xFF ∨ lanes = 0x0F ∨ lanes = 0xF0) →
        exec (.linkTrainingDone n lanes) s = .next ((put s { l with state := .up, lanes := lanes }).exchange n)) ∧
      (¬(lanes = 0xFF ∨ lanes = 0x0F ∨ lanes = 0xF0) → exec (.linkTrainingDone n lanes) s = .next (put s (idle .down)))) ∧
    (∀ c, (∃ o, (c, o) ∈ s.inFlightOn n) ↔ ∃ f ∈ s.flits, f.link = n ∧ f.src = s.devnum ∧
      ((∃ a, f.body = .access a ∧ a.srcSlot = c ∧ a.srcLife = (s.slot c).life) ∨ ∃ m, f.body = .message m c (s.slot c).life)) ∧
    (active → exec (.linkLoss n) s = .next (lose .down)) ∧
    (l.state = .up ∨ l.state = .training ∨ l.state = .conflict ∨ l.state = .down →
      exec (.linkLoss n) s = .next (put s (idle .down))) ∧
    (l.state = .disabled → exec (.linkLoss n) s = .next s) ∧
    (∀ (v : BitVec 1) (d : BitVec 6) (p : BitVec 4),
      let told := fun (t : State) =>
        (put t ((fun (l : Link) => { l with peerDev := d, peerLink := p, peerValid := v == 1 }) (t.links.get n))).exchange n
      (l.state = .up → exec (.peerIdentity n v d p) s = .next (told s)) ∧
      (active → v = 1 → l.peerDev = d → exec (.peerIdentity n v d p) s = .next s) ∧
      (active → ¬(v = 1 ∧ l.peerDev = d) → exec (.peerIdentity n v d p) s = .next (told (lose .up))) ∧
      (l.state = .conflict → v = 1 → l.peerDev = d → exec (.peerIdentity n v d p) s = .next s) ∧
      (l.state = .conflict → ¬(v = 1 ∧ l.peerDev = d) → exec (.peerIdentity n v d p) s = .next (told (put s (idle .up)))) ∧
      (l.state = .down ∨ l.state = .training ∨ l.state = .disabled → exec (.peerIdentity n v d p) s = .next s)) ∧
    exec (.flitCrcFail n) s = .next (put s { l with replays := BitVec.ofNat 16 (min 0xFFFF (l.replays.toNat + 1)) }) ∧
    (l.drain = none → exec (.replayBufferDrained n) s = .next { s with flits := s.flits.filter fun f => f.link != n }) ∧
    (∀ w, l.drain = some w → exec (.replayBufferDrained n) s = .next ((put (off s)
      (idle (if l.enable = false then .disabled else if w = .podcfg then .up else .training))).exchange n)) ∧
    (s.hostOpen = true →
      (active → exec (.retrain n) s = .next (put s { l with
        drain := some (if l.drain = some .disable then .disable else .retrain) })) ∧
      (¬active → l.state ≠ .disabled → exec (.retrain n) s = .next (put s (idle .training))) ∧
      (l.state = .disabled → exec (.retrain n) s = .next s ∧
        exec (.linkEnable n 1) s = .next (put s { idle .training with enable := true })) ∧
      (l.state ≠ .disabled → exec (.linkEnable n 1) s = .next (put s { l with enable := true })) ∧
      (active → exec (.linkEnable n 0) s = .next (put s { l with enable := false, drain := some .disable })) ∧
      (¬active → exec (.linkEnable n 0) s = .next (put s { idle .disabled with enable := false })) ∧
      (∀ v : Xword, (∃ c, (s.slot c).state ≠ .free) → exec (.podcfgWrite v) s = .next s) ∧
      (∀ v : Xword, (∀ c, (s.slot c).state = .free) → Gives (.podcfgWrite v) s fun t =>
        t.podValid = v.getLsbD 7 ∧ t.devnum = v.extractLsb' 0 6 ∧ t.podtmo.toNat = max 1 (v.extractLsb' 32 16).toNat ∧
        t.podrt = s.podrt ∧ t.slots = s.slots ∧ t.flits = s.flits ∧ (t.links.get n).lanes = l.lanes ∧
        (active ∨ l.state = .conflict → (s.podValid = true → v.getLsbD 7 = true) → v.extractLsb' 0 6 = s.devnum →
          t.links.get n = l) ∧
        (active ∨ l.state = .conflict → (s.podValid = true ∧ v.getLsbD 7 = false ∨ v.extractLsb' 0 6 ≠ s.devnum) →
          t.links.get n = { l with drain := some (l.drain.getD .podcfg) })))

/-- R44-R50, R168, R200, R259: a flit for another device goes on over a link that PODRT names unless it would make a ninth
hop or no link leads on, which ends the context it comes from; one for this device is taken or stands at its link, behind an
arrival that the link's buffers hold; a refused access ends its source's context. An access that arrives is performed in the
scratchpad of the context of its group and answered, waits behind an earlier one of its stream, is held while that context is
not running, or is refused; a message waits for its round; held accesses and rounds time out. FLIT_ARRIVAL,
POD_ACCESS_ARRIVAL, POD_ACCESS_TIMEOUT, POD_MESSAGE_ARRIVAL and POD_ROUND_TIMEOUT complete so. (The model's choices: how an access
names the one before it, log 37; an access for a context that saves, steps or ends is performed, log 74; what a refusal carries, log
75; a message for a group without a context, log 98; a transit flit without a route, log 109; a draining link, log 110.) -/
def Obligations.PodTraffic : Prop :=
  ∀ s : State,
    let clear := fun (n : BitVec 4) => ∀ h ∈ s.podHeld, h.link ≠ n
    let from' := fun (a : PodAccess) => some (⟨a.srcDie, a.srcCell, a.addr⟩ : Origin)
    let refusal := fun (a : PodAccess) (code : BitVec 8) => PodBody.refusal a.srcSlot a.srcLife code (from' a)
    let parked := fun (c : BitVec 4) => (s.slot c).state = .waiting ∨ (s.slot c).state = .saved ∨ (s.slot c).state = .restoring
    (∀ n d, n ∈ s.routes d ↔ (s.podrt.get d).getLsbD n.toNat = true ∧ (s.links.get n).drain = none ∧
      ((s.links.get n).state = .active ∨ (s.links.get n).state = .activeHalf)) ∧
    (s.podBlocked = [] → s.unblock = s) ∧
    (∀ (n : BitVec 4) (d src : BitVec 6) (hops : BitVec 4) (b : PodBody), ¬clear n →
      exec (.flitArrival d src hops ⟨n, b⟩) s = .next { s with podBlocked := s.podBlocked ++ [⟨n, d, src, hops, b⟩] }) ∧
    (∀ (n : BitVec 4) (d src : BitVec 6) (hops : BitVec 4), clear n → d ≠ s.devnum →
      (∀ b, hops.toNat < 7 → s.podValid = true → s.routes d ≠ [] → Gives (.flitArrival d src hops ⟨n, b⟩) s fun t =>
        ∃ m ∈ s.routes d, t.flits = s.flits ++ [⟨m, d, src, hops + 1, b⟩] ∧ t.slots = s.slots ∧ t.hbm = s.hbm) ∧
      ((7 ≤ hops.toNat ∨ s.podValid = false ∨ s.routes d = []) →
        (∀ a : PodAccess, src = s.devnum → exec (.flitArrival d src hops ⟨n, .access a⟩) s =
          .next (if (s.slot a.srcSlot).life = a.srcLife then
            s.kill a.srcSlot (s.deathAt a.srcSlot .podRoute d.toNat (from' a)) else s)) ∧
        (∀ a : PodAccess, src ≠ s.devnum → s.routes src ≠ [] → Gives (.flitArrival d src hops ⟨n, .access a⟩) s fun t =>
          ∃ m ∈ s.routes src, t.flits = s.flits ++ [⟨m, src, s.devnum, 0, refusal a 0x48⟩] ∧ t.slots = s.slots) ∧
        (∀ m c life, src = s.devnum → exec (.flitArrival d src hops ⟨n, .message m c life⟩) s =
          .next (if (s.slot c).life = life then s.kill c { (DeadInfo.plain .podRoute) with link := d.toNat } else s)) ∧
        (∀ m c life, src ≠ s.devnum → s.routes src ≠ [] → Gives (.flitArrival d src hops ⟨n, .message m c life⟩) s fun t =>
          ∃ k ∈ s.routes src, t.flits = s.flits ++ [⟨k, src, s.devnum, 0, .refusal c life 0x48 none⟩] ∧ t.slots = s.slots))) ∧
    (∀ (n : BitVec 4) (src : BitVec 6) (hops : BitVec 4), clear n →
      (∀ a : PodAccess, exec (.flitArrival s.devnum src hops ⟨n, .access a⟩) s =
        .next { s with podArrived := s.podArrived ++ [(n, .access a)] }) ∧
      (∀ m c life, exec (.flitArrival s.devnum src hops ⟨n, .message m c life⟩) s =
        .next { s with podArrived := s.podArrived ++ [(n, .message m c life)] }) ∧
      (∀ c life d i tl num v q, s.cmd? c d.toNat i.toNat tl num.toNat = some q → q.st = .remote → (s.slot c).life = life →
        let l := s.flits.filter fun f => match f.body with
          | .access a => !(a.srcSlot == c && a.srcLife == life && a.srcDie == d && a.srcCell == i && a.tl == tl && a.num == num)
          | _ => true
        exec (.flitArrival s.devnum src hops ⟨n, .reply c life d i tl num v⟩) s =
          .next (State.podReply { s with flits := l } c d.toNat i.toNat q v.toNat)) ∧
      (∀ c life o, ∀ k ∈ [Cause.podRoute, .podTimeout, .sliceRange, .podPeerDead], (s.slot c).life = life →
        exec (.flitArrival s.devnum src hops ⟨n, .refusal c life (BitVec.ofNat 8 k.code) o⟩) s =
          .next (s.kill c (s.deathAt c k (if k = .sliceRange then 0xFF else src.toNat) o)))) ∧
    (∀ a : PodAccess,
      let off := (a.addr.extractLsb' 0 17).toNat
      let die := (a.addr.extractLsb' 50 6).toNat
      let cell := (a.addr.extractLsb' 39 11).toNat
      let stands := ((∃ p ∈ s.podArrived, p.2 = .access a) ∧ ∀ p ∈ s.podArrived, p.2 = .access a → clear p.1) ∨
        a ∈ s.podWaiting ∨ ∃ h ∈ s.podHeld, h.acc = a
      let refuses := fun (code : BitVec 8) => ∃ u : State, exec (.podAccessArrival a) s = .next u.unblock ∧ u.slots = s.slots ∧
        ∃ n ∈ s.routes a.srcDev, u.flits = s.flits ++ [⟨n, a.srcDev, s.devnum, 0, refusal a code⟩]
      let fits := fun (c : BitVec 4) => die < (s.slot c).n ∧ cell < 1600 ∧ off + a.size.toNat ≤ 131072 ∧ a.addr.extractLsb' 17 22 = 0
      -- where it stands at a link that holds nothing
      let standing := s.podArrived.find? fun p => p.2 == .access a && s.podHeld.all fun h => h.link != p.1
      stands → tagOf a.addr = 2 →
      (s.groupSlot a.group = none → a.srcDev ≠ s.devnum → s.routes a.srcDev ≠ [] → refuses 0x53) ∧
      (∀ c, s.groupSlot a.group = some c → ¬parked c → ¬fits c → a.srcDev ≠ s.devnum → s.routes a.srcDev ≠ [] → refuses 0x4B) ∧
      (∀ c n, s.groupSlot a.group = some c → parked c → standing = some (n, .access a) → exec (.podAccessArrival a) s =
        .next { s with podArrived := s.podArrived.erase (n, .access a), podHeld := s.podHeld ++ [⟨n, a, s.time⟩] }) ∧
      (∀ c, s.groupSlot a.group = some c → parked c → standing = none → exec (.podAccessArrival a) s = .next s) ∧
      (∀ c, s.groupSlot a.group = some c → ¬parked c → fits c → s.podAhead a = true → a ∉ s.podWaiting →
        s.heldIn (bufferOf c (.pad die cell 0)) < 64 → exec (.podAccessArrival a) s =
          .next (State.unblock { s.dropPod a with podWaiting := s.podWaiting ++ [a] })) ∧
      (∀ c x, s.groupSlot a.group = some c → ¬parked c → fits c → s.podAhead a = false →
        s.barred c die off a.size.toNat = false → (s.slot c).ctx.cell? die cell = some x → s.routes a.srcDev ≠ [] →
        let n := a.size.toNat
        let old := x.pad.read off n
        let new := if a.kind = 1 then bytesOf n a.data.toNat
          else if a.kind = 2 then bytesOf n (atomNew a.op.toNat (8 * n) old a.data.toNat a.cmp.toNat a.fp)
          else (List.range n).map fun k => BitVec.ofNat 8 ((if a.cmp.getLsbD k then a.data.toNat else old) / 256 ^ k)
        ∃ u : State, exec (.podAccessArrival a) s = .next u.unblock ∧
          (∃ n ∈ s.routes a.srcDev, u.flits = s.flits ++ [⟨n, a.srcDev, s.devnum, 0,
            .reply a.srcSlot a.srcLife a.srcDie a.srcCell a.tl a.num (BitVec.ofNat 512 old)⟩]) ∧
          (∃ x' : Cell, (u.slot c).ctx.cell? die cell = some x' ∧ x'.v = x.v ∧ x'.b = x.b ∧
            x'.pad = if a.kind = 0 then x.pad else x.pad.putBytes off new) ∧
          (∀ k, k ≠ c → u.slot k = s.slot k) ∧ u.hbm = s.hbm ∧ u.host = s.host)) ∧
    (s.podtmo ≠ 0 → (∀ h ∈ s.podHeld, s.time < h.since + s.podtmo.toNat * 10 ^ 9) →
      exec .podAccessTimeout s = .next s.unblock) ∧
    (∀ h, s.podHeld = [h] → h.since + s.podtmo.toNat * 10 ^ 9 ≤ s.time → h.acc.srcDev ≠ s.devnum →
      s.routes h.acc.srcDev ≠ [] → ∃ u : State, exec .podAccessTimeout s = .next u.unblock ∧ u.podHeld = [] ∧
        ∃ n ∈ s.routes h.acc.srcDev, u.flits = s.flits ++ [⟨n, h.acc.srcDev, s.devnum, 0, refusal h.acc 0x49⟩]) ∧
    (∀ m p, (s.podArrived.find? fun p => match p.2 with | .message k _ _ => k == m | _ => false) = some p → clear p.1 →
      let t := { s with podArrived := s.podArrived.erase p }
      (s.groupSlot m.group = none → exec (.podMessageArrival m) s = .next t) ∧
      (∀ c, s.groupSlot m.group = some c →
        let u := t.onCtx c fun y => { y with podIn := y.podIn ++ [m] }
        exec (.podMessageArrival m) s = .next (if parked c then u else u.tryRound c) ∧
        ((s.slot c).ctx.rounds = [] → u.tryRound c = u))) ∧
    (∀ c w p, ((s.slot c).ctx.rounds.find? fun w => w.result.isNone && decide (w.deadline ≤ s.time)) = some w →
      (s.peers (s.slot c).desc.podmask).find? (fun p => !(roundMsgs w (s.slot c).ctx.podIn).any
        fun m => m.src == p) = some p →
      exec (.podRoundTimeout c) s = .next (s.kill c { (DeadInfo.plain .podTimeout) with link := p.toNat }))

/-! ### Resets, power and clocks -/

/-- R22-R28, R54, R56: a request for a reset stops every core at once, a warm one merging into a reset that runs; it
completes when requests to the host have ended or been abandoned and every region is up, clears what warm or cold reset
clears, keeps memory; a cold one ends once its links have trained, and leaves the boot ROM due; the ROM strips step by step, if a
strip is pending, else boots the base runtime, the copy booted last or, where that is not valid, the other. POWER_ON, POWER_REGION_BRINGUP, PERST, FUNCTION_LEVEL_RESET, RECOVERY_PIN, WARM, COLD, RESET_HOST_TIMEOUT and
RESET_COMPLETE complete so. (The model's choices: what power-on leaves of memory, key slots and snapshots, logs 1 and 2; the MSI-X
bits, logs 4 and 93; the boot status, log 26; the pod registers over a warm reset, log 27; what is sent to the host, log 88; a warm
request before the boot ROM has handed over, log 95; D3hot, log 111; a second request, log 113.) -/
def Obligations.Resets : Prop :=
  ∀ s : State,
    let asks := fun (cold : Bool) (cause : BitVec 4) =>
      { s.refreshOwned with
        resetRun := some ⟨cold, cause, s.time, false, s.hostReqs, false⟩, lastCause := cause, focus := none, work := [] }
    (s.resetRun = none → s.boot.pending = false →
      exec .functionLevelReset s = .next (asks false 4) ∧ exec .perst s = .next (asks true 1) ∧
      exec .recoveryPin s = .next (asks true 5) ∧
      (s.boot.stage ≠ .romhalt → exec .warm s = .next (asks false 3) ∧ exec .cold s = .next (asks true 2)) ∧
      (s.boot.stage = .romhalt → exec .warm s = .next s ∧ exec .cold s = .next s) ∧
      Gives .powerOn s fun t => t.resetRun = some ⟨true, 0, s.time, false, [], false⟩ ∧ t.lastCause = 0 ∧ t.regionsUp = 0 ∧ t.hbm = [] ∧
        t.host = s.host ∧ t.boot.keys = [] ∧ t.transl.table = [] ∧ t.d3hot = false ∧ t.msixPend = 0 ∧ t.snap = Snap.reset ∧
        ∀ p, (t.pdies.get p).vaults = [] ∧ (t.pdies.get p).cache = [] ∧ (t.pdies.get p).pads = []) ∧
    (s.resetRun = none → s.boot.pending = true → exec .functionLevelReset s = .next s ∧ exec .warm s = .next s) ∧
    (∀ r, s.resetRun = some r → exec .functionLevelReset s = .next s ∧ exec .warm s = .next s ∧
      (s.stripping = true → exec .cold s = .next s) ∧
      (s.stripping = false → exec .perst s = .next
        { s with resetRun := some ⟨true, 1, s.time, false, r.sent, false⟩, lastCause := 1, focus := none, work := [] })) ∧
    (exec (.powerRegionBringup (BitVec.ofNat 4 s.regionsUp.toNat)) s = if s.regionsUp.toNat < 16
      then .next { s with regionsUp := s.regionsUp + 1 } else .next s) ∧
    (∀ r, s.resetRun = some r → r.abandoned = false → r.since + 10 ^ 8 ≤ s.time → Gives .resetHostTimeout s fun t =>
      t.resetRun = some { r with abandoned := true, sent := [] } ∧ t.slots = s.slots ∧ ∀ q, (t.queues.get q).copies = []) ∧
    (∀ r, s.resetRun = some r → r.cleared = true →
      exec .resetComplete s = .next (if s.links.any fun l => l.state == .training then s else { s with resetRun := none })) ∧
    (∀ r, s.resetRun = some r → r.cleared = false → (s.hostBusy = false ∨ r.abandoned = true) → s.regionsUp = 16 →
      Gives .resetComplete s fun t =>
        t.resetRun = (if r.cold then some { r with sent := [], cleared := true } else none) ∧ t.hbm = s.hbm ∧ t.host = s.host ∧ t.boot.keys = s.boot.keys ∧ t.boot.flash = s.boot.flash ∧
        t.posted = [] ∧ t.flits = [] ∧ t.parks = [] ∧ t.families = [] ∧ t.tq = TrapQueue.reset ∧
        t.podValid = false ∧ t.devnum = 0 ∧ t.lastCause = s.lastCause ∧ t.snap = s.snap ∧ t.pmeas = 0 ∧ t.plimThrottle = false ∧
        (∀ c, t.slot c = Slot.blank) ∧ (∀ q, t.queues.get q = Queue.reset) ∧ (∀ i, t.sigobj.get i = 0) ∧
        (∀ p, (t.pdies.get p).owner = none ∧ (t.pdies.get p).reserved = none ∧ (t.pdies.get p).tripped = false) ∧
        (r.cold = false → t.plim = s.plim ∧ t.twarnLvl = s.twarnLvl ∧ t.time = s.time ∧ t.podrt = s.podrt ∧
          t.podtmo = s.podtmo ∧ t.istep = s.istep ∧ t.boot.stage = s.boot.stage ∧ t.boot.pending = s.boot.pending ∧
          t.transl.root = s.transl.root ∧ t.transl.rootEn = s.transl.rootEn ∧
          (∀ n, t.links.get n = { s.links.get n with lost := false }) ∧
          (∀ h, t.transl.slotOf h = ⟨h, s.entry h, (s.entry h).low, (s.entry h).limit, (s.entry h).base⟩) ∧
          ∀ p, (t.columns.get p) = { s.columns.get p with imeas := 0, twarn := false }) ∧
        (r.cold = true → t.plim = 9000 ∧ t.twarnLvl = 95 ∧ t.time = 0 ∧ t.podtmo = 100 ∧ t.boot.pending = true ∧
          t.boot.stage = .rom ∧ t.boot.resets = s.boot.resets + 1 ∧ t.transl = Transl.reset ∧ (∀ j, t.podrt.get j = 0) ∧
          (∀ k, t.istep.get k = 40) ∧ ∀ p b, ((t.pdies.get p).rowTime.get b) = 0)) ∧
    (s.resetRun = none → s.boot.pending = true →
      (s.stripDue = false → Gives .resetComplete s fun t =>
        t.boot.pending = false ∧ t.boot.resets = s.boot.resets ∧ t.boot.meas.get 0 = Config.sm3 Config.bootRom ∧
        t.hbm = s.hbm ∧ t.host = s.host ∧ t.boot.lease = s.boot.lease ∧
        t.boot.keys = (if s.lastCause = 0 ∧ s.boot.stripStep = 0 then [] else s.boot.keys) ∧
        ((∀ k : BitVec 1, baseValid (s.boot.flashBad.get (k.zeroExtend 2)) (s.boot.flash.get (k.zeroExtend 2)) = false) →
          t.boot.stage = .romhalt) ∧
        (∀ (k : BitVec 1) img,
          let l := s.boot.lastCopy
          (k = l ∨ (k = l + 1 ∧ baseValid (s.boot.flashBad.get (l.zeroExtend 2)) (s.boot.flash.get (l.zeroExtend 2)) = false)) →
          s.boot.flash.get (k.zeroExtend 2) = some img → baseValid (s.boot.flashBad.get (k.zeroExtend 2)) (some img) = true →
          t.boot.baseCopy = k.zeroExtend 2 ∧ t.boot.lastCopy = k ∧ t.boot.meas.get 1 = Config.sm3 (img.take 256) ∧
          t.boot.baseVer = BitVec.ofNat 16 (fieldOf img 8 2) ∧
          (s.lastCause = 5 → t.boot.stage = .base ∧ t.boot.cust = .skipped) ∧
          (s.lastCause ≠ 5 → s.boot.lease ≠ .enrolled → t.boot.stage = .base ∧ t.boot.cust = .none) ∧
          (s.lastCause ≠ 5 → s.boot.lease = .enrolled → s.boot.flash.get 2 = none → t.boot.stage = .base ∧ t.boot.cust = .empty) ∧
          (∀ c, s.lastCause ≠ 5 → s.boot.lease = .enrolled → s.boot.flash.get 2 = some c →
            let fault := imageFault c (s.boot.flashBad.get 2) 2 s.boot.keyHash s.boot.minVer.toNat
            (fault = none → t.boot.stage = .custom ∧ t.boot.cust = .running ∧ t.boot.meas.get 2 = Config.sm3 (c.take 256)) ∧
            (∀ e, fault = some e → t.boot.stage = .base ∧ t.boot.cust = e)))) ∧
      (s.stripDue = true → s.boot.stripStep.toNat < 4 → Gives .resetComplete s fun t =>
        t.boot.stripStep = s.boot.stripStep + 1 ∧ t.boot.lease = .stripping ∧ t.host = s.host ∧
        (s.boot.stripStep = 0 → t.boot.keys = []) ∧ (s.boot.stripStep = 1 → t.hbm = [] ∧ t.boot.keys = s.boot.keys) ∧
        (s.boot.stripStep = 2 → t.transl = Transl.reset ∧ t.boot.flash.get 2 = none ∧ (∀ c, t.slot c = Slot.blank) ∧
          t.tq = TrapQueue.reset ∧ (∀ q, t.queues.get q = Queue.reset) ∧ t.snap = Snap.reset ∧
          ∀ p, (s.columns.get p).offline = false → (t.pdies.get p).vaults = [] ∧ (t.pdies.get p).pads = [])) ∧
      (s.stripDue = true → s.boot.stripStep.toNat = 4 → Gives .resetComplete s fun t =>
        t.boot.lease = .vacant ∧ t.boot.pend = false ∧ t.boot.recValid = true ∧ t.boot.stripSeq = s.boot.stripSeq + 1 ∧
        t.boot.keyHash = 0 ∧ t.boot.minVer = 0 ∧ t.boot.resets = 0 ∧ t.boot.pending = true))

/-- R14-R21, R30, R32, R34, R35, R64, R128-R133, R137: a sample sets TEMP, and TWARN with vector 65 at its level; at 110 °C the
column goes offline, its vaults and cached translations are lost and the contexts on its die end; the average power is
taken and held against PLIM; D3hot clears the slots; a failed host request ends its context. A droop stretches a cycle or is
a hard trip by its level and the clock mode, the trip's end frees the die, a region throttled under its limit counts in
THRCYC, each cycle once. A host write keeps PLIM between 2,000 and 9,000 and TWARNLVL between 40 and 105, the ring of a queue in use as it is;
an unaligned or narrow one is ignored. TEMP_SAMPLE, THERMAL_TRIP, PLIM_THROTTLE, D3HOT_ENTRY, D0_ENTRY, HOST_REQUEST_ERROR,
DROOP_REPORT, TRIP_HOLD_EXPIRY, REGION_THROTTLE and REGISTER_WRITE complete so. (The model's choices: a trip of a set that one
holds, log 41; the cached translations of an offline column, log 35; a request that names no cell, log 96; a context that has
halted, log 18.) -/
def Obligations.PowerClocksAndRegisters : Prop :=
  ∀ (s : State) (p : BitVec 6),
    let col := s.columns.get p
    let putCol := fun (c : Column) => { s with columns := s.columns.put p c }
    let pd := s.pdies.get p
    let put := fun (t : State) (x : PDie) => { t with pdies := t.pdies.put p x }
    let sat := fun (w : Word) => BitVec.ofNat 32 (min (2 ^ 32 - 1) (w.toNat + 1))
    (∀ temp : BitVec 8,
      (temp.toNat < s.twarnLvl.toNat → exec (.tempSample p temp) s = .next (putCol { col with temp := temp })) ∧
      (s.twarnLvl.toNat ≤ temp.toNat → exec (.tempSample p temp) s =
        .next (let t := putCol { col with temp := temp, twarn := true }
          if col.twarn then t else t.signal 65))) ∧
    (110 ≤ col.temp.toNat → col.offline = false → Gives (.thermalTrip p) s fun t =>
      t.columns.get p = { col with offline := true, ttrip := true, heat := true, vset := 0, imeas := 0, pgood := false } ∧
      (t.pdies.get p).vaults = [] ∧ (t.pdies.get p).pads = [] ∧ (t.pdies.get p).cache = [] ∧ (∀ q, q ≠ p → t.columns.get q = s.columns.get q) ∧
      t.hbm = s.hbm ∧ t.host = s.host ∧
      ∀ c, ((s.slot c).holds = true ∨ ((s.slot c).state = .saved ∧ (s.slot c).vbound = true)) → (s.slot c).state ≠ .draining →
        (s.slot c).state ≠ .ending → p ∈ (s.slot c).pdies → (t.slot c).state = .draining ∧ (t.slot c).dead.map (·.cause) = some .thermalTrip) ∧
    ((110 ≤ col.temp.toNat → col.offline = true) → exec (.thermalTrip p) s = .next s) ∧
    (∀ w : BitVec 16, exec (.plimThrottle w) s = .next { s with pmeas := w, plimThrottle := decide (s.plim.toNat ≤ w.toNat) }) ∧
    (Gives .d3hotEntry s fun t => t.d3hot = true ∧ (∀ c, t.slot c = Slot.blank) ∧ t.queues = s.queues ∧ t.hbm = s.hbm ∧
      t.host = s.host ∧ ∀ q, (t.pdies.get q).owner = none) ∧
    exec .d0Entry s = .next { s with d3hot := false } ∧
    (∀ c d i a, d.toNat < (s.slot c).n → i.toNat < 1600 → exec (.hostRequestError c d i a) s = .next (s.kill c
      ⟨.hostRequest, some d.toNat, some ((s.slot c).phys d.toNat).toNat, some (1600 * d.toNat + i.toNat), 0xFF, 0, 0, a⟩)) ∧
    (∀ c d i a, ¬(d.toNat < (s.slot c).n ∧ i.toNat < 1600) →
      exec (.hostRequestError c d i a) s = .next (s.kill c ⟨.hostRequest, none, none, none, 0xFF, 0, 0, a⟩)) ∧
    (∀ (level : BitVec 3) (c : BitVec 4), level.toNat ≤ 5 → pd.owner = some c → (s.slot c).holds = true →
      let k := (s.slot c).regionIndex (regionOf p)
      let low := put s { pd with level := level }
      let trips := put s { pd with level := level, tripped := true, trips := sat pd.trips }
      let bit := BitVec.ofNat 16 (2 ^ k)
      let counts := fun (t : State) => t.onCtx c fun y => { y with
        trips := sat y.trips, tripReg := y.tripReg ||| bit, tripCyc := y.tripCyc + 32 }
      let frozen := ∃ d z, (s.slot c).logical p = some d ∧ (s.slot c).ctx.dies[d]? = some z ∧ z.frozen = true
      let held := ∃ q ∈ (s.slot c).pdies, (s.pdies.get q).tripped = true
      ((s.slot c).ctx.fixed = false → pd.tripped = false → level = 5 → exec (.droopReport p level) s = .next (counts trips)) ∧
      ((s.slot c).ctx.fixed = false → pd.tripped = false → level ≠ 5 → ¬frozen → exec (.droopReport p level) s =
        .next (low.onCtx c fun y => { y with stretch := y.stretch + BitVec.ofNat 64 level.toNat })) ∧
      ((s.slot c).ctx.fixed = false → pd.tripped = true ∨ (level ≠ 5 ∧ frozen) → exec (.droopReport p level) s = .next low) ∧
      ((s.slot c).ctx.fixed = true → level.toNat < 3 → exec (.droopReport p level) s = .next low) ∧
      ((s.slot c).ctx.fixed = true → 3 ≤ level.toNat → ¬held → exec (.droopReport p level) s = .next (counts trips)) ∧
      ((s.slot c).ctx.fixed = true → 3 ≤ level.toNat → held → exec (.droopReport p level) s =
        .next (low.onCtx c fun y => { y with tripReg := y.tripReg ||| bit }))) ∧
    (pd.tripped = true → exec (.tripHoldExpiry p 0) s = .next (put s { pd with tripped := false }) ∧
      ∀ c, pd.owner = some c → (s.slot c).holds = true →
        exec (.tripHoldExpiry p 1) s = .next (s.onCtx c fun y => { y with tripCyc := y.tripCyc + 32 })) ∧
    (∀ (g : BitVec 4) (n : Xword),
      exec (.regionThrottle g 0 n) s = .next { s with throttled := s.throttled.put g false } ∧
      (s.istep.get g = 0 → exec (.regionThrottle g 1 n) s = .next s) ∧
      (s.istep.get g ≠ 0 → Gives (.regionThrottle g 1 n) s fun t =>
        t.throttled.get g = true ∧ (∀ j, j ≠ g → t.throttled.get j = s.throttled.get j) ∧
        ∀ c, let x := s.slot c
          let unit := if x.ctx.fixed then 500 else 600
          let cycles := if x.ctx.fixed then (n.toNat + 7) / 8 * 8 else n.toNat
          -- until when a die's cycles are counted already
          let counted := fun (p : BitVec 6) => max (s.pdies.get p).thrTo (s.pdies.get p).holdTo
          (∀ k, k ≠ c → (s.slot k).holds = true → ∀ p ∈ (s.slot k).pdies, p ∉ x.pdies) →
          ((∀ p ∈ x.pdies, s.time + cycles * unit ≤ counted p) → (t.slot c).ctx.thrCyc = x.ctx.thrCyc) ∧
          ((∀ p ∈ x.pdies, counted p ≤ s.time) → (t.slot c).ctx.thrCyc = x.ctx.thrCyc +
            (let k := ((List.range x.n).filter fun d => regionOf (x.phys d) == g &&
              (x.ctx.fixed || (!(s.pdies.get (x.phys d)).tripped && !(x.ctx.dies[d]?).any (·.frozen)))).length
             if x.holds = true ∧ 0 < k ∧ s.halted c true = false then
               (if x.ctx.fixed then BitVec.ofNat 64 cycles else BitVec.ofNat 64 (cycles * k)) else 0)))) ∧
    (∀ (o : BitVec 25) (b : BitVec 4) (v : Xword), (o.toNat % 8 ≠ 0 ∨ b ≠ 8) → exec (.registerWrite o ⟨b, v⟩) s = .next s) ∧
    (∀ v : Xword,
      let write := fun (o : BitVec 25) => exec (.registerWrite o ⟨8, v⟩) s
      (s.hostOpen = true ∨ s.windowOpen = false →
        let w := min 9000 (max 2000 (v.toNat % 2 ^ 16))
        write 0x1000 = .next { s with plim := BitVec.ofNat 16 w, plimThrottle := decide (w ≤ s.pmeas.toNat) }) ∧
      (∀ o : BitVec 25, s.resetRun ≠ none → o ≠ 0x1000 → o ≠ 0x1010 → write o = .next s) ∧
      (s.hostOpen = true →
        write 0x1008 = .next { s with twarnLvl := BitVec.ofNat 8 (min 105 (max 40 (v.toNat % 2 ^ 8))) } ∧
        (∀ (o : BitVec 25), o.toNat = 0x1100 + 8 * p.toNat →
          write o = .next (putCol { col with twarn := col.twarn && !v.getLsbD 1 })) ∧
        (∀ (o : BitVec 25), o.toNat = 0x20000 + 0x200 * p.toNat →
          let q := s.queues.get p
          (q.state ≠ .disabled → write o = .next s) ∧
          (q.state = .disabled → write o = .next { s with queues := s.queues.put p { q with base := v.extractLsb' 12 52 } })) ∧
        (s.tq.state = .disabled → write 0x31000 = .next { s with tq := { s.tq with base := v.extractLsb' 12 52 } })))

/-! ### Boot, leases, keys and quotes -/

/-- R51, R52, R54-R57, R60-R63: the management commands answer with a status byte and what they give: STATUS the two status
words, ENROLL only a vacant lease, STRIP unless one runs, READREC the record or zeros, READID the identity key, BASEUPD only
a valid image, into the copy not booted last; a quote follows when it is signed, in the order asked. STATUS, ENROLL, STRIP,
RECOVER, READREC, QUOTE, READID, BASEUPD, QUOTE_DONE and I3C_NAK complete so. (The model's choices: READREC before any strip, log
101; the status of an image that is not valid, log 114.) -/
def Obligations.ManagementCommands : Prop :=
  ∀ s : State,
    let told := fun (t : State) (b : List Byte) => { t with boot := { t.boot with replies := t.boot.replies ++ [some b] } }
    let put := fun (f : Boot → Boot) => { s with boot := f s.boot }
    (exec .status s = .next (told s (0 :: bytesOf 8 s.boot.bootstat.toNat ++ bytesOf 8 s.boot.stripstat.toNat)) ∧
      s.boot.bootstat.toNat % 2 ^ 4 = s.boot.stage.code ∧ s.boot.bootstat.toNat / 2 ^ 4 % 8 = s.boot.lease.code ∧
      s.boot.bootstat.toNat / 2 ^ 7 % 8 = s.boot.cust.code ∧ s.boot.bootstat.toNat / 2 ^ 16 % 2 ^ 16 = s.boot.baseVer.toNat ∧
      s.boot.bootstat.toNat / 2 ^ 32 % 2 ^ 16 = s.boot.custVer.toNat) ∧
    (∀ h v, s.boot.lease = .vacant → exec (.enroll h v) s =
      .next (told ((put fun b => { b with keyHash := h, minVer := v, lease := .enrolled }).signal 67) [0])) ∧
    (∀ h v, s.boot.lease ≠ .vacant → exec (.enroll h v) s = .next (told s [1])) ∧
    (∀ n, s.stripping = true → exec (.strip n) s = .next (told s [2])) ∧
    (∀ n, s.stripping = false → Gives (.strip n) s fun t => ∃ sent,
      t.boot.pend = true ∧ t.boot.lease = .stripping ∧ t.boot.nonce = n ∧ t.boot.replies = s.boot.replies ++ [some [0]] ∧
      t.resetRun = some ⟨true, 6, s.time, false, sent, false⟩ ∧ t.lastCause = 6 ∧ t.slots = s.slots ∧ t.hbm = s.hbm ∧ t.host = s.host) ∧
    (Gives .recover s fun t => ∃ sent, t.resetRun = some ⟨true, 5, s.time, false, sent, false⟩ ∧ t.lastCause = 5 ∧
      t.boot.replies = s.boot.replies ++ [some [0]] ∧ t.slots = s.slots ∧ t.hbm = s.hbm) ∧
    (s.stripping = true → exec .readrec s = .next (told s [1])) ∧
    (s.stripping = false → exec .readrec s =
      .next (told s (0 :: if s.boot.recValid then s.boot.stripRec else List.replicate 640 0))) ∧
    exec .readid s = .next (told s (0 :: bytesOf 64 Config.identityKey.toNat)) ∧
    (∀ n, (s.boot.stage = .base ∨ s.boot.stage = .custom) → exec (.quote n) s =
      .next (put fun b => { b with quotes := b.quotes ++ [⟨n, false⟩] })) ∧
    (∀ n, s.boot.stage ≠ .base → s.boot.stage ≠ .custom → exec (.quote n) s = .next (told s [1])) ∧
    (∀ img, s.stripping = false → baseValid false (some img) = true → exec (.baseupd img) s =
      .next (told (put fun b => { b with flash := b.flash.put ((b.lastCopy + 1).zeroExtend 2) (some img) }) [0])) ∧
    (∀ img, (s.stripping = true ∨ baseValid false (some img) = false) → exec (.baseupd img) s = .next (told s [1])) ∧
    (∀ c, exec (.i3cNak c) s = .next (put fun b => { b with replies := b.replies ++ [none] })) ∧
    (∀ n r, let u := State.reseed (put fun b => { b with quotes := r })
      (s.boot.quotes = ⟨n, false⟩ :: r → exec .quoteDone s = .next (told u (0 :: s.quote n))) ∧
      (s.boot.quotes = ⟨n, true⟩ :: r → exec .quoteDone s =
        .next { u with boot := { u.boot with qbuf := s.quote n, qdone := !(r.any fun q => q.byHost) } })) ∧
    (∀ n, ((s.quote n).take 16) = bytesOf 4 0x5451594C ++ bytesOf 4 1 ++ bytesOf 8 (fieldOf s.boot.stripRec 8 8) ∧
      ((s.quote n).drop 16).take 32 = bytesOf 32 n.toNat)

/-- R53, R55, R60, R62, R63: a load of firmware runs only for a lease, and its image replaces the customer slot only if it
passes every check of header, signature, body and version; LOAD and ZERO of a key slot are refused while the
device is stripped or the slot's handle is valid, LOAD of a data key equal to its tweak key too, and KEYDATA is cleared
whatever the outcome. FWCTL_GO, FW_LOAD_DONE, KEYCMD_LOAD, KEYCMD_ZERO and QCTL_GO complete so, while no reset runs. (A GO
without a runtime is ignored: log 29.) -/
def Obligations.FirmwareAndKeys : Prop :=
  (∀ (img : List Byte) (bad : Bool) (kind : Nat) (hash : BitVec 256) (v : Nat),
    let len := fieldOf img 12 4
    let body := (img.drop 256).take len
    let key := (img.drop 48).take 64
    imageFault img bad kind hash v = none ↔
      256 ≤ img.length ∧ fieldOf img 0 4 = 0x5746594C ∧ fieldOf img 4 2 = kind ∧ fieldOf img 6 2 = 1 ∧ 1 ≤ len ∧ len ≤ 2 ^ 24 ∧
      fieldOf img 10 2 = 0 ∧ fieldOf img 112 80 = 0 ∧ Config.sm3 key = hash ∧
      Config.sm2Verify key (img.take 192) ((img.drop 192).take 64) = true ∧ bad = false ∧ body.length = len ∧
      (Config.sm3 body).toNat = fieldOf img 16 32 ∧ v ≤ fieldOf img 8 2) ∧
  (∀ s : State,
    let put := fun (f : Boot → Boot) => { s with boot := f s.boot }
    let done := fun (st : BitVec 2) (f : Boot → Boot) =>
      put fun b => { f b with keyStatus := st, keyData := RegFile.fill 2 0 }
    let runtime := s.boot.stage = .base ∨ s.boot.stage = .custom
    let img := s.host.bytes s.boot.fwAddr.toNat s.boot.fwLen.toNat
    let data := s.boot.keyData.get 1 ++ s.boot.keyData.get 0
    let tweak := s.boot.keyData.get 3 ++ s.boot.keyData.get 2
    let busy := s.stripping = true ∨ s.boot.stage = .romhalt
    (s.boot.fwst = 1 →
      exec (.fwLoadDone 1) s = .next (put fun b => { b with fwst := 5 }) ∧
      (2 ^ 24 + 256 < s.boot.fwLen.toNat → exec (.fwLoadDone 0) s = .next (put fun b => { b with fwst := 3 })) ∧
      (s.boot.fwLen.toNat ≤ 2 ^ 24 + 256 → imageFault img false 2 s.boot.keyHash s.boot.minVer.toNat = none →
        exec (.fwLoadDone 0) s = .next (put fun b => { b with fwst := 2, flash := b.flash.put 2 (some img) })) ∧
      (s.boot.fwLen.toNat ≤ 2 ^ 24 + 256 → imageFault img false 2 s.boot.keyHash s.boot.minVer.toNat ≠ none →
        exec (.fwLoadDone 0) s = .next (put fun b => { b with fwst := 3 }))) ∧
    (s.resetRun = none →
      (s.stripping = false → s.boot.fwst ≠ 1 → runtime → exec .fwctlGo s =
        .next (put fun b => { b with fwst := if b.lease = .enrolled then 1 else 4 })) ∧
      ((s.boot.fwst = 1 ∨ ¬runtime) → exec .fwctlGo s = .next s) ∧
      (busy → exec .keycmdLoad s = .next (done 3 id) ∧ exec .keycmdZero s = .next (done 3 id)) ∧
      (¬busy → (s.entry s.boot.keySel).valid = true → exec .keycmdLoad s = .next (done 1 id) ∧ exec .keycmdZero s = .next (done 1 id)) ∧
      (¬busy → (s.entry s.boot.keySel).valid = false →
        (data = tweak → exec .keycmdLoad s = .next (done 2 id)) ∧
        (data ≠ tweak → Gives .keycmdLoad s fun t =>
          t.keyPair s.boot.keySel = (data, tweak) ∧ t.keyed s.boot.keySel = true ∧ t.boot.keyStatus = 0 ∧
          (∀ i, t.boot.keyData.get i = 0) ∧ t.hbm = s.hbm ∧ t.slots = s.slots ∧
          ∀ h, h ≠ s.boot.keySel → t.keyPair h = s.keyPair h ∧ t.keyed h = s.keyed h) ∧
        Gives .keycmdZero s fun t =>
          t.keyed s.boot.keySel = false ∧ t.boot.keyStatus = 0 ∧ (∀ i, t.boot.keyData.get i = 0) ∧ t.hbm = s.hbm ∧
          t.slots = s.slots ∧ ∀ h, h ≠ s.boot.keySel → t.keyPair h = s.keyPair h ∧ t.keyed h = s.keyed h) ∧
      (s.stripping = false → runtime → exec .qctlGo s = .next (put fun b => { b with
        qdone := false
        quotes := b.quotes ++ [⟨b.qnonce.get 3 ++ b.qnonce.get 2 ++ b.qnonce.get 1 ++ b.qnonce.get 0, true⟩] })) ∧
      (¬runtime → exec .qctlGo s = .next s)))

/-! ### Stated rules, the encoding, the whole machine -/

/-- R293: division never traps: DIV, DIVU, REM and REMU complete whatever the operands. With b = 0, DIV gives 2^64 − 1,
DIVU gives 2^64 − 1, and REM and REMU give a. With a = −2^63 and b = −1, DIV gives −2^63 and REM gives 0. -/
def Obligations.DivisionNeverTraps : Prop :=
  ∀ (s : State) (f : Focus) (d a b : BitVec 5), Ready s f [a, b] →
    let x := (s.slot f.slot).ctx.getX a
    let y := (s.slot f.slot).ctx.getX b
    (∃ v, WritesX (.div d a b) s f d v ∧ (y = 0 → v.toNat = 2 ^ 64 - 1) ∧
      (x.toInt = -(2 ^ 63) → y.toInt = -1 → v.toInt = -(2 ^ 63))) ∧
    (∃ v, WritesX (.divu d a b) s f d v ∧ (y = 0 → v.toNat = 2 ^ 64 - 1)) ∧
    (∃ v, WritesX (.rem d a b) s f d v ∧ (y = 0 → v = x) ∧ (x.toInt = -(2 ^ 63) → y.toInt = -1 → v = 0)) ∧
    (∃ v, WritesX (.remu d a b) s f d v ∧ (y = 0 → v = x))

/-- R344: VFABS clears the sign bit of each enabled lane and VFNEG inverts it; both act on the bit pattern, whatever FPCTL
says, set no flag and never trap: on every cell, of every floating-point type, they complete and change vD alone. -/
def Obligations.FloatSignBits : Prop :=
  ∀ (t : BitVec 4) (d a : BitVec 5) (m : BitVec 3), tyF t = true →
    let n := tyBits t.toNat
    ActsOnCells (.vfabs t d a m) anyCell (LanesOf n d m fun _ p k => lane n (p.getV a) k % 2 ^ (n - 1)) ∧
    ActsOnCells (.vfneg t d a m) anyCell (LanesOf n d m fun _ p k => lane n (p.getV a) k ^^^ 2 ^ (n - 1))

/-- R265-R276: for every instruction with an encoding and within its limits, the bundle that holds it alone, in any slot
that may hold it, decodes to it, with every operand; and a word that a slot decodes, with X set when an extension word
follows, is the encoding of what it decodes to. -/
def Obligations.DecodeOfEncode : Prop :=
  (∀ (i : Instr) (l : Layout), layout i = some l → i.wellFormed = true →
    let alone := fun (bit : Nat) (k : SlotName) =>
      decodeBundle (BitVec.ofNat 32 (2 ^ bit)) (encode i) = .ok ⟨false, [(k, i)], none, 1 + (encode i).length⟩
    (l.cls = .s → alone 24 .s) ∧ (l.cls = .v → alone 25 .v0) ∧ (l.cls = .v → v0Only l.op = false → alone 26 .v1) ∧
    (l.cls = .m → alone 27 .m) ∧ (l.cls = .c → alone 28 .c0) ∧ (l.cls = .c → c0Only l.op = false → alone 29 .c1) ∧
    (l.cls = .y → ∃ h ws, encode i = h :: ws ∧ decodeBundle h ws = .ok ⟨false, [], some i, 1 + ws.length⟩)) ∧
  (∀ (k : SlotName) (w : Word) (x : Option Word) (i : Instr), decodeSlot k w x = .ok i → w.getLsbD 31 = x.isSome →
    i.wellFormed = true ∧ encode i = w :: x.toList)

/-- R265-R274, R291, R319, R340, R358, R377, R392: words written out from the encodings decode to the instructions they
stand for: one S, V, M and C word, a sync field, a word with an extension word, and a bundle of three slots. -/
def Obligations.WordsDecode : Prop :=
  decodeSlot .s 0b0_0000000_00001_00010_00011_000000000 none = .ok (.add 1 2 3) ∧
  decodeSlot .s 0b1_0011000_00101_00110_00000000000000 (some 0xFFFFFFFF) = .ok (.addi 5 6 0 (some 0xFFFFFFFF)) ∧
  decodeSlot .v0 0b0_0000000_1101_00111_01000_01001_010_00 none = .ok (.vadd 13 7 8 9 2 none) ∧
  decodeSlot .m 0b0_0000000_101_001_010_01_10_1_1_000000000 none = .ok (.tmma 5 1 2 1 2 1 1) ∧
  decodeSlot .c0 0b0_0001000_0011_0_0101_0010_1_000111_000_1 none = .ok (.dst 3 5 2 1 7 1 none) ∧
  decodeSync 0b0_0_000000_00001_0011_000000000000101 none = .ok (some (.ywaitf 3 5)) ∧
  decodeBundle 0b0_0_000111_00111_0000000000000000000 [0b0_0000000_00001_00010_00011_000000000,
      0b0_0000000_1101_00111_01000_01001_010_00, 0b0_1101001_00000_0001_0_0010_0000000000] =
    .ok ⟨false, [(.s, .add 1 2 3), (.v0, .vadd 13 7 8 9 2 none), (.v1, .bmov 1 2)], some .ybar, 4⟩

/-- The memories and the handle table keep their canonical form at every step, whatever the step does: of HBM and host
memory, addresses rising and no byte listed that reads as an unlisted one does (log 2); of the table, handles rising and
none listed that is all zeros. -/
def Obligations.MemoriesStayInForm : Prop :=
  ∀ s t : State, s.MemoriesInForm → s.TableInForm → step s = .next t → t.MemoriesInForm ∧ t.TableInForm

/-- Every scratchpad keeps its canonical form at every step, those of the bundle in hand included (log 2). -/
def Obligations.ScratchpadsStayInForm : Prop :=
  ∀ s t : State, s.PadsInForm → step s = .next t → t.PadsInForm

/-- R5, R18-R23, R26, R42, R43, R63-R65, R76, R178, R263, R264: what the machine holds after reset: no context, no handle,
no queue enabled, no memory written, the power limit and the warning level at their Reset values, every vector masked, the
boot ROM due; the memories, the table and the scratchpads are in their forms; nothing is enabled until the links have trained, and
then the end of the reset alone. (The model's choices: LASTCAUSE 0, log 1; a byte that nothing has written reads zero, log 2; the
lease VACANT, log 3; the vectors masked, none pending, log 4.) -/
def Obligations.ResetState : Prop :=
  let s := State.reset
  s.MemoriesInForm ∧ s.TableInForm ∧ s.PadsInForm ∧
  (∀ c, (s.slot c).state = .free ∧ (s.slot c).life = 0) ∧ (∀ h, s.entry h = Handle.zero) ∧
  (∀ q, (s.queues.get q).state = .disabled ∧ (s.queues.get q).head = 0 ∧ (s.queues.get q).tail = 0 ∧ (s.queues.get q).size = 4) ∧
  (∀ i, s.sigobj.get i = 0) ∧ s.tq.state = .disabled ∧ s.tq.size = 6 ∧ s.tq.wdms = 1000 ∧
  s.plim = 9000 ∧ s.twarnLvl = 95 ∧ s.podtmo = 100 ∧ s.podValid = false ∧ s.devnum = 0 ∧ (∀ r, s.podrt.get r = 0) ∧
  s.transl.rootEn = false ∧ s.transl.root = 0 ∧ s.transl.tinvBusy = false ∧ s.transl.rst = 0 ∧
  (∀ v : Nat, v < 69 → s.msixMask.getLsbD v = true) ∧ s.msixPend = 0 ∧ s.snap.armed = true ∧ s.snap.missed = 0 ∧
  s.boot.pending = true ∧ s.boot.lease = .vacant ∧ s.boot.stage = .rom ∧ s.lastCause = 0 ∧
  (∀ h a, s.rdMem h a 1 = [0]) ∧ (∀ n, (s.links.get n).state = .training) ∧ enabled s = [] ∧
  ∀ l : RegFile Link 4, (l.any fun k => k.state == .training) = false → enabled { s with links := l } = [.resetComplete]

/-- R252, R255, R287-R290: no instruction and no event is refused, and none stops the machine but a bundle fetch at an
address beyond the 2^41 bytes of HBM (R175), for which the manual gives no behaviour: every exec answers a next state, and
so does every step that fetches nothing there. -/
def Obligations.EveryStepGoesOn : Prop :=
  (∀ (i : Instr) (s : State), (∀ c k, i ≠ .bundleFetch c k) → Completes (exec i s)) ∧
  (∀ (c : BitVec 4) (k : BitVec 3) (s : State), Completes (exec (.bundleFetch c k) s) ∨ ∃ a, exec (.bundleFetch c k) s = .fault (.outsideHbm a)) ∧
  (∀ s : State, Completes (step s) ∨ ∃ a, step s = .fault (.outsideHbm a))
end

