-- ==== Sys2Proof/Laws/State.lean ====
section
/-!
SUPPORT. What each named update of a record leaves as it was, one lemma per field, so that no later proof unfolds a record
update; and what it puts in place.
-/
namespace Sys2Proof.Machine
open Sys2Proof

/-! ### Updates of the state -/

@[simp] theorem State.putSlot_time (s : State) (c : BitVec 4) (x : Slot) : (s.putSlot c x).time = s.time := rfl
@[simp] theorem State.putSlot_lastCause (s : State) (c : BitVec 4) (x : Slot) : (s.putSlot c x).lastCause = s.lastCause := rfl
@[simp] theorem State.putSlot_resetRun (s : State) (c : BitVec 4) (x : Slot) : (s.putSlot c x).resetRun = s.resetRun := rfl
@[simp] theorem State.putSlot_regionsUp (s : State) (c : BitVec 4) (x : Slot) : (s.putSlot c x).regionsUp = s.regionsUp := rfl
@[simp] theorem State.putSlot_selfTests (s : State) (c : BitVec 4) (x : Slot) : (s.putSlot c x).selfTests = s.selfTests := rfl
@[simp] theorem State.putSlot_d3hot (s : State) (c : BitVec 4) (x : Slot) : (s.putSlot c x).d3hot = s.d3hot := rfl
@[simp] theorem State.putSlot_pmeas (s : State) (c : BitVec 4) (x : Slot) : (s.putSlot c x).pmeas = s.pmeas := rfl
@[simp] theorem State.putSlot_plim (s : State) (c : BitVec 4) (x : Slot) : (s.putSlot c x).plim = s.plim := rfl
@[simp] theorem State.putSlot_plimThrottle (s : State) (c : BitVec 4) (x : Slot) : (s.putSlot c x).plimThrottle = s.plimThrottle := rfl
@[simp] theorem State.putSlot_twarnLvl (s : State) (c : BitVec 4) (x : Slot) : (s.putSlot c x).twarnLvl = s.twarnLvl := rfl
@[simp] theorem State.putSlot_columns (s : State) (c : BitVec 4) (x : Slot) : (s.putSlot c x).columns = s.columns := rfl
@[simp] theorem State.putSlot_istep (s : State) (c : BitVec 4) (x : Slot) : (s.putSlot c x).istep = s.istep := rfl
@[simp] theorem State.putSlot_throttled (s : State) (c : BitVec 4) (x : Slot) : (s.putSlot c x).throttled = s.throttled := rfl
@[simp] theorem State.putSlot_links (s : State) (c : BitVec 4) (x : Slot) : (s.putSlot c x).links = s.links := rfl
@[simp] theorem State.putSlot_podtmo (s : State) (c : BitVec 4) (x : Slot) : (s.putSlot c x).podtmo = s.podtmo := rfl
@[simp] theorem State.putSlot_podValid (s : State) (c : BitVec 4) (x : Slot) : (s.putSlot c x).podValid = s.podValid := rfl
@[simp] theorem State.putSlot_devnum (s : State) (c : BitVec 4) (x : Slot) : (s.putSlot c x).devnum = s.devnum := rfl
@[simp] theorem State.putSlot_podrt (s : State) (c : BitVec 4) (x : Slot) : (s.putSlot c x).podrt = s.podrt := rfl
@[simp] theorem State.putSlot_flits (s : State) (c : BitVec 4) (x : Slot) : (s.putSlot c x).flits = s.flits := rfl
@[simp] theorem State.putSlot_podArrived (s : State) (c : BitVec 4) (x : Slot) : (s.putSlot c x).podArrived = s.podArrived := rfl
@[simp] theorem State.putSlot_podHeld (s : State) (c : BitVec 4) (x : Slot) : (s.putSlot c x).podHeld = s.podHeld := rfl
@[simp] theorem State.putSlot_podBlocked (s : State) (c : BitVec 4) (x : Slot) : (s.putSlot c x).podBlocked = s.podBlocked := rfl
@[simp] theorem State.putSlot_podWaiting (s : State) (c : BitVec 4) (x : Slot) : (s.putSlot c x).podWaiting = s.podWaiting := rfl
@[simp] theorem State.putSlot_podDone (s : State) (c : BitVec 4) (x : Slot) : (s.putSlot c x).podDone = s.podDone := rfl
@[simp] theorem State.putSlot_msixTable (s : State) (c : BitVec 4) (x : Slot) : (s.putSlot c x).msixTable = s.msixTable := rfl
@[simp] theorem State.putSlot_msixMask (s : State) (c : BitVec 4) (x : Slot) : (s.putSlot c x).msixMask = s.msixMask := rfl
@[simp] theorem State.putSlot_msixPend (s : State) (c : BitVec 4) (x : Slot) : (s.putSlot c x).msixPend = s.msixPend := rfl
@[simp] theorem State.putSlot_messages (s : State) (c : BitVec 4) (x : Slot) : (s.putSlot c x).messages = s.messages := rfl
@[simp] theorem State.putSlot_boot (s : State) (c : BitVec 4) (x : Slot) : (s.putSlot c x).boot = s.boot := rfl
@[simp] theorem State.putSlot_queues (s : State) (c : BitVec 4) (x : Slot) : (s.putSlot c x).queues = s.queues := rfl
@[simp] theorem State.putSlot_sigobj (s : State) (c : BitVec 4) (x : Slot) : (s.putSlot c x).sigobj = s.sigobj := rfl
@[simp] theorem State.putSlot_families (s : State) (c : BitVec 4) (x : Slot) : (s.putSlot c x).families = s.families := rfl
@[simp] theorem State.putSlot_famNo (s : State) (c : BitVec 4) (x : Slot) : (s.putSlot c x).famNo = s.famNo := rfl
@[simp] theorem State.putSlot_schedDue (s : State) (c : BitVec 4) (x : Slot) : (s.putSlot c x).schedDue = s.schedDue := rfl
@[simp] theorem State.putSlot_schedAt (s : State) (c : BitVec 4) (x : Slot) : (s.putSlot c x).schedAt = s.schedAt := rfl
@[simp] theorem State.putSlot_transl (s : State) (c : BitVec 4) (x : Slot) : (s.putSlot c x).transl = s.transl := rfl
@[simp] theorem State.putSlot_pdies (s : State) (c : BitVec 4) (x : Slot) : (s.putSlot c x).pdies = s.pdies := rfl
@[simp] theorem State.putSlot_hbm (s : State) (c : BitVec 4) (x : Slot) : (s.putSlot c x).hbm = s.hbm := rfl
@[simp] theorem State.putSlot_host (s : State) (c : BitVec 4) (x : Slot) : (s.putSlot c x).host = s.host := rfl
@[simp] theorem State.putSlot_tq (s : State) (c : BitVec 4) (x : Slot) : (s.putSlot c x).tq = s.tq := rfl
@[simp] theorem State.putSlot_parks (s : State) (c : BitVec 4) (x : Slot) : (s.putSlot c x).parks = s.parks := rfl
@[simp] theorem State.putSlot_snap (s : State) (c : BitVec 4) (x : Slot) : (s.putSlot c x).snap = s.snap := rfl
@[simp] theorem State.putSlot_fresh (s : State) (c : BitVec 4) (x : Slot) : (s.putSlot c x).fresh = s.fresh := rfl
@[simp] theorem State.putSlot_inputs (s : State) (c : BitVec 4) (x : Slot) : (s.putSlot c x).inputs = s.inputs := rfl
@[simp] theorem State.putSlot_focus (s : State) (c : BitVec 4) (x : Slot) : (s.putSlot c x).focus = s.focus := rfl
@[simp] theorem State.putSlot_work (s : State) (c : BitVec 4) (x : Slot) : (s.putSlot c x).work = s.work := rfl
@[simp] theorem State.putSlot_posted (s : State) (c : BitVec 4) (x : Slot) : (s.putSlot c x).posted = s.posted := rfl

@[simp] theorem State.onSlot_time (s : State) (c : BitVec 4) (f : Slot → Slot) : (s.onSlot c f).time = s.time := rfl
@[simp] theorem State.onSlot_lastCause (s : State) (c : BitVec 4) (f : Slot → Slot) : (s.onSlot c f).lastCause = s.lastCause := rfl
@[simp] theorem State.onSlot_resetRun (s : State) (c : BitVec 4) (f : Slot → Slot) : (s.onSlot c f).resetRun = s.resetRun := rfl
@[simp] theorem State.onSlot_regionsUp (s : State) (c : BitVec 4) (f : Slot → Slot) : (s.onSlot c f).regionsUp = s.regionsUp := rfl
@[simp] theorem State.onSlot_selfTests (s : State) (c : BitVec 4) (f : Slot → Slot) : (s.onSlot c f).selfTests = s.selfTests := rfl
@[simp] theorem State.onSlot_d3hot (s : State) (c : BitVec 4) (f : Slot → Slot) : (s.onSlot c f).d3hot = s.d3hot := rfl
@[simp] theorem State.onSlot_pmeas (s : State) (c : BitVec 4) (f : Slot → Slot) : (s.onSlot c f).pmeas = s.pmeas := rfl
@[simp] theorem State.onSlot_plim (s : State) (c : BitVec 4) (f : Slot → Slot) : (s.onSlot c f).plim = s.plim := rfl
@[simp] theorem State.onSlot_plimThrottle (s : State) (c : BitVec 4) (f : Slot → Slot) : (s.onSlot c f).plimThrottle = s.plimThrottle := rfl
@[simp] theorem State.onSlot_twarnLvl (s : State) (c : BitVec 4) (f : Slot → Slot) : (s.onSlot c f).twarnLvl = s.twarnLvl := rfl
@[simp] theorem State.onSlot_columns (s : State) (c : BitVec 4) (f : Slot → Slot) : (s.onSlot c f).columns = s.columns := rfl
@[simp] theorem State.onSlot_istep (s : State) (c : BitVec 4) (f : Slot → Slot) : (s.onSlot c f).istep = s.istep := rfl
@[simp] theorem State.onSlot_throttled (s : State) (c : BitVec 4) (f : Slot → Slot) : (s.onSlot c f).throttled = s.throttled := rfl
@[simp] theorem State.onSlot_links (s : State) (c : BitVec 4) (f : Slot → Slot) : (s.onSlot c f).links = s.links := rfl
@[simp] theorem State.onSlot_podtmo (s : State) (c : BitVec 4) (f : Slot → Slot) : (s.onSlot c f).podtmo = s.podtmo := rfl
@[simp] theorem State.onSlot_podValid (s : State) (c : BitVec 4) (f : Slot → Slot) : (s.onSlot c f).podValid = s.podValid := rfl
@[simp] theorem State.onSlot_devnum (s : State) (c : BitVec 4) (f : Slot → Slot) : (s.onSlot c f).devnum = s.devnum := rfl
@[simp] theorem State.onSlot_podrt (s : State) (c : BitVec 4) (f : Slot → Slot) : (s.onSlot c f).podrt = s.podrt := rfl
@[simp] theorem State.onSlot_flits (s : State) (c : BitVec 4) (f : Slot → Slot) : (s.onSlot c f).flits = s.flits := rfl
@[simp] theorem State.onSlot_podArrived (s : State) (c : BitVec 4) (f : Slot → Slot) : (s.onSlot c f).podArrived = s.podArrived := rfl
@[simp] theorem State.onSlot_podHeld (s : State) (c : BitVec 4) (f : Slot → Slot) : (s.onSlot c f).podHeld = s.podHeld := rfl
@[simp] theorem State.onSlot_podBlocked (s : State) (c : BitVec 4) (f : Slot → Slot) : (s.onSlot c f).podBlocked = s.podBlocked := rfl
@[simp] theorem State.onSlot_podWaiting (s : State) (c : BitVec 4) (f : Slot → Slot) : (s.onSlot c f).podWaiting = s.podWaiting := rfl
@[simp] theorem State.onSlot_podDone (s : State) (c : BitVec 4) (f : Slot → Slot) : (s.onSlot c f).podDone = s.podDone := rfl
@[simp] theorem State.onSlot_msixTable (s : State) (c : BitVec 4) (f : Slot → Slot) : (s.onSlot c f).msixTable = s.msixTable := rfl
@[simp] theorem State.onSlot_msixMask (s : State) (c : BitVec 4) (f : Slot → Slot) : (s.onSlot c f).msixMask = s.msixMask := rfl
@[simp] theorem State.onSlot_msixPend (s : State) (c : BitVec 4) (f : Slot → Slot) : (s.onSlot c f).msixPend = s.msixPend := rfl
@[simp] theorem State.onSlot_messages (s : State) (c : BitVec 4) (f : Slot → Slot) : (s.onSlot c f).messages = s.messages := rfl
@[simp] theorem State.onSlot_boot (s : State) (c : BitVec 4) (f : Slot → Slot) : (s.onSlot c f).boot = s.boot := rfl
@[simp] theorem State.onSlot_queues (s : State) (c : BitVec 4) (f : Slot → Slot) : (s.onSlot c f).queues = s.queues := rfl
@[simp] theorem State.onSlot_sigobj (s : State) (c : BitVec 4) (f : Slot → Slot) : (s.onSlot c f).sigobj = s.sigobj := rfl
@[simp] theorem State.onSlot_families (s : State) (c : BitVec 4) (f : Slot → Slot) : (s.onSlot c f).families = s.families := rfl
@[simp] theorem State.onSlot_famNo (s : State) (c : BitVec 4) (f : Slot → Slot) : (s.onSlot c f).famNo = s.famNo := rfl
@[simp] theorem State.onSlot_schedDue (s : State) (c : BitVec 4) (f : Slot → Slot) : (s.onSlot c f).schedDue = s.schedDue := rfl
@[simp] theorem State.onSlot_schedAt (s : State) (c : BitVec 4) (f : Slot → Slot) : (s.onSlot c f).schedAt = s.schedAt := rfl
@[simp] theorem State.onSlot_transl (s : State) (c : BitVec 4) (f : Slot → Slot) : (s.onSlot c f).transl = s.transl := rfl
@[simp] theorem State.onSlot_pdies (s : State) (c : BitVec 4) (f : Slot → Slot) : (s.onSlot c f).pdies = s.pdies := rfl
@[simp] theorem State.onSlot_hbm (s : State) (c : BitVec 4) (f : Slot → Slot) : (s.onSlot c f).hbm = s.hbm := rfl
@[simp] theorem State.onSlot_host (s : State) (c : BitVec 4) (f : Slot → Slot) : (s.onSlot c f).host = s.host := rfl
@[simp] theorem State.onSlot_tq (s : State) (c : BitVec 4) (f : Slot → Slot) : (s.onSlot c f).tq = s.tq := rfl
@[simp] theorem State.onSlot_parks (s : State) (c : BitVec 4) (f : Slot → Slot) : (s.onSlot c f).parks = s.parks := rfl
@[simp] theorem State.onSlot_snap (s : State) (c : BitVec 4) (f : Slot → Slot) : (s.onSlot c f).snap = s.snap := rfl
@[simp] theorem State.onSlot_fresh (s : State) (c : BitVec 4) (f : Slot → Slot) : (s.onSlot c f).fresh = s.fresh := rfl
@[simp] theorem State.onSlot_inputs (s : State) (c : BitVec 4) (f : Slot → Slot) : (s.onSlot c f).inputs = s.inputs := rfl
@[simp] theorem State.onSlot_focus (s : State) (c : BitVec 4) (f : Slot → Slot) : (s.onSlot c f).focus = s.focus := rfl
@[simp] theorem State.onSlot_work (s : State) (c : BitVec 4) (f : Slot → Slot) : (s.onSlot c f).work = s.work := rfl
@[simp] theorem State.onSlot_posted (s : State) (c : BitVec 4) (f : Slot → Slot) : (s.onSlot c f).posted = s.posted := rfl

@[simp] theorem State.onCtx_time (s : State) (c : BitVec 4) (f : Ctx → Ctx) : (s.onCtx c f).time = s.time := rfl
@[simp] theorem State.onCtx_lastCause (s : State) (c : BitVec 4) (f : Ctx → Ctx) : (s.onCtx c f).lastCause = s.lastCause := rfl
@[simp] theorem State.onCtx_resetRun (s : State) (c : BitVec 4) (f : Ctx → Ctx) : (s.onCtx c f).resetRun = s.resetRun := rfl
@[simp] theorem State.onCtx_regionsUp (s : State) (c : BitVec 4) (f : Ctx → Ctx) : (s.onCtx c f).regionsUp = s.regionsUp := rfl
@[simp] theorem State.onCtx_selfTests (s : State) (c : BitVec 4) (f : Ctx → Ctx) : (s.onCtx c f).selfTests = s.selfTests := rfl
@[simp] theorem State.onCtx_d3hot (s : State) (c : BitVec 4) (f : Ctx → Ctx) : (s.onCtx c f).d3hot = s.d3hot := rfl
@[simp] theorem State.onCtx_pmeas (s : State) (c : BitVec 4) (f : Ctx → Ctx) : (s.onCtx c f).pmeas = s.pmeas := rfl
@[simp] theorem State.onCtx_plim (s : State) (c : BitVec 4) (f : Ctx → Ctx) : (s.onCtx c f).plim = s.plim := rfl
@[simp] theorem State.onCtx_plimThrottle (s : State) (c : BitVec 4) (f : Ctx → Ctx) : (s.onCtx c f).plimThrottle = s.plimThrottle := rfl
@[simp] theorem State.onCtx_twarnLvl (s : State) (c : BitVec 4) (f : Ctx → Ctx) : (s.onCtx c f).twarnLvl = s.twarnLvl := rfl
@[simp] theorem State.onCtx_columns (s : State) (c : BitVec 4) (f : Ctx → Ctx) : (s.onCtx c f).columns = s.columns := rfl
@[simp] theorem State.onCtx_istep (s : State) (c : BitVec 4) (f : Ctx → Ctx) : (s.onCtx c f).istep = s.istep := rfl
@[simp] theorem State.onCtx_throttled (s : State) (c : BitVec 4) (f : Ctx → Ctx) : (s.onCtx c f).throttled = s.throttled := rfl
@[simp] theorem State.onCtx_links (s : State) (c : BitVec 4) (f : Ctx → Ctx) : (s.onCtx c f).links = s.links := rfl
@[simp] theorem State.onCtx_podtmo (s : State) (c : BitVec 4) (f : Ctx → Ctx) : (s.onCtx c f).podtmo = s.podtmo := rfl
@[simp] theorem State.onCtx_podValid (s : State) (c : BitVec 4) (f : Ctx → Ctx) : (s.onCtx c f).podValid = s.podValid := rfl
@[simp] theorem State.onCtx_devnum (s : State) (c : BitVec 4) (f : Ctx → Ctx) : (s.onCtx c f).devnum = s.devnum := rfl
@[simp] theorem State.onCtx_podrt (s : State) (c : BitVec 4) (f : Ctx → Ctx) : (s.onCtx c f).podrt = s.podrt := rfl
@[simp] theorem State.onCtx_flits (s : State) (c : BitVec 4) (f : Ctx → Ctx) : (s.onCtx c f).flits = s.flits := rfl
@[simp] theorem State.onCtx_podArrived (s : State) (c : BitVec 4) (f : Ctx → Ctx) : (s.onCtx c f).podArrived = s.podArrived := rfl
@[simp] theorem State.onCtx_podHeld (s : State) (c : BitVec 4) (f : Ctx → Ctx) : (s.onCtx c f).podHeld = s.podHeld := rfl
@[simp] theorem State.onCtx_podBlocked (s : State) (c : BitVec 4) (f : Ctx → Ctx) : (s.onCtx c f).podBlocked = s.podBlocked := rfl
@[simp] theorem State.onCtx_podWaiting (s : State) (c : BitVec 4) (f : Ctx → Ctx) : (s.onCtx c f).podWaiting = s.podWaiting := rfl
@[simp] theorem State.onCtx_podDone (s : State) (c : BitVec 4) (f : Ctx → Ctx) : (s.onCtx c f).podDone = s.podDone := rfl
@[simp] theorem State.onCtx_msixTable (s : State) (c : BitVec 4) (f : Ctx → Ctx) : (s.onCtx c f).msixTable = s.msixTable := rfl
@[simp] theorem State.onCtx_msixMask (s : State) (c : BitVec 4) (f : Ctx → Ctx) : (s.onCtx c f).msixMask = s.msixMask := rfl
@[simp] theorem State.onCtx_msixPend (s : State) (c : BitVec 4) (f : Ctx → Ctx) : (s.onCtx c f).msixPend = s.msixPend := rfl
@[simp] theorem State.onCtx_messages (s : State) (c : BitVec 4) (f : Ctx → Ctx) : (s.onCtx c f).messages = s.messages := rfl
@[simp] theorem State.onCtx_boot (s : State) (c : BitVec 4) (f : Ctx → Ctx) : (s.onCtx c f).boot = s.boot := rfl
@[simp] theorem State.onCtx_queues (s : State) (c : BitVec 4) (f : Ctx → Ctx) : (s.onCtx c f).queues = s.queues := rfl
@[simp] theorem State.onCtx_sigobj (s : State) (c : BitVec 4) (f : Ctx → Ctx) : (s.onCtx c f).sigobj = s.sigobj := rfl
@[simp] theorem State.onCtx_families (s : State) (c : BitVec 4) (f : Ctx → Ctx) : (s.onCtx c f).families = s.families := rfl
@[simp] theorem State.onCtx_famNo (s : State) (c : BitVec 4) (f : Ctx → Ctx) : (s.onCtx c f).famNo = s.famNo := rfl
@[simp] theorem State.onCtx_schedDue (s : State) (c : BitVec 4) (f : Ctx → Ctx) : (s.onCtx c f).schedDue = s.schedDue := rfl
@[simp] theorem State.onCtx_schedAt (s : State) (c : BitVec 4) (f : Ctx → Ctx) : (s.onCtx c f).schedAt = s.schedAt := rfl
@[simp] theorem State.onCtx_transl (s : State) (c : BitVec 4) (f : Ctx → Ctx) : (s.onCtx c f).transl = s.transl := rfl
@[simp] theorem State.onCtx_pdies (s : State) (c : BitVec 4) (f : Ctx → Ctx) : (s.onCtx c f).pdies = s.pdies := rfl
@[simp] theorem State.onCtx_hbm (s : State) (c : BitVec 4) (f : Ctx → Ctx) : (s.onCtx c f).hbm = s.hbm := rfl
@[simp] theorem State.onCtx_host (s : State) (c : BitVec 4) (f : Ctx → Ctx) : (s.onCtx c f).host = s.host := rfl
@[simp] theorem State.onCtx_tq (s : State) (c : BitVec 4) (f : Ctx → Ctx) : (s.onCtx c f).tq = s.tq := rfl
@[simp] theorem State.onCtx_parks (s : State) (c : BitVec 4) (f : Ctx → Ctx) : (s.onCtx c f).parks = s.parks := rfl
@[simp] theorem State.onCtx_snap (s : State) (c : BitVec 4) (f : Ctx → Ctx) : (s.onCtx c f).snap = s.snap := rfl
@[simp] theorem State.onCtx_fresh (s : State) (c : BitVec 4) (f : Ctx → Ctx) : (s.onCtx c f).fresh = s.fresh := rfl
@[simp] theorem State.onCtx_inputs (s : State) (c : BitVec 4) (f : Ctx → Ctx) : (s.onCtx c f).inputs = s.inputs := rfl
@[simp] theorem State.onCtx_focus (s : State) (c : BitVec 4) (f : Ctx → Ctx) : (s.onCtx c f).focus = s.focus := rfl
@[simp] theorem State.onCtx_work (s : State) (c : BitVec 4) (f : Ctx → Ctx) : (s.onCtx c f).work = s.work := rfl
@[simp] theorem State.onCtx_posted (s : State) (c : BitVec 4) (f : Ctx → Ctx) : (s.onCtx c f).posted = s.posted := rfl

@[simp] theorem State.onPdie_time (s : State) (p : BitVec 6) (f : PDie → PDie) : (s.onPdie p f).time = s.time := rfl
@[simp] theorem State.onPdie_lastCause (s : State) (p : BitVec 6) (f : PDie → PDie) : (s.onPdie p f).lastCause = s.lastCause := rfl
@[simp] theorem State.onPdie_resetRun (s : State) (p : BitVec 6) (f : PDie → PDie) : (s.onPdie p f).resetRun = s.resetRun := rfl
@[simp] theorem State.onPdie_regionsUp (s : State) (p : BitVec 6) (f : PDie → PDie) : (s.onPdie p f).regionsUp = s.regionsUp := rfl
@[simp] theorem State.onPdie_selfTests (s : State) (p : BitVec 6) (f : PDie → PDie) : (s.onPdie p f).selfTests = s.selfTests := rfl
@[simp] theorem State.onPdie_d3hot (s : State) (p : BitVec 6) (f : PDie → PDie) : (s.onPdie p f).d3hot = s.d3hot := rfl
@[simp] theorem State.onPdie_pmeas (s : State) (p : BitVec 6) (f : PDie → PDie) : (s.onPdie p f).pmeas = s.pmeas := rfl
@[simp] theorem State.onPdie_plim (s : State) (p : BitVec 6) (f : PDie → PDie) : (s.onPdie p f).plim = s.plim := rfl
@[simp] theorem State.onPdie_plimThrottle (s : State) (p : BitVec 6) (f : PDie → PDie) : (s.onPdie p f).plimThrottle = s.plimThrottle := rfl
@[simp] theorem State.onPdie_twarnLvl (s : State) (p : BitVec 6) (f : PDie → PDie) : (s.onPdie p f).twarnLvl = s.twarnLvl := rfl
@[simp] theorem State.onPdie_columns (s : State) (p : BitVec 6) (f : PDie → PDie) : (s.onPdie p f).columns = s.columns := rfl
@[simp] theorem State.onPdie_istep (s : State) (p : BitVec 6) (f : PDie → PDie) : (s.onPdie p f).istep = s.istep := rfl
@[simp] theorem State.onPdie_throttled (s : State) (p : BitVec 6) (f : PDie → PDie) : (s.onPdie p f).throttled = s.throttled := rfl
@[simp] theorem State.onPdie_links (s : State) (p : BitVec 6) (f : PDie → PDie) : (s.onPdie p f).links = s.links := rfl
@[simp] theorem State.onPdie_podtmo (s : State) (p : BitVec 6) (f : PDie → PDie) : (s.onPdie p f).podtmo = s.podtmo := rfl
@[simp] theorem State.onPdie_podValid (s : State) (p : BitVec 6) (f : PDie → PDie) : (s.onPdie p f).podValid = s.podValid := rfl
@[simp] theorem State.onPdie_devnum (s : State) (p : BitVec 6) (f : PDie → PDie) : (s.onPdie p f).devnum = s.devnum := rfl
@[simp] theorem State.onPdie_podrt (s : State) (p : BitVec 6) (f : PDie → PDie) : (s.onPdie p f).podrt = s.podrt := rfl
@[simp] theorem State.onPdie_flits (s : State) (p : BitVec 6) (f : PDie → PDie) : (s.onPdie p f).flits = s.flits := rfl
@[simp] theorem State.onPdie_podArrived (s : State) (p : BitVec 6) (f : PDie → PDie) : (s.onPdie p f).podArrived = s.podArrived := rfl
@[simp] theorem State.onPdie_podHeld (s : State) (p : BitVec 6) (f : PDie → PDie) : (s.onPdie p f).podHeld = s.podHeld := rfl
@[simp] theorem State.onPdie_podBlocked (s : State) (p : BitVec 6) (f : PDie → PDie) : (s.onPdie p f).podBlocked = s.podBlocked := rfl
@[simp] theorem State.onPdie_podWaiting (s : State) (p : BitVec 6) (f : PDie → PDie) : (s.onPdie p f).podWaiting = s.podWaiting := rfl
@[simp] theorem State.onPdie_podDone (s : State) (p : BitVec 6) (f : PDie → PDie) : (s.onPdie p f).podDone = s.podDone := rfl
@[simp] theorem State.onPdie_msixTable (s : State) (p : BitVec 6) (f : PDie → PDie) : (s.onPdie p f).msixTable = s.msixTable := rfl
@[simp] theorem State.onPdie_msixMask (s : State) (p : BitVec 6) (f : PDie → PDie) : (s.onPdie p f).msixMask = s.msixMask := rfl
@[simp] theorem State.onPdie_msixPend (s : State) (p : BitVec 6) (f : PDie → PDie) : (s.onPdie p f).msixPend = s.msixPend := rfl
@[simp] theorem State.onPdie_messages (s : State) (p : BitVec 6) (f : PDie → PDie) : (s.onPdie p f).messages = s.messages := rfl
@[simp] theorem State.onPdie_boot (s : State) (p : BitVec 6) (f : PDie → PDie) : (s.onPdie p f).boot = s.boot := rfl
@[simp] theorem State.onPdie_queues (s : State) (p : BitVec 6) (f : PDie → PDie) : (s.onPdie p f).queues = s.queues := rfl
@[simp] theorem State.onPdie_sigobj (s : State) (p : BitVec 6) (f : PDie → PDie) : (s.onPdie p f).sigobj = s.sigobj := rfl
@[simp] theorem State.onPdie_families (s : State) (p : BitVec 6) (f : PDie → PDie) : (s.onPdie p f).families = s.families := rfl
@[simp] theorem State.onPdie_famNo (s : State) (p : BitVec 6) (f : PDie → PDie) : (s.onPdie p f).famNo = s.famNo := rfl
@[simp] theorem State.onPdie_slots (s : State) (p : BitVec 6) (f : PDie → PDie) : (s.onPdie p f).slots = s.slots := rfl
@[simp] theorem State.onPdie_schedDue (s : State) (p : BitVec 6) (f : PDie → PDie) : (s.onPdie p f).schedDue = s.schedDue := rfl
@[simp] theorem State.onPdie_schedAt (s : State) (p : BitVec 6) (f : PDie → PDie) : (s.onPdie p f).schedAt = s.schedAt := rfl
@[simp] theorem State.onPdie_transl (s : State) (p : BitVec 6) (f : PDie → PDie) : (s.onPdie p f).transl = s.transl := rfl
@[simp] theorem State.onPdie_hbm (s : State) (p : BitVec 6) (f : PDie → PDie) : (s.onPdie p f).hbm = s.hbm := rfl
@[simp] theorem State.onPdie_host (s : State) (p : BitVec 6) (f : PDie → PDie) : (s.onPdie p f).host = s.host := rfl
@[simp] theorem State.onPdie_tq (s : State) (p : BitVec 6) (f : PDie → PDie) : (s.onPdie p f).tq = s.tq := rfl
@[simp] theorem State.onPdie_parks (s : State) (p : BitVec 6) (f : PDie → PDie) : (s.onPdie p f).parks = s.parks := rfl
@[simp] theorem State.onPdie_snap (s : State) (p : BitVec 6) (f : PDie → PDie) : (s.onPdie p f).snap = s.snap := rfl
@[simp] theorem State.onPdie_fresh (s : State) (p : BitVec 6) (f : PDie → PDie) : (s.onPdie p f).fresh = s.fresh := rfl
@[simp] theorem State.onPdie_inputs (s : State) (p : BitVec 6) (f : PDie → PDie) : (s.onPdie p f).inputs = s.inputs := rfl
@[simp] theorem State.onPdie_focus (s : State) (p : BitVec 6) (f : PDie → PDie) : (s.onPdie p f).focus = s.focus := rfl
@[simp] theorem State.onPdie_work (s : State) (p : BitVec 6) (f : PDie → PDie) : (s.onPdie p f).work = s.work := rfl
@[simp] theorem State.onPdie_posted (s : State) (p : BitVec 6) (f : PDie → PDie) : (s.onPdie p f).posted = s.posted := rfl

@[simp] theorem State.setSres_time (s : State) (r : SRes) : (s.setSres r).time = s.time := rfl
@[simp] theorem State.setSres_lastCause (s : State) (r : SRes) : (s.setSres r).lastCause = s.lastCause := rfl
@[simp] theorem State.setSres_resetRun (s : State) (r : SRes) : (s.setSres r).resetRun = s.resetRun := rfl
@[simp] theorem State.setSres_regionsUp (s : State) (r : SRes) : (s.setSres r).regionsUp = s.regionsUp := rfl
@[simp] theorem State.setSres_selfTests (s : State) (r : SRes) : (s.setSres r).selfTests = s.selfTests := rfl
@[simp] theorem State.setSres_d3hot (s : State) (r : SRes) : (s.setSres r).d3hot = s.d3hot := rfl
@[simp] theorem State.setSres_pmeas (s : State) (r : SRes) : (s.setSres r).pmeas = s.pmeas := rfl
@[simp] theorem State.setSres_plim (s : State) (r : SRes) : (s.setSres r).plim = s.plim := rfl
@[simp] theorem State.setSres_plimThrottle (s : State) (r : SRes) : (s.setSres r).plimThrottle = s.plimThrottle := rfl
@[simp] theorem State.setSres_twarnLvl (s : State) (r : SRes) : (s.setSres r).twarnLvl = s.twarnLvl := rfl
@[simp] theorem State.setSres_columns (s : State) (r : SRes) : (s.setSres r).columns = s.columns := rfl
@[simp] theorem State.setSres_istep (s : State) (r : SRes) : (s.setSres r).istep = s.istep := rfl
@[simp] theorem State.setSres_throttled (s : State) (r : SRes) : (s.setSres r).throttled = s.throttled := rfl
@[simp] theorem State.setSres_links (s : State) (r : SRes) : (s.setSres r).links = s.links := rfl
@[simp] theorem State.setSres_podtmo (s : State) (r : SRes) : (s.setSres r).podtmo = s.podtmo := rfl
@[simp] theorem State.setSres_podValid (s : State) (r : SRes) : (s.setSres r).podValid = s.podValid := rfl
@[simp] theorem State.setSres_devnum (s : State) (r : SRes) : (s.setSres r).devnum = s.devnum := rfl
@[simp] theorem State.setSres_podrt (s : State) (r : SRes) : (s.setSres r).podrt = s.podrt := rfl
@[simp] theorem State.setSres_flits (s : State) (r : SRes) : (s.setSres r).flits = s.flits := rfl
@[simp] theorem State.setSres_podArrived (s : State) (r : SRes) : (s.setSres r).podArrived = s.podArrived := rfl
@[simp] theorem State.setSres_podHeld (s : State) (r : SRes) : (s.setSres r).podHeld = s.podHeld := rfl
@[simp] theorem State.setSres_podBlocked (s : State) (r : SRes) : (s.setSres r).podBlocked = s.podBlocked := rfl
@[simp] theorem State.setSres_podWaiting (s : State) (r : SRes) : (s.setSres r).podWaiting = s.podWaiting := rfl
@[simp] theorem State.setSres_podDone (s : State) (r : SRes) : (s.setSres r).podDone = s.podDone := rfl
@[simp] theorem State.setSres_msixTable (s : State) (r : SRes) : (s.setSres r).msixTable = s.msixTable := rfl
@[simp] theorem State.setSres_msixMask (s : State) (r : SRes) : (s.setSres r).msixMask = s.msixMask := rfl
@[simp] theorem State.setSres_msixPend (s : State) (r : SRes) : (s.setSres r).msixPend = s.msixPend := rfl
@[simp] theorem State.setSres_messages (s : State) (r : SRes) : (s.setSres r).messages = s.messages := rfl
@[simp] theorem State.setSres_boot (s : State) (r : SRes) : (s.setSres r).boot = s.boot := rfl
@[simp] theorem State.setSres_queues (s : State) (r : SRes) : (s.setSres r).queues = s.queues := rfl
@[simp] theorem State.setSres_sigobj (s : State) (r : SRes) : (s.setSres r).sigobj = s.sigobj := rfl
@[simp] theorem State.setSres_families (s : State) (r : SRes) : (s.setSres r).families = s.families := rfl
@[simp] theorem State.setSres_famNo (s : State) (r : SRes) : (s.setSres r).famNo = s.famNo := rfl
@[simp] theorem State.setSres_slots (s : State) (r : SRes) : (s.setSres r).slots = s.slots := rfl
@[simp] theorem State.setSres_schedDue (s : State) (r : SRes) : (s.setSres r).schedDue = s.schedDue := rfl
@[simp] theorem State.setSres_schedAt (s : State) (r : SRes) : (s.setSres r).schedAt = s.schedAt := rfl
@[simp] theorem State.setSres_transl (s : State) (r : SRes) : (s.setSres r).transl = s.transl := rfl
@[simp] theorem State.setSres_pdies (s : State) (r : SRes) : (s.setSres r).pdies = s.pdies := rfl
@[simp] theorem State.setSres_hbm (s : State) (r : SRes) : (s.setSres r).hbm = s.hbm := rfl
@[simp] theorem State.setSres_host (s : State) (r : SRes) : (s.setSres r).host = s.host := rfl
@[simp] theorem State.setSres_tq (s : State) (r : SRes) : (s.setSres r).tq = s.tq := rfl
@[simp] theorem State.setSres_parks (s : State) (r : SRes) : (s.setSres r).parks = s.parks := rfl
@[simp] theorem State.setSres_snap (s : State) (r : SRes) : (s.setSres r).snap = s.snap := rfl
@[simp] theorem State.setSres_fresh (s : State) (r : SRes) : (s.setSres r).fresh = s.fresh := rfl
@[simp] theorem State.setSres_inputs (s : State) (r : SRes) : (s.setSres r).inputs = s.inputs := rfl
@[simp] theorem State.setSres_work (s : State) (r : SRes) : (s.setSres r).work = s.work := rfl
@[simp] theorem State.setSres_posted (s : State) (r : SRes) : (s.setSres r).posted = s.posted := rfl

@[simp] theorem State.jump_time (s : State) (a : Xword) : (s.jump a).time = s.time := rfl
@[simp] theorem State.jump_lastCause (s : State) (a : Xword) : (s.jump a).lastCause = s.lastCause := rfl
@[simp] theorem State.jump_resetRun (s : State) (a : Xword) : (s.jump a).resetRun = s.resetRun := rfl
@[simp] theorem State.jump_regionsUp (s : State) (a : Xword) : (s.jump a).regionsUp = s.regionsUp := rfl
@[simp] theorem State.jump_selfTests (s : State) (a : Xword) : (s.jump a).selfTests = s.selfTests := rfl
@[simp] theorem State.jump_d3hot (s : State) (a : Xword) : (s.jump a).d3hot = s.d3hot := rfl
@[simp] theorem State.jump_pmeas (s : State) (a : Xword) : (s.jump a).pmeas = s.pmeas := rfl
@[simp] theorem State.jump_plim (s : State) (a : Xword) : (s.jump a).plim = s.plim := rfl
@[simp] theorem State.jump_plimThrottle (s : State) (a : Xword) : (s.jump a).plimThrottle = s.plimThrottle := rfl
@[simp] theorem State.jump_twarnLvl (s : State) (a : Xword) : (s.jump a).twarnLvl = s.twarnLvl := rfl
@[simp] theorem State.jump_columns (s : State) (a : Xword) : (s.jump a).columns = s.columns := rfl
@[simp] theorem State.jump_istep (s : State) (a : Xword) : (s.jump a).istep = s.istep := rfl
@[simp] theorem State.jump_throttled (s : State) (a : Xword) : (s.jump a).throttled = s.throttled := rfl
@[simp] theorem State.jump_links (s : State) (a : Xword) : (s.jump a).links = s.links := rfl
@[simp] theorem State.jump_podtmo (s : State) (a : Xword) : (s.jump a).podtmo = s.podtmo := rfl
@[simp] theorem State.jump_podValid (s : State) (a : Xword) : (s.jump a).podValid = s.podValid := rfl
@[simp] theorem State.jump_devnum (s : State) (a : Xword) : (s.jump a).devnum = s.devnum := rfl
@[simp] theorem State.jump_podrt (s : State) (a : Xword) : (s.jump a).podrt = s.podrt := rfl
@[simp] theorem State.jump_flits (s : State) (a : Xword) : (s.jump a).flits = s.flits := rfl
@[simp] theorem State.jump_podArrived (s : State) (a : Xword) : (s.jump a).podArrived = s.podArrived := rfl
@[simp] theorem State.jump_podHeld (s : State) (a : Xword) : (s.jump a).podHeld = s.podHeld := rfl
@[simp] theorem State.jump_podBlocked (s : State) (a : Xword) : (s.jump a).podBlocked = s.podBlocked := rfl
@[simp] theorem State.jump_podWaiting (s : State) (a : Xword) : (s.jump a).podWaiting = s.podWaiting := rfl
@[simp] theorem State.jump_podDone (s : State) (a : Xword) : (s.jump a).podDone = s.podDone := rfl
@[simp] theorem State.jump_msixTable (s : State) (a : Xword) : (s.jump a).msixTable = s.msixTable := rfl
@[simp] theorem State.jump_msixMask (s : State) (a : Xword) : (s.jump a).msixMask = s.msixMask := rfl
@[simp] theorem State.jump_msixPend (s : State) (a : Xword) : (s.jump a).msixPend = s.msixPend := rfl
@[simp] theorem State.jump_messages (s : State) (a : Xword) : (s.jump a).messages = s.messages := rfl
@[simp] theorem State.jump_boot (s : State) (a : Xword) : (s.jump a).boot = s.boot := rfl
@[simp] theorem State.jump_queues (s : State) (a : Xword) : (s.jump a).queues = s.queues := rfl
@[simp] theorem State.jump_sigobj (s : State) (a : Xword) : (s.jump a).sigobj = s.sigobj := rfl
@[simp] theorem State.jump_families (s : State) (a : Xword) : (s.jump a).families = s.families := rfl
@[simp] theorem State.jump_famNo (s : State) (a : Xword) : (s.jump a).famNo = s.famNo := rfl
@[simp] theorem State.jump_slots (s : State) (a : Xword) : (s.jump a).slots = s.slots := rfl
@[simp] theorem State.jump_schedDue (s : State) (a : Xword) : (s.jump a).schedDue = s.schedDue := rfl
@[simp] theorem State.jump_schedAt (s : State) (a : Xword) : (s.jump a).schedAt = s.schedAt := rfl
@[simp] theorem State.jump_transl (s : State) (a : Xword) : (s.jump a).transl = s.transl := rfl
@[simp] theorem State.jump_pdies (s : State) (a : Xword) : (s.jump a).pdies = s.pdies := rfl
@[simp] theorem State.jump_hbm (s : State) (a : Xword) : (s.jump a).hbm = s.hbm := rfl
@[simp] theorem State.jump_host (s : State) (a : Xword) : (s.jump a).host = s.host := rfl
@[simp] theorem State.jump_tq (s : State) (a : Xword) : (s.jump a).tq = s.tq := rfl
@[simp] theorem State.jump_parks (s : State) (a : Xword) : (s.jump a).parks = s.parks := rfl
@[simp] theorem State.jump_snap (s : State) (a : Xword) : (s.jump a).snap = s.snap := rfl
@[simp] theorem State.jump_fresh (s : State) (a : Xword) : (s.jump a).fresh = s.fresh := rfl
@[simp] theorem State.jump_inputs (s : State) (a : Xword) : (s.jump a).inputs = s.inputs := rfl
@[simp] theorem State.jump_work (s : State) (a : Xword) : (s.jump a).work = s.work := rfl
@[simp] theorem State.jump_posted (s : State) (a : Xword) : (s.jump a).posted = s.posted := rfl

@[simp] theorem State.setAfter_time (s : State) (a : After) : (s.setAfter a).time = s.time := rfl
@[simp] theorem State.setAfter_lastCause (s : State) (a : After) : (s.setAfter a).lastCause = s.lastCause := rfl
@[simp] theorem State.setAfter_resetRun (s : State) (a : After) : (s.setAfter a).resetRun = s.resetRun := rfl
@[simp] theorem State.setAfter_regionsUp (s : State) (a : After) : (s.setAfter a).regionsUp = s.regionsUp := rfl
@[simp] theorem State.setAfter_selfTests (s : State) (a : After) : (s.setAfter a).selfTests = s.selfTests := rfl
@[simp] theorem State.setAfter_d3hot (s : State) (a : After) : (s.setAfter a).d3hot = s.d3hot := rfl
@[simp] theorem State.setAfter_pmeas (s : State) (a : After) : (s.setAfter a).pmeas = s.pmeas := rfl
@[simp] theorem State.setAfter_plim (s : State) (a : After) : (s.setAfter a).plim = s.plim := rfl
@[simp] theorem State.setAfter_plimThrottle (s : State) (a : After) : (s.setAfter a).plimThrottle = s.plimThrottle := rfl
@[simp] theorem State.setAfter_twarnLvl (s : State) (a : After) : (s.setAfter a).twarnLvl = s.twarnLvl := rfl
@[simp] theorem State.setAfter_columns (s : State) (a : After) : (s.setAfter a).columns = s.columns := rfl
@[simp] theorem State.setAfter_istep (s : State) (a : After) : (s.setAfter a).istep = s.istep := rfl
@[simp] theorem State.setAfter_throttled (s : State) (a : After) : (s.setAfter a).throttled = s.throttled := rfl
@[simp] theorem State.setAfter_links (s : State) (a : After) : (s.setAfter a).links = s.links := rfl
@[simp] theorem State.setAfter_podtmo (s : State) (a : After) : (s.setAfter a).podtmo = s.podtmo := rfl
@[simp] theorem State.setAfter_podValid (s : State) (a : After) : (s.setAfter a).podValid = s.podValid := rfl
@[simp] theorem State.setAfter_devnum (s : State) (a : After) : (s.setAfter a).devnum = s.devnum := rfl
@[simp] theorem State.setAfter_podrt (s : State) (a : After) : (s.setAfter a).podrt = s.podrt := rfl
@[simp] theorem State.setAfter_flits (s : State) (a : After) : (s.setAfter a).flits = s.flits := rfl
@[simp] theorem State.setAfter_podArrived (s : State) (a : After) : (s.setAfter a).podArrived = s.podArrived := rfl
@[simp] theorem State.setAfter_podHeld (s : State) (a : After) : (s.setAfter a).podHeld = s.podHeld := rfl
@[simp] theorem State.setAfter_podBlocked (s : State) (a : After) : (s.setAfter a).podBlocked = s.podBlocked := rfl
@[simp] theorem State.setAfter_podWaiting (s : State) (a : After) : (s.setAfter a).podWaiting = s.podWaiting := rfl
@[simp] theorem State.setAfter_podDone (s : State) (a : After) : (s.setAfter a).podDone = s.podDone := rfl
@[simp] theorem State.setAfter_msixTable (s : State) (a : After) : (s.setAfter a).msixTable = s.msixTable := rfl
@[simp] theorem State.setAfter_msixMask (s : State) (a : After) : (s.setAfter a).msixMask = s.msixMask := rfl
@[simp] theorem State.setAfter_msixPend (s : State) (a : After) : (s.setAfter a).msixPend = s.msixPend := rfl
@[simp] theorem State.setAfter_messages (s : State) (a : After) : (s.setAfter a).messages = s.messages := rfl
@[simp] theorem State.setAfter_boot (s : State) (a : After) : (s.setAfter a).boot = s.boot := rfl
@[simp] theorem State.setAfter_queues (s : State) (a : After) : (s.setAfter a).queues = s.queues := rfl
@[simp] theorem State.setAfter_sigobj (s : State) (a : After) : (s.setAfter a).sigobj = s.sigobj := rfl
@[simp] theorem State.setAfter_families (s : State) (a : After) : (s.setAfter a).families = s.families := rfl
@[simp] theorem State.setAfter_famNo (s : State) (a : After) : (s.setAfter a).famNo = s.famNo := rfl
@[simp] theorem State.setAfter_slots (s : State) (a : After) : (s.setAfter a).slots = s.slots := rfl
@[simp] theorem State.setAfter_schedDue (s : State) (a : After) : (s.setAfter a).schedDue = s.schedDue := rfl
@[simp] theorem State.setAfter_schedAt (s : State) (a : After) : (s.setAfter a).schedAt = s.schedAt := rfl
@[simp] theorem State.setAfter_transl (s : State) (a : After) : (s.setAfter a).transl = s.transl := rfl
@[simp] theorem State.setAfter_pdies (s : State) (a : After) : (s.setAfter a).pdies = s.pdies := rfl
@[simp] theorem State.setAfter_hbm (s : State) (a : After) : (s.setAfter a).hbm = s.hbm := rfl
@[simp] theorem State.setAfter_host (s : State) (a : After) : (s.setAfter a).host = s.host := rfl
@[simp] theorem State.setAfter_tq (s : State) (a : After) : (s.setAfter a).tq = s.tq := rfl
@[simp] theorem State.setAfter_parks (s : State) (a : After) : (s.setAfter a).parks = s.parks := rfl
@[simp] theorem State.setAfter_snap (s : State) (a : After) : (s.setAfter a).snap = s.snap := rfl
@[simp] theorem State.setAfter_fresh (s : State) (a : After) : (s.setAfter a).fresh = s.fresh := rfl
@[simp] theorem State.setAfter_inputs (s : State) (a : After) : (s.setAfter a).inputs = s.inputs := rfl
@[simp] theorem State.setAfter_work (s : State) (a : After) : (s.setAfter a).work = s.work := rfl
@[simp] theorem State.setAfter_posted (s : State) (a : After) : (s.setAfter a).posted = s.posted := rfl

/-- A slot after a slot is replaced. -/
@[simp] theorem State.slot_putSlot_same (s : State) (c : BitVec 4) (x : Slot) : (s.putSlot c x).slot c = x := by
  simp [State.putSlot, State.slot]
theorem State.slot_putSlot_ne (s : State) {c k : BitVec 4} (x : Slot) (h : k ≠ c) : (s.putSlot c x).slot k = s.slot k := by
  simp [State.putSlot, State.slot, RegFile.get_put_ne _ _ h]
@[simp] theorem State.slot_onSlot_same (s : State) (c : BitVec 4) (f : Slot → Slot) : (s.onSlot c f).slot c = f (s.slot c) := by
  simp [State.onSlot]
theorem State.slot_onSlot_ne (s : State) {c k : BitVec 4} (f : Slot → Slot) (h : k ≠ c) : (s.onSlot c f).slot k = s.slot k := by
  simp [State.onSlot, State.slot_putSlot_ne _ _ h]
@[simp] theorem State.slot_onCtx_same (s : State) (c : BitVec 4) (f : Ctx → Ctx) :
    (s.onCtx c f).slot c = { s.slot c with ctx := f (s.slot c).ctx } := by
  simp [State.onCtx]
theorem State.slot_onCtx_ne (s : State) {c k : BitVec 4} (f : Ctx → Ctx) (h : k ≠ c) : (s.onCtx c f).slot k = s.slot k := by
  simp [State.onCtx, State.slot_onSlot_ne _ _ h]
@[simp] theorem State.slot_setSres (s : State) (r : SRes) (c : BitVec 4) : (s.setSres r).slot c = s.slot c := rfl
@[simp] theorem State.slot_jump (s : State) (a : Xword) (c : BitVec 4) : (s.jump a).slot c = s.slot c := rfl
@[simp] theorem State.slot_setAfter (s : State) (a : After) (c : BitVec 4) : (s.setAfter a).slot c = s.slot c := rfl
@[simp] theorem State.slot_onPdie (s : State) (p : BitVec 6) (f : PDie → PDie) (c : BitVec 4) : (s.onPdie p f).slot c = s.slot c := rfl

/-! ### Updates of a control core -/

@[simp] theorem Ctx.setX_g (y : Ctx) (i : BitVec 5) (v : Xword) : (y.setX i v).g = y.g := by unfold Ctx.setX; split <;> rfl
@[simp] theorem Ctx.setX_gPend (y : Ctx) (i : BitVec 5) (v : Xword) : (y.setX i v).gPend = y.gPend := by unfold Ctx.setX; split <;> rfl
@[simp] theorem Ctx.setX_tok (y : Ctx) (i : BitVec 5) (v : Xword) : (y.setX i v).tok = y.tok := by unfold Ctx.setX; split <;> rfl
@[simp] theorem Ctx.setX_pc (y : Ctx) (i : BitVec 5) (v : Xword) : (y.setX i v).pc = y.pc := by unfold Ctx.setX; split <;> rfl
@[simp] theorem Ctx.setX_bsn (y : Ctx) (i : BitVec 5) (v : Xword) : (y.setX i v).bsn = y.bsn := by unfold Ctx.setX; split <;> rfl
@[simp] theorem Ctx.setX_lines (y : Ctx) (i : BitVec 5) (v : Xword) : (y.setX i v).lines = y.lines := by unfold Ctx.setX; split <;> rfl
@[simp] theorem Ctx.setX_fetchPark (y : Ctx) (i : BitVec 5) (v : Xword) : (y.setX i v).fetchPark = y.fetchPark := by unfold Ctx.setX; split <;> rfl
@[simp] theorem Ctx.setX_fpctl (y : Ctx) (i : BitVec 5) (v : Xword) : (y.setX i v).fpctl = y.fpctl := by unfold Ctx.setX; split <;> rfl
@[simp] theorem Ctx.setX_coatctl (y : Ctx) (i : BitVec 5) (v : Xword) : (y.setX i v).coatctl = y.coatctl := by unfold Ctx.setX; split <;> rfl
@[simp] theorem Ctx.setX_budget (y : Ctx) (i : BitVec 5) (v : Xword) : (y.setX i v).budget = y.budget := by unfold Ctx.setX; split <;> rfl
@[simp] theorem Ctx.setX_guard (y : Ctx) (i : BitVec 5) (v : Xword) : (y.setX i v).guard = y.guard := by unfold Ctx.setX; split <;> rfl
@[simp] theorem Ctx.setX_dieMask (y : Ctx) (i : BitVec 5) (v : Xword) : (y.setX i v).dieMask = y.dieMask := by unfold Ctx.setX; split <;> rfl
@[simp] theorem Ctx.setX_preemptLimit (y : Ctx) (i : BitVec 5) (v : Xword) : (y.setX i v).preemptLimit = y.preemptLimit := by unfold Ctx.setX; split <;> rfl
@[simp] theorem Ctx.setX_tvec (y : Ctx) (i : BitVec 5) (v : Xword) : (y.setX i v).tvec = y.tvec := by unfold Ctx.setX; split <;> rfl
@[simp] theorem Ctx.setX_tscr0 (y : Ctx) (i : BitVec 5) (v : Xword) : (y.setX i v).tscr0 = y.tscr0 := by unfold Ctx.setX; split <;> rfl
@[simp] theorem Ctx.setX_tscr1 (y : Ctx) (i : BitVec 5) (v : Xword) : (y.setX i v).tscr1 = y.tscr1 := by unfold Ctx.setX; split <;> rfl
@[simp] theorem Ctx.setX_fixed (y : Ctx) (i : BitVec 5) (v : Xword) : (y.setX i v).fixed = y.fixed := by unfold Ctx.setX; split <;> rfl
@[simp] theorem Ctx.setX_stagger (y : Ctx) (i : BitVec 5) (v : Xword) : (y.setX i v).stagger = y.stagger := by unfold Ctx.setX; split <;> rfl
@[simp] theorem Ctx.setX_clkPend (y : Ctx) (i : BitVec 5) (v : Xword) : (y.setX i v).clkPend = y.clkPend := by unfold Ctx.setX; split <;> rfl
@[simp] theorem Ctx.setX_trips (y : Ctx) (i : BitVec 5) (v : Xword) : (y.setX i v).trips = y.trips := by unfold Ctx.setX; split <;> rfl
@[simp] theorem Ctx.setX_tripReg (y : Ctx) (i : BitVec 5) (v : Xword) : (y.setX i v).tripReg = y.tripReg := by unfold Ctx.setX; split <;> rfl
@[simp] theorem Ctx.setX_cyc (y : Ctx) (i : BitVec 5) (v : Xword) : (y.setX i v).cyc = y.cyc := by unfold Ctx.setX; split <;> rfl
@[simp] theorem Ctx.setX_used (y : Ctx) (i : BitVec 5) (v : Xword) : (y.setX i v).used = y.used := by unfold Ctx.setX; split <;> rfl
@[simp] theorem Ctx.setX_stretch (y : Ctx) (i : BitVec 5) (v : Xword) : (y.setX i v).stretch = y.stretch := by unfold Ctx.setX; split <;> rfl
@[simp] theorem Ctx.setX_thrCyc (y : Ctx) (i : BitVec 5) (v : Xword) : (y.setX i v).thrCyc = y.thrCyc := by unfold Ctx.setX; split <;> rfl
@[simp] theorem Ctx.setX_tripCyc (y : Ctx) (i : BitVec 5) (v : Xword) : (y.setX i v).tripCyc = y.tripCyc := by unfold Ctx.setX; split <;> rfl
@[simp] theorem Ctx.setX_holdCyc (y : Ctx) (i : BitVec 5) (v : Xword) : (y.setX i v).holdCyc = y.holdCyc := by unfold Ctx.setX; split <;> rfl
@[simp] theorem Ctx.setX_replay0 (y : Ctx) (i : BitVec 5) (v : Xword) : (y.setX i v).replay0 = y.replay0 := by unfold Ctx.setX; split <;> rfl
@[simp] theorem Ctx.setX_replay1 (y : Ctx) (i : BitVec 5) (v : Xword) : (y.setX i v).replay1 = y.replay1 := by unfold Ctx.setX; split <;> rfl
@[simp] theorem Ctx.setX_exhaust (y : Ctx) (i : BitVec 5) (v : Xword) : (y.setX i v).exhaust = y.exhaust := by unfold Ctx.setX; split <;> rfl
@[simp] theorem Ctx.setX_lastMark (y : Ctx) (i : BitVec 5) (v : Xword) : (y.setX i v).lastMark = y.lastMark := by unfold Ctx.setX; split <;> rfl
@[simp] theorem Ctx.setX_counted (y : Ctx) (i : BitVec 5) (v : Xword) : (y.setX i v).counted = y.counted := by unfold Ctx.setX; split <;> rfl
@[simp] theorem Ctx.setX_trec (y : Ctx) (i : BitVec 5) (v : Xword) : (y.setX i v).trec = y.trec := by unfold Ctx.setX; split <;> rfl
@[simp] theorem Ctx.setX_inHandler (y : Ctx) (i : BitVec 5) (v : Xword) : (y.setX i v).inHandler = y.inHandler := by unfold Ctx.setX; split <;> rfl
@[simp] theorem Ctx.setX_rebroadcast (y : Ctx) (i : BitVec 5) (v : Xword) : (y.setX i v).rebroadcast = y.rebroadcast := by unfold Ctx.setX; split <;> rfl
@[simp] theorem Ctx.setX_stepDeferred (y : Ctx) (i : BitVec 5) (v : Xword) : (y.setX i v).stepDeferred = y.stepDeferred := by unfold Ctx.setX; split <;> rfl
@[simp] theorem Ctx.setX_haltTaken (y : Ctx) (i : BitVec 5) (v : Xword) : (y.setX i v).haltTaken = y.haltTaken := by unfold Ctx.setX; split <;> rfl
@[simp] theorem Ctx.setX_tsEarly (y : Ctx) (i : BitVec 5) (v : Xword) : (y.setX i v).tsEarly = y.tsEarly := by unfold Ctx.setX; split <;> rfl
@[simp] theorem Ctx.setX_trbNext (y : Ctx) (i : BitVec 5) (v : Xword) : (y.setX i v).trbNext = y.trbNext := by unfold Ctx.setX; split <;> rfl
@[simp] theorem Ctx.setX_trbHigh (y : Ctx) (i : BitVec 5) (v : Xword) : (y.setX i v).trbHigh = y.trbHigh := by unfold Ctx.setX; split <;> rfl
@[simp] theorem Ctx.setX_dtab (y : Ctx) (i : BitVec 5) (v : Xword) : (y.setX i v).dtab = y.dtab := by unfold Ctx.setX; split <;> rfl
@[simp] theorem Ctx.setX_entryMask (y : Ctx) (i : BitVec 5) (v : Xword) : (y.setX i v).entryMask = y.entryMask := by unfold Ctx.setX; split <;> rfl
@[simp] theorem Ctx.setX_joins (y : Ctx) (i : BitVec 5) (v : Xword) : (y.setX i v).joins = y.joins := by unfold Ctx.setX; split <;> rfl
@[simp] theorem Ctx.setX_arrivals (y : Ctx) (i : BitVec 5) (v : Xword) : (y.setX i v).arrivals = y.arrivals := by unfold Ctx.setX; split <;> rfl
@[simp] theorem Ctx.setX_hist (y : Ctx) (i : BitVec 5) (v : Xword) : (y.setX i v).hist = y.hist := by unfold Ctx.setX; split <;> rfl
@[simp] theorem Ctx.setX_tree (y : Ctx) (i : BitVec 5) (v : Xword) : (y.setX i v).tree = y.tree := by unfold Ctx.setX; split <;> rfl
@[simp] theorem Ctx.setX_acc (y : Ctx) (i : BitVec 5) (v : Xword) : (y.setX i v).acc = y.acc := by unfold Ctx.setX; split <;> rfl
@[simp] theorem Ctx.setX_adds (y : Ctx) (i : BitVec 5) (v : Xword) : (y.setX i v).adds = y.adds := by unfold Ctx.setX; split <;> rfl
@[simp] theorem Ctx.setX_freeze (y : Ctx) (i : BitVec 5) (v : Xword) : (y.setX i v).freeze = y.freeze := by unfold Ctx.setX; split <;> rfl
@[simp] theorem Ctx.setX_resume (y : Ctx) (i : BitVec 5) (v : Xword) : (y.setX i v).resume = y.resume := by unfold Ctx.setX; split <;> rfl
@[simp] theorem Ctx.setX_ybar (y : Ctx) (i : BitVec 5) (v : Xword) : (y.setX i v).ybar = y.ybar := by unfold Ctx.setX; split <;> rfl
@[simp] theorem Ctx.setX_podRound (y : Ctx) (i : BitVec 5) (v : Xword) : (y.setX i v).podRound = y.podRound := by unfold Ctx.setX; split <;> rfl
@[simp] theorem Ctx.setX_podWait (y : Ctx) (i : BitVec 5) (v : Xword) : (y.setX i v).podWait = y.podWait := by unfold Ctx.setX; split <;> rfl
@[simp] theorem Ctx.setX_podOuter (y : Ctx) (i : BitVec 5) (v : Xword) : (y.setX i v).podOuter = y.podOuter := by unfold Ctx.setX; split <;> rfl
@[simp] theorem Ctx.setX_podIn (y : Ctx) (i : BitVec 5) (v : Xword) : (y.setX i v).podIn = y.podIn := by unfold Ctx.setX; split <;> rfl
@[simp] theorem Ctx.setX_dies (y : Ctx) (i : BitVec 5) (v : Xword) : (y.setX i v).dies = y.dies := by unfold Ctx.setX; split <;> rfl

@[simp] theorem Ctx.pendX_x (y : Ctx) (i : BitVec 5) (t : Nat) : (y.pendX i t).x = y.x := by unfold Ctx.pendX; split <;> rfl
@[simp] theorem Ctx.pendX_g (y : Ctx) (i : BitVec 5) (t : Nat) : (y.pendX i t).g = y.g := by unfold Ctx.pendX; split <;> rfl
@[simp] theorem Ctx.pendX_gPend (y : Ctx) (i : BitVec 5) (t : Nat) : (y.pendX i t).gPend = y.gPend := by unfold Ctx.pendX; split <;> rfl
@[simp] theorem Ctx.pendX_tok (y : Ctx) (i : BitVec 5) (t : Nat) : (y.pendX i t).tok = y.tok := by unfold Ctx.pendX; split <;> rfl
@[simp] theorem Ctx.pendX_pc (y : Ctx) (i : BitVec 5) (t : Nat) : (y.pendX i t).pc = y.pc := by unfold Ctx.pendX; split <;> rfl
@[simp] theorem Ctx.pendX_bsn (y : Ctx) (i : BitVec 5) (t : Nat) : (y.pendX i t).bsn = y.bsn := by unfold Ctx.pendX; split <;> rfl
@[simp] theorem Ctx.pendX_lines (y : Ctx) (i : BitVec 5) (t : Nat) : (y.pendX i t).lines = y.lines := by unfold Ctx.pendX; split <;> rfl
@[simp] theorem Ctx.pendX_fetchPark (y : Ctx) (i : BitVec 5) (t : Nat) : (y.pendX i t).fetchPark = y.fetchPark := by unfold Ctx.pendX; split <;> rfl
@[simp] theorem Ctx.pendX_fpctl (y : Ctx) (i : BitVec 5) (t : Nat) : (y.pendX i t).fpctl = y.fpctl := by unfold Ctx.pendX; split <;> rfl
@[simp] theorem Ctx.pendX_coatctl (y : Ctx) (i : BitVec 5) (t : Nat) : (y.pendX i t).coatctl = y.coatctl := by unfold Ctx.pendX; split <;> rfl
@[simp] theorem Ctx.pendX_budget (y : Ctx) (i : BitVec 5) (t : Nat) : (y.pendX i t).budget = y.budget := by unfold Ctx.pendX; split <;> rfl
@[simp] theorem Ctx.pendX_guard (y : Ctx) (i : BitVec 5) (t : Nat) : (y.pendX i t).guard = y.guard := by unfold Ctx.pendX; split <;> rfl
@[simp] theorem Ctx.pendX_dieMask (y : Ctx) (i : BitVec 5) (t : Nat) : (y.pendX i t).dieMask = y.dieMask := by unfold Ctx.pendX; split <;> rfl
@[simp] theorem Ctx.pendX_preemptLimit (y : Ctx) (i : BitVec 5) (t : Nat) : (y.pendX i t).preemptLimit = y.preemptLimit := by unfold Ctx.pendX; split <;> rfl
@[simp] theorem Ctx.pendX_tvec (y : Ctx) (i : BitVec 5) (t : Nat) : (y.pendX i t).tvec = y.tvec := by unfold Ctx.pendX; split <;> rfl
@[simp] theorem Ctx.pendX_tscr0 (y : Ctx) (i : BitVec 5) (t : Nat) : (y.pendX i t).tscr0 = y.tscr0 := by unfold Ctx.pendX; split <;> rfl
@[simp] theorem Ctx.pendX_tscr1 (y : Ctx) (i : BitVec 5) (t : Nat) : (y.pendX i t).tscr1 = y.tscr1 := by unfold Ctx.pendX; split <;> rfl
@[simp] theorem Ctx.pendX_fixed (y : Ctx) (i : BitVec 5) (t : Nat) : (y.pendX i t).fixed = y.fixed := by unfold Ctx.pendX; split <;> rfl
@[simp] theorem Ctx.pendX_stagger (y : Ctx) (i : BitVec 5) (t : Nat) : (y.pendX i t).stagger = y.stagger := by unfold Ctx.pendX; split <;> rfl
@[simp] theorem Ctx.pendX_clkPend (y : Ctx) (i : BitVec 5) (t : Nat) : (y.pendX i t).clkPend = y.clkPend := by unfold Ctx.pendX; split <;> rfl
@[simp] theorem Ctx.pendX_trips (y : Ctx) (i : BitVec 5) (t : Nat) : (y.pendX i t).trips = y.trips := by unfold Ctx.pendX; split <;> rfl
@[simp] theorem Ctx.pendX_tripReg (y : Ctx) (i : BitVec 5) (t : Nat) : (y.pendX i t).tripReg = y.tripReg := by unfold Ctx.pendX; split <;> rfl
@[simp] theorem Ctx.pendX_cyc (y : Ctx) (i : BitVec 5) (t : Nat) : (y.pendX i t).cyc = y.cyc := by unfold Ctx.pendX; split <;> rfl
@[simp] theorem Ctx.pendX_used (y : Ctx) (i : BitVec 5) (t : Nat) : (y.pendX i t).used = y.used := by unfold Ctx.pendX; split <;> rfl
@[simp] theorem Ctx.pendX_stretch (y : Ctx) (i : BitVec 5) (t : Nat) : (y.pendX i t).stretch = y.stretch := by unfold Ctx.pendX; split <;> rfl
@[simp] theorem Ctx.pendX_thrCyc (y : Ctx) (i : BitVec 5) (t : Nat) : (y.pendX i t).thrCyc = y.thrCyc := by unfold Ctx.pendX; split <;> rfl
@[simp] theorem Ctx.pendX_tripCyc (y : Ctx) (i : BitVec 5) (t : Nat) : (y.pendX i t).tripCyc = y.tripCyc := by unfold Ctx.pendX; split <;> rfl
@[simp] theorem Ctx.pendX_holdCyc (y : Ctx) (i : BitVec 5) (t : Nat) : (y.pendX i t).holdCyc = y.holdCyc := by unfold Ctx.pendX; split <;> rfl
@[simp] theorem Ctx.pendX_replay0 (y : Ctx) (i : BitVec 5) (t : Nat) : (y.pendX i t).replay0 = y.replay0 := by unfold Ctx.pendX; split <;> rfl
@[simp] theorem Ctx.pendX_replay1 (y : Ctx) (i : BitVec 5) (t : Nat) : (y.pendX i t).replay1 = y.replay1 := by unfold Ctx.pendX; split <;> rfl
@[simp] theorem Ctx.pendX_exhaust (y : Ctx) (i : BitVec 5) (t : Nat) : (y.pendX i t).exhaust = y.exhaust := by unfold Ctx.pendX; split <;> rfl
@[simp] theorem Ctx.pendX_lastMark (y : Ctx) (i : BitVec 5) (t : Nat) : (y.pendX i t).lastMark = y.lastMark := by unfold Ctx.pendX; split <;> rfl
@[simp] theorem Ctx.pendX_counted (y : Ctx) (i : BitVec 5) (t : Nat) : (y.pendX i t).counted = y.counted := by unfold Ctx.pendX; split <;> rfl
@[simp] theorem Ctx.pendX_trec (y : Ctx) (i : BitVec 5) (t : Nat) : (y.pendX i t).trec = y.trec := by unfold Ctx.pendX; split <;> rfl
@[simp] theorem Ctx.pendX_inHandler (y : Ctx) (i : BitVec 5) (t : Nat) : (y.pendX i t).inHandler = y.inHandler := by unfold Ctx.pendX; split <;> rfl
@[simp] theorem Ctx.pendX_rebroadcast (y : Ctx) (i : BitVec 5) (t : Nat) : (y.pendX i t).rebroadcast = y.rebroadcast := by unfold Ctx.pendX; split <;> rfl
@[simp] theorem Ctx.pendX_stepDeferred (y : Ctx) (i : BitVec 5) (t : Nat) : (y.pendX i t).stepDeferred = y.stepDeferred := by unfold Ctx.pendX; split <;> rfl
@[simp] theorem Ctx.pendX_haltTaken (y : Ctx) (i : BitVec 5) (t : Nat) : (y.pendX i t).haltTaken = y.haltTaken := by unfold Ctx.pendX; split <;> rfl
@[simp] theorem Ctx.pendX_tsEarly (y : Ctx) (i : BitVec 5) (t : Nat) : (y.pendX i t).tsEarly = y.tsEarly := by unfold Ctx.pendX; split <;> rfl
@[simp] theorem Ctx.pendX_trbNext (y : Ctx) (i : BitVec 5) (t : Nat) : (y.pendX i t).trbNext = y.trbNext := by unfold Ctx.pendX; split <;> rfl
@[simp] theorem Ctx.pendX_trbHigh (y : Ctx) (i : BitVec 5) (t : Nat) : (y.pendX i t).trbHigh = y.trbHigh := by unfold Ctx.pendX; split <;> rfl
@[simp] theorem Ctx.pendX_dtab (y : Ctx) (i : BitVec 5) (t : Nat) : (y.pendX i t).dtab = y.dtab := by unfold Ctx.pendX; split <;> rfl
@[simp] theorem Ctx.pendX_entryMask (y : Ctx) (i : BitVec 5) (t : Nat) : (y.pendX i t).entryMask = y.entryMask := by unfold Ctx.pendX; split <;> rfl
@[simp] theorem Ctx.pendX_joins (y : Ctx) (i : BitVec 5) (t : Nat) : (y.pendX i t).joins = y.joins := by unfold Ctx.pendX; split <;> rfl
@[simp] theorem Ctx.pendX_arrivals (y : Ctx) (i : BitVec 5) (t : Nat) : (y.pendX i t).arrivals = y.arrivals := by unfold Ctx.pendX; split <;> rfl
@[simp] theorem Ctx.pendX_hist (y : Ctx) (i : BitVec 5) (t : Nat) : (y.pendX i t).hist = y.hist := by unfold Ctx.pendX; split <;> rfl
@[simp] theorem Ctx.pendX_tree (y : Ctx) (i : BitVec 5) (t : Nat) : (y.pendX i t).tree = y.tree := by unfold Ctx.pendX; split <;> rfl
@[simp] theorem Ctx.pendX_acc (y : Ctx) (i : BitVec 5) (t : Nat) : (y.pendX i t).acc = y.acc := by unfold Ctx.pendX; split <;> rfl
@[simp] theorem Ctx.pendX_adds (y : Ctx) (i : BitVec 5) (t : Nat) : (y.pendX i t).adds = y.adds := by unfold Ctx.pendX; split <;> rfl
@[simp] theorem Ctx.pendX_freeze (y : Ctx) (i : BitVec 5) (t : Nat) : (y.pendX i t).freeze = y.freeze := by unfold Ctx.pendX; split <;> rfl
@[simp] theorem Ctx.pendX_resume (y : Ctx) (i : BitVec 5) (t : Nat) : (y.pendX i t).resume = y.resume := by unfold Ctx.pendX; split <;> rfl
@[simp] theorem Ctx.pendX_ybar (y : Ctx) (i : BitVec 5) (t : Nat) : (y.pendX i t).ybar = y.ybar := by unfold Ctx.pendX; split <;> rfl
@[simp] theorem Ctx.pendX_podRound (y : Ctx) (i : BitVec 5) (t : Nat) : (y.pendX i t).podRound = y.podRound := by unfold Ctx.pendX; split <;> rfl
@[simp] theorem Ctx.pendX_podWait (y : Ctx) (i : BitVec 5) (t : Nat) : (y.pendX i t).podWait = y.podWait := by unfold Ctx.pendX; split <;> rfl
@[simp] theorem Ctx.pendX_podOuter (y : Ctx) (i : BitVec 5) (t : Nat) : (y.pendX i t).podOuter = y.podOuter := by unfold Ctx.pendX; split <;> rfl
@[simp] theorem Ctx.pendX_podIn (y : Ctx) (i : BitVec 5) (t : Nat) : (y.pendX i t).podIn = y.podIn := by unfold Ctx.pendX; split <;> rfl
@[simp] theorem Ctx.pendX_dies (y : Ctx) (i : BitVec 5) (t : Nat) : (y.pendX i t).dies = y.dies := by unfold Ctx.pendX; split <;> rfl

@[simp] theorem Ctx.giveX_g (y : Ctx) (i : BitVec 5) (t : Nat) (v : Xword) : (y.giveX i t v).g = y.g := by unfold Ctx.giveX; split <;> rfl
@[simp] theorem Ctx.giveX_gPend (y : Ctx) (i : BitVec 5) (t : Nat) (v : Xword) : (y.giveX i t v).gPend = y.gPend := by unfold Ctx.giveX; split <;> rfl
@[simp] theorem Ctx.giveX_tok (y : Ctx) (i : BitVec 5) (t : Nat) (v : Xword) : (y.giveX i t v).tok = y.tok := by unfold Ctx.giveX; split <;> rfl
@[simp] theorem Ctx.giveX_pc (y : Ctx) (i : BitVec 5) (t : Nat) (v : Xword) : (y.giveX i t v).pc = y.pc := by unfold Ctx.giveX; split <;> rfl
@[simp] theorem Ctx.giveX_bsn (y : Ctx) (i : BitVec 5) (t : Nat) (v : Xword) : (y.giveX i t v).bsn = y.bsn := by unfold Ctx.giveX; split <;> rfl
@[simp] theorem Ctx.giveX_lines (y : Ctx) (i : BitVec 5) (t : Nat) (v : Xword) : (y.giveX i t v).lines = y.lines := by unfold Ctx.giveX; split <;> rfl
@[simp] theorem Ctx.giveX_fetchPark (y : Ctx) (i : BitVec 5) (t : Nat) (v : Xword) : (y.giveX i t v).fetchPark = y.fetchPark := by unfold Ctx.giveX; split <;> rfl
@[simp] theorem Ctx.giveX_fpctl (y : Ctx) (i : BitVec 5) (t : Nat) (v : Xword) : (y.giveX i t v).fpctl = y.fpctl := by unfold Ctx.giveX; split <;> rfl
@[simp] theorem Ctx.giveX_coatctl (y : Ctx) (i : BitVec 5) (t : Nat) (v : Xword) : (y.giveX i t v).coatctl = y.coatctl := by unfold Ctx.giveX; split <;> rfl
@[simp] theorem Ctx.giveX_budget (y : Ctx) (i : BitVec 5) (t : Nat) (v : Xword) : (y.giveX i t v).budget = y.budget := by unfold Ctx.giveX; split <;> rfl
@[simp] theorem Ctx.giveX_guard (y : Ctx) (i : BitVec 5) (t : Nat) (v : Xword) : (y.giveX i t v).guard = y.guard := by unfold Ctx.giveX; split <;> rfl
@[simp] theorem Ctx.giveX_dieMask (y : Ctx) (i : BitVec 5) (t : Nat) (v : Xword) : (y.giveX i t v).dieMask = y.dieMask := by unfold Ctx.giveX; split <;> rfl
@[simp] theorem Ctx.giveX_preemptLimit (y : Ctx) (i : BitVec 5) (t : Nat) (v : Xword) : (y.giveX i t v).preemptLimit = y.preemptLimit := by unfold Ctx.giveX; split <;> rfl
@[simp] theorem Ctx.giveX_tvec (y : Ctx) (i : BitVec 5) (t : Nat) (v : Xword) : (y.giveX i t v).tvec = y.tvec := by unfold Ctx.giveX; split <;> rfl
@[simp] theorem Ctx.giveX_tscr0 (y : Ctx) (i : BitVec 5) (t : Nat) (v : Xword) : (y.giveX i t v).tscr0 = y.tscr0 := by unfold Ctx.giveX; split <;> rfl
@[simp] theorem Ctx.giveX_tscr1 (y : Ctx) (i : BitVec 5) (t : Nat) (v : Xword) : (y.giveX i t v).tscr1 = y.tscr1 := by unfold Ctx.giveX; split <;> rfl
@[simp] theorem Ctx.giveX_fixed (y : Ctx) (i : BitVec 5) (t : Nat) (v : Xword) : (y.giveX i t v).fixed = y.fixed := by unfold Ctx.giveX; split <;> rfl
@[simp] theorem Ctx.giveX_stagger (y : Ctx) (i : BitVec 5) (t : Nat) (v : Xword) : (y.giveX i t v).stagger = y.stagger := by unfold Ctx.giveX; split <;> rfl
@[simp] theorem Ctx.giveX_clkPend (y : Ctx) (i : BitVec 5) (t : Nat) (v : Xword) : (y.giveX i t v).clkPend = y.clkPend := by unfold Ctx.giveX; split <;> rfl
@[simp] theorem Ctx.giveX_trips (y : Ctx) (i : BitVec 5) (t : Nat) (v : Xword) : (y.giveX i t v).trips = y.trips := by unfold Ctx.giveX; split <;> rfl
@[simp] theorem Ctx.giveX_tripReg (y : Ctx) (i : BitVec 5) (t : Nat) (v : Xword) : (y.giveX i t v).tripReg = y.tripReg := by unfold Ctx.giveX; split <;> rfl
@[simp] theorem Ctx.giveX_cyc (y : Ctx) (i : BitVec 5) (t : Nat) (v : Xword) : (y.giveX i t v).cyc = y.cyc := by unfold Ctx.giveX; split <;> rfl
@[simp] theorem Ctx.giveX_used (y : Ctx) (i : BitVec 5) (t : Nat) (v : Xword) : (y.giveX i t v).used = y.used := by unfold Ctx.giveX; split <;> rfl
@[simp] theorem Ctx.giveX_stretch (y : Ctx) (i : BitVec 5) (t : Nat) (v : Xword) : (y.giveX i t v).stretch = y.stretch := by unfold Ctx.giveX; split <;> rfl
@[simp] theorem Ctx.giveX_thrCyc (y : Ctx) (i : BitVec 5) (t : Nat) (v : Xword) : (y.giveX i t v).thrCyc = y.thrCyc := by unfold Ctx.giveX; split <;> rfl
@[simp] theorem Ctx.giveX_tripCyc (y : Ctx) (i : BitVec 5) (t : Nat) (v : Xword) : (y.giveX i t v).tripCyc = y.tripCyc := by unfold Ctx.giveX; split <;> rfl
@[simp] theorem Ctx.giveX_holdCyc (y : Ctx) (i : BitVec 5) (t : Nat) (v : Xword) : (y.giveX i t v).holdCyc = y.holdCyc := by unfold Ctx.giveX; split <;> rfl
@[simp] theorem Ctx.giveX_replay0 (y : Ctx) (i : BitVec 5) (t : Nat) (v : Xword) : (y.giveX i t v).replay0 = y.replay0 := by unfold Ctx.giveX; split <;> rfl
@[simp] theorem Ctx.giveX_replay1 (y : Ctx) (i : BitVec 5) (t : Nat) (v : Xword) : (y.giveX i t v).replay1 = y.replay1 := by unfold Ctx.giveX; split <;> rfl
@[simp] theorem Ctx.giveX_exhaust (y : Ctx) (i : BitVec 5) (t : Nat) (v : Xword) : (y.giveX i t v).exhaust = y.exhaust := by unfold Ctx.giveX; split <;> rfl
@[simp] theorem Ctx.giveX_lastMark (y : Ctx) (i : BitVec 5) (t : Nat) (v : Xword) : (y.giveX i t v).lastMark = y.lastMark := by unfold Ctx.giveX; split <;> rfl
@[simp] theorem Ctx.giveX_counted (y : Ctx) (i : BitVec 5) (t : Nat) (v : Xword) : (y.giveX i t v).counted = y.counted := by unfold Ctx.giveX; split <;> rfl
@[simp] theorem Ctx.giveX_trec (y : Ctx) (i : BitVec 5) (t : Nat) (v : Xword) : (y.giveX i t v).trec = y.trec := by unfold Ctx.giveX; split <;> rfl
@[simp] theorem Ctx.giveX_inHandler (y : Ctx) (i : BitVec 5) (t : Nat) (v : Xword) : (y.giveX i t v).inHandler = y.inHandler := by unfold Ctx.giveX; split <;> rfl
@[simp] theorem Ctx.giveX_rebroadcast (y : Ctx) (i : BitVec 5) (t : Nat) (v : Xword) : (y.giveX i t v).rebroadcast = y.rebroadcast := by unfold Ctx.giveX; split <;> rfl
@[simp] theorem Ctx.giveX_stepDeferred (y : Ctx) (i : BitVec 5) (t : Nat) (v : Xword) : (y.giveX i t v).stepDeferred = y.stepDeferred := by unfold Ctx.giveX; split <;> rfl
@[simp] theorem Ctx.giveX_haltTaken (y : Ctx) (i : BitVec 5) (t : Nat) (v : Xword) : (y.giveX i t v).haltTaken = y.haltTaken := by unfold Ctx.giveX; split <;> rfl
@[simp] theorem Ctx.giveX_tsEarly (y : Ctx) (i : BitVec 5) (t : Nat) (v : Xword) : (y.giveX i t v).tsEarly = y.tsEarly := by unfold Ctx.giveX; split <;> rfl
@[simp] theorem Ctx.giveX_trbNext (y : Ctx) (i : BitVec 5) (t : Nat) (v : Xword) : (y.giveX i t v).trbNext = y.trbNext := by unfold Ctx.giveX; split <;> rfl
@[simp] theorem Ctx.giveX_trbHigh (y : Ctx) (i : BitVec 5) (t : Nat) (v : Xword) : (y.giveX i t v).trbHigh = y.trbHigh := by unfold Ctx.giveX; split <;> rfl
@[simp] theorem Ctx.giveX_dtab (y : Ctx) (i : BitVec 5) (t : Nat) (v : Xword) : (y.giveX i t v).dtab = y.dtab := by unfold Ctx.giveX; split <;> rfl
@[simp] theorem Ctx.giveX_entryMask (y : Ctx) (i : BitVec 5) (t : Nat) (v : Xword) : (y.giveX i t v).entryMask = y.entryMask := by unfold Ctx.giveX; split <;> rfl
@[simp] theorem Ctx.giveX_joins (y : Ctx) (i : BitVec 5) (t : Nat) (v : Xword) : (y.giveX i t v).joins = y.joins := by unfold Ctx.giveX; split <;> rfl
@[simp] theorem Ctx.giveX_arrivals (y : Ctx) (i : BitVec 5) (t : Nat) (v : Xword) : (y.giveX i t v).arrivals = y.arrivals := by unfold Ctx.giveX; split <;> rfl
@[simp] theorem Ctx.giveX_hist (y : Ctx) (i : BitVec 5) (t : Nat) (v : Xword) : (y.giveX i t v).hist = y.hist := by unfold Ctx.giveX; split <;> rfl
@[simp] theorem Ctx.giveX_tree (y : Ctx) (i : BitVec 5) (t : Nat) (v : Xword) : (y.giveX i t v).tree = y.tree := by unfold Ctx.giveX; split <;> rfl
@[simp] theorem Ctx.giveX_acc (y : Ctx) (i : BitVec 5) (t : Nat) (v : Xword) : (y.giveX i t v).acc = y.acc := by unfold Ctx.giveX; split <;> rfl
@[simp] theorem Ctx.giveX_adds (y : Ctx) (i : BitVec 5) (t : Nat) (v : Xword) : (y.giveX i t v).adds = y.adds := by unfold Ctx.giveX; split <;> rfl
@[simp] theorem Ctx.giveX_freeze (y : Ctx) (i : BitVec 5) (t : Nat) (v : Xword) : (y.giveX i t v).freeze = y.freeze := by unfold Ctx.giveX; split <;> rfl
@[simp] theorem Ctx.giveX_resume (y : Ctx) (i : BitVec 5) (t : Nat) (v : Xword) : (y.giveX i t v).resume = y.resume := by unfold Ctx.giveX; split <;> rfl
@[simp] theorem Ctx.giveX_ybar (y : Ctx) (i : BitVec 5) (t : Nat) (v : Xword) : (y.giveX i t v).ybar = y.ybar := by unfold Ctx.giveX; split <;> rfl
@[simp] theorem Ctx.giveX_podRound (y : Ctx) (i : BitVec 5) (t : Nat) (v : Xword) : (y.giveX i t v).podRound = y.podRound := by unfold Ctx.giveX; split <;> rfl
@[simp] theorem Ctx.giveX_podWait (y : Ctx) (i : BitVec 5) (t : Nat) (v : Xword) : (y.giveX i t v).podWait = y.podWait := by unfold Ctx.giveX; split <;> rfl
@[simp] theorem Ctx.giveX_podOuter (y : Ctx) (i : BitVec 5) (t : Nat) (v : Xword) : (y.giveX i t v).podOuter = y.podOuter := by unfold Ctx.giveX; split <;> rfl
@[simp] theorem Ctx.giveX_podIn (y : Ctx) (i : BitVec 5) (t : Nat) (v : Xword) : (y.giveX i t v).podIn = y.podIn := by unfold Ctx.giveX; split <;> rfl
@[simp] theorem Ctx.giveX_dies (y : Ctx) (i : BitVec 5) (t : Nat) (v : Xword) : (y.giveX i t v).dies = y.dies := by unfold Ctx.giveX; split <;> rfl

@[simp] theorem Ctx.giveG_x (y : Ctx) (k : BitVec 3) (t : Nat) (v : Xword) : (y.giveG k t v).x = y.x := by unfold Ctx.giveG; split <;> rfl
@[simp] theorem Ctx.giveG_xPend (y : Ctx) (k : BitVec 3) (t : Nat) (v : Xword) : (y.giveG k t v).xPend = y.xPend := by unfold Ctx.giveG; split <;> rfl
@[simp] theorem Ctx.giveG_tok (y : Ctx) (k : BitVec 3) (t : Nat) (v : Xword) : (y.giveG k t v).tok = y.tok := by unfold Ctx.giveG; split <;> rfl
@[simp] theorem Ctx.giveG_pc (y : Ctx) (k : BitVec 3) (t : Nat) (v : Xword) : (y.giveG k t v).pc = y.pc := by unfold Ctx.giveG; split <;> rfl
@[simp] theorem Ctx.giveG_bsn (y : Ctx) (k : BitVec 3) (t : Nat) (v : Xword) : (y.giveG k t v).bsn = y.bsn := by unfold Ctx.giveG; split <;> rfl
@[simp] theorem Ctx.giveG_lines (y : Ctx) (k : BitVec 3) (t : Nat) (v : Xword) : (y.giveG k t v).lines = y.lines := by unfold Ctx.giveG; split <;> rfl
@[simp] theorem Ctx.giveG_fetchPark (y : Ctx) (k : BitVec 3) (t : Nat) (v : Xword) : (y.giveG k t v).fetchPark = y.fetchPark := by unfold Ctx.giveG; split <;> rfl
@[simp] theorem Ctx.giveG_fpctl (y : Ctx) (k : BitVec 3) (t : Nat) (v : Xword) : (y.giveG k t v).fpctl = y.fpctl := by unfold Ctx.giveG; split <;> rfl
@[simp] theorem Ctx.giveG_coatctl (y : Ctx) (k : BitVec 3) (t : Nat) (v : Xword) : (y.giveG k t v).coatctl = y.coatctl := by unfold Ctx.giveG; split <;> rfl
@[simp] theorem Ctx.giveG_budget (y : Ctx) (k : BitVec 3) (t : Nat) (v : Xword) : (y.giveG k t v).budget = y.budget := by unfold Ctx.giveG; split <;> rfl
@[simp] theorem Ctx.giveG_guard (y : Ctx) (k : BitVec 3) (t : Nat) (v : Xword) : (y.giveG k t v).guard = y.guard := by unfold Ctx.giveG; split <;> rfl
@[simp] theorem Ctx.giveG_dieMask (y : Ctx) (k : BitVec 3) (t : Nat) (v : Xword) : (y.giveG k t v).dieMask = y.dieMask := by unfold Ctx.giveG; split <;> rfl
@[simp] theorem Ctx.giveG_preemptLimit (y : Ctx) (k : BitVec 3) (t : Nat) (v : Xword) : (y.giveG k t v).preemptLimit = y.preemptLimit := by unfold Ctx.giveG; split <;> rfl
@[simp] theorem Ctx.giveG_tvec (y : Ctx) (k : BitVec 3) (t : Nat) (v : Xword) : (y.giveG k t v).tvec = y.tvec := by unfold Ctx.giveG; split <;> rfl
@[simp] theorem Ctx.giveG_tscr0 (y : Ctx) (k : BitVec 3) (t : Nat) (v : Xword) : (y.giveG k t v).tscr0 = y.tscr0 := by unfold Ctx.giveG; split <;> rfl
@[simp] theorem Ctx.giveG_tscr1 (y : Ctx) (k : BitVec 3) (t : Nat) (v : Xword) : (y.giveG k t v).tscr1 = y.tscr1 := by unfold Ctx.giveG; split <;> rfl
@[simp] theorem Ctx.giveG_fixed (y : Ctx) (k : BitVec 3) (t : Nat) (v : Xword) : (y.giveG k t v).fixed = y.fixed := by unfold Ctx.giveG; split <;> rfl
@[simp] theorem Ctx.giveG_stagger (y : Ctx) (k : BitVec 3) (t : Nat) (v : Xword) : (y.giveG k t v).stagger = y.stagger := by unfold Ctx.giveG; split <;> rfl
@[simp] theorem Ctx.giveG_clkPend (y : Ctx) (k : BitVec 3) (t : Nat) (v : Xword) : (y.giveG k t v).clkPend = y.clkPend := by unfold Ctx.giveG; split <;> rfl
@[simp] theorem Ctx.giveG_trips (y : Ctx) (k : BitVec 3) (t : Nat) (v : Xword) : (y.giveG k t v).trips = y.trips := by unfold Ctx.giveG; split <;> rfl
@[simp] theorem Ctx.giveG_tripReg (y : Ctx) (k : BitVec 3) (t : Nat) (v : Xword) : (y.giveG k t v).tripReg = y.tripReg := by unfold Ctx.giveG; split <;> rfl
@[simp] theorem Ctx.giveG_cyc (y : Ctx) (k : BitVec 3) (t : Nat) (v : Xword) : (y.giveG k t v).cyc = y.cyc := by unfold Ctx.giveG; split <;> rfl
@[simp] theorem Ctx.giveG_used (y : Ctx) (k : BitVec 3) (t : Nat) (v : Xword) : (y.giveG k t v).used = y.used := by unfold Ctx.giveG; split <;> rfl
@[simp] theorem Ctx.giveG_stretch (y : Ctx) (k : BitVec 3) (t : Nat) (v : Xword) : (y.giveG k t v).stretch = y.stretch := by unfold Ctx.giveG; split <;> rfl
@[simp] theorem Ctx.giveG_thrCyc (y : Ctx) (k : BitVec 3) (t : Nat) (v : Xword) : (y.giveG k t v).thrCyc = y.thrCyc := by unfold Ctx.giveG; split <;> rfl
@[simp] theorem Ctx.giveG_tripCyc (y : Ctx) (k : BitVec 3) (t : Nat) (v : Xword) : (y.giveG k t v).tripCyc = y.tripCyc := by unfold Ctx.giveG; split <;> rfl
@[simp] theorem Ctx.giveG_holdCyc (y : Ctx) (k : BitVec 3) (t : Nat) (v : Xword) : (y.giveG k t v).holdCyc = y.holdCyc := by unfold Ctx.giveG; split <;> rfl
@[simp] theorem Ctx.giveG_replay0 (y : Ctx) (k : BitVec 3) (t : Nat) (v : Xword) : (y.giveG k t v).replay0 = y.replay0 := by unfold Ctx.giveG; split <;> rfl
@[simp] theorem Ctx.giveG_replay1 (y : Ctx) (k : BitVec 3) (t : Nat) (v : Xword) : (y.giveG k t v).replay1 = y.replay1 := by unfold Ctx.giveG; split <;> rfl
@[simp] theorem Ctx.giveG_exhaust (y : Ctx) (k : BitVec 3) (t : Nat) (v : Xword) : (y.giveG k t v).exhaust = y.exhaust := by unfold Ctx.giveG; split <;> rfl
@[simp] theorem Ctx.giveG_lastMark (y : Ctx) (k : BitVec 3) (t : Nat) (v : Xword) : (y.giveG k t v).lastMark = y.lastMark := by unfold Ctx.giveG; split <;> rfl
@[simp] theorem Ctx.giveG_counted (y : Ctx) (k : BitVec 3) (t : Nat) (v : Xword) : (y.giveG k t v).counted = y.counted := by unfold Ctx.giveG; split <;> rfl
@[simp] theorem Ctx.giveG_trec (y : Ctx) (k : BitVec 3) (t : Nat) (v : Xword) : (y.giveG k t v).trec = y.trec := by unfold Ctx.giveG; split <;> rfl
@[simp] theorem Ctx.giveG_inHandler (y : Ctx) (k : BitVec 3) (t : Nat) (v : Xword) : (y.giveG k t v).inHandler = y.inHandler := by unfold Ctx.giveG; split <;> rfl
@[simp] theorem Ctx.giveG_rebroadcast (y : Ctx) (k : BitVec 3) (t : Nat) (v : Xword) : (y.giveG k t v).rebroadcast = y.rebroadcast := by unfold Ctx.giveG; split <;> rfl
@[simp] theorem Ctx.giveG_stepDeferred (y : Ctx) (k : BitVec 3) (t : Nat) (v : Xword) : (y.giveG k t v).stepDeferred = y.stepDeferred := by unfold Ctx.giveG; split <;> rfl
@[simp] theorem Ctx.giveG_haltTaken (y : Ctx) (k : BitVec 3) (t : Nat) (v : Xword) : (y.giveG k t v).haltTaken = y.haltTaken := by unfold Ctx.giveG; split <;> rfl
@[simp] theorem Ctx.giveG_tsEarly (y : Ctx) (k : BitVec 3) (t : Nat) (v : Xword) : (y.giveG k t v).tsEarly = y.tsEarly := by unfold Ctx.giveG; split <;> rfl
@[simp] theorem Ctx.giveG_trbNext (y : Ctx) (k : BitVec 3) (t : Nat) (v : Xword) : (y.giveG k t v).trbNext = y.trbNext := by unfold Ctx.giveG; split <;> rfl
@[simp] theorem Ctx.giveG_trbHigh (y : Ctx) (k : BitVec 3) (t : Nat) (v : Xword) : (y.giveG k t v).trbHigh = y.trbHigh := by unfold Ctx.giveG; split <;> rfl
@[simp] theorem Ctx.giveG_dtab (y : Ctx) (k : BitVec 3) (t : Nat) (v : Xword) : (y.giveG k t v).dtab = y.dtab := by unfold Ctx.giveG; split <;> rfl
@[simp] theorem Ctx.giveG_entryMask (y : Ctx) (k : BitVec 3) (t : Nat) (v : Xword) : (y.giveG k t v).entryMask = y.entryMask := by unfold Ctx.giveG; split <;> rfl
@[simp] theorem Ctx.giveG_joins (y : Ctx) (k : BitVec 3) (t : Nat) (v : Xword) : (y.giveG k t v).joins = y.joins := by unfold Ctx.giveG; split <;> rfl
@[simp] theorem Ctx.giveG_arrivals (y : Ctx) (k : BitVec 3) (t : Nat) (v : Xword) : (y.giveG k t v).arrivals = y.arrivals := by unfold Ctx.giveG; split <;> rfl
@[simp] theorem Ctx.giveG_hist (y : Ctx) (k : BitVec 3) (t : Nat) (v : Xword) : (y.giveG k t v).hist = y.hist := by unfold Ctx.giveG; split <;> rfl
@[simp] theorem Ctx.giveG_tree (y : Ctx) (k : BitVec 3) (t : Nat) (v : Xword) : (y.giveG k t v).tree = y.tree := by unfold Ctx.giveG; split <;> rfl
@[simp] theorem Ctx.giveG_acc (y : Ctx) (k : BitVec 3) (t : Nat) (v : Xword) : (y.giveG k t v).acc = y.acc := by unfold Ctx.giveG; split <;> rfl
@[simp] theorem Ctx.giveG_adds (y : Ctx) (k : BitVec 3) (t : Nat) (v : Xword) : (y.giveG k t v).adds = y.adds := by unfold Ctx.giveG; split <;> rfl
@[simp] theorem Ctx.giveG_freeze (y : Ctx) (k : BitVec 3) (t : Nat) (v : Xword) : (y.giveG k t v).freeze = y.freeze := by unfold Ctx.giveG; split <;> rfl
@[simp] theorem Ctx.giveG_resume (y : Ctx) (k : BitVec 3) (t : Nat) (v : Xword) : (y.giveG k t v).resume = y.resume := by unfold Ctx.giveG; split <;> rfl
@[simp] theorem Ctx.giveG_ybar (y : Ctx) (k : BitVec 3) (t : Nat) (v : Xword) : (y.giveG k t v).ybar = y.ybar := by unfold Ctx.giveG; split <;> rfl
@[simp] theorem Ctx.giveG_podRound (y : Ctx) (k : BitVec 3) (t : Nat) (v : Xword) : (y.giveG k t v).podRound = y.podRound := by unfold Ctx.giveG; split <;> rfl
@[simp] theorem Ctx.giveG_podWait (y : Ctx) (k : BitVec 3) (t : Nat) (v : Xword) : (y.giveG k t v).podWait = y.podWait := by unfold Ctx.giveG; split <;> rfl
@[simp] theorem Ctx.giveG_podOuter (y : Ctx) (k : BitVec 3) (t : Nat) (v : Xword) : (y.giveG k t v).podOuter = y.podOuter := by unfold Ctx.giveG; split <;> rfl
@[simp] theorem Ctx.giveG_podIn (y : Ctx) (k : BitVec 3) (t : Nat) (v : Xword) : (y.giveG k t v).podIn = y.podIn := by unfold Ctx.giveG; split <;> rfl
@[simp] theorem Ctx.giveG_dies (y : Ctx) (k : BitVec 3) (t : Nat) (v : Xword) : (y.giveG k t v).dies = y.dies := by unfold Ctx.giveG; split <;> rfl

@[simp] theorem Ctx.onDie_x (y : Ctx) (d : Nat) (f : Die → Die) : (y.onDie d f).x = y.x := rfl
@[simp] theorem Ctx.onDie_g (y : Ctx) (d : Nat) (f : Die → Die) : (y.onDie d f).g = y.g := rfl
@[simp] theorem Ctx.onDie_xPend (y : Ctx) (d : Nat) (f : Die → Die) : (y.onDie d f).xPend = y.xPend := rfl
@[simp] theorem Ctx.onDie_gPend (y : Ctx) (d : Nat) (f : Die → Die) : (y.onDie d f).gPend = y.gPend := rfl
@[simp] theorem Ctx.onDie_tok (y : Ctx) (d : Nat) (f : Die → Die) : (y.onDie d f).tok = y.tok := rfl
@[simp] theorem Ctx.onDie_pc (y : Ctx) (d : Nat) (f : Die → Die) : (y.onDie d f).pc = y.pc := rfl
@[simp] theorem Ctx.onDie_bsn (y : Ctx) (d : Nat) (f : Die → Die) : (y.onDie d f).bsn = y.bsn := rfl
@[simp] theorem Ctx.onDie_lines (y : Ctx) (d : Nat) (f : Die → Die) : (y.onDie d f).lines = y.lines := rfl
@[simp] theorem Ctx.onDie_fetchPark (y : Ctx) (d : Nat) (f : Die → Die) : (y.onDie d f).fetchPark = y.fetchPark := rfl
@[simp] theorem Ctx.onDie_fpctl (y : Ctx) (d : Nat) (f : Die → Die) : (y.onDie d f).fpctl = y.fpctl := rfl
@[simp] theorem Ctx.onDie_coatctl (y : Ctx) (d : Nat) (f : Die → Die) : (y.onDie d f).coatctl = y.coatctl := rfl
@[simp] theorem Ctx.onDie_budget (y : Ctx) (d : Nat) (f : Die → Die) : (y.onDie d f).budget = y.budget := rfl
@[simp] theorem Ctx.onDie_guard (y : Ctx) (d : Nat) (f : Die → Die) : (y.onDie d f).guard = y.guard := rfl
@[simp] theorem Ctx.onDie_dieMask (y : Ctx) (d : Nat) (f : Die → Die) : (y.onDie d f).dieMask = y.dieMask := rfl
@[simp] theorem Ctx.onDie_preemptLimit (y : Ctx) (d : Nat) (f : Die → Die) : (y.onDie d f).preemptLimit = y.preemptLimit := rfl
@[simp] theorem Ctx.onDie_tvec (y : Ctx) (d : Nat) (f : Die → Die) : (y.onDie d f).tvec = y.tvec := rfl
@[simp] theorem Ctx.onDie_tscr0 (y : Ctx) (d : Nat) (f : Die → Die) : (y.onDie d f).tscr0 = y.tscr0 := rfl
@[simp] theorem Ctx.onDie_tscr1 (y : Ctx) (d : Nat) (f : Die → Die) : (y.onDie d f).tscr1 = y.tscr1 := rfl
@[simp] theorem Ctx.onDie_fixed (y : Ctx) (d : Nat) (f : Die → Die) : (y.onDie d f).fixed = y.fixed := rfl
@[simp] theorem Ctx.onDie_stagger (y : Ctx) (d : Nat) (f : Die → Die) : (y.onDie d f).stagger = y.stagger := rfl
@[simp] theorem Ctx.onDie_clkPend (y : Ctx) (d : Nat) (f : Die → Die) : (y.onDie d f).clkPend = y.clkPend := rfl
@[simp] theorem Ctx.onDie_trips (y : Ctx) (d : Nat) (f : Die → Die) : (y.onDie d f).trips = y.trips := rfl
@[simp] theorem Ctx.onDie_tripReg (y : Ctx) (d : Nat) (f : Die → Die) : (y.onDie d f).tripReg = y.tripReg := rfl
@[simp] theorem Ctx.onDie_cyc (y : Ctx) (d : Nat) (f : Die → Die) : (y.onDie d f).cyc = y.cyc := rfl
@[simp] theorem Ctx.onDie_used (y : Ctx) (d : Nat) (f : Die → Die) : (y.onDie d f).used = y.used := rfl
@[simp] theorem Ctx.onDie_stretch (y : Ctx) (d : Nat) (f : Die → Die) : (y.onDie d f).stretch = y.stretch := rfl
@[simp] theorem Ctx.onDie_thrCyc (y : Ctx) (d : Nat) (f : Die → Die) : (y.onDie d f).thrCyc = y.thrCyc := rfl
@[simp] theorem Ctx.onDie_tripCyc (y : Ctx) (d : Nat) (f : Die → Die) : (y.onDie d f).tripCyc = y.tripCyc := rfl
@[simp] theorem Ctx.onDie_holdCyc (y : Ctx) (d : Nat) (f : Die → Die) : (y.onDie d f).holdCyc = y.holdCyc := rfl
@[simp] theorem Ctx.onDie_replay0 (y : Ctx) (d : Nat) (f : Die → Die) : (y.onDie d f).replay0 = y.replay0 := rfl
@[simp] theorem Ctx.onDie_replay1 (y : Ctx) (d : Nat) (f : Die → Die) : (y.onDie d f).replay1 = y.replay1 := rfl
@[simp] theorem Ctx.onDie_exhaust (y : Ctx) (d : Nat) (f : Die → Die) : (y.onDie d f).exhaust = y.exhaust := rfl
@[simp] theorem Ctx.onDie_lastMark (y : Ctx) (d : Nat) (f : Die → Die) : (y.onDie d f).lastMark = y.lastMark := rfl
@[simp] theorem Ctx.onDie_counted (y : Ctx) (d : Nat) (f : Die → Die) : (y.onDie d f).counted = y.counted := rfl
@[simp] theorem Ctx.onDie_trec (y : Ctx) (d : Nat) (f : Die → Die) : (y.onDie d f).trec = y.trec := rfl
@[simp] theorem Ctx.onDie_inHandler (y : Ctx) (d : Nat) (f : Die → Die) : (y.onDie d f).inHandler = y.inHandler := rfl
@[simp] theorem Ctx.onDie_rebroadcast (y : Ctx) (d : Nat) (f : Die → Die) : (y.onDie d f).rebroadcast = y.rebroadcast := rfl
@[simp] theorem Ctx.onDie_stepDeferred (y : Ctx) (d : Nat) (f : Die → Die) : (y.onDie d f).stepDeferred = y.stepDeferred := rfl
@[simp] theorem Ctx.onDie_haltTaken (y : Ctx) (d : Nat) (f : Die → Die) : (y.onDie d f).haltTaken = y.haltTaken := rfl
@[simp] theorem Ctx.onDie_tsEarly (y : Ctx) (d : Nat) (f : Die → Die) : (y.onDie d f).tsEarly = y.tsEarly := rfl
@[simp] theorem Ctx.onDie_trbNext (y : Ctx) (d : Nat) (f : Die → Die) : (y.onDie d f).trbNext = y.trbNext := rfl
@[simp] theorem Ctx.onDie_trbHigh (y : Ctx) (d : Nat) (f : Die → Die) : (y.onDie d f).trbHigh = y.trbHigh := rfl
@[simp] theorem Ctx.onDie_dtab (y : Ctx) (d : Nat) (f : Die → Die) : (y.onDie d f).dtab = y.dtab := rfl
@[simp] theorem Ctx.onDie_entryMask (y : Ctx) (d : Nat) (f : Die → Die) : (y.onDie d f).entryMask = y.entryMask := rfl
@[simp] theorem Ctx.onDie_joins (y : Ctx) (d : Nat) (f : Die → Die) : (y.onDie d f).joins = y.joins := rfl
@[simp] theorem Ctx.onDie_arrivals (y : Ctx) (d : Nat) (f : Die → Die) : (y.onDie d f).arrivals = y.arrivals := rfl
@[simp] theorem Ctx.onDie_hist (y : Ctx) (d : Nat) (f : Die → Die) : (y.onDie d f).hist = y.hist := rfl
@[simp] theorem Ctx.onDie_tree (y : Ctx) (d : Nat) (f : Die → Die) : (y.onDie d f).tree = y.tree := rfl
@[simp] theorem Ctx.onDie_acc (y : Ctx) (d : Nat) (f : Die → Die) : (y.onDie d f).acc = y.acc := rfl
@[simp] theorem Ctx.onDie_adds (y : Ctx) (d : Nat) (f : Die → Die) : (y.onDie d f).adds = y.adds := rfl
@[simp] theorem Ctx.onDie_freeze (y : Ctx) (d : Nat) (f : Die → Die) : (y.onDie d f).freeze = y.freeze := rfl
@[simp] theorem Ctx.onDie_resume (y : Ctx) (d : Nat) (f : Die → Die) : (y.onDie d f).resume = y.resume := rfl
@[simp] theorem Ctx.onDie_ybar (y : Ctx) (d : Nat) (f : Die → Die) : (y.onDie d f).ybar = y.ybar := rfl
@[simp] theorem Ctx.onDie_podRound (y : Ctx) (d : Nat) (f : Die → Die) : (y.onDie d f).podRound = y.podRound := rfl
@[simp] theorem Ctx.onDie_podWait (y : Ctx) (d : Nat) (f : Die → Die) : (y.onDie d f).podWait = y.podWait := rfl
@[simp] theorem Ctx.onDie_podOuter (y : Ctx) (d : Nat) (f : Die → Die) : (y.onDie d f).podOuter = y.podOuter := rfl
@[simp] theorem Ctx.onDie_podIn (y : Ctx) (d : Nat) (f : Die → Die) : (y.onDie d f).podIn = y.podIn := rfl

@[simp] theorem Ctx.onCell_x (y : Ctx) (d i : Nat) (f : Cell → Cell) : (y.onCell d i f).x = y.x := rfl
@[simp] theorem Ctx.onCell_g (y : Ctx) (d i : Nat) (f : Cell → Cell) : (y.onCell d i f).g = y.g := rfl
@[simp] theorem Ctx.onCell_xPend (y : Ctx) (d i : Nat) (f : Cell → Cell) : (y.onCell d i f).xPend = y.xPend := rfl
@[simp] theorem Ctx.onCell_gPend (y : Ctx) (d i : Nat) (f : Cell → Cell) : (y.onCell d i f).gPend = y.gPend := rfl
@[simp] theorem Ctx.onCell_tok (y : Ctx) (d i : Nat) (f : Cell → Cell) : (y.onCell d i f).tok = y.tok := rfl
@[simp] theorem Ctx.onCell_pc (y : Ctx) (d i : Nat) (f : Cell → Cell) : (y.onCell d i f).pc = y.pc := rfl
@[simp] theorem Ctx.onCell_bsn (y : Ctx) (d i : Nat) (f : Cell → Cell) : (y.onCell d i f).bsn = y.bsn := rfl
@[simp] theorem Ctx.onCell_lines (y : Ctx) (d i : Nat) (f : Cell → Cell) : (y.onCell d i f).lines = y.lines := rfl
@[simp] theorem Ctx.onCell_fetchPark (y : Ctx) (d i : Nat) (f : Cell → Cell) : (y.onCell d i f).fetchPark = y.fetchPark := rfl
@[simp] theorem Ctx.onCell_fpctl (y : Ctx) (d i : Nat) (f : Cell → Cell) : (y.onCell d i f).fpctl = y.fpctl := rfl
@[simp] theorem Ctx.onCell_coatctl (y : Ctx) (d i : Nat) (f : Cell → Cell) : (y.onCell d i f).coatctl = y.coatctl := rfl
@[simp] theorem Ctx.onCell_budget (y : Ctx) (d i : Nat) (f : Cell → Cell) : (y.onCell d i f).budget = y.budget := rfl
@[simp] theorem Ctx.onCell_guard (y : Ctx) (d i : Nat) (f : Cell → Cell) : (y.onCell d i f).guard = y.guard := rfl
@[simp] theorem Ctx.onCell_dieMask (y : Ctx) (d i : Nat) (f : Cell → Cell) : (y.onCell d i f).dieMask = y.dieMask := rfl
@[simp] theorem Ctx.onCell_preemptLimit (y : Ctx) (d i : Nat) (f : Cell → Cell) : (y.onCell d i f).preemptLimit = y.preemptLimit := rfl
@[simp] theorem Ctx.onCell_tvec (y : Ctx) (d i : Nat) (f : Cell → Cell) : (y.onCell d i f).tvec = y.tvec := rfl
@[simp] theorem Ctx.onCell_tscr0 (y : Ctx) (d i : Nat) (f : Cell → Cell) : (y.onCell d i f).tscr0 = y.tscr0 := rfl
@[simp] theorem Ctx.onCell_tscr1 (y : Ctx) (d i : Nat) (f : Cell → Cell) : (y.onCell d i f).tscr1 = y.tscr1 := rfl
@[simp] theorem Ctx.onCell_fixed (y : Ctx) (d i : Nat) (f : Cell → Cell) : (y.onCell d i f).fixed = y.fixed := rfl
@[simp] theorem Ctx.onCell_stagger (y : Ctx) (d i : Nat) (f : Cell → Cell) : (y.onCell d i f).stagger = y.stagger := rfl
@[simp] theorem Ctx.onCell_clkPend (y : Ctx) (d i : Nat) (f : Cell → Cell) : (y.onCell d i f).clkPend = y.clkPend := rfl
@[simp] theorem Ctx.onCell_trips (y : Ctx) (d i : Nat) (f : Cell → Cell) : (y.onCell d i f).trips = y.trips := rfl
@[simp] theorem Ctx.onCell_tripReg (y : Ctx) (d i : Nat) (f : Cell → Cell) : (y.onCell d i f).tripReg = y.tripReg := rfl
@[simp] theorem Ctx.onCell_cyc (y : Ctx) (d i : Nat) (f : Cell → Cell) : (y.onCell d i f).cyc = y.cyc := rfl
@[simp] theorem Ctx.onCell_used (y : Ctx) (d i : Nat) (f : Cell → Cell) : (y.onCell d i f).used = y.used := rfl
@[simp] theorem Ctx.onCell_stretch (y : Ctx) (d i : Nat) (f : Cell → Cell) : (y.onCell d i f).stretch = y.stretch := rfl
@[simp] theorem Ctx.onCell_thrCyc (y : Ctx) (d i : Nat) (f : Cell → Cell) : (y.onCell d i f).thrCyc = y.thrCyc := rfl
@[simp] theorem Ctx.onCell_tripCyc (y : Ctx) (d i : Nat) (f : Cell → Cell) : (y.onCell d i f).tripCyc = y.tripCyc := rfl
@[simp] theorem Ctx.onCell_holdCyc (y : Ctx) (d i : Nat) (f : Cell → Cell) : (y.onCell d i f).holdCyc = y.holdCyc := rfl
@[simp] theorem Ctx.onCell_replay0 (y : Ctx) (d i : Nat) (f : Cell → Cell) : (y.onCell d i f).replay0 = y.replay0 := rfl
@[simp] theorem Ctx.onCell_replay1 (y : Ctx) (d i : Nat) (f : Cell → Cell) : (y.onCell d i f).replay1 = y.replay1 := rfl
@[simp] theorem Ctx.onCell_exhaust (y : Ctx) (d i : Nat) (f : Cell → Cell) : (y.onCell d i f).exhaust = y.exhaust := rfl
@[simp] theorem Ctx.onCell_lastMark (y : Ctx) (d i : Nat) (f : Cell → Cell) : (y.onCell d i f).lastMark = y.lastMark := rfl
@[simp] theorem Ctx.onCell_counted (y : Ctx) (d i : Nat) (f : Cell → Cell) : (y.onCell d i f).counted = y.counted := rfl
@[simp] theorem Ctx.onCell_trec (y : Ctx) (d i : Nat) (f : Cell → Cell) : (y.onCell d i f).trec = y.trec := rfl
@[simp] theorem Ctx.onCell_inHandler (y : Ctx) (d i : Nat) (f : Cell → Cell) : (y.onCell d i f).inHandler = y.inHandler := rfl
@[simp] theorem Ctx.onCell_rebroadcast (y : Ctx) (d i : Nat) (f : Cell → Cell) : (y.onCell d i f).rebroadcast = y.rebroadcast := rfl
@[simp] theorem Ctx.onCell_stepDeferred (y : Ctx) (d i : Nat) (f : Cell → Cell) : (y.onCell d i f).stepDeferred = y.stepDeferred := rfl
@[simp] theorem Ctx.onCell_haltTaken (y : Ctx) (d i : Nat) (f : Cell → Cell) : (y.onCell d i f).haltTaken = y.haltTaken := rfl
@[simp] theorem Ctx.onCell_tsEarly (y : Ctx) (d i : Nat) (f : Cell → Cell) : (y.onCell d i f).tsEarly = y.tsEarly := rfl
@[simp] theorem Ctx.onCell_trbNext (y : Ctx) (d i : Nat) (f : Cell → Cell) : (y.onCell d i f).trbNext = y.trbNext := rfl
@[simp] theorem Ctx.onCell_trbHigh (y : Ctx) (d i : Nat) (f : Cell → Cell) : (y.onCell d i f).trbHigh = y.trbHigh := rfl
@[simp] theorem Ctx.onCell_dtab (y : Ctx) (d i : Nat) (f : Cell → Cell) : (y.onCell d i f).dtab = y.dtab := rfl
@[simp] theorem Ctx.onCell_entryMask (y : Ctx) (d i : Nat) (f : Cell → Cell) : (y.onCell d i f).entryMask = y.entryMask := rfl
@[simp] theorem Ctx.onCell_joins (y : Ctx) (d i : Nat) (f : Cell → Cell) : (y.onCell d i f).joins = y.joins := rfl
@[simp] theorem Ctx.onCell_arrivals (y : Ctx) (d i : Nat) (f : Cell → Cell) : (y.onCell d i f).arrivals = y.arrivals := rfl
@[simp] theorem Ctx.onCell_hist (y : Ctx) (d i : Nat) (f : Cell → Cell) : (y.onCell d i f).hist = y.hist := rfl
@[simp] theorem Ctx.onCell_tree (y : Ctx) (d i : Nat) (f : Cell → Cell) : (y.onCell d i f).tree = y.tree := rfl
@[simp] theorem Ctx.onCell_acc (y : Ctx) (d i : Nat) (f : Cell → Cell) : (y.onCell d i f).acc = y.acc := rfl
@[simp] theorem Ctx.onCell_adds (y : Ctx) (d i : Nat) (f : Cell → Cell) : (y.onCell d i f).adds = y.adds := rfl
@[simp] theorem Ctx.onCell_freeze (y : Ctx) (d i : Nat) (f : Cell → Cell) : (y.onCell d i f).freeze = y.freeze := rfl
@[simp] theorem Ctx.onCell_resume (y : Ctx) (d i : Nat) (f : Cell → Cell) : (y.onCell d i f).resume = y.resume := rfl
@[simp] theorem Ctx.onCell_ybar (y : Ctx) (d i : Nat) (f : Cell → Cell) : (y.onCell d i f).ybar = y.ybar := rfl
@[simp] theorem Ctx.onCell_podRound (y : Ctx) (d i : Nat) (f : Cell → Cell) : (y.onCell d i f).podRound = y.podRound := rfl
@[simp] theorem Ctx.onCell_podWait (y : Ctx) (d i : Nat) (f : Cell → Cell) : (y.onCell d i f).podWait = y.podWait := rfl
@[simp] theorem Ctx.onCell_podOuter (y : Ctx) (d i : Nat) (f : Cell → Cell) : (y.onCell d i f).podOuter = y.podOuter := rfl
@[simp] theorem Ctx.onCell_podIn (y : Ctx) (d i : Nat) (f : Cell → Cell) : (y.onCell d i f).podIn = y.podIn := rfl

@[simp] theorem Ctx.arrive_x (y : Ctx) (j : BitVec 6) : (y.arrive j).x = y.x := rfl
@[simp] theorem Ctx.arrive_g (y : Ctx) (j : BitVec 6) : (y.arrive j).g = y.g := rfl
@[simp] theorem Ctx.arrive_xPend (y : Ctx) (j : BitVec 6) : (y.arrive j).xPend = y.xPend := rfl
@[simp] theorem Ctx.arrive_gPend (y : Ctx) (j : BitVec 6) : (y.arrive j).gPend = y.gPend := rfl
@[simp] theorem Ctx.arrive_tok (y : Ctx) (j : BitVec 6) : (y.arrive j).tok = y.tok := rfl
@[simp] theorem Ctx.arrive_pc (y : Ctx) (j : BitVec 6) : (y.arrive j).pc = y.pc := rfl
@[simp] theorem Ctx.arrive_bsn (y : Ctx) (j : BitVec 6) : (y.arrive j).bsn = y.bsn := rfl
@[simp] theorem Ctx.arrive_lines (y : Ctx) (j : BitVec 6) : (y.arrive j).lines = y.lines := rfl
@[simp] theorem Ctx.arrive_fetchPark (y : Ctx) (j : BitVec 6) : (y.arrive j).fetchPark = y.fetchPark := rfl
@[simp] theorem Ctx.arrive_fpctl (y : Ctx) (j : BitVec 6) : (y.arrive j).fpctl = y.fpctl := rfl
@[simp] theorem Ctx.arrive_coatctl (y : Ctx) (j : BitVec 6) : (y.arrive j).coatctl = y.coatctl := rfl
@[simp] theorem Ctx.arrive_budget (y : Ctx) (j : BitVec 6) : (y.arrive j).budget = y.budget := rfl
@[simp] theorem Ctx.arrive_guard (y : Ctx) (j : BitVec 6) : (y.arrive j).guard = y.guard := rfl
@[simp] theorem Ctx.arrive_dieMask (y : Ctx) (j : BitVec 6) : (y.arrive j).dieMask = y.dieMask := rfl
@[simp] theorem Ctx.arrive_preemptLimit (y : Ctx) (j : BitVec 6) : (y.arrive j).preemptLimit = y.preemptLimit := rfl
@[simp] theorem Ctx.arrive_tvec (y : Ctx) (j : BitVec 6) : (y.arrive j).tvec = y.tvec := rfl
@[simp] theorem Ctx.arrive_tscr0 (y : Ctx) (j : BitVec 6) : (y.arrive j).tscr0 = y.tscr0 := rfl
@[simp] theorem Ctx.arrive_tscr1 (y : Ctx) (j : BitVec 6) : (y.arrive j).tscr1 = y.tscr1 := rfl
@[simp] theorem Ctx.arrive_fixed (y : Ctx) (j : BitVec 6) : (y.arrive j).fixed = y.fixed := rfl
@[simp] theorem Ctx.arrive_stagger (y : Ctx) (j : BitVec 6) : (y.arrive j).stagger = y.stagger := rfl
@[simp] theorem Ctx.arrive_clkPend (y : Ctx) (j : BitVec 6) : (y.arrive j).clkPend = y.clkPend := rfl
@[simp] theorem Ctx.arrive_trips (y : Ctx) (j : BitVec 6) : (y.arrive j).trips = y.trips := rfl
@[simp] theorem Ctx.arrive_tripReg (y : Ctx) (j : BitVec 6) : (y.arrive j).tripReg = y.tripReg := rfl
@[simp] theorem Ctx.arrive_cyc (y : Ctx) (j : BitVec 6) : (y.arrive j).cyc = y.cyc := rfl
@[simp] theorem Ctx.arrive_used (y : Ctx) (j : BitVec 6) : (y.arrive j).used = y.used := rfl
@[simp] theorem Ctx.arrive_stretch (y : Ctx) (j : BitVec 6) : (y.arrive j).stretch = y.stretch := rfl
@[simp] theorem Ctx.arrive_thrCyc (y : Ctx) (j : BitVec 6) : (y.arrive j).thrCyc = y.thrCyc := rfl
@[simp] theorem Ctx.arrive_tripCyc (y : Ctx) (j : BitVec 6) : (y.arrive j).tripCyc = y.tripCyc := rfl
@[simp] theorem Ctx.arrive_holdCyc (y : Ctx) (j : BitVec 6) : (y.arrive j).holdCyc = y.holdCyc := rfl
@[simp] theorem Ctx.arrive_replay0 (y : Ctx) (j : BitVec 6) : (y.arrive j).replay0 = y.replay0 := rfl
@[simp] theorem Ctx.arrive_replay1 (y : Ctx) (j : BitVec 6) : (y.arrive j).replay1 = y.replay1 := rfl
@[simp] theorem Ctx.arrive_exhaust (y : Ctx) (j : BitVec 6) : (y.arrive j).exhaust = y.exhaust := rfl
@[simp] theorem Ctx.arrive_lastMark (y : Ctx) (j : BitVec 6) : (y.arrive j).lastMark = y.lastMark := rfl
@[simp] theorem Ctx.arrive_counted (y : Ctx) (j : BitVec 6) : (y.arrive j).counted = y.counted := rfl
@[simp] theorem Ctx.arrive_trec (y : Ctx) (j : BitVec 6) : (y.arrive j).trec = y.trec := rfl
@[simp] theorem Ctx.arrive_inHandler (y : Ctx) (j : BitVec 6) : (y.arrive j).inHandler = y.inHandler := rfl
@[simp] theorem Ctx.arrive_rebroadcast (y : Ctx) (j : BitVec 6) : (y.arrive j).rebroadcast = y.rebroadcast := rfl
@[simp] theorem Ctx.arrive_stepDeferred (y : Ctx) (j : BitVec 6) : (y.arrive j).stepDeferred = y.stepDeferred := rfl
@[simp] theorem Ctx.arrive_haltTaken (y : Ctx) (j : BitVec 6) : (y.arrive j).haltTaken = y.haltTaken := rfl
@[simp] theorem Ctx.arrive_tsEarly (y : Ctx) (j : BitVec 6) : (y.arrive j).tsEarly = y.tsEarly := rfl
@[simp] theorem Ctx.arrive_trbNext (y : Ctx) (j : BitVec 6) : (y.arrive j).trbNext = y.trbNext := rfl
@[simp] theorem Ctx.arrive_trbHigh (y : Ctx) (j : BitVec 6) : (y.arrive j).trbHigh = y.trbHigh := rfl
@[simp] theorem Ctx.arrive_dtab (y : Ctx) (j : BitVec 6) : (y.arrive j).dtab = y.dtab := rfl
@[simp] theorem Ctx.arrive_entryMask (y : Ctx) (j : BitVec 6) : (y.arrive j).entryMask = y.entryMask := rfl
@[simp] theorem Ctx.arrive_joins (y : Ctx) (j : BitVec 6) : (y.arrive j).joins = y.joins := rfl
@[simp] theorem Ctx.arrive_hist (y : Ctx) (j : BitVec 6) : (y.arrive j).hist = y.hist := rfl
@[simp] theorem Ctx.arrive_tree (y : Ctx) (j : BitVec 6) : (y.arrive j).tree = y.tree := rfl
@[simp] theorem Ctx.arrive_acc (y : Ctx) (j : BitVec 6) : (y.arrive j).acc = y.acc := rfl
@[simp] theorem Ctx.arrive_adds (y : Ctx) (j : BitVec 6) : (y.arrive j).adds = y.adds := rfl
@[simp] theorem Ctx.arrive_freeze (y : Ctx) (j : BitVec 6) : (y.arrive j).freeze = y.freeze := rfl
@[simp] theorem Ctx.arrive_resume (y : Ctx) (j : BitVec 6) : (y.arrive j).resume = y.resume := rfl
@[simp] theorem Ctx.arrive_ybar (y : Ctx) (j : BitVec 6) : (y.arrive j).ybar = y.ybar := rfl
@[simp] theorem Ctx.arrive_podRound (y : Ctx) (j : BitVec 6) : (y.arrive j).podRound = y.podRound := rfl
@[simp] theorem Ctx.arrive_podWait (y : Ctx) (j : BitVec 6) : (y.arrive j).podWait = y.podWait := rfl
@[simp] theorem Ctx.arrive_podOuter (y : Ctx) (j : BitVec 6) : (y.arrive j).podOuter = y.podOuter := rfl
@[simp] theorem Ctx.arrive_podIn (y : Ctx) (j : BitVec 6) : (y.arrive j).podIn = y.podIn := rfl
@[simp] theorem Ctx.arrive_dies (y : Ctx) (j : BitVec 6) : (y.arrive j).dies = y.dies := rfl

/-- A written register holds the value, but for x0, which reads zero (R287). -/
theorem Ctx.getX_setX_same (y : Ctx) (i : BitVec 5) (v : Xword) : (y.setX i v).getX i = if i = 0 then 0 else v := by
  unfold Ctx.getX Ctx.setX
  split <;> simp_all
theorem Ctx.getX_setX_ne (y : Ctx) {i j : BitVec 5} (v : Xword) (h : j ≠ i) : (y.setX i v).getX j = y.getX j := by
  unfold Ctx.getX Ctx.setX
  by_cases hi : i = 0
  · rw [if_pos hi]
  · by_cases hj : j = 0
    · rw [if_pos hj, if_pos hj]
    · rw [if_neg hj, if_neg hj, if_neg hi, RegFile.get_put_ne _ _ h]
@[simp] theorem Ctx.getX_zero (y : Ctx) : y.getX 0 = 0 := rfl

/-! ### Updates of a cell -/

@[simp] theorem Cell.setV_m (q : Cell) (i : BitVec 5) (v : Vec) : (q.setV i v).m = q.m := rfl
@[simp] theorem Cell.setV_b (q : Cell) (i : BitVec 5) (v : Vec) : (q.setV i v).b = q.b := rfl
@[simp] theorem Cell.setV_c (q : Cell) (i : BitVec 5) (v : Vec) : (q.setV i v).c = q.c := rfl
@[simp] theorem Cell.setV_act (q : Cell) (i : BitVec 5) (v : Vec) : (q.setV i v).act = q.act := rfl
@[simp] theorem Cell.setV_stack (q : Cell) (i : BitVec 5) (v : Vec) : (q.setV i v).stack = q.stack := rfl
@[simp] theorem Cell.setV_acc (q : Cell) (i : BitVec 5) (v : Vec) : (q.setV i v).acc = q.acc := rfl
@[simp] theorem Cell.setV_q (q : Cell) (i : BitVec 5) (v : Vec) : (q.setV i v).q = q.q := rfl
@[simp] theorem Cell.setV_h (q : Cell) (i : BitVec 5) (v : Vec) : (q.setV i v).h = q.h := rfl
@[simp] theorem Cell.setV_y (q : Cell) (i : BitVec 5) (v : Vec) : (q.setV i v).y = q.y := rfl
@[simp] theorem Cell.setV_tl (q : Cell) (i : BitVec 5) (v : Vec) : (q.setV i v).tl = q.tl := rfl
@[simp] theorem Cell.setV_issue (q : Cell) (i : BitVec 5) (v : Vec) : (q.setV i v).issue = q.issue := rfl
@[simp] theorem Cell.setV_cflags (q : Cell) (i : BitVec 5) (v : Vec) : (q.setV i v).cflags = q.cflags := rfl
@[simp] theorem Cell.setV_rc0 (q : Cell) (i : BitVec 5) (v : Vec) : (q.setV i v).rc0 = q.rc0 := rfl
@[simp] theorem Cell.setV_rc1 (q : Cell) (i : BitVec 5) (v : Vec) : (q.setV i v).rc1 = q.rc1 := rfl
@[simp] theorem Cell.setV_exh (q : Cell) (i : BitVec 5) (v : Vec) : (q.setV i v).exh = q.exh := rfl
@[simp] theorem Cell.setV_monlast (q : Cell) (i : BitVec 5) (v : Vec) : (q.setV i v).monlast = q.monlast := rfl
@[simp] theorem Cell.setV_pad (q : Cell) (i : BitVec 5) (v : Vec) : (q.setV i v).pad = q.pad := rfl
@[simp] theorem Cell.setV_hawk (q : Cell) (i : BitVec 5) (v : Vec) : (q.setV i v).hawk = q.hawk := rfl
@[simp] theorem Cell.setV_guards (q : Cell) (i : BitVec 5) (v : Vec) : (q.setV i v).guards = q.guards := rfl
@[simp] theorem Cell.setV_openRow (q : Cell) (i : BitVec 5) (v : Vec) : (q.setV i v).openRow = q.openRow := rfl
@[simp] theorem Cell.setV_seqNo (q : Cell) (i : BitVec 5) (v : Vec) : (q.setV i v).seqNo = q.seqNo := rfl
@[simp] theorem Cell.setV_cmds (q : Cell) (i : BitVec 5) (v : Vec) : (q.setV i v).cmds = q.cmds := rfl
@[simp] theorem Cell.setV_tiles (q : Cell) (i : BitVec 5) (v : Vec) : (q.setV i v).tiles = q.tiles := rfl
@[simp] theorem Cell.setV_tileNo (q : Cell) (i : BitVec 5) (v : Vec) : (q.setV i v).tileNo = q.tileNo := rfl
@[simp] theorem Cell.setV_leaving (q : Cell) (i : BitVec 5) (v : Vec) : (q.setV i v).leaving = q.leaving := rfl
@[simp] theorem Cell.setV_contrib (q : Cell) (i : BitVec 5) (v : Vec) : (q.setV i v).contrib = q.contrib := rfl
@[simp] theorem Cell.setV_stored (q : Cell) (i : BitVec 5) (v : Vec) : (q.setV i v).stored = q.stored := rfl
@[simp] theorem Cell.setV_raced (q : Cell) (i : BitVec 5) (v : Vec) : (q.setV i v).raced = q.raced := rfl
@[simp] theorem Cell.setV_fence (q : Cell) (i : BitVec 5) (v : Vec) : (q.setV i v).fence = q.fence := rfl
@[simp] theorem Cell.setV_waited (q : Cell) (i : BitVec 5) (v : Vec) : (q.setV i v).waited = q.waited := rfl

@[simp] theorem Cell.setC_v (q : Cell) (i : BitVec 2) (v : Bool) : (q.setC i v).v = q.v := rfl
@[simp] theorem Cell.setC_m (q : Cell) (i : BitVec 2) (v : Bool) : (q.setC i v).m = q.m := rfl
@[simp] theorem Cell.setC_b (q : Cell) (i : BitVec 2) (v : Bool) : (q.setC i v).b = q.b := rfl
@[simp] theorem Cell.setC_act (q : Cell) (i : BitVec 2) (v : Bool) : (q.setC i v).act = q.act := rfl
@[simp] theorem Cell.setC_stack (q : Cell) (i : BitVec 2) (v : Bool) : (q.setC i v).stack = q.stack := rfl
@[simp] theorem Cell.setC_acc (q : Cell) (i : BitVec 2) (v : Bool) : (q.setC i v).acc = q.acc := rfl
@[simp] theorem Cell.setC_q (q : Cell) (i : BitVec 2) (v : Bool) : (q.setC i v).q = q.q := rfl
@[simp] theorem Cell.setC_h (q : Cell) (i : BitVec 2) (v : Bool) : (q.setC i v).h = q.h := rfl
@[simp] theorem Cell.setC_y (q : Cell) (i : BitVec 2) (v : Bool) : (q.setC i v).y = q.y := rfl
@[simp] theorem Cell.setC_tl (q : Cell) (i : BitVec 2) (v : Bool) : (q.setC i v).tl = q.tl := rfl
@[simp] theorem Cell.setC_issue (q : Cell) (i : BitVec 2) (v : Bool) : (q.setC i v).issue = q.issue := rfl
@[simp] theorem Cell.setC_cflags (q : Cell) (i : BitVec 2) (v : Bool) : (q.setC i v).cflags = q.cflags := rfl
@[simp] theorem Cell.setC_rc0 (q : Cell) (i : BitVec 2) (v : Bool) : (q.setC i v).rc0 = q.rc0 := rfl
@[simp] theorem Cell.setC_rc1 (q : Cell) (i : BitVec 2) (v : Bool) : (q.setC i v).rc1 = q.rc1 := rfl
@[simp] theorem Cell.setC_exh (q : Cell) (i : BitVec 2) (v : Bool) : (q.setC i v).exh = q.exh := rfl
@[simp] theorem Cell.setC_monlast (q : Cell) (i : BitVec 2) (v : Bool) : (q.setC i v).monlast = q.monlast := rfl
@[simp] theorem Cell.setC_pad (q : Cell) (i : BitVec 2) (v : Bool) : (q.setC i v).pad = q.pad := rfl
@[simp] theorem Cell.setC_hawk (q : Cell) (i : BitVec 2) (v : Bool) : (q.setC i v).hawk = q.hawk := rfl
@[simp] theorem Cell.setC_guards (q : Cell) (i : BitVec 2) (v : Bool) : (q.setC i v).guards = q.guards := rfl
@[simp] theorem Cell.setC_openRow (q : Cell) (i : BitVec 2) (v : Bool) : (q.setC i v).openRow = q.openRow := rfl
@[simp] theorem Cell.setC_seqNo (q : Cell) (i : BitVec 2) (v : Bool) : (q.setC i v).seqNo = q.seqNo := rfl
@[simp] theorem Cell.setC_cmds (q : Cell) (i : BitVec 2) (v : Bool) : (q.setC i v).cmds = q.cmds := rfl
@[simp] theorem Cell.setC_tiles (q : Cell) (i : BitVec 2) (v : Bool) : (q.setC i v).tiles = q.tiles := rfl
@[simp] theorem Cell.setC_tileNo (q : Cell) (i : BitVec 2) (v : Bool) : (q.setC i v).tileNo = q.tileNo := rfl
@[simp] theorem Cell.setC_leaving (q : Cell) (i : BitVec 2) (v : Bool) : (q.setC i v).leaving = q.leaving := rfl
@[simp] theorem Cell.setC_contrib (q : Cell) (i : BitVec 2) (v : Bool) : (q.setC i v).contrib = q.contrib := rfl
@[simp] theorem Cell.setC_stored (q : Cell) (i : BitVec 2) (v : Bool) : (q.setC i v).stored = q.stored := rfl
@[simp] theorem Cell.setC_raced (q : Cell) (i : BitVec 2) (v : Bool) : (q.setC i v).raced = q.raced := rfl
@[simp] theorem Cell.setC_fence (q : Cell) (i : BitVec 2) (v : Bool) : (q.setC i v).fence = q.fence := rfl
@[simp] theorem Cell.setC_waited (q : Cell) (i : BitVec 2) (v : Bool) : (q.setC i v).waited = q.waited := rfl

@[simp] theorem Cell.setB_v (q : Cell) (i : BitVec 4) (v : Word) : (q.setB i v).v = q.v := by unfold Cell.setB; split <;> rfl
@[simp] theorem Cell.setB_m (q : Cell) (i : BitVec 4) (v : Word) : (q.setB i v).m = q.m := by unfold Cell.setB; split <;> rfl
@[simp] theorem Cell.setB_c (q : Cell) (i : BitVec 4) (v : Word) : (q.setB i v).c = q.c := by unfold Cell.setB; split <;> rfl
@[simp] theorem Cell.setB_act (q : Cell) (i : BitVec 4) (v : Word) : (q.setB i v).act = q.act := by unfold Cell.setB; split <;> rfl
@[simp] theorem Cell.setB_stack (q : Cell) (i : BitVec 4) (v : Word) : (q.setB i v).stack = q.stack := by unfold Cell.setB; split <;> rfl
@[simp] theorem Cell.setB_acc (q : Cell) (i : BitVec 4) (v : Word) : (q.setB i v).acc = q.acc := by unfold Cell.setB; split <;> rfl
@[simp] theorem Cell.setB_q (q : Cell) (i : BitVec 4) (v : Word) : (q.setB i v).q = q.q := by unfold Cell.setB; split <;> rfl
@[simp] theorem Cell.setB_h (q : Cell) (i : BitVec 4) (v : Word) : (q.setB i v).h = q.h := by unfold Cell.setB; split <;> rfl
@[simp] theorem Cell.setB_y (q : Cell) (i : BitVec 4) (v : Word) : (q.setB i v).y = q.y := by unfold Cell.setB; split <;> rfl
@[simp] theorem Cell.setB_tl (q : Cell) (i : BitVec 4) (v : Word) : (q.setB i v).tl = q.tl := by unfold Cell.setB; split <;> rfl
@[simp] theorem Cell.setB_issue (q : Cell) (i : BitVec 4) (v : Word) : (q.setB i v).issue = q.issue := by unfold Cell.setB; split <;> rfl
@[simp] theorem Cell.setB_cflags (q : Cell) (i : BitVec 4) (v : Word) : (q.setB i v).cflags = q.cflags := by unfold Cell.setB; split <;> rfl
@[simp] theorem Cell.setB_rc0 (q : Cell) (i : BitVec 4) (v : Word) : (q.setB i v).rc0 = q.rc0 := by unfold Cell.setB; split <;> rfl
@[simp] theorem Cell.setB_rc1 (q : Cell) (i : BitVec 4) (v : Word) : (q.setB i v).rc1 = q.rc1 := by unfold Cell.setB; split <;> rfl
@[simp] theorem Cell.setB_exh (q : Cell) (i : BitVec 4) (v : Word) : (q.setB i v).exh = q.exh := by unfold Cell.setB; split <;> rfl
@[simp] theorem Cell.setB_monlast (q : Cell) (i : BitVec 4) (v : Word) : (q.setB i v).monlast = q.monlast := by unfold Cell.setB; split <;> rfl
@[simp] theorem Cell.setB_pad (q : Cell) (i : BitVec 4) (v : Word) : (q.setB i v).pad = q.pad := by unfold Cell.setB; split <;> rfl
@[simp] theorem Cell.setB_hawk (q : Cell) (i : BitVec 4) (v : Word) : (q.setB i v).hawk = q.hawk := by unfold Cell.setB; split <;> rfl
@[simp] theorem Cell.setB_guards (q : Cell) (i : BitVec 4) (v : Word) : (q.setB i v).guards = q.guards := by unfold Cell.setB; split <;> rfl
@[simp] theorem Cell.setB_openRow (q : Cell) (i : BitVec 4) (v : Word) : (q.setB i v).openRow = q.openRow := by unfold Cell.setB; split <;> rfl
@[simp] theorem Cell.setB_seqNo (q : Cell) (i : BitVec 4) (v : Word) : (q.setB i v).seqNo = q.seqNo := by unfold Cell.setB; split <;> rfl
@[simp] theorem Cell.setB_cmds (q : Cell) (i : BitVec 4) (v : Word) : (q.setB i v).cmds = q.cmds := by unfold Cell.setB; split <;> rfl
@[simp] theorem Cell.setB_tiles (q : Cell) (i : BitVec 4) (v : Word) : (q.setB i v).tiles = q.tiles := by unfold Cell.setB; split <;> rfl
@[simp] theorem Cell.setB_tileNo (q : Cell) (i : BitVec 4) (v : Word) : (q.setB i v).tileNo = q.tileNo := by unfold Cell.setB; split <;> rfl
@[simp] theorem Cell.setB_leaving (q : Cell) (i : BitVec 4) (v : Word) : (q.setB i v).leaving = q.leaving := by unfold Cell.setB; split <;> rfl
@[simp] theorem Cell.setB_contrib (q : Cell) (i : BitVec 4) (v : Word) : (q.setB i v).contrib = q.contrib := by unfold Cell.setB; split <;> rfl
@[simp] theorem Cell.setB_stored (q : Cell) (i : BitVec 4) (v : Word) : (q.setB i v).stored = q.stored := by unfold Cell.setB; split <;> rfl
@[simp] theorem Cell.setB_raced (q : Cell) (i : BitVec 4) (v : Word) : (q.setB i v).raced = q.raced := by unfold Cell.setB; split <;> rfl
@[simp] theorem Cell.setB_fence (q : Cell) (i : BitVec 4) (v : Word) : (q.setB i v).fence = q.fence := by unfold Cell.setB; split <;> rfl
@[simp] theorem Cell.setB_waited (q : Cell) (i : BitVec 4) (v : Word) : (q.setB i v).waited = q.waited := by unfold Cell.setB; split <;> rfl

@[simp] theorem Cell.setM_v (q : Cell) (i : BitVec 3) (v : BitVec 16) : (q.setM i v).v = q.v := by unfold Cell.setM; split <;> rfl
@[simp] theorem Cell.setM_b (q : Cell) (i : BitVec 3) (v : BitVec 16) : (q.setM i v).b = q.b := by unfold Cell.setM; split <;> rfl
@[simp] theorem Cell.setM_c (q : Cell) (i : BitVec 3) (v : BitVec 16) : (q.setM i v).c = q.c := by unfold Cell.setM; split <;> rfl
@[simp] theorem Cell.setM_act (q : Cell) (i : BitVec 3) (v : BitVec 16) : (q.setM i v).act = q.act := by unfold Cell.setM; split <;> rfl
@[simp] theorem Cell.setM_stack (q : Cell) (i : BitVec 3) (v : BitVec 16) : (q.setM i v).stack = q.stack := by unfold Cell.setM; split <;> rfl
@[simp] theorem Cell.setM_acc (q : Cell) (i : BitVec 3) (v : BitVec 16) : (q.setM i v).acc = q.acc := by unfold Cell.setM; split <;> rfl
@[simp] theorem Cell.setM_q (q : Cell) (i : BitVec 3) (v : BitVec 16) : (q.setM i v).q = q.q := by unfold Cell.setM; split <;> rfl
@[simp] theorem Cell.setM_h (q : Cell) (i : BitVec 3) (v : BitVec 16) : (q.setM i v).h = q.h := by unfold Cell.setM; split <;> rfl
@[simp] theorem Cell.setM_y (q : Cell) (i : BitVec 3) (v : BitVec 16) : (q.setM i v).y = q.y := by unfold Cell.setM; split <;> rfl
@[simp] theorem Cell.setM_tl (q : Cell) (i : BitVec 3) (v : BitVec 16) : (q.setM i v).tl = q.tl := by unfold Cell.setM; split <;> rfl
@[simp] theorem Cell.setM_issue (q : Cell) (i : BitVec 3) (v : BitVec 16) : (q.setM i v).issue = q.issue := by unfold Cell.setM; split <;> rfl
@[simp] theorem Cell.setM_cflags (q : Cell) (i : BitVec 3) (v : BitVec 16) : (q.setM i v).cflags = q.cflags := by unfold Cell.setM; split <;> rfl
@[simp] theorem Cell.setM_rc0 (q : Cell) (i : BitVec 3) (v : BitVec 16) : (q.setM i v).rc0 = q.rc0 := by unfold Cell.setM; split <;> rfl
@[simp] theorem Cell.setM_rc1 (q : Cell) (i : BitVec 3) (v : BitVec 16) : (q.setM i v).rc1 = q.rc1 := by unfold Cell.setM; split <;> rfl
@[simp] theorem Cell.setM_exh (q : Cell) (i : BitVec 3) (v : BitVec 16) : (q.setM i v).exh = q.exh := by unfold Cell.setM; split <;> rfl
@[simp] theorem Cell.setM_monlast (q : Cell) (i : BitVec 3) (v : BitVec 16) : (q.setM i v).monlast = q.monlast := by unfold Cell.setM; split <;> rfl
@[simp] theorem Cell.setM_pad (q : Cell) (i : BitVec 3) (v : BitVec 16) : (q.setM i v).pad = q.pad := by unfold Cell.setM; split <;> rfl
@[simp] theorem Cell.setM_hawk (q : Cell) (i : BitVec 3) (v : BitVec 16) : (q.setM i v).hawk = q.hawk := by unfold Cell.setM; split <;> rfl
@[simp] theorem Cell.setM_guards (q : Cell) (i : BitVec 3) (v : BitVec 16) : (q.setM i v).guards = q.guards := by unfold Cell.setM; split <;> rfl
@[simp] theorem Cell.setM_openRow (q : Cell) (i : BitVec 3) (v : BitVec 16) : (q.setM i v).openRow = q.openRow := by unfold Cell.setM; split <;> rfl
@[simp] theorem Cell.setM_seqNo (q : Cell) (i : BitVec 3) (v : BitVec 16) : (q.setM i v).seqNo = q.seqNo := by unfold Cell.setM; split <;> rfl
@[simp] theorem Cell.setM_cmds (q : Cell) (i : BitVec 3) (v : BitVec 16) : (q.setM i v).cmds = q.cmds := by unfold Cell.setM; split <;> rfl
@[simp] theorem Cell.setM_tiles (q : Cell) (i : BitVec 3) (v : BitVec 16) : (q.setM i v).tiles = q.tiles := by unfold Cell.setM; split <;> rfl
@[simp] theorem Cell.setM_tileNo (q : Cell) (i : BitVec 3) (v : BitVec 16) : (q.setM i v).tileNo = q.tileNo := by unfold Cell.setM; split <;> rfl
@[simp] theorem Cell.setM_leaving (q : Cell) (i : BitVec 3) (v : BitVec 16) : (q.setM i v).leaving = q.leaving := by unfold Cell.setM; split <;> rfl
@[simp] theorem Cell.setM_contrib (q : Cell) (i : BitVec 3) (v : BitVec 16) : (q.setM i v).contrib = q.contrib := by unfold Cell.setM; split <;> rfl
@[simp] theorem Cell.setM_stored (q : Cell) (i : BitVec 3) (v : BitVec 16) : (q.setM i v).stored = q.stored := by unfold Cell.setM; split <;> rfl
@[simp] theorem Cell.setM_raced (q : Cell) (i : BitVec 3) (v : BitVec 16) : (q.setM i v).raced = q.raced := by unfold Cell.setM; split <;> rfl
@[simp] theorem Cell.setM_fence (q : Cell) (i : BitVec 3) (v : BitVec 16) : (q.setM i v).fence = q.fence := by unfold Cell.setM; split <;> rfl
@[simp] theorem Cell.setM_waited (q : Cell) (i : BitVec 3) (v : BitVec 16) : (q.setM i v).waited = q.waited := by unfold Cell.setM; split <;> rfl

/-- A written vector register. -/
@[simp] theorem Cell.getV_setV_same (q : Cell) (i : BitVec 5) (v : Vec) : (q.setV i v).getV i = v := by
  simp [Cell.getV, Cell.setV]
theorem Cell.getV_setV_ne (q : Cell) {i j : BitVec 5} (v : Vec) (h : j ≠ i) : (q.setV i v).getV j = q.getV j := by
  simp [Cell.getV, Cell.setV, RegFile.get_put_ne _ _ h]
/-- b0 reads zero and discards writes (R141). -/
theorem Cell.getB_setB_same (q : Cell) (i : BitVec 4) (v : Word) : (q.setB i v).getB i = if i = 0 then 0 else v := by
  unfold Cell.getB Cell.setB
  split <;> simp_all
theorem Cell.getB_setB_ne (q : Cell) {i j : BitVec 4} (v : Word) (h : j ≠ i) : (q.setB i v).getB j = q.getB j := by
  unfold Cell.getB Cell.setB
  by_cases hi : i = 0
  · rw [if_pos hi]
  · by_cases hj : j = 0
    · rw [if_pos hj, if_pos hj]
    · rw [if_neg hj, if_neg hj, if_neg hi, RegFile.get_put_ne _ _ h]
/-- m0 reads as all ones and discards writes (R141). -/
theorem Cell.getM_setM_same (q : Cell) (i : BitVec 3) (v : BitVec 16) : (q.setM i v).getM i = if i = 0 then 0xFFFF else v := by
  unfold Cell.getM Cell.setM
  split <;> simp_all
theorem Cell.getM_setM_ne (q : Cell) {i j : BitVec 3} (v : BitVec 16) (h : j ≠ i) : (q.setM i v).getM j = q.getM j := by
  unfold Cell.getM Cell.setM
  by_cases hi : i = 0
  · rw [if_pos hi]
  · by_cases hj : j = 0
    · rw [if_pos hj, if_pos hj]
    · rw [if_neg hj, if_neg hj, if_neg hi, RegFile.get_put_ne _ _ h]
@[simp] theorem Cell.getB_setV (q : Cell) (i : BitVec 5) (v : Vec) (j : BitVec 4) : (q.setV i v).getB j = q.getB j := rfl
@[simp] theorem Cell.getM_setV (q : Cell) (i : BitVec 5) (v : Vec) (j : BitVec 3) : (q.setV i v).getM j = q.getM j := rfl

end Sys2Proof.Machine
end

