-- ==== Sys2Proof/Laws/Cells.lean ====
section
/-!
SUPPORT. What the one operation over the cells of a bundle can do, and lanes: a lane of a vector built from lanes, the
lanes that a mask leaves. Later proofs cite these and do not unfold the operations.
-/
namespace Sys2Proof.Machine
open Sys2Proof

/-! ### Cells -/

theorem runCells_length (f : Focus) (d : Nat) (g : CellFn) (i : Nat) (ps cs : List Cell) :
    (runCells f d g i ps cs).1.length = cs.length := by
  induction ps generalizing i cs with
  | nil => cases cs <;> rfl
  | cons p ps ih =>
    cases cs with
    | nil => rfl
    | cons c cs =>
      simp only [runCells]
      split <;> (try split) <;> simp [ih]

/-- What becomes of one cell: its new state, or itself where its operation faults or its unit is held. -/
theorem runCells_getElem? (f : Focus) (d : Nat) (g : CellFn) (i : Nat) (ps cs : List Cell) (j : Nat) (p c : Cell)
    (hp : ps[j]? = some p) (hc : cs[j]? = some c) :
    (runCells f d g i ps cs).1[j]? = some (if f.skips (i + j) then c else
      match g (envOf f d (i + j)) p c with | .ok c' => c' | .error _ => c) := by
  induction ps generalizing i cs j with
  | nil => simp at hp
  | cons p' ps ih =>
    cases cs with
    | nil => simp at hc
    | cons c' cs =>
      cases j with
      | zero =>
        simp only [List.getElem?_cons_zero, Option.some.injEq] at hp hc
        subst hp; subst hc
        simp only [runCells, Nat.add_zero]
        split
        · rfl
        · split <;> simp_all
      | succ j =>
        have e := ih (i + 1) cs j (by simpa using hp) (by simpa using hc)
        rw [Nat.add_assoc, Nat.add_comm 1] at e
        simp only [runCells]
        split
        · simpa using e
        · split <;> simpa using e

/-- Without a fault in any cell none is listed. -/
theorem runCells_faults_nil (f : Focus) (d : Nat) (g : CellFn) (i : Nat) (ps cs : List Cell)
    (h : ∀ j p c, ps[j]? = some p → cs[j]? = some c → f.skips (i + j) = false → ∃ c', g (envOf f d (i + j)) p c = .ok c') :
    (runCells f d g i ps cs).2 = [] := by
  induction ps generalizing i cs with
  | nil => cases cs <;> rfl
  | cons p ps ih =>
    cases cs with
    | nil => rfl
    | cons c cs =>
      have e := ih (i + 1) cs fun j p' c' hp hc => by
        have := h (j + 1) p' c' (by simpa using hp) (by simpa using hc)
        rwa [Nat.add_comm j 1, ← Nat.add_assoc] at this
      simp only [runCells]
      split
      · exact e
      · obtain ⟨c', hc'⟩ := h 0 p c rfl rfl (by simpa using ‹¬ f.skips i = true›)
        rw [show i = i + 0 from rfl, hc']
        exact e

/-- A cell whose operation faults is listed. -/
theorem runCells_faults_mem (f : Focus) (d : Nat) (g : CellFn) (i : Nat) (ps cs : List Cell) (j : Nat) (p c : Cell)
    (e : CellFault) (hp : ps[j]? = some p) (hc : cs[j]? = some c) (hs : f.skips (i + j) = false)
    (he : g (envOf f d (i + j)) p c = .error e) :
    (i + j, f.now, e) ∈ (runCells f d g i ps cs).2 := by
  induction ps generalizing i cs j with
  | nil => simp at hp
  | cons p' ps ih =>
    cases cs with
    | nil => simp at hc
    | cons c' cs =>
      cases j with
      | zero =>
        simp only [List.getElem?_cons_zero, Option.some.injEq] at hp hc
        subst hp; subst hc
        simp only [runCells]
        rw [Nat.add_zero] at he hs ⊢
        rw [if_neg (by simp [hs]), he]
        exact List.mem_cons_self
      | succ j =>
        have m := ih (i + 1) cs j (by simpa using hp) (by simpa using hc)
          (by rw [Nat.add_assoc, Nat.add_comm 1]; exact hs) (by rw [Nat.add_assoc, Nat.add_comm 1]; exact he)
        rw [Nat.add_assoc, Nat.add_comm 1] at m
        simp only [runCells]
        split
        · exact m
        · split
          · exact m
          · exact List.mem_cons_of_mem _ m

/-- The one lemma of `onCells`: an instruction that is a cell operation, and whose operation succeeds on every cell that
meets a condition with a result in a relation, acts so on the cells. -/
theorem actsOnCells_of {i : Instr} {g : CellFn} (hi : ∀ s, exec i s = onCells g s) {h : Env → Cell → Cell → Prop}
    {r : Env → Cell → Cell → Cell → Prop} (hg : ∀ env p q, h env p q → ∃ q', g env p q = .ok q' ∧ r env p q q') :
    ActsOnCells i h r := by
  intro s f hf hc
  refine ⟨f.windows.map (runWindow f g), ?_, ?_, ?_⟩
  · rw [hi, onCells, hf]
    rfl
  · simp
  · intro k w w' hk hk'
    have hw : w' = runWindow f g w := by
      rw [List.getElem?_map, hk] at hk'
      simpa using hk'.symm
    have mem : w ∈ f.windows := List.mem_of_getElem? hk
    subst hw
    refine ⟨rfl, rfl, ?_, runCells_length _ _ _ _ _ _, ?_⟩
    · show w.faults ++ (runCells f w.die g 0 w.pre w.post).2 = w.faults
      rw [runCells_faults_nil, List.append_nil]
      intro j p c hp hq hs
      rw [Nat.zero_add] at hs ⊢
      obtain ⟨q', e, -⟩ := hg _ _ _ (hc w mem j p c hp hq hs)
      exact ⟨q', e⟩
    · intro j p q q' hp hq hq'
      have := runCells_getElem? f w.die g 0 w.pre w.post j p q hp hq
      have hq'' : (runCells f w.die g 0 w.pre w.post).1[j]? = some q' := hq'
      rw [Nat.zero_add] at this
      rw [this, Option.some.injEq] at hq''
      refine ⟨fun hs => ?_, fun hs => ?_⟩
      · obtain ⟨c', e, hr⟩ := hg _ _ _ (hc w mem j p q hp hq hs)
        rw [if_neg (by simp [hs]), e] at hq''
        exact hq'' ▸ hr
      · rw [if_pos hs] at hq''
        exact hq''.symm

/-- The lemma for faults: a cell operation that fails on every cell that meets a condition. -/
theorem raisesInCells_of {i : Instr} {g : CellFn} (hi : ∀ s, exec i s = onCells g s) {h : Env → Cell → Cell → Prop}
    {e : Env → Cell → Cell → CellFault} (hg : ∀ env p q, h env p q → g env p q = .error (e env p q)) :
    RaisesInCells i h e := by
  intro s f hf
  refine ⟨f.windows.map (runWindow f g), ?_, ?_, ?_⟩
  · rw [hi, onCells, hf]
    rfl
  · simp
  · intro k w w' hk hk' j p q hp hq hs hh
    have hw : w' = runWindow f g w := by
      rw [List.getElem?_map, hk] at hk'
      simpa using hk'.symm
    subst hw
    have he := hg _ _ _ hh
    constructor
    · have := runCells_getElem? f w.die g 0 w.pre w.post j p q hp hq
      rw [Nat.zero_add, if_neg (by simp [hs]), he] at this
      exact this
    · have := runCells_faults_mem f w.die g 0 w.pre w.post j p q _ hp hq (by rw [Nat.zero_add]; exact hs)
        (by rw [Nat.zero_add]; exact he)
      rw [Nat.zero_add] at this
      exact List.mem_append_right _ this

/-- An operation that never faults, on every cell. -/
theorem pureOp_eq (g : Env → Cell → Cell → Cell) (env : Env) (p q : Cell) :
    pureOp g env p q = .ok (if p.act then g env p q else q) := by
  unfold pureOp ifActive
  cases p.act <;> rfl

/-- An instruction that is an operation of active cells without a fault. -/
theorem actsOnCells_pure {i : Instr} {g : Env → Cell → Cell → Cell} (hi : ∀ s, exec i s = onCells (pureOp g) s)
    {r : Env → Cell → Cell → Cell → Prop} (hg : ∀ env p q, p.act = true → r env p q (g env p q)) :
    ActsOnCells i anyCell (IfActive r) := by
  refine actsOnCells_of hi fun env p q _ => ⟨_, pureOp_eq g env p q, ?_, ?_⟩
  · intro h; simp [h]
  · intro h; simp [h]; exact hg env p q h

/-! ### Lanes -/

theorem packLanes_lt (n : Nat) (l : List Nat) : packLanes n l < 2 ^ (n * l.length) := by
  induction l with
  | nil => simp [packLanes]
  | cons x r ih =>
    simp only [packLanes, List.length_cons]
    have h1 : x % 2 ^ n < 2 ^ n := Nat.mod_lt _ (Nat.two_pow_pos n)
    have h2 : 2 ^ n * packLanes n r ≤ 2 ^ n * (2 ^ (n * r.length) - 1) := Nat.mul_le_mul_left _ (by omega)
    have h3 : 0 < 2 ^ (n * r.length) := Nat.two_pow_pos _
    rw [Nat.mul_add, Nat.mul_one, Nat.pow_add, Nat.mul_comm (2 ^ (n * r.length))]
    rw [Nat.mul_sub, Nat.mul_one] at h2
    have h4 : 2 ^ n ≤ 2 ^ n * 2 ^ (n * r.length) := Nat.le_mul_of_pos_right _ h3
    omega

/-- A lane of a packed number. -/
theorem packLanes_lane (n : Nat) (l : List Nat) (i : Nat) (x : Nat) (h : l[i]? = some x) :
    packLanes n l / 2 ^ (n * i) % 2 ^ n = x % 2 ^ n := by
  induction l generalizing i with
  | nil => simp at h
  | cons y r ih =>
    cases i with
    | zero =>
      simp only [List.getElem?_cons_zero, Option.some.injEq] at h
      subst h
      simp [packLanes, Nat.add_mul_mod_self_left]
    | succ i =>
      have e := ih i (by simpa using h)
      rw [Nat.mul_add, Nat.mul_one, Nat.add_comm (n * i), Nat.pow_add, ← Nat.div_div_eq_div_mul]
      rw [packLanes, Nat.add_mul_div_left _ _ (Nat.two_pow_pos n), Nat.div_eq_of_lt (Nat.mod_lt _ (Nat.two_pow_pos n)),
        Nat.zero_add]
      exact e

theorem lane_lt (n : Nat) (v : BitVec k) (i : Nat) : lane n v i < 2 ^ n := Nat.mod_lt _ (Nat.two_pow_pos n)

/-- A lane of a vector given by its lanes. -/
theorem lane_ofLanes {n l : Nat} (f : Nat → Nat) {i : Nat} (hi : i < l) (hl : n * l ≤ 512) :
    lane n (ofLanes n l f) i = f i % 2 ^ n := by
  have hlt : packLanes n ((List.range l).map f) < 2 ^ 512 := by
    refine Nat.lt_of_lt_of_le (packLanes_lt n _) (Nat.pow_le_pow_right (by omega) ?_)
    simpa using hl
  rw [lane, ofLanes, BitVec.toNat_ofNat, Nat.mod_eq_of_lt hlt]
  exact packLanes_lane n _ i _ (by simp [hi])

/-- A lane after a masked write. -/
theorem lane_mergeLanes {n : Nat} (m : BitVec 16) (old : Vec) (f : Nat → Nat) {i : Nat} (hi : i < 512 / n) :
    lane n (mergeLanes n m old f) i = if m.getLsbD (n * i / 32) then f i % 2 ^ n else lane n old i := by
  rw [mergeLanes, lane_ofLanes _ hi (Nat.mul_div_le 512 n)]
  show (if m.getLsbD (n * i / 32) = true then f i else lane n old i) % 2 ^ n = _
  by_cases h : m.getLsbD (n * i / 32) = true
  · rw [if_pos h, if_pos h]
  · rw [if_neg h, if_neg h, Nat.mod_eq_of_lt (lane_lt n old i)]

theorem onlyV_setV (q : Cell) (d : BitVec 5) (v : Vec) : OnlyV d q (q.setV d v) :=
  ⟨rfl, fun _ h => Cell.getV_setV_ne q v h⟩
theorem onlyM_setM (q : Cell) (d : BitVec 3) (v : BitVec 16) : OnlyM d q (q.setM d v) :=
  ⟨by unfold Cell.setM; split <;> rfl, fun _ h => Cell.getM_setM_ne q v h⟩
theorem onlyB_setB (q : Cell) (d : BitVec 4) (v : Word) : OnlyB d q (q.setB d v) :=
  ⟨by unfold Cell.setB; split <;> rfl, fun _ h => Cell.getB_setB_ne q v h⟩
theorem onlyC_setC (q : Cell) (d : BitVec 2) (v : Bool) : OnlyC d q (q.setC d v) :=
  ⟨rfl, fun _ h => by simp [Cell.setC, RegFile.get_put_ne _ _ h]⟩

/-- A lane-wise instruction, once its lane function is known modulo 2^n. -/
theorem lanesOf_vecOp {i : Instr} {t : Nat} {m : BitVec 3} {d : BitVec 5} {f g : Env → Cell → Nat → Nat}
    (hi : ∀ s, exec i s = onCells (vecOp t m d f) s)
    (hg : ∀ env p j, j < 512 / tyBits t → f env p j % 2 ^ tyBits t = g env p j) :
    ActsOnCells i anyCell (LanesOf (tyBits t) d m g) := by
  refine actsOnCells_pure hi fun env p q _ => ⟨onlyV_setV _ _ _, fun j hj => ?_⟩
  rw [Cell.getV_setV_same, lane_mergeLanes _ _ _ hj, hg env p j hj]

/-- An instruction with a cell scalar result. -/
theorem scalarOf_op {i : Instr} {d : BitVec 4} {f : Env → Cell → Word}
    (hi : ∀ s, exec i s = onCells (pureOp fun env p q => q.setB d (f env p)) s) :
    ActsOnCells i anyCell (ScalarOf d f) :=
  actsOnCells_pure hi fun _ _ q _ => ⟨onlyB_setB _ _ _, Cell.getB_setB_same q d _⟩
/-- An instruction with a mask result. -/
theorem maskOf_op {i : Instr} {d : BitVec 3} {f : Env → Cell → BitVec 16}
    (hi : ∀ s, exec i s = onCells (pureOp fun env p q => q.setM d (f env p)) s) :
    ActsOnCells i anyCell (MaskOf d f) :=
  actsOnCells_pure hi fun _ _ q _ => ⟨onlyM_setM _ _ _, Cell.getM_setM_same q d _⟩

end Sys2Proof.Machine
end

