-- ==== Sys2Proof/Laws/Encode.lean ====
section
/-!
SUPPORT. Fields of a word: what a word made of fields below each other reads at their places, what the masks of an entry
see of it, and how the decoder reads an encoded instruction back.
-/
namespace Sys2Proof.Laws
open Sys2Proof

/-- The number that fields make. -/
def fsum (fs : List (Nat × Nat)) : Nat := fs.foldr (fun f r => f.2 * 2 ^ f.1 + r) 0
/-- A field of a value that lies below a bit. -/
def Fit1 (v lo hi : Nat) : Prop := (v + 1) * 2 ^ lo ≤ 2 ^ hi
/-- Fields, from the highest down, that do not overlap and lie below a bit. -/
def Fits : List (Nat × Nat) → Nat → Prop
  | [], _ => True
  | f :: r, hi => Fit1 f.2 f.1 hi ∧ Fits r f.1
/-- A field that a mask does not touch. -/
def Clear1 (v lo z : Nat) : Prop := 2 ^ lo * v &&& z = 0
/-- Fields that a mask does not touch. -/
def Clear : List (Nat × Nat) → Nat → Prop
  | [], _ => True
  | f :: r, z => Clear1 f.2 f.1 z ∧ Clear r z
/-- Fields of which one holds every bit of a mask. -/
def Full : List (Nat × Nat) → Nat → Prop
  | [], z => z = 0
  | f :: r, z => z = 0 ∨ 2 ^ f.1 * f.2 &&& z = z ∨ Full r z

@[simp] theorem fits_nil (hi : Nat) : Fits [] hi := trivial
@[simp] theorem fits_cons (lo v hi : Nat) (r : List (Nat × Nat)) : Fits ((lo, v) :: r) hi ↔ Fit1 v lo hi ∧ Fits r lo := Iff.rfl
@[simp] theorem clear_nil (z : Nat) : Clear [] z := trivial
@[simp] theorem clear_cons (lo v z : Nat) (r : List (Nat × Nat)) : Clear ((lo, v) :: r) z ↔ Clear1 v lo z ∧ Clear r z := Iff.rfl
@[simp] theorem fit1_field {n lo hi : Nat} (v : BitVec n) (h : lo + n ≤ hi) : Fit1 v.toNat lo hi := by
  have h1 : (v.toNat + 1) * 2 ^ lo ≤ 2 ^ n * 2 ^ lo := Nat.mul_le_mul_right _ v.isLt
  have h2 : 2 ^ (lo + n) ≤ 2 ^ hi := Nat.pow_le_pow_right (by decide) h
  rw [Nat.pow_add, Nat.mul_comm] at h2
  exact Nat.le_trans h1 h2
@[simp] theorem clear1_field {n lo z : Nat} (v : BitVec n) (h : z / 2 ^ lo % 2 ^ n = 0) : Clear1 v.toNat lo z := by
  apply Nat.eq_of_testBit_eq
  intro i
  simp only [Nat.testBit_and, Nat.testBit_two_pow_mul, Nat.zero_testBit]
  by_cases hi : lo ≤ i
  · by_cases hn : i - lo < n
    · have h3 := congrArg (fun x => x.testBit (i - lo)) h
      simp only [Nat.testBit_mod_two_pow, Nat.testBit_div_two_pow, Nat.zero_testBit, hn, decide_true, Bool.true_and,
        Nat.sub_add_cancel hi] at h3
      simp [h3]
    · have : v.toNat.testBit (i - lo) = false :=
        Nat.testBit_lt_two_pow (Nat.lt_of_lt_of_le v.isLt (Nat.pow_le_pow_right (by decide) (Nat.le_of_not_lt hn)))
      simp [this]
  · simp [hi]

@[simp] theorem fit1_one (lo hi : Nat) : Fit1 1 lo hi ↔ 2 * 2 ^ lo ≤ 2 ^ hi := Iff.rfl
@[simp] theorem fit1_three (lo hi : Nat) : Fit1 3 lo hi ↔ 4 * 2 ^ lo ≤ 2 ^ hi := Iff.rfl
@[simp] theorem clear1_one (lo z : Nat) : Clear1 1 lo z ↔ 2 ^ lo * 1 &&& z = 0 := Iff.rfl
@[simp] theorem clear1_three (lo z : Nat) : Clear1 3 lo z ↔ 2 ^ lo * 3 &&& z = 0 := Iff.rfl

theorem fsum_cons (lo v : Nat) (r : List (Nat × Nat)) : fsum ((lo, v) :: r) = 2 ^ lo * v + fsum r := by
  show v * 2 ^ lo + _ = _
  rw [Nat.mul_comm]; rfl
theorem Fits.lt : {fs : List (Nat × Nat)} → {hi : Nat} → Fits fs hi → fsum fs < 2 ^ hi
  | [], hi, _ => Nat.two_pow_pos hi
  | (lo, v) :: r, hi, h => by
    have h1 := Fits.lt h.2
    have h2 : (v + 1) * 2 ^ lo ≤ 2 ^ hi := h.1
    rw [Nat.add_mul, Nat.one_mul, Nat.mul_comm] at h2
    rw [fsum_cons]
    simp only at h1
    omega
theorem fsum_or {lo v : Nat} {r : List (Nat × Nat)} (hr : Fits r lo) : fsum ((lo, v) :: r) = 2 ^ lo * v ||| fsum r := by
  rw [fsum_cons, Nat.two_pow_add_eq_or_of_lt hr.lt]
theorem Clear.zero : {fs : List (Nat × Nat)} → {hi z : Nat} → Fits fs hi → Clear fs z → fsum fs &&& z = 0
  | [], _, z, _, _ => Nat.zero_and z
  | (lo, v) :: r, _, z, h, c => by
    rw [fsum_or h.2, Nat.and_or_distrib_right, Clear.zero h.2 c.2, show 2 ^ lo * v &&& z = 0 from c.1]
    rfl
theorem Full.all : {fs : List (Nat × Nat)} → {hi z : Nat} → Fits fs hi → Full fs z → fsum fs &&& z = z
  | [], _, z, _, c => by rw [show z = 0 from c]; rfl
  | (lo, v) :: r, _, z, h, c => by
    rw [fsum_or h.2, Nat.and_or_distrib_right]
    rcases c with c | c | c
    · rw [c]; simp
    · rw [c]
      apply Nat.eq_of_testBit_eq
      intro i
      simp only [Nat.testBit_or, Nat.testBit_and]
      cases z.testBit i <;> simp
    · rw [Full.all h.2 c]
      apply Nat.eq_of_testBit_eq
      intro i
      simp only [Nat.testBit_or, Nat.testBit_and]
      cases z.testBit i <;> simp

@[simp] theorem fld_hit {n lo : Nat} {v : BitVec n} {r : List (Nat × Nat)} (hr : Fits r lo) :
    fld (fsum ((lo, v.toNat) :: r)) lo n = v := by
  unfold fld
  rw [fsum_cons, Nat.mul_add_div (Nat.two_pow_pos lo), Nat.div_eq_of_lt hr.lt]
  simp
@[simp] theorem fld_skip {lo n lo' k : Nat} {r : List (Nat × Nat)} (h : lo + n ≤ lo') :
    fld (fsum ((lo', k) :: r)) lo n = fld (fsum r) lo n := by
  unfold fld
  apply BitVec.eq_of_toNat_eq
  obtain ⟨d, rfl⟩ := Nat.exists_eq_add_of_le h
  simp only [BitVec.toNat_ofNat, fsum_cons]
  have : 2 ^ (lo + n + d) * k + fsum r = 2 ^ lo * (2 ^ n * (2 ^ d * k)) + fsum r := by
    simp only [Nat.pow_add, Nat.mul_assoc]
  rw [this, Nat.mul_add_div (Nat.two_pow_pos lo), Nat.mul_add_mod]
/-- A field of one that holds a literal one. -/
@[simp] theorem fld_one {lo : Nat} {r : List (Nat × Nat)} (hr : Fits r lo) : fld (fsum ((lo, 1) :: r)) lo 1 = 1 :=
  fld_hit (v := (1 : BitVec 1)) hr
/-- No field stands at a bit or above. -/
@[simp] theorem fld_above {n lo : Nat} {r : List (Nat × Nat)} (hr : Fits r lo) : fld (fsum r) lo n = 0 := by
  unfold fld
  rw [Nat.div_eq_of_lt hr.lt]
  rfl
@[simp] theorem pack_toNat {fs : List (Nat × Nat)} (hf : Fits fs 32) : (pack fs).toNat = fsum fs := by
  show (BitVec.ofNat 32 (fsum _)).toNat = _
  rw [BitVec.toNat_ofNat, Nat.mod_eq_of_lt hf.lt]

@[simp] theorem fsum_and {fs : List (Nat × Nat)} {z : Nat} (hf : Fits fs 32) (hz : Clear fs z) : fsum fs &&& z = 0 := hz.zero hf
theorem bit_fld (w k : Nat) : w / 2 ^ k % 2 = 1 ↔ fld w k 1 = 1 := by
  unfold fld
  rw [← BitVec.toNat_inj, BitVec.toNat_ofNat]
  simp
theorem low_fld (w n : Nat) : w % 2 ^ n = (fld w 0 n).toNat := by simp [fld]

/-- A word of an X bit, an opcode from bit `k` up, and fields below. -/
theorem word_of {b k op : Nat} {fs : List (Nat × Nat)} (hb : b < 2) (ho : op * 2 ^ k + 2 ^ k ≤ 2 ^ 31)
    (hf : Fits fs k) :
    (pack ((31, b) :: (k, op) :: fs)).toNat = b * 2 ^ 31 + (op * 2 ^ k + fsum fs) ∧
    bit (pack ((31, b) :: (k, op) :: fs)) 31 = decide (b = 1) := by
  have hl := hf.lt
  have h : (pack ((31, b) :: (k, op) :: fs)).toNat = b * 2 ^ 31 + (op * 2 ^ k + fsum fs) := by
    show (BitVec.ofNat 32 (fsum _)).toNat = _
    rw [BitVec.toNat_ofNat, fsum_cons, fsum_cons, Nat.mul_comm _ b, Nat.mul_comm _ op, Nat.mod_eq_of_lt (by omega)]
  refine ⟨h, ?_⟩
  simp only [bit, BitVec.getLsbD, h]
  rw [Nat.testBit_eq_decide_div_mod_eq]
  congr 1
  apply propext
  omega

/-- Checks 5 and 6 pass. -/
theorem take_ok {req : XReq} {z o e hi : Nat} {fs : List (Nat × Nat)} {x : Option Word} {i j : Instr}
    (hx : ((req == .no && x.isSome) || (req == .yes && x.isNone)) = false) (hf : Fits fs hi) (hz : Clear fs z) (ho : Full fs o)
    (he : (x.getD 0).toNat &&& e = 0) (hj : j = i) (wf : i.wellFormed = true) : take req z o e (fsum fs) x j = .ok i := by
  subst hj
  unfold take
  rw [hx, hz.zero hf, ho.all hf, he, wf]
  simp

theorem b2n_lt (b : Bool) : b2n b < 2 := by cases b <;> decide
theorem decide_b2n (b : Bool) : decide (b2n b = 1) = b := by cases b <;> decide

/-- What a slot word decodes to, in a slot of its class; the sync field of a header. -/
def ReadsBack (cls : SlotClass) (w : Word) (x : Option Word) (i : Instr) : Prop :=
  match cls with
  | .s => decodeSlot .s w x = .ok i
  | .v => decodeSlot .v0 w x = .ok i
  | .m => decodeSlot .m w x = .ok i
  | .c => decodeSlot .c0 w x = .ok i
  | .y => decodeSync w x = .ok (some i)

/-- The decoder of a class, on the opcode and the fields of a word. -/
def classDecode (cls : SlotClass) : Nat → Nat → Option Word → Except Reject Instr :=
  match cls with
  | .s => decodeS
  | .v => decodeV
  | .m => decodeM
  | .c => decodeC
  | .y => decodeYop

/-- Decoding the words of an instruction within its limits gives it back, with its extension or second word. -/
def ComesBack (i : Instr) : Prop :=
  ∀ l, layout i = some l → i.wellFormed = true →
    ∃ w, encode i = w :: l.ext.toList ∧ bit w 31 = l.ext.isSome ∧ ReadsBack l.cls w l.ext i

/-- An instruction without an encoding. -/
theorem none_reads {i : Instr} (h : layout i = none) : ComesBack i := by
  intro l hl
  rw [h] at hl
  cases hl

theorem slot_of {op : Nat} {fs : List (Nat × Nat)} {x : Option Word} (ho : op < 128) (hf : Fits fs 24) :
    let w := pack ((31, b2n x.isSome) :: (24, op) :: fs)
    w.toNat % 2 ^ 24 = fsum fs ∧ w.toNat / 2 ^ 24 % 128 = op ∧ bit w 31 = x.isSome := by
  have h := word_of (b := b2n x.isSome) (k := 24) (op := op) (b2n_lt _) (by omega) hf
  have hl := hf.lt
  have hb := b2n_lt x.isSome
  refine ⟨by rw [h.1]; omega, by rw [h.1]; omega, ?_⟩
  rw [h.2, decide_b2n]

/-- An instruction of a slot. -/
theorem slot_of_decode {cls : SlotClass} {i : Instr} {op : Nat} {fs : List (Nat × Nat)} {x : Option Word}
    (hc : cls ≠ .y) (hl : layout i = some ⟨cls, op, fs, x⟩) (ho : op < 128) (hf : Fits fs 24)
    (hd : i.wellFormed = true → classDecode cls op (fsum fs) x = .ok i) : ComesBack i := by
  intro l hl' wf
  rw [hl] at hl'
  obtain rfl := Option.some.inj hl'
  obtain ⟨h1, h2, h3⟩ := slot_of (x := x) ho hf
  refine ⟨pack ((31, b2n x.isSome) :: (24, op) :: fs), ?_, h3, ?_⟩
  · unfold encode
    rw [hl]
    cases cls
    case y => exact absurd rfl hc
    all_goals rfl
  · cases cls
    case y => exact absurd rfl hc
    case s => show decodeS (_ / 2 ^ 24 % 128) (_ % 2 ^ 24) _ = _; rw [h1, h2]; exact hd wf
    case v => show decodeV (_ / 2 ^ 24 % 128) (_ % 2 ^ 24) _ = _; rw [h1, h2]; exact hd wf
    case m => show decodeM (_ / 2 ^ 24 % 128) (_ % 2 ^ 24) _ = _; rw [h1, h2]; exact hd wf
    case c => show decodeC (_ / 2 ^ 24 % 128) (_ % 2 ^ 24) _ = _; rw [h1, h2]; exact hd wf

/-- An operation of the sync field. -/
theorem sync_of_decode {i : Instr} {op : Nat} {fs : List (Nat × Nat)} {x : Option Word}
    (hl : layout i = some ⟨.y, op, fs, x⟩) (ho : 0 < op) (ho' : op < 32) (hf : Fits fs 19)
    (hd : i.wellFormed = true → decodeYop op (fsum fs) x = .ok i) : ComesBack i := by
  intro l hl' wf
  rw [hl] at hl'
  obtain rfl := Option.some.inj hl'
  have h := word_of (b := b2n x.isSome) (k := 19) (op := op) (b2n_lt _) (by omega) hf
  have hlt := hf.lt
  have hb := b2n_lt x.isSome
  refine ⟨pack ((31, b2n x.isSome) :: (19, op) :: fs), ?_, ?_, ?_⟩
  · unfold encode
    rw [hl]
  · rw [h.2, decide_b2n]
  · show decodeSync _ _ = _
    unfold decodeSync
    rw [h.1]
    have h1 : (b2n x.isSome * 2 ^ 31 + (op * 2 ^ 19 + fsum fs)) % 2 ^ 24 = op * 2 ^ 19 + fsum fs := by omega
    have h2 : (op * 2 ^ 19 + fsum fs) / 2 ^ 19 = op := by omega
    have h3 : (op * 2 ^ 19 + fsum fs) % 2 ^ 19 = fsum fs := by rw [Nat.mul_comm, Nat.mul_add_mod, Nat.mod_eq_of_lt hlt]
    have h4 : op * 2 ^ 19 + fsum fs ≠ 0 := by omega
    rw [h1]
    show (if op * 2 ^ 19 + fsum fs = 0 then _ else match decodeYop ((op * 2 ^ 19 + fsum fs) / 2 ^ 19) ((op * 2 ^ 19 + fsum fs) % 2 ^ 19) x with
      | .ok i => Except.ok (some i) | .error _ => Except.error Reject.syncField) = _
    rw [if_neg h4, h2, h3, show decodeYop op (fsum fs) x = .ok i from hd wf]

/-- An instruction of a slot, from its entry: X, the masks, the fields. -/
theorem slot_reads {cls : SlotClass} {i j : Instr} {op z o e : Nat} {req : XReq} {fs : List (Nat × Nat)} {x : Option Word}
    (hl : layout i = some ⟨cls, op, fs, x⟩) (hc : cls ≠ .y) (ho : op < 128)
    (hd : classDecode cls op (fsum fs) x = take req z o e (fsum fs) x j)
    (h : ((req == .no && x.isSome) || (req == .yes && x.isNone)) = false ∧ Fits fs 24 ∧ Clear fs z ∧ Full fs o ∧
      (x.getD 0).toNat &&& e = 0 ∧ j = i) : ComesBack i :=
  slot_of_decode hc hl ho h.2.1 fun wf => hd.trans (take_ok h.1 h.2.1 h.2.2.1 h.2.2.2.1 h.2.2.2.2.1 h.2.2.2.2.2 wf)
/-- An operation of the sync field, from its entry. -/
theorem sync_reads {i j : Instr} {op z o e : Nat} {req : XReq} {fs : List (Nat × Nat)} {x : Option Word}
    (hl : layout i = some ⟨.y, op, fs, x⟩) (ho : 0 < op ∧ op < 32)
    (hd : decodeYop op (fsum fs) x = take req z o e (fsum fs) x j)
    (h : ((req == .no && x.isSome) || (req == .yes && x.isNone)) = false ∧ Fits fs 19 ∧ Clear fs z ∧ Full fs o ∧
      (x.getD 0).toNat &&& e = 0 ∧ j = i) : ComesBack i :=
  sync_of_decode hl ho.1 ho.2 h.2.1 fun wf => hd.trans (take_ok h.1 h.2.1 h.2.2.1 h.2.2.2.1 h.2.2.2.2.1 h.2.2.2.2.2 wf)

end Sys2Proof.Laws
end

