-- ==== Sys2Proof/Laws/Exec.lean ====
section
/-!
SUPPORT. The meaning that each arm of `exec` calls, one equation per instruction, so that no proof unfolds `exec`.
-/
namespace Sys2Proof.Machine
open Sys2Proof

@[simp] theorem exec_add (d : BitVec 5) (a : BitVec 5) (b : BitVec 5) (s : State) : exec (.add d a b) s = execAdd d a b s := rfl
@[simp] theorem exec_sub (d : BitVec 5) (a : BitVec 5) (b : BitVec 5) (s : State) : exec (.sub d a b) s = execSub d a b s := rfl
@[simp] theorem exec_mul (d : BitVec 5) (a : BitVec 5) (b : BitVec 5) (s : State) : exec (.mul d a b) s = execMul d a b s := rfl
@[simp] theorem exec_mulh (d : BitVec 5) (a : BitVec 5) (b : BitVec 5) (s : State) : exec (.mulh d a b) s = execMulh d a b s := rfl
@[simp] theorem exec_mulhu (d : BitVec 5) (a : BitVec 5) (b : BitVec 5) (s : State) : exec (.mulhu d a b) s = execMulhu d a b s := rfl
@[simp] theorem exec_div (d : BitVec 5) (a : BitVec 5) (b : BitVec 5) (s : State) : exec (.div d a b) s = execDiv d a b s := rfl
@[simp] theorem exec_divu (d : BitVec 5) (a : BitVec 5) (b : BitVec 5) (s : State) : exec (.divu d a b) s = execDivu d a b s := rfl
@[simp] theorem exec_rem (d : BitVec 5) (a : BitVec 5) (b : BitVec 5) (s : State) : exec (.rem d a b) s = execRem d a b s := rfl
@[simp] theorem exec_remu (d : BitVec 5) (a : BitVec 5) (b : BitVec 5) (s : State) : exec (.remu d a b) s = execRemu d a b s := rfl
@[simp] theorem exec_and (d : BitVec 5) (a : BitVec 5) (b : BitVec 5) (s : State) : exec (.and d a b) s = execAnd d a b s := rfl
@[simp] theorem exec_or (d : BitVec 5) (a : BitVec 5) (b : BitVec 5) (s : State) : exec (.or d a b) s = execOr d a b s := rfl
@[simp] theorem exec_xor (d : BitVec 5) (a : BitVec 5) (b : BitVec 5) (s : State) : exec (.xor d a b) s = execXor d a b s := rfl
@[simp] theorem exec_shl (d : BitVec 5) (a : BitVec 5) (b : BitVec 5) (s : State) : exec (.shl d a b) s = execShl d a b s := rfl
@[simp] theorem exec_shr (d : BitVec 5) (a : BitVec 5) (b : BitVec 5) (s : State) : exec (.shr d a b) s = execShr d a b s := rfl
@[simp] theorem exec_sra (d : BitVec 5) (a : BitVec 5) (b : BitVec 5) (s : State) : exec (.sra d a b) s = execSra d a b s := rfl
@[simp] theorem exec_slt (d : BitVec 5) (a : BitVec 5) (b : BitVec 5) (s : State) : exec (.slt d a b) s = execSlt d a b s := rfl
@[simp] theorem exec_sltu (d : BitVec 5) (a : BitVec 5) (b : BitVec 5) (s : State) : exec (.sltu d a b) s = execSltu d a b s := rfl
@[simp] theorem exec_min (d : BitVec 5) (a : BitVec 5) (b : BitVec 5) (s : State) : exec (.min d a b) s = execMin d a b s := rfl
@[simp] theorem exec_max (d : BitVec 5) (a : BitVec 5) (b : BitVec 5) (s : State) : exec (.max d a b) s = execMax d a b s := rfl
@[simp] theorem exec_clz (d : BitVec 5) (a : BitVec 5) (s : State) : exec (.clz d a) s = execClz d a s := rfl
@[simp] theorem exec_popc (d : BitVec 5) (a : BitVec 5) (s : State) : exec (.popc d a) s = execPopc d a s := rfl
@[simp] theorem exec_addi (d : BitVec 5) (a : BitVec 5) (iv : BitVec 14) (x : Option Word) (s : State) : exec (.addi d a iv x) s = execAddi d a iv x s := rfl
@[simp] theorem exec_andi (d : BitVec 5) (a : BitVec 5) (iv : BitVec 14) (x : Option Word) (s : State) : exec (.andi d a iv x) s = execAndi d a iv x s := rfl
@[simp] theorem exec_ori (d : BitVec 5) (a : BitVec 5) (iv : BitVec 14) (x : Option Word) (s : State) : exec (.ori d a iv x) s = execOri d a iv x s := rfl
@[simp] theorem exec_xori (d : BitVec 5) (a : BitVec 5) (iv : BitVec 14) (x : Option Word) (s : State) : exec (.xori d a iv x) s = execXori d a iv x s := rfl
@[simp] theorem exec_shli (d : BitVec 5) (a : BitVec 5) (n : BitVec 6) (s : State) : exec (.shli d a n) s = execShli d a n s := rfl
@[simp] theorem exec_shri (d : BitVec 5) (a : BitVec 5) (n : BitVec 6) (s : State) : exec (.shri d a n) s = execShri d a n s := rfl
@[simp] theorem exec_srai (d : BitVec 5) (a : BitVec 5) (n : BitVec 6) (s : State) : exec (.srai d a n) s = execSrai d a n s := rfl
@[simp] theorem exec_slti (d : BitVec 5) (a : BitVec 5) (iv : BitVec 14) (x : Option Word) (s : State) : exec (.slti d a iv x) s = execSlti d a iv x s := rfl
@[simp] theorem exec_lih (d : BitVec 5) (a : BitVec 5) (iv : BitVec 14) (x : Option Word) (s : State) : exec (.lih d a iv x) s = execLih d a iv x s := rfl
@[simp] theorem exec_ld (d : BitVec 5) (a : BitVec 5) (z : BitVec 2) (x : Option Word) (s : State) : exec (.ld d a z x) s = execLd d a z x s := rfl
@[simp] theorem exec_ldu (d : BitVec 5) (a : BitVec 5) (z : BitVec 2) (x : Option Word) (s : State) : exec (.ldu d a z x) s = execLdu d a z x s := rfl
@[simp] theorem exec_st (a : BitVec 5) (b : BitVec 5) (z : BitVec 2) (x : Option Word) (s : State) : exec (.st a b z x) s = execSt a b z x s := rfl
@[simp] theorem exec_samo (d : BitVec 5) (a : BitVec 5) (b : BitVec 5) (u : BitVec 1) (o : BitVec 4) (z : BitVec 2) (x : Option Word) (s : State) : exec (.samo d a b u o z x) s = execSamo d a b u o z x s := rfl
@[simp] theorem exec_beq (a : BitVec 5) (b : BitVec 5) (o : BitVec 14) (x : Option Word) (s : State) : exec (.beq a b o x) s = execBeq a b o x s := rfl
@[simp] theorem exec_bne (a : BitVec 5) (b : BitVec 5) (o : BitVec 14) (x : Option Word) (s : State) : exec (.bne a b o x) s = execBne a b o x s := rfl
@[simp] theorem exec_blt (a : BitVec 5) (b : BitVec 5) (o : BitVec 14) (x : Option Word) (s : State) : exec (.blt a b o x) s = execBlt a b o x s := rfl
@[simp] theorem exec_bge (a : BitVec 5) (b : BitVec 5) (o : BitVec 14) (x : Option Word) (s : State) : exec (.bge a b o x) s = execBge a b o x s := rfl
@[simp] theorem exec_bltu (a : BitVec 5) (b : BitVec 5) (o : BitVec 14) (x : Option Word) (s : State) : exec (.bltu a b o x) s = execBltu a b o x s := rfl
@[simp] theorem exec_bgeu (a : BitVec 5) (b : BitVec 5) (o : BitVec 14) (x : Option Word) (s : State) : exec (.bgeu a b o x) s = execBgeu a b o x s := rfl
@[simp] theorem exec_j (o : BitVec 19) (x : Option Word) (s : State) : exec (.j o x) s = execJ o x s := rfl
@[simp] theorem exec_jal (d : BitVec 5) (o : BitVec 19) (x : Option Word) (s : State) : exec (.jal d o x) s = execJal d o x s := rfl
@[simp] theorem exec_jalr (d : BitVec 5) (a : BitVec 5) (iv : BitVec 14) (x : Option Word) (s : State) : exec (.jalr d a iv x) s = execJalr d a iv x s := rfl
@[simp] theorem exec_grd (d : BitVec 5) (k : BitVec 3) (s : State) : exec (.grd d k) s = execGrd d k s := rfl
@[simp] theorem exec_kset (k : BitVec 2) (a : BitVec 5) (x : Option Word) (s : State) : exec (.kset k a x) s = execKset k a x s := rfl
@[simp] theorem exec_diec (d : BitVec 5) (s : State) : exec (.diec d) s = execDiec d s := rfl
@[simp] theorem exec_spawn (d : BitVec 5) (a : BitVec 5) (e : BitVec 1) (jo : BitVec 6) (s : State) : exec (.spawn d a e jo) s = execSpawn d a e jo s := rfl
@[simp] theorem exec_tlrd (d : BitVec 5) (k : BitVec 2) (iv : BitVec 1) (s : State) : exec (.tlrd d k iv) s = execTlrd d k iv s := rfl
@[simp] theorem exec_srr (d : BitVec 5) (n : BitVec 9) (s : State) : exec (.srr d n) s = execSrr d n s := rfl
@[simp] theorem exec_srw (a : BitVec 5) (n : BitVec 9) (s : State) : exec (.srw a n) s = execSrw a n s := rfl
@[simp] theorem exec_binit (a : BitVec 5) (jo : BitVec 6) (s : State) : exec (.binit a jo) s = execBinit a jo s := rfl
@[simp] theorem exec_barr (jo : BitVec 6) (s : State) : exec (.barr jo) s = execBarr jo s := rfl
@[simp] theorem exec_bard (jo : BitVec 6) (s : State) : exec (.bard jo) s = execBard jo s := rfl
@[simp] theorem exec_bwait (d : BitVec 5) (jo : BitVec 6) (s : State) : exec (.bwait d jo) s = execBwait d jo s := rfl
@[simp] theorem exec_binv (jo : BitVec 6) (s : State) : exec (.binv jo) s = execBinv jo s := rfl
@[simp] theorem exec_trap (c : BitVec 14) (x : Option Word) (s : State) : exec (.trap c x) s = execTrap c x s := rfl
@[simp] theorem exec_halt (a : BitVec 5) (s : State) : exec (.halt a) s = execHalt a s := rfl
@[simp] theorem exec_hostsig (a : BitVec 5) (o : BitVec 1) (g : BitVec 8) (s : State) : exec (.hostsig a o g) s = execHostsig a o g s := rfl
@[simp] theorem exec_podred (d : BitVec 5) (a : BitVec 5) (o : BitVec 4) (s : State) : exec (.podred d a o) s = execPodred d a o s := rfl
@[simp] theorem exec_vadd (t : BitVec 4) (d : BitVec 5) (a : BitVec 5) (b : BitVec 5) (m : BitVec 3) (x : Option Word) (s : State) : exec (.vadd t d a b m x) s = execVadd t d a b m x s := rfl
@[simp] theorem exec_vsub (t : BitVec 4) (d : BitVec 5) (a : BitVec 5) (b : BitVec 5) (m : BitVec 3) (x : Option Word) (s : State) : exec (.vsub t d a b m x) s = execVsub t d a b m x s := rfl
@[simp] theorem exec_vmul (t : BitVec 4) (d : BitVec 5) (a : BitVec 5) (b : BitVec 5) (m : BitVec 3) (x : Option Word) (s : State) : exec (.vmul t d a b m x) s = execVmul t d a b m x s := rfl
@[simp] theorem exec_vmulh (t : BitVec 4) (d : BitVec 5) (a : BitVec 5) (b : BitVec 5) (m : BitVec 3) (x : Option Word) (s : State) : exec (.vmulh t d a b m x) s = execVmulh t d a b m x s := rfl
@[simp] theorem exec_vmad (t : BitVec 4) (d : BitVec 5) (a : BitVec 5) (b : BitVec 5) (m : BitVec 3) (c : BitVec 5) (s : State) : exec (.vmad t d a b m c) s = execVmad t d a b m c s := rfl
@[simp] theorem exec_vabs (t : BitVec 2) (d : BitVec 5) (a : BitVec 5) (m : BitVec 3) (s : State) : exec (.vabs t d a m) s = execVabs t d a m s := rfl
@[simp] theorem exec_vneg (t : BitVec 4) (d : BitVec 5) (a : BitVec 5) (m : BitVec 3) (s : State) : exec (.vneg t d a m) s = execVneg t d a m s := rfl
@[simp] theorem exec_vmin (t : BitVec 4) (d : BitVec 5) (a : BitVec 5) (b : BitVec 5) (m : BitVec 3) (x : Option Word) (s : State) : exec (.vmin t d a b m x) s = execVmin t d a b m x s := rfl
@[simp] theorem exec_vmax (t : BitVec 4) (d : BitVec 5) (a : BitVec 5) (b : BitVec 5) (m : BitVec 3) (x : Option Word) (s : State) : exec (.vmax t d a b m x) s = execVmax t d a b m x s := rfl
@[simp] theorem exec_vsadd (t : BitVec 4) (d : BitVec 5) (a : BitVec 5) (b : BitVec 5) (m : BitVec 3) (x : Option Word) (s : State) : exec (.vsadd t d a b m x) s = execVsadd t d a b m x s := rfl
@[simp] theorem exec_vssub (t : BitVec 4) (d : BitVec 5) (a : BitVec 5) (b : BitVec 5) (m : BitVec 3) (x : Option Word) (s : State) : exec (.vssub t d a b m x) s = execVssub t d a b m x s := rfl
@[simp] theorem exec_vabd (t : BitVec 4) (d : BitVec 5) (a : BitVec 5) (b : BitVec 5) (m : BitVec 3) (x : Option Word) (s : State) : exec (.vabd t d a b m x) s = execVabd t d a b m x s := rfl
@[simp] theorem exec_vshl (t : BitVec 4) (d : BitVec 5) (a : BitVec 5) (b : BitVec 5) (m : BitVec 3) (x : Option Word) (s : State) : exec (.vshl t d a b m x) s = execVshl t d a b m x s := rfl
@[simp] theorem exec_vshr (t : BitVec 4) (d : BitVec 5) (a : BitVec 5) (b : BitVec 5) (m : BitVec 3) (x : Option Word) (s : State) : exec (.vshr t d a b m x) s = execVshr t d a b m x s := rfl
@[simp] theorem exec_vsra (t : BitVec 4) (d : BitVec 5) (a : BitVec 5) (b : BitVec 5) (m : BitVec 3) (x : Option Word) (s : State) : exec (.vsra t d a b m x) s = execVsra t d a b m x s := rfl
@[simp] theorem exec_vand (t : BitVec 4) (d : BitVec 5) (a : BitVec 5) (b : BitVec 5) (m : BitVec 3) (x : Option Word) (s : State) : exec (.vand t d a b m x) s = execVand t d a b m x s := rfl
@[simp] theorem exec_vor (t : BitVec 4) (d : BitVec 5) (a : BitVec 5) (b : BitVec 5) (m : BitVec 3) (x : Option Word) (s : State) : exec (.vor t d a b m x) s = execVor t d a b m x s := rfl
@[simp] theorem exec_vxor (t : BitVec 4) (d : BitVec 5) (a : BitVec 5) (b : BitVec 5) (m : BitVec 3) (x : Option Word) (s : State) : exec (.vxor t d a b m x) s = execVxor t d a b m x s := rfl
@[simp] theorem exec_vnot (t : BitVec 4) (d : BitVec 5) (a : BitVec 5) (m : BitVec 3) (s : State) : exec (.vnot t d a m) s = execVnot t d a m s := rfl
@[simp] theorem exec_vsel (t : BitVec 4) (d : BitVec 5) (a : BitVec 5) (b : BitVec 5) (m : BitVec 3) (s : State) : exec (.vsel t d a b m) s = execVsel t d a b m s := rfl
@[simp] theorem exec_vclz (t : BitVec 4) (d : BitVec 5) (a : BitVec 5) (m : BitVec 3) (s : State) : exec (.vclz t d a m) s = execVclz t d a m s := rfl
@[simp] theorem exec_vpopc (t : BitVec 4) (d : BitVec 5) (a : BitVec 5) (m : BitVec 3) (s : State) : exec (.vpopc t d a m) s = execVpopc t d a m s := rfl
@[simp] theorem exec_vcmp (t : BitVec 4) (d : BitVec 3) (a : BitVec 5) (b : BitVec 5) (m : BitVec 3) (c : BitVec 2) (x : Option Word) (s : State) : exec (.vcmp t d a b m c x) s = execVcmp t d a b m c x s := rfl
@[simp] theorem exec_vtest (t : BitVec 4) (d : BitVec 2) (a : BitVec 5) (m : BitVec 3) (f : BitVec 1) (s : State) : exec (.vtest t d a m f) s = execVtest t d a m f s := rfl
@[simp] theorem exec_vmand (d : BitVec 3) (a : BitVec 3) (b : BitVec 3) (s : State) : exec (.vmand d a b) s = execVmand d a b s := rfl
@[simp] theorem exec_vmor (d : BitVec 3) (a : BitVec 3) (b : BitVec 3) (s : State) : exec (.vmor d a b) s = execVmor d a b s := rfl
@[simp] theorem exec_vmxor (d : BitVec 3) (a : BitVec 3) (b : BitVec 3) (s : State) : exec (.vmxor d a b) s = execVmxor d a b s := rfl
@[simp] theorem exec_vmnot (d : BitVec 3) (a : BitVec 3) (s : State) : exec (.vmnot d a) s = execVmnot d a s := rfl
@[simp] theorem exec_vmpopc (d : BitVec 4) (a : BitVec 3) (m : BitVec 3) (s : State) : exec (.vmpopc d a m) s = execVmpopc d a m s := rfl
@[simp] theorem exec_vmov (t : BitVec 4) (d : BitVec 5) (a : BitVec 5) (m : BitVec 3) (s : State) : exec (.vmov t d a m) s = execVmov t d a m s := rfl
@[simp] theorem exec_vmovi (t : BitVec 4) (d : BitVec 5) (m : BitVec 3) (iv : BitVec 32) (s : State) : exec (.vmovi t d m iv) s = execVmovi t d m iv s := rfl
@[simp] theorem exec_vbroad (t : BitVec 4) (d : BitVec 5) (a : BitVec 4) (m : BitVec 3) (f : BitVec 1) (s : State) : exec (.vbroad t d a m f) s = execVbroad t d a m f s := rfl
@[simp] theorem exec_vshuf (t : BitVec 4) (d : BitVec 5) (a : BitVec 5) (b : BitVec 5) (m : BitVec 3) (s : State) : exec (.vshuf t d a b m) s = execVshuf t d a b m s := rfl
@[simp] theorem exec_vrotl (t : BitVec 4) (d : BitVec 5) (a : BitVec 5) (b : BitVec 4) (m : BitVec 3) (x : Option Word) (s : State) : exec (.vrotl t d a b m x) s = execVrotl t d a b m x s := rfl
@[simp] theorem exec_vext (t : BitVec 4) (d : BitVec 4) (a : BitVec 5) (b : BitVec 4) (h : BitVec 1) (x : Option Word) (s : State) : exec (.vext t d a b h x) s = execVext t d a b h x s := rfl
@[simp] theorem exec_vins (t : BitVec 4) (d : BitVec 5) (a : BitVec 4) (b : BitVec 4) (h : BitVec 1) (x : Option Word) (s : State) : exec (.vins t d a b h x) s = execVins t d a b h x s := rfl
@[simp] theorem exec_viota (t : BitVec 4) (d : BitVec 5) (a : BitVec 4) (m : BitVec 3) (s : State) : exec (.viota t d a m) s = execViota t d a m s := rfl
@[simp] theorem exec_vcellid (t : BitVec 2) (d : BitVec 5) (m : BitVec 3) (f : BitVec 2) (s : State) : exec (.vcellid t d m f) s = execVcellid t d m f s := rfl
@[simp] theorem exec_vrsum (t : BitVec 4) (d : BitVec 5) (a : BitVec 5) (m : BitVec 3) (s : State) : exec (.vrsum t d a m) s = execVrsum t d a m s := rfl
@[simp] theorem exec_vrmax (t : BitVec 4) (d : BitVec 5) (a : BitVec 5) (m : BitVec 3) (s : State) : exec (.vrmax t d a m) s = execVrmax t d a m s := rfl
@[simp] theorem exec_vrmin (t : BitVec 4) (d : BitVec 5) (a : BitVec 5) (m : BitVec 3) (s : State) : exec (.vrmin t d a m) s = execVrmin t d a m s := rfl
@[simp] theorem exec_vhash (t : BitVec 1) (d : BitVec 5) (a : BitVec 5) (b : BitVec 5) (m : BitVec 3) (s : State) : exec (.vhash t d a b m) s = execVhash t d a b m s := rfl
@[simp] theorem exec_vld (t : BitVec 4) (d : BitVec 5) (a : BitVec 4) (m : BitVec 3) (x : Option Word) (s : State) : exec (.vld t d a m x) s = execVld t d a m x s := rfl
@[simp] theorem exec_vst (t : BitVec 4) (d : BitVec 5) (a : BitVec 4) (m : BitVec 3) (x : Option Word) (s : State) : exec (.vst t d a m x) s = execVst t d a m x s := rfl
@[simp] theorem exec_vlds (t : BitVec 4) (d : BitVec 5) (a : BitVec 4) (b : BitVec 4) (m : BitVec 3) (x : Option Word) (s : State) : exec (.vlds t d a b m x) s = execVlds t d a b m x s := rfl
@[simp] theorem exec_vsts (t : BitVec 4) (d : BitVec 5) (a : BitVec 4) (b : BitVec 4) (m : BitVec 3) (x : Option Word) (s : State) : exec (.vsts t d a b m x) s = execVsts t d a b m x s := rfl
@[simp] theorem exec_vgath (t : BitVec 4) (d : BitVec 5) (a : BitVec 4) (b : BitVec 5) (m : BitVec 3) (c : BitVec 1) (x : Option Word) (s : State) : exec (.vgath t d a b m c x) s = execVgath t d a b m c x s := rfl
@[simp] theorem exec_vscat (t : BitVec 4) (d : BitVec 5) (a : BitVec 4) (b : BitVec 5) (m : BitVec 3) (c : BitVec 1) (x : Option Word) (s : State) : exec (.vscat t d a b m c x) s = execVscat t d a b m c x s := rfl
@[simp] theorem exec_vscata (t : BitVec 4) (d : BitVec 5) (a : BitVec 4) (b : BitVec 5) (m : BitVec 3) (c : BitVec 1) (x : Option Word) (s : State) : exec (.vscata t d a b m c x) s = execVscata t d a b m c x s := rfl
@[simp] theorem exec_badd (d : BitVec 4) (a : BitVec 4) (b : BitVec 4) (s : State) : exec (.badd d a b) s = execBadd d a b s := rfl
@[simp] theorem exec_bsub (d : BitVec 4) (a : BitVec 4) (b : BitVec 4) (s : State) : exec (.bsub d a b) s = execBsub d a b s := rfl
@[simp] theorem exec_bmul (d : BitVec 4) (a : BitVec 4) (b : BitVec 4) (s : State) : exec (.bmul d a b) s = execBmul d a b s := rfl
@[simp] theorem exec_bshl (d : BitVec 4) (a : BitVec 4) (b : BitVec 4) (s : State) : exec (.bshl d a b) s = execBshl d a b s := rfl
@[simp] theorem exec_baddi (d : BitVec 4) (a : BitVec 4) (iv : BitVec 32) (s : State) : exec (.baddi d a iv) s = execBaddi d a iv s := rfl
@[simp] theorem exec_bshr (d : BitVec 4) (a : BitVec 4) (b : BitVec 4) (f : BitVec 1) (s : State) : exec (.bshr d a b f) s = execBshr d a b f s := rfl
@[simp] theorem exec_band (d : BitVec 4) (a : BitVec 4) (b : BitVec 4) (s : State) : exec (.band d a b) s = execBand d a b s := rfl
@[simp] theorem exec_bor (d : BitVec 4) (a : BitVec 4) (b : BitVec 4) (s : State) : exec (.bor d a b) s = execBor d a b s := rfl
@[simp] theorem exec_bxor (d : BitVec 4) (a : BitVec 4) (b : BitVec 4) (s : State) : exec (.bxor d a b) s = execBxor d a b s := rfl
@[simp] theorem exec_bmov (d : BitVec 4) (a : BitVec 4) (s : State) : exec (.bmov d a) s = execBmov d a s := rfl
@[simp] theorem exec_bli (d : BitVec 4) (iv : BitVec 32) (s : State) : exec (.bli d iv) s = execBli d iv s := rfl
@[simp] theorem exec_bcmp (d : BitVec 2) (a : BitVec 4) (b : BitVec 4) (c : BitVec 2) (s : State) : exec (.bcmp d a b c) s = execBcmp d a b c s := rfl
@[simp] theorem exec_bld (d : BitVec 4) (a : BitVec 4) (x : Option Word) (s : State) : exec (.bld d a x) s = execBld d a x s := rfl
@[simp] theorem exec_bst (d : BitVec 4) (a : BitVec 4) (x : Option Word) (s : State) : exec (.bst d a x) s = execBst d a x s := rfl
@[simp] theorem exec_vpushact (k : BitVec 2) (s : State) : exec (.vpushact k) s = execVpushact k s := rfl
@[simp] theorem exec_vfadd (t : BitVec 4) (d : BitVec 5) (a : BitVec 5) (b : BitVec 5) (m : BitVec 3) (x : Option Word) (s : State) : exec (.vfadd t d a b m x) s = execVfadd t d a b m x s := rfl
@[simp] theorem exec_vfsub (t : BitVec 4) (d : BitVec 5) (a : BitVec 5) (b : BitVec 5) (m : BitVec 3) (x : Option Word) (s : State) : exec (.vfsub t d a b m x) s = execVfsub t d a b m x s := rfl
@[simp] theorem exec_vfmul (t : BitVec 4) (d : BitVec 5) (a : BitVec 5) (b : BitVec 5) (m : BitVec 3) (x : Option Word) (s : State) : exec (.vfmul t d a b m x) s = execVfmul t d a b m x s := rfl
@[simp] theorem exec_vfma (t : BitVec 4) (d : BitVec 5) (a : BitVec 5) (b : BitVec 5) (m : BitVec 3) (c : BitVec 5) (s : State) : exec (.vfma t d a b m c) s = execVfma t d a b m c s := rfl
@[simp] theorem exec_vfms (t : BitVec 4) (d : BitVec 5) (a : BitVec 5) (b : BitVec 5) (m : BitVec 3) (c : BitVec 5) (s : State) : exec (.vfms t d a b m c) s = execVfms t d a b m c s := rfl
@[simp] theorem exec_vfnma (t : BitVec 4) (d : BitVec 5) (a : BitVec 5) (b : BitVec 5) (m : BitVec 3) (c : BitVec 5) (s : State) : exec (.vfnma t d a b m c) s = execVfnma t d a b m c s := rfl
@[simp] theorem exec_vfmin (t : BitVec 4) (d : BitVec 5) (a : BitVec 5) (b : BitVec 5) (m : BitVec 3) (x : Option Word) (s : State) : exec (.vfmin t d a b m x) s = execVfmin t d a b m x s := rfl
@[simp] theorem exec_vfmax (t : BitVec 4) (d : BitVec 5) (a : BitVec 5) (b : BitVec 5) (m : BitVec 3) (x : Option Word) (s : State) : exec (.vfmax t d a b m x) s = execVfmax t d a b m x s := rfl
@[simp] theorem exec_vfabs (t : BitVec 4) (d : BitVec 5) (a : BitVec 5) (m : BitVec 3) (s : State) : exec (.vfabs t d a m) s = execVfabs t d a m s := rfl
@[simp] theorem exec_vfneg (t : BitVec 4) (d : BitVec 5) (a : BitVec 5) (m : BitVec 3) (s : State) : exec (.vfneg t d a m) s = execVfneg t d a m s := rfl
@[simp] theorem exec_vfdiv (t : BitVec 4) (d : BitVec 5) (a : BitVec 5) (b : BitVec 5) (m : BitVec 3) (x : Option Word) (s : State) : exec (.vfdiv t d a b m x) s = execVfdiv t d a b m x s := rfl
@[simp] theorem exec_vfsqrt (t : BitVec 4) (d : BitVec 5) (a : BitVec 5) (m : BitVec 3) (s : State) : exec (.vfsqrt t d a m) s = execVfsqrt t d a m s := rfl
@[simp] theorem exec_vfrcp (t : BitVec 4) (d : BitVec 5) (a : BitVec 5) (m : BitVec 3) (s : State) : exec (.vfrcp t d a m) s = execVfrcp t d a m s := rfl
@[simp] theorem exec_vfrsq (t : BitVec 4) (d : BitVec 5) (a : BitVec 5) (m : BitVec 3) (s : State) : exec (.vfrsq t d a m) s = execVfrsq t d a m s := rfl
@[simp] theorem exec_vfexp2 (t : BitVec 4) (d : BitVec 5) (a : BitVec 5) (m : BitVec 3) (s : State) : exec (.vfexp2 t d a m) s = execVfexp2 t d a m s := rfl
@[simp] theorem exec_vflog2 (t : BitVec 4) (d : BitVec 5) (a : BitVec 5) (m : BitVec 3) (s : State) : exec (.vflog2 t d a m) s = execVflog2 t d a m s := rfl
@[simp] theorem exec_vftanh (t : BitVec 4) (d : BitVec 5) (a : BitVec 5) (m : BitVec 3) (s : State) : exec (.vftanh t d a m) s = execVftanh t d a m s := rfl
@[simp] theorem exec_vfclass (t : BitVec 4) (d : BitVec 5) (a : BitVec 5) (m : BitVec 3) (s : State) : exec (.vfclass t d a m) s = execVfclass t d a m s := rfl
@[simp] theorem exec_vfcmp (t : BitVec 4) (d : BitVec 3) (a : BitVec 5) (b : BitVec 5) (m : BitVec 3) (c : BitVec 2) (x : Option Word) (s : State) : exec (.vfcmp t d a b m c x) s = execVfcmp t d a b m c x s := rfl
@[simp] theorem exec_vcvt (t : BitVec 4) (d : BitVec 5) (a : BitVec 5) (m : BitVec 3) (y : BitVec 4) (sv : BitVec 1) (r : BitVec 3) (p : BitVec 4) (s : State) : exec (.vcvt t d a m y sv r p) s = execVcvt t d a m y sv r p s := rfl
@[simp] theorem exec_vpack (t : BitVec 4) (d : BitVec 5) (a : BitVec 5) (b : BitVec 5) (m : BitVec 3) (sv : BitVec 1) (s : State) : exec (.vpack t d a b m sv) s = execVpack t d a b m sv s := rfl
@[simp] theorem exec_vunpack (t : BitVec 4) (d : BitVec 5) (a : BitVec 5) (m : BitVec 3) (h : BitVec 1) (s : State) : exec (.vunpack t d a m h) s = execVunpack t d a m h s := rfl
@[simp] theorem exec_vscale (t : BitVec 4) (d : BitVec 5) (a : BitVec 5) (b : BitVec 5) (m : BitVec 3) (x : Option Word) (s : State) : exec (.vscale t d a b m x) s = execVscale t d a b m x s := rfl
@[simp] theorem exec_vqenc (t : BitVec 4) (d : BitVec 5) (a : BitVec 5) (b : BitVec 4) (m : BitVec 3) (p : BitVec 3) (s : State) : exec (.vqenc t d a b m p) s = execVqenc t d a b m p s := rfl
@[simp] theorem exec_vqdec (t : BitVec 4) (d : BitVec 5) (a : BitVec 5) (m : BitVec 3) (p : BitVec 3) (s : State) : exec (.vqdec t d a m p) s = execVqdec t d a m p s := rfl
@[simp] theorem exec_vfrsum (t : BitVec 4) (d : BitVec 5) (a : BitVec 5) (m : BitVec 3) (s : State) : exec (.vfrsum t d a m) s = execVfrsum t d a m s := rfl
@[simp] theorem exec_tmma (c : BitVec 3) (a : BitVec 3) (b : BitVec 3) (f : BitVec 2) (g : BitVec 2) (x : BitVec 1) (y : BitVec 1) (s : State) : exec (.tmma c a b f g x y) s = execTmma c a b f g x y s := rfl
@[simp] theorem exec_tmma64 (c : BitVec 3) (a : BitVec 3) (b : BitVec 3) (x : BitVec 1) (y : BitVec 1) (s : State) : exec (.tmma64 c a b x y) s = execTmma64 c a b x y s := rfl
@[simp] theorem exec_taccz (c : BitVec 3) (s : State) : exec (.taccz c) s = execTaccz c s := rfl
@[simp] theorem exec_taccld (c : BitVec 3) (a : BitVec 4) (f : BitVec 2) (r : BitVec 1) (x : Option Word) (s : State) : exec (.taccld c a f r x) s = execTaccld c a f r x s := rfl
@[simp] theorem exec_taccst (c : BitVec 3) (a : BitVec 4) (f : BitVec 2) (r : BitVec 1) (x : Option Word) (s : State) : exec (.taccst c a f r x) s = execTaccst c a f r x s := rfl
@[simp] theorem exec_taccret (c : BitVec 3) (s : State) : exec (.taccret c) s = execTaccret c s := rfl
@[simp] theorem exec_taccrd (c : BitVec 3) (d : BitVec 5) (p : BitVec 2) (s : State) : exec (.taccrd c d p) s = execTaccrd c d p s := rfl
@[simp] theorem exec_taccwr (c : BitVec 3) (a : BitVec 5) (p : BitVec 2) (s : State) : exec (.taccwr c a p) s = execTaccwr c a p s := rfl
@[simp] theorem exec_tcoat (c : BitVec 3) (d : BitVec 4) (s : State) : exec (.tcoat c d) s = execTcoat c d s := rfl
@[simp] theorem exec_tmon (d : BitVec 4) (sv : BitVec 2) (l : BitVec 1) (s : State) : exec (.tmon d sv l) s = execTmon d sv l s := rfl
@[simp] theorem exec_qset (q : BitVec 3) (sv : BitVec 1) (f : BitVec 4) (h : BitVec 1) (c : BitVec 8) (z : BitVec 4) (b : BitVec 17) (s : State) : exec (.qset q sv f h c z b) s = execQset q sv f h c z b s := rfl
@[simp] theorem exec_qcommit (q : BitVec 3) (n : BitVec 8) (s : State) : exec (.qcommit q n) s = execQcommit q n s := rfl
@[simp] theorem exec_qpop (q : BitVec 3) (n : BitVec 8) (s : State) : exec (.qpop q n) s = execQpop q n s := rfl
@[simp] theorem exec_qstat (q : BitVec 3) (d : BitVec 4) (l : BitVec 1) (s : State) : exec (.qstat q d l) s = execQstat q d l s := rfl
@[simp] theorem exec_qtwin (q : BitVec 3) (k : BitVec 4) (iv : BitVec 8) (s : State) : exec (.qtwin q k iv) s = execQtwin q k iv s := rfl
@[simp] theorem exec_dcopy (l : BitVec 4) (d : BitVec 3) (sv : BitVec 3) (e : BitVec 1) (jo : BitVec 6) (o : BitVec 4) (s : State) : exec (.dcopy l d sv e jo o) s = execDcopy l d sv e jo o s := rfl
@[simp] theorem exec_dshape (d : BitVec 3) (k : BitVec 4) (f : BitVec 4) (x : Option Word) (s : State) : exec (.dshape d k f x) s = execDshape d k f x s := rfl
@[simp] theorem exec_dgath (l : BitVec 4) (d : BitVec 5) (b : BitVec 4) (e : BitVec 1) (jo : BitVec 6) (c : BitVec 1) (w : BitVec 2) (f : BitVec 20) (n : BitVec 12) (s : State) : exec (.dgath l d b e jo c w f n) s = execDgath l d b e jo c w f n s := rfl
@[simp] theorem exec_dgathSp (l : BitVec 4) (d : BitVec 3) (b : BitVec 4) (e : BitVec 1) (jo : BitVec 6) (w : BitVec 2) (x : Option Word) (s : State) : exec (.dgathSp l d b e jo w x) s = execDgathSp l d b e jo w x s := rfl
@[simp] theorem exec_dscat (l : BitVec 4) (d : BitVec 5) (b : BitVec 4) (e : BitVec 1) (jo : BitVec 6) (c : BitVec 1) (w : BitVec 2) (x : Option Word) (s : State) : exec (.dscat l d b e jo c w x) s = execDscat l d b e jo c w x s := rfl
@[simp] theorem exec_dscatSp (l : BitVec 4) (d : BitVec 3) (b : BitVec 4) (e : BitVec 1) (jo : BitVec 6) (w : BitVec 2) (x : Option Word) (s : State) : exec (.dscatSp l d b e jo w x) s = execDscatSp l d b e jo w x s := rfl
@[simp] theorem exec_dscata (l : BitVec 4) (d : BitVec 5) (b : BitVec 4) (e : BitVec 1) (jo : BitVec 6) (c : BitVec 1) (w : BitVec 2) (x : Option Word) (s : State) : exec (.dscata l d b e jo c w x) s = execDscata l d b e jo c w x s := rfl
@[simp] theorem exec_dscataSp (l : BitVec 4) (d : BitVec 3) (b : BitVec 4) (e : BitVec 1) (jo : BitVec 6) (w : BitVec 2) (x : Option Word) (s : State) : exec (.dscataSp l d b e jo w x) s = execDscataSp l d b e jo w x s := rfl
@[simp] theorem exec_dst (l : BitVec 4) (d : BitVec 4) (b : BitVec 4) (e : BitVec 1) (jo : BitVec 6) (w : BitVec 1) (x : Option Word) (s : State) : exec (.dst l d b e jo w x) s = execDst l d b e jo w x s := rfl
@[simp] theorem exec_dstv (l : BitVec 4) (d : BitVec 5) (b : BitVec 4) (e : BitVec 1) (jo : BitVec 6) (x : Option Word) (s : State) : exec (.dstv l d b e jo x) s = execDstv l d b e jo x s := rfl
@[simp] theorem exec_dld (l : BitVec 4) (d : BitVec 5) (b : BitVec 4) (e : BitVec 1) (jo : BitVec 6) (f : BitVec 20) (n : BitVec 12) (s : State) : exec (.dld l d b e jo f n) s = execDld l d b e jo f n s := rfl
@[simp] theorem exec_datom (l : BitVec 4) (w : BitVec 1) (d : BitVec 4) (b : BitVec 4) (e : BitVec 1) (jo : BitVec 6) (o : BitVec 4) (x : Option Word) (s : State) : exec (.datom l w d b e jo o x) s = execDatom l w d b e jo o x s := rfl
@[simp] theorem exec_datomRet (l : BitVec 4) (w : BitVec 1) (d : BitVec 4) (b : BitVec 4) (e : BitVec 1) (jo : BitVec 6) (o : BitVec 4) (f : BitVec 20) (n : BitVec 12) (s : State) : exec (.datomRet l w d b e jo o f n) s = execDatomRet l w d b e jo o f n s := rfl
@[simp] theorem exec_dperm (sv : BitVec 5) (b : BitVec 4) (e : BitVec 1) (jo : BitVec 6) (x : Option Word) (s : State) : exec (.dperm sv b e jo x) s = execDperm sv b e jo x s := rfl
@[simp] theorem exec_dpermcfg (d : BitVec 4) (k : BitVec 4) (p : BitVec 4) (x : Option Word) (s : State) : exec (.dpermcfg d k p x) s = execDpermcfg d k p x s := rfl
@[simp] theorem exec_dred (sv : BitVec 5) (g : BitVec 3) (o : BitVec 4) (s : State) : exec (.dred sv g o) s = execDred sv g o s := rfl
@[simp] theorem exec_dvact (b : BitVec 4) (e : BitVec 1) (jo : BitVec 6) (x : Option Word) (s : State) : exec (.dvact b e jo x) s = execDvact b e jo x s := rfl
@[simp] theorem exec_dvpre (b : BitVec 4) (e : BitVec 1) (jo : BitVec 6) (x : Option Word) (s : State) : exec (.dvpre b e jo x) s = execDvpre b e jo x s := rfl
@[simp] theorem exec_dvrd (d : BitVec 5) (b : BitVec 4) (e : BitVec 1) (jo : BitVec 6) (f : BitVec 20) (n : BitVec 12) (s : State) : exec (.dvrd d b e jo f n) s = execDvrd d b e jo f n s := rfl
@[simp] theorem exec_dvrdSp (d : BitVec 4) (b : BitVec 4) (e : BitVec 1) (jo : BitVec 6) (n : BitVec 3) (x : Option Word) (s : State) : exec (.dvrdSp d b e jo n x) s = execDvrdSp d b e jo n x s := rfl
@[simp] theorem exec_dvwr (d : BitVec 5) (b : BitVec 4) (e : BitVec 1) (jo : BitVec 6) (x : Option Word) (s : State) : exec (.dvwr d b e jo x) s = execDvwr d b e jo x s := rfl
@[simp] theorem exec_dvwrSp (d : BitVec 4) (b : BitVec 4) (e : BitVec 1) (jo : BitVec 6) (n : BitVec 3) (x : Option Word) (s : State) : exec (.dvwrSp d b e jo n x) s = execDvwrSp d b e jo n x s := rfl
@[simp] theorem exec_dvref (b : BitVec 4) (e : BitVec 1) (jo : BitVec 6) (x : Option Word) (s : State) : exec (.dvref b e jo x) s = execDvref b e jo x s := rfl
@[simp] theorem exec_dvlife (c : BitVec 4) (b : BitVec 4) (e : BitVec 1) (jo : BitVec 6) (m : BitVec 4) (x : Option Word) (s : State) : exec (.dvlife c b e jo m x) s = execDvlife c b e jo m x s := rfl
@[simp] theorem exec_dtlmark (d : BitVec 4) (k : BitVec 2) (iv : BitVec 1) (s : State) : exec (.dtlmark d k iv) s = execDtlmark d k iv s := rfl
@[simp] theorem exec_ywaitf (k : BitVec 4) (v : BitVec 15) (s : State) : exec (.ywaitf k v) s = execYwaitf k v s := rfl
@[simp] theorem exec_ywaitfExt (k : BitVec 4) (v : BitVec 16) (s : State) : exec (.ywaitfExt k v) s = execYwaitfExt k v s := rfl
@[simp] theorem exec_ypostf (k : BitVec 4) (n : BitVec 15) (s : State) : exec (.ypostf k n) s = execYpostf k n s := rfl
@[simp] theorem exec_ywaitt (k : BitVec 2) (v : BitVec 32) (s : State) : exec (.ywaitt k v) s = execYwaitt k v s := rfl
@[simp] theorem exec_ywaittB (k : BitVec 2) (jb : BitVec 4) (s : State) : exec (.ywaittB k jb) s = execYwaittB k jb s := rfl
@[simp] theorem exec_yfence (m : BitVec 16) (s : State) : exec (.yfence m) s = execYfence m s := rfl
@[simp] theorem exec_ylock (m : BitVec 16) (n : BitVec 3) (s : State) : exec (.ylock m n) s = execYlock m n s := rfl
@[simp] theorem exec_ymark (c : BitVec 16) (s : State) : exec (.ymark c) s = execYmark c s := rfl
@[simp] theorem exec_podAccessArrival (a : PodAccess) (s : State) : exec (.podAccessArrival a) s = execPodAccessArrival a s := rfl
@[simp] theorem exec_podMessageArrival (msg : PodMsg) (s : State) : exec (.podMessageArrival msg) s = execPodMessageArrival msg s := rfl
@[simp] theorem exec_podRoundTimeout (slot : BitVec 4) (s : State) : exec (.podRoundTimeout slot) s = execPodRoundTimeout slot s := rfl
@[simp] theorem exec_packetStage (queue : BitVec 6) (fail : BitVec 1) (s : State) : exec (.packetStage queue fail) s = execPacketStage queue fail s := rfl
@[simp] theorem exec_launch (queue : BitVec 6) (s : State) : exec (.launch queue) s = execLaunch queue s := rfl
@[simp] theorem exec_wait (queue : BitVec 6) (s : State) : exec (.wait queue) s = execWait queue s := rfl
@[simp] theorem exec_waitTimeout (queue : BitVec 6) (s : State) : exec (.waitTimeout queue) s = execWaitTimeout queue s := rfl
@[simp] theorem exec_signal (queue : BitVec 6) (s : State) : exec (.signal queue) s = execSignal queue s := rfl
@[simp] theorem exec_hcopy (queue : BitVec 6) (s : State) : exec (.hcopy queue) s = execHcopy queue s := rfl
@[simp] theorem exec_hcopyComplete (queue : BitVec 6) (index : BitVec 32) (s : State) : exec (.hcopyComplete queue index) s = execHcopyComplete queue index s := rfl
@[simp] theorem exec_fence (queue : BitVec 6) (s : State) : exec (.fence queue) s = execFence queue s := rfl
@[simp] theorem exec_mark (queue : BitVec 6) (s : State) : exec (.mark queue) s = execMark queue s := rfl
@[simp] theorem exec_destroyDrainDone (queue : BitVec 6) (s : State) : exec (.destroyDrainDone queue) s = execDestroyDrainDone queue s := rfl
@[simp] theorem exec_preemptLimitExpiry (slot : BitVec 4) (s : State) : exec (.preemptLimitExpiry slot) s = execPreemptLimitExpiry slot s := rfl
@[simp] theorem exec_saveComplete (slot : BitVec 4) (fail : BitVec 1) (s : State) : exec (.saveComplete slot fail) s = execSaveComplete slot fail s := rfl
@[simp] theorem exec_restoreComplete (slot : BitVec 4) (fail : BitVec 1) (s : State) : exec (.restoreComplete slot fail) s = execRestoreComplete slot fail s := rfl
@[simp] theorem exec_stepDecision (slot : BitVec 4) (s : State) : exec (.stepDecision slot) s = execStepDecision slot s := rfl
@[simp] theorem exec_bundleFetch (slot : BitVec 4) (ahead : BitVec 3) (s : State) : exec (.bundleFetch slot ahead) s = execBundleFetch slot ahead s := rfl
@[simp] theorem exec_bundleIssue (slot : BitVec 4) (s : State) : exec (.bundleIssue slot) s = execBundleIssue slot s := rfl
@[simp] theorem exec_bundleRetire (slot : BitVec 4) (die : BitVec 6) (s : State) : exec (.bundleRetire slot die) s = execBundleRetire slot die s := rfl
@[simp] theorem exec_barrierRelease (slot : BitVec 4) (s : State) : exec (.barrierRelease slot) s = execBarrierRelease slot s := rfl
@[simp] theorem exec_cellFault (slot : BitVec 4) (die : BitVec 6) (s : State) : exec (.cellFault slot die) s = execCellFault slot die s := rfl
@[simp] theorem exec_freeze (slot : BitVec 4) (s : State) : exec (.freeze slot) s = execFreeze slot s := rfl
@[simp] theorem exec_freezeDrainDone (slot : BitVec 4) (s : State) : exec (.freezeDrainDone slot) s = execFreezeDrainDone slot s := rfl
@[simp] theorem exec_landing (slot : BitVec 4) (die : BitVec 6) (s : State) : exec (.landing slot die) s = execLanding slot die s := rfl
@[simp] theorem exec_landingDataArrival (slot : BitVec 4) (die : BitVec 6) (held : Xword) (s : State) : exec (.landingDataArrival slot die held) s = execLandingDataArrival slot die held s := rfl
@[simp] theorem exec_staggerStart (slot : BitVec 4) (region : BitVec 4) (s : State) : exec (.staggerStart slot region) s = execStaggerStart slot region s := rfl
@[simp] theorem exec_commitComplete (handle : BitVec 12) (s : State) : exec (.commitComplete handle) s = execCommitComplete handle s := rfl
@[simp] theorem exec_walkComplete (die : BitVec 6) (page : BitVec 45) (s : State) : exec (.walkComplete die page) s = execWalkComplete die page s := rfl
@[simp] theorem exec_vaultCommandStart (slot : BitVec 4) (die : BitVec 6) (cell : BitVec 11) (num : Xword) (s : State) : exec (.vaultCommandStart slot die cell num) s = execVaultCommandStart slot die cell num s := rfl
@[simp] theorem exec_vaultBurstDone (slot : BitVec 4) (die : BitVec 6) (cell : BitVec 11) (num : Xword) (pass : Sending) (single : BitVec 8) (syndrome : BitVec 8) (double : BitVec 1) (s : State) : exec (.vaultBurstDone slot die cell num pass single syndrome double) s = execVaultBurstDone slot die cell num pass single syndrome double s := rfl
@[simp] theorem exec_streamArrival (slot : BitVec 4) (die : BitVec 6) (cell : BitVec 11) (num : Xword) (s : State) : exec (.streamArrival slot die cell num) s = execStreamArrival slot die cell num s := rfl
@[simp] theorem exec_streamResend (slot : BitVec 4) (die : BitVec 6) (cell : BitVec 11) (num : Xword) (s : State) : exec (.streamResend slot die cell num) s = execStreamResend slot die cell num s := rfl
@[simp] theorem exec_streamAck (slot : BitVec 4) (die : BitVec 6) (cell : BitVec 11) (num : Xword) (s : State) : exec (.streamAck slot die cell num) s = execStreamAck slot die cell num s := rfl
@[simp] theorem exec_engineCommandComplete (slot : BitVec 4) (die : BitVec 6) (cell : BitVec 11) (tl : BitVec 2) (num : Xword) (s : State) : exec (.engineCommandComplete slot die cell tl num) s = execEngineCommandComplete slot die cell tl num s := rfl
@[simp] theorem exec_syncWaitComplete (slot : BitVec 4) (die : BitVec 6) (s : State) : exec (.syncWaitComplete slot die) s = execSyncWaitComplete slot die s := rfl
@[simp] theorem exec_dscataApply (slot : BitVec 4) (bsn : Xword) (s : State) : exec (.dscataApply slot bsn) s = execDscataApply slot bsn s := rfl
@[simp] theorem exec_tileVerdict (slot : BitVec 4) (die : BitVec 6) (cell : BitVec 11) (s : State) : exec (.tileVerdict slot die cell) s = execTileVerdict slot die cell s := rfl
@[simp] theorem exec_replay (slot : BitVec 4) (die : BitVec 6) (cell : BitVec 11) (s : State) : exec (.replay slot die cell) s = execReplay slot die cell s := rfl
@[simp] theorem exec_replayOrder (slot : BitVec 4) (held : Xword) (s : State) : exec (.replayOrder slot held) s = execReplayOrder slot held s := rfl
@[simp] theorem exec_twinFetchDone (slot : BitVec 4) (die : BitVec 6) (cell : BitVec 11) (s : State) : exec (.twinFetchDone slot die cell) s = execTwinFetchDone slot die cell s := rfl
@[simp] theorem exec_tileRetire (slot : BitVec 4) (die : BitVec 6) (cell : BitVec 11) (s : State) : exec (.tileRetire slot die cell) s = execTileRetire slot die cell s := rfl
@[simp] theorem exec_deadDrainDone (slot : BitVec 4) (s : State) : exec (.deadDrainDone slot) s = execDeadDrainDone slot s := rfl
@[simp] theorem exec_watchdog (slot : BitVec 4) (s : State) : exec (.watchdog slot) s = execWatchdog slot s := rfl
@[simp] theorem exec_contextEnd (slot : BitVec 4) (s : State) : exec (.contextEnd slot) s = execContextEnd slot s := rfl
@[simp] theorem exec_treeResult (slot : BitVec 4) (s : State) : exec (.treeResult slot) s = execTreeResult slot s := rfl
@[simp] theorem exec_sequencerAccessComplete (slot : BitVec 4) (s : State) : exec (.sequencerAccessComplete slot) s = execSequencerAccessComplete slot s := rfl
@[simp] theorem exec_emergencyRefresh (die : BitVec 6) (cell : BitVec 11) (row : BitVec 12) (held : Xword) (s : State) : exec (.emergencyRefresh die cell row held) s = execEmergencyRefresh die cell row held s := rfl
@[simp] theorem exec_powerOn (s : State) : exec .powerOn s = execPowerOn s := rfl
@[simp] theorem exec_powerRegionBringup (pr : BitVec 4) (s : State) : exec (.powerRegionBringup pr) s = execPowerRegionBringup pr s := rfl
@[simp] theorem exec_perst (s : State) : exec .perst s = execPerst s := rfl
@[simp] theorem exec_functionLevelReset (s : State) : exec .functionLevelReset s = execFunctionLevelReset s := rfl
@[simp] theorem exec_recoveryPin (s : State) : exec .recoveryPin s = execRecoveryPin s := rfl
@[simp] theorem exec_warm (s : State) : exec .warm s = execWarm s := rfl
@[simp] theorem exec_cold (s : State) : exec .cold s = execCold s := rfl
@[simp] theorem exec_resetHostTimeout (s : State) : exec .resetHostTimeout s = execResetHostTimeout s := rfl
@[simp] theorem exec_resetComplete (s : State) : exec .resetComplete s = execResetComplete s := rfl
@[simp] theorem exec_tempSample (col : BitVec 6) (temp : BitVec 8) (s : State) : exec (.tempSample col temp) s = execTempSample col temp s := rfl
@[simp] theorem exec_thermalTrip (col : BitVec 6) (s : State) : exec (.thermalTrip col) s = execThermalTrip col s := rfl
@[simp] theorem exec_plimThrottle (watts : BitVec 16) (s : State) : exec (.plimThrottle watts) s = execPlimThrottle watts s := rfl
@[simp] theorem exec_d3hotEntry (s : State) : exec .d3hotEntry s = execD3hotEntry s := rfl
@[simp] theorem exec_hostRequestError (slot : BitVec 4) (die : BitVec 6) (cell : BitVec 11) (addr : Xword) (s : State) : exec (.hostRequestError slot die cell addr) s = execHostRequestError slot die cell addr s := rfl
@[simp] theorem exec_linkTrainingDone (link : BitVec 4) (lanes : BitVec 8) (s : State) : exec (.linkTrainingDone link lanes) s = execLinkTrainingDone link lanes s := rfl
@[simp] theorem exec_linkLoss (link : BitVec 4) (s : State) : exec (.linkLoss link) s = execLinkLoss link s := rfl
@[simp] theorem exec_retrain (link : BitVec 4) (s : State) : exec (.retrain link) s = execRetrain link s := rfl
@[simp] theorem exec_linkEnable (link : BitVec 4) (on : BitVec 1) (s : State) : exec (.linkEnable link on) s = execLinkEnable link on s := rfl
@[simp] theorem exec_replayBufferDrained (link : BitVec 4) (s : State) : exec (.replayBufferDrained link) s = execReplayBufferDrained link s := rfl
@[simp] theorem exec_podcfgWrite (value : Xword) (s : State) : exec (.podcfgWrite value) s = execPodcfgWrite value s := rfl
@[simp] theorem exec_flitCrcFail (link : BitVec 4) (s : State) : exec (.flitCrcFail link) s = execFlitCrcFail link s := rfl
@[simp] theorem exec_flitArrival (dest : BitVec 6) (src : BitVec 6) (hops : BitVec 4) (body : Received) (s : State) : exec (.flitArrival dest src hops body) s = execFlitArrival dest src hops body s := rfl
@[simp] theorem exec_podAccessTimeout (s : State) : exec .podAccessTimeout s = execPodAccessTimeout s := rfl
@[simp] theorem exec_status (s : State) : exec .status s = execStatus s := rfl
@[simp] theorem exec_enroll (hash : BitVec 256) (minver : BitVec 16) (s : State) : exec (.enroll hash minver) s = execEnroll hash minver s := rfl
@[simp] theorem exec_strip (nonce : BitVec 256) (s : State) : exec (.strip nonce) s = execStrip nonce s := rfl
@[simp] theorem exec_recover (s : State) : exec .recover s = execRecover s := rfl
@[simp] theorem exec_readrec (s : State) : exec .readrec s = execReadrec s := rfl
@[simp] theorem exec_quote (nonce : BitVec 256) (s : State) : exec (.quote nonce) s = execQuote nonce s := rfl
@[simp] theorem exec_readid (s : State) : exec .readid s = execReadid s := rfl
@[simp] theorem exec_baseupd (image : List Byte) (s : State) : exec (.baseupd image) s = execBaseupd image s := rfl
@[simp] theorem exec_fwctlGo (s : State) : exec .fwctlGo s = execFwctlGo s := rfl
@[simp] theorem exec_keycmdLoad (s : State) : exec .keycmdLoad s = execKeycmdLoad s := rfl
@[simp] theorem exec_keycmdZero (s : State) : exec .keycmdZero s = execKeycmdZero s := rfl
@[simp] theorem exec_qctlGo (s : State) : exec .qctlGo s = execQctlGo s := rfl
@[simp] theorem exec_quoteDone (s : State) : exec .quoteDone s = execQuoteDone s := rfl
@[simp] theorem exec_doorbell (queue : BitVec 6) (tail : BitVec 32) (s : State) : exec (.doorbell queue tail) s = execDoorbell queue tail s := rfl
@[simp] theorem exec_hcopyFault (queue : BitVec 6) (index : BitVec 32) (bytes : BitVec 32) (s : State) : exec (.hcopyFault queue index bytes) s = execHcopyFault queue index bytes s := rfl
@[simp] theorem exec_recordWriteFail (queue : BitVec 6) (s : State) : exec (.recordWriteFail queue) s = execRecordWriteFail queue s := rfl
@[simp] theorem exec_enable (queue : BitVec 6) (s : State) : exec (.enable queue) s = execEnable queue s := rfl
@[simp] theorem exec_destroy (queue : BitVec 6) (s : State) : exec (.destroy queue) s = execDestroy queue s := rfl
@[simp] theorem exec_retry (queue : BitVec 6) (s : State) : exec (.retry queue) s = execRetry queue s := rfl
@[simp] theorem exec_skip (queue : BitVec 6) (s : State) : exec (.skip queue) s = execSkip queue s := rfl
@[simp] theorem exec_sigobjWrite (obj : BitVec 8) (value : Xword) (s : State) : exec (.sigobjWrite obj value) s = execSigobjWrite obj value s := rfl
@[simp] theorem exec_schedulerDecision (s : State) : exec .schedulerDecision s = execSchedulerDecision s := rfl
@[simp] theorem exec_kill (slot : BitVec 4) (s : State) : exec (.kill slot) s = execKill slot s := rfl
@[simp] theorem exec_droopReport (die : BitVec 6) (level : BitVec 3) (s : State) : exec (.droopReport die level) s = execDroopReport die level s := rfl
@[simp] theorem exec_tripHoldExpiry (die : BitVec 6) (again : BitVec 1) (s : State) : exec (.tripHoldExpiry die again) s = execTripHoldExpiry die again s := rfl
@[simp] theorem exec_regionThrottle (region : BitVec 4) (on : BitVec 1) (cycles : Xword) (s : State) : exec (.regionThrottle region on cycles) s = execRegionThrottle region on cycles s := rfl
@[simp] theorem exec_handleStagingWrite (handle : BitVec 12) (word : BitVec 2) (lanes : BitVec 8) (value : Xword) (s : State) : exec (.handleStagingWrite handle word lanes value) s = execHandleStagingWrite handle word lanes value s := rfl
@[simp] theorem exec_handleCommit (handle : BitVec 12) (lanes : BitVec 8) (value : Xword) (s : State) : exec (.handleCommit handle lanes value) s = execHandleCommit handle lanes value s := rfl
@[simp] theorem exec_rgo (s : State) : exec .rgo s = execRgo s := rfl
@[simp] theorem exec_ptrootWrite (value : Xword) (s : State) : exec (.ptrootWrite value) s = execPtrootWrite value s := rfl
@[simp] theorem exec_tinvctlGo (all : BitVec 1) (s : State) : exec (.tinvctlGo all) s = execTinvctlGo all s := rfl
@[simp] theorem exec_invalidationDone (s : State) : exec .invalidationDone s = execInvalidationDone s := rfl
@[simp] theorem exec_lanetestDone (slot : BitVec 4) (die : BitVec 6) (cell : BitVec 11) (num : Xword) (found : BitVec 1) (group : BitVec 1) (lane : BitVec 5) (s : State) : exec (.lanetestDone slot die cell num found group lane) s = execLanetestDone slot die cell num found group lane s := rfl
@[simp] theorem exec_selfRefresh (die : BitVec 6) (s : State) : exec (.selfRefresh die) s = execSelfRefresh die s := rfl
@[simp] theorem exec_dpermDeadline (slot : BitVec 4) (held : Xword) (s : State) : exec (.dpermDeadline slot held) s = execDpermDeadline slot held s := rfl
@[simp] theorem exec_tqserviceRetry (park : BitVec 12) (s : State) : exec (.tqserviceRetry park) s = execTqserviceRetry park s := rfl
@[simp] theorem exec_tqserviceKill (park : BitVec 12) (s : State) : exec (.tqserviceKill park) s = execTqserviceKill park s := rfl
@[simp] theorem exec_tqHeadWrite (head : BitVec 32) (s : State) : exec (.tqHeadWrite head) s = execTqHeadWrite head s := rfl
@[simp] theorem exec_trapRecordWriteFail (s : State) : exec .trapRecordWriteFail s = execTrapRecordWriteFail s := rfl
@[simp] theorem exec_resume (s : State) : exec .resume s = execResume s := rfl
@[simp] theorem exec_tqEnable (on : BitVec 1) (s : State) : exec (.tqEnable on) s = execTqEnable on s := rfl
@[simp] theorem exec_contextDead (slot : BitVec 4) (cause : DeathReport) (s : State) : exec (.contextDead slot cause) s = execContextDead slot cause s := rfl
@[simp] theorem exec_trig (s : State) : exec .trig s = execTrig s := rfl
@[simp] theorem exec_arm (s : State) : exec .arm s = execArm s := rfl
@[simp] theorem exec_registerWrite (offset : BitVec 25) (value : HostWord) (s : State) : exec (.registerWrite offset value) s = execRegisterWrite offset value s := rfl
@[simp] theorem exec_d0Entry (s : State) : exec .d0Entry s = execD0Entry s := rfl
@[simp] theorem exec_vectorUnmask (vector : BitVec 7) (s : State) : exec (.vectorUnmask vector) s = execVectorUnmask vector s := rfl
@[simp] theorem exec_peerIdentity (link : BitVec 4) (valid : BitVec 1) (devnum : BitVec 6) (peer : BitVec 4) (s : State) : exec (.peerIdentity link valid devnum peer) s = execPeerIdentity link valid devnum peer s := rfl
@[simp] theorem exec_i3cNak (code : BitVec 8) (s : State) : exec (.i3cNak code) s = execI3cNak code s := rfl
@[simp] theorem exec_fwLoadDone (fail : BitVec 1) (s : State) : exec (.fwLoadDone fail) s = execFwLoadDone fail s := rfl
@[simp] theorem exec_relocationComplete (s : State) : exec .relocationComplete s = execRelocationComplete s := rfl
@[simp] theorem exec_step (s : State) : exec .step s = execStep s := rfl
@[simp] theorem exec_fenceS (s : State) : exec .fenceS s = execFenceS s := rfl
@[simp] theorem exec_eret (s : State) : exec .eret s = execEret s := rfl
@[simp] theorem exec_podbar (s : State) : exec .podbar s = execPodbar s := rfl
@[simp] theorem exec_velse (s : State) : exec .velse s = execVelse s := rfl
@[simp] theorem exec_vpopact (s : State) : exec .vpopact s = execVpopact s := rfl
@[simp] theorem exec_yyield (s : State) : exec .yyield s = execYyield s := rfl
@[simp] theorem exec_ybar (s : State) : exec .ybar s = execYbar s := rfl

end Sys2Proof.Machine
end

