-- ==== Sys2Proof/Laws/Mem.lean ====
section
/-!
SUPPORT. The laws of byte memories: a read after a write, the canonical form, and runs of bytes.
-/
namespace Sys2Proof.Machine
open Sys2Proof

@[simp] theorem Mem.get_nil (k : Nat) : Mem.get [] k = unlisted := rfl
theorem Mem.get_cons (a : Nat) (v : Byte) (r : Mem) (k : Nat) :
    Mem.get ((a, v) :: r) k = if k = a then v else Mem.get r k := rfl
@[simp] theorem Mem.wf_nil : Mem.wf [] = true := rfl

/-- What the canonical form says of a memory that lists something. -/
theorem Mem.wf_cons {a : Nat} {v : Byte} {r : Mem} :
    Mem.wf ((a, v) :: r) = true ↔ v ≠ unlisted ∧ (∀ b w t, r = (b, w) :: t → a < b) ∧ Mem.wf r = true := by
  cases r with
  | nil => simp [Mem.wf]
  | cons p t =>
    obtain ⟨b, w⟩ := p
    simp only [Mem.wf, Bool.and_eq_true, bne_iff_ne, decide_eq_true_eq, and_assoc]
    constructor
    · rintro ⟨h, l, r⟩
      refine ⟨h, ?_, r⟩
      intro b' w' t' e
      cases e
      exact l
    · rintro ⟨h, l, r⟩
      exact ⟨h, l b w t rfl, r⟩

/-- A memory in its form lists nothing below its first address. -/
theorem Mem.get_below {m : Mem} (h : Mem.wf m = true) {k : Nat} (hk : ∀ a v r, m = (a, v) :: r → k < a) :
    m.get k = unlisted := by
  induction m with
  | nil => rfl
  | cons p t ih =>
    obtain ⟨a, v⟩ := p
    have ha := hk a v t rfl
    obtain ⟨-, hl, ht⟩ := Mem.wf_cons.mp h
    rw [Mem.get_cons, if_neg (by omega)]
    exact ih ht fun b w t' e => Nat.lt_trans ha (hl b w t' e)

/-- A bound below every address of a memory in its form stays one under a write above it. -/
theorem Mem.set_above {m : Mem} (h : Mem.wf m = true) {l k : Nat} {v : Byte} (hm : ∀ a w r, m = (a, w) :: r → l < a)
    (hk : l < k) : ∀ a w r, m.set k v = (a, w) :: r → l < a := by
  intro a w r e
  cases m with
  | nil =>
    simp only [Mem.set] at e
    split at e <;> cases e
    exact hk
  | cons p t =>
    obtain ⟨b, u⟩ := p
    have hb := hm b u t rfl
    simp only [Mem.set] at e
    split at e
    · split at e <;> cases e
      · exact hb
      · exact hk
    · split at e
      · split at e
        · exact Nat.lt_trans hb ((Mem.wf_cons.mp h).2.1 a w r e)
        · cases e; exact hk
      · cases e; exact hb

/-- A write keeps the canonical form. -/
theorem Mem.set_wf {m : Mem} (h : Mem.wf m = true) (k : Nat) (v : Byte) : Mem.wf (m.set k v) = true := by
  induction m with
  | nil =>
    simp only [Mem.set]
    split
    · rfl
    · exact Mem.wf_cons.mpr ⟨‹_›, nofun, rfl⟩
  | cons p t ih =>
    obtain ⟨a, u⟩ := p
    obtain ⟨hu, hl, ht⟩ := Mem.wf_cons.mp h
    simp only [Mem.set]
    split
    · rename_i hk
      split
      · exact h
      · refine Mem.wf_cons.mpr ⟨‹_›, ?_, h⟩
        intro b w r e
        cases e
        exact hk
    · split
      · rename_i hk
        subst hk
        split
        · exact ht
        · exact Mem.wf_cons.mpr ⟨‹_›, hl, ht⟩
      · exact Mem.wf_cons.mpr ⟨hu, Mem.set_above ht hl (by omega), ih ht⟩

/-- A read after a write: the written address holds the value, every other what it held. -/
theorem Mem.get_set {m : Mem} (h : Mem.wf m = true) (k : Nat) (v : Byte) (j : Nat) :
    (m.set k v).get j = if j = k then v else m.get j := by
  induction m with
  | nil =>
    simp only [Mem.set]
    split
    · rename_i e; subst e; simp
    · simp [Mem.get_cons]
  | cons p t ih =>
    obtain ⟨a, u⟩ := p
    obtain ⟨hu, hl, ht⟩ := Mem.wf_cons.mp h
    simp only [Mem.set]
    split
    · rename_i hk
      split
      · rename_i e
        subst e
        split
        · rename_i e; subst e
          exact Mem.get_below h (fun b w r e => by cases e; exact hk)
        · rfl
      · rw [Mem.get_cons]
    · split
      · rename_i hk
        subst hk
        split
        · rename_i e; subst e
          by_cases hj : j = k
          · subst hj; simp only [if_pos]; exact Mem.get_below ht hl
          · simp [Mem.get_cons, hj]
        · by_cases hj : j = k <;> simp [Mem.get_cons, hj]
      · rename_i hk hne
        rw [Mem.get_cons, ih ht, Mem.get_cons]
        by_cases hj : j = a
        · subst hj; rw [if_pos rfl, if_neg (fun e => hne (e.symm)), if_pos rfl]
        · rw [if_neg hj, if_neg hj]

/-- Two memories in their form that read the same everywhere are equal. -/
theorem Mem.ext_of_get {m n : Mem} (hm : Mem.wf m = true) (hn : Mem.wf n = true) (h : ∀ k, m.get k = n.get k) : m = n := by
  induction m generalizing n with
  | nil =>
    cases n with
    | nil => rfl
    | cons p t =>
      obtain ⟨a, v⟩ := p
      have := h a
      simp [Mem.get_cons] at this
      exact absurd this.symm (Mem.wf_cons.mp hn).1
  | cons p t ih =>
    obtain ⟨a, v⟩ := p
    obtain ⟨hv, hl, ht⟩ := Mem.wf_cons.mp hm
    cases n with
    | nil =>
      have := h a
      simp [Mem.get_cons] at this
      exact absurd this hv
    | cons q r =>
      obtain ⟨b, w⟩ := q
      obtain ⟨hw, hl', hr⟩ := Mem.wf_cons.mp hn
      have hab : a = b := by
        rcases Nat.lt_trichotomy a b with l | e | l
        · have := h a
          rw [Mem.get_cons, if_pos rfl, Mem.get_below hn (fun x y z e => by cases e; exact l)] at this
          exact absurd this hv
        · exact e
        · have := h b
          rw [Mem.get_below hm (fun x y z e => by cases e; exact l), Mem.get_cons, if_pos rfl] at this
          exact absurd this.symm hw
      subst hab
      have hvw : v = w := by simpa [Mem.get_cons] using h a
      subst hvw
      congr 1
      refine ih ht hr fun k => ?_
      by_cases e : k = a
      · subst e; rw [Mem.get_below ht hl, Mem.get_below hr hl']
      · simpa [Mem.get_cons, e] using h k

/-- A run of bytes written keeps the canonical form. -/
theorem Mem.putBytes_wf {m : Mem} (h : Mem.wf m = true) (a : Nat) (b : List Byte) : Mem.wf (m.putBytes a b) = true := by
  induction b generalizing m a with
  | nil => exact h
  | cons x r ih => exact ih (Mem.set_wf h a x) (a + 1)

theorem Mem.write_wf {m : Mem} (h : Mem.wf m = true) (a n x : Nat) : Mem.wf (m.write a n x) = true := Mem.putBytes_wf h a _

/-- A byte after a run is written: the run's where it covers the address, else what it was. -/
theorem Mem.get_putBytes {m : Mem} (h : Mem.wf m = true) (a : Nat) (b : List Byte) (k : Nat) :
    (m.putBytes a b).get k = if a ≤ k ∧ k < a + b.length then (b[k - a]?).getD 0 else m.get k := by
  induction b generalizing m a with
  | nil => rw [if_neg (by simp only [List.length_nil]; omega)]; rfl
  | cons x r ih =>
    show ((m.set a x).putBytes (a + 1) r).get k = _
    rw [ih (Mem.set_wf h a x) (a + 1), Mem.get_set h]
    simp only [List.length_cons]
    by_cases h1 : k = a
    · subst h1
      rw [if_neg (by omega), if_pos rfl, if_pos (by omega)]
      simp
    · by_cases h2 : a + 1 ≤ k ∧ k < a + 1 + r.length
      · rw [if_pos h2, if_pos (by omega), show k - a = (k - (a + 1)) + 1 by omega]
        simp
      · rw [if_neg h2, if_neg h1, if_neg (by omega)]

/-- Outside a run nothing changes. -/
theorem Mem.get_putBytes_outside {m : Mem} (h : Mem.wf m = true) {a k : Nat} {b : List Byte}
    (hk : k < a ∨ a + b.length ≤ k) : (m.putBytes a b).get k = m.get k := by
  rw [Mem.get_putBytes h, if_neg (by omega)]

@[simp] theorem bytesOf_length (n x : Nat) : (bytesOf n x).length = n := by
  induction n generalizing x with
  | zero => rfl
  | succ k ih => simp [bytesOf, ih]

theorem bytesOf_getElem? (n x i : Nat) (h : i < n) : (bytesOf n x)[i]? = some (BitVec.ofNat 8 (x / 256 ^ i)) := by
  induction n generalizing x i with
  | zero => omega
  | succ k ih =>
    cases i with
    | zero => simp [bytesOf]
    | succ j =>
      simp only [bytesOf, List.getElem?_cons_succ]
      rw [ih _ _ (by omega), Nat.div_div_eq_div_mul, Nat.pow_succ, Nat.mul_comm]

/-- The bytes of a number give it back, modulo their size. -/
theorem ofBytes_bytesOf (n x : Nat) : ofBytes (bytesOf n x) = x % 256 ^ n := by
  induction n generalizing x with
  | zero => simp [bytesOf, ofBytes, Nat.mod_one]
  | succ k ih =>
    simp only [bytesOf, ofBytes, ih, BitVec.toNat_ofNat]
    show x % 256 + 256 * (x / 256 % 256 ^ k) = x % 256 ^ (k + 1)
    rw [Nat.pow_succ, Nat.mul_comm (256 ^ k) 256, Nat.mod_mul]

@[simp] theorem Mem.bytes_length (m : Mem) (a n : Nat) : (m.bytes a n).length = n := by simp [Mem.bytes]
theorem Mem.bytes_getElem? (m : Mem) (a n i : Nat) (h : i < n) : (m.bytes a n)[i]? = some (m.get (a + i)) := by
  simp [Mem.bytes, h]

/-- What has been written is read back. -/
theorem Mem.bytes_putBytes {m : Mem} (h : Mem.wf m = true) (a : Nat) (b : List Byte) :
    (m.putBytes a b).bytes a b.length = b := by
  refine List.ext_getElem? fun i => ?_
  by_cases hi : i < b.length
  · rw [Mem.bytes_getElem? _ _ _ _ hi, Mem.get_putBytes h, if_pos (by omega)]
    simp [List.getElem?_eq_getElem hi]
  · rw [List.getElem?_eq_none (by simpa using hi), List.getElem?_eq_none (by simpa using hi)]

theorem Mem.read_write {m : Mem} (h : Mem.wf m = true) (a n x : Nat) : (m.write a n x).read a n = x % 256 ^ n := by
  have e := Mem.bytes_putBytes h a (bytesOf n x)
  rw [bytesOf_length] at e
  rw [Mem.read, Mem.write, e, ofBytes_bytesOf]

end Sys2Proof.Machine
end

