-- ==== Sys2Proof/Laws/PerInstr.lean ====
section
/-!
SUPPORT. The family Encoding: for each instruction, decoding its encoded words gives it back.
-/
namespace Sys2Proof.Laws
open Sys2Proof

set_option Elab.async false

/-- Decoding the words of an instruction within its limits gives it back, with its extension or second word. -/
def Encoding.Statement (i : Instr) : Prop := ComesBack i

theorem Encoding.add (d : BitVec 5) (a : BitVec 5) (b : BitVec 5) : Encoding.Statement (.add d a b) :=
  slot_reads rfl nofun (by decide) (decodeS.eq_1 _ _) (by simp [Full])
theorem Encoding.sub (d : BitVec 5) (a : BitVec 5) (b : BitVec 5) : Encoding.Statement (.sub d a b) :=
  slot_reads rfl nofun (by decide) (decodeS.eq_2 _ _) (by simp [Full])
theorem Encoding.mul (d : BitVec 5) (a : BitVec 5) (b : BitVec 5) : Encoding.Statement (.mul d a b) :=
  slot_reads rfl nofun (by decide) (decodeS.eq_3 _ _) (by simp [Full])
theorem Encoding.mulh (d : BitVec 5) (a : BitVec 5) (b : BitVec 5) : Encoding.Statement (.mulh d a b) :=
  slot_reads rfl nofun (by decide) (decodeS.eq_4 _ _) (by simp [Full])
theorem Encoding.mulhu (d : BitVec 5) (a : BitVec 5) (b : BitVec 5) : Encoding.Statement (.mulhu d a b) :=
  slot_reads rfl nofun (by decide) (decodeS.eq_5 _ _) (by simp [Full])
theorem Encoding.div (d : BitVec 5) (a : BitVec 5) (b : BitVec 5) : Encoding.Statement (.div d a b) :=
  slot_reads rfl nofun (by decide) (decodeS.eq_6 _ _) (by simp [Full])
theorem Encoding.divu (d : BitVec 5) (a : BitVec 5) (b : BitVec 5) : Encoding.Statement (.divu d a b) :=
  slot_reads rfl nofun (by decide) (decodeS.eq_7 _ _) (by simp [Full])
theorem Encoding.rem (d : BitVec 5) (a : BitVec 5) (b : BitVec 5) : Encoding.Statement (.rem d a b) :=
  slot_reads rfl nofun (by decide) (decodeS.eq_8 _ _) (by simp [Full])
theorem Encoding.remu (d : BitVec 5) (a : BitVec 5) (b : BitVec 5) : Encoding.Statement (.remu d a b) :=
  slot_reads rfl nofun (by decide) (decodeS.eq_9 _ _) (by simp [Full])
theorem Encoding.and (d : BitVec 5) (a : BitVec 5) (b : BitVec 5) : Encoding.Statement (.and d a b) :=
  slot_reads rfl nofun (by decide) (decodeS.eq_10 _ _) (by simp [Full])
theorem Encoding.or (d : BitVec 5) (a : BitVec 5) (b : BitVec 5) : Encoding.Statement (.or d a b) :=
  slot_reads rfl nofun (by decide) (decodeS.eq_11 _ _) (by simp [Full])
theorem Encoding.xor (d : BitVec 5) (a : BitVec 5) (b : BitVec 5) : Encoding.Statement (.xor d a b) :=
  slot_reads rfl nofun (by decide) (decodeS.eq_12 _ _) (by simp [Full])
theorem Encoding.shl (d : BitVec 5) (a : BitVec 5) (b : BitVec 5) : Encoding.Statement (.shl d a b) :=
  slot_reads rfl nofun (by decide) (decodeS.eq_13 _ _) (by simp [Full])
theorem Encoding.shr (d : BitVec 5) (a : BitVec 5) (b : BitVec 5) : Encoding.Statement (.shr d a b) :=
  slot_reads rfl nofun (by decide) (decodeS.eq_14 _ _) (by simp [Full])
theorem Encoding.sra (d : BitVec 5) (a : BitVec 5) (b : BitVec 5) : Encoding.Statement (.sra d a b) :=
  slot_reads rfl nofun (by decide) (decodeS.eq_15 _ _) (by simp [Full])
theorem Encoding.slt (d : BitVec 5) (a : BitVec 5) (b : BitVec 5) : Encoding.Statement (.slt d a b) :=
  slot_reads rfl nofun (by decide) (decodeS.eq_16 _ _) (by simp [Full])
theorem Encoding.sltu (d : BitVec 5) (a : BitVec 5) (b : BitVec 5) : Encoding.Statement (.sltu d a b) :=
  slot_reads rfl nofun (by decide) (decodeS.eq_17 _ _) (by simp [Full])
theorem Encoding.min (d : BitVec 5) (a : BitVec 5) (b : BitVec 5) : Encoding.Statement (.min d a b) :=
  slot_reads rfl nofun (by decide) (decodeS.eq_18 _ _) (by simp [Full])
theorem Encoding.max (d : BitVec 5) (a : BitVec 5) (b : BitVec 5) : Encoding.Statement (.max d a b) :=
  slot_reads rfl nofun (by decide) (decodeS.eq_19 _ _) (by simp [Full])
theorem Encoding.clz (d : BitVec 5) (a : BitVec 5) : Encoding.Statement (.clz d a) :=
  slot_reads rfl nofun (by decide) (decodeS.eq_20 _ _) (by simp [Full])
theorem Encoding.popc (d : BitVec 5) (a : BitVec 5) : Encoding.Statement (.popc d a) :=
  slot_reads rfl nofun (by decide) (decodeS.eq_21 _ _) (by simp [Full])
theorem Encoding.addi (d : BitVec 5) (a : BitVec 5) (i : BitVec 14) (x : Option Word) : Encoding.Statement (.addi d a i x) :=
  slot_reads rfl nofun (by decide) (decodeS.eq_22 _ _) (by simp [Full])
theorem Encoding.andi (d : BitVec 5) (a : BitVec 5) (i : BitVec 14) (x : Option Word) : Encoding.Statement (.andi d a i x) :=
  slot_reads rfl nofun (by decide) (decodeS.eq_23 _ _) (by simp [Full])
theorem Encoding.ori (d : BitVec 5) (a : BitVec 5) (i : BitVec 14) (x : Option Word) : Encoding.Statement (.ori d a i x) :=
  slot_reads rfl nofun (by decide) (decodeS.eq_24 _ _) (by simp [Full])
theorem Encoding.xori (d : BitVec 5) (a : BitVec 5) (i : BitVec 14) (x : Option Word) : Encoding.Statement (.xori d a i x) :=
  slot_reads rfl nofun (by decide) (decodeS.eq_25 _ _) (by simp [Full])
theorem Encoding.shli (d : BitVec 5) (a : BitVec 5) (n : BitVec 6) : Encoding.Statement (.shli d a n) :=
  slot_reads rfl nofun (by decide) (decodeS.eq_26 _ _) (by simp [Full])
theorem Encoding.shri (d : BitVec 5) (a : BitVec 5) (n : BitVec 6) : Encoding.Statement (.shri d a n) :=
  slot_reads rfl nofun (by decide) (decodeS.eq_27 _ _) (by simp [Full])
theorem Encoding.srai (d : BitVec 5) (a : BitVec 5) (n : BitVec 6) : Encoding.Statement (.srai d a n) :=
  slot_reads rfl nofun (by decide) (decodeS.eq_28 _ _) (by simp [Full])
theorem Encoding.slti (d : BitVec 5) (a : BitVec 5) (i : BitVec 14) (x : Option Word) : Encoding.Statement (.slti d a i x) :=
  slot_reads rfl nofun (by decide) (decodeS.eq_29 _ _) (by simp [Full])
theorem Encoding.lih (d : BitVec 5) (a : BitVec 5) (i : BitVec 14) (x : Option Word) : Encoding.Statement (.lih d a i x) :=
  slot_reads rfl nofun (by decide) (decodeS.eq_30 _ _) (by simp [Full])
theorem Encoding.ld (d : BitVec 5) (a : BitVec 5) (z : BitVec 2) (x : Option Word) : Encoding.Statement (.ld d a z x) :=
  slot_reads rfl nofun (by decide) (decodeS.eq_31 _ _) (by simp [Full])
theorem Encoding.ldu (d : BitVec 5) (a : BitVec 5) (z : BitVec 2) (x : Option Word) : Encoding.Statement (.ldu d a z x) :=
  slot_reads rfl nofun (by decide) (decodeS.eq_32 _ _) (by simp [Full])
theorem Encoding.st (a : BitVec 5) (b : BitVec 5) (z : BitVec 2) (x : Option Word) : Encoding.Statement (.st a b z x) :=
  slot_reads rfl nofun (by decide) (decodeS.eq_33 _ _) (by simp [Full])
theorem Encoding.samo (d : BitVec 5) (a : BitVec 5) (b : BitVec 5) (u : BitVec 1) (o : BitVec 4) (z : BitVec 2) (x : Option Word) : Encoding.Statement (.samo d a b u o z x) :=
  slot_reads rfl nofun (by decide) (decodeS.eq_34 _ _) (by simp [Full])
theorem Encoding.beq (a : BitVec 5) (b : BitVec 5) (o : BitVec 14) (x : Option Word) : Encoding.Statement (.beq a b o x) :=
  slot_reads rfl nofun (by decide) (decodeS.eq_35 _ _) (by simp [Full])
theorem Encoding.bne (a : BitVec 5) (b : BitVec 5) (o : BitVec 14) (x : Option Word) : Encoding.Statement (.bne a b o x) :=
  slot_reads rfl nofun (by decide) (decodeS.eq_36 _ _) (by simp [Full])
theorem Encoding.blt (a : BitVec 5) (b : BitVec 5) (o : BitVec 14) (x : Option Word) : Encoding.Statement (.blt a b o x) :=
  slot_reads rfl nofun (by decide) (decodeS.eq_37 _ _) (by simp [Full])
theorem Encoding.bge (a : BitVec 5) (b : BitVec 5) (o : BitVec 14) (x : Option Word) : Encoding.Statement (.bge a b o x) :=
  slot_reads rfl nofun (by decide) (decodeS.eq_38 _ _) (by simp [Full])
theorem Encoding.bltu (a : BitVec 5) (b : BitVec 5) (o : BitVec 14) (x : Option Word) : Encoding.Statement (.bltu a b o x) :=
  slot_reads rfl nofun (by decide) (decodeS.eq_39 _ _) (by simp [Full])
theorem Encoding.bgeu (a : BitVec 5) (b : BitVec 5) (o : BitVec 14) (x : Option Word) : Encoding.Statement (.bgeu a b o x) :=
  slot_reads rfl nofun (by decide) (decodeS.eq_40 _ _) (by simp [Full])
theorem Encoding.j (o : BitVec 19) (x : Option Word) : Encoding.Statement (.j o x) :=
  slot_reads rfl nofun (by decide) (decodeS.eq_41 _ _) (by simp [Full])
theorem Encoding.jal (d : BitVec 5) (o : BitVec 19) (x : Option Word) : Encoding.Statement (.jal d o x) :=
  slot_reads rfl nofun (by decide) (decodeS.eq_42 _ _) (by simp [Full])
theorem Encoding.jalr (d : BitVec 5) (a : BitVec 5) (i : BitVec 14) (x : Option Word) : Encoding.Statement (.jalr d a i x) :=
  slot_reads rfl nofun (by decide) (decodeS.eq_43 _ _) (by simp [Full])
theorem Encoding.grd (d : BitVec 5) (k : BitVec 3) : Encoding.Statement (.grd d k) :=
  slot_reads rfl nofun (by decide) (decodeS.eq_44 _ _) (by simp [Full])
theorem Encoding.kset (k : BitVec 2) (a : BitVec 5) (x : Option Word) : Encoding.Statement (.kset k a x) :=
  slot_reads rfl nofun (by decide) (decodeS.eq_45 _ _) (by simp [Full])
theorem Encoding.diec (d : BitVec 5) : Encoding.Statement (.diec d) :=
  slot_reads rfl nofun (by decide) (decodeS.eq_46 _ _) (by simp [Full])
theorem Encoding.spawn (d : BitVec 5) (a : BitVec 5) (e : BitVec 1) (jo : BitVec 6) : Encoding.Statement (.spawn d a e jo) :=
  slot_reads rfl nofun (by decide) (decodeS.eq_48 _ _) (by simp [Full])
theorem Encoding.tlrd (d : BitVec 5) (k : BitVec 2) (i : BitVec 1) : Encoding.Statement (.tlrd d k i) :=
  slot_reads rfl nofun (by decide) (decodeS.eq_49 _ _) (by simp [Full])
theorem Encoding.srr (d : BitVec 5) (n : BitVec 9) : Encoding.Statement (.srr d n) :=
  slot_reads rfl nofun (by decide) (decodeS.eq_50 _ _) (by simp [Full])
theorem Encoding.srw (a : BitVec 5) (n : BitVec 9) : Encoding.Statement (.srw a n) :=
  slot_reads rfl nofun (by decide) (decodeS.eq_51 _ _) (by simp [Full])
theorem Encoding.binit (a : BitVec 5) (jo : BitVec 6) : Encoding.Statement (.binit a jo) :=
  slot_reads rfl nofun (by decide) (decodeS.eq_52 _ _) (by simp [Full])
theorem Encoding.barr (jo : BitVec 6) : Encoding.Statement (.barr jo) :=
  slot_reads rfl nofun (by decide) (decodeS.eq_53 _ _) (by simp [Full])
theorem Encoding.bard (jo : BitVec 6) : Encoding.Statement (.bard jo) :=
  slot_reads rfl nofun (by decide) (decodeS.eq_54 _ _) (by simp [Full])
theorem Encoding.bwait (d : BitVec 5) (jo : BitVec 6) : Encoding.Statement (.bwait d jo) :=
  slot_reads rfl nofun (by decide) (decodeS.eq_55 _ _) (by simp [Full])
theorem Encoding.binv (jo : BitVec 6) : Encoding.Statement (.binv jo) :=
  slot_reads rfl nofun (by decide) (decodeS.eq_56 _ _) (by simp [Full])
theorem Encoding.trap (c : BitVec 14) (x : Option Word) : Encoding.Statement (.trap c x) :=
  slot_reads rfl nofun (by decide) (decodeS.eq_58 _ _) (by simp [Full])
theorem Encoding.halt (a : BitVec 5) : Encoding.Statement (.halt a) :=
  slot_reads rfl nofun (by decide) (decodeS.eq_60 _ _) (by simp [Full])
theorem Encoding.hostsig (a : BitVec 5) (o : BitVec 1) (g : BitVec 8) : Encoding.Statement (.hostsig a o g) :=
  slot_reads rfl nofun (by decide) (decodeS.eq_61 _ _) (by simp [Full])
theorem Encoding.podred (d : BitVec 5) (a : BitVec 5) (o : BitVec 4) : Encoding.Statement (.podred d a o) :=
  slot_reads rfl nofun (by decide) (decodeS.eq_63 _ _) (by simp [Full])
theorem Encoding.vadd (t : BitVec 4) (d : BitVec 5) (a : BitVec 5) (b : BitVec 5) (m : BitVec 3) (x : Option Word) : Encoding.Statement (.vadd t d a b m x) :=
  slot_reads rfl nofun (by decide) (decodeV.eq_1 _ _) (by simp [Full])
theorem Encoding.vsub (t : BitVec 4) (d : BitVec 5) (a : BitVec 5) (b : BitVec 5) (m : BitVec 3) (x : Option Word) : Encoding.Statement (.vsub t d a b m x) :=
  slot_reads rfl nofun (by decide) (decodeV.eq_2 _ _) (by simp [Full])
theorem Encoding.vmul (t : BitVec 4) (d : BitVec 5) (a : BitVec 5) (b : BitVec 5) (m : BitVec 3) (x : Option Word) : Encoding.Statement (.vmul t d a b m x) :=
  slot_reads rfl nofun (by decide) (decodeV.eq_3 _ _) (by simp [Full])
theorem Encoding.vmulh (t : BitVec 4) (d : BitVec 5) (a : BitVec 5) (b : BitVec 5) (m : BitVec 3) (x : Option Word) : Encoding.Statement (.vmulh t d a b m x) :=
  slot_reads rfl nofun (by decide) (decodeV.eq_4 _ _) (by simp [Full])
theorem Encoding.vmad (t : BitVec 4) (d : BitVec 5) (a : BitVec 5) (b : BitVec 5) (m : BitVec 3) (c : BitVec 5) : Encoding.Statement (.vmad t d a b m c) :=
  slot_reads rfl nofun (by decide) (decodeV.eq_5 _ _) (by simp [Full])
theorem Encoding.vabs (t : BitVec 2) (d : BitVec 5) (a : BitVec 5) (m : BitVec 3) : Encoding.Statement (.vabs t d a m) :=
  slot_reads rfl nofun (by decide) (decodeV.eq_6 _ _) (by simp [Full])
theorem Encoding.vneg (t : BitVec 4) (d : BitVec 5) (a : BitVec 5) (m : BitVec 3) : Encoding.Statement (.vneg t d a m) :=
  slot_reads rfl nofun (by decide) (decodeV.eq_7 _ _) (by simp [Full])
theorem Encoding.vmin (t : BitVec 4) (d : BitVec 5) (a : BitVec 5) (b : BitVec 5) (m : BitVec 3) (x : Option Word) : Encoding.Statement (.vmin t d a b m x) :=
  slot_reads rfl nofun (by decide) (decodeV.eq_8 _ _) (by simp [Full])
theorem Encoding.vmax (t : BitVec 4) (d : BitVec 5) (a : BitVec 5) (b : BitVec 5) (m : BitVec 3) (x : Option Word) : Encoding.Statement (.vmax t d a b m x) :=
  slot_reads rfl nofun (by decide) (decodeV.eq_9 _ _) (by simp [Full])
theorem Encoding.vsadd (t : BitVec 4) (d : BitVec 5) (a : BitVec 5) (b : BitVec 5) (m : BitVec 3) (x : Option Word) : Encoding.Statement (.vsadd t d a b m x) :=
  slot_reads rfl nofun (by decide) (decodeV.eq_10 _ _) (by simp [Full])
theorem Encoding.vssub (t : BitVec 4) (d : BitVec 5) (a : BitVec 5) (b : BitVec 5) (m : BitVec 3) (x : Option Word) : Encoding.Statement (.vssub t d a b m x) :=
  slot_reads rfl nofun (by decide) (decodeV.eq_11 _ _) (by simp [Full])
theorem Encoding.vabd (t : BitVec 4) (d : BitVec 5) (a : BitVec 5) (b : BitVec 5) (m : BitVec 3) (x : Option Word) : Encoding.Statement (.vabd t d a b m x) :=
  slot_reads rfl nofun (by decide) (decodeV.eq_12 _ _) (by simp [Full])
theorem Encoding.vshl (t : BitVec 4) (d : BitVec 5) (a : BitVec 5) (b : BitVec 5) (m : BitVec 3) (x : Option Word) : Encoding.Statement (.vshl t d a b m x) :=
  slot_reads rfl nofun (by decide) (decodeV.eq_13 _ _) (by simp [Full])
theorem Encoding.vshr (t : BitVec 4) (d : BitVec 5) (a : BitVec 5) (b : BitVec 5) (m : BitVec 3) (x : Option Word) : Encoding.Statement (.vshr t d a b m x) :=
  slot_reads rfl nofun (by decide) (decodeV.eq_14 _ _) (by simp [Full])
theorem Encoding.vsra (t : BitVec 4) (d : BitVec 5) (a : BitVec 5) (b : BitVec 5) (m : BitVec 3) (x : Option Word) : Encoding.Statement (.vsra t d a b m x) :=
  slot_reads rfl nofun (by decide) (decodeV.eq_15 _ _) (by simp [Full])
theorem Encoding.vand (t : BitVec 4) (d : BitVec 5) (a : BitVec 5) (b : BitVec 5) (m : BitVec 3) (x : Option Word) : Encoding.Statement (.vand t d a b m x) :=
  slot_reads rfl nofun (by decide) (decodeV.eq_16 _ _) (by simp [Full])
theorem Encoding.vor (t : BitVec 4) (d : BitVec 5) (a : BitVec 5) (b : BitVec 5) (m : BitVec 3) (x : Option Word) : Encoding.Statement (.vor t d a b m x) :=
  slot_reads rfl nofun (by decide) (decodeV.eq_17 _ _) (by simp [Full])
theorem Encoding.vxor (t : BitVec 4) (d : BitVec 5) (a : BitVec 5) (b : BitVec 5) (m : BitVec 3) (x : Option Word) : Encoding.Statement (.vxor t d a b m x) :=
  slot_reads rfl nofun (by decide) (decodeV.eq_18 _ _) (by simp [Full])
theorem Encoding.vnot (t : BitVec 4) (d : BitVec 5) (a : BitVec 5) (m : BitVec 3) : Encoding.Statement (.vnot t d a m) :=
  slot_reads rfl nofun (by decide) (decodeV.eq_19 _ _) (by simp [Full])
theorem Encoding.vsel (t : BitVec 4) (d : BitVec 5) (a : BitVec 5) (b : BitVec 5) (m : BitVec 3) : Encoding.Statement (.vsel t d a b m) :=
  slot_reads rfl nofun (by decide) (decodeV.eq_20 _ _) (by simp [Full])
theorem Encoding.vclz (t : BitVec 4) (d : BitVec 5) (a : BitVec 5) (m : BitVec 3) : Encoding.Statement (.vclz t d a m) :=
  slot_reads rfl nofun (by decide) (decodeV.eq_21 _ _) (by simp [Full])
theorem Encoding.vpopc (t : BitVec 4) (d : BitVec 5) (a : BitVec 5) (m : BitVec 3) : Encoding.Statement (.vpopc t d a m) :=
  slot_reads rfl nofun (by decide) (decodeV.eq_22 _ _) (by simp [Full])
theorem Encoding.vcmp (t : BitVec 4) (d : BitVec 3) (a : BitVec 5) (b : BitVec 5) (m : BitVec 3) (c : BitVec 2) (x : Option Word) : Encoding.Statement (.vcmp t d a b m c x) :=
  slot_reads rfl nofun (by decide) (decodeV.eq_23 _ _) (by simp [Full])
theorem Encoding.vtest (t : BitVec 4) (d : BitVec 2) (a : BitVec 5) (m : BitVec 3) (f : BitVec 1) : Encoding.Statement (.vtest t d a m f) :=
  slot_reads rfl nofun (by decide) (decodeV.eq_24 _ _) (by simp [Full])
theorem Encoding.vmand (d : BitVec 3) (a : BitVec 3) (b : BitVec 3) : Encoding.Statement (.vmand d a b) :=
  slot_reads rfl nofun (by decide) (decodeV.eq_25 _ _) (by simp [Full])
theorem Encoding.vmor (d : BitVec 3) (a : BitVec 3) (b : BitVec 3) : Encoding.Statement (.vmor d a b) :=
  slot_reads rfl nofun (by decide) (decodeV.eq_26 _ _) (by simp [Full])
theorem Encoding.vmxor (d : BitVec 3) (a : BitVec 3) (b : BitVec 3) : Encoding.Statement (.vmxor d a b) :=
  slot_reads rfl nofun (by decide) (decodeV.eq_27 _ _) (by simp [Full])
theorem Encoding.vmnot (d : BitVec 3) (a : BitVec 3) : Encoding.Statement (.vmnot d a) :=
  slot_reads rfl nofun (by decide) (decodeV.eq_28 _ _) (by simp [Full])
theorem Encoding.vmpopc (d : BitVec 4) (a : BitVec 3) (m : BitVec 3) : Encoding.Statement (.vmpopc d a m) :=
  slot_reads rfl nofun (by decide) (decodeV.eq_29 _ _) (by simp [Full])
theorem Encoding.vmov (t : BitVec 4) (d : BitVec 5) (a : BitVec 5) (m : BitVec 3) : Encoding.Statement (.vmov t d a m) :=
  slot_reads rfl nofun (by decide) (decodeV.eq_30 _ _) (by simp [Full])
theorem Encoding.vmovi (t : BitVec 4) (d : BitVec 5) (m : BitVec 3) (i : BitVec 32) : Encoding.Statement (.vmovi t d m i) :=
  slot_reads rfl nofun (by decide) (decodeV.eq_31 _ _) (by simp [Full])
theorem Encoding.vbroad (t : BitVec 4) (d : BitVec 5) (a : BitVec 4) (m : BitVec 3) (f : BitVec 1) : Encoding.Statement (.vbroad t d a m f) :=
  slot_reads rfl nofun (by decide) (decodeV.eq_32 _ _) (by simp [Full])
theorem Encoding.vshuf (t : BitVec 4) (d : BitVec 5) (a : BitVec 5) (b : BitVec 5) (m : BitVec 3) : Encoding.Statement (.vshuf t d a b m) :=
  slot_reads rfl nofun (by decide) (decodeV.eq_33 _ _) (by simp [Full])
theorem Encoding.vrotl (t : BitVec 4) (d : BitVec 5) (a : BitVec 5) (b : BitVec 4) (m : BitVec 3) (x : Option Word) : Encoding.Statement (.vrotl t d a b m x) :=
  slot_reads rfl nofun (by decide) (decodeV.eq_34 _ _) (by simp [Full])
theorem Encoding.vext (t : BitVec 4) (d : BitVec 4) (a : BitVec 5) (b : BitVec 4) (h : BitVec 1) (x : Option Word) : Encoding.Statement (.vext t d a b h x) :=
  slot_reads rfl nofun (by decide) (decodeV.eq_35 _ _) (by simp [Full])
theorem Encoding.vins (t : BitVec 4) (d : BitVec 5) (a : BitVec 4) (b : BitVec 4) (h : BitVec 1) (x : Option Word) : Encoding.Statement (.vins t d a b h x) :=
  slot_reads rfl nofun (by decide) (decodeV.eq_36 _ _) (by simp [Full])
theorem Encoding.viota (t : BitVec 4) (d : BitVec 5) (a : BitVec 4) (m : BitVec 3) : Encoding.Statement (.viota t d a m) :=
  slot_reads rfl nofun (by decide) (decodeV.eq_37 _ _) (by simp [Full])
theorem Encoding.vcellid (t : BitVec 2) (d : BitVec 5) (m : BitVec 3) (f : BitVec 2) : Encoding.Statement (.vcellid t d m f) :=
  slot_reads rfl nofun (by decide) (decodeV.eq_38 _ _) (by simp [Full])
theorem Encoding.vrsum (t : BitVec 4) (d : BitVec 5) (a : BitVec 5) (m : BitVec 3) : Encoding.Statement (.vrsum t d a m) :=
  slot_reads rfl nofun (by decide) (decodeV.eq_64 _ _) (by simp [Full])
theorem Encoding.vrmax (t : BitVec 4) (d : BitVec 5) (a : BitVec 5) (m : BitVec 3) : Encoding.Statement (.vrmax t d a m) :=
  slot_reads rfl nofun (by decide) (decodeV.eq_65 _ _) (by simp [Full])
theorem Encoding.vrmin (t : BitVec 4) (d : BitVec 5) (a : BitVec 5) (m : BitVec 3) : Encoding.Statement (.vrmin t d a m) :=
  slot_reads rfl nofun (by decide) (decodeV.eq_66 _ _) (by simp [Full])
theorem Encoding.vhash (t : BitVec 1) (d : BitVec 5) (a : BitVec 5) (b : BitVec 5) (m : BitVec 3) : Encoding.Statement (.vhash t d a b m) :=
  slot_reads rfl nofun (by decide) (decodeV.eq_68 _ _) (by simp [Full])
theorem Encoding.vld (t : BitVec 4) (d : BitVec 5) (a : BitVec 4) (m : BitVec 3) (x : Option Word) : Encoding.Statement (.vld t d a m x) :=
  slot_reads rfl nofun (by decide) (decodeV.eq_69 _ _) (by simp [Full])
theorem Encoding.vst (t : BitVec 4) (d : BitVec 5) (a : BitVec 4) (m : BitVec 3) (x : Option Word) : Encoding.Statement (.vst t d a m x) :=
  slot_reads rfl nofun (by decide) (decodeV.eq_70 _ _) (by simp [Full])
theorem Encoding.vlds (t : BitVec 4) (d : BitVec 5) (a : BitVec 4) (b : BitVec 4) (m : BitVec 3) (x : Option Word) : Encoding.Statement (.vlds t d a b m x) :=
  slot_reads rfl nofun (by decide) (decodeV.eq_71 _ _) (by simp [Full])
theorem Encoding.vsts (t : BitVec 4) (d : BitVec 5) (a : BitVec 4) (b : BitVec 4) (m : BitVec 3) (x : Option Word) : Encoding.Statement (.vsts t d a b m x) :=
  slot_reads rfl nofun (by decide) (decodeV.eq_72 _ _) (by simp [Full])
theorem Encoding.vgath (t : BitVec 4) (d : BitVec 5) (a : BitVec 4) (b : BitVec 5) (m : BitVec 3) (c : BitVec 1) (x : Option Word) : Encoding.Statement (.vgath t d a b m c x) :=
  slot_reads rfl nofun (by decide) (decodeV.eq_73 _ _) (by simp [Full])
theorem Encoding.vscat (t : BitVec 4) (d : BitVec 5) (a : BitVec 4) (b : BitVec 5) (m : BitVec 3) (c : BitVec 1) (x : Option Word) : Encoding.Statement (.vscat t d a b m c x) :=
  slot_reads rfl nofun (by decide) (decodeV.eq_74 _ _) (by simp [Full])
theorem Encoding.vscata (t : BitVec 4) (d : BitVec 5) (a : BitVec 4) (b : BitVec 5) (m : BitVec 3) (c : BitVec 1) (x : Option Word) : Encoding.Statement (.vscata t d a b m c x) :=
  slot_reads rfl nofun (by decide) (decodeV.eq_75 _ _) (by simp [Full])
theorem Encoding.badd (d : BitVec 4) (a : BitVec 4) (b : BitVec 4) : Encoding.Statement (.badd d a b) :=
  slot_reads rfl nofun (by decide) (decodeV.eq_76 _ _) (by simp [Full])
theorem Encoding.bsub (d : BitVec 4) (a : BitVec 4) (b : BitVec 4) : Encoding.Statement (.bsub d a b) :=
  slot_reads rfl nofun (by decide) (decodeV.eq_78 _ _) (by simp [Full])
theorem Encoding.bmul (d : BitVec 4) (a : BitVec 4) (b : BitVec 4) : Encoding.Statement (.bmul d a b) :=
  slot_reads rfl nofun (by decide) (decodeV.eq_79 _ _) (by simp [Full])
theorem Encoding.bshl (d : BitVec 4) (a : BitVec 4) (b : BitVec 4) : Encoding.Statement (.bshl d a b) :=
  slot_reads rfl nofun (by decide) (decodeV.eq_80 _ _) (by simp [Full])
theorem Encoding.baddi (d : BitVec 4) (a : BitVec 4) (i : BitVec 32) : Encoding.Statement (.baddi d a i) :=
  slot_reads rfl nofun (by decide) (decodeV.eq_77 _ _) (by simp [Full])
theorem Encoding.bshr (d : BitVec 4) (a : BitVec 4) (b : BitVec 4) (f : BitVec 1) : Encoding.Statement (.bshr d a b f) :=
  slot_reads rfl nofun (by decide) (decodeV.eq_81 _ _) (by simp [Full])
theorem Encoding.band (d : BitVec 4) (a : BitVec 4) (b : BitVec 4) : Encoding.Statement (.band d a b) :=
  slot_reads rfl nofun (by decide) (decodeV.eq_82 _ _) (by simp [Full])
theorem Encoding.bor (d : BitVec 4) (a : BitVec 4) (b : BitVec 4) : Encoding.Statement (.bor d a b) :=
  slot_reads rfl nofun (by decide) (decodeV.eq_83 _ _) (by simp [Full])
theorem Encoding.bxor (d : BitVec 4) (a : BitVec 4) (b : BitVec 4) : Encoding.Statement (.bxor d a b) :=
  slot_reads rfl nofun (by decide) (decodeV.eq_84 _ _) (by simp [Full])
theorem Encoding.bmov (d : BitVec 4) (a : BitVec 4) : Encoding.Statement (.bmov d a) :=
  slot_reads rfl nofun (by decide) (decodeV.eq_85 _ _) (by simp [Full])
theorem Encoding.bli (d : BitVec 4) (i : BitVec 32) : Encoding.Statement (.bli d i) :=
  slot_reads rfl nofun (by decide) (decodeV.eq_86 _ _) (by simp [Full])
theorem Encoding.bcmp (d : BitVec 2) (a : BitVec 4) (b : BitVec 4) (c : BitVec 2) : Encoding.Statement (.bcmp d a b c) :=
  slot_reads rfl nofun (by decide) (decodeV.eq_87 _ _) (by simp [Full])
theorem Encoding.bld (d : BitVec 4) (a : BitVec 4) (x : Option Word) : Encoding.Statement (.bld d a x) :=
  slot_reads rfl nofun (by decide) (decodeV.eq_88 _ _) (by simp [Full])
theorem Encoding.bst (d : BitVec 4) (a : BitVec 4) (x : Option Word) : Encoding.Statement (.bst d a x) :=
  slot_reads rfl nofun (by decide) (decodeV.eq_89 _ _) (by simp [Full])
theorem Encoding.vpushact (k : BitVec 2) : Encoding.Statement (.vpushact k) :=
  slot_reads rfl nofun (by decide) (decodeV.eq_90 _ _) (by simp [Full])
theorem Encoding.vfadd (t : BitVec 4) (d : BitVec 5) (a : BitVec 5) (b : BitVec 5) (m : BitVec 3) (x : Option Word) : Encoding.Statement (.vfadd t d a b m x) :=
  slot_reads rfl nofun (by decide) (decodeV.eq_39 _ _) (by simp [Full])
theorem Encoding.vfsub (t : BitVec 4) (d : BitVec 5) (a : BitVec 5) (b : BitVec 5) (m : BitVec 3) (x : Option Word) : Encoding.Statement (.vfsub t d a b m x) :=
  slot_reads rfl nofun (by decide) (decodeV.eq_40 _ _) (by simp [Full])
theorem Encoding.vfmul (t : BitVec 4) (d : BitVec 5) (a : BitVec 5) (b : BitVec 5) (m : BitVec 3) (x : Option Word) : Encoding.Statement (.vfmul t d a b m x) :=
  slot_reads rfl nofun (by decide) (decodeV.eq_41 _ _) (by simp [Full])
theorem Encoding.vfma (t : BitVec 4) (d : BitVec 5) (a : BitVec 5) (b : BitVec 5) (m : BitVec 3) (c : BitVec 5) : Encoding.Statement (.vfma t d a b m c) :=
  slot_reads rfl nofun (by decide) (decodeV.eq_42 _ _) (by simp [Full])
theorem Encoding.vfms (t : BitVec 4) (d : BitVec 5) (a : BitVec 5) (b : BitVec 5) (m : BitVec 3) (c : BitVec 5) : Encoding.Statement (.vfms t d a b m c) :=
  slot_reads rfl nofun (by decide) (decodeV.eq_43 _ _) (by simp [Full])
theorem Encoding.vfnma (t : BitVec 4) (d : BitVec 5) (a : BitVec 5) (b : BitVec 5) (m : BitVec 3) (c : BitVec 5) : Encoding.Statement (.vfnma t d a b m c) :=
  slot_reads rfl nofun (by decide) (decodeV.eq_44 _ _) (by simp [Full])
theorem Encoding.vfmin (t : BitVec 4) (d : BitVec 5) (a : BitVec 5) (b : BitVec 5) (m : BitVec 3) (x : Option Word) : Encoding.Statement (.vfmin t d a b m x) :=
  slot_reads rfl nofun (by decide) (decodeV.eq_45 _ _) (by simp [Full])
theorem Encoding.vfmax (t : BitVec 4) (d : BitVec 5) (a : BitVec 5) (b : BitVec 5) (m : BitVec 3) (x : Option Word) : Encoding.Statement (.vfmax t d a b m x) :=
  slot_reads rfl nofun (by decide) (decodeV.eq_46 _ _) (by simp [Full])
theorem Encoding.vfabs (t : BitVec 4) (d : BitVec 5) (a : BitVec 5) (m : BitVec 3) : Encoding.Statement (.vfabs t d a m) :=
  slot_reads rfl nofun (by decide) (decodeV.eq_47 _ _) (by simp [Full])
theorem Encoding.vfneg (t : BitVec 4) (d : BitVec 5) (a : BitVec 5) (m : BitVec 3) : Encoding.Statement (.vfneg t d a m) :=
  slot_reads rfl nofun (by decide) (decodeV.eq_48 _ _) (by simp [Full])
theorem Encoding.vfdiv (t : BitVec 4) (d : BitVec 5) (a : BitVec 5) (b : BitVec 5) (m : BitVec 3) (x : Option Word) : Encoding.Statement (.vfdiv t d a b m x) :=
  slot_reads rfl nofun (by decide) (decodeV.eq_49 _ _) (by simp [Full])
theorem Encoding.vfsqrt (t : BitVec 4) (d : BitVec 5) (a : BitVec 5) (m : BitVec 3) : Encoding.Statement (.vfsqrt t d a m) :=
  slot_reads rfl nofun (by decide) (decodeV.eq_50 _ _) (by simp [Full])
theorem Encoding.vfrcp (t : BitVec 4) (d : BitVec 5) (a : BitVec 5) (m : BitVec 3) : Encoding.Statement (.vfrcp t d a m) :=
  slot_reads rfl nofun (by decide) (decodeV.eq_51 _ _) (by simp [Full])
theorem Encoding.vfrsq (t : BitVec 4) (d : BitVec 5) (a : BitVec 5) (m : BitVec 3) : Encoding.Statement (.vfrsq t d a m) :=
  slot_reads rfl nofun (by decide) (decodeV.eq_52 _ _) (by simp [Full])
theorem Encoding.vfexp2 (t : BitVec 4) (d : BitVec 5) (a : BitVec 5) (m : BitVec 3) : Encoding.Statement (.vfexp2 t d a m) :=
  slot_reads rfl nofun (by decide) (decodeV.eq_53 _ _) (by simp [Full])
theorem Encoding.vflog2 (t : BitVec 4) (d : BitVec 5) (a : BitVec 5) (m : BitVec 3) : Encoding.Statement (.vflog2 t d a m) :=
  slot_reads rfl nofun (by decide) (decodeV.eq_54 _ _) (by simp [Full])
theorem Encoding.vftanh (t : BitVec 4) (d : BitVec 5) (a : BitVec 5) (m : BitVec 3) : Encoding.Statement (.vftanh t d a m) :=
  slot_reads rfl nofun (by decide) (decodeV.eq_55 _ _) (by simp [Full])
theorem Encoding.vfclass (t : BitVec 4) (d : BitVec 5) (a : BitVec 5) (m : BitVec 3) : Encoding.Statement (.vfclass t d a m) :=
  slot_reads rfl nofun (by decide) (decodeV.eq_56 _ _) (by simp [Full])
theorem Encoding.vfcmp (t : BitVec 4) (d : BitVec 3) (a : BitVec 5) (b : BitVec 5) (m : BitVec 3) (c : BitVec 2) (x : Option Word) : Encoding.Statement (.vfcmp t d a b m c x) :=
  slot_reads rfl nofun (by decide) (decodeV.eq_57 _ _) (by simp [Full])
theorem Encoding.vcvt (t : BitVec 4) (d : BitVec 5) (a : BitVec 5) (m : BitVec 3) (y : BitVec 4) (s : BitVec 1) (r : BitVec 3) (p : BitVec 4) : Encoding.Statement (.vcvt t d a m y s r p) :=
  slot_reads rfl nofun (by decide) (decodeV.eq_58 _ _) (by simp [Full])
theorem Encoding.vpack (t : BitVec 4) (d : BitVec 5) (a : BitVec 5) (b : BitVec 5) (m : BitVec 3) (s : BitVec 1) : Encoding.Statement (.vpack t d a b m s) :=
  slot_reads rfl nofun (by decide) (decodeV.eq_59 _ _) (by simp [Full])
theorem Encoding.vunpack (t : BitVec 4) (d : BitVec 5) (a : BitVec 5) (m : BitVec 3) (h : BitVec 1) : Encoding.Statement (.vunpack t d a m h) :=
  slot_reads rfl nofun (by decide) (decodeV.eq_60 _ _) (by simp [Full])
theorem Encoding.vscale (t : BitVec 4) (d : BitVec 5) (a : BitVec 5) (b : BitVec 5) (m : BitVec 3) (x : Option Word) : Encoding.Statement (.vscale t d a b m x) :=
  slot_reads rfl nofun (by decide) (decodeV.eq_61 _ _) (by simp [Full])
theorem Encoding.vqenc (t : BitVec 4) (d : BitVec 5) (a : BitVec 5) (b : BitVec 4) (m : BitVec 3) (p : BitVec 3) : Encoding.Statement (.vqenc t d a b m p) :=
  slot_reads rfl nofun (by decide) (decodeV.eq_62 _ _) (by simp [Full])
theorem Encoding.vqdec (t : BitVec 4) (d : BitVec 5) (a : BitVec 5) (m : BitVec 3) (p : BitVec 3) : Encoding.Statement (.vqdec t d a m p) :=
  slot_reads rfl nofun (by decide) (decodeV.eq_63 _ _) (by simp [Full])
theorem Encoding.vfrsum (t : BitVec 4) (d : BitVec 5) (a : BitVec 5) (m : BitVec 3) : Encoding.Statement (.vfrsum t d a m) :=
  slot_reads rfl nofun (by decide) (decodeV.eq_67 _ _) (by simp [Full])
theorem Encoding.tmma (c : BitVec 3) (a : BitVec 3) (b : BitVec 3) (f : BitVec 2) (g : BitVec 2) (x : BitVec 1) (y : BitVec 1) : Encoding.Statement (.tmma c a b f g x y) :=
  slot_reads rfl nofun (by decide) (decodeM.eq_1 _ _) (by simp [Full])
theorem Encoding.tmma64 (c : BitVec 3) (a : BitVec 3) (b : BitVec 3) (x : BitVec 1) (y : BitVec 1) : Encoding.Statement (.tmma64 c a b x y) :=
  slot_reads rfl nofun (by decide) (decodeM.eq_2 _ _) (by simp [Full])
theorem Encoding.taccz (c : BitVec 3) : Encoding.Statement (.taccz c) :=
  slot_reads rfl nofun (by decide) (decodeM.eq_3 _ _) (by simp [Full])
theorem Encoding.taccld (c : BitVec 3) (a : BitVec 4) (f : BitVec 2) (r : BitVec 1) (x : Option Word) : Encoding.Statement (.taccld c a f r x) :=
  slot_reads rfl nofun (by decide) (decodeM.eq_4 _ _) (by simp [Full])
theorem Encoding.taccst (c : BitVec 3) (a : BitVec 4) (f : BitVec 2) (r : BitVec 1) (x : Option Word) : Encoding.Statement (.taccst c a f r x) :=
  slot_reads rfl nofun (by decide) (decodeM.eq_5 _ _) (by simp [Full])
theorem Encoding.taccret (c : BitVec 3) : Encoding.Statement (.taccret c) :=
  slot_reads rfl nofun (by decide) (decodeM.eq_6 _ _) (by simp [Full])
theorem Encoding.taccrd (c : BitVec 3) (d : BitVec 5) (p : BitVec 2) : Encoding.Statement (.taccrd c d p) :=
  slot_reads rfl nofun (by decide) (decodeM.eq_7 _ _) (by simp [Full])
theorem Encoding.taccwr (c : BitVec 3) (a : BitVec 5) (p : BitVec 2) : Encoding.Statement (.taccwr c a p) :=
  slot_reads rfl nofun (by decide) (decodeM.eq_8 _ _) (by simp [Full])
theorem Encoding.tcoat (c : BitVec 3) (d : BitVec 4) : Encoding.Statement (.tcoat c d) :=
  slot_reads rfl nofun (by decide) (decodeM.eq_9 _ _) (by simp [Full])
theorem Encoding.tmon (d : BitVec 4) (s : BitVec 2) (l : BitVec 1) : Encoding.Statement (.tmon d s l) :=
  slot_reads rfl nofun (by decide) (decodeM.eq_10 _ _) (by simp [Full])
theorem Encoding.qset (q : BitVec 3) (s : BitVec 1) (f : BitVec 4) (h : BitVec 1) (c : BitVec 8) (z : BitVec 4) (b : BitVec 17) : Encoding.Statement (.qset q s f h c z b) :=
  slot_reads rfl nofun (by decide) (decodeM.eq_11 _ _) (by simp [Full])
theorem Encoding.qcommit (q : BitVec 3) (n : BitVec 8) : Encoding.Statement (.qcommit q n) :=
  slot_reads rfl nofun (by decide) (decodeM.eq_12 _ _) (by simp [Full])
theorem Encoding.qpop (q : BitVec 3) (n : BitVec 8) : Encoding.Statement (.qpop q n) :=
  slot_reads rfl nofun (by decide) (decodeM.eq_13 _ _) (by simp [Full])
theorem Encoding.qstat (q : BitVec 3) (d : BitVec 4) (l : BitVec 1) : Encoding.Statement (.qstat q d l) :=
  slot_reads rfl nofun (by decide) (decodeM.eq_14 _ _) (by simp [Full])
theorem Encoding.qtwin (q : BitVec 3) (k : BitVec 4) (i : BitVec 8) : Encoding.Statement (.qtwin q k i) :=
  slot_reads rfl nofun (by decide) (decodeM.eq_15 _ _) (by simp [Full])
theorem Encoding.dcopy (l : BitVec 4) (d : BitVec 3) (s : BitVec 3) (e : BitVec 1) (jo : BitVec 6) (o : BitVec 4) : Encoding.Statement (.dcopy l d s e jo o) :=
  slot_reads rfl nofun (by decide) (decodeC.eq_1 _ _) (by simp [Full])
theorem Encoding.dshape (d : BitVec 3) (k : BitVec 4) (f : BitVec 4) (x : Option Word) : Encoding.Statement (.dshape d k f x) :=
  slot_reads rfl nofun (by decide) (decodeC.eq_2 _ _) (by simp [Full])
theorem Encoding.dgath (l : BitVec 4) (d : BitVec 5) (b : BitVec 4) (e : BitVec 1) (jo : BitVec 6) (c : BitVec 1) (w : BitVec 2) (f : BitVec 20) (n : BitVec 12) : Encoding.Statement (.dgath l d b e jo c w f n) :=
  slot_reads rfl nofun (by decide) ((decodeC.eq_3 _ _).trans (if_neg (mt (bit_fld _ 3).1 (by simp)))) (by simp [Full])
theorem Encoding.dgathSp (l : BitVec 4) (d : BitVec 3) (b : BitVec 4) (e : BitVec 1) (jo : BitVec 6) (w : BitVec 2) (x : Option Word) : Encoding.Statement (.dgathSp l d b e jo w x) :=
  slot_reads rfl nofun (by decide) ((decodeC.eq_3 _ _).trans (if_pos ((bit_fld _ 3).2 (by simp)))) (by simp [Full])
theorem Encoding.dscat (l : BitVec 4) (d : BitVec 5) (b : BitVec 4) (e : BitVec 1) (jo : BitVec 6) (c : BitVec 1) (w : BitVec 2) (x : Option Word) : Encoding.Statement (.dscat l d b e jo c w x) :=
  slot_reads rfl nofun (by decide) ((decodeC.eq_4 _ _).trans (if_neg (mt (bit_fld _ 3).1 (by simp)))) (by simp [Full])
theorem Encoding.dscatSp (l : BitVec 4) (d : BitVec 3) (b : BitVec 4) (e : BitVec 1) (jo : BitVec 6) (w : BitVec 2) (x : Option Word) : Encoding.Statement (.dscatSp l d b e jo w x) :=
  slot_reads rfl nofun (by decide) ((decodeC.eq_4 _ _).trans (if_pos ((bit_fld _ 3).2 (by simp)))) (by simp [Full])
theorem Encoding.dscata (l : BitVec 4) (d : BitVec 5) (b : BitVec 4) (e : BitVec 1) (jo : BitVec 6) (c : BitVec 1) (w : BitVec 2) (x : Option Word) : Encoding.Statement (.dscata l d b e jo c w x) :=
  slot_reads rfl nofun (by decide) ((decodeC.eq_5 _ _).trans (if_neg (mt (bit_fld _ 3).1 (by simp)))) (by simp [Full])
theorem Encoding.dscataSp (l : BitVec 4) (d : BitVec 3) (b : BitVec 4) (e : BitVec 1) (jo : BitVec 6) (w : BitVec 2) (x : Option Word) : Encoding.Statement (.dscataSp l d b e jo w x) :=
  slot_reads rfl nofun (by decide) ((decodeC.eq_5 _ _).trans (if_pos ((bit_fld _ 3).2 (by simp)))) (by simp [Full])
theorem Encoding.dst (l : BitVec 4) (d : BitVec 4) (b : BitVec 4) (e : BitVec 1) (jo : BitVec 6) (w : BitVec 1) (x : Option Word) : Encoding.Statement (.dst l d b e jo w x) :=
  slot_reads rfl nofun (by decide) (decodeC.eq_6 _ _) (by simp [Full])
theorem Encoding.dstv (l : BitVec 4) (d : BitVec 5) (b : BitVec 4) (e : BitVec 1) (jo : BitVec 6) (x : Option Word) : Encoding.Statement (.dstv l d b e jo x) :=
  slot_reads rfl nofun (by decide) (decodeC.eq_7 _ _) (by simp [Full])
theorem Encoding.dld (l : BitVec 4) (d : BitVec 5) (b : BitVec 4) (e : BitVec 1) (jo : BitVec 6) (f : BitVec 20) (n : BitVec 12) : Encoding.Statement (.dld l d b e jo f n) :=
  slot_reads rfl nofun (by decide) (decodeC.eq_8 _ _) (by simp [Full])
theorem Encoding.datom (l : BitVec 4) (w : BitVec 1) (d : BitVec 4) (b : BitVec 4) (e : BitVec 1) (jo : BitVec 6) (o : BitVec 4) (x : Option Word) : Encoding.Statement (.datom l w d b e jo o x) :=
  slot_of_decode (by decide) rfl (by decide) (by simp) fun wf => by
    have h : ¬(9 ≤ o.toNat ∧ o.toNat ≤ 12) := by simp [Instr.wellFormed] at wf; omega
    refine (decodeC.eq_9 _ _).trans ((if_neg ?_).trans (take_ok (hi := 24) (by simp) (by simp) (by simp) (by simp [Full]) (by simp) (by simp) wf))
    rwa [show fsum _ % 16 = _ from low_fld _ 4, show fld (fsum _) 0 4 = o by simp]
theorem Encoding.datomRet (l : BitVec 4) (w : BitVec 1) (d : BitVec 4) (b : BitVec 4) (e : BitVec 1) (jo : BitVec 6) (o : BitVec 4) (f : BitVec 20) (n : BitVec 12) : Encoding.Statement (.datomRet l w d b e jo o f n) :=
  slot_of_decode (by decide) rfl (by decide) (by simp) fun wf => by
    have h : 9 ≤ o.toNat ∧ o.toNat ≤ 12 := by simp [Instr.wellFormed, retOk] at wf; omega
    refine (decodeC.eq_9 _ _).trans ((if_pos ?_).trans (take_ok (hi := 24) (by simp) (by simp) (by simp) (by simp [Full]) (by simp) (by simp) wf))
    rwa [show fsum _ % 16 = _ from low_fld _ 4, show fld (fsum _) 0 4 = o by simp]
theorem Encoding.dperm (s : BitVec 5) (b : BitVec 4) (e : BitVec 1) (jo : BitVec 6) (x : Option Word) : Encoding.Statement (.dperm s b e jo x) :=
  slot_reads rfl nofun (by decide) (decodeC.eq_10 _ _) (by simp [Full])
theorem Encoding.dpermcfg (d : BitVec 4) (k : BitVec 4) (p : BitVec 4) (x : Option Word) : Encoding.Statement (.dpermcfg d k p x) :=
  slot_reads rfl nofun (by decide) (decodeC.eq_11 _ _) (by simp [Full])
theorem Encoding.dred (s : BitVec 5) (g : BitVec 3) (o : BitVec 4) : Encoding.Statement (.dred s g o) :=
  slot_reads rfl nofun (by decide) (decodeC.eq_12 _ _) (by simp [Full])
theorem Encoding.dvact (b : BitVec 4) (e : BitVec 1) (jo : BitVec 6) (x : Option Word) : Encoding.Statement (.dvact b e jo x) :=
  slot_reads rfl nofun (by decide) (decodeC.eq_13 _ _) (by simp [Full])
theorem Encoding.dvpre (b : BitVec 4) (e : BitVec 1) (jo : BitVec 6) (x : Option Word) : Encoding.Statement (.dvpre b e jo x) :=
  slot_reads rfl nofun (by decide) (decodeC.eq_14 _ _) (by simp [Full])
theorem Encoding.dvrd (d : BitVec 5) (b : BitVec 4) (e : BitVec 1) (jo : BitVec 6) (f : BitVec 20) (n : BitVec 12) : Encoding.Statement (.dvrd d b e jo f n) :=
  slot_reads rfl nofun (by decide) ((decodeC.eq_15 _ _).trans (if_neg (mt (bit_fld _ 3).1 (by simp)))) (by simp [Full])
theorem Encoding.dvrdSp (d : BitVec 4) (b : BitVec 4) (e : BitVec 1) (jo : BitVec 6) (n : BitVec 3) (x : Option Word) : Encoding.Statement (.dvrdSp d b e jo n x) :=
  slot_reads rfl nofun (by decide) ((decodeC.eq_15 _ _).trans (if_pos ((bit_fld _ 3).2 (by simp)))) (by simp [Full])
theorem Encoding.dvwr (d : BitVec 5) (b : BitVec 4) (e : BitVec 1) (jo : BitVec 6) (x : Option Word) : Encoding.Statement (.dvwr d b e jo x) :=
  slot_reads rfl nofun (by decide) ((decodeC.eq_16 _ _).trans (if_neg (mt (bit_fld _ 3).1 (by simp)))) (by simp [Full])
theorem Encoding.dvwrSp (d : BitVec 4) (b : BitVec 4) (e : BitVec 1) (jo : BitVec 6) (n : BitVec 3) (x : Option Word) : Encoding.Statement (.dvwrSp d b e jo n x) :=
  slot_reads rfl nofun (by decide) ((decodeC.eq_16 _ _).trans (if_pos ((bit_fld _ 3).2 (by simp)))) (by simp [Full])
theorem Encoding.dvref (b : BitVec 4) (e : BitVec 1) (jo : BitVec 6) (x : Option Word) : Encoding.Statement (.dvref b e jo x) :=
  slot_reads rfl nofun (by decide) (decodeC.eq_17 _ _) (by simp [Full])
theorem Encoding.dvlife (c : BitVec 4) (b : BitVec 4) (e : BitVec 1) (jo : BitVec 6) (m : BitVec 4) (x : Option Word) : Encoding.Statement (.dvlife c b e jo m x) :=
  slot_reads rfl nofun (by decide) (decodeC.eq_18 _ _) (by simp [Full])
theorem Encoding.dtlmark (d : BitVec 4) (k : BitVec 2) (i : BitVec 1) : Encoding.Statement (.dtlmark d k i) :=
  slot_reads rfl nofun (by decide) (decodeC.eq_19 _ _) (by simp [Full])
theorem Encoding.ywaitf (k : BitVec 4) (v : BitVec 15) : Encoding.Statement (.ywaitf k v) :=
  sync_reads rfl (by decide) ((decodeYop.eq_1 _ _).trans (if_neg (by simp))) (by simp [Full])
theorem Encoding.ywaitfExt (k : BitVec 4) (v : BitVec 16) : Encoding.Statement (.ywaitfExt k v) :=
  sync_reads rfl (by decide) ((decodeYop.eq_1 _ _).trans (if_pos (by simp))) (by simp [Full])
theorem Encoding.ypostf (k : BitVec 4) (n : BitVec 15) : Encoding.Statement (.ypostf k n) :=
  sync_reads rfl (by decide) (decodeYop.eq_2 _ _) (by simp [Full])
theorem Encoding.ywaitt (k : BitVec 2) (v : BitVec 32) : Encoding.Statement (.ywaitt k v) :=
  sync_reads rfl (by decide) ((decodeYop.eq_3 _ _).trans (if_neg (mt (bit_fld _ 16).1 (by simp)))) (by simp [Full])
theorem Encoding.ywaittB (k : BitVec 2) (jb : BitVec 4) : Encoding.Statement (.ywaittB k jb) :=
  sync_reads rfl (by decide) ((decodeYop.eq_3 _ _).trans (if_pos ((bit_fld _ 16).2 (by simp)))) (by simp [Full])
theorem Encoding.yfence (m : BitVec 16) : Encoding.Statement (.yfence m) :=
  sync_reads rfl (by decide) (decodeYop.eq_4 _ _) (by simp [Full])
theorem Encoding.ylock (m : BitVec 16) (n : BitVec 3) : Encoding.Statement (.ylock m n) :=
  sync_reads rfl (by decide) (decodeYop.eq_5 _ _) (by simp [Full])
theorem Encoding.ymark (c : BitVec 16) : Encoding.Statement (.ymark c) :=
  sync_reads rfl (by decide) (decodeYop.eq_8 _ _) (by simp [Full])
theorem Encoding.podAccessArrival (a : PodAccess) : Encoding.Statement (.podAccessArrival a) := none_reads rfl
theorem Encoding.podMessageArrival (msg : PodMsg) : Encoding.Statement (.podMessageArrival msg) := none_reads rfl
theorem Encoding.podRoundTimeout (slot : BitVec 4) : Encoding.Statement (.podRoundTimeout slot) := none_reads rfl
theorem Encoding.packetStage (queue : BitVec 6) (fail : BitVec 1) : Encoding.Statement (.packetStage queue fail) := none_reads rfl
theorem Encoding.launch (queue : BitVec 6) : Encoding.Statement (.launch queue) := none_reads rfl
theorem Encoding.wait (queue : BitVec 6) : Encoding.Statement (.wait queue) := none_reads rfl
theorem Encoding.waitTimeout (queue : BitVec 6) : Encoding.Statement (.waitTimeout queue) := none_reads rfl
theorem Encoding.signal (queue : BitVec 6) : Encoding.Statement (.signal queue) := none_reads rfl
theorem Encoding.hcopy (queue : BitVec 6) : Encoding.Statement (.hcopy queue) := none_reads rfl
theorem Encoding.hcopyComplete (queue : BitVec 6) (index : BitVec 32) : Encoding.Statement (.hcopyComplete queue index) := none_reads rfl
theorem Encoding.fence (queue : BitVec 6) : Encoding.Statement (.fence queue) := none_reads rfl
theorem Encoding.mark (queue : BitVec 6) : Encoding.Statement (.mark queue) := none_reads rfl
theorem Encoding.destroyDrainDone (queue : BitVec 6) : Encoding.Statement (.destroyDrainDone queue) := none_reads rfl
theorem Encoding.preemptLimitExpiry (slot : BitVec 4) : Encoding.Statement (.preemptLimitExpiry slot) := none_reads rfl
theorem Encoding.saveComplete (slot : BitVec 4) (fail : BitVec 1) : Encoding.Statement (.saveComplete slot fail) := none_reads rfl
theorem Encoding.restoreComplete (slot : BitVec 4) (fail : BitVec 1) : Encoding.Statement (.restoreComplete slot fail) := none_reads rfl
theorem Encoding.stepDecision (slot : BitVec 4) : Encoding.Statement (.stepDecision slot) := none_reads rfl
theorem Encoding.bundleFetch (slot : BitVec 4) (ahead : BitVec 3) : Encoding.Statement (.bundleFetch slot ahead) := none_reads rfl
theorem Encoding.bundleIssue (slot : BitVec 4) : Encoding.Statement (.bundleIssue slot) := none_reads rfl
theorem Encoding.bundleRetire (slot : BitVec 4) (die : BitVec 6) : Encoding.Statement (.bundleRetire slot die) := none_reads rfl
theorem Encoding.barrierRelease (slot : BitVec 4) : Encoding.Statement (.barrierRelease slot) := none_reads rfl
theorem Encoding.cellFault (slot : BitVec 4) (die : BitVec 6) : Encoding.Statement (.cellFault slot die) := none_reads rfl
theorem Encoding.freeze (slot : BitVec 4) : Encoding.Statement (.freeze slot) := none_reads rfl
theorem Encoding.freezeDrainDone (slot : BitVec 4) : Encoding.Statement (.freezeDrainDone slot) := none_reads rfl
theorem Encoding.landing (slot : BitVec 4) (die : BitVec 6) : Encoding.Statement (.landing slot die) := none_reads rfl
theorem Encoding.landingDataArrival (slot : BitVec 4) (die : BitVec 6) (held : Xword) : Encoding.Statement (.landingDataArrival slot die held) := none_reads rfl
theorem Encoding.staggerStart (slot : BitVec 4) (region : BitVec 4) : Encoding.Statement (.staggerStart slot region) := none_reads rfl
theorem Encoding.commitComplete (handle : BitVec 12) : Encoding.Statement (.commitComplete handle) := none_reads rfl
theorem Encoding.walkComplete (die : BitVec 6) (page : BitVec 45) : Encoding.Statement (.walkComplete die page) := none_reads rfl
theorem Encoding.vaultCommandStart (slot : BitVec 4) (die : BitVec 6) (cell : BitVec 11) (num : Xword) : Encoding.Statement (.vaultCommandStart slot die cell num) := none_reads rfl
theorem Encoding.vaultBurstDone (slot : BitVec 4) (die : BitVec 6) (cell : BitVec 11) (num : Xword) (pass : Sending) (single : BitVec 8) (syndrome : BitVec 8) (double : BitVec 1) : Encoding.Statement (.vaultBurstDone slot die cell num pass single syndrome double) := none_reads rfl
theorem Encoding.streamArrival (slot : BitVec 4) (die : BitVec 6) (cell : BitVec 11) (num : Xword) : Encoding.Statement (.streamArrival slot die cell num) := none_reads rfl
theorem Encoding.streamResend (slot : BitVec 4) (die : BitVec 6) (cell : BitVec 11) (num : Xword) : Encoding.Statement (.streamResend slot die cell num) := none_reads rfl
theorem Encoding.streamAck (slot : BitVec 4) (die : BitVec 6) (cell : BitVec 11) (num : Xword) : Encoding.Statement (.streamAck slot die cell num) := none_reads rfl
theorem Encoding.engineCommandComplete (slot : BitVec 4) (die : BitVec 6) (cell : BitVec 11) (tl : BitVec 2) (num : Xword) : Encoding.Statement (.engineCommandComplete slot die cell tl num) := none_reads rfl
theorem Encoding.syncWaitComplete (slot : BitVec 4) (die : BitVec 6) : Encoding.Statement (.syncWaitComplete slot die) := none_reads rfl
theorem Encoding.dscataApply (slot : BitVec 4) (bsn : Xword) : Encoding.Statement (.dscataApply slot bsn) := none_reads rfl
theorem Encoding.tileVerdict (slot : BitVec 4) (die : BitVec 6) (cell : BitVec 11) : Encoding.Statement (.tileVerdict slot die cell) := none_reads rfl
theorem Encoding.replay (slot : BitVec 4) (die : BitVec 6) (cell : BitVec 11) : Encoding.Statement (.replay slot die cell) := none_reads rfl
theorem Encoding.replayOrder (slot : BitVec 4) (held : Xword) : Encoding.Statement (.replayOrder slot held) := none_reads rfl
theorem Encoding.twinFetchDone (slot : BitVec 4) (die : BitVec 6) (cell : BitVec 11) : Encoding.Statement (.twinFetchDone slot die cell) := none_reads rfl
theorem Encoding.tileRetire (slot : BitVec 4) (die : BitVec 6) (cell : BitVec 11) : Encoding.Statement (.tileRetire slot die cell) := none_reads rfl
theorem Encoding.deadDrainDone (slot : BitVec 4) : Encoding.Statement (.deadDrainDone slot) := none_reads rfl
theorem Encoding.watchdog (slot : BitVec 4) : Encoding.Statement (.watchdog slot) := none_reads rfl
theorem Encoding.contextEnd (slot : BitVec 4) : Encoding.Statement (.contextEnd slot) := none_reads rfl
theorem Encoding.treeResult (slot : BitVec 4) : Encoding.Statement (.treeResult slot) := none_reads rfl
theorem Encoding.sequencerAccessComplete (slot : BitVec 4) : Encoding.Statement (.sequencerAccessComplete slot) := none_reads rfl
theorem Encoding.emergencyRefresh (die : BitVec 6) (cell : BitVec 11) (row : BitVec 12) (held : Xword) : Encoding.Statement (.emergencyRefresh die cell row held) := none_reads rfl
theorem Encoding.powerOn : Encoding.Statement (.powerOn) := none_reads rfl
theorem Encoding.powerRegionBringup (pr : BitVec 4) : Encoding.Statement (.powerRegionBringup pr) := none_reads rfl
theorem Encoding.perst : Encoding.Statement (.perst) := none_reads rfl
theorem Encoding.functionLevelReset : Encoding.Statement (.functionLevelReset) := none_reads rfl
theorem Encoding.recoveryPin : Encoding.Statement (.recoveryPin) := none_reads rfl
theorem Encoding.warm : Encoding.Statement (.warm) := none_reads rfl
theorem Encoding.cold : Encoding.Statement (.cold) := none_reads rfl
theorem Encoding.resetHostTimeout : Encoding.Statement (.resetHostTimeout) := none_reads rfl
theorem Encoding.resetComplete : Encoding.Statement (.resetComplete) := none_reads rfl
theorem Encoding.tempSample (col : BitVec 6) (temp : BitVec 8) : Encoding.Statement (.tempSample col temp) := none_reads rfl
theorem Encoding.thermalTrip (col : BitVec 6) : Encoding.Statement (.thermalTrip col) := none_reads rfl
theorem Encoding.plimThrottle (watts : BitVec 16) : Encoding.Statement (.plimThrottle watts) := none_reads rfl
theorem Encoding.d3hotEntry : Encoding.Statement (.d3hotEntry) := none_reads rfl
theorem Encoding.hostRequestError (slot : BitVec 4) (die : BitVec 6) (cell : BitVec 11) (addr : Xword) : Encoding.Statement (.hostRequestError slot die cell addr) := none_reads rfl
theorem Encoding.linkTrainingDone (link : BitVec 4) (lanes : BitVec 8) : Encoding.Statement (.linkTrainingDone link lanes) := none_reads rfl
theorem Encoding.linkLoss (link : BitVec 4) : Encoding.Statement (.linkLoss link) := none_reads rfl
theorem Encoding.retrain (link : BitVec 4) : Encoding.Statement (.retrain link) := none_reads rfl
theorem Encoding.linkEnable (link : BitVec 4) (on : BitVec 1) : Encoding.Statement (.linkEnable link on) := none_reads rfl
theorem Encoding.replayBufferDrained (link : BitVec 4) : Encoding.Statement (.replayBufferDrained link) := none_reads rfl
theorem Encoding.podcfgWrite (value : Xword) : Encoding.Statement (.podcfgWrite value) := none_reads rfl
theorem Encoding.flitCrcFail (link : BitVec 4) : Encoding.Statement (.flitCrcFail link) := none_reads rfl
theorem Encoding.flitArrival (dest : BitVec 6) (src : BitVec 6) (hops : BitVec 4) (body : Received) : Encoding.Statement (.flitArrival dest src hops body) := none_reads rfl
theorem Encoding.podAccessTimeout : Encoding.Statement (.podAccessTimeout) := none_reads rfl
theorem Encoding.status : Encoding.Statement (.status) := none_reads rfl
theorem Encoding.enroll (hash : BitVec 256) (minver : BitVec 16) : Encoding.Statement (.enroll hash minver) := none_reads rfl
theorem Encoding.strip (nonce : BitVec 256) : Encoding.Statement (.strip nonce) := none_reads rfl
theorem Encoding.recover : Encoding.Statement (.recover) := none_reads rfl
theorem Encoding.readrec : Encoding.Statement (.readrec) := none_reads rfl
theorem Encoding.quote (nonce : BitVec 256) : Encoding.Statement (.quote nonce) := none_reads rfl
theorem Encoding.readid : Encoding.Statement (.readid) := none_reads rfl
theorem Encoding.baseupd (image : List Byte) : Encoding.Statement (.baseupd image) := none_reads rfl
theorem Encoding.fwctlGo : Encoding.Statement (.fwctlGo) := none_reads rfl
theorem Encoding.keycmdLoad : Encoding.Statement (.keycmdLoad) := none_reads rfl
theorem Encoding.keycmdZero : Encoding.Statement (.keycmdZero) := none_reads rfl
theorem Encoding.qctlGo : Encoding.Statement (.qctlGo) := none_reads rfl
theorem Encoding.quoteDone : Encoding.Statement (.quoteDone) := none_reads rfl
theorem Encoding.doorbell (queue : BitVec 6) (tail : BitVec 32) : Encoding.Statement (.doorbell queue tail) := none_reads rfl
theorem Encoding.hcopyFault (queue : BitVec 6) (index : BitVec 32) (bytes : BitVec 32) : Encoding.Statement (.hcopyFault queue index bytes) := none_reads rfl
theorem Encoding.recordWriteFail (queue : BitVec 6) : Encoding.Statement (.recordWriteFail queue) := none_reads rfl
theorem Encoding.enable (queue : BitVec 6) : Encoding.Statement (.enable queue) := none_reads rfl
theorem Encoding.destroy (queue : BitVec 6) : Encoding.Statement (.destroy queue) := none_reads rfl
theorem Encoding.retry (queue : BitVec 6) : Encoding.Statement (.retry queue) := none_reads rfl
theorem Encoding.skip (queue : BitVec 6) : Encoding.Statement (.skip queue) := none_reads rfl
theorem Encoding.sigobjWrite (obj : BitVec 8) (value : Xword) : Encoding.Statement (.sigobjWrite obj value) := none_reads rfl
theorem Encoding.schedulerDecision : Encoding.Statement (.schedulerDecision) := none_reads rfl
theorem Encoding.kill (slot : BitVec 4) : Encoding.Statement (.kill slot) := none_reads rfl
theorem Encoding.droopReport (die : BitVec 6) (level : BitVec 3) : Encoding.Statement (.droopReport die level) := none_reads rfl
theorem Encoding.tripHoldExpiry (die : BitVec 6) (again : BitVec 1) : Encoding.Statement (.tripHoldExpiry die again) := none_reads rfl
theorem Encoding.regionThrottle (region : BitVec 4) (on : BitVec 1) (cycles : Xword) : Encoding.Statement (.regionThrottle region on cycles) := none_reads rfl
theorem Encoding.handleStagingWrite (handle : BitVec 12) (word : BitVec 2) (lanes : BitVec 8) (value : Xword) : Encoding.Statement (.handleStagingWrite handle word lanes value) := none_reads rfl
theorem Encoding.handleCommit (handle : BitVec 12) (lanes : BitVec 8) (value : Xword) : Encoding.Statement (.handleCommit handle lanes value) := none_reads rfl
theorem Encoding.rgo : Encoding.Statement (.rgo) := none_reads rfl
theorem Encoding.ptrootWrite (value : Xword) : Encoding.Statement (.ptrootWrite value) := none_reads rfl
theorem Encoding.tinvctlGo (all : BitVec 1) : Encoding.Statement (.tinvctlGo all) := none_reads rfl
theorem Encoding.invalidationDone : Encoding.Statement (.invalidationDone) := none_reads rfl
theorem Encoding.lanetestDone (slot : BitVec 4) (die : BitVec 6) (cell : BitVec 11) (num : Xword) (found : BitVec 1) (group : BitVec 1) (lane : BitVec 5) : Encoding.Statement (.lanetestDone slot die cell num found group lane) := none_reads rfl
theorem Encoding.selfRefresh (die : BitVec 6) : Encoding.Statement (.selfRefresh die) := none_reads rfl
theorem Encoding.dpermDeadline (slot : BitVec 4) (held : Xword) : Encoding.Statement (.dpermDeadline slot held) := none_reads rfl
theorem Encoding.tqserviceRetry (park : BitVec 12) : Encoding.Statement (.tqserviceRetry park) := none_reads rfl
theorem Encoding.tqserviceKill (park : BitVec 12) : Encoding.Statement (.tqserviceKill park) := none_reads rfl
theorem Encoding.tqHeadWrite (head : BitVec 32) : Encoding.Statement (.tqHeadWrite head) := none_reads rfl
theorem Encoding.trapRecordWriteFail : Encoding.Statement (.trapRecordWriteFail) := none_reads rfl
theorem Encoding.resume : Encoding.Statement (.resume) := none_reads rfl
theorem Encoding.tqEnable (on : BitVec 1) : Encoding.Statement (.tqEnable on) := none_reads rfl
theorem Encoding.contextDead (slot : BitVec 4) (cause : DeathReport) : Encoding.Statement (.contextDead slot cause) := none_reads rfl
theorem Encoding.trig : Encoding.Statement (.trig) := none_reads rfl
theorem Encoding.arm : Encoding.Statement (.arm) := none_reads rfl
theorem Encoding.registerWrite (offset : BitVec 25) (value : HostWord) : Encoding.Statement (.registerWrite offset value) := none_reads rfl
theorem Encoding.d0Entry : Encoding.Statement (.d0Entry) := none_reads rfl
theorem Encoding.vectorUnmask (vector : BitVec 7) : Encoding.Statement (.vectorUnmask vector) := none_reads rfl
theorem Encoding.peerIdentity (link : BitVec 4) (valid : BitVec 1) (devnum : BitVec 6) (peer : BitVec 4) : Encoding.Statement (.peerIdentity link valid devnum peer) := none_reads rfl
theorem Encoding.i3cNak (code : BitVec 8) : Encoding.Statement (.i3cNak code) := none_reads rfl
theorem Encoding.fwLoadDone (fail : BitVec 1) : Encoding.Statement (.fwLoadDone fail) := none_reads rfl
theorem Encoding.relocationComplete : Encoding.Statement (.relocationComplete) := none_reads rfl
theorem Encoding.step : Encoding.Statement (.step) :=
  slot_reads rfl nofun (by decide) (decodeS.eq_47 _ _) (by simp [Full])
theorem Encoding.fenceS : Encoding.Statement (.fenceS) :=
  slot_reads rfl nofun (by decide) (decodeS.eq_57 _ _) (by simp [Full])
theorem Encoding.eret : Encoding.Statement (.eret) :=
  slot_reads rfl nofun (by decide) (decodeS.eq_59 _ _) (by simp [Full])
theorem Encoding.podbar : Encoding.Statement (.podbar) :=
  slot_reads rfl nofun (by decide) (decodeS.eq_62 _ _) (by simp [Full])
theorem Encoding.velse : Encoding.Statement (.velse) :=
  slot_reads rfl nofun (by decide) (decodeV.eq_91 _ _) (by simp [Full])
theorem Encoding.vpopact : Encoding.Statement (.vpopact) :=
  slot_reads rfl nofun (by decide) (decodeV.eq_92 _ _) (by simp [Full])
theorem Encoding.yyield : Encoding.Statement (.yyield) :=
  sync_reads rfl (by decide) (decodeYop.eq_6 _ _) (by simp [Full])
theorem Encoding.ybar : Encoding.Statement (.ybar) :=
  sync_reads rfl (by decide) (decodeYop.eq_7 _ _) (by simp [Full])

end Sys2Proof.Laws
end

