-- ==== Sys2Proof/Laws/Seq.lean ====
section
/-!
SUPPORT. What the operations through which an S instruction acts can do; a bundle's parts; joins and retirement.
-/
namespace Sys2Proof.Machine
open Sys2Proof

theorem State.jump_eq {s : State} {f : Focus} (h : s.focus = some f) (a : Xword) :
    s.jump a = s.hand { f with nextAddr := a } := by
  simp only [State.jump, h, State.hand, Option.map_some]
theorem State.setSres_eq {s : State} {f : Focus} (h : s.focus = some f) (r : SRes) :
    s.setSres r = s.hand { f with sres := r } := by
  simp only [State.setSres, h, State.hand, Option.map_some]
theorem State.setAfter_eq {s : State} {f : Focus} (h : s.focus = some f) (a : After) :
    s.setAfter a = s.hand { f with after := a } := by
  simp only [State.setAfter, h, State.hand, Option.map_some]
theorem immS_eq {n : Nat} (i : BitVec n) (e : Option Word) :
    immS i e = (e.map fun (w : Word) => w.signExtend 64).getD (i.signExtend 64) := by
  cases e <;> rfl
theorem offS_eq (e : Option Word) : BitVec.ofInt 64 (offS e) = (e.map fun (w : Word) => w.signExtend 64).getD 0 := by
  cases e with
  | none => rfl
  | some e => simp [offS, BitVec.signExtend]

/-- With a bundle in hand an S operation goes on, waits or faults. -/
theorem onSeq_eq {s : State} {f : Focus} (hf : s.focus = some f) (g : Focus → State → SStep) :
    onSeq g s = .next (match g f s with | .go t => t | .wait => s.setSres .wait | .fault c d => s.setSres (.fault c d)) := by
  simp only [onSeq, hf] <;> rfl

/-- Once its sources are ready, an S operation runs. -/
theorem onSeqX_ready {s : State} {f : Focus} {srcs : List (BitVec 5)} (h : Ready s f srcs) (g : Focus → State → SStep) :
    onSeqX srcs g s =
      .next (match g f s with | .go t => t | .wait => s.setSres .wait | .fault c d => s.setSres (.fault c d)) := by
  have hs : srcs.any (s.slot f.slot).ctx.xWaits = false := by
    rw [List.any_eq_false]
    intro r hr
    simp [h.2 r hr]
  rw [onSeqX, onSeq_eq h.1]
  simp [hs]

/-- While a source is still to come, it waits (R287). -/
theorem onSeqX_waits {s : State} {f : Focus} {srcs : List (BitVec 5)} (hf : s.focus = some f) {r : BitVec 5}
    (hr : r ∈ srcs) (hw : (s.slot f.slot).ctx.xWaits r = true) (g : Focus → State → SStep) :
    onSeqX srcs g s = .next (s.setSres .wait) := by
  have hs : srcs.any (s.slot f.slot).ctx.xWaits = true := List.any_eq_true.mpr ⟨r, hr, hw⟩
  rw [onSeqX, onSeq_eq hf]
  simp [hs]

theorem Ctx.xWaits_setX_same (y : Ctx) (d : BitVec 5) (v : Xword) : (y.setX d v).xWaits d = false := by
  unfold Ctx.xWaits Ctx.setX
  by_cases h : d = 0
  · simp [h]
  · rw [if_neg h, RegFile.get_put_same, Option.isSome_none, Bool.and_false]
theorem Ctx.xWaits_setX_ne (y : Ctx) {d r : BitVec 5} (v : Xword) (h : r ≠ d) : (y.setX d v).xWaits r = y.xWaits r := by
  unfold Ctx.xWaits Ctx.setX
  split
  · rfl
  · rw [RegFile.get_put_ne _ _ h]
/-- A write of an x register is a change of the x registers and of what they await. -/
theorem Ctx.setX_eq (y : Ctx) (d : BitVec 5) (v : Xword) :
    y.setX d v = { y with x := (y.setX d v).x, xPend := (y.setX d v).xPend } := by
  unfold Ctx.setX
  split <;> rfl

theorem wroteX_setX (s : State) (c : BitVec 4) (d : BitVec 5) (v : Xword) : WroteX s (s.onCtx c fun y => y.setX d v) c d v where
  value := by simp only [State.slot_onCtx_same]; exact Ctx.getX_setX_same _ d v
  ready := by simp only [State.slot_onCtx_same]; exact Ctx.xWaits_setX_same _ d v
  others r h := by
    simp only [State.slot_onCtx_same]
    exact ⟨Ctx.getX_setX_ne _ v h, Ctx.xWaits_setX_ne _ v h⟩
  rest := ⟨((s.slot c).ctx.setX d v).x, ((s.slot c).ctx.setX d v).xPend, by
    simp only [State.onCtx, State.onSlot]
    rw [Ctx.setX_eq (s.slot c).ctx d v]⟩

/-- An instruction that computes xD from ready registers writes it (R292). -/
theorem writesX_seqReg {i : Instr} {s : State} {f : Focus} {d : BitVec 5} {srcs : List (BitVec 5)}
    {g : (BitVec 5 → Xword) → Xword} (hi : exec i s = seqReg d srcs g s) (h : Ready s f srcs) :
    WritesX i s f d (g (s.slot f.slot).ctx.getX) := by
  refine ⟨_, ?_, wroteX_setX s f.slot d _⟩
  rw [hi, seqReg, onSeqX_ready h]
  rfl

/-- An open order is one of the orders of its elements. -/
theorem openOrder_perm (seed : Nat) : ∀ (n : Nat) (l : List Nat), l.length = n → (openOrder seed n l).Perm l
  | 0, l, h => by simp [openOrder, List.length_eq_zero_iff.mp h]
  | n + 1, l, h => by
    have hj : (if l.length ≤ 1 then 0 else Config.pick (seed * 2 ^ 33 + n) l.length % l.length) < l.length := by
      split
      · omega
      · exact Nat.mod_lt _ (by omega)
    unfold openOrder
    generalize (if l.length ≤ 1 then 0 else Config.pick (seed * 2 ^ 33 + n) l.length % l.length) = j at hj
    simp only [List.getElem?_eq_getElem hj, Option.getD_some]
    exact ((openOrder_perm seed n _ (by rw [List.length_eraseIdx_of_lt hj]; omega)).cons _).trans
      (List.getElem_cons_eraseIdx_perm hj)

/-- A turn of an open order is one of its `n` parts. -/
theorem openTurn_lt (seed n k : Nat) (h : 0 < n) : openTurn seed n k < n := by
  unfold openTurn
  split
  · exact h
  · cases e : (openOrder seed n (List.range n))[k]? with
    | none => exact h
    | some x =>
      have := (openOrder_perm seed n (List.range n) List.length_range).subset (List.mem_of_getElem? e)
      simpa using this

end Sys2Proof.Machine
end

