-- ==== Sys2Proof/Tests/Slice0.lean ====
section
/-! SUPPORT. Tests of the model and witnesses of the statements' hypotheses. Expected results are the manual's own: its
encoding tables, its worked words and its examples. -/

namespace Sys2Proof.Tests
open Sys2Proof Sys2Proof.Machine

set_option Elab.async false

/-! ### Words written out from the encodings -/

/-- A decoding gives an instruction. -/
def isInstr (r : Except Reject Instr) (i : Instr) : Bool :=
  match r with | .ok j => decide (j = i) | .error _ => false
/-- Each row's word, with its extension word, decodes to its instruction in a slot. -/
def readsSlot (k : SlotName) (l : List (Word × Option Word × Instr)) : Bool :=
  l.all fun r => isInstr (decodeSlot k r.1 r.2.1) r.2.2
/-- Each row's header word, with the bundle's second word, carries the sync instruction of the row. -/
def readsSync (l : List (Word × Option Word × Instr)) : Bool :=
  l.all fun r => match decodeSync r.1 r.2.1 with | .ok j => decide (j = some r.2.2) | .error _ => false

/-! The words below are put together from MATCH, MASK and the fields of the opcode tables (14 R266, R269-R274; R291, R319,
R340, R358, R377, R392), each field holding a value of its own. -/


theorem test_words_s1 : readsSlot .s [
    (0x009AAA00, none, .add 19 10 21),
    (0x019AAA00, none, .sub 19 10 21),
    (0x029AAA00, none, .mul 19 10 21),
    (0x039AAA00, none, .mulh 19 10 21),
    (0x049AAA00, none, .mulhu 19 10 21),
    (0x059AAA00, none, .div 19 10 21),
    (0x069AAA00, none, .divu 19 10 21),
    (0x079AAA00, none, .rem 19 10 21),
    (0x089AAA00, none, .remu 19 10 21),
    (0x099AAA00, none, .and 19 10 21),
    (0x0A9AAA00, none, .or 19 10 21),
    (0x0B9AAA00, none, .xor 19 10 21),
    (0x0C9AAA00, none, .shl 19 10 21),
    (0x0D9AAA00, none, .shr 19 10 21),
    (0x0E9AAA00, none, .sra 19 10 21),
    (0x0F9AAA00, none, .slt 19 10 21),
    (0x109AAA00, none, .sltu 19 10 21),
    (0x119AAA00, none, .min 19 10 21),
    (0x129AAA00, none, .max 19 10 21),
    (0x139A8000, none, .clz 19 10),
    (0x149A8000, none, .popc 19 10),
    (0x189A9555, none, .addi 19 10 5461 none),
    (0x199A9555, none, .andi 19 10 5461 none),
    (0x1A9A9555, none, .ori 19 10 5461 none)] = true := by decide +kernel
theorem test_words_s2 : readsSlot .s [
    (0x1B9A9555, none, .xori 19 10 5461 none),
    (0x1C9A8025, none, .shli 19 10 37),
    (0x1D9A8025, none, .shri 19 10 37),
    (0x1E9A8025, none, .srai 19 10 37),
    (0x1F9A9555, none, .slti 19 10 5461 none),
    (0x209A9555, none, .lih 19 10 5461 none),
    (0xA89A8002, (some 0xFFFFFFFC), .ld 19 10 2 (some 0xFFFFFFFC)),
    (0xA99A8002, (some 0xFFFFFFFC), .ldu 19 10 2 (some 0xFFFFFFFC)),
    (0xAA02AA02, (some 0xFFFFFFFC), .st 10 21 2 (some 0xFFFFFFFC)),
    (0xAB9AAA57, (some 0xFFFFFFFC), .samo 19 10 21 1 5 3 (some 0xFFFFFFFC)),
    (0x30555ABC, none, .beq 10 21 6844 none),
    (0x31555ABC, none, .bne 10 21 6844 none),
    (0x32555ABC, none, .blt 10 21 6844 none),
    (0x33555ABC, none, .bge 10 21 6844 none),
    (0x34555ABC, none, .bltu 10 21 6844 none),
    (0x35555ABC, none, .bgeu 10 21 6844 none),
    (0x36001ABC, none, .j 6844 none),
    (0x37981ABC, none, .jal 19 6844 none),
    (0x389A9555, none, .jalr 19 10 5461 none),
    (0x40998000, none, .grd 19 6),
    (0x41128000, none, .kset 2 10 none),
    (0x42980000, none, .diec 19),
    (0x43000000, none, .step),
    (0x449A806D, none, .spawn 19 10 1 45)] = true := by decide +kernel
theorem test_words_s3 : readsSlot .s [
    (0x45988001, none, .tlrd 19 2 1),
    (0x46980025, none, .srr 19 37),
    (0x47028025, none, .srw 10 37),
    (0x4802802D, none, .binit 10 45),
    (0x4900002D, none, .barr 45),
    (0x4A00002D, none, .bard 45),
    (0x4B98002D, none, .bwait 19 45),
    (0x4C00002D, none, .binv 45),
    (0x50000000, none, .fenceS),
    (0x51000002, none, .trap 2 none),
    (0x52000000, none, .eret),
    (0x53028000, none, .halt 10),
    (0x54028002, none, .hostsig 10 0 2),
    (0x55000000, none, .podbar),
    (0x569A800A, none, .podred 19 10 10)] = true := by decide +kernel
theorem test_words_v1 : readsSlot .v0 [
    (0x00D9AAB8, none, .vadd 13 19 10 21 6 none),
    (0x01D9AAB8, none, .vsub 13 19 10 21 6 none),
    (0x02D9AAB8, none, .vmul 13 19 10 21 6 none),
    (0x03D9AAB8, none, .vmulh 13 19 10 21 6 none),
    (0x05C9A818, none, .vabs 2 19 10 6),
    (0x06D9A818, none, .vneg 13 19 10 6),
    (0x07D9AAB8, none, .vmin 13 19 10 21 6 none),
    (0x08D9AAB8, none, .vmax 13 19 10 21 6 none),
    (0x09D9AAB8, none, .vsadd 13 19 10 21 6 none),
    (0x0AD9AAB8, none, .vssub 13 19 10 21 6 none),
    (0x0BD9AAB8, none, .vabd 13 19 10 21 6 none),
    (0x0CD9AAB8, none, .vshl 13 19 10 21 6 none),
    (0x0DD9AAB8, none, .vshr 13 19 10 21 6 none),
    (0x0ED9AAB8, none, .vsra 13 19 10 21 6 none),
    (0x0FD9AAB8, none, .vand 13 19 10 21 6 none),
    (0x10D9AAB8, none, .vor 13 19 10 21 6 none),
    (0x11D9AAB8, none, .vxor 13 19 10 21 6 none),
    (0x12D9A818, none, .vnot 13 19 10 6),
    (0x13D9AAA8, none, .vsel 13 19 10 21 2),
    (0x14D9A818, none, .vclz 13 19 10 6),
    (0x15D9A818, none, .vpopc 13 19 10 6),
    (0x18D1AABA, none, .vcmp 13 3 10 21 6 2 none),
    (0x19D1A819, none, .vtest 13 3 10 6 1),
    (0x1A0188A0, none, .vmand 3 2 5)] = true := by decide +kernel
theorem test_words_v2 : readsSlot .v0 [
    (0x1B0188A0, none, .vmor 3 2 5),
    (0x1C0188A0, none, .vmxor 3 2 5),
    (0x1D018800, none, .vmnot 3 2),
    (0x1E018818, none, .vmpopc 3 2 6),
    (0x20D9A818, none, .vmov 13 19 10 6),
    (0x22D98C19, none, .vbroad 13 19 3 6 1),
    (0x23D9AAB8, none, .vshuf 13 19 10 21 6),
    (0x24D9A8B8, none, .vrotl 13 19 10 5 6 none),
    (0x25F1A8A1, none, .vext 15 3 10 5 1 none),
    (0x26E9A8A1, none, .vins 14 19 10 5 1 none),
    (0x27D9A818, none, .viota 13 19 10 6),
    (0x28E9801A, none, .vcellid 2 19 6 2),
    (0x50D9A818, none, .vrsum 13 19 10 6),
    (0x51D9A818, none, .vrmax 13 19 10 6),
    (0x52D9A818, none, .vrmin 13 19 10 6),
    (0x54D9AAB8, none, .vhash 1 19 10 21 6),
    (0xD8D9A818, (some 0xFFFFFFFC), .vld 13 19 10 6 (some 0xFFFFFFFC)),
    (0xD9D9A818, (some 0xFFFFFFFC), .vst 13 19 10 6 (some 0xFFFFFFFC)),
    (0xDAD9A8B8, (some 0xFFFFFFFC), .vlds 13 19 10 5 6 (some 0xFFFFFFFC)),
    (0xDBD9A8B8, (some 0xFFFFFFFC), .vsts 13 19 10 5 6 (some 0xFFFFFFFC)),
    (0xDCE9AAB9, (some 0xFFFFFFFC), .vgath 14 19 10 21 6 1 (some 0xFFFFFFFC)),
    (0xDD69AAB9, (some 0xFFFFFFFC), .vscat 6 19 10 21 6 1 (some 0xFFFFFFFC)),
    (0xDE59AAB9, (some 0xFFFFFFFC), .vscata 5 19 10 21 6 1 (some 0xFFFFFFFC)),
    (0x6001A8A0, none, .badd 3 10 5)] = true := by decide +kernel
theorem test_words_v3 : readsSlot .v0 [
    (0x6201A8A0, none, .bsub 3 10 5),
    (0x6301A8A0, none, .bmul 3 10 5),
    (0x6401A8A0, none, .bshl 3 10 5),
    (0x6501A8A1, none, .bshr 3 10 5 1),
    (0x6601A8A0, none, .band 3 10 5),
    (0x6701A8A0, none, .bor 3 10 5),
    (0x6801A8A0, none, .bxor 3 10 5),
    (0x6901A800, none, .bmov 3 10),
    (0x6B01A8A2, none, .bcmp 3 10 5 2),
    (0xEC01A800, (some 0xFFFFFFFC), .bld 3 10 (some 0xFFFFFFFC)),
    (0xED01A800, (some 0xFFFFFFFC), .bst 3 10 (some 0xFFFFFFFC)),
    (0x70000800, none, .vpushact 2),
    (0x71000000, none, .velse),
    (0x72000000, none, .vpopact),
    (0x3059AAB8, none, .vfadd 5 19 10 21 6 none),
    (0x3159AAB8, none, .vfsub 5 19 10 21 6 none),
    (0x3259AAB8, none, .vfmul 5 19 10 21 6 none),
    (0x3659AAB8, none, .vfmin 5 19 10 21 6 none),
    (0x3759AAB8, none, .vfmax 5 19 10 21 6 none),
    (0x3859A818, none, .vfabs 5 19 10 6),
    (0x3959A818, none, .vfneg 5 19 10 6),
    (0x3A59AAB8, none, .vfdiv 5 19 10 21 6 none),
    (0x3B59A818, none, .vfsqrt 5 19 10 6),
    (0x3C59A818, none, .vfrcp 5 19 10 6)] = true := by decide +kernel
theorem test_words_v4 : readsSlot .v0 [
    (0x3D59A818, none, .vfrsq 5 19 10 6),
    (0x3E59A818, none, .vfexp2 5 19 10 6),
    (0x3F59A818, none, .vflog2 5 19 10 6),
    (0x4059A818, none, .vftanh 5 19 10 6),
    (0x4159A818, none, .vfclass 5 19 10 6),
    (0x4251AABA, none, .vfcmp 5 3 10 21 6 2 none),
    (0x49B9AAB9, none, .vpack 11 19 10 21 6 1),
    (0x4A39A819, none, .vunpack 3 19 10 6 1),
    (0x4B59AAB8, none, .vscale 5 19 10 21 6 none),
    (0x5359A818, none, .vfrsum 5 19 10 6),
    (0x84DA96C8, (some 0x00000019), .vmad 13 21 5 22 2 25),
    (0xA15A800C, (some 0x3F800000), .vmovi 5 21 3 0x3F800000),
    (0xE1049000, (some 0xFFFFFFF0), .baddi 9 4 0xFFFFFFF0),
    (0xEA048000, (some 0xDEADBEEF), .bli 9 0xDEADBEEF),
    (0xB36A96C8, (some 0x00000019), .vfma 6 21 5 22 2 25),
    (0xB46A96C8, (some 0x00000019), .vfms 6 21 5 22 2 25),
    (0xB56A96C8, (some 0x00000019), .vfnma 6 21 5 22 2 25),
    (0xC81A9408, (some 0x000002B5), .vcvt 1 21 5 2 5 1 5 2),
    (0xCC0A9588, (some 0x00000003), .vqenc 0 21 5 12 2 3),
    (0xCD5A9408, (some 0x00000007), .vqdec 5 21 5 2 7)] = true := by decide +kernel
theorem test_words_m1 : readsSlot .m [
    (0x00A53400, none, .tmma 5 1 2 1 2 1 0),
    (0x01A50200, none, .tmma64 5 1 2 0 1),
    (0x08400000, none, .taccz 2),
    (0x89402A80, (some 0xFFFFFFFC), .taccld 2 10 2 1 (some 0xFFFFFFFC)),
    (0x8A402980, (some 0xFFFFFFFC), .taccst 2 10 1 1 (some 0xFFFFFFFC)),
    (0x0B400000, none, .taccret 2),
    (0x0C404C02, none, .taccrd 2 19 2),
    (0x0D402802, none, .taccwr 2 10 2),
    (0x10400C00, none, .tcoat 2 3),
    (0x11000E80, none, .tmon 3 2 1),
    (0x19180025, none, .qcommit 6 37),
    (0x1A180025, none, .qpop 6 37),
    (0x1B180C01, none, .qstat 6 3 1),
    (0x1C181855, none, .qtwin 6 6 85),
    (0x9814004E, (some 0x04301000), .qset 5 1 3 1 4 3 0x1000)] = true := by decide +kernel
theorem test_words_c1 : readsSlot .c0 [
    (0x00B196D9, none, .dcopy 11 3 2 1 45 9),
    (0x8101F009, (some 0xFFFFF000), .dshape 3 14 9 (some 0xFFFFF000)),
    (0x82B1E6D9, (some 0xFFFFF000), .dgathSp 11 3 12 1 45 1 (some 0xFFFFF000)),
    (0x83B9E6D7, (some 0xFFFFF000), .dscat 11 19 12 1 45 1 3 (some 0xFFFFF000)),
    (0x83B1E6D9, (some 0xFFFFF000), .dscatSp 11 3 12 1 45 1 (some 0xFFFFF000)),
    (0x84B9E6D6, (some 0xFFFFF001), .dscata 11 19 12 1 45 1 2 (some 0xFFFFF001)),
    (0x84B1E6DA, (some 0xFFFFF001), .dscataSp 11 3 12 1 45 2 (some 0xFFFFF001)),
    (0x88B766D1, (some 0x0004001B), .dst 11 14 12 1 45 1 (some 0x0004001B)),
    (0x89B9E6D0, (some 0x0004001B), .dstv 11 19 12 1 45 (some 0x0004001B)),
    (0x8BBF66D7, (some 0x0004001B), .datom 11 1 14 12 1 45 7 (some 0x0004001B)),
    (0x900166D0, (some 0xFFFFF000), .dperm 2 12 1 45 (some 0xFFFFF000)),
    (0x91075806, (some 0xFFFFF000), .dpermcfg 14 11 6 (some 0xFFFFF000)),
    (0x1208B009, none, .dred 17 6 9),
    (0x980066D0, (some 0xFFFFF000), .dvact 12 1 45 (some 0xFFFFF000)),
    (0x990066D0, (some 0xFFFFF000), .dvpre 12 1 45 (some 0xFFFFF000)),
    (0x9A01E6DD, (some 0xFFFFF000), .dvrdSp 3 12 1 45 5 (some 0xFFFFF000)),
    (0x9B09E6D0, (some 0xFFFFF000), .dvwr 19 12 1 45 (some 0xFFFFF000)),
    (0x9B01E6DD, (some 0xFFFFF000), .dvwrSp 3 12 1 45 5 (some 0xFFFFF000)),
    (0x9C0066D0, (some 0xFFFFF000), .dvref 12 1 45 (some 0xFFFFF000)),
    (0x9D06E6D9, (some 0xFFFFF000), .dvlife 13 12 1 45 9 (some 0xFFFFF000)),
    (0x20019001, none, .dtlmark 3 2 1),
    (0x82BAE6D7, (some 0xFFFFF7FF), .dgath 11 21 12 1 45 1 3 0xFFFFF 0x7FF),
    (0x8ABAE6D0, (some 0x80001004), .dld 11 21 12 1 45 0x80001 4),
    (0x8BBE4EDA, (some 0x00040123), .datomRet 11 1 12 9 1 45 10 0x40 0x123)] = true := by decide +kernel
theorem test_words_c2 : readsSlot .c0 [
    (0x9A0AE6D0, (some 0x00040123), .dvrd 21 12 1 45 0x40 0x123)] = true := by decide +kernel
theorem test_words_y1 : readsSync [
    (0x000B5A5A, none, .ywaitf 6 23130),
    (0x00130025, none, .ypostf 6 37),
    (0x001DD000, none, .ywaittB 2 13),
    (0x0020A5C3, none, .yfence 42435),
    (0x002D2E1D, none, .ylock 42435 5),
    (0x00300000, none, .yyield),
    (0x00380000, none, .ybar),
    (0x00400002, none, .ymark 2),
    (0x800C8000, (some 0x0000BEEF), .ywaitfExt 9 0xBEEF),
    (0x801C0000, (some 0xDEADBEEF), .ywaitt 2 0xDEADBEEF)] = true := by decide +kernel



/-! ### Instructions outside their limits (14 R276 check 6) -/

/-- Each check of Sys2Proof/WellFormed.lean refuses an instruction that breaks it. -/
theorem test_refuses_immediates : ([
    .addi 1 2 1 (some 5), .beq 1 2 1 (some 5), .j 1 (some 5), .kset 0 1 (some 5), .trap 1 (some 5), .vadd 8 1 2 3 0 (some 5),
    .vshl 8 1 2 0 0 (some 64), .vrotl 8 1 2 0 0 (some 128), .vfadd 0 1 2 0 0 (some 0x10000), .vext 8 1 2 0 0 (some 64),
    .vins 5 1 2 0 0 (some 16), .vext 5 1 2 0 1 none] : List Instr).all (fun i => !i.wellFormed) = true := by decide +kernel
theorem test_refuses_types : ([
    .vadd 7 1 2 3 0 none, .vand 7 1 2 3 0 none, .vmovi 3 1 0 5, .vgath 8 1 2 3 0 0 none, .vgath 5 1 15 3 0 0 none,
    .vscata 6 1 2 3 0 0 none, .vfadd 8 1 2 3 0 none, .vfexp2 6 1 2 0, .vpack 5 1 2 3 0 0, .vpack 3 1 2 3 0 1, .vbroad 5 1 4 0 1,
    .samo 1 2 3 0 0 1 none, .samo 1 2 3 0 8 2 none, .podred 1 2 11] : List Instr).all (fun i => !i.wellFormed) = true := by
  decide +kernel
theorem test_refuses_conversions : ([
    .vcvt 4 1 2 0 5 0 0 0, .vcvt 5 1 2 0 7 0 0 0, .vcvt 0 1 2 0 5 1 0 0, .vcvt 5 1 2 0 5 0 1 0, .vcvt 5 1 2 0 0 0 0 2,
    .vqenc 6 1 2 3 0 0, .vqenc 0 1 2 3 0 4, .vqdec 0 1 2 0 4] : List Instr).all (fun i => !i.wellFormed) = true := by decide +kernel
theorem test_refuses_rings : ([
    .tmma 0 1 2 2 1 0 0, .tmma 0 1 2 0 3 0 0, .tmma 0 1 1 0 0 0 0, .tmma64 0 1 1 0 0, .taccld 0 1 3 0 none, .taccst 0 1 3 0 none,
    .qset 0 0 0 0 0 1 0, .qset 0 0 0 0 1 8 32, .qset 0 0 1 0 1 8 0, .qset 0 0 4 1 1 8 0, .qset 0 1 3 1 1 2 0,
    .qset 0 0 0 0 255 15 0, .qcommit 0 0, .qpop 0 0, .qtwin 0 15 0] : List Instr).all (fun i => !i.wellFormed) = true := by
  decide +kernel
theorem test_refuses_commands : ([
    .dcopy 0 1 2 0 5 0, .dcopy 0 1 2 0 0 3, .dcopy 0 1 2 0 0 1, .dshape 0 1 10 none, .dshape 0 0 0 none, .dshape 0 1 0 (some 1),
    .dgath 0 1 14 0 0 0 2 0 4, .dgath 0 30 1 0 0 0 3 0 4, .dgath 0 1 1 0 0 0 2 0 3, .dgathSp 0 1 13 0 0 2 none,
    .dscat 0 31 1 0 0 0 2 none, .dscata 0 1 1 0 0 0 3 (some 1), .dst 0 1 0 0 0 0 none, .dst 0 15 1 0 0 1 none,
    .dst 0 1 1 0 0 0 (some 1), .dld 0 1 1 0 0 0 3, .datom 0 0 1 1 0 0 9 none, .datom 0 1 1 1 0 0 8 none,
    .datomRet 0 0 1 1 0 0 8 0 4, .datomRet 0 1 13 1 0 0 10 0 4, .dperm 1 0 0 0 none, .dpermcfg 15 0 0 none, .dpermcfg 1 0 7 none,
    .dred 18 0 0, .dred 4 0 10, .dred 0 0 11, .dvlife 1 1 0 0 0 none] : List Instr).all (fun i => !i.wellFormed) = true := by
  decide +kernel
/-- And the decoder turns the first of them away by name: an extension word where the immediate field is not zero, an
unassigned type, an unassigned opcode. -/
theorem test_decoder_refuses :
    [decodeSlot .s 0x98088001 (some 5), decodeSlot .v0 0x00708860 none, decodeSlot .s 0x7F000000 none].map
      (fun r => match r with | .ok _ => none | .error e => some e) =
    [some .limit, some .limit, some .unassigned] := by decide +kernel


/-! ### The manual's worked encodings -/

/-- The bundle of R276's example, the loop after it, and the instructions whose words R290, R337, R340, R358, R360, R388 and
R398 work out. -/
theorem test_worked_words :
    decodeBundle 0x53200004 [0x18294001, 0x30518440, 0x8A222800, 0x00000028] = .ok ⟨true,
      [(.s, .addi 5 5 1 none), (.v0, .vfadd 5 3 1 2 0 none), (.c0, .dld 2 4 5 0 0 0 40)], some (.yfence 4), 5⟩ ∧
    decodeBundle 0x01000000 [0x3229BFFB] = .ok ⟨false, [(.s, .blt 5 6 0x3FFB none)], none, 2⟩ ∧
    readsSlot .s [(0xA838C003, some 0x10, .ld 7 3 3 (some 0x10))] = true ∧
    readsSlot .v0 [(0x5CC10CA4, none, .vgath 12 2 3 5 1 0 none), (0xC8130800, some 0x115, .vcvt 1 6 2 0 5 1 0 1)] = true ∧
    readsSlot .m [(0x00409600, none, .tmma 2 0 1 0 2 1 1), (0x98000000, some 0x04804000, .qset 0 0 0 0 4 8 0x4000),
      (0x9804004E, some 0x04304A00, .qset 1 1 3 1 4 3 0x4A00)] = true ∧
    readsSlot .c0 [(0x18001000, none, .dvact 2 0 0 none), (0x91032000, some 0x1000, .dpermcfg 6 4 0 (some 0x1000)),
      (0x1003B000, none, .dperm 7 6 0 0 none)] = true ∧
    readsSync [(0x00090001, none, .ywaitf 2 1), (0x80090000, some 0x9C40, .ywaitfExt 2 40000), (0x00118005, none, .ypostf 3 5),
      (0x801A0000, some 7, .ywaitt 1 7), (0x00193000, none, .ywaittB 0 3), (0x002807FB, none, .ylock 0xFF 3),
      (0x00380000, none, .ybar), (0x00400007, none, .ymark 7)] = true := by decide +kernel

/-! ### One step each -/

/-- A bundle in hand at slot 0, issuing, with one cell of logical die 0. -/
def focusOn (p : Cell) : Focus :=
  { slot := 0, n := 1, h := 1, w := 1, dev := 0, bsn := some 1, carried := ⟨1, 0, 0, 0, 0⟩, now := .v0, ks := [RegFile.fill 2 5]
    windows := [⟨0, [p], [p], []⟩], issuing := true, handler := false, carriedDown := true, bundle := ⟨false, [], none, 1⟩
    pc := 0x100, nextAddr := 0x108, kset := none, dred := none, tlrd := none, sres := .done, after := .none, lock := none, tag := 1
    ahead := false, hold := [] }
/-- The machine after reset with its links trained, so that the window answers. -/
def booted : State := { State.reset with resetRun := none }
/-- The machine after reset with that bundle in hand. -/
def inHand (p : Cell) : State := { State.reset with focus := some (focusOn p) }
/-- The same with two values in x1 and x2 of its context. -/
def withX (a b : Xword) : State :=
  (inHand Cell.entry).onCtx 0 fun y => { y with x := (y.x.put 1 a).put 2 b }
/-- The state that an outcome answers; without one, the state after reset. -/
def after (o : Out) : State := match o with | .next t => t | _ => State.reset
/-- What an S instruction leaves in a register of slot 0. -/
def xAfter (i : Instr) (s : State) (d : BitVec 5) : Xword := ((after (exec i s)).slot 0).ctx.getX d
/-- What it leaves of its bundle. -/
def handAfter (i : Instr) (s : State) : Focus := (after (exec i s)).focus.getD (focusOn Cell.entry)
/-- The one cell after a cell slot's instruction on it. -/
def cellAfter (i : Instr) (p : Cell) : Cell :=
  (((handAfter i (inHand p)).windows[0]?).bind fun w => w.post[0]?).getD Cell.entry
/-- The faults it raises. -/
def faultsOf (i : Instr) (p : Cell) : List (Nat × SlotName × CellFault) :=
  (((handAfter i (inHand p)).windows[0]?).map fun w => w.faults).getD []
/-- A vector of 32-bit lanes, the rest zero. -/
def lanes32 (l : List Nat) : Vec := BitVec.ofNat 512 (l.foldr (fun v a => v + a * 2 ^ 32) 0)
/-- A vector of bytes. -/
def lanes8 (l : List Nat) : Vec := BitVec.ofNat 512 (l.foldr (fun v a => v + a * 2 ^ 8) 0)
/-- A cell with vectors in v1, v2 and v3. -/
def vecs (a b c : Vec) : Cell := ((Cell.entry.setV 1 a).setV 2 b).setV 3 c

theorem test_add_wraps : xAfter (.add 3 1 2) (withX (-1) 1) 3 = 0 ∧ xAfter (.add 0 1 2) (withX 5 6) 0 = 0 := by decide +kernel
theorem test_mulh : xAfter (.mulh 3 1 2) (withX (-1) (-1)) 3 = 0 ∧
    (xAfter (.mulhu 3 1 2) (withX (-1) (-1)) 3).toNat = 2 ^ 64 - 2 := by decide +kernel
/-- R293. -/
theorem test_division : xAfter (.div 3 1 2) (withX 7 0) 3 = -1 ∧ xAfter (.rem 3 1 2) (withX 7 0) 3 = 7 ∧
    xAfter (.rem 3 1 2) (withX (-7) 2) 3 = -1 ∧ xAfter (.div 3 1 2) (withX (-7) 2) 3 = -3 := by decide +kernel
theorem test_shifts : xAfter (.shl 3 1 2) (withX 1 65) 3 = 2 ∧ xAfter (.sra 3 1 2) (withX (-5) 1) 3 = -3 ∧
    xAfter (.lih 3 1 0 (some 0x40000C00)) (withX 0xFFFFFFFF12345678 0) 3 = 0x40000C0012345678 := by decide +kernel
theorem test_clz : xAfter (.clz 3 1) (withX 0 0) 3 = 64 ∧ xAfter (.clz 3 1) (withX 1 0) 3 = 63 := by decide +kernel
/-- The loop of R276: a branch back by 20 bytes from offset 0x100. -/
theorem test_branch_back : (handAfter (.blt 1 2 0x3FFB none) (withX 1 2)).nextAddr = 0xEC ∧
    (handAfter (.blt 1 2 0x3FFB none) (withX 2 2)).nextAddr = 0x108 := by decide +kernel
theorem test_jalr_misaligned : (handAfter (.jalr 0 1 2 none) (withX 0x100 0)).sres = .fault .scalarMemory 0x102 := by decide +kernel
theorem test_binit_zero : (handAfter (.binit 1 5) (withX 0 0)).sres = .fault .specialRegister (5 + 3 * 2 ^ 32) := by decide +kernel
theorem test_coatctl_three_is_two :
    ((after (exec (.srw 1 2) (withX 0xF 0))).slot 0).ctx.coatctl = 0xA := by decide +kernel
/-- The example of R320. -/
theorem test_vsadd : lane 8 ((cellAfter (.vsadd 9 4 1 2 0 none) (vecs 200 100 0)).getV 4) 0 = 255 ∧
    lane 8 ((cellAfter (.vsadd 8 4 1 2 0 none) (vecs 156 156 0)).getV 4) 0 = 128 := by decide +kernel
theorem test_vabd_vmulh : lane 8 ((cellAfter (.vabd 8 4 1 2 0 none) (vecs 128 127 0)).getV 4) 0 = 255 ∧
    lane 16 ((cellAfter (.vmulh 10 4 1 2 0 none) (vecs 0xFFFE 3 0)).getV 4) 0 = 0xFFFF := by decide +kernel
theorem test_vsra_by_width : lane 8 ((cellAfter (.vsra 8 4 1 2 0 (some 8)) (vecs 0x80 0 0)).getV 4) 0 = 0xFF := by decide +kernel
/-- The example of R324: a bit of the mask needs all four of its bytes. -/
theorem test_vcmp_bytes : ((cellAfter (.vcmp 8 1 1 2 0 0 none) (vecs (lanes8 [1, 2, 3, 4, 5]) (lanes8 [1, 2, 3, 4, 6]) 0)).getM 1) =
    0xFFFD := by decide +kernel
theorem test_vrotl : lane 32 ((cellAfter (.vrotl 13 4 1 0 0 (some 1)) (vecs (lanes32 [7, 8]) 0 0)).getV 4) 1 = 7 := by decide +kernel
theorem test_vext_signs : (cellAfter (.vext 8 3 1 0 0 (some 0)) (vecs 0x80 0 0)).getB 3 = 0xFFFFFF80 ∧
    (cellAfter (.vext 9 3 1 0 0 (some 0)) (vecs 0x80 0 0)).getB 3 = 0x80 := by decide +kernel
/-- R323: with no lane enabled the sum is 0 and the maximum the least value. -/
theorem test_reductions_of_none : (cellAfter (.vrsum 8 4 1 1) (vecs 5 0 0)).getV 4 = 0 ∧
    (cellAfter (.vrmax 8 4 1 1) (vecs 5 0 0)).getV 4 = BitVec.ofNat 512 (2 ^ 64 - 128) := by decide +kernel
/-- R329 worked by hand for the counter 1 and the key 0: the first round gives 0xD2B74407, and so on. -/
theorem test_vhash : lane 32 ((cellAfter (.vhash 0 4 1 2 0) (vecs 1 0 0)).getV 4) 0 = 0x2FBCDCCE := by decide +kernel
theorem test_bshl_by_width : (cellAfter (.bshl 3 1 2) { Cell.entry with b := (Cell.entry.b.put 1 5).put 2 32 }).getB 3 = 0 ∧
    (cellAfter (.bli 0 7) Cell.entry).getB 0 = 0 := by decide +kernel
theorem test_ninth_push : faultsOf (.vpushact 0) { Cell.entry with stack := List.replicate 8 true } =
    [(0, .v0, ⟨.activityOverflow, 0xFF, 8⟩)] := by decide +kernel
/-- The word at 0x1000 + 4j holds 100 + j, b3 = 0x1000, b4 = 8, m1 = 0x00FF, v5 the indices: the example of R337. -/
def gatherCell : Cell :=
  { (Cell.entry.setV 5 (lanes32 [2, 2, 7, 0xFFFFFFFF, 8, 0, 3, 2])) with
    b := (Cell.entry.b.put 3 0x1000).put 4 8, m := Cell.entry.m.put 1 0xFF
    pad := (List.range 8).map fun j => (0x1000 + 4 * j, BitVec.ofNat 8 (100 + j)) }
theorem test_gather_example :
    ((List.range 8).map (lane 32 ((cellAfter (.vgath 12 2 3 5 1 0 none) gatherCell).getV 2))) = [102, 102, 107, 0, 0, 100, 103, 102] ∧
    (cellAfter (.vgath 12 2 3 5 1 0 none) gatherCell).cflags.oobcnt = 2 := by decide +kernel
theorem test_gather_checked : faultsOf (.vgath 12 2 3 5 1 1 none) gatherCell =
    [(0, .v0, ⟨.indexRange, 3, 0xFFFFFFFF + 8 * 2 ^ 32⟩)] := by decide +kernel
/-- The scatter of the same example: three additions to one word. -/
theorem test_scatter_adds : (cellAfter (.vscata 12 2 3 5 2 0 none) { gatherCell with
    v := (gatherCell.v.put 5 (lanes32 [4, 4, 4])).put 2 (lanes32 [1, 2, 3]), m := Cell.entry.m.put 2 7 }).pad.read 0x1010 4 = 110 := by
  decide +kernel
/-- The example of R341. -/
theorem test_vfma_fused : lane 16 ((cellAfter (.vfma 0 4 1 2 0 3) (vecs 0x3F81 0x3F7F 0xBF80)).getV 4) 0 = 0x3B7E := by decide +kernel
/-- R342: 1/0 is an infinity with DZ; the root of −0 is −0. -/
theorem test_vfdiv : lane 32 ((cellAfter (.vfdiv 5 4 1 2 1 none) { (vecs 0x3F800000 0 0) with m := Cell.entry.m.put 1 1 }).getV 4) 0 =
    0x7F800000 ∧ lane 32 ((cellAfter (.vfsqrt 5 4 1 0) (vecs 0x80000000 0 0)).getV 4) 0 = 0x80000000 := by decide +kernel
/-- The example of R349. -/
theorem test_vscale_tie : lane 32 ((cellAfter (.vscale 5 4 1 2 0 none) (vecs 0x40400000 (BitVec.ofNat 512 (2 ^ 32 - 150)) 0)).getV 4) 0 =
    2 := by decide +kernel
/-- The example of R352. -/
theorem test_vcvt_example :
    ((List.range 6).map fun k => lane 8 ((cellAfter (.vcvt 1 6 2 0 5 1 0 1)
      (vecs 0 (lanes32 ([0x43960000, 0x43FA0000, 0xBA83126F, 0x7FA00000] ++ List.replicate 12 0x3F800000)) 0)).getV 6) (15 + k)) =
    [0, 0x79, 0x7E, 0x81, 0x7F, 0x38] := by decide +kernel
theorem test_vcvt_flags : (cellAfter (.vcvt 1 6 2 0 5 1 0 1)
      (vecs 0 (lanes32 ([0x43960000, 0x43FA0000, 0xBA83126F, 0x7FA00000] ++ List.replicate 12 0x3F800000)) 0)).cflags.fp = 0x1D := by
  decide +kernel
/-- The example of R355. -/
theorem test_vqenc_example : (fun q : Cell => (lane 8 (q.getV 5) 32, lane 8 (q.getV 5) 33))
    (cellAfter (.vqenc 0 5 4 6 0 2) { (Cell.entry.setV 4 (BitVec.ofNat 512 0x7FC040003E9ABE9A)) with b := Cell.entry.b.put 6 0x3F800000 }) =
    (0xA4, 0x7F) := by decide +kernel
/-- A ring of four tiles with one committed and not popped. -/
def ringCell : Cell := { Cell.entry with q := Cell.entry.q.put 1 ⟨0x4000, 8, 4, false, 0, false, 1, 2, 1, false, false⟩ }
theorem test_qcommit_full : ((cellAfter (.qcommit 1 3) ringCell).q.get 1).tail = 5 ∧
    ((cellAfter (.qcommit 1 4) ringCell).q.get 1).full = true := by decide +kernel
/-- R363: used 1, HEAD 1, TAIL 2. -/
theorem test_qstat : (cellAfter (.qstat 1 3 0) ringCell).getB 3 = 0x00020101 := by decide +kernel
theorem test_tmma_unset : faultsOf (.tmma 0 1 2 0 2 1 1) ringCell = [(0, .v0, ⟨.ringUnset, 0xFF, 2⟩)] := by decide +kernel
theorem test_vadd_wraps : lane 8 ((cellAfter (.vadd 9 4 1 2 0 none) (vecs 0xFF 0x02 0)).getV 4) 0 = 1 := by decide +kernel
/-- The store of the example of R46: its address word. -/
theorem test_dst_leaves : (cellAfter (.dst 3 5 2 0 0 0 none) { Cell.entry with
      b := ((Cell.entry.b.put 2 0x40).put 3 0x80003200).put 5 7 }).leaving.map (fun l => (l.cmd.op, l.cmd.cls, l.cmd.tl)) =
    [(.store 0x8000320000000040 [7, 0, 0, 0] none, 3, 2)] := by decide +kernel
/-- DVACT of row 1,000 of bank 2, already open: the vault address of R167's example breaks rule 0. -/
theorem test_dvact_open : faultsOf (.dvact 2 0 0 none) { Cell.entry with
      b := (Cell.entry.b.put 2 0xFA000140).put 3 0xC0000008, openRow := Cell.entry.openRow.put 2 (some 5) } =
    [(0, .v0, ⟨.vaultProtocol, 0xFF, 2 + 1000 * 2 ^ 8⟩)] := by decide +kernel
/-- The DROT of R385's example, at local cell 5 of die 0 of four. -/
theorem test_drot :
    let p := { Cell.entry with b := Cell.entry.b.put 4 0x3000 }
    let f := { focusOn p with n := 4, h := 2, w := 2, windows := [⟨0, List.replicate 6 p, List.replicate 6 p, []⟩] }
    let q := (((after (exec (.dpermcfg 6 4 0 (some 0x1000)) (State.reset.hand f))).focus.bind fun g => g.windows[0]?).bind
      fun w => w.post[5]?).getD p
    (q.getB 7, q.getB 6) = (0x80040280, 0x3000) := by decide +kernel
theorem test_ypostf_inactive : (cellAfter (.ypostf 3 5) { Cell.entry with act := false, y := Cell.entry.y.put 3 0xFFFF }).y.get 3 = 4 := by
  decide +kernel
/-- The example of R396: at 65,530 the wait for 3 goes on, at 3 it is met. -/
theorem test_ywaitf_wraps : waitMet (.ywaitf 2 3) { Cell.entry with y := Cell.entry.y.put 2 65530 } = false ∧
    waitMet (.ywaitf 2 3) { Cell.entry with y := Cell.entry.y.put 2 3 } = true := by decide +kernel
/-- The step from reset that fetched ADDI x5, x0, 1 in a bundle of its own. -/
theorem test_step_runs : ((after (step (State.reset.withFetchWord 32 0x18280001))).slot 0).ctx.getX 5 = 1 := by decide +kernel
/-- R36-R39: half the lanes of a link train. -/
theorem test_link_half : ((after (exec (.linkTrainingDone 3 0x0F) State.reset)).links.get 3).lanes = 0x0F := by decide +kernel
/-- R130: level 5 in ELASTIC mode is a hard trip; R43: PODTMO 0 reads as 1; R65: an ENABLE; R61: ENROLL. -/
theorem test_events : ((after (exec (.podcfgWrite 0x85) booted)).devnum, (after (exec (.podcfgWrite 0x85) booted)).podtmo) =
      (5, 1) ∧
    ((after (exec (.enable 3) booted)).queues.get 3).state = .idle ∧
    (after (exec (.enroll 7 2) booted)).boot.lease = .enrolled ∧
    (after (exec (.sigobjWrite 7 9) booted)).sigobj.get 7 = 9 ∧
    ((after (exec (.tempSample 46 96) booted)).columns.get 46).temp = 96 ∧
    ((after (exec (.tempSample 46 96) booted)).columns.get 46).twarn = true := by decide +kernel


/-! ### The statements' hypotheses are met

One theorem for each statement of Sys2Proof/Certificates/Slice0/Obligations.lean that has hypotheses: at a concrete state,
with concrete operands and values at the bounds of their ranges, the hypotheses of each of its clauses hold together. A
condition on cells is shown of the one cell in hand; `everyCell_focusOn` carries it to what the statements ask. -/

/-- What holds of the one cell in hand holds of every cell of the bundle. -/
theorem everyCell_focusOn (p : Cell) (h : Env → Cell → Cell → Prop) (hp : h (envOf (focusOn p) 0 0) p p) :
    EveryCell (focusOn p) h := by
  intro w hw j a b ha hb
  have hw' : w = ⟨0, [p], [p], []⟩ := List.mem_singleton.mp hw
  subst hw'
  cases j with
  | zero => cases ha; cases hb; exact fun _ => hp
  | succ n => simp at ha
/-- The bundle is in hand. -/
theorem inHand_focus (p : Cell) : (inHand p).focus = some (focusOn p) := rfl

/-- Every register of a context that has issued nothing is ready. -/
theorem ready_withX (a b : Xword) (l : List (BitVec 5)) : Ready (withX a b) (focusOn Cell.entry) l := by
  refine ⟨rfl, fun r _ => ?_⟩
  simp only [withX, focusOn, State.slot_onCtx_same]
  exact (by decide +kernel : ∀ r, (State.reset.slot 0).ctx.xWaits r = false) r
theorem meets_SequencerIntegers : Ready (withX (-1) 0) (focusOn Cell.entry) [1, 2] ∧
    (let x := ((withX 0 0).slot 0).ctx.getX 1; 64 ≤ 64 ∧ x.toNat < 2 ^ (64 - 64)) ∧
    (let x := ((withX (BitVec.ofNat 64 (2 ^ 63)) 0).slot 0).ctx.getX 1; 0 ≤ 64 ∧ x.toNat < 2 ^ (64 - 0) ∧ 2 ^ (63 - 0) ≤ x.toNat) :=
  ⟨ready_withX _ _ _, by decide +kernel, by decide +kernel⟩
theorem meets_DivisionNeverTraps : Ready (withX (BitVec.ofNat 64 (2 ^ 63)) (-1)) (focusOn Cell.entry) [1, 2] ∧
    (((withX (BitVec.ofNat 64 (2 ^ 63)) (-1)).slot 0).ctx.getX 1).toInt = -(2 ^ 63) ∧
    (((withX (BitVec.ofNat 64 (2 ^ 63)) (-1)).slot 0).ctx.getX 2).toInt = -1 ∧ ((withX 7 0).slot 0).ctx.getX 2 = 0 :=
  ⟨ready_withX _ _ _, by decide +kernel⟩
theorem meets_BranchesAndJumps : Ready (withX 0x100 0) (focusOn Cell.entry) [1, 2] ∧
    (let y := ((withX 0x100 0).slot 0).ctx
     (y.getX 1 + (4 : BitVec 14).signExtend 64).toNat % 4 = 0 ∧ (y.getX 1 + (3 : BitVec 14).signExtend 64).toNat % 4 ≠ 0) :=
  ⟨ready_withX _ _ _, by decide +kernel⟩

/-- A handle of 2^40 bytes of host memory from 0 up, with every permission. -/
def wholeHost : HandleSlot :=
  ⟨1, { Handle.zero with valid := true, layer := 1, atm := true, exe := true, wrt := true, rdp := true, limit := BitVec.allOnes 40 },
    0, BitVec.allOnes 40, 0⟩
/-- The same of HBM, encrypted. -/
def wholeHbm : HandleSlot := { wholeHost with h := 2, entry := { wholeHost.entry with layer := 0, enc := true } }
/-- Their addresses, and one that no handle maps. -/
def atHost : Xword := 0x4000010000000000
def atHbm : Xword := 0x4000020000000000
def atNone : Xword := 0x4000030000000000
/-- A machine with those handles and a key for the second. -/
def withHandles (s : State) : State :=
  { (s.putHandle wholeHost).putHandle wholeHbm with boot := { s.boot with keys := [(2, 1, 2)] } }
/-- That machine with two values in x1 and x2. -/
def mapped (a b : Xword) : State := withHandles (withX a b)
/-- A machine that is relocating handle 1 to host memory at 0x10000. -/
def moving (s : State) : State := { s with transl := { s.transl with relocRun := some (1, 16, 1) } }
/-- An access to its first 8 bytes. -/
def oneAccess (kind : Nat) : SeqAccess := ⟨kind, .mem ⟨true, 0, 8, none⟩, 8, false, 0, 5, 0, 3, 0, none⟩
/-- A context with one access to come, whose register awaits it. -/
def accessing (kind : Nat) : State := (withX 0 0).onCtx 0 fun y => { y with acc := [oneAccess kind], xPend := y.xPend.put 3 (some 0) }
theorem meets_SequencerAccesses :
    (let s := mapped atHost 5
     Ready s (focusOn Cell.entry) [1, 2, 3] ∧ (s.slot 0).ctx.tableWrite = false ∧ s.relocating atHost = false ∧
     (s.seqPlace (((s.slot 0).ctx).getX 1) 8 .read).isSome ∧
     (s.seqPlace atHost 4 .write).isSome ∧ (s.seqPlace atHbm 8 .atomic).isSome ∧ s.seqPlace (atHost + 4) 8 .read = none ∧
     s.seqPlace atNone 8 .write = none ∧ (s.slot 0).ctx.acc = []) ∧
    (moving (mapped atHost 5)).relocating atHost = true ∧
    (((withX 0 0).onCtx 0 fun y => { y with acc := [{ oneAccess 1 with place := .window 0 }] }).slot 0).ctx.tableWrite = true ∧
    ((accessing 0).slot 0).ctx.acc ≠ [] ∧
    ∀ k ∈ [0, 1, 2], (accessing k).MemoriesInForm ∧ ((accessing k).slot 0).ctx.acc = [oneAccess k] ∧ (oneAccess k).commit = none ∧
      (oneAccess k).place = .mem ⟨true, 0, 8, none⟩ ∧ (oneAccess k).kind = k ∧ (oneAccess k).dest ≠ 0 ∧
      ((accessing k).slot 0).ctx.xPend.get 3 = some (oneAccess k).tok := by
  refine ⟨⟨⟨rfl, ?_⟩, ?_⟩, ?_, ?_, ?_, ?_⟩
  iterate 5 · decide +kernel
  · intro k hk
    simp only [List.mem_cons, List.not_mem_nil, or_false] at hk
    rcases hk with rfl | rfl | rfl <;> exact ⟨⟨rfl, rfl⟩, by decide +kernel⟩

/-- A one-die context in slot 0, with the bundle in hand. -/
def onOneDie (a : Xword) : State := (withX a 0).onSlot 0 fun x => { x with h := 1, w := 1 }
theorem meets_SpecialRegisters :
    Ready (onOneDie 5) (focusOn Cell.entry) [1] ∧ ((onOneDie 5).slot 0).ctx.gPend.get 7 = none ∧
    (focusOn Cell.entry).n = ((onOneDie 5).slot 0).n ∧
    (∀ n : BitVec 9, n ∈ ([0, 11, 20, 32, 43, 48, 127] : List (BitVec 9)) →
      n.toNat ≤ 11 ∨ n = 20 ∨ (32 ≤ n.toNat ∧ n.toNat ≤ 43) ∨ (48 ≤ n.toNat ∧ n.toNat ≤ 127)) ∧
    12 ≤ (12 : BitVec 9).toNat ∧ (19 : BitVec 9).toNat ≤ 19 ∧ ((onOneDie 5).slot 0).ctx.counted = [] ∧
    (let y := (((onOneDie 5).onCtx 0 fun y => { y with fixed := true }).slot 0).ctx; y.fixed = true ∧ 17 ≤ (17 : BitVec 9).toNat) ∧
    (∀ n : BitVec 9, n ∈ ([21, 31, 44, 47, 128, 511] : List (BitVec 9)) →
      (21 ≤ n.toNat ∧ n.toNat ≤ 31) ∨ (44 ≤ n.toNat ∧ n.toNat ≤ 47) ∨ 128 ≤ n.toNat) ∧
    (9 : BitVec 9).toNat ≤ 9 ∧ (10 ≤ (10 : BitVec 9).toNat ∧ (10 : BitVec 9).toNat ≤ 20) := by
  refine ⟨⟨rfl, ?_⟩, ?_⟩ <;> decide +kernel

/-- A context whose join object 5 is `j`, with `a` in x1. -/
def joining (j : Join) (a : Xword) : State := (withX a 0).onCtx 0 fun y => { y with joins := y.joins.put 5 j }
theorem meets_JoinObjects : Ready (joining ⟨2, 0, 0, 0, 0, true, false⟩ 1) (focusOn Cell.entry) [1] ∧
    (∀ k < 2, let s := joining Join.entry (BitVec.ofNat 64 (if k = 0 then 1 else 2 ^ 24 - 1))
      ((s.slot 0).ctx.joins.get 5).pend = 0 ∧ 1 ≤ ((s.slot 0).ctx.getX 1).toNat ∧ ((s.slot 0).ctx.getX 1).toNat < 2 ^ 24) ∧
    (∀ k < 2, let s := joining Join.entry (BitVec.ofNat 64 (if k = 0 then 0 else 2 ^ 24))
      ((s.slot 0).ctx.getX 1).toNat = 0 ∨ 2 ^ 24 ≤ ((s.slot 0).ctx.getX 1).toNat) ∧
    (let at_ := fun (j : Join) => ((joining j 0).slot 0).ctx.joins.get 5
     (at_ ⟨2, 0, 0, 1, 0, true, false⟩).pend ≠ 0 ∧ (at_ Join.entry).valid = false ∧
     (let j := at_ ⟨0, 0, 0, 0, 0, true, true⟩; j.valid = true ∧ j.spent = true ∧ j.rdy = 0) ∧
     (let j := at_ ⟨2, 0, 0, 0, 0, true, false⟩; j.valid = true ∧ j.spent = false ∧ j.rdy = 0 ∧ j.arr.toNat + 1 < j.exp.toNat) ∧
     (let j := at_ ⟨2, 255, 1, 0, 1, true, false⟩
      j.valid = true ∧ j.spent = false ∧ j.rdy ≠ 0 ∧ j.exp.toNat ≤ j.arr.toNat + 1 ∧ j.arr.toNat + 1 < 2 ^ 32 ∧
      j.drop.toNat + 1 < 2 ^ 24)) := by
  refine ⟨⟨rfl, ?_⟩, ?_⟩ <;> decide +kernel

theorem meets_SystemInstructions : Ready (withX 9 0) (focusOn Cell.entry) [1] ∧ (focusOn Cell.entry).handler = false ∧
    ((withX 9 0).slot 0).ctx.acc = [] ∧ ((accessing 0).slot 0).ctx.acc ≠ [] ∧ Ready (accessing 0) (focusOn Cell.entry) [1] ∧
    (let f := { focusOn Cell.entry with handler := true }; Ready ((withX 9 0).hand f) f [1] ∧ f.handler = true) := by
  refine ⟨ready_withX _ _ _, ?_, ?_, ?_, ⟨rfl, ?_⟩, ⟨rfl, ?_⟩, rfl⟩ <;> decide +kernel

/-- 48 bytes of a launch descriptor at address 0: its entry point and its save handle in handle 1, 1 die. -/
def descBytes (entry : Xword) (saveh : Nat) : List Byte := bytesOf 8 entry.toNat ++ bytesOf 8 (saveh + 1 * 2 ^ 16 + 1 * 2 ^ 24 + 3 * 2 ^ 32)
/-- A parent that may spawn from that descriptor. -/
def spawning (entry : Xword) (saveh : Nat) : State :=
  { (mapped atHost 0).onSlot 0 fun x => { x with state := .running, life := 1, prio := 2 } with host := Mem.putBytes [] 0 (descBytes entry saveh) }
theorem meets_Spawning :
    (let j := ((joining Join.entry 0).slot 0).ctx.joins.get 5; j.valid = false) ∧
    (let s := spawning atHost 1
     Ready s (focusOn Cell.entry) [1] ∧ (s.slot 0).ctx.acc = [] ∧ s.relocating ((s.slot 0).ctx.getX 1) = false ∧
     ∃ b, s.readDesc ((s.slot 0).ctx.getX 1) = some b ∧ descLegal b s.devnum = true ∧ s.handlesValid (descOf b) = true ∧
       s.spawnSlot = some 1) ∧
    (((accessing 0).slot 0).ctx.acc ≠ [] ∧ (moving (spawning atHost 1)).relocating atHost = true ∧
      (spawning atHost 1).readDesc atNone = none) ∧
    (∃ b, (spawning 0 1).readDesc atHost = some b ∧ descLegal b (spawning 0 1).devnum = false) ∧
    (∃ b, (spawning atHost 3).readDesc atHost = some b ∧ descLegal b (spawning atHost 3).devnum = true ∧
      (spawning atHost 3).handlesValid (descOf b) = false) ∧
    ({ spawning atHost 1 with slots := RegFile.fill 4 { Slot.blank with state := .running } } : State).spawnSlot = none := by
  refine ⟨by decide +kernel, ⟨⟨rfl, by decide +kernel⟩, by decide +kernel, by decide +kernel,
    bytesOf 8 atHost.toNat ++ bytesOf 8 (1 + 1 * 2 ^ 16 + 1 * 2 ^ 24 + 3 * 2 ^ 32) ++ List.replicate 32 0, ?_⟩, ?_,
    ⟨bytesOf 8 0 ++ bytesOf 8 (1 + 1 * 2 ^ 16 + 1 * 2 ^ 24 + 3 * 2 ^ 32) ++ List.replicate 32 0, ?_⟩,
    ⟨bytesOf 8 atHost.toNat ++ bytesOf 8 (3 + 1 * 2 ^ 16 + 1 * 2 ^ 24 + 3 * 2 ^ 32) ++ List.replicate 32 0, ?_⟩, ?_⟩ <;>
  decide +kernel

/-- A member of a pod group on device 0 whose peer is device 1, on link 3. -/
def inPod (w : Option PodWait) : State :=
  { (withX 5 0).onSlot 0 fun x => { x with desc := { x.desc with podgrp := 7, podmask := 3 }, ctx := { x.ctx with podWait := w } } with
    podValid := true
    podrt := (RegFile.fill 6 0).put 1 8
    links := (RegFile.fill 4 (Link.cold true)).put 3 ⟨true, .active, 0, 0xFF, false, 1, 3, true, none⟩ }
theorem meets_PodCollectives : Ready (withX 5 0) (focusOn Cell.entry) [1] ∧ ((withX 5 0).slot 0).desc.podgrp = 0 ∧ (7 : BitVec 4).toNat ≤ 7 ∧
    (let w : PodWait := ⟨0x100, 1, 0, 0, 0, 9, some 4⟩
     let s := inPod (some w)
     Ready s (focusOn Cell.entry) [1] ∧ (s.slot 0).desc.podgrp ≠ 0 ∧ (s.slot 0).ctx.podWait = some w ∧
       w.pc = (focusOn Cell.entry).pc ∧ w.result = some 4) ∧
    (let w : PodWait := ⟨0x100, 1, 0, 0, 0, 9, none⟩
     ((inPod (some w)).slot 0).ctx.podWait = some w ∧ w.pc = (focusOn Cell.entry).pc ∧ w.result = none) ∧
    (let s := inPod none
     Ready s (focusOn Cell.entry) [1] ∧ (s.slot 0).ctx.podWait = none ∧ s.podValid = true ∧ s.peers (s.slot 0).desc.podmask ≠ [] ∧
     (s.slot 0).ctx.podIn = [] ∧ ∀ q ∈ s.peers (s.slot 0).desc.podmask, s.routes q ≠ []) ∧
    -- in no pod, and without a route
    (∀ s ∈ [{ inPod none with podValid := false }, { inPod none with podrt := RegFile.fill 6 0 }],
      (s.slot 0).desc.podgrp ≠ 0 ∧ (s.slot 0).ctx.podWait = none ∧
      ((s.peers (s.slot 0).desc.podmask).filter fun p => s.podValid == false || decide (s.routes p = [])) ≠ []) := by
  refine ⟨ready_withX _ _ _, by decide +kernel, by decide +kernel, ⟨⟨rfl, ?_⟩, ?_⟩, ?_, ⟨⟨rfl, ?_⟩, ?_⟩, ?_⟩ <;> decide +kernel


/-- The lane instructions ask nothing of the cells, only a type of their class: the classes' bounds, and the last lane. -/
theorem meets_laneForms : EveryCell (focusOn Cell.entry) anyCell ∧ tyI 8 = true ∧ tyI 15 = true ∧ tyL 0 = true ∧ tyL 15 = true ∧
    laneOk 8 (some 63) = true ∧ laneOk 15 (some 7) = true ∧ tyF 0 = true ∧ tyF 6 = true ∧ tyP 3 = true ∧ tyP 13 = true ∧
    tyX 5 = true ∧ partOk 0 3 = true ∧ partOk 5 7 = true ∧ cvtOk 1 5 1 0 3 = true ∧ cvtOk 6 1 0 7 7 = true :=
  ⟨everyCell_focusOn _ _ trivial, by decide +kernel⟩
theorem meets_VectorIntegers : (inHand Cell.entry).focus = some (focusOn Cell.entry) ∧ EveryCell (focusOn Cell.entry) anyCell ∧
    tyI 8 = true ∧ tyI 15 = true ∧ tyD 0 = true ∧ tyD 6 = true := ⟨rfl, everyCell_focusOn _ _ trivial, by decide⟩
theorem meets_ComparesAndMasks : (inHand Cell.entry).focus = some (focusOn Cell.entry) ∧ EveryCell (focusOn Cell.entry) anyCell ∧
    tyI 8 = true ∧ tyI 14 = true ∧ tyD 0 = true ∧ tyD 6 = true := ⟨rfl, everyCell_focusOn _ _ trivial, by decide⟩
theorem meets_LaneMovesAndReductions : (inHand Cell.entry).focus = some (focusOn Cell.entry) ∧
    EveryCell (focusOn Cell.entry) anyCell ∧ tyD 6 = true ∧ tyL 0 = true ∧ tyL 15 = true ∧ tyI 15 = true ∧ laneOk 8 (some 63) = true ∧
    laneOk 15 (some 7) = true ∧ laneOk 15 none = true := ⟨rfl, everyCell_focusOn _ _ trivial, by decide⟩
theorem meets_FloatSignBits : (inHand Cell.entry).focus = some (focusOn Cell.entry) ∧ EveryCell (focusOn Cell.entry) anyCell ∧
    tyF 0 = true ∧ tyF 6 = true := ⟨rfl, everyCell_focusOn _ _ trivial, by decide⟩
/-- A cell with a stack of `n` activity bits. -/
def stacked (n : Nat) : Cell := { Cell.entry with stack := List.replicate n true }
theorem meets_CellScalarsAndActivity : EveryCell (focusOn (stacked 7)) (fun _ p _ => p.stack.length ≠ 8) ∧
    EveryCell (focusOn (stacked 8)) (fun _ p _ => p.stack.length = 8) ∧ EveryCell (focusOn (stacked 1)) (fun _ p _ => p.stack ≠ []) ∧
    EveryCell (focusOn (stacked 0)) (fun _ p _ => p.stack = []) :=
  ⟨everyCell_focusOn _ _ (by decide +kernel), everyCell_focusOn _ _ (by decide +kernel), everyCell_focusOn _ _ (by decide +kernel),
    everyCell_focusOn _ _ (by decide +kernel)⟩

/-- An access of `k` bytes at `o`, aligned to `al`, lies within the scratchpad and outside the guarded ranges. -/
abbrev clearAt (p : Cell) (o : Int) (k al : Nat) : Prop :=
  0 ≤ o ∧ o + k ≤ 131072 ∧ o % al = 0 ∧ ∀ g ∈ p.guards, ¬(o ≤ g.hi ∧ (g.lo : Int) < o + k)
/-- A lane of a mask's is enabled. -/
abbrev onLane (p : Cell) (m : BitVec 3) (n i : Nat) : Prop := (p.getM m).getLsbD (n * i / 32) = true
/-- An active cell whose b3 names the last 64 bytes of the scratchpad, just past a guarded range; b4 is the stride 4 and
the limit 16 − 1 for the indices 0 to 15 of v5; v6 holds such indices below the limit. -/
def lastBytes : Cell :=
  { ((Cell.entry.setV 5 (lanes32 (List.range 16))).setV 6 (lanes32 (List.range 15))) with
    b := (Cell.entry.b.put 3 131008).put 4 15, guards := [⟨130000, 131007, 0, 1⟩] }
/-- An index is within the limit in b4. -/
def inLimit (p : Cell) (v : BitVec 5) (i : Nat) : Bool :=
  decide (0 ≤ sextN (lane 32 (p.getV v) i) 32 ∧ sextN (lane 32 (p.getV v) i) 32 < (p.getB 4).toNat)
/-- A cell whose b3 is 0 and whose m1 leaves out the lane below offset 0 of an access at −4. -/
def belowZero : Cell := { lastBytes with b := lastBytes.b.put 3 0, m := lastBytes.m.put 1 0xFFFE }
theorem meets_ScratchpadLoads : tyD 5 = true ∧ tyL 5 = true ∧ lastBytes.act = true ∧ Mem.wf lastBytes.pad = true ∧
    (let base : Int := (belowZero.getB 3).toNat + (-4 : BitVec 32).toInt
     base % 4 = 0 ∧ base < 0 ∧ ∀ i, i < 16 → onLane belowZero 1 32 i → clearAt belowZero (base + (32 * i / 8 : Nat)) 4 1) ∧
    (let p := lastBytes
     let base : Int := (p.getB 3).toNat
     base % 4 = 0 ∧ (∀ i, i < 16 → onLane p 0 32 i → clearAt p (base + (32 * i / 8 : Nat)) 4 1) ∧
     (∀ i, i < 16 → onLane p 0 32 i → clearAt p (base + i * 4) 4 4) ∧
     (∀ i, i < 16 → onLane p 0 32 i →
       inLimit p 5 i ∧ clearAt p (base + sextN (lane 32 (p.getV 5) i) 32 * 4) 4 4 ∨ ¬inLimit p 5 i) ∧
     clearAt p (base + 60) 4 4) := by
  refine ⟨rfl, rfl, rfl, rfl, ?_, ?_, ?_, ?_, ?_, ?_⟩ <;> decide +kernel
/-- Every lane's addition is exact but for the last indexed one, infinity − infinity, whose trap is enabled. -/
def trapping : Cell :=
  { lastBytes.setV 2 (lanes32 (List.replicate 14 0x3F800000 ++ [0xFF800000])) with pad := Mem.putBytes [] (131008 + 56) (bytesOf 4 0x7F800000) }
/-- Index i is i, so that no two agree. -/
theorem meets_ScratchpadStoresAndScatters : tyD 12 = true ∧ tyL 12 = true ∧ 12 ≤ (12 : BitVec 4).toNat ∧ lastBytes.act = true ∧
    Mem.wf lastBytes.pad = true ∧
    (let p := lastBytes
     let base : Int := (p.getB 3).toNat
     base % 4 = 0 ∧ (∀ i, i < 16 → onLane p 0 32 i → clearAt p (base + (32 * i / 8 : Nat)) 4 1) ∧
     clearAt p (base + 60) 4 4 ∧ (∀ i, i < 16 → onLane p 0 32 i → clearAt p (base + i * 4) 4 4) ∧
     (∀ i, i < 16 → onLane p 0 32 i →
       inLimit p 5 i ∧ clearAt p (base + sextN (lane 32 (p.getV 5) i) 32 * 4) 4 4 ∨ ¬inLimit p 5 i) ∧
     (∀ i, i < 16 → sextN (lane 32 (p.getV 5) i) 32 = (i : Int))) ∧
    (let ctl := FpCtl.ofWord 0xFFFFFFFF
     let p := trapping
     let raised := fun i => (fadd .fp32 ctl (p.pad.read (131008 + 4 * i) 4) (lane 32 (p.getV 2) i)).2 &&& ctl.enables
     p.act = true ∧ Mem.wf p.pad = true ∧ (∀ i, i < 14 → raised i = 0) ∧ raised 14 ≠ 0 ∧ inLimit p 5 14 ∧ ¬inLimit p 5 15) ∧
    (FpCtl.ofWord 0).enables = 0 := by
  refine ⟨rfl, rfl, by decide, rfl, rfl, ⟨?_, ?_, ?_, ?_, ?_, ?_⟩, ?_, ?_⟩ <;> decide +kernel

/-- The surroundings of the one cell in hand, with an FPCTL. -/
def envWith (fpctl : Xword) : Env := { envOf (focusOn Cell.entry) 0 0 with carried := ⟨1, fpctl, 0, 0, 0⟩ }
/-- A cell whose b3 and b2:b1 hold a base and an address word. -/
def addressed (base : Word) (a : Xword) : Cell :=
  { Cell.entry with b := ((Cell.entry.b.put 3 base).put 1 (a.truncate 32)).put 2 ((a >>> 32).truncate 32), guards := [⟨8, 11, 1, 7⟩] }
theorem meets_CellFaults :
    (let base := fun (p : Cell) (x : Int) => ((p.getB 3).toNat : Int) + x
     base (addressed 0 0) (-1) < 0 ∧ 131072 < base (addressed 131069 0) 0 + 4 ∧
     (let b := base (addressed 131066 0) 0; 0 ≤ b ∧ b + 4 ≤ 131072 ∧ b % 4 ≠ 0) ∧
     (let p := addressed 8 0; let g : GuardEntry := ⟨8, 11, 1, 7⟩
      g.lo ≤ g.hi ∧ g.hi < 131072 ∧ p.guards = [g] ∧ base p 0 ≤ g.hi ∧ (g.lo : Int) < base p 0 + 4 ∧ base p 0 % 4 = 0)) ∧
    -- the lanes of a contiguous access of 4-byte elements, and of one by the indices of v5
    (let on := fun (p : Cell) => (List.range 16).filter fun l => (p.getM 0).getLsbD (32 * l / 32)
     let off := fun (p : Cell) (l : Nat) => ((p.getB 3).toNat : Int) + (32 * l / 8 : Nat)
     let inside := fun (p : Cell) l => decide (0 ≤ off p l ∧ off p l + 4 ≤ 131072)
     let clear := fun (p : Cell) l => p.guards.all fun g => !decide (off p l ≤ g.hi ∧ (g.lo : Int) < off p l + 4)
     let past := lastBytes.setB 3 131012
     let skew := lastBytes.setB 3 131006
     let low := lastBytes.setB 3 130996
     tyD 5 = true ∧ tyL 5 = true ∧
     (15 ∈ on past ∧ (∀ l ∈ on past, l < 15 → inside past l = true ∧ clear past l = true) ∧ inside past 15 = false) ∧
     (0 ∈ on skew ∧ inside skew 0 = true ∧ (skew.getB 3).toNat % 4 ≠ 0) ∧
     (low.guards = [⟨130000, 131007, 0, 1⟩] ∧ inside low 0 = true ∧ clear low 0 = false ∧ (low.getB 3).toNat % 4 = 0) ∧
     (∀ l ∈ on lastBytes, l < 15 → inLimit lastBytes 5 l = true ∧ inside lastBytes l = true ∧ clear lastBytes l = true) ∧
     inLimit lastBytes 5 15 = false) ∧
    (let env := envWith 0xFFFFFFFF
     let p := vecs (lanes32 [0x3F800000, 0x7F800000]) (lanes32 [0x3F800000, 0xFF800000]) 0
     let q := vecs (lanes32 [0x3F800000, 0x7F800000]) (lanes32 [0x3F800000, 0]) 0
     let ctl := FpCtl.ofWord env.carried.fpctl
     tyF 5 = true ∧ p.act = true ∧ 1 ∈ (List.range 16).filter (fun k => (p.getM 0).getLsbD (32 * k / 32)) ∧
     (fadd (fmtF 5) ctl (lane 32 (p.getV 1) 1) (immFp 5 none (p.getV 2) 1)).2 &&& ctl.enables ≠ 0 ∧
     (fadd (fmtF 5) ctl (lane 32 (p.getV 1) 0) (immFp 5 none (p.getV 2) 0)).2 &&& ctl.enables = 0 ∧
     (fmul (fmtF 5) ctl (lane 32 (q.getV 1) 1) (immFp 5 none (q.getV 2) 1)).2 &&& ctl.enables ≠ 0 ∧
     (fmul (fmtF 5) ctl (lane 32 (q.getV 1) 0) (immFp 5 none (q.getV 2) 0)).2 &&& ctl.enables = 0) ∧
    (let env := envWith 0
     let a := fun (w : Xword) => addressOf (addressed 0 w) 1 0
     ¬GoodAddress env (a 0xC000000000000000) ∧ ¬GoodAddress env (a (0x8000000000000000 + 1600 * 2 ^ 39)) ∧
     GoodAddress env (a 0x800000000001FFFE) ∧ ¬InPad env (a 0x800000000001FFFE) 4 ∧
     GoodAddress env (a 0x8000000000000002) ∧ InPad env (a 0x8000000000000002) 4 ∧ (a 0x8000000000000002).toNat % 4 ≠ 0 ∧
     flagOf none = none) := by
  refine ⟨by decide +kernel, by decide +kernel, by decide +kernel, ?_⟩
  unfold GoodAddress InPad
  decide +kernel
theorem meets_VectorFloatLanes : tyF 0 = true ∧ tyF 5 = true ∧ tyF 6 = true ∧
    EveryCell (focusOn Cell.entry) (fun env _ _ => (FpCtl.ofWord env.carried.fpctl).enables = 0) ∧
    -- every trap enabled: lane 0 raises nothing, lane 1 a flag
    (let ctl := FpCtl.ofWord 0xFFFFFFFF
     let p := vecs (lanes32 [0x3F800000, 0x7F800000]) (lanes32 [0x3F800000, 0xFF800000]) 0
     p.act = true ∧ 0 ∈ (List.range 16).filter (fun k => (p.getM 0).getLsbD (32 * k / 32)) ∧
     1 ∈ (List.range 16).filter (fun k => (p.getM 0).getLsbD (32 * k / 32)) ∧
     (fadd .fp32 ctl (lane 32 (p.getV 1) 0) (immFp 5 none (p.getV 2) 0)).2 &&& ctl.enables = 0 ∧
     (fadd .fp32 ctl (lane 32 (p.getV 1) 1) (immFp 5 none (p.getV 2) 1)).2 &&& ctl.enables ≠ 0) :=
  ⟨rfl, rfl, rfl, everyCell_focusOn _ _ (by decide +kernel), by decide +kernel⟩
theorem meets_FloatPatternsAndConversions : tyF 5 = true ∧ tyP 3 = true ∧ tyP 13 = true ∧ tyX 0 = true ∧ partOk 0 3 = true ∧
    partOk 5 7 = true ∧ cvtOk 1 5 1 0 3 = true ∧ cvtOk 6 1 0 7 7 = true ∧
    EveryCell (focusOn Cell.entry) (fun env _ _ => (FpCtl.ofWord env.carried.fpctl).enables = 0) ∧
    (let ctl := FpCtl.ofWord 0xFFFFFFFF
     -- lane 0 raises nothing, lane 1 the invalid flag: a comparison with a NaN, a conversion of a signalling NaN, ∞ − ∞
     (fcmp .fp32 ctl 2 0x3F800000 0).2 &&& ctl.enables = 0 ∧ (fcmp .fp32 ctl 2 0x7FC00000 0).2 &&& ctl.enables ≠ 0 ∧
     (conv ctl .rne 5 1 false 0x3F800000).2 &&& ctl.enables = 0 ∧ (conv ctl .rne 5 1 false 0x7FA00000).2 &&& ctl.enables ≠ 0 ∧
     (treeSum .fp32 ctl 1 [some 0x3F800000, some 0x3F800000]).2 &&& ctl.enables = 0 ∧
     (treeSum .fp32 ctl 1 [some 0x7F800000, some 0xFF800000]).2 &&& ctl.enables ≠ 0 ∧
     (List.range 16).filter (fun k => ({ Cell.entry with m := Cell.entry.m.put 1 0 }.getM 1).getLsbD (32 * k / 32)) = []) :=
  ⟨rfl, rfl, rfl, rfl, rfl, rfl, by decide, by decide, everyCell_focusOn _ _ (by decide +kernel), by decide +kernel⟩
theorem meets_Accumulators : (2 : BitVec 2) ≠ 3 ∧ EveryCell (focusOn Cell.entry) anyCell ∧
    (let p := { Cell.entry with b := Cell.entry.b.put 3 130816, guards := [⟨130000, 130815, 0, 1⟩] }
     p.act = true ∧ clearAt p (p.getB 3).toNat 256 4 ∧ Mem.wf p.pad = true) ∧
    (let base := fun (x : Word) => ((addressed x 0).getB 3).toNat
     (addressed 0 0).act = true ∧ ¬(0 ≤ (base 0 : Int) - 4) ∧ ¬(base 130820 + 256 ≤ 131072) ∧
     base 130814 + 256 ≤ 131072 ∧ base 130814 % 4 ≠ 0) :=
  ⟨by decide, everyCell_focusOn _ _ trivial, by decide +kernel, by decide +kernel⟩

/-- A cell with two rings, of sides A and B, each with a tile of a format of a TMMA or a TMMA64 committed. -/
def fedCell (fmt : BitVec 4) (hold : Bool) (tail : BitVec 16) : Cell :=
  let a : Ring := ⟨0, 8, 4, hold, fmt, false, 0, tail, 0, false, false⟩
  let b : Ring := ⟨0x4000, 8, 4, hold, fmt, true, 0, tail, 0, false, false⟩
  { Cell.entry with q := (Cell.entry.q.put 1 a).put 2 b }
theorem meets_MatrixStart :
    ((Cell.entry.q.get 1).cap = 0 ∧ ((fedCell 0 false 1).q.get 1).cap ≠ 0 ∧ (Cell.entry.q.get 2).cap = 0) ∧
    (∀ tail : BitVec 16, tail < 2 → ∀ fmt : BitVec 4, (fmt = 0 ∨ fmt = 6) →
      let p := fedCell fmt false tail
      let a := p.q.get 1
      let b := p.q.get 2
      p.act = true ∧ a.cap ≠ 0 ∧ b.cap ≠ 0 ∧ a.side = false ∧ b.side = true ∧ a.fmt = fmt ∧ b.fmt = fmt ∧ a.hold = false ∧
      b.hold = false ∧ p.guards = [] ∧ (a.rp = a.tail ↔ tail = 0)) ∧
    (let p := fedCell 3 true 1
     let coat := fun (r : Ring) => if r.hold then (match r.fmt.toNat with | 3 => 0 | 4 => 0 | 1 => 1 | 2 => 1 | _ => 2) else 0
     coat (p.q.get 1) = max (max (0 : BitVec 2).toNat (bits (0 : Xword) 1 0)) (max (coat (p.q.get 1)) (coat (p.q.get 2)))) ∧
    -- no fit: the sides exchanged, a format of the other kind, a NARROW ring below the pass coat
    (let p := fedCell 0 false 1; (p.q.get 2).side ≠ false ∧ (p.q.get 2).cap ≠ 0 ∧ (p.q.get 1).cap ≠ 0 ∧ p.act = true) ∧
    (((fedCell 6 false 1).q.get 1).fmt = 6 ∧ ((fedCell 0 false 1).q.get 1).fmt ≠ 6) ∧
    (let r := (fedCell 3 true 1).q.get 1; r.hold = true ∧ r.fmt = 3 ∧ 0 < max (2 : BitVec 2).toNat 0) := by
  refine ⟨by decide +kernel, ?_, by decide +kernel, by decide +kernel, by decide +kernel, by decide +kernel⟩
  intro tail ht fmt hf
  have : tail = 0 ∨ tail = 1 := by
    have : tail.toNat < 2 := ht
    rcases Nat.lt_or_ge tail.toNat 1 with h | h
    · exact .inl (BitVec.eq_of_toNat_eq (by simp; omega))
    · exact .inr (BitVec.eq_of_toNat_eq (by simp; omega))
  rcases this with rfl | rfl <;> rcases hf with rfl | rfl <;> decide +kernel
theorem meets_Rings : EveryCell (focusOn Cell.entry) anyCell ∧
    EveryCell (focusOn Cell.entry) (fun _ p _ => p.act = true ∧ (p.q.get 1).cap = 0) ∧
    EveryCell (focusOn ringCell) (fun _ p q => Mem.wf q.pad = true ∧ (p.act = true → (p.q.get 1).cap ≠ 0)) :=
  ⟨everyCell_focusOn _ _ trivial, everyCell_focusOn _ _ (by decide +kernel), everyCell_focusOn _ _ (by decide +kernel)⟩

theorem meets_StreamCommandsLeave :
    (let env := envWith 0
     let a := addressOf (addressed 0 0x800000000001FFFC) 1 0
     GoodAccess env a 4 4 ∧ a.extractLsb' 62 2 = 2 ∧ (flagOf (some 0x13)).isSome = true) ∧
    (let env := envWith 0
     let a := addressOf (addressed 0 0x800000000001FFC0) 1 0
     GoodAccess env a 64 64 ∧ GoodAccess env a 8 8 ∧ GoodAccess env a 64 4 ∧ a.extractLsb' 62 2 = 2 ∧ a.extractLsb' 56 6 = env.dev) ∧
    GoodAccess (envWith 0) atHost 64 64 := by
  refine ⟨⟨?_, ?_⟩, ⟨?_, ?_, ?_, ?_⟩, ?_⟩
  all_goals try unfold GoodAccess GoodAddress InPad
  all_goals decide +kernel

/-- A cell whose b2:b1 holds the base `a` and b3 the limit 16, with the indices 0 to 15 in v5. -/
def gathering (a : Xword) (lim : Word) : Cell :=
  { (Cell.entry.setV 5 (lanes32 (List.range 16))) with
    b := ((Cell.entry.b.put 1 (a.truncate 32)).put 2 ((a >>> 32).truncate 32)).put 3 lim }
theorem meets_RegisterGathersAndScatters :
    (let p := gathering 0x800000000001FFC0 16
     let env := envWith 0
     let base := addressOf p 1 0
     (∀ t, t < 16 → 0 ≤ sextN (lane 32 (p.getV 5) t) 32 ∧ sextN (lane 32 (p.getV 5) t) 32 < (p.getB 3).toNat) ∧
     GoodAddress env base ∧ base.toNat % 4 = 0 ∧
     ∀ t, t < 16 → GoodAddress env (base + BitVec.ofInt 64 (sextN (lane 32 (p.getV 5) t) 32 * 2 ^ 2)) ∧
       InPad env (base + BitVec.ofInt 64 (sextN (lane 32 (p.getV 5) t) 32 * 2 ^ 2)) 4) ∧
    (let p := gathering 0x800000000001FFC0 15
     p.act = true ∧ ¬(sextN (lane 32 (p.getV 5) 15) 32 < (p.getB 3).toNat) ∧ GoodAddress (envWith 0) (addressOf p 1 0) ∧
     (addressOf p 1 0).toNat % 4 = 0 ∧
     ∀ t, t < 15 → 0 ≤ sextN (lane 32 (p.getV 5) t) 32 ∧ sextN (lane 32 (p.getV 5) t) 32 < (p.getB 3).toNat) := by
  unfold GoodAddress InPad
  decide +kernel

/-- A shape of 8 elements of 4 bytes ending at the end of the scratchpad, and one of 8 in handle 1. -/
def localShape : Shape := ⟨131040, (RegFile.fill 2 0).put 0 7, (RegFile.fill 2 0).put 0 1, 2⟩
def farShape : Shape := { localShape with base := atHost }
/-- A cell with both, its index list at 0, b2:b1 a base and b3 the limit. -/
def shaped : Cell := { gathering atHost 16 with h := (Cell.entry.h.put 2 localShape).put 3 farShape }
theorem localShape_inside (i0 i1 i2 i3 : Nat) (h0 : i0 < localShape.ext 0) (h1 : i1 < localShape.ext 1) (h2 : i2 < localShape.ext 2)
    (h3 : i3 < localShape.ext 3) : 0 ≤ (131040 : Int) + localShape.disp (i0, i1, i2, i3) ∧
      (131040 : Int) + localShape.disp (i0, i1, i2, i3) + 2 ^ localShape.esz.toNat ≤ 131072 := by
  have e0 : localShape.ext 0 = 8 := by decide +kernel
  have e1 : localShape.ext 1 = 1 := by decide +kernel
  have e2 : localShape.ext 2 = 1 := by decide +kernel
  have e3 : localShape.ext 3 = 1 := by decide +kernel
  rw [e0] at h0; rw [e1] at h1; rw [e2] at h2; rw [e3] at h3
  obtain rfl : i1 = 0 := by omega
  obtain rfl : i2 = 0 := by omega
  obtain rfl : i3 = 0 := by omega
  exact (by decide +kernel : ∀ i, i < 8 → 0 ≤ (131040 : Int) + localShape.disp (i, 0, 0, 0) ∧
    (131040 : Int) + localShape.disp (i, 0, 0, 0) + 2 ^ localShape.esz.toNat ≤ 131072) i0 h0
theorem meets_ShapedCommandsLeave :
    (let env := envWith 0
     let s := shaped.h.get 3
     let t := shaped.h.get 2
     s.esz = t.esz ∧ s.e = t.e ∧ t.base.toNat < 2 ^ 17 ∧ t.base.toNat = 131040 ∧ t = localShape ∧ t.base.toNat % 4 = 0 ∧
     GoodAddress env s.base ∧ s.base.toNat % 4 = 0 ∧ s.base.extractLsb' 62 2 ≠ 2) ∧
    (let env := envWith 0
     let t : Shape := { localShape with base := 0x800000000001FFE0 }
     t.base.extractLsb' 62 2 = 2 ∧ t.base.extractLsb' 56 6 = env.dev ∧ (t.base.extractLsb' 50 6).toNat = env.die ∧
     (t.base.extractLsb' 39 11).toNat = env.cell ∧ GoodAddress env t.base ∧ (t.base.extractLsb' 0 17).toNat = 131040 ∧
     ∀ k, t.disp k = localShape.disp k) ∧
    (let env := envWith 0
     let p := shaped
     (p.h.get 2).esz = 2 ∧ GoodAddress env (addressOf p 1 0) ∧ (addressOf p 1 0).toNat % 4 = 0 ∧
     (p.getB 4).toNat + 4 * (p.h.get 2).count ≤ 131072 ∧ (p.getB 4).toNat % 4 = 0) := by
  unfold GoodAddress
  exact ⟨by decide +kernel, ⟨by decide +kernel, by decide +kernel, by decide +kernel, by decide +kernel, by decide +kernel,
    by decide +kernel, fun _ => rfl⟩, by decide +kernel⟩

/-- A cell whose b2:b1 holds a vault address, bank 3, row 4095, burst 7, and its row registers. -/
def vaulting (row : Option (BitVec 12)) (b : Nat) : Cell :=
  let a : Xword := BitVec.ofNat 64 (3 * 2 ^ 62 + 3 * 2 ^ 34 + 4095 * 2 ^ 22 + b * 64)
  { Cell.entry with
    b := ((Cell.entry.b.put 1 (a.truncate 32)).put 2 ((a >>> 32).truncate 32)).put 3 131008, openRow := Cell.entry.openRow.put 3 row }
theorem meets_VaultCommandsLeave :
    (let a := fun (r : Option (BitVec 12)) (b : Nat) => addressOf (vaulting r b) 1 0
     let form := fun (w : Xword) => w.extractLsb' 62 2 = 3 ∧ w.extractLsb' 56 6 = 0 ∧ w.extractLsb' 36 3 = 0 ∧
       w.extractLsb' 9 13 = 0 ∧ w.extractLsb' 0 6 = 0
     form (a none 7) ∧ (vaulting none 7).openRow.get ((a none 7).extractLsb' 34 2) = none ∧
     (vaulting (some 4095) 7).openRow.get ((a (some 4095) 7).extractLsb' 34 2) = some ((a (some 4095) 7).extractLsb' 22 12) ∧
     (vaulting (some 1) 7).openRow.get ((a (some 1) 7).extractLsb' 34 2) ≠ some ((a (some 1) 7).extractLsb' 22 12) ∧
     (let p := (vaulting (some 4095) 7).getB 3
      p.toNat + 64 * (0 + 1) ≤ 131072 ∧ p.toNat % 4 = 0 ∧ ((a none 7).extractLsb' 6 3).toNat + (0 + 1) ≤ 8) ∧
     (∀ k, (vaulting none 7).openRow.get k = none) ∧ (∃ k, (vaulting (some 1) 7).openRow.get k ≠ none) ∧
     ((a none 7).extractLsb' 22 12).toNat + ((Cell.entry.b.put 3 1).get 3).toNat ≤ 4096) := by decide +kernel
theorem meets_ShapesMarksAndReductions :
    (∀ n < 2, let v := wrapN 32 (((Cell.entry.b.put 3 (BitVec.ofNat 32 (if n = 0 then 1 else 65536))).get 3).toNat + 0); 1 ≤ v ∧ v ≤ 65536) ∧
    wrapN 32 (((Cell.entry.b.put 3 8).get 3).toNat + 0) = 8 ∧
    (let env := envOf (focusOn Cell.entry) 0 0; env.die < env.n ∧ env.n ≤ 64 ∧ env.cell < 1600 ∧ (6 : BitVec 4).toNat ≤ 6) ∧
    (inHand Cell.entry).focus = some (focusOn Cell.entry) := by
  refine ⟨?_, ?_, ?_, rfl⟩ <;> decide +kernel


/-- A context in slot 0, RUNNING on die 0 and core 0, whose one die has the one cell `p`. -/
def running (p : Cell) (f : Ctx → Ctx) : State :=
  ({ booted with pdies := booted.pdies.put 0 { PDie.reset with owner := some 0 } } : State).onSlot 0 fun x =>
    { x with state := .running, core := some 0, h := 1, w := 1, ctx := f { x.ctx with dieMask := 1, dies := [{ Die.entry 0 with cells := [p] }] } }
/-- A beam-carried bundle as the history keeps it: a sync instruction and the slots' instructions. -/
def sentBundle (bsn : Nat) (ops : List (SlotName × Instr)) (sync : Option Instr) : HistEntry :=
  ⟨bsn, ⟨false, ops, sync, 2⟩, ⟨1, 0, 0, 0, 0⟩, none, none, none⟩

theorem meets_SyncWaits : (inHand Cell.entry).focus = some (focusOn Cell.entry) ∧ (focusOn Cell.entry).handler = false ∧
    (let f := { focusOn Cell.entry with handler := true, bsn := none }
     (booted.hand f).focus = some f ∧ f.handler = true ∧
     (f.windows.all fun w => f.bsn.isSome || w.pre.all fun c => !c.act || decide ((c.y.get 0 - 1).toNat < 2 ^ 15)) = false) ∧
    (let s := running Cell.entry fun y => { y with hist := [sentBundle 1 [] (some (.ywaitf 0 0))] }
     ((s.slot 0).ctx.dies[0]?).isSome = true ∧
     ((s.slot 0).ctx.hist.find? fun h => h.bsn == (Die.entry 0).done + 1) = some (sentBundle 1 [] (some (.ywaitf 0 0))) ∧
     (sentBundle 1 [] (some (.ywaitf 0 0))).carried.dieMask.getLsbD 0 = true ∧ s.held 0 = false ∧
     (sentBundle 1 [] (some (.ywaitf 0 0))).bundle.sync = some (.ywaitf 0 0) ∧ waitMet (.ywaitf 0 0) Cell.entry = true ∧
     waitMet (.ywaitf 0 1) Cell.entry = false ∧ Cell.entry.waited = none ∧ (focusOn Cell.entry).bsn = some 1 ∧
     ({ Cell.entry with waited := some 1 } : Cell).waited = some 1) ∧
    -- a fence of class 0 and a load of that class that has not been performed
    (let q : Cmd := ⟨2, 1, 0, some 1, none, 0, .load 0x8000000000000040 4, .sent, 0, [], 0, [], [], 0⟩
     let p := { Cell.entry with cmds := [q], fence := [(2, 1)] }
     let b : Bundle := ⟨false, [(.c0, .dld 2 4 5 0 0 0 40)], some (.yfence 1), 3⟩
     p.act = true ∧ (∃ o ∈ b.ops, o.1 = .c0 ∨ o.1 = .c1) ∧ (2, 1) ∈ p.fence ∧ q ∈ p.cmds ∧ (q.tl, q.num) = (2, 1) ∧
     (1 : BitVec 16).getLsbD q.cls.toNat = true ∧ q.st = .sent ∧ b.sync = some (.yfence 1)) :=
  ⟨rfl, rfl, by decide +kernel, by decide +kernel, by decide +kernel⟩

/-- A context that a waiting one in slot 1 asks to yield, its last BSN and a cell's bank as given. -/
def asked (bsn : Nat) (live : Bool) : State :=
  let p := { Cell.entry with acc := Cell.entry.acc.put 3 { BankState.entry with live := live } }
  ((running p fun y => { y with bsn := bsn }).onSlot 0 fun x => { x with request := some ⟨10, 1, 0⟩ }).onSlot 1 fun x => { x with state := .waiting }
theorem meets_PostsLocksBarriersMarksYields :
    (let f := focusOn Cell.entry; f.handler = false ∧ f.issuing = true ∧ f.bsn = some 1) ∧
    (let f := { focusOn Cell.entry with issuing := false }; f.handler = true ∨ f.issuing = false ∨ f.bsn = none) ∧
    (let f := { focusOn Cell.entry with handler := true, bsn := none }; f.issuing = true ∧ f.bsn = none) ∧
    (¬∃ r, ((withX 0 0).slot 0).request = some r) ∧
    (∃ r, ((asked 1 false).slot 0).request = some r ∧ ((asked 1 false).slot r.waiter).life = r.life ∧
      ((asked 1 false).slot r.waiter).state = .waiting) ∧
    (let y := ((asked 2 false).slot 0).ctx; y.dmin < y.sent) ∧
    (let y := ((asked 1 true).slot 0).ctx; y.sent ≤ y.dmin ∧ ∃ d ∈ y.dies, ∃ q ∈ d.cells, ∃ b, (q.acc.get b).live = true) ∧
    (let y := ((asked 1 false).slot 0).ctx; y.sent ≤ y.dmin ∧ ¬∃ d ∈ y.dies, ∃ q ∈ d.cells, ∃ b, (q.acc.get b).live = true) := by
  refine ⟨⟨rfl, rfl, rfl⟩, .inr (.inl rfl), ⟨rfl, rfl⟩, ?_, ⟨⟨10, 1, 0⟩, ?_⟩, ?_, ?_, ?_⟩
  · rintro ⟨r, h⟩
    exact absurd h (by revert h; rw [show ((withX 0 0).slot 0).request = none by decide +kernel]; exact fun h => nomatch h)
  all_goals decide +kernel

/-- A context that lacks the line of its pc, an address of handle 1, or one that no handle maps. -/
def fetching (pc : Xword) (tq : TqState) : State :=
  { withHandles (running Cell.entry fun y => { y with pc := pc }) with tq := { TrapQueue.reset with state := tq } }
theorem meets_BundlesAreFetched : (fetching atHost .disabled).wantsFetch 0 = true ∧
    (let a : Xword := BitVec.ofNat 64 (((fetching atHost .disabled).slot 0).ctx.pc.toNat / 64 * 64)
     ∃ r, (fetching atHost .disabled).fetchPlace a = .ok r ∧ r.host = true) ∧
    (let a : Xword := BitVec.ofNat 64 (((fetching atHbm .disabled).slot 0).ctx.pc.toNat / 64 * 64)
     ∃ r, (fetching atHbm .disabled).fetchPlace a = .ok r ∧ r.host = false ∧ r.pa + 64 ≤ 2 ^ 41) ∧
    (∀ q : TqState, (fetching atNone q).wantsFetch 0 = true) ∧
    (let a : Xword := BitVec.ofNat 64 (((fetching atNone .disabled).slot 0).ctx.pc.toNat / 64 * 64)
     (fetching atNone .disabled).fetchPlace a = .error .translationMiss ∧ (fetching atNone .disabled).tq.state = .disabled) ∧
    (let a : Xword := BitVec.ofNat 64 (((fetching atNone .active).slot 0).ctx.pc.toNat / 64 * 64)
     (fetching atNone .active).fetchPlace a = .error .translationMiss ∧ (fetching atNone .active).tq.state ≠ .disabled ∧
     (fetching atNone .active).parks.length < 4096) := by
  refine ⟨by decide +kernel, ⟨⟨true, 0, 64, none⟩, by decide +kernel⟩, ⟨⟨false, 0, 64, some (2, 0)⟩, by decide +kernel⟩, ?_,
    by decide +kernel, by decide +kernel⟩
  rintro (_ | _ | _) <;> decide +kernel

/-- A context that holds the line of its pc: these words, then zeros. -/
def holdingLine (ws : List Word) (f : Ctx → Ctx) : State :=
  { running Cell.entry fun y => f { y with pc := atHost, lines := [(atHost, ws ++ List.replicate (16 - ws.length) 0)] } with
    boot := { Boot.reset with pending := false, stage := .base } }
/-- ADDI x5, x0, 1; VADD.u32 v3, v1, v2; a header with an unassigned opcode in its S slot. -/
def addiWords : List Word := [0x01000000, 0x18280001]
def vaddWords : List Word := [0x02000000, 0x00D18440]
def illegalWords : List Word := [0x01000000, 0x7F000000]
theorem meets_StepRunsTheDecodedBundle :
    (∀ ws ∈ [[], addiWords, vaddWords, illegalWords],
      let s := holdingLine ws id
      let y := (s.slot 0).ctx
      s.issues 0 = true ∧ y.resending = false ∧ s.spawnWaits 0 ⟨false, [(.s, .spawn 1 2 0 0)], none, 2⟩ = false ∧
      (y.lines.find? fun l => l.1 == BitVec.ofNat 64 (y.pc.toNat / 64 * 64)) = some (atHost, ws ++ List.replicate (16 - ws.length) 0) ∧
      y.pc.toNat % 64 / 4 = 0 ∧ s.posted = [] ∧ s.inputs = []) ∧
    (match decodeBundle 0x01000000 [0x7F000000] with | .error _ => true | .ok _ => false) = true ∧
    (match decodeBundle 0x01000000 [0x18280001] with | .ok b => !isBeam b && (workOf b true).length == 1 | .error _ => false) = true ∧
    (match decodeBundle 0x02000000 [0x00D18440] with | .ok b => isBeam b && (workOf b true).length == 1 | .error _ => false) = true ∧
    (let y := ((holdingLine vaddWords id).slot 0).ctx; y.inHandler = false ∧ y.bsn ≤ y.qmin + 64 ∧ y.bsn ≤ y.dmin + 256) ∧
    (let s := holdingLine vaddWords fun y => { y with inHandler := true, bsn := 5 }
     let y := (s.slot 0).ctx
     y.inHandler = true ∧ ∀ b, decodeBundle 0x02000000 [0x00D18440] = .ok b → s.spawnWaits 0 b = false ∧
       (s.windows 0 y.dieMask none b).length = y.owing y.dieMask none) ∧
    enabled (holdingLine addiWords id) = [.bundleIssue 0] ∧
    (holdingLine addiWords id).refreshDue = none ∧
    (let s := { holdingLine addiWords id with inputs := [.event (.bundleIssue 0)] }
     s.posted = [] ∧ s.refreshDue = none ∧ s.inputs = .event (.bundleIssue 0) :: []) := by
  refine ⟨by decide +kernel, by decide +kernel, by decide +kernel, by decide +kernel, by decide +kernel, ⟨by decide +kernel, ?_⟩,
    by decide +kernel, by decide +kernel, rfl, by decide +kernel, rfl⟩
  intro b hb
  have : decodeBundle 0x02000000 [0x00D18440] = .ok ⟨false, [(.v0, .vadd 13 3 1 2 0 none)], none, 2⟩ := by decide +kernel
  rw [this] at hb
  cases hb
  decide +kernel

/-- A command of timeline `tl`, number 1 of it, and a cell that has sent it. -/
def aCmd (tl : BitVec 2) (op : CmdOp) (st : CmdSt) : Cmd := ⟨tl, 1, 0, some 1, none, 0, op, st, 0, [], 0, [], [], 0⟩
def sending (l : List Cmd) : Cell := { Cell.entry with cmds := l }
/-- The slice address of offset 0x40 of cell 0 of die 0 of device 0. -/
def onPad : Xword := 0x8000000000000040
theorem meets_BundlesRetire :
    (let f := { focusOn Cell.entry with sres := .wait }; (booted.hand f).focus = some f ∧ f.sres = .wait) ∧
    (let f := { focusOn Cell.entry with sres := .fault .illegalBundle 0 }; f.sres = .fault .illegalBundle 0) ∧
    (let f := { focusOn Cell.entry with bundle := ⟨false, [(.v0, .vadd 13 3 1 2 0 none)], none, 2⟩ }
     f.sres = .done ∧ f.issuing = true ∧ f.after = .none ∧ (f.bundle.ops.any fun o => isVault o.2) = false ∧ f.bsn = some 1 ∧
     (∀ w ∈ f.windows, w.faults = []) ∧ (f.windows.map (·.die)).Nodup) ∧
    (let f := { focusOn Cell.entry with carriedDown := false, bsn := none, windows := [], bundle := ⟨false, [(.s, .add 1 2 3)], none, 2⟩ }
     f.carriedDown = false ∧ f.bsn = none ∧ f.ahead = false ∧ f.sres = .done ∧ f.issuing = true ∧ f.after = .none ∧
     (f.bundle.ops.any fun o => isVault o.2) = false) ∧
    (∀ fixed : Bool, let y := ((running Cell.entry fun y => { y with fixed := fixed }).slot 0).ctx
      y.fixed = fixed ∧ (∀ d ∈ y.dies, d.cyc = y.cyc) ∧ y.cyc.toNat + 1 < 2 ^ 64) ∧
    (∀ mask : Xword, mask = 0 ∨ mask = 1 →
      let e : HistEntry := { sentBundle 1 [(.v0, .vadd 13 3 1 2 0 none)] none with carried := ⟨mask, 0, 0, 0, 0⟩ }
      let s := running Cell.entry fun y => { y with bsn := 2, hist := [e] }
      let y := (s.slot 0).ctx
      ∃ x, y.dies[0]? = some x ∧ (y.hist.find? fun h => h.bsn == x.done + 1) = some e ∧ s.mayRetire 0 0 e.bsn = true ∧
        e.carried.dieMask.getLsbD 0 = decide (mask = 1) ∧ 0 < (s.slot 0).n ∧ s.dieRuns 0 0 (some e.bsn) x = true ∧
        (∀ z ∈ y.dies, e.bsn ≤ z.done + 1) ∧ s.dieReady 0 0 (some e.bsn) e.bundle = true ∧
        (∀ q ∈ x.view (some e.bsn), q.waits e = false) ∧ x.lockLeft = 0 ∧ y.fixed = false) ∧
    -- an engine has written under a lock
    (let x : Die := { Die.entry 0 with cells := [{ Cell.entry with raced := [⟨2, 0x40, 7⟩] }], lockMask := 1, lockLeft := 1, lockOn := true }
     x.lockLeft ≠ 0 ∧ x.lockMask.getLsbD (0x40 / 4 % 16) = true) ∧
    -- the C slot of a bundle waits behind a fence, its V slot does not; a wait that is not met holds every slot
    (∀ sync ∈ [none, some (Instr.yfence 1), some (.ywaitf 0 1)],
      let q : Cmd := aCmd 2 (.load onPad 4) .sent
      let p := { Cell.entry with cmds := [q], fence := [(2, 1)], waited := none }
      let e : HistEntry := sentBundle 1 [(.v0, .vadd 13 3 1 2 0 none), (.c0, .dtlmark 1 0 0)] sync
      let s := running p fun y => { y with bsn := 2, hist := [e], dies := y.dies.map fun d => { d with deq := 1 } }
      let y := (s.slot 0).ctx
      ∃ x, y.dies[0]? = some x ∧ (y.hist.find? fun h => h.bsn == x.done + 1) = some e ∧ s.mayRetire 0 0 e.bsn = true ∧
        e.carried.dieMask.getLsbD 0 = true ∧ x.ahead = none ∧ x.fault = none ∧ y.freeze = none ∧ e.bsn ≤ x.deq ∧
        s.dieRuns 0 0 (some e.bsn) x = true ∧ (s.dieReady 0 0 (some e.bsn) e.bundle = false ∨ (∃ q ∈ x.view (some e.bsn), q.waits e = true)) ∧
        (∀ o ∈ e.bundle.ops, isActivity o.2 = false) ∧ p.hawk = [] ∧ p.tiles = []) := by
  refine ⟨⟨rfl, rfl⟩, rfl, by decide +kernel, by decide +kernel, by decide +kernel, ?_, by decide +kernel, ?_⟩
  · rintro m (rfl | rfl) <;> exact ⟨_, rfl, by decide +kernel⟩
  · intro y hy
    simp only [List.mem_cons, List.not_mem_nil, or_false] at hy
    rcases hy with rfl | rfl | rfl <;> exact ⟨_, rfl, by decide +kernel⟩

/-- A precise fault of cell 0 in bundle 3, and a context whose die raises it. -/
def aFault : DieFault := ⟨3, 0, .v0, ⟨.misaligned, 0xFF, 2⟩⟩
def faulting (f : Ctx → Ctx) : State :=
  running Cell.entry fun y => f { y with bsn := 5, dies := [{ Die.entry 0 with cells := [Cell.entry], done := 2, fault := some aFault, flag := true }] }
/-- The freeze it starts. -/
def aFreeze : Freeze := ⟨false, some 3, 4, 0x100, .misaligned, 0, some 0, some 0, 0xFF, 2⟩
theorem meets_TrapsAndHandlers :
    (let s := running Cell.entry fun y => { y with ybar := some 1 }
     (s.slot 0).ctx.ybar = some 1 ∧ s.held 0 = false ∧ ∀ z ∈ (s.slot 0).ctx.dies, 1 ≤ z.done + 1) ∧
    -- a YBAR at 2 whose bundle is masked for the die, which waits before it
    (let e : HistEntry := { sentBundle 2 [] (some .ybar) with carried := ⟨0, 0, 0, 0, 0⟩ }
     let y := ((running Cell.entry fun y => { y with
       ybar := some 2, bsn := 3, hist := [sentBundle 1 [] none, e], dies := y.dies.map fun d => { d with deq := 2 } }).slot 0).ctx
     (∀ z ∈ y.dies, ¬2 ≤ z.done + 1 ∧ 2 ≤ z.deq) ∧ (y.hist.find? fun e => e.bsn == 2) = some e ∧
     e.carried.dieMask.getLsbD 0 = false) ∧
    ((faulting id).held 0 = false ∧ ((faulting id).pdies.get (((faulting id).slot 0).phys 0)).tripped = false) ∧
    (∀ k < 2,
      let p : TreePend := ⟨4, .g 2, [], if k = 0 then none else some 7, false⟩
      let y := ((faulting fun y => { y with tree := [p], gPend := y.gPend.put 2 (some 4), freeze := some aFreeze }).slot 0).ctx
      y.freeze = some aFreeze ∧ y.tree = [p] ∧ p.dest = .g 2 ∧ y.gPend.get 2 = some p.tok ∧ (p.value = none ↔ k = 0)) ∧
    (let x := (faulting id).slot 0
     x.state = .running ∧ x.ctx.freeze = none ∧ x.ctx.inHandler = false ∧ (∃ z ∈ x.ctx.dies, z.flag = true) ∧
     (faulting id).held 0 = false ∧ x.ctx.firstFault = some (0, aFault)) ∧
    (∀ v : Xword, v = 0x4000010000000100 ∨ v = 0 →
      let s := faulting fun y => { y with freeze := some aFreeze, tvec := v, podWait := some ⟨0x100, 1, 0, 0, 0, 9, none⟩ }
      let x := s.slot 0
      s.held 0 = false ∧ x.ctx.dies ≠ [] ∧ (x.ctx.podWait.map (·.result)) = some none ∧
      x.ctx.freeze = some aFreeze ∧ (∀ w ∈ x.ctx.dies, x.ctx.stopOf aFreeze w ≤ w.done) ∧ aFreeze.forced = false ∧
      x.ctx.inHandler = false ∧ x.ctx.tvec = v ∧ x.ctx.resending = false ∧ x.ctx.dies.length ≤ 64 ∧ x.state = .running) ∧
    (let x := (running Cell.entry fun y => { y with inHandler := true }).slot 0; x.state = .running ∧ x.ctx.inHandler = true) ∧
    Cause.specialRegister ≠ Cause.softwareTrap ∧ ({ focusOn Cell.entry with after := .eret } : Focus).after = .eret := by
  refine ⟨by decide +kernel, by decide +kernel, by decide +kernel, by decide +kernel, by decide +kernel, ?_, by decide +kernel, by decide, rfl⟩
  rintro v (rfl | rfl) <;> decide +kernel

theorem meets_StreamsAndTimelines :
    (∀ op ∈ [CmdOp.store onPad [1, 2, 3, 4] (some 3), .store onPad [1, 2, 3, 4] none, .load onPad 4, .atom onPad false 0 1 0 0 none],
      ∀ st ∈ [CmdSt.sent, .held],
      let s := running (sending [aCmd 2 op st]) id
      (s.slot 0).ctx.cell? 0 0 = some (sending [aCmd 2 op st]) ∧ (sending [aCmd 2 op st]).cmd? 2 1 = some (aCmd 2 op st) ∧
      (aCmd 2 op st).done = 0 ∧ (aCmd 2 op st).stalls = [] ∧ s.engineRuns 0 0 = true) ∧
    (let s := running (sending [aCmd 2 (.load onPad 4) .sent]) id
     (match s.locate 0 0 onPad 4 .write with | .ok (.far _) => false | .ok _ => true | .error _ => false) = true ∧
     (match s.locate 0 0 onPad 64 .read with | .ok (.far _) => false | .ok _ => true | .error _ => false) = true ∧
     (match s.locate 0 0 onPad 4 .atomic with | .ok (.far _) => false | .ok _ => true | .error _ => false) = true) ∧
    (let l := [aCmd 2 (.store onPad [1] none) .held, { aCmd 2 (.load onPad 4) .sent with num := 2 }]
     (sending l).cmd? 2 2 = some { aCmd 2 (.load onPad 4) .sent with num := 2 } ∧
     ((sending l).cmds.any fun r => r.cls == 0 && decide (r.num < 2) && r.st != .complete &&
       (r.op.streamOf.any fun b => streamDest b.1 == streamDest onPad)) = true) ∧
    -- a store that passes from one page to the next
    (let page := fun (n : Nat) => (⟨n, 12, true, 4096 * n, true, true, true, true⟩ : Cached)
     let s := running (sending [aCmd 2 (.store 0xFFC (List.replicate 8 7) none) .sent]) id
     let s := { s with
       transl := { s.transl with rootEn := true }, pdies := s.pdies.put 0 { s.pdies.get 0 with cache := [page 0, page 1] } }
     partsOf 0xFFC 8 = [(0xFFC, 4), (0x1000, 4)] ∧ s.locate 0 0 0xFFC 4 .write = .ok (.mem [⟨true, 0xFFC, 4, none⟩]) ∧
     s.locate 0 0 0x1000 4 .write = .ok (.mem [⟨true, 0x1000, 4, none⟩])) ∧
    (partsOf onPad 64).length = 1 ∧
    (aCmd 2 (.load onPad 4) .refused).st = .refused ∧
    ((aCmd 2 (.load onPad 4) (.performed 7)).op.isStream = true ∧ (aCmd 2 (.load onPad 4) (.performed 7)).st = .performed 7) ∧
    (0 < 32 ∧ 2 ^ 32 - 1 < 2 ^ 32) ∧
    (let x := sending [aCmd 2 (.load onPad 4) .complete]
     ((x.cmds.filter fun q => q.tl == 2).map fun q => q.num).Nodup ∧ x.tl.get 2 ≤ 1 ∧
     (∀ m, x.tl.get 2 < m → m ≤ 1 → ∃ q ∈ x.cmds, q.tl = 2 ∧ q.num = m ∧ q.st = .complete) ∧
     ¬∃ q ∈ x.cmds, q.tl = 2 ∧ q.num = 2) := by
  refine ⟨by decide +kernel, by decide +kernel, by decide +kernel, ⟨by decide +kernel, by rfl, by rfl⟩, by decide +kernel, rfl, ⟨rfl, rfl⟩, by decide, ?_⟩
  refine ⟨by decide +kernel, by decide +kernel, ?_, by decide +kernel⟩
  intro m h0 h1
  obtain rfl : m = 1 := by
    have : (sending [aCmd 2 (.load onPad 4) .complete]).tl.get 2 = 0 := by decide +kernel
    omega
  decide +kernel

/-- A shape of one element of 4 bytes. -/
def oneWord (b : Xword) : Shape := ⟨b, RegFile.fill 2 0, (RegFile.fill 2 0).put 0 1, 2⟩
/-- A command at its engine: the parts performed, the indices and the words read. -/
def atEngine (op : CmdOp) (done : Nat) (buf : List Nat) (got : List (Nat × Nat)) : Cmd :=
  { aCmd 1 op .sent with done := done, buf := buf, got := got }
/-- The machine with that command sent. -/
def engine (q : Cmd) : State := running (sending [q]) id
/-- An access of a cell on die 0 is located on this device. -/
def isNear (s : State) (a : Xword) (n : Nat) (k : Access) : Bool :=
  match s.locate 0 0 a n k with | .ok (.far _) => false | .ok _ => true | .error _ => false
/-- A copy of one word from one place of a scratchpad to another, and a scratchpad form of a kind. -/
def copyWord : CmdOp := .copy (oneWord onPad) (oneWord 0x80) 0 false true
def formOf (kind : Nat) : CmdOp := .indexed kind onPad 16 0x100 (oneWord 0x80) 0
/-- The word of `onPad`, and of the cell's own offset 0x80. -/
def padWord : Nat := wordAt onPad
def ownWord : Nat := wordAt ((oneWord 0x80).own 0 0 0 0)
theorem meets_EnginesPerform :
    -- every stage of every engine: the command stands there and the engine runs
    (∀ q ∈ [atEngine copyWord 0 [] [], atEngine copyWord 0 [] [(padWord, 5)], atEngine copyWord 1 [] [(padWord, 5)],
        atEngine (.gather [none, some onPad] 2 4) 0 [] [], atEngine (.gather [none, some onPad] 2 4) 0 [] [(padWord, 5)],
        atEngine (.scatter [(3, onPad, 5)] 2 0 0) 0 [] [], atEngine (.scatter [(3, onPad, 5)] 2 0 0) 1 [] [],
        atEngine (.scatter [(3, onPad, 5)] 2 1 0) 0 [] [], atEngine (.scatter [(3, onPad, 5)] 2 1 0) 8 [] [],
        atEngine (formOf 0) 0 [] [], atEngine (formOf 0) 0 [onPad.toNat + 1] [], atEngine (formOf 0) 0 [onPad.toNat + 1] [(padWord, 5)],
        atEngine (formOf 1) 0 [onPad.toNat + 1] [], atEngine (formOf 1) 0 [onPad.toNat + 1] [(ownWord, 5)],
        atEngine (formOf 2) 0 [onPad.toNat + 1] [(ownWord, 5)], { atEngine (.vpre 3) 0 [] [] with st := .vault 0 }],
      ((engine q).slot 0).ctx.cell? 0 0 = some (sending [q]) ∧ (sending [q]).cmd? 1 1 = some q ∧ q.stalls = [] ∧
      (engine q).engineRuns 0 0 = true ∧ ((engine q).pdies.get (((engine q).slot 0).phys 0)).tripped = false ∧
      isNear (engine q) onPad 4 .read = true ∧ isNear (engine q) onPad 4 .write = true ∧
      isNear (engine q) ((oneWord 0x80).own 0 0 0 0) 4 .read = true ∧ isNear (engine q) ((oneWord 0x80).own 0 0 0 0) 4 .write = true ∧
      (engine q).barred 0 0 0x100 4 = false ∧
      (match (engine q).homeOf 0 0 onPad 4 .atomic with | .ok _ => true | .error _ => false) = true) ∧
    -- what is read next: nothing more once the word is there
    (let lacking := fun (q : Cmd) (ws : List Nat) => (ws.eraseDups.filter fun w => (q.word? w).isNone).head?
     let ps := copyPieces 0 0 0 (oneWord onPad) (oneWord 0x80) 0 false true
     (byWord ps).map (fun g => g.map fun p => wordAt p.1) = [[padWord]] ∧ spanOf (ps.map fun p => (p.1, 4)) padWord = (onPad, 4) ∧
     lacking (atEngine copyWord 0 [] []) [padWord] = some padWord ∧ lacking (atEngine copyWord 0 [] [(padWord, 5)]) [padWord] = none ∧
     (gatherReads [none, some onPad] 2).map (fun p => wordAt p.1) = [padWord] ∧ spanOf (gatherReads [none, some onPad] 2) padWord = (onPad, 4) ∧
     (indexReads 0 0 0 0 (oneWord 0x80) [onPad.toNat + 1]).map (fun p => wordAt p.1) = [padWord] ∧
     (∀ k ∈ [1, 2, 3], (indexReads 0 0 0 k (oneWord 0x80) [onPad.toNat + 1]).map (fun p => wordAt p.1) = [ownWord]) ∧
     (oneWord 0x80).count = 1) ∧
    -- what is written, and whether it is still to be
    ((atEngine copyWord 0 [] [(padWord, 5)]).left 0 0 0 1 = [0] ∧ (atEngine copyWord 1 [] [(padWord, 5)]).left 0 0 0 1 = [] ∧
     pieceRuns 4 [(5, onPad)] = [(onPad, [5, 0, 0, 0])] ∧ (scatterWords [(3, onPad, 5)] 2).map (pieceRuns 4) = [[(onPad, [5, 0, 0, 0])]] ∧
     -- of two elements at one address the second stands
     (scatterWords [(0, onPad, 5), (1, onPad, 6)] 2).map (pieceRuns 4) = [[(onPad, [6, 0, 0, 0])]] ∧
     ((gatherWords 0 0 0 (oneWord 0x80) (atEngine (formOf 0) 0 [onPad.toNat + 1] [(padWord, 5)])).map (pieceRuns 4)) =
       [[((oneWord 0x80).own 0 0 0 0, [5, 0, 0, 0])]] ∧
     indexElems 0 0 0 (oneWord 0x80) (atEngine (formOf 1) 0 [onPad.toNat + 1] [(ownWord, 5)]) = [(0, onPad, 5)]) ∧
    -- an addition that is to be sent, none left, and whether some wait
    (([(3, onPad, 5)] : List (Nat × Xword × Nat)).filter fun r => !(0 : Nat).testBit r.1) = [(3, onPad, 5)] ∧
    (([(3, onPad, 5)] : List (Nat × Xword × Nat)).filter fun r => !(8 : Nat).testBit r.1) = [] ∧ (partsOf onPad 4).length = 1 ∧
    (let q := atEngine (.scatter [(3, onPad, 5)] 2 1 0) 8 [] []
     let held := (engine q).onCtx 0 fun y => { y with adds := [⟨some 1, 0, 1, 3, onPad, .pad 0 0 0x40, 2, false, 5, 0⟩] }
     ((engine q).slot 0).ctx.hasAdds 0 0 q = false ∧ (held.slot 0).ctx.hasAdds 0 0 q = true) ∧
    ∀ seed k, openTurn seed 2 k < 2 := by
  refine ⟨by decide +kernel, by decide +kernel, by decide +kernel, by decide +kernel, by decide +kernel, by decide +kernel, by decide +kernel,
    fun _ _ => openTurn_lt _ _ _ (by decide)⟩

/-- Two additions of bundle 1 held at a scratchpad. -/
def twoAdds : List HeldAdd :=
  [⟨some 1, 0, 1, 3, onPad, .pad 0 0 0x40, 2, false, 5, 0⟩, ⟨some 1, 0, 1, 2, onPad, .pad 0 0 0x40, 2, true, 6, 0⟩]
theorem meets_OrderedAdditionsAndPermutations :
    (let s := running (sending [aCmd 1 (.scatter [(3, onPad, 5)] 2 1 0) .holding]) fun y => { y with
       adds := twoAdds, dies := y.dies.map fun d => { d with done := 1 } }
     let mine := (s.slot 0).ctx.adds.filter fun a => a.bsn.getD 0 == 1
     mine ≠ [] ∧ (s.slot 0).state ≠ .draining ∧ s.addsReady 0 1 = true ∧
     ∀ a ∈ mine, (match a.home with | .far _ => false | _ => true) = true) ∧
    ((running (sending [aCmd 2 (.perm onPad []) .sent]) fun y => { y with
       fixed := true, dies := y.dies.map fun d => { d with cyc := 127 } }).slot 0).ctx.permLate = true := by decide +kernel

/-- A cell with a landing of v3 due in cycle 9. -/
def landingCell (data : Option Vec) : Cell := { Cell.entry with hawk := [⟨.v 3, 9, 2, 1, data⟩] }
theorem meets_Landings :
    (∀ k < 2,
      let s := running (landingCell (if k = 0 then none else some 5)) id
      let y := (s.slot 0).ctx
      y.fixed = false ∧ (y.dies[0]?.bind (·.leastDue)) = some 9 ∧ (y.dies[0]?.map (·.frozen)) = some false ∧ s.clocked 0 0 = true) ∧
    (let d : Die := { Die.entry 0 with cells := [landingCell (some 5)], frozen := true }
     d.frozen = true ∧ ∀ q ∈ d.cells, ∀ h ∈ q.hawk, h.due = 9 → h.data.isSome = true) ∧
    (let t : TreePend := ⟨4, .g 2, [], some 7, false⟩
     let y := ((running Cell.entry fun y => { y with tree := [t], gPend := y.gPend.put 2 (some 4) }).slot 0).ctx
     (y.tree.find? fun p => p.value.isSome) = some t ∧ t.value = some 7 ∧ t.dest = .g 2 ∧ y.gPend.get 2 = some t.tok) ∧
    -- a later result is due in the same register
    (let t : TreePend := ⟨4, .g 2, [], some 7, false⟩
     let y := ((running Cell.entry fun y => { y with tree := [t, ⟨5, .g 2, [], none, false⟩], gPend := y.gPend.put 2 (some 5) }).slot 0).ctx
     (y.tree.find? fun p => p.value.isSome) = some t ∧ t.dest = .g 2 ∧ y.gPend.get 2 ≠ some t.tok) ∧
    (running Cell.entry id).held 0 = false ∧
    (let t : TreePend := ⟨4, .x 2, [], some 7, false⟩
     let y := ((running Cell.entry fun y => { y with tree := [t], xPend := y.xPend.put 2 (some 4) }).slot 0).ctx
     (y.tree.find? fun p => p.value.isSome) = some t ∧ t.value = some 7 ∧ t.dest = .x 2 ∧ y.xPend.get 2 = some t.tok) := by decide +kernel

/-- A vault command of number 1 of timeline 3. -/
def vaultCmd (op : CmdOp) (st : CmdSt) : Cmd := aCmd 3 op st
/-- The trap queue enabled. -/
def trapsOn (s : State) : State := { s with tq := { TrapQueue.reset with state := .active } }
theorem meets_VaultsPerform :
    (∀ q ∈ [vaultCmd (.vact 1 7) .sent, vaultCmd (.vrd 1 7 2 1 none) .sent] ++
        [0, 2, 3, 5].flatMap (fun f => [{ vaultCmd (.vrd 1 7 2 1 none) (.vault f) with buf := [10] },
          { vaultCmd (.vrd 1 7 2 1 (some 0x100)) (.vault f) with buf := [11] }, vaultCmd (.vwr 1 7 2 1 none [1]) (.vault f)]) ++
        [vaultCmd (.vrd 1 7 2 1 none) (.vault 4)],
      let s := engine q
      (s.slot 0).ctx.cell? 0 0 = some (sending [q]) ∧ (sending [q]).cmd? 3 1 = some q ∧ q.op.isVault = true ∧
      (∀ r ∈ (sending [q]).cmds, r.tl = 3 → ¬r.num < q.num) ∧ (s.pdies.get ((s.slot 0).phys 0)).tripped = false ∧
      s.refreshFirst ((s.slot 0).phys 0) 0 q.op = false ∧ s.burstBarred 0 0 q = false ∧ s.parks.length < 4096 ∧
      ((s.pdies.get ((s.slot 0).phys 0)).vault 0).spare.get (BitVec.ofNat 2 (2 * 0 + 1)) = none) ∧
    ((trapsOn booted).tq.state ≠ .disabled ∧ (10 : Nat) % 2 = 0 ∧ (11 : Nat) % 2 = 1) ∧
    (vaultCmd (.vrd 1 7 2 1 none) (.vault 4)).op.transfer = some (0, 1, 7, 2, 1) ∧ booted.selfRefreshing 0 = true ∧
    (let s := { (running Cell.entry id).onSlot 0 (fun x => { x with vbound := true }) with time := 32 * 10 ^ 9 }
     (s.pdies.get 0).owner = some 0 ∧ 0 < (s.slot 0).n ∧ (∀ e, e < (s.slot 0).n → (s.slot 0).phys e = 0 → e = 0) ∧
     s.selfRefreshing 0 = false ∧ (s.lateRow 0 0 7).isSome = true ∧ (∀ e ∈ (s.slot 0).pdies, (s.pdies.get e).holdTo ≤ s.time) ∧
     let t := { s with pdies := s.pdies.put 0 { s.pdies.get 0 with holdTo := s.time + 10 ^ 6 } }
     ∃ e ∈ (t.slot 0).pdies, t.time + 54 * 500 ≤ (t.pdies.get e).holdTo) ∧
    -- behind a read that leaves room, and one whose burst was found wrong before
    (vaultCmd (.vrd 0 7 2 1 none) (.vault 0)).op.spaced (.vrd 1 7 2 1 none) 0 = true ∧
    (∀ double : Bool, let v : Vault := { Vault.blank 0 with wrong := [⟨1, 7, 2, 1, 0, double⟩] }
      (v.wrong.find? fun u => u.bank == 1 && u.row == 7 && u.burst == 2) = some ⟨1, 7, 2, 1, 0, double⟩) := by
  refine ⟨?_, ?_, ?_, ?_, ?_, ?_, ?_⟩
  case refine_5 =>
    refine ⟨?_, ?_, ?_, ?_, ?_, ?_, ?_⟩ <;> decide +kernel
  all_goals decide +kernel

/-- A tile at a coat, of two WIDE FP32-fed rings, and a cell with it alone. -/
def aTile (st : TileSt) (coat : Nat) (sat : Nat) : Tile :=
  ⟨1, 1, 0, false, some 1, 1, 2, (fedCell 0 false 1).q.get 1, (fedCell 0 false 1).q.get 2, 0, 0, true, true, coat, 2, 0x8, 0, 0, [], [], ⟨sat, 0, 0⟩,
    false, false, 0, 0, 0, 0, st⟩
def tiled (t : Tile) (fixed : Bool) : State :=
  running { fedCell 0 false 1 with tiles := [t] } fun y => { y with
    fixed := fixed, dies := y.dies.map fun d => { d with done := 1 } }
theorem meets_TilesAndTwins :
    (∀ t ∈ [aTile .passing 0 1, aTile .passing 2 1, aTile .passing 0 0, aTile .squashed 0 1, aTile .ready 0 0,
        { aTile .squashed 0 1 with ra := { (aTile .squashed 0 1).ra with hold := true, fmt := 3 } }],
      ∀ fixed, ((tiled t fixed).slot 0).ctx.cell? 0 0 = some { fedCell 0 false 1 with tiles := [t] } ∧ ((tiled t fixed).slot 0).ctx.fixed = fixed ∧
        ((tiled t fixed).slot 0).ctx.tiles = [t] ∧ t.fp64 = false ∧ t.qa ≠ t.qb ∧ (tiled t fixed).tileRuns 0 0 = true ∧
        Mem.wf t.pad = true ∧ t.ra.base.toNat % 4 = 0 ∧ t.rb.base.toNat % 4 = 0 ∧ t.awaitsImage = false ∧ (tiled t fixed).tripped 0 = false ∧
        ((tiled t fixed).slot 0).ctx.allTook t.bsn = true) ∧
    -- among others: a tile passes behind one that is squashed, retires before one that replays, replays before one squashed
    (let on := fun (l : List Tile) => running { fedCell 0 false 1 with tiles := l } id
     let at_ := fun (k : Nat) (t : Tile) => { t with id := k }
     let replaying := { aTile .passing 1 1 with id := 0, rep0 := 1 }
     (∀ u ∈ [at_ 0 (aTile .squashed 0 1), at_ 2 (aTile .passing 0 1)], u.id ≠ (aTile .passing 0 1).id) ∧
     (at_ 0 (aTile .squashed 0 1)).st ≠ .passing ∧ replaying.id ≠ (aTile .ready 0 0).id ∧
     (∀ u ∈ [replaying], u.st ≠ .ready ∧ (u.st = .passing → u.rep0 + u.rep1 ≠ 0)) ∧
     (∀ u ∈ [at_ 2 (aTile .squashed 0 1)], u.st = .squashed) ∧
     ((on [replaying, aTile .ready 0 0]).slot 0).ctx.cell? 0 0 = some { fedCell 0 false 1 with tiles := [replaying, aTile .ready 0 0] } ∧
     (on [replaying, aTile .ready 0 0]).tileRuns 0 0 = true) ∧
    (∀ fp64 : Bool, ({ aTile .ready 0 0 with fp64 := fp64 } : Tile).fp64 = fp64) ∧
    (let t := aTile .passing 0 1; bits t.budget 7 0 ≠ 255 ∧ bits t.budget 7 0 < t.mon.sat ∧ t.coat < t.top) ∧
    (let t := aTile .passing 2 1; bits t.budget 7 0 < t.mon.sat ∧ t.top ≤ t.coat) ∧
    (let t := aTile .passing 0 0; ¬(bits t.budget 7 0 < t.mon.sat) ∧ ¬(bits t.budget 15 8 < t.mon.ufl) ∧ ¬(bits t.budget 23 16 < t.mon.can)) ∧
    (let t := aTile .squashed 0 1; t.ra.hold = false ∧ t.rb.hold = false) ∧
    (let t := { aTile .squashed 0 1 with ra := { (aTile .squashed 0 1).ra with hold := true, fmt := 3 } }
     (t.ra.hold && decide ((TileFmt.ofCode t.ra.fmt).coat < t.coat + 1)) = true) ∧
    (let t := aTile (.fetching true false) 1 1
     t.st = .fetching true false ∧ ((tiled t false).pdies.get (((tiled t false).slot 0).phys 0)).tripped = false ∧
     (let p := { (fedCell 0 false 1) with tiles := [t], pad := Mem.putBytes [] 0xA00 (bytesOf 8 atHost.toNat) }
      let s := withHandles (running p id)
      let ptr : Xword := BitVec.ofNat 64 (p.pad.read (t.ra.base.toNat + 64 * t.ra.tsz.toNat * t.ra.cap.toNat + 512 + 8 * t.sa) 8)
      ptr = atHost ∧ ptr.extractLsb' 62 2 = 1 ∧ ptr.extractLsb' 52 10 = 0 ∧ s.barred 0 0 2048 320 = false ∧
      (match s.resolve ((s.slot 0).phys 0) (ptr + BitVec.ofNat 64 0) 320 .read with | .ok _ => true | .error _ => false) = true) ∧
     ¬((0 : Xword).extractLsb' 62 2 = 1)) := by decide +kernel


/-- Queue 3 of 16 packets at 0x1000, its HEAD 62, in a state, with something staged; the ring holds `b` at HEAD. -/
def queued (x : Queue → Queue) (b : List Byte) : State :=
  { booted with
    queues := booted.queues.put 3 (x { Queue.reset with base := 1, state := .active, head := 62, tail := 63 })
    host := Mem.putBytes [] (0x1000 + 64 * 14) b }
/-- 64 bytes of a packet: its type and 8-byte words from byte 16. -/
def packet (type : Nat) (l : List Nat) : List Byte :=
  bytesOf 16 type ++ (l.flatMap (bytesOf 8)) ++ List.replicate (48 - 8 * l.length) 0
/-- A LAUNCH from handle 1 with the save handle of a number. -/
def launchPacket (saveh : Nat) : List Byte := packet 1 [atHost.toNat, saveh + 1 * 2 ^ 16 + 1 * 2 ^ 24 + 3 * 2 ^ 32]
theorem meets_QueuesTakePackets :
    (∀ st ∈ [QueueState.idle, .active, .blocked], st = .idle ∨ st = .active ∨ st = .blocked) ∧
    (let x := (queued id []).queues.get 3
     (queued id []).hostOpen = true ∧ ({ queued id [] with resetRun := some ⟨true, 1, 0, false, [], false⟩ } : State).hostOpen = false ∧
     x.state ≠ .disabled ∧ x.state ≠ .destroying ∧ (queued id []).d3hot = false ∧ (x.tail - x.head).toNat = 1 ∧
     ((78 : BitVec 32) - x.head).toNat ≤ 2 ^ x.size.toNat ∧ 2 ^ x.size.toNat < ((79 : BitVec 32) - x.head).toNat ∧
     ((62 : BitVec 32) - x.head).toNat < (x.tail - x.head).toNat ∧ x.staged = .empty ∧ x.head ≠ x.tail ∧ x.state = .active) ∧
    (let b := fun (l : List Byte) => (queued id l).rdMem true (0x1000 + 64 * (62 % 2 ^ 4)) 64
     packetLegal (b []) 0 = false ∧ packetLegal (b (packet 6 [7])) 0 = true ∧ fieldOf (b (packet 6 [7])) 0 1 ≠ 1 ∧
     packetLegal (b (launchPacket 1)) 0 = true ∧ fieldOf (b (launchPacket 1)) 0 1 = 1 ∧
     (queued id (launchPacket 1)).handlesValid (descOf ((b (launchPacket 1)).drop 16)) = false ∧
     (withHandles (queued id (launchPacket 1))).handlesValid (descOf ((b (launchPacket 1)).drop 16)) = true) ∧
    (let p : Posted := ⟨some ⟨3, 62, 6, 0, 0x40, false⟩, none, 0x40, [], none, some (4, 0)⟩
     (({ queued id [] with posted := [p] } : State).posted.find? fun p => p.queue.any fun k => k.queue == 3) = some p) := by decide +kernel

/-- Queue 3 with a packet staged at HEAD. -/
def staged (b : List Byte) (f : Queue → Queue) : State := queued (fun x => f { x with staged := .bytes b }) b
/-- SPAWN x1, x2. -/
def spawnWord : Word := 0x44088000
theorem meets_PacketsAct :
    (let b := launchPacket 1
     let s := staged b id
     (s.queues.get 3).state = .active ∧ (s.queues.get 3).staged = .bytes b ∧ fieldOf b 0 1 = 1 ∧ s.launches = [] ∧
     (∀ k, s.spawnReady k = false) ∧
     (s.slot 0).state = .free ∧ (∀ k : BitVec 4, ¬k.toNat < (0 : BitVec 4).toNat)) ∧
    -- behind a LAUNCH of queue 4, of the same priority and staged before it
    (let s := staged (launchPacket 1) fun x => { x with state := .blocked, since := 9 }
     let s := { s with queues := s.queues.put 4 { s.queues.get 3 with since := 5 } }
     ¬∀ l ∈ s.launches, l.1 = 3 ∨ ¬((descOf ((launchPacket 1).drop 16)).prio.toNat < l.2.1 ∨
       (l.2.1 = (descOf ((launchPacket 1).drop 16)).prio.toNat ∧ l.2.2 < (s.queues.get 3).since))) ∧
    (∀ c, (({ staged (launchPacket 1) id with slots := RegFile.fill 4 { Slot.blank with state := .running } } : State).slot c).state ≠ .free) ∧
    (let b := packet 2 [5, 1, 1]
     let s := { staged b fun x => { x with state := .blocked } with time := 10 ^ 9 }
     let x := s.queues.get 3
     x.state = .blocked ∧ x.staged = .bytes b ∧ fieldOf b 0 1 = 2 ∧ x.met = false ∧ fieldOf b 32 4 = 1 ∧
     fieldOf b 32 4 * 10 ^ 9 ≤ s.time - x.since) ∧
    ((staged (packet 2 [5, 1, 1]) fun x => { x with met := true }).queues.get 3).met = true ∧
    (∀ t ∈ [3, 4, 5, 6], let b := packet t [5, 1]
      fieldOf b 0 1 = t ∧ ((staged b id).queues.get 3).staged = .bytes b ∧ ((staged b id).queues.get 3).copies = [] ∧
      (staged b id).families = []) ∧
    (let s := { staged (packet 5 []) id with families := [⟨1, ⟨3, 61, 1, 0, 0, false⟩, 0, 1, 0, none, false⟩] }
     ∃ f ∈ s.families, f.pkt.queue = 3 ∧ f.gone = false) ∧
    -- a family that a destroyed queue has left, and a SPAWN that issues next
    (let s := { staged (packet 5 []) id with families := [⟨1, ⟨3, 61, 1, 0, 0, false⟩, 0, 1, 0, none, true⟩] }
     ∀ f ∈ s.families, f.pkt.queue = 3 → f.gone = true) ∧
    (holdingLine [0x01000000, spawnWord] id).spawnReady 0 = true := by
  refine ⟨?_, ?_, ?_, ?_, ?_, ?_, ⟨_, List.mem_singleton.mpr rfl, rfl, rfl⟩, ?_, ?_⟩ <;> decide +kernel

/-- A copy of 8 bytes from one address to another, in flight. -/
def aCopy (src dst : Xword) (sb db : Bool) : HostCopy := ⟨⟨3, 61, 4, 0, 0x40, false⟩, src, dst, 8, sb, db, false⟩
/-- The machine with that copy, and handles. -/
def copying (k : HostCopy) : State := withHandles (queued (fun x => { x with copies := [k] }) [])
theorem meets_QueuesAndCopies :
    (∀ k ∈ [aCopy 0x100 0x200 true true, aCopy atHost 0x200 false true, aCopy 0x100 atHost true false, aCopy atNone 0x200 false true],
      (((copying k).queues.get 3).copies.find? fun k => k.pkt.index == 61) = some k ∧ k.written = false ∧ (copying k).transl.relocRun = none) ∧
    (let k := aCopy 0x100 0x200 true true; k.srcBus = true ∧ k.dstBus = true ∧ k.len ≠ 0 ∧ (copying k).copyClash k k.len = false) ∧
    (let k := aCopy 0x100 atHost true false
     handleOf k.dst ≠ 0 ∧ k.len ≤ min ((copying k).copyReach k.srcBus false k.src k.len) ((copying k).copyReach k.dstBus true k.dst k.len)) ∧
    (let k := aCopy atNone 0x200 false true
     min ((copying k).copyReach k.srcBus false k.src k.len) ((copying k).copyReach k.dstBus true k.dst k.len) < k.len) ∧
    (let k := aCopy 0x100 0x4000000000000000 true false
     k.dstBus = false ∧ handleOf k.dst = 0 ∧
       k.len ≤ min ((copying k).copyReach k.srcBus false k.src k.len) ((copying k).copyReach k.dstBus true k.dst k.len)) ∧
    (booted.hostOpen = true ∧ (booted.queues.get 3).state = .disabled) ∧
    (∀ e : BitVec 4, (e = 1 ∨ e = 2 ∨ e = 4 ∨ e = 5 ∨ e = 3 ∨ e = 6 ∨ e = 7) →
      let x := (queued (fun x => { x with state := .error, errcode := e }) []).queues.get 3
      x.state = .error ∧ x.errcode = e ∧ x.state ≠ .disabled ∧ x.state ≠ .destroying) ∧
    (let s := ((queued id []).onSlot 5 fun x => { x with state := .running, queue := 3 })
     (s.slot 5).queue = 3 ∧ (s.slot 5).state ≠ .free ∧ (s.slot 5).state ≠ .draining ∧ (s.slot 5).state ≠ .ending) ∧
    (let s := queued (fun x => { x with state := .destroying }) []
     (s.queues.get 3).state = .destroying ∧ ∀ c, (s.slot c).queue = 3 → (s.slot c).state = .free) ∧
    (let s := { (queued id []).onSlot 5 (fun x => { x with state := .draining, queue := 3 }) with
       tq := { TrapQueue.reset with state := .active, fatal := [⟨4, .watchdog, 5, 0⟩] } }
     (s.slot 5).state = .draining ∧ s.fatalWaits 5 = true) ∧
    (let b := packet 2 [5, 1, 1]; fieldOf b 0 1 = 2 ∧ fieldOf b 16 2 = (5 : BitVec 8).toNat ∧ fieldOf b 24 8 ≤ (1 : Xword).toNat) := by
  refine ⟨?_, ?_, ?_, ?_, ?_, ?_, ?_, ?_, ?_, ?_, ?_⟩
  case refine_7 => rintro e (rfl | rfl | rfl | rfl | rfl | rfl | rfl) <;> decide +kernel
  all_goals decide +kernel

/-- Slot 0 waits for between `lo` and `hi` dies at priority 3. -/
def waitingFor (lo hi : Nat) : State :=
  ({ booted with schedDue := true, time := 10 ^ 9 } : State).onSlot 0 fun x =>
    { x with state := .waiting, prio := 3, desc := { x.desc with mindie := lo, maxdie := hi } }
/-- Every die belongs to the context in slot 1, which runs; slot 0 waits for all of them. -/
def crowded : State :=
  { (waitingFor 64 64).onSlot 1 fun x => { x with state := .running, h := 8, w := 8 } with
    pdies := RegFile.fill 6 { PDie.reset with owner := some 1 } }
/-- Slot 1 is STEPPING on all 64 dies, between `lo` and 64; slot 0 waits for 8 of them. -/
def shrinking (lo : Nat) (vbound : Bool) : State :=
  { (waitingFor 8 8).onSlot 1 fun x =>
      { x with state := .stepping, h := 8, w := 8, vbound := vbound, core := some 0, desc := { x.desc with mindie := lo, maxdie := 64 } } with
    pdies := RegFile.fill 6 { PDie.reset with owner := some 1 } }
/-- Slot 1 is STEPPING on die 0 and may grow to two. -/
def growing (hi : Nat) : State :=
  ({ booted with pdies := booted.pdies.put 0 { PDie.reset with owner := some 1 } } : State).onSlot 1 fun x =>
    { x with state := .stepping, h := 1, w := 1, core := some 0, desc := { x.desc with mindie := 1, maxdie := hi } }
theorem meets_DiesAreAllocated :
    (booted.resetRun = none ∧ (waitingFor 1 1).schedDue = true) ∧ (waitingFor 65 65).placeable 0 = false ∧
    (let s := waitingFor 64 64
     s.placeable 0 = true ∧ s.candidate 0 s.dieFree = some ⟨0, 0, 8, 8⟩ ∧ s.freeCores ≠ [] ∧ (s.slot 0).state = .waiting) ∧
    (let s := (waitingFor 1 1).onSlot 0 fun x => { x with state := .saved, h := 8, w := 8 }
     s.placeable 0 = true ∧ s.candidate 0 s.dieFree = some ⟨0, 0, 8, 8⟩ ∧ (s.slot 0).state = .saved) := by
  refine ⟨?_, ?_, ?_, ?_⟩ <;> decide +kernel
/-- The first part of the example of R101: B's 24 dies of rows 4 to 7 are 4 by 6. -/
theorem meets_DiesAreAllocated_example :
    (waitingFor 12 24).candidate 0 (fun p => decide (32 ≤ p.toNat)) = some ⟨4, 0, 4, 6⟩ := by decide +kernel
theorem meets_DiesAreAllocated_victims : crowded.pickVictims 0 [] (crowded.victims 0) = [1] := by decide +kernel
theorem meets_DiesAreAllocated_step :
    (let x := (shrinking 56 false).slot 1
     x.state = .stepping ∧ x.savable .step = true ∧ (shrinking 56 false).asked 1 = none ∧ (shrinking 56 false).held 1 = false ∧ x.ctx.anyLive = false ∧ x.vbound = false) ∧
    ((shrinking 56 true).slot 1).vbound = true ∧
    (let s := ((growing 1).onSlot 0 fun x => { x with state := .waiting }).onSlot 1 fun x => { x with request := some ⟨10, 0, 0⟩ }
     (s.asked 1).isSome = true) := by
  refine ⟨?_, ?_, ?_⟩ <;> decide +kernel
theorem meets_DiesAreAllocated_shrink : (shrinking 56 false).shrinkTo 1 = some ⟨0, 0, 7, 8⟩ := by decide +kernel
theorem meets_DiesAreAllocated_grow : (growing 2).shrinkTo 1 = none ∧ (growing 2).growTo 1 = some ⟨0, 0, 1, 2⟩ ∧
    (growing 1).shrinkTo 1 = none ∧ (growing 1).growTo 1 = none := by
  refine ⟨?_, ?_, ?_, ?_⟩ <;> decide +kernel

/-- A context of one die with the save handle `h`, changed as said. -/
def savingIn (h : BitVec 12) (f : Slot → Slot) : State :=
  withHandles ((running Cell.entry id).onSlot 0 fun x => f { x with desc := { x.desc with saveh := h } })
theorem meets_ContextsAreSavedAndRestored :
    (∀ b : Bool,
      let s := ((running Cell.entry fun y => { y with inHandler := b }).onSlot 0 fun x => { x with request := some ⟨0, 1, 0⟩ }).onSlot 1
        fun x => { x with state := .waiting }
      s.asked 0 = some ⟨0, 1, 0⟩ ∧ (s.slot 0).state = .running ∧ (s.slot 0).save = none ∧ (s.slot 0).ctx.freeze = none ∧ 0 ≤ s.time ∧ (s.slot 0).ctx.inHandler = b) ∧
    (∀ b : Bool,
      let s := savingIn 1 fun x => { x with state := .saving, save := some .yield, vbound := b }
      let x := s.slot 0
      x.state = .saving ∧ x.save = some .yield ∧ x.savable .yield = true ∧ s.saveHeld x = false ∧ x.vbound = b ∧
      s.savePlace x 0 (saveSize x.n) .write = .ok ⟨true, 0, 226230272, none⟩) ∧
    (let s := savingIn 3 fun x => { x with state := .saving, save := some .yield }
     s.savePlace (s.slot 0) 0 (saveSize (s.slot 0).n) .write = .error .translationMiss) ∧
    (let s := savingIn 1 fun x => { x with state := .restoring }
     let x := s.slot 0
     x.state = .restoring ∧ s.saveHeld x = false ∧ x.ctx.rounds = [] ∧
     s.savePlace x 0 (saveSize x.n) .read = .ok ⟨true, 0, 226230272, none⟩) ∧
    (let s := savingIn 3 fun x => { x with state := .restoring }
     s.savePlace (s.slot 0) 0 (saveSize (s.slot 0).n) .read = .error .translationMiss) ∧
    (let x := (running Cell.entry id).slot 0; x.holds = true ∧ x.issueSince + x.regionIndex 0 * x.ctx.stagger.toNat * 50000 ≤ 0) := by
  decide +kernel
theorem meets_ContextsEnd :
    (∀ st ∈ [SlotState.waiting, .running, .saved], let x := ((running Cell.entry id).onSlot 0 fun x => { x with state := st }).slot 0
      x.state ≠ .free ∧ x.state ≠ .draining ∧ x.state ≠ .ending) ∧
    (booted.slot 0).state = .free ∧ booted.hostOpen = true ∧
    (let s := { running Cell.entry id with time := 10 ^ 12 }
     (s.slot 0).state = .running ∧ s.tq.wdms ≠ 0 ∧ s.tq.wdms.toNat * 10 ^ 9 ≤ s.time - (s.slot 0).progress ∧ (∀ p ∈ s.parks, p.slot ≠ 0) ∧
     (s.slot 0).ctx.podWait = none) ∧
    Cause.linkLoss ∈ fatalCauses ∧
    (let s := (running Cell.entry id).onSlot 0 fun x => { x with state := .draining }; (s.slot 0).state = .draining ∧ s.fatalWaits 0 = false) ∧
    (let s := { (running Cell.entry id).onSlot 0 (fun x => { x with state := .draining }) with
       tq := { TrapQueue.reset with state := .active, fatal := [⟨4, .watchdog, 0, 0⟩] } }
     (s.slot 0).state = .draining ∧ s.fatalWaits 0 = true) ∧
    (let x := ((running Cell.entry id).onSlot 0 fun x => { x with state := .ending }).slot 0
     x.state = .ending ∧ x.retired = true ∧ x.ctx.quiet false = true) ∧
    (running Cell.entry id).held 0 = false ∧
    ((running Cell.entry id).slot 0).state ≠ .saving ∧ ((running Cell.entry id).slot 0).state ≠ .restoring := by decide +kernel

/-- The machine with handles 1 and 2, and what handle 1's entry becomes by a commit word. -/
def handles : State := withHandles booted
theorem handles_inForm : handles.TableInForm := by
  unfold State.TableInForm
  decide +kernel
/-- Bits 255:192 of a valid entry of a layer with ENC. -/
def commitWord (layer enc : Nat) : Xword := BitVec.ofNat 64 (2 ^ 63 + layer * 2 ^ 6 + enc * 2 ^ 5 + 15)
/-- The entry that a commit of a word would make of handle 1 with a staged LOW, LIMIT and BASE, and its refusal. -/
def committing (low limit : BitVec 40) (base : BitVec 52) (w : Xword) : Option (BitVec 4) :=
  commitRefusal { wholeHost.entry with
    low := low, limit := limit, base := base, valid := w.getLsbD 63, layer := w.extractLsb' 6 2, enc := w.getLsbD 5 }
theorem meets_HandlesAreCommittedAndMoved :
    (let e := wholeHost.entry
     Handle.zero.valid = false ∧ e.valid = true ∧ e.rdp = true ∧ e.enc = false ∧ e.layer = 1 ∧ e.low.toNat ≤ 2 ^ 40 - 8 ∧
     (2 ^ 40 - 8) + 8 - 1 ≤ e.limit.toNat ∧ ¬((2 ^ 40 - 7) + 8 - 1 ≤ e.limit.toNat)) ∧
    handles.TableInForm ∧ (1 : BitVec 12) ≠ 0 ∧ (255 : BitVec 8) ≠ 0 ∧ handles.transl.relocRun = none ∧
    (mergeBytes wholeHost.entry.word3 (commitWord 1 0) 255 = commitWord 1 0 ∧ committing 0 63 0 (commitWord 1 0) = none ∧
     committing 1 0 0 (commitWord 1 0) = some 1 ∧ committing 0 63 0 (commitWord 2 0) = some 2 ∧
     committing 0 1 (2 ^ 29 - 1) (commitWord 0 1) = none ∧ committing 0 4096 (2 ^ 29 - 1) (commitWord 0 1) = some 3 ∧
     committing 0 63 0 (commitWord 0 0) = some 4) ∧
    (handles.transl.pending.filter fun p => p.1 == 1).length ≤ 1 ∧
    (let s := { handles with transl := { handles.transl with rhandle := 1, rlayer := 1, relocBase := 16 } }
     let t := s.transl
     t.relocRun.isSome = false ∧ (s.entry t.rhandle).valid = true ∧ t.rhandle ≠ 0 ∧
     commitRefusal { s.entry t.rhandle with base := t.relocBase, layer := t.rlayer } = none ∧ t.rlayer ≠ 0) ∧
    (handles.entry handles.transl.rhandle).valid = false ∧
    (let s := { handles with transl := { handles.transl with relocRun := some (1, 16, 1) } }
     s.hbm = [] ∧ s.host = [] ∧ s.transl.relocRun = some (1, 16, 1) ∧ s.usesHandle 1 = false) := by
  refine ⟨?_, handles_inForm, ?_, ?_, ?_, ?_, ?_, ?_, ?_, ?_⟩ <;> decide +kernel

/-- A page table in host memory: two tables, then a 1 GiB page of host memory at 0, or nothing. -/
def paged (leaf : Nat) : State :=
  { booted with
    transl := { Transl.reset with root := 1, rootHost := true, rootEn := true }
    host := Mem.putBytes (Mem.putBytes (Mem.putBytes [] 0x1000 (bytesOf 8 0x2041)) 0x2000 (bytesOf 8 0x3041)) 0x3000 (bytesOf 8 leaf)
    pdies := booted.pdies.put 0 { PDie.reset with walks := [⟨0, 0, 0, 1, 0, 0, 0⟩] } }
/-- A park of the command of number 1 of timeline 2 of a cell. -/
def aPark : Park := ⟨5, 0, .command 0 0 2 1, ⟨.unserviced, none, none, none, 0xFF, 1, 0, 0⟩⟩
theorem meets_WalksAndParks :
    (booted.transl.tinvBusy = false ∧ ({ booted with transl := { Transl.reset with tinvBusy := true } } : State).transl.tinvBusy = true) ∧
    (((paged 0x7F).pdies.get 0).walks.find? fun w => w.page == (0 : BitVec 45).toNat) = some ⟨0, 0, 0, 1, 0, 0, 0⟩ ∧
    (paged 0x7F).walkPages 0 = .ok ⟨0, 30, true, 0, true, true, true, true⟩ ∧ (paged 0).walkPages 0 = .error (.translationMiss, 2) ∧
    (let s := { paged 0 with tq := { TrapQueue.reset with state := .active } }
     s.walkPages 0 = .error (.translationMiss, 2) ∧ s.tq.state ≠ .disabled ∧ s.parks.length < 4096) ∧
    (booted.transl.rootEn = false ∧ (paged 0).transl.rootEn = true) ∧
    (let q := fun (s : State) (a : Nat) => BitVec.ofNat 64 (ofBytes (s.rdRun (pagedRun true a 8)))
     (q (paged 0) 0x3000).getLsbD 0 = false ∧
     ((q (paged 0x7F) 0x3000).getLsbD 0 = true ∧ (q (paged 0x7F) 0x3000).getLsbD 1 = true ∧ (q (paged 0x7F) 0x3000).getLsbD 6 = true ∧
      ((q (paged 0x7F) 0x3000).extractLsb' 12 41).toNat * 4096 % 2 ^ 30 = 0) ∧
     ((q (paged 0x107F) 0x3000).getLsbD 1 = true ∧ ((q (paged 0x107F) 0x3000).extractLsb' 12 41).toNat * 4096 % 2 ^ 30 ≠ 0) ∧
     ((q (paged 0) 0x1000).getLsbD 0 = true ∧ (q (paged 0) 0x1000).getLsbD 1 = false ∧ (q (paged 0) 0x1000).getLsbD 6 = true)) ∧
    (let s := { running (sending [aCmd 2 (.load 0 4) (.parked 5)]) id with parks := [aPark] }
     (s.parks.find? fun p => p.id == aPark.id) = some aPark ∧ s.hostOpen = true ∧ aPark.what = .command 0 0 2 1 ∧
     (s.slot aPark.slot).ctx.cell? 0 0 = some (sending [aCmd 2 (.load 0 4) (.parked 5)]) ∧ aPark.info.orig ≠ Cause.vaultExpired.code) ∧
    ({ aPark with what := .fetch } : Park).what = .fetch := by
  refine ⟨?_, ?_, ?_, ?_, ?_, ?_, ?_, ?_, rfl⟩ <;> decide +kernel

/-- The trap queue in a state, with a HEAD and a TAIL. -/
def trapQueue (st : TqState) (head tail : BitVec 32) : State := { booted with tq := { TrapQueue.reset with state := st, head := head, tail := tail } }
theorem meets_TrapQueueAndSnapshots :
    (let q := (trapQueue .active 100 162).tq
     (trapQueue .active 100 162).hostOpen = true ∧ q.state = .active ∧ (q.tail - q.head).toNat < ((163 : BitVec 32) - q.head).toNat ∧
     ((162 : BitVec 32) - q.head).toNat ≤ (q.tail - q.head).toNat ∧ q.fatal = [] ∧ q.held = [] ∧ 2 ^ q.size.toNat - (q.tail - q.head).toNat = 2) ∧
    (let q := (trapQueue .active 100 163).tq; 2 ^ q.size.toNat - (q.tail - q.head).toNat = 1) ∧
    ((trapQueue .error 0 0).tq.state = .error ∧ booted.tq.state = .disabled ∧ ∀ c, (booted.slot c).state = .free) ∧
    (booted.snap.armed = true ∧ ({ booted with snap := { Snap.reset with armed := false } } : State).snap.armed = false) ∧
    (68 : BitVec 7).toNat < 69 ∧
    (let r : TrapRec := ⟨4, .watchdog, 0, 0⟩
     let s := { trapQueue .active 0 2 with
       posted := [⟨none, some r, 0, [], some 64, none⟩, ⟨none, some { r with cls := 5 }, 64, [], some 64, none⟩] }
     s.tq.state = .active ∧ (s.posted.filterMap fun p => p.trap) = [r, { r with cls := 5 }]) := by
  refine ⟨?_, ?_, ?_, ?_, ?_, ?_⟩ <;> decide +kernel

/-- A message of round 0 of the pod group 7, from device 1. -/
def aMessage : PodMsg := ⟨1, 0, 0, 1, 7, 3, 0⟩
/-- Link 3 in a state, and PODCFG. -/
def linked (f : Link → Link) (valid : Bool) : State :=
  { booted with
    links := booted.links.put 3 (f ⟨true, .active, 0, 0xFF, false, 1, 3, true, none⟩), podValid := valid
    podrt := booted.podrt.put 1 8 }
theorem meets_LinksTrainAndFail :
    (let l := (linked (fun l => { l with state := .up }) true).links.get 3; l.state = .up ∧ l.peerValid = true ∧ l.peerDev ≠ 0) ∧
    (booted.links.get 3).state = .training ∧ ((0xF0 : BitVec 8) = 0xF0) ∧
    (¬((0x0E : BitVec 8) = 0xFF ∨ (0x0E : BitVec 8) = 0x0F ∨ (0x0E : BitVec 8) = 0xF0)) ∧
    ((linked id true).links.get 3).state = .active ∧ ((linked (fun l => { l with state := .activeHalf }) true).links.get 3).state = .activeHalf ∧
    (∀ st ∈ [LinkState.up, .training, .conflict, .down], ((linked (fun l => { l with state := st }) true).links.get 3).state = st ∧
      ¬(st = .active ∨ st = .activeHalf) ∧ st ≠ .disabled) ∧
    ((linked (fun l => { l with state := .disabled }) true).links.get 3).state = .disabled ∧
    (let l := (linked (fun l => { l with state := .conflict }) true).links.get 3
     l.state = .conflict ∧ l.peerDev = 1 ∧ ¬((1 : BitVec 1) = 1 ∧ l.peerDev = 2)) ∧
    (let s := { linked id true with flits := [⟨3, 1, 0, 0, .message aMessage 5 0⟩] }
     ∃ f ∈ s.flits, f.link = 3 ∧ f.src = s.devnum ∧ ∃ m, f.body = .message m 5 (s.slot 5).life) ∧
    (let l := (linked (fun l => { l with drain := some .podcfg }) true).links.get 3; l.drain = some .podcfg) ∧
    ((linked id true).links.get 3).drain = none ∧ (linked id true).hostOpen = true ∧
    (∃ c, (((linked id true).onSlot 5 fun x => { x with state := .running }).slot c).state ≠ .free) ∧
    (∀ c, ((linked id true).slot c).state = .free) ∧
    ((linked id true).podValid = true ∧ (0x81 : Xword).getLsbD 7 = true ∧ (0x80 : Xword).extractLsb' 0 6 = (linked id true).devnum ∧
     (0x00 : Xword).getLsbD 7 = false ∧ (0x81 : Xword).extractLsb' 0 6 ≠ (linked id true).devnum) := by
  refine ⟨?_, ?_, ?_, ?_, ?_, ?_, ?_, ?_, ?_, ⟨_, List.mem_singleton.mpr rfl, rfl, ?_, _, rfl⟩, ?_, ?_, ?_, ?_, ?_, ?_⟩ <;> decide +kernel

/-- A read of 4 bytes at offset 0x40 of cell 0 of die 0, from slot 2 of device 1 in group 7. -/
def anAccess : PodAccess :=
  { srcDev := 1, srcSlot := 2, srcLife := 0, srcDie := 0, srcCell := 0, tl := 2, num := 1, group := 7, cls := 0, seq := 0, stream := true, addr := onPad,
    kind := 0, size := 4, op := 0, data := 0, cmp := 0, fp := 0, flag := none, after := none }
/-- Slot 0 is a member of group 7, in a state, and a link leads to device 1. -/
def member (st : SlotState) (f : Slot → Slot) : State :=
  { (running Cell.entry id).onSlot 0 fun x => f { x with state := st, desc := { x.desc with podgrp := 7, podmask := 3 } } with
    links := (linked id true).links, podValid := true, podrt := booted.podrt.put 1 8
    podArrived := [(3, .access anAccess), (3, .message aMessage 2 0)] }
/-- Slot 0 waits in a round of the group that began at time 0, its peer's message not there. -/
def aRound : PodWait := ⟨0x100, 1, 0, 0, 0, 0, none⟩
theorem meets_PodTraffic :
    (let s := member .running id
     (1 : BitVec 6) ≠ s.devnum ∧ (6 : BitVec 4).toNat < 7 ∧ s.podValid = true ∧ s.routes 1 ≠ [] ∧ 7 ≤ (7 : BitVec 4).toNat ∧ s.routes 2 = [] ∧
     s.podBlocked = [] ∧ (∀ h ∈ s.podHeld, h.link ≠ 3) ∧
     (∃ p ∈ s.podArrived, p.2 = .access anAccess) ∧ s.groupSlot anAccess.group = some 0 ∧ (s.slot 0).state = .running ∧
     (anAccess.addr.extractLsb' 50 6).toNat < (s.slot 0).n ∧ (anAccess.addr.extractLsb' 39 11).toNat < 1600 ∧
     (anAccess.addr.extractLsb' 0 17).toNat + anAccess.size.toNat ≤ 131072 ∧ anAccess.addr.extractLsb' 17 22 = 0 ∧ tagOf anAccess.addr = 2 ∧
     s.podAhead anAccess = false ∧ s.barred 0 0 0x40 4 = false ∧ (s.slot 0).ctx.cell? 0 0 = some Cell.entry ∧ s.routes anAccess.srcDev ≠ [] ∧
     anAccess.kind.toNat ≤ 1 ∧ s.podtmo ≠ 0 ∧ s.podHeld = []) ∧
    -- behind an access of its stream that has not come
    (let s := member .running id
     let a := { anAccess with num := 2, after := some 1 }
     s.podAhead a = true ∧ a ∉ s.podWaiting ∧ s.heldIn (bufferOf 0 (.pad 0 0 0)) < 64) ∧
    -- an access held at link 3 bars it
    (¬∀ h ∈ ({ member .waiting id with podHeld := [⟨3, anAccess, 0⟩] } : State).podHeld, h.link ≠ 3) ∧
    (booted.groupSlot anAccess.group = none ∧ anAccess.srcDev ≠ booted.devnum) ∧
    (∀ st ∈ [SlotState.waiting, .saved, .restoring],
      let s := member st id
      s.groupSlot anAccess.group = some 0 ∧ (s.slot 0).state = st ∧
      (s.podArrived.find? fun p => p.2 == .access anAccess) = some (3, .access anAccess) ∧
      (s.podArrived.find? fun p => p.2 == .access anAccess && s.podHeld.all fun h => h.link != p.1) = some (3, .access anAccess) ∧
      (s.podArrived.erase (3, .access anAccess)).find? (fun p => p.2 == .access anAccess && s.podHeld.all fun h => h.link != p.1) = none) ∧
    (let s := { member .waiting id with podHeld := [⟨3, anAccess, 0⟩], time := 100 * 10 ^ 9 }
     s.podHeld = [⟨3, anAccess, 0⟩] ∧ 0 + s.podtmo.toNat * 10 ^ 9 ≤ s.time ∧ anAccess.srcDev ≠ s.devnum ∧ s.routes anAccess.srcDev ≠ []) ∧
    -- a reply for a command of this life, and a refusal of one
    (let q : Cmd := aCmd 2 (.load 0x8100000000000040 4) .remote
     let s := running (sending [q]) id
     s.cmd? 0 0 0 2 1 = some q ∧ q.st = .remote ∧ (s.slot 0).life = 0) ∧
    (let s := member .running id
     (s.podArrived.find? fun p => match p.2 with | .message k _ _ => k == aMessage | _ => false) = some (3, .message aMessage 2 0) ∧
     s.groupSlot aMessage.group = some 0 ∧ (s.slot 0).ctx.rounds = []) ∧
    (let s := member .running fun x => { x with ctx := { x.ctx with podWait := some aRound } }
     ((s.slot 0).ctx.rounds.find? fun w => w.result.isNone && decide (w.deadline ≤ s.time)) = some aRound ∧
     ((s.peers (s.slot 0).desc.podmask).find? fun p =>
       !(roundMsgs aRound (s.slot 0).ctx.podIn).any fun m => m.src == p) = some 1) := by
  refine ⟨?_, ?_, ?_, ?_, ?_, ?_, ?_, ?_, ?_⟩ <;> decide +kernel

/-- A reset under way, and what the boot block holds. -/
def resetting (r : Option ResetRun) (f : Boot → Boot) (time : Nat) : State := { booted with resetRun := r, time := time, boot := f Boot.reset }
theorem meets_Resets :
    (∀ st ∈ [Stage.base, .romhalt], let s := resetting none (fun b => { b with pending := false, stage := st }) 0
      s.resetRun = none ∧ s.boot.pending = false ∧ s.boot.stage = st) ∧
    (∀ cold : Bool, let r : ResetRun := ⟨cold, 2, 0, false, [], false⟩
      let s := resetting (some r) (fun b => { b with pending := false }) (10 ^ 8)
      s.resetRun = some r ∧ r.abandoned = false ∧ s.stripping = false ∧ 0 + 10 ^ 8 ≤ s.time ∧ s.hostBusy = false ∧ s.regionsUp = 16) ∧
    (let r : ResetRun := ⟨true, 6, 0, true, [], false⟩
     (resetting (some r) id 0).stripping = true ∧ (resetting (some r) id 0).resetRun = some r ∧ r.abandoned = true) ∧
    -- cleared, its links still training or trained
    (∀ l ∈ [Link.cold true, { Link.cold true with state := .up }],
      let s := { resetting (some ⟨true, 2, 0, false, [], true⟩) (fun b => { b with pending := false }) 0 with links := RegFile.fill 4 l }
      s.resetRun = some ⟨true, 2, 0, false, [], true⟩ ∧ (s.links.any fun k => k.state == .training) = decide (l = Link.cold true)) ∧
    booted.regionsUp.toNat = 16 ∧ (({ booted with regionsUp := 15 } : State).regionsUp.toNat < 16) ∧
    (let s := { resetting none id 0 with lastCause := 5 }
     s.resetRun = none ∧ s.boot.pending = true ∧ s.stripDue = false) ∧
    (∀ k : BitVec 3, k.toNat ≤ 4 → let s := { resetting none (fun b => { b with pend := true, stripStep := k }) 0 with lastCause := 6 }
      s.resetRun = none ∧ s.boot.pending = true ∧ s.stripDue = true ∧ s.boot.stripStep = k ∧ (s.columns.get 0).offline = false) := by
  refine ⟨?_, ?_, ?_, ?_, ?_, ?_, ?_, ?_⟩
  case refine_8 =>
    intro k hk
    refine ⟨rfl, rfl, rfl, rfl, rfl⟩
  all_goals decide +kernel
/-- An image of a kind: its magic, kind, signature format and a body of one byte, every other byte zero. -/
def image (kind : Nat) : List Byte := bytesOf 16 (0x5746594C + kind * 2 ^ 32 + 2 ^ 48 + 2 ^ 96) ++ List.replicate 241 0
/-- Where the hash of the model is zero and every signature is good, such an image passes every check (SM3 and SM2 are
opaque, log 11; the fused key hash and version too, log 6): then the clauses of Resets that speak of a valid image hold of
something; for a customer image see `meets_FirmwareAndKeys`. -/
theorem meets_Resets_image (h3 : ∀ b, Config.sm3 b = 0) (h2 : ∀ k m g, Config.sm2Verify k m g = true)
    (hk : Config.follasKeyHash = 0) (hv : Config.follasMinVersion = 0) :
    baseValid false (some (image 1)) = true ∧ baseValid false none = false := by
  have : imageFault (image 1) false 1 Config.follasKeyHash Config.follasMinVersion.toNat = none := by
    unfold imageFault
    simp only [h3, h2, hk, hv]
    decide +kernel
  refine ⟨?_, rfl⟩
  unfold baseValid
  simp only [this, Option.isNone_none]

/-- A context on die 0 in a clock mode, its die tripped or not. -/
def clockedAs (fixed tripped : Bool) : State :=
  let s := running Cell.entry fun y => { y with fixed := fixed }
  { s with pdies := s.pdies.put 0 { s.pdies.get 0 with tripped := tripped } }
theorem meets_PowerClocksAndRegisters :
    ((94 : BitVec 8).toNat < booted.twarnLvl.toNat ∧ booted.twarnLvl.toNat ≤ (95 : BitVec 8).toNat) ∧
    (let s := { running Cell.entry id with columns := booted.columns.put 0 { Column.reset 0 with temp := 110, offline := false } }
     110 ≤ (s.columns.get 0).temp.toNat ∧ (s.columns.get 0).offline = false ∧ (s.slot 0).state = .running ∧ (s.slot 0).holds = true ∧
     (0 : BitVec 6) ∈ (s.slot 0).pdies) ∧
    (let x := ((running Cell.entry id).onSlot 0 fun x => { x with state := .saved, vbound := true }).slot 0
     x.state = .saved ∧ x.vbound = true ∧ (0 : BitVec 6) ∈ x.pdies) ∧
    -- cycles of a throttle that a hold has counted, and that nothing has
    (let s := running Cell.entry id
     (∀ p ∈ (s.slot 0).pdies, max (s.pdies.get p).thrTo (s.pdies.get p).holdTo ≤ s.time) ∧
     (∀ k, k ≠ 0 → (s.slot k).holds = false) ∧
     let t := { s with pdies := s.pdies.put 0 { s.pdies.get 0 with holdTo := 10 ^ 6 } }
     ∀ p ∈ (t.slot 0).pdies, t.time + 8 * 600 ≤ max (t.pdies.get p).thrTo (t.pdies.get p).holdTo) ∧
    (∀ fixed : Bool, let s := clockedAs fixed false
      (s.pdies.get 0).owner = some 0 ∧ (s.slot 0).holds = true ∧ (s.slot 0).ctx.fixed = fixed ∧ (s.pdies.get 0).tripped = false ∧
      ¬(∃ q ∈ (s.slot 0).pdies, (s.pdies.get q).tripped = true)) ∧
    (∃ q ∈ ((clockedAs true true).slot 0).pdies, ((clockedAs true true).pdies.get q).tripped = true) ∧
    (let s := running Cell.entry fun y => { y with dies := y.dies.map fun d => { d with frozen := true } }
     (s.slot 0).logical 0 = some 0 ∧ ∀ z ∈ (s.slot 0).ctx.dies, z.frozen = true) ∧
    (let s := running Cell.entry id
     (0 : BitVec 6).toNat < (s.slot 0).n ∧ (1599 : BitVec 11).toNat < 1600 ∧ ¬(1600 : BitVec 11).toNat < 1600 ∧
     s.istep.get 0 ≠ 0 ∧ ({ s with istep := s.istep.put 0 0 } : State).istep.get 0 = 0 ∧ s.halted 0 true = false) ∧
    (¬110 ≤ (booted.columns.get 0).temp.toNat) ∧
    ((5 : BitVec 3).toNat ≤ 5 ∧ 3 ≤ (3 : BitVec 3).toNat ∧ ¬3 ≤ (2 : BitVec 3).toNat) ∧
    ((clockedAs false true).pdies.get 0).tripped = true ∧ (0x1004 : BitVec 25).toNat % 8 ≠ 0 ∧ (4 : BitVec 4) ≠ 8 ∧
    booted.hostOpen = true ∧ (resetting (some ⟨false, 3, 0, false, [], false⟩) id 0).windowOpen = false ∧
    ((0x1170 : BitVec 25).toNat = 0x1100 + 8 * (14 : BitVec 6).toNat) ∧ (0x27E00 : BitVec 25).toNat = 0x20000 + 0x200 * (63 : BitVec 6).toNat ∧
    (booted.queues.get 63).state = .disabled ∧ ((queued id []).queues.get 3).state ≠ .disabled ∧ booted.tq.state = .disabled ∧
    (resetting (some ⟨false, 3, 0, false, [], false⟩) id 0).resetRun ≠ none ∧ (0x1008 : BitVec 25) ≠ 0x1000 := by
  repeat' apply And.intro
  all_goals decide +kernel

theorem meets_ManagementCommands :
    (Boot.reset.lease = .vacant ∧ (resetting none (fun b => { b with lease := .enrolled }) 0).boot.lease ≠ .vacant) ∧
    (booted.stripping = false ∧ (resetting (some ⟨true, 6, 0, false, [], false⟩) id 0).stripping = true) ∧
    (Boot.reset.stage ≠ .base ∧ Boot.reset.stage ≠ .custom ∧ (resetting none (fun b => { b with stage := .base }) 0).boot.stage = .base) ∧
    (resetting none (fun b => { b with quotes := [⟨7, false⟩] }) 0).boot.quotes = [⟨7, false⟩] ∧
    (resetting none (fun b => { b with quotes := [⟨7, true⟩] }) 0).boot.quotes = [⟨7, true⟩] ∧ baseValid false (some []) = false := by
  refine ⟨?_, ?_, ?_, rfl, rfl, ?_⟩
  · decide +kernel
  · decide +kernel
  · decide +kernel
  · have : imageFault [] false 1 Config.follasKeyHash Config.follasMinVersion.toNat = some .badhdr := by
      unfold imageFault
      rw [if_pos (.inl (by decide))]
    unfold baseValid
    simp only [this, Option.isNone_some]
/-- The clause of a load whose image passes needs a hash and a verifier that accept it; they are opaque (log 11). -/
theorem meets_FirmwareAndKeys :
    (let s := resetting none (fun b => { b with fwst := 1, fwLen := 2 ^ 24 + 256 }) 0
     s.boot.fwst = 1 ∧ s.boot.fwLen.toNat ≤ 2 ^ 24 + 256 ∧ 2 ^ 24 + 256 < (2 ^ 24 + 257 : Xword).toNat) ∧
    imageFault ([] : List Byte) false 2 0 0 ≠ none ∧
    ((∀ b, Config.sm3 b = 0) → (∀ k m g, Config.sm2Verify k m g = true) → imageFault (image 2) false 2 0 0 = none) ∧
    (let s := resetting none (fun b => { b with stage := .base, keySel := 1 }) 0
     s.resetRun = none ∧ s.boot.fwst ≠ 1 ∧ s.boot.stage = .base ∧ s.stripping = false ∧ s.boot.stage ≠ .romhalt ∧
     (s.entry s.boot.keySel).valid = false ∧
     s.boot.keyData.get 1 ++ s.boot.keyData.get 0 = s.boot.keyData.get 3 ++ s.boot.keyData.get 2) ∧
    (let s := resetting none (fun b => { b with stage := .base, keySel := 1, keyData := b.keyData.put 0 1 }) 0
     s.boot.keyData.get 1 ++ s.boot.keyData.get 0 ≠ s.boot.keyData.get 3 ++ s.boot.keyData.get 2) ∧
    (({ handles with boot := { Boot.reset with keySel := 1 } } : State).entry 1).valid = true ∧
    (resetting none (fun b => { b with stage := .romhalt }) 0).boot.stage = .romhalt ∧ Boot.reset.stage ≠ .base ∧ Boot.reset.stage ≠ .custom := by
  refine ⟨by decide +kernel, ?_, ?_, by decide +kernel, by decide +kernel, by decide +kernel, rfl, by decide, by decide⟩
  · unfold imageFault
    rw [if_pos (.inl (by decide))]
    exact fun h => nomatch h
  · intro h3 h2
    unfold imageFault
    simp only [h3, h2]
    decide +kernel

theorem meets_DecodeOfEncode :
    (∀ i ∈ [Instr.add 1 2 3, .vadd 13 7 8 9 2 none, .tmma 5 1 2 1 2 1 1, .dst 3 5 2 1 7 1 none, .ybar],
      (layout i).isSome = true ∧ i.wellFormed = true) ∧
    [Instr.add 1 2 3, .vadd 13 7 8 9 2 none, .tmma 5 1 2 1 2 1 1, .dst 3 5 2 1 7 1 none, .ybar].map (fun i => (layout i).map (·.cls)) =
      [some .s, some .v, some .m, some .c, some .y] ∧
    v0Only 0 = false ∧ c0Only 8 = false ∧
    (decodeSlot .s 0x98280000 (some 5) = .ok (.addi 5 0 0 (some 5)) ∧ (0x98280000 : Word).getLsbD 31 = (some (5 : Word)).isSome) := by
  refine ⟨?_, ?_, ?_, ?_, ?_⟩ <;> decide +kernel
/-- The machine about to issue ADDI x5, x0, 1 keeps every form, and its step answers a next state. -/
theorem meets_MemoriesStayInForm : (holdingLine addiWords id).MemoriesInForm ∧ handles.TableInForm ∧ (holdingLine addiWords id).TableInForm ∧
    (match step (holdingLine addiWords id) with | .next _ => true | _ => false) = true := by
  refine ⟨⟨rfl, rfl⟩, handles_inForm, ?_, by decide +kernel⟩
  unfold State.TableInForm
  decide +kernel
theorem meets_ScratchpadsStayInForm : (holdingLine addiWords id).PadsInForm ∧
    (match step (holdingLine addiWords id) with | .next _ => true | _ => false) = true := by
  refine ⟨⟨?_, ?_, ?_⟩, by decide +kernel⟩
  · decide +kernel
  · decide +kernel
  · intro f hf
    exact absurd hf (by simp [holdingLine, running, booted, State.onSlot, State.putSlot, State.reset])
theorem meets_ResetState : ((RegFile.fill 4 { Link.cold true with state := .up } : RegFile Link 4).any fun k => k.state == .training) = false := by
  decide +kernel
theorem meets_EveryStepGoesOn : ∀ c k, Instr.ybar ≠ .bundleFetch c k := fun _ _ h => nomatch h

end Sys2Proof.Tests
end

namespace Sys2Proof.Machine
open Sys2Proof

/-! ### Register files, slots and dies -/

theorem RegFile.get_eq_getElem {α : Type} {n : Nat} (r : RegFile α n) (i : BitVec n) : r.get i = r[i.toNat]'i.isLt := rfl

@[simp] theorem RegFile.get_map {α β : Type} {n : Nat} (f : α → β) (r : RegFile α n) (i : BitVec n) :
    RegFile.get (Vector.map f r) i = f (r.get i) := by
  simp [RegFile.get_eq_getElem]

theorem RegFile.put_put {α : Type} {n : Nat} (r : RegFile α n) (i : BitVec n) (v w : α) :
    (r.put i v).put i w = r.put i w := by
  simp [RegFile.put]

theorem RegFile.put_get {α : Type} {n : Nat} (r : RegFile α n) (i : BitVec n) : r.put i (r.get i) = r :=
  Vector.set_getElem_self i.isLt

theorem mem_allSlots (c : BitVec 4) : c ∈ allSlots :=
  List.mem_map.mpr ⟨c.toNat, List.mem_range.mpr c.isLt, by simp⟩
theorem allSlots_nodup : allSlots.Nodup := by decide

/-- A slot changed into itself leaves the state as it was. -/
theorem State.onSlot_id (s : State) (c : BitVec 4) {f : Slot → Slot} (h : f (s.slot c) = s.slot c) : s.onSlot c f = s := by
  have hput : s.slots.put c (f (s.slot c)) = s.slots := by
    rw [h]
    exact RegFile.put_get _ _
  unfold State.onSlot State.putSlot
  rw [hput]

/-- A die changed twice. -/
theorem State.onPdie_onPdie (s : State) (p : BitVec 6) (f g : PDie → PDie) :
    (s.onPdie p f).onPdie p g = s.onPdie p fun x => g (f x) := by
  simp only [State.onPdie, RegFile.get_put_same, RegFile.put_put]

/-! ### Interrupts, snapshots and trap records: what each changes (02 R35, 13 R261-R264) -/

theorem State.signal_eq (s : State) (v : Nat) : ∃ pend sent, s.signal v = { s with msixPend := pend, messages := sent } := by
  unfold State.signal
  split
  · exact ⟨_, s.messages, rfl⟩
  · exact ⟨s.msixPend, _, rfl⟩

theorem State.trigger_eq (s : State) (src : Nat) (c : BitVec 4) (cause : Nat) :
    ∃ snap pend sent, s.trigger src c cause = { s with snap := snap, msixPend := pend, messages := sent } := by
  unfold State.trigger
  split
  · obtain ⟨pend, sent, h⟩ := State.signal_eq { s with snap := _ } 68
    exact ⟨_, pend, sent, h⟩
  · exact ⟨_, s.msixPend, s.messages, rfl⟩

theorem State.takeRecord_eq (s : State) (r : TrapRec) :
    ∃ tq posted, s.takeRecord r = { s with tq := tq, posted := posted } := by
  have hpost : ∃ tq posted, s.postTrap r = { s with tq := tq, posted := posted } := ⟨_, _, rfl⟩
  have hkept : ∀ tq, ∃ tq' posted, { s with tq := tq } = { s with tq := tq', posted := posted } := fun tq => ⟨tq, s.posted, rfl⟩
  unfold State.takeRecord
  dsimp only
  cases s.tq.state
  case disabled =>
    dsimp only
    split_ifs
    · exact hkept _
    · exact hkept s.tq
  case error =>
    dsimp only
    split_ifs <;> exact hkept _
  case active =>
    dsimp only
    split_ifs
    · exact hpost
    · exact hkept _
    · exact hpost
    · exact hkept _
    · exact hpost
    · exact hkept _

theorem State.offer_eq (s : State) (r : TrapRec) : ∃ tq posted snap pend sent,
    s.offer r = { s with tq := tq, posted := posted, snap := snap, msixPend := pend, messages := sent } := by
  obtain ⟨tq, posted, h⟩ := s.takeRecord_eq r
  unfold State.offer
  rw [h]
  split
  · exact ⟨tq, posted, s.snap, s.msixPend, s.messages, rfl⟩
  · obtain ⟨snap, pend, sent, ht⟩ := State.trigger_eq { s with tq := tq, posted := posted } 2 r.slot r.cause.code
    exact ⟨tq, posted, snap, pend, sent, ht⟩

/-! ### The death of a context (13 R259) -/

/-- A context changes neither its place in R90's diagram nor the death recorded for it. -/
def Slot.SameLife (x y : Slot) : Prop := y.state = x.state ∧ y.dead = x.dead

/-- Context slots alone have changed, and of none its state or its death. -/
def SlotsLiveOn (s t : State) : Prop := (∃ slots, t = { s with slots := slots }) ∧ ∀ k, (s.slot k).SameLife (t.slot k)

theorem SlotsLiveOn.refl (s : State) : SlotsLiveOn s s := ⟨⟨s.slots, rfl⟩, fun _ => ⟨rfl, rfl⟩⟩
theorem SlotsLiveOn.trans {s t u : State} (h : SlotsLiveOn s t) (k : SlotsLiveOn t u) : SlotsLiveOn s u := by
  obtain ⟨⟨l, rfl⟩, hl⟩ := h
  obtain ⟨⟨m, rfl⟩, hm⟩ := k
  exact ⟨⟨m, rfl⟩, fun i => ⟨(hm i).1.trans (hl i).1, (hm i).2.trans (hl i).2⟩⟩
theorem SlotsLiveOn.onSlot (s : State) (c : BitVec 4) {f : Slot → Slot} (hf : ∀ x, Slot.SameLife x (f x)) :
    SlotsLiveOn s (s.onSlot c f) := by
  refine ⟨⟨_, rfl⟩, fun k => ?_⟩
  by_cases hk : k = c
  · rw [hk, State.slot_onSlot_same]
    exact hf _
  · rw [State.slot_onSlot_ne _ _ hk]
    exact ⟨rfl, rfl⟩

/-- R304: telling a parent of a death changes no context's state. -/
theorem State.tellParent_livesOn (s : State) (c : BitVec 4) : SlotsLiveOn s (s.tellParent c) := by
  have hjoin : SlotsLiveOn s (s.onSlot c fun x => { x with join := none }) := .onSlot s c fun _ => ⟨rfl, rfl⟩
  unfold State.tellParent
  dsimp only
  split
  · exact .refl s
  · split_ifs
    · exact hjoin
    · split
      · exact hjoin
      · exact hjoin
      all_goals exact hjoin.trans (.onSlot _ _ fun _ => ⟨rfl, rfl⟩)

/-- What the end of contexts leaves as it was: memories, columns, and of the dies what is stored on them. -/
structure KeepsStores (s t : State) : Prop where
  hbm : t.hbm = s.hbm
  host : t.host = s.host
  columns : t.columns = s.columns
  dies : ∀ p, (t.pdies.get p).vaults = (s.pdies.get p).vaults ∧ (t.pdies.get p).pads = (s.pdies.get p).pads ∧
    (t.pdies.get p).cache = (s.pdies.get p).cache

theorem KeepsStores.refl (s : State) : KeepsStores s s := ⟨rfl, rfl, rfl, fun _ => ⟨rfl, rfl, rfl⟩⟩
theorem KeepsStores.trans {s t u : State} (h : KeepsStores s t) (k : KeepsStores t u) : KeepsStores s u where
  hbm := k.hbm.trans h.hbm
  host := k.host.trans h.host
  columns := k.columns.trans h.columns
  dies p := ⟨(k.dies p).1.trans (h.dies p).1, (k.dies p).2.1.trans (h.dies p).2.1, (k.dies p).2.2.trans (h.dies p).2.2⟩

/-- Whether a context can still become dead (R90; log 18). -/
def SlotState.mayDie (x : SlotState) : Prop := x ≠ .free ∧ x ≠ .draining ∧ x ≠ .ending

/-- R90: a slot that is FREE, DRAINING or ENDING is not killed. -/
theorem State.kill_of_not_mayDie (s : State) (c : BitVec 4) (i : DeadInfo) (h : ¬(s.slot c).state.mayDie) : s.kill c i = s := by
  unfold SlotState.mayDie at h
  exact if_pos (by tauto)

/-- R90, R259: the death of a context: its slot is DRAINING with the cause given, the other slots live on, and the stores are
kept. -/
theorem State.kill_spec (s : State) (c : BitVec 4) (i : DeadInfo) (h : (s.slot c).state.mayDie) :
    ((s.kill c i).slot c).state = .draining ∧ ((s.kill c i).slot c).dead = some i ∧
    (∀ k, k ≠ c → (s.slot k).SameLife ((s.kill c i).slot k)) ∧ KeepsStores s (s.kill c i) := by
  obtain ⟨tq, posted, snap, pend, sent, hoffer⟩ := s.offer_eq (s.fatalRec c i)
  have htell := ((s.offer (s.fatalRec c i)).familyDeath (s.slot c).fam i.cause).tellParent_livesOn c
  have hkill : ¬((s.slot c).state = .free ∨ (s.slot c).state = .draining ∨ (s.slot c).state = .ending) := by
    unfold SlotState.mayDie at h
    tauto
  -- the slot dies; then what waits for it elsewhere is dropped, which leaves every slot and every store as it is
  generalize hu : ((s.offer (s.fatalRec c i)).familyDeath (s.slot c).fam i.cause).tellParent c = u at htell
  have hoffered : KeepsStores s u ∧ ∀ k, (s.slot k).SameLife (u.slot k) := by
    obtain ⟨⟨slots, rfl⟩, hlife⟩ := htell
    rw [hoffer] at hlife ⊢
    exact ⟨⟨rfl, rfl, rfl, fun _ => ⟨rfl, rfl, rfl⟩⟩, hlife⟩
  obtain ⟨hstores, hlife⟩ := hoffered
  unfold State.kill
  simp only [if_neg hkill, hu]
  refine ⟨?_, ?_, ?_, ?_⟩
  · simp only [State.slot, State.fillWalks, State.onSlot, State.putSlot, RegFile.get_put_same]
  · simp only [State.slot, State.fillWalks, State.onSlot, State.putSlot, RegFile.get_put_same]
  · intro k hk
    simp only [State.slot, State.fillWalks, State.onSlot, State.putSlot, RegFile.get_put_ne _ _ hk]
    exact hlife k
  · refine hstores.trans ⟨rfl, rfl, rfl, fun p => ?_⟩
    simp only [State.fillWalks, RegFile.get_map, PDie.dropWalks, State.onSlot_pdies, and_self]

/-- R259: contexts die one after another, each by its own cause. -/
theorem State.foldl_kill (info : BitVec 4 → DeadInfo) (l : List (BitVec 4)) : ∀ s : State, l.Nodup →
    let t := l.foldl (fun t c => t.kill c (info c)) s
    KeepsStores s t ∧ (∀ k, k ∉ l → (s.slot k).SameLife (t.slot k)) ∧
    ∀ c ∈ l, (s.slot c).state.mayDie → (t.slot c).state = .draining ∧ (t.slot c).dead = some (info c) := by
  induction l with
  | nil => exact fun s _ => ⟨.refl s, fun _ _ => ⟨rfl, rfl⟩, fun c hc => absurd hc List.not_mem_nil⟩
  | cons d l ih =>
    intro s hl
    obtain ⟨hd, hl⟩ := List.nodup_cons.mp hl
    obtain ⟨hkeeps, hothers, hdead⟩ := ih (s.kill d (info d)) hl
    have hkill : KeepsStores s (s.kill d (info d)) ∧ ∀ k, k ≠ d → (s.slot k).SameLife ((s.kill d (info d)).slot k) := by
      by_cases hm : (s.slot d).state.mayDie
      · obtain ⟨_, _, hlive, hst⟩ := s.kill_spec d (info d) hm
        exact ⟨hst, hlive⟩
      · rw [s.kill_of_not_mayDie d (info d) hm]
        exact ⟨.refl s, fun _ _ => ⟨rfl, rfl⟩⟩
    obtain ⟨hst, hlive⟩ := hkill
    refine ⟨hst.trans hkeeps, fun k hk => ?_, fun c hc hm => ?_⟩
    · obtain ⟨hkd, hkl⟩ := not_or.mp (List.mem_cons.not.mp hk)
      exact ⟨(hothers k hkl).1.trans (hlive k hkd).1, (hothers k hkl).2.trans (hlive k hkd).2⟩
    · rcases List.mem_cons.mp hc with rfl | hcl
      · obtain ⟨hdrain, hcause, _, _⟩ := s.kill_spec c (info c) hm
        exact ⟨(hothers c hd).1.trans hdrain, (hothers c hd).2.trans hcause⟩
      · have hcd : c ≠ d := fun e => hd (e ▸ hcl)
        exact hdead c hcl ((hlive c hcd).1 ▸ hm)
end Sys2Proof.Machine

namespace Sys2Proof.Machine
open Sys2Proof

/-! ### Command queues (04 R64-R73) -/

/-- R65: a queue that is neither DISABLED nor DESTROYING enters ERROR and signals its vector. -/
theorem State.queueError_eq (s : State) (q : BitVec 6) (code : BitVec 4) (off : Nat)
    (hd : (s.queues.get q).state ≠ .disabled) (hg : (s.queues.get q).state ≠ .destroying) :
    s.queueError q code off = (s.onQueue q fun x =>
      { x with state := .error, errcode := code, erroff := BitVec.ofNat 24 off, staged := .empty, met := false }).signal
        q.toNat := by
  unfold State.queueError
  cases h : (s.queues.get q).state
  case disabled => exact absurd h hd
  case destroying => exact absurd h hg
  all_goals rfl

/-- R73: what keeps a packet from having a record. -/
theorem State.noRecord_iff (s : State) (p : PacketId) :
    s.noRecord p = true ↔ p.cpl = 0 ∨ (s.queues.get p.queue).state = .destroying ∨ s.resetRun.isSome = true := by
  simp only [State.noRecord, Bool.or_eq_true, beq_iff_eq, or_assoc]

/-- R73: a packet that fails has its record written, if one is due, and its queue enters ERROR. -/
theorem State.recordError_eq (s : State) (p : PacketId) (status value : Nat) (code : BitVec 4) (off : Nat) :
    s.recordError p status value code off =
      if p.cpl = 0 ∨ (s.queues.get p.queue).state = .destroying ∨ s.resetRun.isSome = true
      then s.queueError p.queue code off else s.post p status 0xFFFF value (some (code, off)) := by
  simp only [State.recordError, State.noRecord_iff]

/-- R25, R32: a doorbell that the window does not take changes nothing. -/
theorem execDoorbell_silent (q : BitVec 6) (tail : BitVec 32) (s : State) (h : s.hostOpen = false) :
    execDoorbell q tail s = .next s := by
  simp [execDoorbell, h]

/-- R66: a doorbell that the queue takes moves TAIL, unless it overruns the ring or moves TAIL back. -/
theorem execDoorbell_open (q : BitVec 6) (tail : BitVec 32) (s : State) (ho : s.hostOpen = true)
    (hd : (s.queues.get q).state ≠ .disabled) (hg : (s.queues.get q).state ≠ .destroying) (h3 : s.d3hot = false) :
    let x := s.queues.get q
    execDoorbell q tail s = .next (
      if 2 ^ x.size.toNat < (tail - x.head).toNat ∨ (tail - x.head).toNat < (x.tail - x.head).toNat then
        s.queueError q 7 (x.offset x.head)
      else s.onQueue q fun x =>
        { x with tail := tail, state := if x.state = .idle ∧ tail ≠ x.head then .active else x.state }) := by
  simp [execDoorbell, ho, hd, hg, h3]

/-- The bytes of the packet at HEAD of a queue's ring (R64, R68). -/
def State.packetAtHead (s : State) (q : BitVec 6) : List Byte :=
  s.rdMem true ((s.queues.get q).base.toNat * 4096 + (s.queues.get q).offset (s.queues.get q).head) 64

/-- R68, R69, R71: what staging does once the queue is ACTIVE, its buffer empty and a packet at HEAD. -/
theorem execPacketStage_due (q : BitVec 6) (fail : BitVec 1) (s : State) (ha : (s.queues.get q).state = .active)
    (he : (s.queues.get q).staged = .empty) (hh : (s.queues.get q).head ≠ (s.queues.get q).tail) :
    let off := (s.queues.get q).offset (s.queues.get q).head
    let b := s.packetAtHead q
    execPacketStage q fail s = .next (
      if fail = 1 then s.queueError q 5 off
      else if packetLegal b s.devnum = false then s.queueError q 1 off
      else if fieldOf b 0 1 = 1 ∧ s.handlesValid (descOf (b.drop 16)) = false then s.queueError q 2 off
      else s.onQueue q fun x => { x with
        staged := .bytes b, since := s.time
        met := ({ x with staged := .bytes b, since := s.time, met := false } : Queue).waitMet s.time (fieldOf b 16 2)
          (s.sigobj.get (BitVec.ofNat 8 (fieldOf b 16 2))) }) := by
  simp [execPacketStage, ha, he, hh, State.packetAtHead]
  rfl

/-- R71, R72: a legal WAIT names one of the 256 signal objects. -/
theorem packetLegal_wait {b : List Byte} {dev : BitVec 6} (h : packetLegal b dev = true) (ht : fieldOf b 0 1 = 2) :
    fieldOf b 16 2 < 256 := by
  simp only [packetLegal, ht, Bool.and_eq_true, decide_eq_true_eq] at h
  exact h.2.1.1

/-- R72: a WAIT that has just been staged is met when its object has reached its value: no timeout has passed. -/
theorem Queue.waitMet_staged (x : Queue) (b : List Byte) (time obj : Nat) (v : Xword) (hs : x.staged = .bytes b)
    (ht : x.since = time) :
    x.waitMet time obj v = decide (fieldOf b 0 1 = 2 ∧ fieldOf b 16 2 = obj ∧ fieldOf b 24 8 ≤ v.toNat) := by
  have hnow : fieldOf b 32 4 = 0 ∨ time - x.since < msPs (fieldOf b 32 4) := by
    unfold msPs
    omega
  simp only [Queue.waitMet, hs, Bool.decide_and, Bool.beq_eq_decide_eq, ← Bool.decide_or, hnow, decide_true, Bool.and_true,
    Bool.and_assoc]

/-- R68, R71, R72: a packet whose bytes are legal, and whose handles are valid if it is a LAUNCH, is staged. -/
theorem execPacketStage_staged (q : BitVec 6) (s : State) (ha : (s.queues.get q).state = .active)
    (he : (s.queues.get q).staged = .empty) (hh : (s.queues.get q).head ≠ (s.queues.get q).tail) :
    let b := s.packetAtHead q
    packetLegal b s.devnum = true → (fieldOf b 0 1 = 1 → s.handlesValid (descOf (b.drop 16)) = true) →
    execPacketStage q 0 s = .next (s.onQueue q fun x => { x with
      staged := .bytes b, since := s.time
      met := decide (fieldOf b 0 1 = 2 ∧ fieldOf b 16 2 < 256 ∧
        fieldOf b 24 8 ≤ (s.sigobj.get (BitVec.ofNat 8 (fieldOf b 16 2))).toNat) }) := by
  intro b hl hv
  have hillegal : packetLegal (s.packetAtHead q) s.devnum ≠ false := by rw [hl]; decide
  have hinvalid : ¬(fieldOf b 0 1 = 1 ∧ s.handlesValid (descOf (b.drop 16)) = false) := by
    rintro ⟨ht, hf⟩
    rw [hv ht] at hf
    exact absurd hf (by decide)
  have hobj : fieldOf b 0 1 = 2 → fieldOf b 16 2 < 256 := packetLegal_wait hl
  rw [execPacketStage_due q 0 s ha he hh, if_neg (by decide), if_neg hillegal, if_neg hinvalid]
  refine congrArg (fun f => Host.Outcome.next (s.onQueue q f)) (funext fun x => ?_)
  rw [Queue.waitMet_staged _ b _ _ _ rfl rfl]
  refine congrArg (fun m => { x with staged := .bytes b, since := s.time, met := m }) (decide_eq_decide.mpr ?_)
  exact and_congr_right fun ht => and_congr_left' ⟨fun _ => hobj ht, fun _ => rfl⟩

/-- R73, log 38: the oldest record of a queue on its way is lost: error 6, then the entry that the record precedes. -/
theorem execRecordWriteFail_lost (q : BitVec 6) (s : State) (p : Posted) (k : PacketId)
    (hp : (s.posted.find? fun p => p.queue.any fun k => k.queue == q) = some p) (hk : p.queue = some k) :
    let t := { s with posted := s.posted.erase p }.queueError q 6 ((s.queues.get q).offset k.index)
    execRecordWriteFail q s = .next (match p.err with | some e => t.queueError q e.1 e.2 | none => t) := by
  simp only [execRecordWriteFail, hp, hk, Option.map_some, Option.getD_some] <;> rfl

/-- Settles O38: each clause is what the one operation that it speaks of does. -/
theorem queuesTakePackets : Obligations.QueuesTakePackets := by
  intro s q x put n ring b
  refine ⟨fun hd hg code off => s.queueError_eq q code off hd hg, ?_, ?_, ?_, ?_, ?_, ?_⟩
  case refine_1 =>
    rintro p status value code off rfl
    exact s.recordError_eq p status value code off
  case refine_2 => exact fun tail h => execDoorbell_silent q tail s h
  case refine_3 =>
    intro tail ho hd hg h3 hle hroom
    have hfits : ¬(2 ^ x.size.toNat < n tail ∨ n tail < n x.tail) := by omega
    exact (execDoorbell_open q tail s ho hd hg h3).trans (congrArg _ (if_neg hfits))
  case refine_4 =>
    intro tail ho hd hg h3 hbad
    exact (execDoorbell_open q tail s ho hd hg h3).trans (congrArg _ (if_pos hbad.symm))
  case refine_5 =>
    intro ha he hh
    have hdue := fun fail => execPacketStage_due q fail s ha he hh
    refine ⟨hdue 1, ?_, ?_, ?_⟩
    · intro hl
      exact (hdue 0).trans (congrArg _ (if_pos hl))
    · intro hl ht hv
      have hillegal : packetLegal b s.devnum ≠ false := by rw [hl]; decide
      exact (hdue 0).trans (congrArg _ ((if_neg hillegal).trans (if_pos ⟨ht, hv⟩)))
    · intro hl hv
      exact ⟨_, execPacketStage_staged q s ha he hh hl hv, rfl⟩
  case refine_6 => exact fun p k hp hk => execRecordWriteFail_lost q s p k hp hk
end Sys2Proof.Machine

namespace Sys2Proof.Machine
open Sys2Proof

/-! ### The state after reset (00 R5, 01 R23) -/

@[simp] theorem State.slot_reset (c : BitVec 4) : State.reset.slot c = Slot.blank := RegFile.get_fill c _
@[simp] theorem State.entry_reset (h : BitVec 12) : State.reset.entry h = Handle.zero := rfl
@[simp] theorem State.queues_reset (q : BitVec 6) : State.reset.queues.get q = Queue.reset := RegFile.get_fill q _
@[simp] theorem State.pdies_reset (p : BitVec 6) : State.reset.pdies.get p = PDie.reset := RegFile.get_fill p _
@[simp] theorem State.links_reset (n : BitVec 4) : State.reset.links.get n = Link.cold true := RegFile.get_fill n _
@[simp] theorem State.sigobj_reset (i : BitVec 8) : State.reset.sigobj.get i = 0 := RegFile.get_fill i _
@[simp] theorem State.podrt_reset (r : BitVec 6) : State.reset.podrt.get r = 0 := RegFile.get_fill r _

/-- No byte has been written: every byte of either memory reads zero (log 2). -/
theorem State.rdMem_reset (h : Bool) (a : Nat) : State.reset.rdMem h a 1 = [0] := by
  cases h <;> rfl

/-- No context holds a cell, no die a scratchpad, and no bundle is in hand. -/
theorem State.padsInForm_reset : State.reset.PadsInForm := by
  refine ⟨fun c d hd => ?_, fun p m hm => ?_, fun f hf => ?_⟩
  · rw [State.slot_reset] at hd
    exact absurd hd List.not_mem_nil
  · rw [State.pdies_reset] at hm
    exact absurd hm List.not_mem_nil
  · exact nomatch hf

/-- R23, R25: with a cold reset that has cleared the state under way, the end of the reset alone is enabled, once no link
trains. -/
theorem enabled_cleared (s : State) (r : ResetRun) (hr : s.resetRun = some r) (hc : r.cleared = true) :
    enabled s = if s.linkTrains then [] else [.resetComplete] := by
  simp only [enabled, hr, State.resetEvents, hc, if_true]
  cases s.linkTrains <;> rfl

/-- Out of reset the links train. -/
theorem State.linkTrains_reset : State.reset.linkTrains = true :=
  Vector.any_eq_true.mpr ⟨0, by decide, congrArg (fun k : Link => k.state == .training) (State.links_reset 0)⟩

/-- Settles O59: field by field, from the reset values of the register files. -/
theorem resetState : Obligations.ResetState := by
  have hnone : enabled State.reset = [] := by rw [enabled_cleared _ _ rfl rfl, State.linkTrains_reset, if_pos rfl]
  have hend : ∀ l : RegFile Link 4, (l.any fun k => k.state == .training) = false →
      enabled { State.reset with links := l } = [.resetComplete] := by
    intro l hl
    exact (enabled_cleared _ _ rfl rfl).trans (if_neg (Bool.eq_false_iff.mp hl))
  have hmasked : ∀ v : Nat, v < 69 → State.reset.msixMask.getLsbD v = true := by
    intro v hv
    exact (BitVec.getLsbD_allOnes).trans (decide_eq_true hv)
  unfold Obligations.ResetState
  refine ⟨⟨rfl, rfl⟩, ⟨List.Pairwise.nil, fun x hx => absurd hx List.not_mem_nil⟩, State.padsInForm_reset, fun c => ?_,
    State.entry_reset, fun q => ?_, State.sigobj_reset, ?_⟩
  · rw [State.slot_reset]
    exact ⟨rfl, rfl⟩
  · rw [State.queues_reset]
    exact ⟨rfl, rfl, rfl, rfl⟩
  refine ⟨rfl, rfl, rfl, rfl, rfl, rfl, rfl, rfl, State.podrt_reset, rfl, rfl, rfl, rfl, hmasked, rfl, rfl, rfl, rfl, rfl, rfl,
    rfl, State.rdMem_reset, fun n => ?_, hnone, hend⟩
  rw [State.links_reset]
  rfl
end Sys2Proof.Machine

namespace Sys2Proof.Machine
open Sys2Proof

/-! ### Temperature and power (01 R14-R17) -/

/-- An interrupt leaves every slot and every store as it was. -/
theorem State.signal_keeps (s : State) (v : Nat) : KeepsStores s (s.signal v) ∧ (s.signal v).slots = s.slots := by
  obtain ⟨pend, sent, h⟩ := s.signal_eq v
  rw [h]
  exact ⟨⟨rfl, rfl, rfl, fun _ => ⟨rfl, rfl, rfl⟩⟩, rfl⟩

/-- R15, R35: a sample sets TEMP; at the warning level it sets TWARN, with vector 65 if it was clear. -/
theorem execTempSample_below (d : BitVec 6) (temp : BitVec 8) (s : State) (h : temp.toNat < s.twarnLvl.toNat) :
    execTempSample d temp s = .next (s.onColumn d fun c => { c with temp := temp }) := by
  have hcool : ¬s.twarnLvl.toNat ≤ temp.toNat := by omega
  simp [execTempSample, hcool]
theorem execTempSample_warns (d : BitVec 6) (temp : BitVec 8) (s : State) (h : s.twarnLvl.toNat ≤ temp.toNat) :
    execTempSample d temp s = .next (
      let t := s.onColumn d fun c => { c with temp := temp, twarn := true }
      if (s.columns.get d).twarn then t else t.signal 65) := by
  cases hw : (s.columns.get d).twarn <;> simp [execTempSample, h, hw]

/-- The slots that hold a die or have it reserved, each once. -/
theorem State.mem_holders (s : State) (d : BitVec 6) (c : BitVec 4) :
    c ∈ s.holders d ↔ ((s.slot c).holds = true ∨ ((s.slot c).state = .saved ∧ (s.slot c).vbound = true)) ∧
      d ∈ (s.slot c).pdies := by
  simp [State.holders, mem_allSlots]
theorem State.holders_nodup (s : State) (d : BitVec 6) : (s.holders d).Nodup := allSlots_nodup.filter _

/-- A slot that holds dies, or has them reserved, is not FREE. -/
theorem Slot.state_ne_free {x : Slot} (h : x.holds = true ∨ (x.state = .saved ∧ x.vbound = true)) : x.state ≠ .free := by
  rintro hf
  simp [Slot.holds, SlotState.holdsDies, hf] at h

/-- R16, R17: what a column loses with its rail at 110 °C, before the contexts on its die end. -/
def State.unpowered (s : State) (d : BitVec 6) : State :=
  ((s.onColumn d fun c => { c with offline := true, ttrip := true, heat := true, vset := 0, imeas := 0, pgood := false }).onPdie d
    fun p => { p with vaults := [], cache := [], pads := [] }).signal 65
/-- The cause of death of a context on a die whose column trips. -/
def State.tripDeath (s : State) (d : BitVec 6) (c : BitVec 4) : DeadInfo :=
  { (DeadInfo.plain .thermalTrip) with ld := (s.slot c).logical d, pd := some d.toNat }

/-- R16, R17: a column that is not offline trips at 110 °C: its rail goes, and every context that holds its die dies. -/
theorem execThermalTrip_trips (d : BitVec 6) (s : State) (hot : 110 ≤ (s.columns.get d).temp.toNat)
    (hon : (s.columns.get d).offline = false) :
    execThermalTrip d s = .next ((s.holders d).foldl (fun t c => t.kill c (s.tripDeath d c)) (s.unpowered d)) := by
  simp only [execThermalTrip, guarded, hon, decide_eq_true hot, Bool.not_false, Bool.and_self, if_true]
  rfl
theorem execThermalTrip_not_due (d : BitVec 6) (s : State)
    (h : 110 ≤ (s.columns.get d).temp.toNat → (s.columns.get d).offline = true) : execThermalTrip d s = .next s := by
  have hno : ¬(110 ≤ (s.columns.get d).temp.toNat ∧ (s.columns.get d).offline = false) := by
    rintro ⟨hot, hon⟩
    simp [h hot] at hon
  simp only [execThermalTrip, guarded, Bool.and_eq_true, decide_eq_true_eq, Bool.not_eq_true', if_neg hno]

theorem thermalTrip_spec (s : State) (p : BitVec 6) (hot : 110 ≤ (s.columns.get p).temp.toNat)
    (hon : (s.columns.get p).offline = false) : Gives (.thermalTrip p) s fun t =>
      t.columns.get p = { s.columns.get p with
        offline := true, ttrip := true, heat := true, vset := 0, imeas := 0, pgood := false } ∧
      (t.pdies.get p).vaults = [] ∧ (t.pdies.get p).pads = [] ∧ (t.pdies.get p).cache = [] ∧
      (∀ q, q ≠ p → t.columns.get q = s.columns.get q) ∧ t.hbm = s.hbm ∧ t.host = s.host ∧
      ∀ c, ((s.slot c).holds = true ∨ ((s.slot c).state = .saved ∧ (s.slot c).vbound = true)) → (s.slot c).state ≠ .draining →
        (s.slot c).state ≠ .ending → p ∈ (s.slot c).pdies →
        (t.slot c).state = .draining ∧ (t.slot c).dead.map (·.cause) = some .thermalTrip := by
  refine ⟨_, execThermalTrip_trips p s hot hon, ?_⟩
  obtain ⟨hkilled, _, hdead⟩ := State.foldl_kill (s.tripDeath p) (s.holders p) (s.unpowered p) (s.holders_nodup p)
  generalize (s.holders p).foldl (fun t c => t.kill c (s.tripDeath p c)) (s.unpowered p) = t at hkilled hdead ⊢
  obtain ⟨hsignal, hslots⟩ := State.signal_keeps ((s.onColumn p fun c =>
    { c with offline := true, ttrip := true, heat := true, vset := 0, imeas := 0, pgood := false }).onPdie p
      fun p => { p with vaults := [], cache := [], pads := [] }) 65
  obtain ⟨hhbm, hhost, hcols, hdies⟩ := hsignal.trans hkilled
  obtain ⟨hvaults, hpads, hcache⟩ := hdies p
  simp only [State.onPdie, State.onColumn, RegFile.get_put_same] at hhbm hhost hcols hvaults hpads hcache
  refine ⟨?_, hvaults, hpads, hcache, fun q hq => ?_, hhbm, hhost, fun c hc hnd hne hp => ?_⟩
  · rw [hcols, RegFile.get_put_same]
  · rw [hcols, RegFile.get_put_ne _ _ hq]
  · have hslot : (s.unpowered p).slot c = s.slot c := congrArg (RegFile.get · c) hslots
    have hlive : ((s.unpowered p).slot c).state.mayDie := by
      rw [hslot]
      exact ⟨Slot.state_ne_free hc, hnd, hne⟩
    obtain ⟨hdrain, hcause⟩ := hdead c ((s.mem_holders p c).mpr ⟨hc, hp⟩) hlive
    exact ⟨hdrain, by rw [hcause]; rfl⟩

/-! ### D3hot and failed requests (01 R30, R32) -/

/-- A fold of updates each of which changes the dies alone changes the dies alone. -/
theorem State.foldl_pdies {α : Type} {f : State → α → State} (hf : ∀ s a, ∃ l, f s a = { s with pdies := l }) (l : List α)
    (s : State) : ∃ pdies, l.foldl f s = { s with pdies := pdies } := by
  induction l generalizing s with
  | nil => exact ⟨s.pdies, rfl⟩
  | cons a l ih =>
    obtain ⟨p, hp⟩ := hf s a
    obtain ⟨q, hq⟩ := ih (f s a)
    exact ⟨q, by rw [List.foldl_cons, hq, hp]⟩

/-- R22: the scratchpads that a slot leaves are the dies' alone. -/
theorem State.leavePads_eq (s : State) (c : BitVec 4) : ∃ pdies, s.leavePads c = { s with pdies := pdies } := by
  unfold State.leavePads
  dsimp only
  split_ifs
  · exact ⟨s.pdies, rfl⟩
  · exact State.foldl_pdies (fun _ _ => ⟨_, rfl⟩) _ _

/-- What clearing the slots changes: the slots, what contexts have under way, and the dies (R22). -/
theorem State.clearSlots_eq (s : State) : ∃ pdies : RegFile PDie 6,
    (∀ p, (pdies.get p).owner = none ∧ (pdies.get p).reserved = none ∧ (pdies.get p).tripped = false) ∧
    s.clearSlots = { s with
      slots := RegFile.fill 4 Slot.blank, families := [], schedDue := false, parks := [], focus := none, work := []
      pdies := pdies
      podHeld := [], podArrived := s.podArrived ++ s.podHeld.map fun h => (h.link, .access h.acc) } := by
  obtain ⟨pdies, h⟩ := State.foldl_pdies State.leavePads_eq allSlots s
  unfold State.clearSlots
  rw [h]
  refine ⟨_, fun p => ?_, rfl⟩
  rw [RegFile.get_map]
  exact ⟨rfl, rfl, rfl⟩

/-- R32: D3hot clears the slots, and nothing of queues or memories. -/
theorem d3hotEntry_spec (s : State) : Gives .d3hotEntry s fun t =>
    t.d3hot = true ∧ (∀ c, t.slot c = Slot.blank) ∧ t.queues = s.queues ∧ t.hbm = s.hbm ∧ t.host = s.host ∧
      ∀ q, (t.pdies.get q).owner = none := by
  obtain ⟨pdies, hfree, h⟩ := s.refreshOwned.clearSlots_eq
  refine ⟨_, rfl, ?_⟩
  rw [h]
  exact ⟨rfl, fun c => RegFile.get_fill c _, rfl, rfl, rfl, fun q => (hfree q).1⟩

/-- R30: a failed request of a cell of the set ends its context, and the record names die and cell. -/
theorem execHostRequestError_cell (s : State) (c : BitVec 4) (d : BitVec 6) (i : BitVec 11) (a : Xword)
    (hd : d.toNat < (s.slot c).n) (hi : i.toNat < 1600) :
    execHostRequestError c d i a s = .next (s.kill c
      ⟨.hostRequest, some d.toNat, some ((s.slot c).phys d.toNat).toNat, some (1600 * d.toNat + i.toNat), 0xFF, 0, 0, a⟩) := by
  have hcell : d.toNat < (s.slot c).n ∧ i.toNat < cellsPerDie := ⟨hd, hi⟩
  simp only [execHostRequestError, decide_eq_true hcell, if_true, DeadInfo.plain]
/-- R254, log 96: a request that names no cell of the set is the sequencer's. -/
theorem execHostRequestError_sequencer (s : State) (c : BitVec 4) (d : BitVec 6) (i : BitVec 11) (a : Xword)
    (h : ¬(d.toNat < (s.slot c).n ∧ i.toNat < 1600)) :
    execHostRequestError c d i a s = .next (s.kill c ⟨.hostRequest, none, none, none, 0xFF, 0, 0, a⟩) := by
  have hcell : ¬(d.toNat < (s.slot c).n ∧ i.toNat < cellsPerDie) := h
  simp only [execHostRequestError, decide_eq_false hcell, Bool.false_eq_true, if_false, DeadInfo.plain]

/-! ### Droop and hard trips (07 R130-R133) -/

/-- The context whose clock a droop at a die touches. -/
theorem State.clockOwner_eq (s : State) (p : BitVec 6) (c : BitVec 4) (ho : (s.pdies.get p).owner = some c)
    (hc : (s.slot c).holds = true) : s.clockOwner p = some c := by
  simp [State.clockOwner, ho, Option.filter, hc]

/-- R131, R132: whether a trip stops a die of the set. -/
theorem State.tripped_iff (s : State) (c : BitVec 4) :
    s.tripped c = true ↔ ∃ q ∈ (s.slot c).pdies, (s.pdies.get q).tripped = true := List.any_eq_true

/-- R130: whether a late landing holds the logical die of a physical one. -/
theorem Slot.frozen_iff (x : Slot) (p : BitVec 6) :
    ((x.logical p).any fun d => (x.ctx.dies[d]?).any (·.frozen)) = true ↔
      ∃ d z, x.logical p = some d ∧ x.ctx.dies[d]? = some z ∧ z.frozen = true := by
  simp only [Option.any_eq_true]
  constructor
  · rintro ⟨d, hd, z, hz, hf⟩
    exact ⟨d, z, hd, hz, hf⟩
  · rintro ⟨d, z, hd, hz, hf⟩
    exact ⟨d, hd, z, hz, hf⟩

section
variable (s : State) (p : BitVec 6) (level : BitVec 3) (c : BitVec 4)

/-- The die at a demand level (R130). -/
def State.atLevel : State := s.onPdie p fun q => { q with level := level }
/-- A hard trip of a die at a demand level, counted in its context (R131-R133). -/
def State.hardTrip : State :=
  (s.onPdie p fun q => { q with level := level, tripped := true, trips := satWord q.trips 1 }).onCtx c fun y =>
    y.trip ((s.slot c).regionIndex (regionOf p))

variable (hl : level.toNat ≤ 5) (ho : (s.pdies.get p).owner = some c) (hc : (s.slot c).holds = true)
include hl ho hc

/-- R130-R133: what a droop does at a die that a context holds, by clock mode and level. -/
theorem execDroopReport_owned : execDroopReport p level s = .next (
    if (s.slot c).ctx.fixed then
      if level.toNat < 3 then s.atLevel p level
      else if s.tripped c then (s.atLevel p level).onCtx c fun y =>
        { y with tripReg := y.tripReg ||| BitVec.ofNat 16 (2 ^ (s.slot c).regionIndex (regionOf p)) }
      else s.hardTrip p level c
    else if (s.pdies.get p).tripped then s.atLevel p level
    else if level.toNat = 5 then s.hardTrip p level c
    else (s.atLevel p level).onSlot c fun x => x.stretch p level.toNat) := by
  have hin : ¬5 < level.toNat := by omega
  simp only [execDroopReport, if_neg hin, s.clockOwner_eq p c ho hc, State.onPdie_onPdie] <;> rfl
end

theorem State.onSlot_congr (s : State) (c : BitVec 4) {f g : Slot → Slot} (h : f (s.slot c) = g (s.slot c)) :
    s.onSlot c f = s.onSlot c g := by
  unfold State.onSlot
  rw [h]

/-- R129, R130: a cycle is stretched unless a late landing holds the die. -/
theorem State.stretch_thawed (s : State) (c : BitVec 4) (p : BitVec 6) (l : Nat)
    (h : ¬∃ d z, (s.slot c).logical p = some d ∧ (s.slot c).ctx.dies[d]? = some z ∧ z.frozen = true) :
    s.onSlot c (fun x => x.stretch p l) = s.onCtx c fun y => { y with stretch := y.stretch + BitVec.ofNat 64 l } :=
  State.onSlot_congr s c (if_neg fun hf => h ((Slot.frozen_iff _ p).mp hf))
theorem State.stretch_frozen (s : State) (c : BitVec 4) (p : BitVec 6) (l : Nat)
    (h : ∃ d z, (s.slot c).logical p = some d ∧ (s.slot c).ctx.dies[d]? = some z ∧ z.frozen = true) :
    s.onSlot c (fun x => x.stretch p l) = s :=
  State.onSlot_id s c (if_pos ((Slot.frozen_iff _ p).mpr h))

/-- R130-R133, log 41: the six outcomes of a droop at a die that a context holds. -/
theorem droopReport_spec (s : State) (p : BitVec 6) (level : BitVec 3) (c : BitVec 4) (hl : level.toNat ≤ 5)
    (ho : (s.pdies.get p).owner = some c) (hc : (s.slot c).holds = true) :
    let low := s.atLevel p level
    let bit := BitVec.ofNat 16 (2 ^ (s.slot c).regionIndex (regionOf p))
    let frozen := ∃ d z, (s.slot c).logical p = some d ∧ (s.slot c).ctx.dies[d]? = some z ∧ z.frozen = true
    let held := ∃ q ∈ (s.slot c).pdies, (s.pdies.get q).tripped = true
    let gives := fun t => execDroopReport p level s = .next t
    ((s.slot c).ctx.fixed = false → (s.pdies.get p).tripped = false → level = 5 → gives (s.hardTrip p level c)) ∧
    ((s.slot c).ctx.fixed = false → (s.pdies.get p).tripped = false → level ≠ 5 → ¬frozen →
      gives (low.onCtx c fun y => { y with stretch := y.stretch + BitVec.ofNat 64 level.toNat })) ∧
    ((s.slot c).ctx.fixed = false → (s.pdies.get p).tripped = true ∨ (level ≠ 5 ∧ frozen) → gives low) ∧
    ((s.slot c).ctx.fixed = true → level.toNat < 3 → gives low) ∧
    ((s.slot c).ctx.fixed = true → 3 ≤ level.toNat → ¬held → gives (s.hardTrip p level c)) ∧
    ((s.slot c).ctx.fixed = true → 3 ≤ level.toNat → held → gives (low.onCtx c fun y => { y with tripReg := y.tripReg ||| bit })) := by
  intro low bit frozen held gives
  have h := execDroopReport_owned s p level c hl ho hc
  have hfive : level.toNat = 5 ↔ level = 5 := ⟨fun e => BitVec.eq_of_toNat_eq e, fun e => e ▸ rfl⟩
  have hheld : s.tripped c = true ↔ held := s.tripped_iff c
  refine ⟨fun hf ht h5 => ?_, fun hf ht h5 hz => ?_, fun hf hz => ?_, fun hf h3 => ?_, fun hf h3 hz => ?_, fun hf h3 hz => ?_⟩ <;>
    refine h.trans (congrArg _ ?_)
  · simp only [hf, ht, Bool.false_eq_true, if_false, if_pos (hfive.mpr h5)]
  · simp only [hf, ht, hfive, h5, Bool.false_eq_true, if_false]
    exact State.stretch_thawed low c p _ hz
  · rcases hz with ht | ⟨h5, hz⟩
    · simp only [hf, ht, Bool.false_eq_true, if_false, if_true]
      rfl
    · simp only [hf, hfive, h5, Bool.false_eq_true, if_false]
      rw [State.stretch_frozen (s.atLevel p level) c p _ hz, ite_self]
  · simp only [hf, h3, if_true]
    rfl
  · simp only [hf, if_true, if_neg (Nat.not_lt.mpr h3), if_neg (mt hheld.mp hz)]
  · simp only [hf, if_true, if_neg (Nat.not_lt.mpr h3), if_pos (hheld.mpr hz)]
    rfl

/-- R131, R132: after 32 cycles a trip ends, or goes on for 32 more, counted in the context that holds the die. -/
theorem execTripHoldExpiry_ends (s : State) (p : BitVec 6) (h : (s.pdies.get p).tripped = true) :
    execTripHoldExpiry p 0 s = .next (s.onPdie p fun q => { q with tripped := false }) := by
  simp [execTripHoldExpiry, h]
theorem execTripHoldExpiry_again (s : State) (p : BitVec 6) (c : BitVec 4) (h : (s.pdies.get p).tripped = true)
    (ho : (s.pdies.get p).owner = some c) (hc : (s.slot c).holds = true) :
    execTripHoldExpiry p 1 s = .next (s.onCtx c fun y => { y with tripCyc := y.tripCyc + 32 }) := by
  simp [execTripHoldExpiry, h, s.clockOwner_eq p c ho hc]

end Sys2Proof.Machine

namespace Sys2Proof.Machine
open Sys2Proof

/-! ### Throttling (07 R128, R129, R137) -/

/-- Until when the throttled cycles of a die have been counted, or a refresh counts them (R129). -/
def PDie.counted (x : PDie) : Nat := max x.thrTo x.holdTo

/-- The dies of a set have been counted to the latest of now and what each has been counted to. -/
theorem State.countedTo_le_iff (s : State) (l : List (BitVec 6)) (b : Nat) :
    s.countedTo l ≤ b ↔ s.time ≤ b ∧ ∀ p ∈ l, (s.pdies.get p).counted ≤ b := by
  unfold State.countedTo
  generalize s.time = a
  induction l generalizing a with
  | nil => simp
  | cons p l ih =>
    rw [List.foldl_cons, ih, max_le_iff, List.forall_mem_cons, and_assoc]
    rfl
theorem State.countedTo_eq_time (s : State) (l : List (BitVec 6)) (h : ∀ p ∈ l, (s.pdies.get p).counted ≤ s.time) :
    s.countedTo l = s.time :=
  le_antisymm ((s.countedTo_le_iff l _).mpr ⟨le_rfl, h⟩) ((s.countedTo_le_iff l _).mp le_rfl).1
theorem State.counted_le_countedTo (s : State) {l : List (BitVec 6)} {p : BitVec 6} (h : p ∈ l) :
    (s.pdies.get p).counted ≤ s.countedTo l :=
  ((s.countedTo_le_iff l _).mp le_rfl).2 p h

section
variable (s : State) (c : BitVec 4) (here : BitVec 6 → Bool) (cycles : Nat)

/-- How long a cycle of a context lasts, in ps (R128). -/
def State.cyclePs : Nat := if (s.slot c).ctx.fixed then 500 else 600
/-- How many cycles a throttle holds a context: in FIXED mode in steps of 8 (R137). -/
def State.heldCycles : Nat := if (s.slot c).ctx.fixed then (cycles + 7) / 8 * 8 else cycles

/-- The cycles that a throttle adds to THRCYC of a context: none if it throttles no die of it (R129). -/
def State.throttleCount : Nat :=
  let l := s.throttledDies c here
  let til := s.time + s.heldCycles c cycles * s.cyclePs c
  if l = [] then 0
  else if (s.slot c).ctx.fixed then (til - s.countedTo l) / s.cyclePs c
  else (l.map fun p => (til - s.countedTo [p]) / s.cyclePs c).sum

/-- R90, R129: the dies that a throttle counts are dies that the context holds. -/
theorem State.mem_throttledDies {p : BitVec 6} (h : p ∈ s.throttledDies c here) :
    (s.slot c).holds = true ∧ p ∈ (s.slot c).pdies := by
  have hh : (s.slot c).holds = true := by
    by_contra hno
    have hnil : s.throttledDies c here = [] := if_pos (by simp [hno])
    exact absurd (hnil ▸ h) List.not_mem_nil
  unfold State.throttledDies at h
  dsimp only at h
  split_ifs at h with hidle hfixed hany
  · exact absurd h List.not_mem_nil
  · exact ⟨hh, h⟩
  · exact absurd h List.not_mem_nil
  · obtain ⟨d, hd, rfl⟩ := List.mem_map.mp h
    exact ⟨hh, List.mem_map_of_mem (List.mem_filter.mp hd).1⟩

/-- Some dies are counted up to a time: of no other anything changes, and of these nothing but that. -/
theorem State.foldl_thrTo (til : Nat) (l : List (BitVec 6)) : ∀ s : State, ∃ pdies : RegFile PDie 6,
    l.foldl (fun s p => s.onPdie p fun q => { q with thrTo := max q.thrTo til }) s = { s with pdies := pdies } ∧
    (∀ p, ∃ v, pdies.get p = { s.pdies.get p with thrTo := v }) ∧ ∀ p, p ∉ l → pdies.get p = s.pdies.get p := by
  induction l with
  | nil => exact fun s => ⟨s.pdies, rfl, fun p => ⟨(s.pdies.get p).thrTo, rfl⟩, fun _ _ => rfl⟩
  | cons d l ih =>
    intro s
    obtain ⟨pdies, h, hv, hn⟩ := ih (s.onPdie d fun q => { q with thrTo := max q.thrTo til })
    have hd : ∀ p, ∃ v, (s.onPdie d fun q => { q with thrTo := max q.thrTo til }).pdies.get p =
        { s.pdies.get p with thrTo := v } := by
      intro p
      by_cases hp : p = d
      · exact ⟨_, by rw [hp]; exact RegFile.get_put_same _ _ _⟩
      · exact ⟨(s.pdies.get p).thrTo, RegFile.get_put_ne _ _ hp⟩
    refine ⟨pdies, h, fun p => ?_, fun p hp => ?_⟩
    · obtain ⟨v, e⟩ := hv p
      obtain ⟨w, f⟩ := hd p
      exact ⟨v, by rw [e, f]⟩
    · obtain ⟨hpd, hpl⟩ := not_or.mp (List.mem_cons.not.mp hp)
      exact (hn p hpl).trans (RegFile.get_put_ne _ _ hpd)

/-- What a throttle of a context changes: until when its throttled dies are counted, and THRCYC. -/
theorem State.throttle_eq : ∃ pdies : RegFile PDie 6,
    s.throttle c here cycles = ({ s with pdies := pdies } : State).onCtx c (·.addThrottle (s.throttleCount c here cycles)) ∧
    (∀ p, ∃ v, pdies.get p = { s.pdies.get p with thrTo := v }) ∧
    ∀ p, p ∉ s.throttledDies c here → pdies.get p = s.pdies.get p := by
  unfold State.throttle State.throttleCount
  by_cases hl : s.throttledDies c here = []
  · refine ⟨s.pdies, ?_, fun p => ⟨(s.pdies.get p).thrTo, rfl⟩, fun _ _ => rfl⟩
    simp only [if_pos hl]
    exact (State.onSlot_id s c (by simp [Ctx.addThrottle])).symm
  · obtain ⟨pdies, h, hv, hn⟩ := State.foldl_thrTo (s.time + s.heldCycles c cycles * s.cyclePs c) (s.throttledDies c here) s
    refine ⟨pdies, ?_, hv, hn⟩
    simp only [if_neg hl, List.sum_eq_foldl]
    exact congrArg (fun t : State => t.onCtx c _) h
end

/-- Between two states throttles of other contexts alone have acted: of a context `c` nothing has changed, of another THRCYC at
most, and of a die until when it is counted, unless it is a die of `c`. -/
structure ThrottledBeside (c : BitVec 4) (s t : State) : Prop where
  time : t.time = s.time
  slots : ∀ k, ∃ v, t.slot k = { s.slot k with ctx := { (s.slot k).ctx with thrCyc := v } }
  own : t.slot c = s.slot c
  dies : ∀ p, ∃ v, t.pdies.get p = { s.pdies.get p with thrTo := v }
  ownDies : ∀ p ∈ (s.slot c).pdies, t.pdies.get p = s.pdies.get p

namespace ThrottledBeside
variable {c : BitVec 4} {s t u : State}

theorem refl (c : BitVec 4) (s : State) : ThrottledBeside c s s :=
  ⟨rfl, fun k => ⟨(s.slot k).ctx.thrCyc, rfl⟩, rfl, fun p => ⟨(s.pdies.get p).thrTo, rfl⟩, fun _ _ => rfl⟩

theorem trans (h : ThrottledBeside c s t) (k : ThrottledBeside c t u) : ThrottledBeside c s u where
  time := k.time.trans h.time
  slots i := by
    obtain ⟨v, e⟩ := h.slots i
    obtain ⟨w, f⟩ := k.slots i
    exact ⟨w, by rw [f, e]⟩
  own := k.own.trans h.own
  dies p := by
    obtain ⟨v, e⟩ := h.dies p
    obtain ⟨w, f⟩ := k.dies p
    exact ⟨w, by rw [f, e]⟩
  ownDies p hp := (k.ownDies p (by rw [h.own]; exact hp)).trans (h.ownDies p hp)

/-- A throttle of a context that holds no die of `c`. -/
theorem throttle (s : State) {c k : BitVec 4} (hk : k ≠ c) (here : BitVec 6 → Bool) (cycles : Nat)
    (hdisj : (s.slot k).holds = true → ∀ p ∈ (s.slot k).pdies, p ∉ (s.slot c).pdies) :
    ThrottledBeside c s (s.throttle k here cycles) := by
  obtain ⟨pdies, h, hv, hn⟩ := s.throttle_eq k here cycles
  have hother : ∀ p ∈ (s.slot c).pdies, p ∉ s.throttledDies k here := fun p hp hmem =>
    hdisj (s.mem_throttledDies k here hmem).1 p (s.mem_throttledDies k here hmem).2 hp
  rw [h]
  refine ⟨rfl, fun i => ?_, State.slot_onCtx_ne _ _ (Ne.symm hk), hv, fun p hp => hn p (hother p hp)⟩
  by_cases hi : i = k
  · exact ⟨_, by rw [hi, State.slot_onCtx_same]; rfl⟩
  · exact ⟨(s.slot i).ctx.thrCyc, State.slot_onCtx_ne _ _ hi⟩

theorem holds (h : ThrottledBeside c s t) (k : BitVec 4) :
    (t.slot k).holds = (s.slot k).holds ∧ (t.slot k).pdies = (s.slot k).pdies := by
  obtain ⟨v, e⟩ := h.slots k
  rw [e]
  exact ⟨rfl, rfl⟩
theorem tripped (h : ThrottledBeside c s t) (p : BitVec 6) : (t.pdies.get p).tripped = (s.pdies.get p).tripped := by
  obtain ⟨v, e⟩ := h.dies p
  rw [e]

/-- What a throttle would add to THRCYC of `c` is what it would have added before. -/
theorem throttleCount (h : ThrottledBeside c s t) (here : BitVec 6 → Bool) (cycles : Nat) :
    t.throttleCount c here cycles = s.throttleCount c here cycles := by
  have htripped : (fun p => (t.pdies.get p).tripped) = fun p => (s.pdies.get p).tripped := funext h.tripped
  have hhalted : t.halted c true = s.halted c true := by
    simp only [State.halted, State.tripped, h.own, htripped]
  have hdies : t.throttledDies c here = s.throttledDies c here := by
    simp only [State.throttledDies, h.own, hhalted, h.tripped]
  have hcounted : ∀ l : List (BitVec 6), (∀ p ∈ l, p ∈ (s.slot c).pdies) → t.countedTo l = s.countedTo l := by
    intro l hl
    unfold State.countedTo
    rw [h.time]
    exact List.foldl_ext _ _ _ fun m p hp => by rw [h.ownDies p (hl p hp)]
  have hown : ∀ p ∈ s.throttledDies c here, p ∈ (s.slot c).pdies := fun p hp => (s.mem_throttledDies c here hp).2
  have hone : ∀ p ∈ s.throttledDies c here, t.countedTo [p] = s.countedTo [p] := fun p hp =>
    hcounted [p] (by simpa using hown p hp)
  simp only [State.throttleCount, State.heldCycles, State.cyclePs, hdies, h.own, h.time, hcounted _ hown]
  rw [List.map_congr_left fun p hp => by rw [hone p hp]]

/-- Throttles of contexts other than `c`, one after another. -/
theorem foldl (here : BitVec 6 → Bool) (cycles : Nat) (l : List (BitVec 4)) : ∀ s : State, c ∉ l →
    (∀ k, k ≠ c → (s.slot k).holds = true → ∀ p ∈ (s.slot k).pdies, p ∉ (s.slot c).pdies) →
    ThrottledBeside c s (l.foldl (fun t k => t.throttle k here cycles) s) := by
  induction l with
  | nil => exact fun s _ _ => refl c s
  | cons k l ih =>
    intro s hc hdisj
    obtain ⟨hck, hcl⟩ := not_or.mp (List.mem_cons.not.mp hc)
    have hfirst := throttle s (Ne.symm hck) here cycles (hdisj k (Ne.symm hck))
    refine hfirst.trans (ih _ hcl fun i hi hh p hp => ?_)
    rw [hfirst.own]
    rw [(hfirst.holds i).1] at hh
    rw [(hfirst.holds i).2] at hp
    exact hdisj i hi hh p hp

end ThrottledBeside

/-- Throttles leave a context that they do not name as it is. -/
theorem State.slot_foldl_throttle (here : BitVec 6 → Bool) (cycles : Nat) {c : BitVec 4} (l : List (BitVec 4)) :
    ∀ s : State, c ∉ l → (l.foldl (fun t k => t.throttle k here cycles) s).slot c = s.slot c := by
  induction l with
  | nil => exact fun _ _ => rfl
  | cons k l ih =>
    intro s hc
    obtain ⟨hck, hcl⟩ := not_or.mp (List.mem_cons.not.mp hc)
    obtain ⟨pdies, h, _, _⟩ := s.throttle_eq k here cycles
    rw [List.foldl_cons, ih _ hcl, h]
    exact State.slot_onCtx_ne _ _ hck

/-- A throttle of every context adds to THRCYC of each, where no other holds its dies, what it would add alone. -/
theorem State.thrCyc_foldl_throttle (s : State) (c : BitVec 4) (here : BitVec 6 → Bool) (cycles : Nat)
    (hdisj : ∀ k, k ≠ c → (s.slot k).holds = true → ∀ p ∈ (s.slot k).pdies, p ∉ (s.slot c).pdies) :
    ((allSlots.foldl (fun t k => t.throttle k here cycles) s).slot c).ctx.thrCyc =
      (s.slot c).ctx.thrCyc + BitVec.ofNat 64 (s.throttleCount c here cycles) := by
  obtain ⟨before, after, hall⟩ := List.append_of_mem (mem_allSlots c)
  have hnodup := allSlots_nodup
  rw [hall] at hnodup ⊢
  have hbefore : c ∉ before := fun h => (List.nodup_append.mp hnodup).2.2 c h c List.mem_cons_self rfl
  have hafter : c ∉ after := (List.nodup_cons.mp (List.nodup_append.mp hnodup).2.1).1
  have hbeside := ThrottledBeside.foldl here cycles before s hbefore hdisj
  rw [List.foldl_append, List.foldl_cons]
  generalize before.foldl (fun t k => t.throttle k here cycles) s = t at hbeside ⊢
  obtain ⟨pdies, h, _, _⟩ := t.throttle_eq c here cycles
  rw [State.slot_foldl_throttle here cycles after _ hafter, h, State.slot_onCtx_same, hbeside.throttleCount here cycles]
  exact congrArg (fun x : Slot => (x.ctx.addThrottle _).thrCyc) hbeside.own

section
variable (s : State) (c : BitVec 4) (here : BitVec 6 → Bool) (cycles : Nat)

/-- R129: cycles that have been counted on every die of a context are not counted again. -/
theorem State.throttleCount_counted
    (h : ∀ p ∈ (s.slot c).pdies, s.time + s.heldCycles c cycles * s.cyclePs c ≤ (s.pdies.get p).counted) :
    s.throttleCount c here cycles = 0 := by
  have hle : ∀ l p, p ∈ l → p ∈ s.throttledDies c here → s.time + s.heldCycles c cycles * s.cyclePs c - s.countedTo l = 0 :=
    fun l p hl hp => Nat.sub_eq_zero_of_le ((h p (s.mem_throttledDies c here hp).2).trans (s.counted_le_countedTo hl))
  unfold State.throttleCount
  dsimp only
  split_ifs with hnil hfixed
  · rfl
  · obtain ⟨p, hp⟩ := List.exists_mem_of_ne_nil _ hnil
    rw [hle _ p hp hp, Nat.zero_div]
  · refine List.sum_eq_zero fun n hn => ?_
    obtain ⟨p, hp, rfl⟩ := List.mem_map.mp hn
    rw [hle [p] p List.mem_cons_self hp, Nat.zero_div]

/-- R128, R129: cycles that no die of a context has been counted for are all counted, once for the set in FIXED mode and for each
throttled die in ELASTIC mode. -/
theorem State.throttleCount_fresh (h : ∀ p ∈ (s.slot c).pdies, (s.pdies.get p).counted ≤ s.time) :
    s.throttleCount c here cycles = if s.throttledDies c here = [] then 0
      else if (s.slot c).ctx.fixed then s.heldCycles c cycles
      else s.heldCycles c cycles * (s.throttledDies c here).length := by
  have hown : ∀ p ∈ s.throttledDies c here, (s.pdies.get p).counted ≤ s.time := fun p hp =>
    h p (s.mem_throttledDies c here hp).2
  have hunit : 0 < s.cyclePs c := by
    unfold State.cyclePs
    split <;> decide
  have hall : ∀ l, (∀ p ∈ l, (s.pdies.get p).counted ≤ s.time) →
      (s.time + s.heldCycles c cycles * s.cyclePs c - s.countedTo l) / s.cyclePs c = s.heldCycles c cycles := by
    intro l hl
    rw [s.countedTo_eq_time l hl, Nat.add_sub_cancel_left, Nat.mul_div_cancel _ hunit]
  unfold State.throttleCount
  dsimp only
  split_ifs with hnil hfixed
  · rfl
  · exact hall _ hown
  · rw [List.map_congr_left fun p hp => hall [p] (by simpa using hown p hp), List.map_const', List.sum_replicate, smul_eq_mul,
      Nat.mul_comm]
end

section
variable (s : State) (c : BitVec 4) (g : BitVec 4)

/-- How many dies of a context lie in a power region and are not stopped by a stronger cause; in FIXED mode the set stops as
one (R128, R129). -/
def State.diesInRegion : Nat :=
  let x := s.slot c
  ((List.range x.n).filter fun d => regionOf (x.phys d) == g &&
    (x.ctx.fixed || (!(s.pdies.get (x.phys d)).tripped && !(x.ctx.dies[d]?).any (·.frozen)))).length

/-- R134: an ELASTIC context's dies halt one by one, never as a set. -/
theorem State.halted_elastic (h : (s.slot c).ctx.fixed = false) (landings : Bool) : s.halted c landings = false := by
  simp only [State.halted, h, Bool.false_and]

variable (here : BitVec 6 → Bool)

/-- R129: a context that holds no die, or whose set a stronger cause holds, is not throttled. -/
theorem State.throttledDies_idle (h : ¬((s.slot c).holds = true ∧ s.halted c true = false)) : s.throttledDies c here = [] := by
  refine if_pos ?_
  cases hh : (s.slot c).holds
  · rfl
  · have hrun : s.halted c true = true := by simpa [hh] using h
    have hf : (s.slot c).ctx.fixed = true := by
      by_contra hf
      rw [s.halted_elastic c (Bool.eq_false_iff.mpr hf)] at hrun
      exact absurd hrun (by decide)
    rw [hf, hrun]
    rfl
/-- R129: a FIXED set is throttled as one. -/
theorem State.throttledDies_fixed (hf : (s.slot c).ctx.fixed = true) (hh : (s.slot c).holds = true)
    (hrun : s.halted c true = false) :
    s.throttledDies c here = if (s.slot c).pdies.any here then (s.slot c).pdies else [] := by
  simp only [State.throttledDies, hf, hh, hrun, Bool.not_true, Bool.and_false, Bool.or_false, Bool.false_eq_true, if_false,
    if_true]
/-- R129: an ELASTIC context is throttled die by die. -/
theorem State.throttledDies_elastic (hf : (s.slot c).ctx.fixed = false) (hh : (s.slot c).holds = true) :
    s.throttledDies c here = ((List.range (s.slot c).n).filter fun d => here ((s.slot c).phys d) &&
      !(s.pdies.get ((s.slot c).phys d)).tripped && !((s.slot c).ctx.dies[d]?).any (·.frozen)).map (s.slot c).phys := by
  simp only [State.throttledDies, hf, hh, Bool.not_true, Bool.false_and, Bool.or_false, Bool.false_eq_true, if_false]

/-- R128, R129: a throttle of a region throttles a context that runs there, in ELASTIC mode on so many dies. -/
theorem State.throttledDies_region_ne_nil (hh : (s.slot c).holds = true) (hrun : s.halted c true = false) :
    (s.throttledDies c fun p => regionOf p == g) ≠ [] ↔ 0 < s.diesInRegion c g := by
  cases hf : (s.slot c).ctx.fixed
  · rw [s.throttledDies_elastic c _ hf hh, Ne, List.map_eq_nil_iff, ← Ne, ← List.length_pos_iff]
    simp only [State.diesInRegion, hf, Bool.false_or, Bool.and_assoc]
  · rw [s.throttledDies_fixed c _ hf hh hrun]
    have hsome : ((s.slot c).pdies.any fun p => regionOf p == g) = true ↔ 0 < s.diesInRegion c g := by
      simp [State.diesInRegion, hf, Slot.pdies, List.length_pos_iff, List.filter_eq_nil_iff]
    rw [← hsome]
    cases hany : (s.slot c).pdies.any fun p => regionOf p == g
    · simp
    · obtain ⟨p, hp, _⟩ := List.any_eq_true.mp hany
      simp [List.ne_nil_of_mem hp]
theorem State.length_throttledDies_region (hf : (s.slot c).ctx.fixed = false) (hh : (s.slot c).holds = true) :
    (s.throttledDies c fun p => regionOf p == g).length = s.diesInRegion c g := by
  rw [s.throttledDies_elastic c _ hf hh, List.length_map]
  simp only [State.diesInRegion, hf, Bool.false_or, Bool.and_assoc]

/-- R129, R137: what a throttle of a region adds to THRCYC of a context whose dies have not been counted ahead. -/
theorem State.throttleCount_region (cycles : Nat) (h : ∀ p ∈ (s.slot c).pdies, (s.pdies.get p).counted ≤ s.time) :
    s.throttleCount c (fun p => regionOf p == g) cycles =
      if (s.slot c).holds = true ∧ 0 < s.diesInRegion c g ∧ s.halted c true = false then
        if (s.slot c).ctx.fixed then s.heldCycles c cycles else s.heldCycles c cycles * s.diesInRegion c g
      else 0 := by
  rw [s.throttleCount_fresh c _ cycles h]
  by_cases hrun : (s.slot c).holds = true ∧ s.halted c true = false
  · obtain ⟨hh, hrun⟩ := hrun
    have hnil := s.throttledDies_region_ne_nil c g hh hrun
    by_cases hk : 0 < s.diesInRegion c g
    · simp only [if_neg (hnil.mpr hk), hh, hk, hrun, and_self, if_true]
      split_ifs with hf
      · rfl
      · rw [s.length_throttledDies_region c g (Bool.eq_false_iff.mpr hf) hh]
    · rw [if_pos (not_not.mp (mt hnil.mp hk)), if_neg fun hall => hk hall.2.1]
  · rw [if_pos (s.throttledDies_idle c _ hrun), if_neg fun hall => hrun ⟨hall.1, hall.2.2⟩]

end

/-- R136, R137: a throttle of a region under a limit throttles every context that has dies there. -/
theorem execRegionThrottle_on (s : State) (g : BitVec 4) (n : Xword) (h : s.istep.get g ≠ 0) :
    execRegionThrottle g 1 n s = .next (allSlots.foldl (fun t c => t.throttle c (fun p => regionOf p == g) n.toNat)
      { s with throttled := s.throttled.put g true }) := by
  have hlimit : (s.istep.get g != 0) = true := bne_iff_ne.mpr h
  simp only [execRegionThrottle, if_neg (show (1 : BitVec 1) ≠ 0 by decide), guarded, hlimit, if_true]

/-- Throttles of contexts leave the regions' throttles as they are. -/
theorem State.throttled_foldl_throttle (here : BitVec 6 → Bool) (cycles : Nat) (l : List (BitVec 4)) : ∀ s : State,
    (l.foldl (fun t k => t.throttle k here cycles) s).throttled = s.throttled := by
  induction l with
  | nil => exact fun _ => rfl
  | cons k l ih =>
    intro s
    obtain ⟨pdies, h, _, _⟩ := s.throttle_eq k here cycles
    rw [List.foldl_cons, ih, h]
    rfl

/-- R128, R129, R136, R137: a throttle of a region under its limit, and what it adds to THRCYC of each context: nothing where
all its cycles are counted, all of them where none is. -/
theorem regionThrottle_spec (s : State) (g : BitVec 4) (n : Xword) (h : s.istep.get g ≠ 0) :
    Gives (.regionThrottle g 1 n) s fun t =>
      t.throttled.get g = true ∧ (∀ j, j ≠ g → t.throttled.get j = s.throttled.get j) ∧
      ∀ c, (∀ k, k ≠ c → (s.slot k).holds = true → ∀ p ∈ (s.slot k).pdies, p ∉ (s.slot c).pdies) →
        ((∀ p ∈ (s.slot c).pdies, s.time + s.heldCycles c n.toNat * s.cyclePs c ≤ (s.pdies.get p).counted) →
          (t.slot c).ctx.thrCyc = (s.slot c).ctx.thrCyc) ∧
        ((∀ p ∈ (s.slot c).pdies, (s.pdies.get p).counted ≤ s.time) →
          (t.slot c).ctx.thrCyc = (s.slot c).ctx.thrCyc + BitVec.ofNat 64 (
            if (s.slot c).holds = true ∧ 0 < s.diesInRegion c g ∧ s.halted c true = false then
              if (s.slot c).ctx.fixed then s.heldCycles c n.toNat else s.heldCycles c n.toNat * s.diesInRegion c g
            else 0)) := by
  refine ⟨_, execRegionThrottle_on s g n h, ?_, fun j hj => ?_, fun c hdisj => ?_⟩
  · rw [State.throttled_foldl_throttle]
    exact RegFile.get_put_same _ _ _
  · rw [State.throttled_foldl_throttle]
    exact RegFile.get_put_ne _ _ hj
  · have hadds : (s.slot c).ctx.thrCyc + BitVec.ofNat 64 (s.throttleCount c (fun p => regionOf p == g) n.toNat) = _ :=
      (State.thrCyc_foldl_throttle { s with throttled := s.throttled.put g true } c (fun p => regionOf p == g) n.toNat hdisj).symm
    refine ⟨fun hc => ?_, fun hc => ?_⟩
    · rw [← hadds, s.throttleCount_counted c _ _ hc]
      exact BitVec.add_zero _
    · rw [← hadds, s.throttleCount_region c g _ hc]

end Sys2Proof.Machine

namespace Sys2Proof.Machine
open Sys2Proof

/-! ### Host writes of the management window (00 R4, 01 R18-R21, 02 R34) -/

/-- R18, R34: an unaligned write, or one narrower than 64 bits, is ignored. -/
theorem execRegisterWrite_unaligned (s : State) (o : BitVec 25) (w : HostWord) (h : o.toNat % 8 ≠ 0 ∨ w.bytes ≠ 8) :
    execRegisterWrite o w s = .next s := by
  simp only [execRegisterWrite, if_pos h]

/-- R25: while a reset runs, the registers other than RESETCTL and PKGPWR ignore writes. -/
theorem execRegisterWrite_in_reset (s : State) (o : BitVec 25) (w : HostWord) (hr : s.resetRun ≠ none) (hp : o.toNat ≠ 0x1000)
    (hc : o.toNat ≠ 0x1010) : execRegisterWrite o w s = .next s := by
  have hrun : s.resetRun.isNone = false := Option.isNone_eq_false_iff.mpr (Option.isSome_iff_ne_none.mpr hr)
  have hwin : s.windowOpen = false := by rw [State.windowOpen, hrun, Bool.false_and]
  have hhost : s.hostOpen = false := by rw [State.hostOpen, hwin, Bool.false_and]
  simp only [execRegisterWrite, hwin, hrun, hhost, hp, hc, Bool.false_eq_true, and_false, or_false, if_false, ite_self,
    Bool.not_false, ne_eq, not_false_eq_true, and_self, or_true, if_true]

/-- Whether the window takes a write at an offset outside the boot block (R25, R54): while a reset or a strip runs, RESETCTL and
PKGPWR alone do. -/
def State.takesWrite (s : State) (o : Nat) : Prop := s.hostOpen = true ∨ (s.windowOpen = false ∧ (o = 0x1000 ∨ o = 0x1010))

/-- R18: a write of the power block. -/
theorem execRegisterWrite_power (s : State) (o : BitVec 25) (v : Xword) (ha : o.toNat % 8 = 0) (ht : s.takesWrite o.toNat)
    (hlo : 0x1000 ≤ o.toNat) (hhi : o.toNat < 0x2000) :
    execRegisterWrite o ⟨8, v⟩ s = .next (s.writePower (o.toNat - 0x1000) v) := by
  have hboot : ¬(0x60000 ≤ o.toNat ∧ o.toNat < 0x70000) := by omega
  have hopen : ¬((!s.hostOpen) = true ∧ (s.windowOpen = true ∨ (o.toNat ≠ 0x1000 ∧ o.toNat ≠ 0x1010))) := by
    rcases ht with h | ⟨h, ho⟩
    · simp [h]
    · simp only [h, Bool.false_eq_true, false_or]
      omega
  simp only [execRegisterWrite, ha, ne_eq, not_true_eq_false, or_self, if_false, if_neg hboot]
  rw [if_neg hopen, if_pos ⟨hlo, hhi⟩]

section
variable (s : State) (o : BitVec 25) (v : Xword) (ha : o.toNat % 8 = 0) (hopen : s.hostOpen = true)
include ha hopen

/-- R64: a write of the command queues. -/
theorem execRegisterWrite_queues (hlo : 0x20000 ≤ o.toNat) (hhi : o.toNat < 0x30000) :
    execRegisterWrite o ⟨8, v⟩ s = .next (s.writeQueues (o.toNat - 0x20000) v) := by
  simp only [execRegisterWrite, ha, hopen, ne_eq, not_true_eq_false, or_self, if_false, Bool.not_true, Bool.false_eq_true,
    false_and]
  rw [if_neg (by omega), if_neg (by omega), if_neg (by omega), if_pos ⟨hlo, hhi⟩]
/-- R100, R263: a write of the scheduler and trap queue block. -/
theorem execRegisterWrite_sched (hlo : 0x30000 ≤ o.toNat) (hhi : o.toNat < 0x40000) :
    execRegisterWrite o ⟨8, v⟩ s = .next (s.writeSched (o.toNat - 0x30000) v) := by
  simp only [execRegisterWrite, ha, hopen, ne_eq, not_true_eq_false, or_self, if_false, Bool.not_true, Bool.false_eq_true,
    false_and]
  rw [if_neg (by omega), if_neg (by omega), if_neg (by omega), if_neg (by omega), if_pos ⟨hlo, hhi⟩]
end

/-- R14, R19, R137: PLIM stays between 2,000 and 9,000, and is held against PMEAS at once. -/
theorem State.writePower_plim (s : State) (v : Xword) :
    s.writePower 0 v = { s with
      plim := BitVec.ofNat 16 (min 9000 (max 2000 (v.toNat % 2 ^ 16)))
      plimThrottle := decide (min 9000 (max 2000 (v.toNat % 2 ^ 16)) ≤ s.pmeas.toNat) } := by
  have hfits : (BitVec.ofNat 16 (min 9000 (max 2000 (v.toNat % 2 ^ 16)))).toNat = min 9000 (max 2000 (v.toNat % 2 ^ 16)) := by
    rw [BitVec.toNat_ofNat]
    omega
  simp only [State.writePower, if_true, bits, nbits, Nat.shiftRight_zero, Nat.reduceAdd, Nat.sub_zero, hfits]

/-- R21: a write of one to TWARN clears it. -/
theorem State.writePower_column (s : State) (p : BitVec 6) (v : Xword) :
    s.writePower (0x100 + 8 * p.toNat) v = s.onColumn p fun c => { c with twarn := c.twarn && !v.getLsbD 1 } := by
  have hp := p.isLt
  have hindex : BitVec.ofNat 6 ((0x100 + 8 * p.toNat - 0x100) / 8) = p := by
    rw [Nat.add_sub_cancel_left, Nat.mul_div_cancel_left _ (by decide)]
    simp
  unfold State.writePower
  rw [if_neg (by omega), if_neg (by omega), if_neg (by omega), if_pos (by omega), hindex]
  rfl

/-- The base of a ring is bits 63 to 12 of its register (R64, R263). -/
theorem ofNat_bits_63_12 (v : Xword) : BitVec.ofNat 52 (bits v 63 12) = v.extractLsb' 12 52 := by
  refine BitVec.eq_of_toNat_eq ?_
  simp [bits, nbits]

/-- R64, R65: a write of a queue's BASE acts while the queue is DISABLED. -/
theorem State.writeQueues_base (s : State) (q : BitVec 6) (v : Xword) :
    s.writeQueues (0x200 * q.toNat) v =
      guarded ((s.queues.get q).state == .disabled) (s.onQueue q fun x => { x with base := v.extractLsb' 12 52 }) s := by
  have hq := q.isLt
  have hindex : BitVec.ofNat 6 (0x200 * q.toNat / 0x200) = q := by
    rw [Nat.mul_div_cancel_left _ (by decide)]
    simp
  simp only [State.writeQueues, hindex, Nat.mul_mod_right, ofNat_bits_63_12]
  rw [if_neg (by omega)]

/-- Settles O50: sample, trip, limit, D3hot, failed request, droop, hold, throttle and register write, each by what its operation
does. -/
theorem powerClocksAndRegisters : Obligations.PowerClocksAndRegisters := by
  intro s p col putCol pd put sat
  refine ⟨?_, thermalTrip_spec s p, execThermalTrip_not_due p s, fun _ => rfl, d3hotEntry_spec s, rfl,
    fun c d i a => execHostRequestError_cell s c d i a, fun c d i a => execHostRequestError_sequencer s c d i a,
    fun level c hl ho hc => droopReport_spec s p level c hl ho hc, ?_, ?_, ?_, ?_⟩
  case refine_1 => exact fun temp => ⟨execTempSample_below p temp s, execTempSample_warns p temp s⟩
  case refine_2 =>
    exact fun h => ⟨execTripHoldExpiry_ends s p h, fun c ho hc => execTripHoldExpiry_again s p c h ho hc⟩
  case refine_3 =>
    intro g n
    refine ⟨rfl, fun h => ?_, fun h => ?_⟩
    · simp [execRegionThrottle, guarded, h]
    · obtain ⟨t, ht, hon, hothers, hcounts⟩ := regionThrottle_spec s g n h
      refine ⟨t, ht, hon, hothers, fun c => ?_⟩
      intro x unit cycles counted hdisj
      obtain ⟨hcounted, hfresh⟩ := hcounts c hdisj
      refine ⟨hcounted, fun hc => (hfresh hc).trans ?_⟩
      exact congrArg _ (by
        simp only [apply_ite (BitVec.ofNat 64)]
        rfl)
  case refine_4 => exact fun o b v h => execRegisterWrite_unaligned s o ⟨b, v⟩ h
  case refine_5 =>
    intro v write
    refine ⟨fun hr => ?_, fun o hr hp hc => ?_, fun hopen => ⟨?_, fun o ho => ?_, fun o ho => ?_, fun hd => ?_⟩⟩
    · have ht : s.takesWrite 0x1000 := hr.imp_right fun h => ⟨h, .inl rfl⟩
      exact (execRegisterWrite_power s 0x1000 v rfl ht (by decide) (by decide)).trans (congrArg _ (s.writePower_plim v))
    · exact execRegisterWrite_in_reset s o _ hr (fun e => hp (BitVec.eq_of_toNat_eq e)) (fun e => hc (BitVec.eq_of_toNat_eq e))
    · refine (execRegisterWrite_power s 0x1008 v rfl (.inl hopen) (by decide) (by decide)).trans (congrArg _ ?_)
      simp [State.writePower, bits, nbits]
    · have hp := p.isLt
      refine (execRegisterWrite_power s o v (by omega) (.inl hopen) (by omega) (by omega)).trans (congrArg _ ?_)
      rw [ho, show 0x1100 + 8 * p.toNat - 0x1000 = 0x100 + 8 * p.toNat by omega, s.writePower_column p v]
      rfl
    · have hp := p.isLt
      have hwrite := execRegisterWrite_queues s o v (by omega) hopen (by omega) (by omega)
      rw [ho, Nat.add_sub_cancel_left, s.writeQueues_base p v] at hwrite
      refine ⟨fun hd => hwrite.trans (congrArg _ (if_neg ?_)), fun hd => hwrite.trans (congrArg _ (if_pos ?_))⟩
      · simpa using hd
      · simpa using hd
    · refine (execRegisterWrite_sched s 0x31000 v rfl hopen (by decide) (by decide)).trans (congrArg _ ?_)
      simp [State.writeSched, guarded, hd, ofNat_bits_63_12]

end Sys2Proof.Machine

namespace Sys2Proof.Machine
open Sys2Proof

/-! ### The end of a warm reset (01 R22, R25) -/

/-- A change of BOOTSTAT or STRIPSTAT signals vector 67 and changes nothing else (R35). -/
theorem State.bootNote_eq (was s : State) : ∃ pend sent, was.bootNote s = { s with msixPend := pend, messages := sent } := by
  unfold State.bootNote
  split
  · exact ⟨s.msixPend, s.messages, rfl⟩
  · exact s.signal_eq 67

/-- R22, R25: a warm reset ends, once the requests to the host are done or abandoned and every region is up. -/
theorem execResetComplete_warm (s : State) (r : ResetRun) (hr : s.resetRun = some r) (hc : r.cleared = false)
    (hcold : r.cold = false) (hhost : s.hostBusy = false ∨ r.abandoned = true) (hup : s.regionsUp = 16) :
    execResetComplete s = .next (s.bootNote { s.clearWarm with resetRun := none }) := by
  have hdue : ((s.hostBusy && !r.abandoned) || s.regionsUp != 16) = false := by
    rcases hhost with h | h <;> simp [h, hup]
  simp only [execResetComplete, hr, hc, hcold, hdue, Bool.false_eq_true, if_false]

/-- R22, R178: the translation state as a warm reset leaves it. -/
theorem State.clearWarm_transl (s : State) : s.clearWarm.transl = s.transl.warm := by
  obtain ⟨pdies, _, hslots⟩ := s.clearSlots_eq
  simp only [State.clearWarm, hslots]
theorem State.bootNote_transl (was s : State) : (was.bootNote s).transl = s.transl := by
  obtain ⟨pend, sent, h⟩ := State.bootNote_eq was s
  rw [h]

/-- The place of a handle as a warm reset leaves it: its staging fields read as the entry does (R170). -/
def HandleSlot.warm (x : HandleSlot) : HandleSlot := ⟨x.h, x.entry, x.entry.low, x.entry.limit, x.entry.base⟩

/-- R22, R170: where the table lists each handle once, a warm reset keeps every entry, and its staging fields read as it does. -/
theorem State.slotOf_warm (s : State) (hform : s.TableInForm) (h : BitVec 12) :
    s.transl.warm.slotOf h = ⟨h, s.entry h, (s.entry h).low, (s.entry h).limit, (s.entry h).base⟩ := by
  have hwarm : s.transl.warm.slotOf h = (((s.transl.table.map HandleSlot.warm).filter fun e => e != HandleSlot.zero e.h).find?
      fun x => x.h == h).getD (HandleSlot.zero h) := rfl
  have hentry : s.entry h = ((s.transl.table.find? fun x => x.h == h).getD (HandleSlot.zero h)).entry := rfl
  obtain ⟨honce, _⟩ := hform
  rw [hwarm, hentry]
  generalize s.transl.table = l at honce ⊢
  induction l with
  | nil => rfl
  | cons x l ih =>
    rw [List.map_cons, List.pairwise_cons] at honce
    obtain ⟨hfirst, hrest⟩ := honce
    by_cases hx : x.h = h
    · have hnone : ((l.map HandleSlot.warm).filter fun e => e != HandleSlot.zero e.h).find? (fun x => x.h == h) = none := by
        rw [List.find?_eq_none]
        intro y hy hyh
        obtain ⟨z, hz, rfl⟩ := List.mem_map.mp (List.mem_filter.mp hy).1
        have hlt := hfirst z.h.toNat (List.mem_map_of_mem hz)
        have hzh : z.h = h := eq_of_beq hyh
        rw [hx, hzh] at hlt
        exact absurd hlt (lt_irrefl _)
      have hread : x.warm = ⟨h, x.entry, x.entry.low, x.entry.limit, x.entry.base⟩ := by rw [← hx]; rfl
      rw [List.find?_cons_of_pos (by simp [hx]), Option.getD_some, ← hread, List.map_cons]
      by_cases hz : x.warm = HandleSlot.zero x.warm.h
      · rw [List.filter_cons_of_neg (by simp [← hz]), hnone, hz]
        exact congrArg HandleSlot.zero hx.symm
      · rw [List.filter_cons_of_pos (by simp [hz]), List.find?_cons_of_pos (by simp [HandleSlot.warm, hx])]
        rfl
    · rw [List.find?_cons_of_neg (by simp [hx]), ← ih hrest, List.map_cons, List.filter_cons]
      split
      · rw [List.find?_cons_of_neg (by simp [HandleSlot.warm, hx])]
      · rfl

/-- A handle table that lists handle 1 twice, the first time with nothing but zeros: a table that is not in form
(`State.TableInForm`). -/
def twiceListed : List HandleSlot := [HandleSlot.zero 1, ⟨1, { Handle.zero with valid := true }, 0, 0, 0⟩]
/-- A machine with that table, at the end of a warm reset. -/
def atWarmEnd : State :=
  { State.reset with
    resetRun := some ⟨false, 3, 0, true, [], false⟩
    transl := { Transl.reset with table := twiceListed } }

/-- Refutes O49: its clause on the handle table after a warm reset asks of every state that every handle read as before. In a
table that lists a handle twice, the first place all zeros, reading finds the zeros before the reset, and after it, when places
of zeros are listed no more (R170), the second place. The statement lacks the hypothesis that the table is in form: with it the
clause holds (`State.slotOf_warm`). -/
theorem not_resets : ¬Obligations.Resets := by
  intro h
  obtain ⟨_, _, _, _, _, _, hcomplete, _⟩ := h atWarmEnd
  obtain ⟨t, ht, _, _, _, _, _, _, _, _, _, _, _, _, _, _, _, _, _, _, _, _, hkept, _⟩ := hcomplete _ rfl rfl (.inr rfl) rfl
  obtain ⟨_, _, _, _, _, _, _, _, _, _, _, hslots, _⟩ := hkept rfl
  have htu := Host.Outcome.next.inj (ht.symm.trans (execResetComplete_warm atWarmEnd _ rfl rfl rfl (.inr rfl) rfl))
  have hone := congrArg (fun x => x.entry.valid) (hslots 1)
  rw [htu, State.bootNote_transl] at hone
  simp only [State.clearWarm_transl] at hone
  exact absurd hone (by decide)
end Sys2Proof.Machine

namespace Sys2Proof.Machine
open Sys2Proof

/-! ### BOOTSTAT before and after a warm reset (00 R5, 03 R51, R63) -/

theorem Stage.code_lt (x : Stage) : x.code < 2 ^ 4 := by cases x <;> decide
theorem Lease.code_lt (x : Lease) : x.code < 2 ^ 3 := by cases x <;> decide
theorem CustStat.code_lt (x : CustStat) : x.code < 2 ^ 3 := by cases x <;> decide

/-- R63: the fields of BOOTSTAT, where no warm reset has come since the boot ROM handed over. -/
theorem Boot.bootstat_fields (b : Boot) (h : b.statWarm = false) :
    b.bootstat.toNat % 2 ^ 4 = b.stage.code ∧ b.bootstat.toNat / 2 ^ 4 % 8 = b.lease.code ∧
      b.bootstat.toNat / 2 ^ 7 % 8 = b.cust.code ∧ b.bootstat.toNat / 2 ^ 16 % 2 ^ 16 = b.baseVer.toNat ∧
      b.bootstat.toNat / 2 ^ 32 % 2 ^ 16 = b.custVer.toNat := by
  have hstage := b.stage.code_lt
  have hlease := b.lease.code_lt
  have hcust := b.cust.code_lt
  have hcopy := b.baseCopy.isLt
  have hbase := b.baseVer.isLt
  have hver := b.custVer.isLt
  simp only [Boot.bootstat, h, Bool.false_eq_true, if_false, BitVec.toNat_ofNat]
  omega

/-- R5, log 26: after a warm reset BOOTSTAT.STAGE reads its Reset value, zero. -/
theorem Boot.bootstat_stage_warm (b : Boot) (h : b.statWarm = true) : b.bootstat.toNat % 2 ^ 4 = 0 := by
  simp only [Boot.bootstat, h, if_true, BitVec.toNat_ofNat]
  omega

theorem State.clearWarm_statWarm (s : State) : s.clearWarm.boot.statWarm = true := rfl
/-- R22: the runtime that runs goes on through a warm reset. -/
theorem State.clearWarm_stage (s : State) : s.clearWarm.boot.stage = s.boot.stage := by
  obtain ⟨pdies, _, hslots⟩ := s.clearSlots_eq
  simp only [State.clearWarm, hslots]
theorem State.bootNote_boot (was s : State) : (was.bootNote s).boot = s.boot := by
  obtain ⟨pend, sent, h⟩ := State.bootNote_eq was s
  rw [h]

/-- A machine whose base runtime runs, at the end of a warm reset that the host has asked for. -/
def baseAtWarmEnd : State :=
  { State.reset with
    resetRun := some ⟨false, 3, 0, true, [], false⟩
    boot := { Boot.reset with pending := false, stage := .base } }

/-- That warm reset ends: the base runtime still runs, and BOOTSTAT.STAGE reads 0. -/
theorem execResetComplete_baseAtWarmEnd : Gives .resetComplete baseAtWarmEnd fun t =>
    t.boot.stage = .base ∧ t.boot.bootstat.toNat % 2 ^ 4 = 0 := by
  refine ⟨_, execResetComplete_warm baseAtWarmEnd _ rfl rfl rfl (.inr rfl) rfl, ?_, ?_⟩
  · rw [State.bootNote_boot]
    exact baseAtWarmEnd.clearWarm_stage
  · rw [State.bootNote_boot]
    exact Boot.bootstat_stage_warm _ baseAtWarmEnd.clearWarm_statWarm

/-- Refutes O51: its first clause asks of every state that bits 3:0 of BOOTSTAT are the stage that runs. After a warm reset the
base runtime runs on, at stage 1, while BOOTSTAT holds its Reset values but for LEASE (R5, R22; log 26), so that STAGE reads 0.
The statement lacks the hypothesis that no warm reset has come since the boot (`statWarm = false`): with it the clause holds
(`Boot.bootstat_fields`). -/
theorem not_managementCommands : ¬Obligations.ManagementCommands := by
  intro h
  obtain ⟨t, _, hbase, hzero⟩ := execResetComplete_baseAtWarmEnd
  obtain ⟨⟨_, hstage, _⟩, _⟩ := h t
  rw [hzero, hbase] at hstage
  exact absurd hstage (by decide)
end Sys2Proof.Machine

namespace Sys2Proof.Machine
open Sys2Proof

/-! ### Firmware images and their load (03 R53, R55, R63) -/

/-- A check that fails gives its reason; one that passes leaves the checks after it. -/
theorem checked_eq_none {α : Type} {p : Prop} [Decidable p] {a : α} {x : Option α} :
    (if p then some a else x) = none ↔ ¬p ∧ x = none := by
  by_cases h : p <;> simp [h]

/-- R53: an image passes when its header, its signature, its body and its version pass. -/
theorem imageFault_eq_none_iff (img : List Byte) (bad : Bool) (kind : Nat) (hash : BitVec 256) (v : Nat) :
    imageFault img bad kind hash v = none ↔
      256 ≤ img.length ∧ fieldOf img 0 4 = 0x5746594C ∧ fieldOf img 4 2 = kind ∧ fieldOf img 6 2 = 1 ∧ 1 ≤ fieldOf img 12 4 ∧
      fieldOf img 12 4 ≤ 2 ^ 24 ∧ fieldOf img 10 2 = 0 ∧ fieldOf img 112 80 = 0 ∧ Config.sm3 (slice img 48 64) = hash ∧
      Config.sm2Verify (slice img 48 64) (slice img 0 192) (slice img 192 64) = true ∧ bad = false ∧
      (slice img 256 (fieldOf img 12 4)).length = fieldOf img 12 4 ∧
      (Config.sm3 (slice img 256 (fieldOf img 12 4))).toNat = fieldOf img 16 32 ∧ v ≤ fieldOf img 8 2 := by
  -- a body is never longer than the header says, and a length is zero or at least one
  have hbody : (slice img 256 (fieldOf img 12 4)).length < fieldOf img 12 4 ↔
      (slice img 256 (fieldOf img 12 4)).length ≠ fieldOf img 12 4 := by
    have : (slice img 256 (fieldOf img 12 4)).length ≤ fieldOf img 12 4 := List.length_take_le _ _
    omega
  have hlen : fieldOf img 12 4 = 0 ↔ ¬1 ≤ fieldOf img 12 4 := by omega
  unfold imageFault
  dsimp only
  rw [checked_eq_none, checked_eq_none, checked_eq_none, checked_eq_none, hbody, hlen]
  simp only [not_or, not_not, ne_eq, Bool.not_eq_true, Bool.not_eq_false, Bool.not_eq_eq_eq_not, Bool.not_true,
    Nat.not_lt, and_true, and_assoc]

section
variable (s : State) (hrun : s.boot.fwst = 1)
include hrun

/-- R63: a load whose image cannot be read ends with FWST 5. -/
theorem execFwLoadDone_unread : execFwLoadDone 1 s = .next { s with boot := { s.boot with fwst := 5 } } := by
  simp only [execFwLoadDone, hrun, ne_eq, not_true_eq_false, if_false, if_true]
/-- R53: no image above 16 MiB and its header is valid. -/
theorem execFwLoadDone_long (hlen : 2 ^ 24 + 256 < s.boot.fwLen.toNat) :
    execFwLoadDone 0 s = .next { s with boot := { s.boot with fwst := 3 } } := by
  have hread : ¬(0 : BitVec 1) = 1 := by decide
  simp only [execFwLoadDone, hrun, ne_eq, not_true_eq_false, hread, if_false, hlen, if_true]

variable (hlen : s.boot.fwLen.toNat ≤ 2 ^ 24 + 256) {img : List Byte}
  (himg : s.host.bytes s.boot.fwAddr.toNat s.boot.fwLen.toNat = img)
include hlen himg

/-- R55: an image that passes every check takes the customer slot. -/
theorem execFwLoadDone_valid (hok : imageFault img false 2 s.boot.keyHash s.boot.minVer.toNat = none) :
    execFwLoadDone 0 s = .next { s with boot := { s.boot with fwst := 2, flash := s.boot.flash.put 2 (some img) } } := by
  have hread : ¬(0 : BitVec 1) = 1 := by decide
  simp only [execFwLoadDone, hrun, ne_eq, not_true_eq_false, hread, if_false, Nat.not_lt.mpr hlen, himg, hok]
/-- R55: another leaves the customer slot as it was. -/
theorem execFwLoadDone_invalid (hbad : imageFault img false 2 s.boot.keyHash s.boot.minVer.toNat ≠ none) :
    execFwLoadDone 0 s = .next { s with boot := { s.boot with fwst := 3 } } := by
  obtain ⟨c, hc⟩ := Option.ne_none_iff_exists'.mp hbad
  have hread : ¬(0 : BitVec 1) = 1 := by decide
  simp only [execFwLoadDone, hrun, ne_eq, not_true_eq_false, hread, if_false, Nat.not_lt.mpr hlen, himg, hc]
end

/-! ### Firmware and quotes on the host's word (03 R62, R63) -/

theorem State.hasRuntime_iff (s : State) : s.hasRuntime = true ↔ s.boot.stage = .base ∨ s.boot.stage = .custom := by
  simp only [State.hasRuntime, Bool.or_eq_true, beq_iff_eq]
theorem State.windowOpen_iff (s : State) : s.windowOpen = true ↔ s.resetRun = none ∧ s.stripping = false := by
  simp only [State.windowOpen, Bool.and_eq_true, Option.isNone_iff_eq_none, Bool.not_eq_eq_eq_not, Bool.not_true]

/-- An event that would change nothing changes nothing, due or not. -/
theorem guarded_self (c : Bool) (s : State) : guarded c s s = s := ite_self s

/-- R55, R63: GO starts a load for a lease, and ends it at once without one. -/
theorem execFwctlGo_starts (s : State) (hopen : s.windowOpen = true) (hidle : s.boot.fwst ≠ 1) (hrt : s.hasRuntime = true) :
    execFwctlGo s = .next { s with boot := { s.boot with fwst := if s.boot.lease = .enrolled then 1 else 4 } } := by
  simp only [execFwctlGo, guarded, hopen, if_true, State.startLoad, hidle, hrt, Bool.not_true, Bool.false_eq_true, or_self, if_false]
/-- R63, log 29: GO is ignored while a load runs, and where no runtime runs. -/
theorem execFwctlGo_ignored (s : State) (h : s.boot.fwst = 1 ∨ ¬s.hasRuntime = true) : execFwctlGo s = .next s := by
  have hload : s.startLoad = s := if_pos (h.imp_right fun hrt => by rw [Bool.eq_false_iff.mpr hrt]; rfl)
  rw [execFwctlGo, hload, guarded_self]

/-- R62: GO asks for a quote over QNONCE0-3 and clears DONE. -/
theorem execQctlGo_asks (s : State) (hopen : s.windowOpen = true) (hrt : s.hasRuntime = true) :
    execQctlGo s = .next { s with boot := { s.boot with
      qdone := false
      quotes := s.boot.quotes ++
        [⟨s.boot.qnonce.get 3 ++ s.boot.qnonce.get 2 ++ s.boot.qnonce.get 1 ++ s.boot.qnonce.get 0, true⟩] } } := by
  simp only [execQctlGo, guarded, hopen, if_true, State.askQuote, hrt, Bool.not_true, Bool.false_eq_true, if_false]
/-- Log 29: without a runtime nobody signs. -/
theorem execQctlGo_ignored (s : State) (hrt : ¬s.hasRuntime = true) : execQctlGo s = .next s := by
  have hask : s.askQuote = s := if_pos (by rw [Bool.eq_false_iff.mpr hrt]; rfl)
  rw [execQctlGo, hask, guarded_self]

/-! ### Key slots (03 R60) -/

/-- What a list of key slots holds for a handle. -/
def keyOf (h : BitVec 12) (l : List (BitVec 12 × BitVec 128 × BitVec 128)) : Option (BitVec 12 × BitVec 128 × BitVec 128) :=
  l.find? fun k => k.1 == h

theorem State.keyed_eq (s : State) (h : BitVec 12) : s.keyed h = (keyOf h s.boot.keys).isSome :=
  List.isSome_find?.symm
theorem State.keyPair_of_keyOf {s : State} {h n : BitVec 12} {p : BitVec 128 × BitVec 128}
    (hk : keyOf h s.boot.keys = some (n, p)) : s.keyPair h = p := by
  unfold keyOf at hk
  rw [State.keyPair, hk]
/-- What a key slot reads as, by what is listed for it. -/
theorem State.key_congr {s t : State} {h : BitVec 12} (hk : keyOf h t.boot.keys = keyOf h s.boot.keys) :
    t.keyPair h = s.keyPair h ∧ t.keyed h = s.keyed h := by
  refine ⟨?_, by rw [State.keyed_eq, State.keyed_eq, hk]⟩
  unfold keyOf at hk
  rw [State.keyPair, State.keyPair, hk]

theorem keyOf_cons_same (n : BitVec 12) (p : BitVec 128 × BitVec 128) (l : List (BitVec 12 × BitVec 128 × BitVec 128)) :
    keyOf n ((n, p) :: l) = some (n, p) := List.find?_cons_of_pos (beq_self_eq_true n)
theorem keyOf_cons_ne {n h : BitVec 12} (hn : n ≠ h) (p : BitVec 128 × BitVec 128)
    (l : List (BitVec 12 × BitVec 128 × BitVec 128)) : keyOf h ((n, p) :: l) = keyOf h l :=
  List.find?_cons_of_neg (by simpa using hn)

/-- R60: slot n holds the pair put into it. -/
theorem keyOf_putKey_same (n : BitVec 12) (k t : BitVec 128) (l : List (BitVec 12 × BitVec 128 × BitVec 128)) :
    keyOf n (putKey n k t l) = some (n, k, t) := by
  induction l with
  | nil => exact keyOf_cons_same n _ _
  | cons p r ih =>
    rw [putKey]
    split_ifs with hlt heq
    · exact keyOf_cons_same n _ _
    · exact keyOf_cons_same n _ _
    · rw [keyOf_cons_ne (Ne.symm heq)]
      exact ih
/-- R60: and no other slot changes. -/
theorem keyOf_putKey_ne {n h : BitVec 12} (hn : h ≠ n) (k t : BitVec 128) (l : List (BitVec 12 × BitVec 128 × BitVec 128)) :
    keyOf h (putKey n k t l) = keyOf h l := by
  induction l with
  | nil => exact keyOf_cons_ne hn.symm _ _
  | cons p r ih =>
    rw [putKey]
    split_ifs with hlt heq
    · exact keyOf_cons_ne hn.symm _ _
    · rw [keyOf_cons_ne hn.symm, keyOf_cons_ne (heq ▸ hn.symm)]
    · unfold keyOf at ih ⊢
      rw [List.find?_cons, List.find?_cons, ih]

/-- R60: a slot that is zeroed is empty. -/
theorem keyOf_filter_same (n : BitVec 12) (l : List (BitVec 12 × BitVec 128 × BitVec 128)) :
    keyOf n (l.filter fun k => k.1 != n) = none := by
  rw [keyOf, List.find?_filter, List.find?_eq_none]
  intro k _
  simp
theorem keyOf_filter_ne {n h : BitVec 12} (hn : h ≠ n) (l : List (BitVec 12 × BitVec 128 × BitVec 128)) :
    keyOf h (l.filter fun k => k.1 != n) = keyOf h l := by
  rw [keyOf, List.find?_filter, keyOf]
  refine congrArg (List.find? · l) (funext fun k => ?_)
  by_cases hk : k.1 = h
  · simp [hk, hn]
  · simp [hk]

section
variable (s : State) (hrun : s.resetRun = none)
include hrun

theorem execKeycmdLoad_eq : execKeycmdLoad s = .next s.keyLoad := by rw [execKeycmdLoad, hrun]; rfl
theorem execKeycmdZero_eq : execKeycmdZero s = .next s.keyZero := by rw [execKeycmdZero, hrun]; rfl

/-- R60: what LOAD and ZERO both refuse; KEYDATA is cleared all the same. -/
theorem execKeycmd_refused {e : BitVec 2} (he : s.keyRefusal = some e) :
    execKeycmdLoad s = .next (s.keyDone e id) ∧ execKeycmdZero s = .next (s.keyDone e id) := by
  rw [execKeycmdLoad_eq s hrun, execKeycmdZero_eq s hrun]
  simp only [State.keyLoad, State.keyZero, he, and_self]
end

theorem State.keyRefusal_busy (s : State) (h : s.stripping = true ∨ s.boot.stage = .romhalt) : s.keyRefusal = some 3 := if_pos h
section
variable (s : State) (hbusy : ¬(s.stripping = true ∨ s.boot.stage = .romhalt))
include hbusy
theorem State.keyRefusal_inUse (hv : (s.entry s.boot.keySel).valid = true) : s.keyRefusal = some 1 :=
  (if_neg hbusy).trans (if_pos hv)
theorem State.keyRefusal_none (hv : (s.entry s.boot.keySel).valid = false) : s.keyRefusal = none :=
  (if_neg hbusy).trans (if_neg (Bool.eq_false_iff.mp hv))
end

section
variable (s : State) (href : s.keyRefusal = none)
include href

/-- R60: LOAD of a data key equal to its tweak key is weak. -/
theorem State.keyLoad_weak (hw : s.boot.keyData.get 1 ++ s.boot.keyData.get 0 = s.boot.keyData.get 3 ++ s.boot.keyData.get 2) :
    s.keyLoad = s.keyDone 2 id := by
  simp only [State.keyLoad, href, hw, if_true]
/-- R60: another LOAD puts the key pair into its slot. -/
theorem State.keyLoad_ok (hw : s.boot.keyData.get 1 ++ s.boot.keyData.get 0 ≠ s.boot.keyData.get 3 ++ s.boot.keyData.get 2) :
    s.keyLoad = s.keyDone 0 fun b => { b with
      keys := putKey b.keySel (s.boot.keyData.get 1 ++ s.boot.keyData.get 0) (s.boot.keyData.get 3 ++ s.boot.keyData.get 2) b.keys } := by
  simp only [State.keyLoad, href, hw, if_false]
/-- R60: ZERO empties the slot. -/
theorem State.keyZero_ok : s.keyZero = s.keyDone 0 fun b => { b with keys := b.keys.filter fun k => k.1 != b.keySel } := by
  simp only [State.keyZero, href]

variable (hrun : s.resetRun = none)
include hrun

/-- R60: LOAD: the slot holds the pair, the other slots what they held, and KEYDATA zero. -/
theorem keycmdLoad_spec (hw : s.boot.keyData.get 1 ++ s.boot.keyData.get 0 ≠ s.boot.keyData.get 3 ++ s.boot.keyData.get 2) :
    Gives .keycmdLoad s fun t =>
      t.keyPair s.boot.keySel = (s.boot.keyData.get 1 ++ s.boot.keyData.get 0, s.boot.keyData.get 3 ++ s.boot.keyData.get 2) ∧
      t.keyed s.boot.keySel = true ∧ t.boot.keyStatus = 0 ∧ (∀ i, t.boot.keyData.get i = 0) ∧ t.hbm = s.hbm ∧ t.slots = s.slots ∧
      ∀ h, h ≠ s.boot.keySel → t.keyPair h = s.keyPair h ∧ t.keyed h = s.keyed h := by
  refine ⟨s.keyLoad, execKeycmdLoad_eq s hrun, ?_⟩
  rw [s.keyLoad_ok href hw]
  have hslot := keyOf_putKey_same s.boot.keySel (s.boot.keyData.get 1 ++ s.boot.keyData.get 0)
    (s.boot.keyData.get 3 ++ s.boot.keyData.get 2) s.boot.keys
  refine ⟨State.keyPair_of_keyOf hslot, ?_, rfl, fun i => RegFile.get_fill i _, rfl, rfl, fun h hh => ?_⟩
  · exact (State.keyed_eq _ _).trans (congrArg Option.isSome hslot)
  · exact State.key_congr (keyOf_putKey_ne hh _ _ _)
/-- R60: ZERO: the slot is empty, the other slots hold what they held, and KEYDATA zero. -/
theorem keycmdZero_spec : Gives .keycmdZero s fun t =>
    t.keyed s.boot.keySel = false ∧ t.boot.keyStatus = 0 ∧ (∀ i, t.boot.keyData.get i = 0) ∧ t.hbm = s.hbm ∧
    t.slots = s.slots ∧ ∀ h, h ≠ s.boot.keySel → t.keyPair h = s.keyPair h ∧ t.keyed h = s.keyed h := by
  refine ⟨s.keyZero, execKeycmdZero_eq s hrun, ?_⟩
  rw [s.keyZero_ok href]
  refine ⟨?_, rfl, fun i => RegFile.get_fill i _, rfl, rfl, fun h hh => ?_⟩
  · exact (State.keyed_eq _ _).trans (congrArg Option.isSome (keyOf_filter_same s.boot.keySel s.boot.keys))
  · exact State.key_congr (keyOf_filter_ne hh _)
end

/-- Settles O52: the checks of an image, the ends of a load, the host's GO, and a key command by what refuses it. -/
theorem firmwareAndKeys : Obligations.FirmwareAndKeys := by
  refine ⟨imageFault_eq_none_iff, fun s => ?_⟩
  intro put done runtime img data tweak busy
  refine ⟨fun hrun => ⟨execFwLoadDone_unread s hrun, execFwLoadDone_long s hrun, fun hlen => execFwLoadDone_valid s hrun hlen rfl,
    fun hlen => execFwLoadDone_invalid s hrun hlen rfl⟩, fun hreset => ?_⟩
  have hrt : s.hasRuntime = true ↔ runtime := s.hasRuntime_iff
  have hopen : s.stripping = false → s.windowOpen = true := fun h => s.windowOpen_iff.mpr ⟨hreset, h⟩
  refine ⟨fun hs hi hr => execFwctlGo_starts s (hopen hs) hi (hrt.mpr hr),
    fun h => execFwctlGo_ignored s (h.imp_right (mt hrt.mp)), fun hb => execKeycmd_refused s hreset (s.keyRefusal_busy hb),
    fun hb hv => execKeycmd_refused s hreset (s.keyRefusal_inUse hb hv), fun hb hv => ?_,
    fun hs hr => execQctlGo_asks s (hopen hs) (hrt.mpr hr), fun h => execQctlGo_ignored s (mt hrt.mp h)⟩
  have href := s.keyRefusal_none hb hv
  exact ⟨fun hw => (execKeycmdLoad_eq s hreset).trans (congrArg _ (s.keyLoad_weak href hw)),
    keycmdLoad_spec s href hreset, keycmdZero_spec s href hreset⟩
end Sys2Proof.Machine

namespace Sys2Proof.Machine
open Sys2Proof

/-! ### Packets at HEAD (04 R70-R73, 05 R77, R79) -/

/-- A queue changed twice. -/
theorem State.onQueue_onQueue (s : State) (q : BitVec 6) (f g : Queue → Queue) :
    (s.onQueue q f).onQueue q g = s.onQueue q fun x => g (f x) := by
  simp only [State.onQueue, RegFile.get_put_same, RegFile.put_put]

/-- R77: the slot that a new context takes is FREE, and no lower one is. -/
theorem State.freeSlot_eq_some {s : State} {c : BitVec 4} (hfree : (s.slot c).state = .free)
    (hlow : ∀ k : BitVec 4, k.toNat < c.toNat → (s.slot k).state ≠ .free) : s.freeSlot = some c := by
  refine List.find?_eq_some_iff_getElem.mpr ⟨beq_iff_eq.mpr hfree, c.toNat, by simp [allSlots, c.isLt], by simp [allSlots], ?_⟩
  intro j hj
  have hslot : (BitVec.ofNat 4 j).toNat = j := by
    rw [BitVec.toNat_ofNat]
    omega
  simpa [allSlots] using hlow (BitVec.ofNat 4 j) (by omega)

theorem State.freeSlot_eq_none {s : State} (h : ∀ c, (s.slot c).state ≠ .free) : s.freeSlot = none :=
  List.find?_eq_none.mpr fun c _ => by simpa using h c

/-- Whether another queue's LAUNCH comes before one of this queue with a priority (R71). -/
def State.launchBehind (s : State) (q : BitVec 6) (prio : Nat) : Bool :=
  s.launches.any fun l => l.1 != q &&
    (decide (prio < l.2.1) || (l.2.1 == prio && decide (l.2.2 < (s.queues.get q).since)))

theorem State.launchBehind_eq_false_iff (s : State) (q : BitVec 6) (prio : Nat) :
    s.launchBehind q prio = false ↔ ∀ l ∈ s.launches, l.1 = q ∨
      ¬(prio < l.2.1 ∨ (l.2.1 = prio ∧ l.2.2 < (s.queues.get q).since)) := by
  simp only [State.launchBehind, List.any_eq_false, Bool.and_eq_true, Bool.or_eq_true, bne_iff_ne, beq_iff_eq,
    decide_eq_true_eq, not_and_or, not_not]

/-- R77: with no SPAWN to issue a LAUNCH looks for a slot. -/
theorem execLaunch_launchTo (s : State) (q : BitVec 6) (hk : ∀ k, s.spawnReady k = false) :
    execLaunch q s = .next (s.launchTo q) := by
  have hany : ¬allSlots.any s.spawnReady = true := by simp [List.any_eq_true, hk]
  rw [execLaunch, if_neg hany]

section
variable (s : State) (q : BitVec 6) (b : List Byte)
  (hact : (s.queues.get q).state = .active ∨ (s.queues.get q).state = .blocked) (hst : (s.queues.get q).staged = .bytes b)
include hact hst

/-- R70: a packet acts once it stands staged at HEAD of a queue that is ACTIVE or BLOCKED. -/
theorem State.onPacket_staged {type : Nat} (ht : fieldOf b 0 1 = type) (f : List Byte → PacketId → State) :
    s.onPacket q type f = f b (packetId q (s.queues.get q).head b) := by
  unfold State.onPacket
  rcases hact with h | h <;> simp only [h, hst, ht, if_true]

section
variable (ht : fieldOf b 0 1 = 1)
include ht

/-- R71, R77: behind another LAUNCH, or without a free slot, a LAUNCH blocks. -/
theorem State.launchTo_blocks (h : s.freeSlot = none ∨ s.launchBehind q (descOf (b.drop 16)).prio.toNat = true) :
    s.launchTo q = s.block q := by
  have hnone : (if s.launchBehind q (descOf (b.drop 16)).prio.toNat then none else s.freeSlot) = none := by
    rcases h with h | h
    · rw [h, ite_self]
    · exact if_pos h
  unfold State.launchBehind at hnone
  rw [State.launchTo, s.onPacket_staged q b hact hst ht]
  dsimp only
  rw [hnone]

/-- R71, R77, R79: else it takes the free slot, as the root of a new family, and retires. -/
theorem State.launchTo_takes (hfirst : s.launchBehind q (descOf (b.drop 16)).prio.toNat = false) {c : BitVec 4}
    (hc : s.freeSlot = some c) :
    let t := s.newContext c (descOf (b.drop 16)) (descOf (b.drop 16)).prio q (s.famNo + 1) none none
    s.launchTo q = ({ t with
      famNo := s.famNo + 1
      families := t.families ++ [Family.mk (s.famNo + 1) (packetId q (s.queues.get q).head b) c 1 0 none false] }).onQueue q
        Queue.retire := by
  intro t
  unfold State.launchBehind at hfirst
  rw [State.launchTo, s.onPacket_staged q b hact hst ht]
  dsimp only
  rw [hfirst, if_neg Bool.false_ne_true, hc]

/-- R77: while a SPAWN issues a LAUNCH blocks. -/
theorem execLaunch_behind_spawn {k : BitVec 4} (hk : s.spawnReady k = true) : execLaunch q s = .next (s.block q) := by
  have hany : allSlots.any s.spawnReady = true := List.any_eq_true.mpr ⟨k, mem_allSlots k, hk⟩
  rw [execLaunch, if_pos hany, s.onPacket_staged q b hact hst ht]

/-- R71, R77: a LAUNCH blocks without a free slot, behind another LAUNCH and behind a SPAWN. -/
theorem execLaunch_blocks (h : s.freeSlot = none ∨ s.launchBehind q (descOf (b.drop 16)).prio.toNat = true ∨
    ∃ k, s.spawnReady k = true) : execLaunch q s = .next (s.block q) := by
  by_cases hspawn : ∃ k, s.spawnReady k = true
  · obtain ⟨k, hk⟩ := hspawn
    exact execLaunch_behind_spawn s q b hact hst ht hk
  · rw [execLaunch_launchTo s q (by simpa using hspawn), s.launchTo_blocks q b hact hst ht (by tauto)]

/-- R71, R77, R79: a LAUNCH that nothing comes before makes its context in the free slot. -/
theorem execLaunch_starts (hk : ∀ k, s.spawnReady k = false)
    (hfirst : s.launchBehind q (descOf (b.drop 16)).prio.toNat = false) {c : BitVec 4} (hc : s.freeSlot = some c) :
    Gives (.launch q) s fun t =>
      t.slot c = { Slot.blank with
        state := .waiting, prio := (descOf (b.drop 16)).prio, queue := q, parentLife := (s.slot 0).life
        life := (s.slot c).life + 1, desc := descOf (b.drop 16), launchTime := s.time, since := s.time, fam := s.famNo + 1
        ctx := { Ctx.blank with fixed := (descOf (b.drop 16)).fixed } } ∧
      (∀ k, k ≠ c → t.slot k = s.slot k) ∧
      t.families = s.families ++ [⟨s.famNo + 1, packetId q (s.queues.get q).head b, c, 1, 0, none, false⟩] ∧
      t.queues = (s.onQueue q Queue.retire).queues ∧ t.schedDue = true := by
  refine ⟨_, execLaunch_launchTo s q hk, ?_⟩
  rw [s.launchTo_takes q b hact hst ht hfirst hc]
  exact ⟨s.slot_putSlot_same c _, fun k hkc => s.slot_putSlot_ne _ hkc, rfl, rfl, rfl⟩
end

/-- R72: a WAIT retires once its condition has held, and blocks before. -/
theorem execWait_eq (ht : fieldOf b 0 1 = 2) : execWait q s = .next (
    if (s.queues.get q).met then s.finish q (packetId q (s.queues.get q).head b) 0 else s.block q) :=
  congrArg _ (s.onPacket_staged q b hact hst ht _)

/-- R72, R73: a WAIT whose timeout passes before its condition has held fails with TIMEOUT. -/
theorem execWaitTimeout_late (ht : fieldOf b 0 1 = 2) (hm : (s.queues.get q).met = false) (h0 : fieldOf b 32 4 ≠ 0)
    (hlate : msPs (fieldOf b 32 4) ≤ s.time - (s.queues.get q).since) : execWaitTimeout q s =
      .next (s.recordError (packetId q (s.queues.get q).head b) 3 0 4 ((s.queues.get q).offset (s.queues.get q).head)) := by
  refine congrArg _ ((s.onPacket_staged q b hact hst ht _).trans (if_pos ?_))
  simp only [bne_iff_ne, ne_eq, h0, not_false_eq_true, hlate, decide_true, hm, Bool.not_false, Bool.and_true]

/-- R72: SIGNAL sets its object, or adds to it. -/
theorem execSignal_eq (ht : fieldOf b 0 1 = 3) :
    let i : BitVec 8 := BitVec.ofNat 8 (fieldOf b 16 2)
    let v : Xword := BitVec.ofNat 64 (fieldOf b 24 8)
    execSignal q s = .next ((s.setSig i (if fieldOf b 18 1 = 0 then v else s.sigobj.get i + v)).finish q
      (packetId q (s.queues.get q).head b) 0) :=
  congrArg _ (s.onPacket_staged q b hact hst ht _)

/-- R70, R75: a FENCE retires unless a copy of its queue, or a family that no destroy has left, is under way. -/
theorem execFence_eq (ht : fieldOf b 0 1 = 5) : execFence q s = .next (
    if (s.queues.get q).copies ≠ [] ∨ ∃ f ∈ s.families, f.pkt.queue = q ∧ f.gone = false then s.block q
    else s.finish q (packetId q (s.queues.get q).head b) 0) := by
  refine congrArg _ ((s.onPacket_staged q b hact hst ht _).trans (if_congr (or_congr_right ?_) rfl rfl))
  simp only [List.any_eq_true, Bool.and_eq_true, beq_iff_eq, Bool.not_eq_true']

/-- R72: MARK triggers a snapshot if it says so, and completes with its value. -/
theorem execMark_eq (ht : fieldOf b 0 1 = 6) : execMark q s = .next (
    (if fieldOf b 24 1 = 1 then s.trigger 4 0 0 else s).finish q (packetId q (s.queues.get q).head b) (fieldOf b 16 8)) :=
  congrArg _ (s.onPacket_staged q b hact hst ht _)

/-- R70, R72: HCOPY starts its copy and retires. -/
theorem execHcopy_eq (ht : fieldOf b 0 1 = 4) :
    let k : HostCopy := ⟨packetId q (s.queues.get q).head b, BitVec.ofNat 64 (fieldOf b 16 8), BitVec.ofNat 64 (fieldOf b 24 8),
      fieldOf b 32 8, decide (fieldOf b 40 1 % 2 = 1), decide (fieldOf b 40 1 / 2 = 1), false⟩
    execHcopy q s = .next ((s.onQueue q fun x => { x with copies := x.copies ++ [k] }).onQueue q Queue.retire) := by
  intro k
  rw [State.onQueue_onQueue]
  exact congrArg _ (s.onPacket_staged q b hact hst ht _)
end

/-- Settles O39: each packet by the equation of its event. -/
theorem packetsAct : Obligations.PacketsAct := by
  intro s q b x hact hst type p put retires blocked first
  have hfirst : s.launchBehind q (descOf (b.drop 16)).prio.toNat = false ↔ first := s.launchBehind_eq_false_iff q _
  refine ⟨fun ht hf hk c hc hlow => ?_, fun ht h => ?_, fun ht hm => ?_, fun ht hm => ?_, fun ht hm h0 hlate => ?_,
    execSignal_eq s q b hact hst, fun ht hcopies hgone => ?_, fun ht h => ?_, execMark_eq s q b hact hst,
    execHcopy_eq s q b hact hst⟩
  · exact execLaunch_starts s q b hact hst ht hk (hfirst.mpr hf) (State.freeSlot_eq_some hc hlow)
  · refine execLaunch_blocks s q b hact hst ht (h.imp State.freeSlot_eq_none (Or.imp_left fun hf => ?_))
    exact Bool.eq_true_of_not_eq_false (mt hfirst.mp hf)
  · exact (execWait_eq s q b hact hst ht).trans (congrArg _ (if_pos hm))
  · exact (execWait_eq s q b hact hst ht).trans (congrArg _ (if_neg (Bool.eq_false_iff.mp hm)))
  · exact execWaitTimeout_late s q b hact hst ht hm h0 hlate
  · refine (execFence_eq s q b hact hst ht).trans (congrArg _ (if_neg ?_))
    rintro (h | ⟨f, hf, hq, hleft⟩)
    · exact h hcopies
    · exact Bool.false_ne_true (hleft.symm.trans (hgone f hf hq))
  · exact (execFence_eq s q b hact hst ht).trans (congrArg _ (if_pos h))
end Sys2Proof.Machine

namespace Sys2Proof.Machine
open Sys2Proof

/-! ### Copies (04 R72, R73) -/

/-- No relocation holds a copy that reaches neither side through the relocated handle (R173). -/
theorem State.copyHeld_eq_false {s : State} {k : HostCopy}
    (h : ∀ r, s.transl.relocRun = some r →
      (k.srcBus = true ∨ handleOf k.src ≠ r.1) ∧ (k.dstBus = true ∨ handleOf k.dst ≠ r.1)) :
    s.copyHeld k = false := by
  unfold State.copyHeld
  cases hr : s.transl.relocRun with
  | none => rfl
  | some r =>
    obtain ⟨hsrc, hdst⟩ := h r hr
    simp only [Option.any_some, Bool.or_eq_false_iff, Bool.and_eq_false_iff, Bool.not_eq_false', beq_eq_false_iff_ne]
    exact ⟨hsrc, hdst⟩

/-- R72: a copy between bus addresses is not stopped by a translation. -/
theorem State.copyLength_bus (s : State) (k : HostCopy) (hs : k.srcBus = true) (hd : k.dstBus = true) :
    s.copyLength k = k.len := by
  simp only [State.copyLength, State.copyReach, hs, hd, if_true, min_self]

/-- R72: what a copy within host memory whose sides stand apart moves. -/
theorem State.copyBytes_bus (s : State) (k : HostCopy) (hs : k.srcBus = true) (hd : k.dstBus = true) (h0 : k.len ≠ 0)
    (hc : s.copyClash k k.len = false) : s.copyBytes k k.len =
      { s with host := s.host.putBytes k.dst.toNat (s.host.bytes k.src.toNat k.len) } := by
  simp only [State.copyBytes, h0, hc, hs, hd, State.copyWrite, State.copyRead, State.wrMem, State.rdMem, if_true, if_false,
    Bool.false_eq_true]

theorem Transl.commitsWait_iff (t : Transl) :
    (t.pending != [] || !t.heldCommit.isEmpty) = true ↔ ¬(t.pending = [] ∧ t.heldCommit = []) := by
  simp only [Bool.or_eq_true, bne_iff_ne, Bool.not_eq_true', List.isEmpty_eq_false_iff]
  tauto

section
variable {s : State} {q : BitVec 6} {i : BitVec 32} {k : HostCopy}
  (hk : ((s.queues.get q).copies.find? fun k => k.pkt.index == i) = some k) (hw : k.written = false)
include hk

theorem HostCopy.index_of_find : k.pkt.index = i := by
  simpa using List.find?_some hk

/-- R72, R73: a copy that faults is given up with what it has moved. -/
theorem State.copyFault_eq (n : Nat) : s.copyFault q k n =
    ((s.copyBytes k n).dropCopy q i).recordError k.pkt 2 n 3 ((s.queues.get q).offset k.pkt.index) :=
  congrArg (fun j => ((s.copyBytes k n).dropCopy q j).recordError k.pkt 2 n 3 ((s.queues.get q).offset k.pkt.index))
    (HostCopy.index_of_find hk)

include hw

/-- R30, R72: a request of a copy that fails stops it there, or where it faults before. -/
theorem execHcopyFault_eq (bytes : BitVec 32) :
    execHcopyFault q i bytes s = .next (s.copyFault q k (min bytes.toNat (s.copyLength k))) := by
  simp only [execHcopyFault, hk, hw, if_false, Bool.false_eq_true]

variable (hheld : s.copyHeld k = false)
include hheld

/-- R72: a copy whose translation stops it before its last byte faults there. -/
theorem execHcopyComplete_fault (h : s.copyLength k < k.len) :
    execHcopyComplete q i s = .next (s.copyFault q k (s.copyLength k)) := by
  simp only [execHcopyComplete, hk, hw, hheld, h, if_true, if_false, Bool.false_eq_true]

variable (hall : k.len ≤ s.copyLength k)
include hall

/-- R72, R73: a copy that reaches its last byte completes with its length. -/
theorem execHcopyComplete_done (hdst : k.dstBus = true ∨ handleOf k.dst ≠ 0) :
    execHcopyComplete q i s = .next (((s.copyBytes k k.len).dropCopy q i).record k.pkt 0 0xFFFF k.len) := by
  have hmem : (!k.dstBus && handleOf k.dst == 0) = false := by
    rw [Bool.and_eq_false_iff, Bool.not_eq_false', beq_eq_false_iff_ne]
    exact hdst
  simp only [execHcopyComplete, hk, hw, hheld, Nat.not_lt.mpr hall, hmem, Bool.false_and, if_false, Bool.false_eq_true]

/-- R72, R172: a copy into the table window waits for the commits that it has made. -/
theorem execHcopyComplete_table (hbus : k.dstBus = false) (hdst : handleOf k.dst = 0) :
    let t := s.copyBytes k k.len
    execHcopyComplete q i s = .next (if t.transl.pending = [] ∧ t.transl.heldCommit = [] then
      (t.dropCopy q i).record k.pkt 0 0xFFFF k.len
      else t.onQueue q fun x =>
        { x with copies := x.copies.map fun j => if j.pkt.index = i then { j with written := true } else j }) := by
  intro t
  simp only [execHcopyComplete, hk, hw, hheld, Nat.not_lt.mpr hall, hbus, hdst, Bool.not_false, beq_self_eq_true, Bool.true_and,
    Transl.commitsWait_iff, ite_not, if_false, Bool.false_eq_true, t]
end

/-! ### Control of a queue (04 R65, R72, R74, R75) -/

section
variable {s : State} (hopen : s.hostOpen = true) {q : BitVec 6}
include hopen

/-- R65: ENABLE of a DISABLED queue. -/
theorem execEnable_disabled (h : (s.queues.get q).state = .disabled) :
    execEnable q s = .next (s.onQueue q fun x => { x with state := .idle, head := 0, tail := 0 }) := by
  simp only [execEnable, State.queueEnable, guarded, hopen, h, beq_self_eq_true, if_true]

section
variable (h : (s.queues.get q).state = .error)
include h

/-- R74: RETRY stages again from HEAD. -/
theorem execRetry_error : execRetry q s = .next (s.onQueue q Queue.resume) := by
  simp only [execRetry, State.queueRetry, guarded, hopen, h, beq_self_eq_true, if_true]

/-- R74: SKIP retires the packet at HEAD if the error is its own (1, 2, 4 and 5). -/
theorem execSkip_error : execSkip q s = .next (s.onQueue q
    (if (s.queues.get q).errcode = 1 ∨ (s.queues.get q).errcode = 2 ∨ (s.queues.get q).errcode = 4 ∨
      (s.queues.get q).errcode = 5
    then Queue.retire else Queue.resume)) := by
  simp only [execSkip, State.queueSkip, guarded, hopen, h, beq_self_eq_true, if_true, Bool.or_eq_true, beq_iff_eq, or_assoc]
  split_ifs <;> rfl
end

/-- R64, R72: a host write of a signal object. -/
theorem execSigobjWrite_open (i : BitVec 8) (v : Xword) : execSigobjWrite i v s = .next (s.setSig i v) :=
  congrArg _ (if_pos hopen)
end

/-- R72: a WAIT on an object is met by a value that it awaits, as long as its timeout has not passed. -/
theorem State.setSig_meets {s : State} {q : BitVec 6} {i : BitVec 8} {v : Xword} {b : List Byte}
    (hst : (s.queues.get q).staged = .bytes b) (ht : fieldOf b 0 1 = 2) (hobj : fieldOf b 16 2 = i.toNat)
    (hv : fieldOf b 24 8 ≤ v.toNat)
    (htime : fieldOf b 32 4 = 0 ∨ s.time - (s.queues.get q).since < msPs (fieldOf b 32 4)) :
    (s.setSig i v).queues.get q = { s.queues.get q with met := true } := by
  have hmet : (s.queues.get q).waitMet s.time i.toNat v = true := by
    simp only [Queue.waitMet, hst, ht, hobj, hv, beq_self_eq_true, decide_true, Bool.true_and, Bool.or_eq_true, beq_iff_eq,
      decide_eq_true_eq]
    exact htime
  exact (RegFile.get_map _ _ _).trans (if_pos hmet)

/-- R75: a queue that is destroyed drains until its DRAINING slots have only their fatal records to wait for. -/
theorem execDestroyDrainDone_drained {s : State} {q : BitVec 6} (h : (s.queues.get q).state = .destroying)
    (hdrained : ∀ c, (s.slot c).queue = q → (s.slot c).state = .draining → s.fatalWaits c = true) :
    execDestroyDrainDone q s = .next (s.onQueue q fun x =>
      { x with state := .disabled, head := 0, tail := 0, errcode := 0, erroff := 0 }) := by
  have hidle : (allSlots.any fun c => (s.slot c).state == .draining && (s.slot c).queue == q && !s.fatalWaits c) = false := by
    simp only [List.any_eq_false, Bool.and_eq_true, beq_iff_eq, Bool.not_eq_true', not_and, Bool.not_eq_false]
    exact fun c _ hc => hdrained c hc.2 hc.1
  simp only [execDestroyDrainDone, guarded, h, hidle, beq_self_eq_true, Bool.not_false, Bool.and_self, if_true]

/-! ### What an abandoned copy leaves (04 R75) -/

/-- Neither a queue nor a context slot has changed. -/
structure KeepsContexts (s t : State) : Prop where
  queues : t.queues = s.queues
  slots : t.slots = s.slots

theorem KeepsContexts.refl (s : State) : KeepsContexts s s := ⟨rfl, rfl⟩
theorem KeepsContexts.trans {s t u : State} (h : KeepsContexts s t) (k : KeepsContexts t u) : KeepsContexts s u :=
  ⟨k.queues.trans h.queues, k.slots.trans h.slots⟩
theorem KeepsContexts.foldl {α : Type} {f : State → α → State} (hf : ∀ s a, KeepsContexts s (f s a)) (l : List α) (s : State) :
    KeepsContexts s (l.foldl f s) :=
  List.foldlRecOn l f (.refl s) fun t ht a _ => ht.trans (hf t a)

theorem State.wrMem_keepsContexts (s : State) (host : Bool) (a : Nat) (b : List Byte) : KeepsContexts s (s.wrMem host a b) := by
  cases host
  · exact ⟨rfl, rfl⟩
  · exact ⟨rfl, rfl⟩

theorem State.wrRun_keepsContexts (s : State) (r : Run) (b : List Byte) : KeepsContexts s (s.wrRun r b) := by
  unfold State.wrRun
  split <;> exact s.wrMem_keepsContexts _ _ _

theorem State.stageHandle_keepsContexts (s : State) (h : BitVec 12) (w : BitVec 2) (be : BitVec 8) (v : Xword) :
    KeepsContexts s (s.stageHandle h w be v) := by
  unfold State.stageHandle
  dsimp only
  split
  · exact .refl s
  · split
    case h_4 => exact .refl s
    all_goals exact ⟨rfl, rfl⟩

theorem State.commitHandle_keepsContexts (s : State) (h : BitVec 12) (be : BitVec 8) (v : Xword) :
    KeepsContexts s (s.commitHandle h be v) := by
  unfold State.commitHandle
  dsimp only
  split_ifs
  · exact .refl s
  · exact ⟨rfl, rfl⟩
  · split <;> exact ⟨rfl, rfl⟩

theorem State.relocate_keepsContexts (s : State) : KeepsContexts s s.relocate := by
  unfold State.relocate
  dsimp only
  split <;> exact ⟨rfl, rfl⟩

theorem State.invalidateGo_keepsContexts (s : State) (all : Bool) : KeepsContexts s (s.invalidateGo all) := by
  unfold State.invalidateGo
  split
  · exact .refl s
  · exact ⟨rfl, rfl⟩

/-- R169: a word written to the table window changes no queue and no context. The conditions are split before anything is
simplified: the kernel would otherwise count down the literal of the window's offset. -/
theorem State.windowWrite_keepsContexts (s : State) (off : Nat) (v : Xword) : KeepsContexts s (s.windowWrite off v) := by
  unfold State.windowWrite
  split
  · dsimp only
    split
    · exact s.commitHandle_keepsContexts _ _ _
    · exact s.stageHandle_keepsContexts _ _ _ _
  · split
    case h_3 =>
      split
      · exact ⟨(State.invalidateGo_keepsContexts _ _).queues, (State.invalidateGo_keepsContexts _ _).slots⟩
      · exact ⟨rfl, rfl⟩
    case h_5 =>
      split
      · exact ⟨(State.relocate_keepsContexts _).queues, (State.relocate_keepsContexts _).slots⟩
      · exact ⟨rfl, rfl⟩
    case h_6 => exact .refl s
    all_goals exact ⟨rfl, rfl⟩

theorem State.windowFill_keepsContexts (n : Nat) : ∀ (s : State) (off : Nat) (b : List Byte),
    KeepsContexts s (State.windowFill n s off b) := by
  induction n with
  | zero => exact fun s _ _ => .refl s
  | succ n ih => exact fun s off b => (s.windowWrite_keepsContexts off _).trans (ih _ _ _)

theorem State.copyWrite_keepsContexts (s : State) (bus : Bool) (a : Xword) (b : List Byte) :
    KeepsContexts s (s.copyWrite bus a b) := by
  unfold State.copyWrite
  split_ifs
  · exact s.wrMem_keepsContexts _ _ _
  · exact State.windowFill_keepsContexts _ _ _ _
  · split
    · exact s.wrRun_keepsContexts _ _
    · exact .refl s

theorem State.choose_keepsContexts (s : State) (n : Nat) : KeepsContexts s (s.choose n).2 := by
  unfold State.choose
  split
  · exact .refl s
  · exact ⟨rfl, rfl⟩

theorem State.copyPart_keepsContexts (s : State) (k : HostCopy) : KeepsContexts s (s.copyPart k) := by
  unfold State.copyPart
  dsimp only
  split
  · exact .refl s
  · refine .foldl (fun t j => ?_) _ s
    split
    · exact t.choose_keepsContexts 2
    · exact (t.choose_keepsContexts 2).trans (State.copyWrite_keepsContexts _ _ _ _)

theorem State.dropCopies_slots (s : State) (q : BitVec 6) : (s.dropCopies q).slots = s.slots :=
  (KeepsContexts.foldl State.copyPart_keepsContexts (s.queues.get q).copies s).slots
theorem State.dropCopies_queues (s : State) (q : BitVec 6) :
    (s.dropCopies q).queues = s.queues.put q { s.queues.get q with copies := [] } :=
  congrArg (fun l : RegFile Queue 6 => l.put q { l.get q with copies := [] })
    (KeepsContexts.foldl State.copyPart_keepsContexts (s.queues.get q).copies s).queues

/-! ### The death of a queue's contexts (04 R75, 13 R259) -/

/-- The queues are as they were, and every context still belongs to its queue. -/
structure KeepsQueues (s t : State) : Prop where
  queues : t.queues = s.queues
  ofSlot : ∀ c, (t.slot c).queue = (s.slot c).queue

theorem KeepsQueues.refl (s : State) : KeepsQueues s s := ⟨rfl, fun _ => rfl⟩
theorem KeepsQueues.trans {s t u : State} (h : KeepsQueues s t) (k : KeepsQueues t u) : KeepsQueues s u :=
  ⟨k.queues.trans h.queues, fun c => (k.ofSlot c).trans (h.ofSlot c)⟩
theorem KeepsQueues.of_put {s t : State} {c : BitVec 4} {x : Slot} (hqueues : t.queues = s.queues)
    (hslots : t.slots = s.slots.put c x) (hx : x.queue = (s.slot c).queue) : KeepsQueues s t := by
  refine ⟨hqueues, fun k => ?_⟩
  unfold State.slot
  rw [hslots]
  by_cases hk : k = c
  · rw [hk, RegFile.get_put_same, hx, State.slot]
  · rw [RegFile.get_put_ne _ _ hk]

theorem State.tellParent_keepsQueues (s : State) (c : BitVec 4) : KeepsQueues s (s.tellParent c) := by
  have hjoin : KeepsQueues s (s.onSlot c fun x => { x with join := none }) := .of_put rfl rfl rfl
  unfold State.tellParent
  dsimp only
  split
  · exact .refl s
  · split_ifs
    · exact hjoin
    · split
      · exact hjoin
      · exact hjoin
      all_goals exact hjoin.trans (.of_put rfl rfl rfl)

/-- R259: a death leaves the queues as they were. -/
theorem State.kill_keepsQueues (s : State) (c : BitVec 4) (i : DeadInfo) : KeepsQueues s (s.kill c i) := by
  by_cases hm : (s.slot c).state.mayDie
  · have hoffer : KeepsQueues s ((s.offer (s.fatalRec c i)).familyDeath (s.slot c).fam i.cause) := by
      obtain ⟨tq, posted, snap, pend, sent, h⟩ := s.offer_eq (s.fatalRec c i)
      rw [h]
      exact ⟨rfl, fun _ => rfl⟩
    have htold := hoffer.trans (State.tellParent_keepsQueues _ c)
    unfold SlotState.mayDie at hm
    unfold State.kill
    rw [if_neg (by tauto)]
    exact htold.trans (.of_put rfl rfl rfl)
  · rw [s.kill_of_not_mayDie c i hm]
    exact .refl s

/-- R75: the contexts of a queue that is destroyed die one after another. -/
def State.killQueue (s : State) (q : BitVec 6) (i : DeadInfo) (l : List (BitVec 4)) : State :=
  l.foldl (fun t c => if (t.slot c).state != .free && (t.slot c).queue == q then t.kill c i else t) s

/-- R90, R259: the death of what belongs to the queue, a FREE slot having none to die. -/
theorem State.killQueue_eq (q : BitVec 6) (i : DeadInfo) (l : List (BitVec 4)) : ∀ s : State,
    s.killQueue q i l = (l.filter fun c => (s.slot c).queue == q).foldl (fun t c => t.kill c i) s := by
  induction l with
  | nil => exact fun _ => rfl
  | cons c l ih =>
    intro s
    have hlater : ∀ t : State, KeepsQueues s t →
        t.killQueue q i l = (l.filter fun c => (s.slot c).queue == q).foldl (fun t c => t.kill c i) t := by
      intro t ht
      rw [ih t]
      simp only [ht.ofSlot]
    by_cases hq : (s.slot c).queue = q
    · have hone : (if (s.slot c).state != .free && (s.slot c).queue == q then s.kill c i else s) = s.kill c i := by
        by_cases hfree : (s.slot c).state = .free
        · rw [s.kill_of_not_mayDie c i fun hm => hm.1 hfree, ite_self]
        · rw [if_pos (by simp [hfree, hq])]
      rw [List.filter_cons_of_pos (by simpa using hq), List.foldl_cons, ← hlater _ (s.kill_keepsQueues c i), ← hone]
      rfl
    · have hone : (if (s.slot c).state != .free && (s.slot c).queue == q then s.kill c i else s) = s := if_neg (by simp [hq])
      rw [List.filter_cons_of_neg (by simpa using hq), ← hlater s (.refl s)]
      exact congrArg (fun t : State => t.killQueue q i l) hone

theorem State.killQueue_keepsQueues (s : State) (q : BitVec 6) (i : DeadInfo) (l : List (BitVec 4)) :
    KeepsQueues s (s.killQueue q i l) := by
  rw [State.killQueue_eq]
  exact List.foldlRecOn _ _ (KeepsQueues.refl s) fun t ht c _ => ht.trans (t.kill_keepsQueues c i)

/-- R75, R259: every context of the queue that can die is dead of the cause given. -/
theorem State.killQueue_dead (s : State) (q : BitVec 6) (i : DeadInfo) {c : BitVec 4} (hq : (s.slot c).queue = q)
    (hm : (s.slot c).state.mayDie) :
    ((s.killQueue q i allSlots).slot c).state = .draining ∧ ((s.killQueue q i allSlots).slot c).dead = some i := by
  rw [State.killQueue_eq]
  obtain ⟨-, -, hdead⟩ := State.foldl_kill (fun _ => i) _ s (allSlots_nodup.filter fun c => (s.slot c).queue == q)
  exact hdead c (List.mem_filter.mpr ⟨mem_allSlots c, beq_iff_eq.mpr hq⟩) hm

/-- R65, R75: a queue as DESTROY finds it closed: no packet is staged, no copy is left, its families record nothing. -/
def State.closeQueue (s : State) (q : BitVec 6) : State :=
  let t := (s.onQueue q fun x => { x with state := .destroying, staged := .empty, met := false }).dropCopies q
  { t with families := t.families.map fun f =>
      if f.pkt.queue = q then { f with pkt := { f.pkt with cpl := 0 }, gone := true } else f }

theorem State.closeQueue_slots (s : State) (q : BitVec 6) : (s.closeQueue q).slots = s.slots :=
  State.dropCopies_slots _ q
theorem State.closeQueue_queues (s : State) (q : BitVec 6) : (s.closeQueue q).queues =
    s.queues.put q { s.queues.get q with state := .destroying, staged := .empty, met := false, copies := [] } := by
  refine (State.dropCopies_queues _ q).trans ?_
  simp only [State.onQueue, RegFile.get_put_same, RegFile.put_put]

section
variable {s : State} {q : BitVec 6} (hopen : s.hostOpen = true) (hd : (s.queues.get q).state ≠ .disabled)
  (hg : (s.queues.get q).state ≠ .destroying)
include hopen hd hg

/-- R75: DESTROY: the queue is closed, then its contexts die. -/
theorem execDestroy_live :
    execDestroy q s = .next ((s.closeQueue q).killQueue q (DeadInfo.plain .queueDestroyed) allSlots) := by
  unfold execDestroy State.queueDestroy
  rw [guarded, if_pos hopen]
  cases h : (s.queues.get q).state
  case disabled => exact absurd h hd
  case destroying => exact absurd h hg
  all_goals rfl

/-- R65, R75: after DESTROY the queue drains, without a packet or a copy, and its contexts are dead; no other queue changes. -/
theorem destroy_spec : Gives (.destroy q) s fun t =>
    t.queues.get q = { s.queues.get q with state := .destroying, staged := .empty, met := false, copies := [] } ∧
    (∀ k, k ≠ q → t.queues.get k = s.queues.get k) ∧
    ∀ c, (s.slot c).queue = q → (s.slot c).state.mayDie →
      (t.slot c).state = .draining ∧ ((t.slot c).dead.map (·.cause)) = some .queueDestroyed := by
  have hslot : ∀ c, (s.closeQueue q).slot c = s.slot c := fun c => congrArg (·.get c) (s.closeQueue_slots q)
  refine ⟨_, execDestroy_live hopen hd hg, ?_⟩
  dsimp only
  rw [(State.killQueue_keepsQueues _ q _ allSlots).queues, s.closeQueue_queues q]
  refine ⟨RegFile.get_put_same _ _ _, fun k hk => RegFile.get_put_ne _ _ hk, fun c hq hm => ?_⟩
  rw [← hslot c] at hq hm
  obtain ⟨hstate, hdead⟩ := (s.closeQueue q).killQueue_dead q (DeadInfo.plain .queueDestroyed) hq hm
  exact ⟨hstate, by rw [hdead]; rfl⟩
end

/-- Settles O40: a copy by how far it reaches, then each control of a queue by its own equation. -/
theorem queuesAndCopies : Obligations.QueuesAndCopies := by
  refine ⟨?_, ?_⟩
  · intro s q i k hk hw hreloc shed drop reach moved fails
    have hheld : s.copyHeld k = false := State.copyHeld_eq_false hreloc
    have hfails : ∀ n, s.copyFault q k n = fails n := State.copyFault_eq hk
    refine ⟨fun hs hd h0 hc => ?_, fun hdst hall => execHcopyComplete_done hk hw hheld hall hdst,
      fun hbus hdst hall => execHcopyComplete_table hk hw hheld hall hbus hdst, fun hlt => ?_, fun bytes => ?_⟩
    · have hall : k.len ≤ s.copyLength k := (s.copyLength_bus k hs hd).ge
      rw [← s.copyBytes_bus k hs hd h0 hc]
      exact execHcopyComplete_done hk hw hheld hall (.inl hd)
    · exact (execHcopyComplete_fault hk hw hheld hlt).trans (congrArg _ (hfails _))
    · exact (execHcopyFault_eq hk hw bytes).trans (congrArg _ (hfails _))
  · intro s q hopen x put again
    refine ⟨execEnable_disabled hopen, execRetry_error hopen, fun h hcode => ?_, fun h hcode => ?_, fun hd hg => ?_,
      fun h hdrained => execDestroyDrainDone_drained h hdrained, fun i v => ?_⟩
    · exact (execSkip_error hopen h).trans (congrArg (fun f => Host.Outcome.next (s.onQueue q f)) (if_pos hcode))
    · have hother : ¬(x.errcode = 1 ∨ x.errcode = 2 ∨ x.errcode = 4 ∨ x.errcode = 5) := by
        rcases hcode with h | h | h <;> rw [h] <;> decide
      exact (execSkip_error hopen h).trans (congrArg (fun f => Host.Outcome.next (s.onQueue q f)) (if_neg hother))
    · obtain ⟨t, ht, hself, hothers, hdead⟩ := destroy_spec hopen hd hg
      exact ⟨t, ht, hself, hothers, fun c hq hf hdr he => hdead c hq ⟨hf, hdr, he⟩⟩
    · refine ⟨_, execSigobjWrite_open hopen i v, RegFile.get_put_same _ _ _, fun j hj => RegFile.get_put_ne _ _ hj, ?_⟩
      exact fun b hst ht hobj hv htime => State.setSig_meets hst ht hobj hv htime
end Sys2Proof.Machine

namespace Sys2Proof.Machine
open Sys2Proof

/-! ### A step that issues (06 R105, R106, 14 R276-R278) -/

section
variable {s : State} {c : BitVec 4} {a : Xword} {ws rest : List Word} {hdr : Word}

/-- The context issues from the line that holds its pc, and finds a header and words after it there (R276, R279). -/
structure StandsBefore (s : State) (c : BitVec 4) (a : Xword) (ws : List Word) (hdr : Word) (rest : List Word) : Prop where
  issues : s.issues c = true
  stream : (s.slot c).ctx.resending = false ∨ (s.slot c).ctx.inHandler = true
  line : ((s.slot c).ctx.lines.find? fun l => l.1 == lineOf (s.slot c).ctx.pc) = some (a, ws)
  words : ws.drop ((s.slot c).ctx.pc.toNat % 64 / 4) = hdr :: rest

theorem StandsBefore.not_resends (h : StandsBefore s c a ws hdr rest) :
    ((s.slot c).ctx.resending && !(s.slot c).ctx.inHandler) = false := by
  rcases h.stream with h | h <;> simp [h]

/-- R276: a header of zeros ends its line. -/
theorem execBundleIssue_zeros (h : StandsBefore s c a ws 0 rest) :
    exec (.bundleIssue c) s = .next (s.onCtx c fun y => { y with pc := a + 64 }) := by
  simp only [exec_bundleIssue, execBundleIssue, h.issues, h.not_resends, h.line, h.words, Bool.not_true, Bool.false_eq_true,
    if_false, if_true]

/-- R289: words that are no bundle are a sequencer fault. -/
theorem execBundleIssue_illegal (h : StandsBefore s c a ws hdr rest) (hz : hdr ≠ 0) {r : Reject} {n : Nat}
    (hd : decodeBundle hdr rest = .error (r, n)) :
    exec (.bundleIssue c) s = .next (s.seqFault c .illegalBundle n (n + r.number * 2 ^ 8) (s.slot c).ctx.pc) := by
  simp only [exec_bundleIssue, execBundleIssue, h.issues, h.not_resends, h.line, h.words, hd, Bool.not_true, Bool.false_eq_true,
    if_false, if_neg hz]

/-- R105: a bundle begins, with the next to follow it. -/
theorem execBundleIssue_bundle (h : StandsBefore s c a ws hdr rest) (hz : hdr ≠ 0) {b : Bundle}
    (hd : decodeBundle hdr rest = .ok b) (hs : s.spawnWaits c b = false) :
    exec (.bundleIssue c) s = .next (s.beginBundle c b ((s.slot c).ctx.pc + BitVec.ofNat 64 (4 * b.words))) := by
  simp only [exec_bundleIssue, execBundleIssue, h.issues, h.not_resends, h.line, h.words, hd, hs, Bool.not_true,
    Bool.false_eq_true, if_false, if_neg hz]

/-- Events still to come from outside change nothing of what a context stands before. -/
theorem StandsBefore.withInputs (h : StandsBefore s c a ws hdr rest) (r : List Outside) :
    StandsBefore { s with inputs := r } c a ws hdr rest := ⟨h.issues, h.stream, h.line, h.words⟩
end

section
variable {s : State} {c : BitVec 4} {b : Bundle} {next : Xword}

@[simp] theorem Ctx.carried_dieMask (y : Ctx) : y.carried.dieMask = y.dieMask := rfl

/-- R278: a bundle without a beam part is the sequencer's alone. -/
theorem State.beginBundle_sequencer (hb : isBeam b = false) :
    s.beginBundle c b next = s.take c b none (s.slot c).ctx.carried [] true false next none := by
  simp only [State.beginBundle, hb, Bool.not_false, if_true]

/-- R106, R110: a bundle for the beam takes the next BSN, and goes to the dies that can execute it. -/
theorem State.beginBundle_beam (hb : isBeam b = true) (hh : (s.slot c).ctx.inHandler = false)
    (hq : (s.slot c).ctx.bsn ≤ (s.slot c).ctx.qmin + 64) (hd : (s.slot c).ctx.bsn ≤ (s.slot c).ctx.dmin + 256) :
    s.beginBundle c b next = s.take c b (some (s.slot c).ctx.bsn) (s.slot c).ctx.carried
      (s.windows c (s.slot c).ctx.dieMask (some (s.slot c).ctx.bsn) b) true true next none := by
  have hmay : (s.slot c).mayIssue (s.slot c).ctx.bsn = true := decide_eq_true ⟨hq, hd⟩
  simp only [State.beginBundle, hb, hh, hmay, Ctx.carried_dieMask, Bool.not_true, Bool.false_eq_true, if_false]

/-- R122: a handler's bundle runs at every die that it goes to. -/
theorem State.beginBundle_handler (hb : isBeam b = true) (hh : (s.slot c).ctx.inHandler = true)
    (hall : (s.windows c (s.slot c).ctx.dieMask none b).length = (s.slot c).ctx.owing (s.slot c).ctx.dieMask none) :
    s.beginBundle c b next = s.take c b none (s.slot c).ctx.carried
      (s.windows c (s.slot c).ctx.dieMask none b) true true next none := by
  simp only [State.beginBundle, hb, hh, Ctx.carried_dieMask, hall, Bool.not_true, Bool.false_eq_true, if_false, if_true]
end

/-- What follows the parts of a bundle in hand: it is closed, a drained yield begins to save, time passes. -/
def afterWork (o : Out) : Out :=
  match o with
  | .next u => .next u.closeBundle.beginSaves.tick
  | .fault e => .fault e
  | .refused e => .refused e

theorem stepOn_of_exec {i : Instr} {s t : State} (h : exec i s = .next t) : stepOn i s = afterWork (runWork t.work t) := by
  rw [stepOn, h]
  rfl

/-- With no record to be posted, there is nothing to settle. -/
theorem State.settle_posted_nil {s : State} (hposted : s.posted = []) : s.settle = s := by
  have hs : { s with posted := [] } = s := by rw [← hposted]
  unfold State.settle
  split
  · rfl
  · rfl
  · rw [hposted]
    exact hs

theorem step_only {s : State} {i : Instr} (hposted : s.posted = []) (hrefresh : s.refreshDue = none) (hin : s.inputs = [])
    (hen : enabled s = [i]) : step s = stepOn i s := by
  unfold step
  simp only [State.settle_posted_nil hposted, hrefresh, hin, hen]

theorem step_input {s : State} {i : Instr} {r : List Outside} (hposted : s.posted = []) (hrefresh : s.refreshDue = none)
    (hin : s.inputs = .event i :: r) : step s = stepOn i { s with inputs := r } := by
  unfold step
  simp only [State.settle_posted_nil hposted, hrefresh, hin]

/-- The one part of a bundle acts on the machine as the bundle was taken in hand. -/
theorem runWork_one {t : State} {f : Focus} (hf : t.focus = some f) (hdone : f.sres = .done) (n : SlotName) (i : Instr) :
    runWork [(n, i)] t = exec i { t with work := [], focus := some { f with now := n } } := by
  simp only [runWork, hf, if_neg (not_not_intro hdone)]
  generalize exec i { t with work := [], focus := some { f with now := n } } = o
  cases o <;> rfl

/-- A step that takes a bundle in hand runs its parts in their order, and what follows (R105, R278): `t` is the machine with the
bundle in hand. -/
def TakesAndRuns (s : State) (c : BitVec 4) (b : Bundle) (t : State) : Prop :=
  exec (.bundleIssue c) s = .next t ∧
  (s.posted = [] → s.refreshDue = none → s.inputs = [] → enabled s = [.bundleIssue c] →
    step s = afterWork (runWork (workOf b true) t) ∧
    ∀ n i, workOf b true = [(n, i)] →
      step s = afterWork (exec i { t with work := [], focus := t.focus.map fun f => { f with now := n } })) ∧
  ∀ r, s.posted = [] → s.refreshDue = none → s.inputs = .event (.bundleIssue c) :: r →
    step s = afterWork (runWork (workOf b true) { t with inputs := r })

theorem takesAndRuns {s : State} {c : BitVec 4} {b : Bundle} {bsn : Option Nat} {k : Carried} {ws : List Window} {beam : Bool}
    {next : Xword} {e : Option HistEntry}
    (hexec : ∀ r, exec (.bundleIssue c) { s with inputs := r } = .next { s.take c b bsn k ws true beam next e with inputs := r }) :
    TakesAndRuns s c b (s.take c b bsn k ws true beam next e) := by
  have htake : exec (.bundleIssue c) s = .next (s.take c b bsn k ws true beam next e) := hexec s.inputs
  refine ⟨htake, fun hposted hrefresh hin hen => ?_, fun r hposted hrefresh hin => ?_⟩
  · have hstep := (step_only hposted hrefresh hin hen).trans (stepOn_of_exec htake)
    refine ⟨hstep, fun n i hone => hstep.trans ?_⟩
    have hwork : (s.take c b bsn k ws true beam next e).work = [(n, i)] := hone
    rw [hwork, runWork_one rfl rfl]
    rfl
  · exact (step_input hposted hrefresh hin).trans (stepOn_of_exec (hexec r))

/-- Settles O29: by the words that stand at the pc, then by the parts of the bundle. -/
theorem stepRunsTheDecodedBundle : Obligations.StepRunsTheDecodedBundle := by
  intro s c a ws hdr rest y hissues hstream hline hwords
  have hat : StandsBefore s c a ws hdr rest := ⟨hissues, hstream, hline, hwords⟩
  refine ⟨?_, fun hz r n hd => execBundleIssue_illegal hat hz hd, ?_⟩
  · rintro rfl
    exact execBundleIssue_zeros hat
  · intro hz b hd hs next
    have hbegin := fun r => execBundleIssue_bundle (hat.withInputs r) hz hd hs
    refine ⟨fun hb => ?_, fun hb hh hq hm => ?_, fun hb hh hall => ?_⟩
    · exact takesAndRuns fun r => (hbegin r).trans (congrArg _ (State.beginBundle_sequencer hb))
    · exact takesAndRuns fun r => (hbegin r).trans (congrArg _ (State.beginBundle_beam hb hh hq hm))
    · exact takesAndRuns fun r => (hbegin r).trans (congrArg _ (State.beginBundle_handler hb hh hall))
end Sys2Proof.Machine

namespace Sys2Proof.Machine
open Sys2Proof

/-! ### Dies that come to a context and leave it (05 R82, R94) -/

/-- Between two states the physical dies and the count of walks alone have changed. -/
def DiesChange (s t : State) : Prop := ∃ pdies transl, t = { s with pdies := pdies, transl := transl }

theorem DiesChange.refl (s : State) : DiesChange s s := ⟨s.pdies, s.transl, rfl⟩
theorem DiesChange.trans {s t u : State} (h : DiesChange s t) (k : DiesChange t u) : DiesChange s u := by
  obtain ⟨p, w, rfl⟩ := h
  obtain ⟨q, v, rfl⟩ := k
  exact ⟨q, v, rfl⟩
theorem DiesChange.slot {s t : State} (h : DiesChange s t) (c : BitVec 4) : t.slot c = s.slot c := by
  obtain ⟨p, w, rfl⟩ := h
  rfl
theorem DiesChange.time {s t : State} (h : DiesChange s t) : t.time = s.time := by
  obtain ⟨p, w, rfl⟩ := h
  rfl
theorem DiesChange.hbm {s t : State} (h : DiesChange s t) : t.hbm = s.hbm := by
  obtain ⟨p, w, rfl⟩ := h
  rfl
theorem DiesChange.host {s t : State} (h : DiesChange s t) : t.host = s.host := by
  obtain ⟨p, w, rfl⟩ := h
  rfl

theorem State.onPdie_diesChange (s : State) (p : BitVec 6) (f : PDie → PDie) : DiesChange s (s.onPdie p f) := ⟨_, s.transl, rfl⟩
theorem State.foldl_onPdie_diesChange {α : Type} (die : α → BitVec 6) (f : State → α → PDie → PDie) (l : List α) (s : State) :
    DiesChange s (l.foldl (fun s a => s.onPdie (die a) (f s a)) s) :=
  List.foldlRecOn l _ (.refl s) fun t ht _ _ => ht.trans (t.onPdie_diesChange _ _)

/-- Dies changed one after another: one that is not among them is as it was. -/
theorem State.foldl_onPdie_ne (f : State → PDie → PDie) {p : BitVec 6} (l : List (BitVec 6)) : ∀ s : State, p ∉ l →
    (l.foldl (fun s p => s.onPdie p (f s)) s).pdies.get p = s.pdies.get p := by
  induction l with
  | nil => exact fun _ _ => rfl
  | cons a l ih =>
    intro s hp
    obtain ⟨ha, hl⟩ := not_or.mp (List.mem_cons.not.mp hp)
    exact (ih (s.onPdie a (f s)) hl).trans (RegFile.get_put_ne _ _ ha)

/-- Dies changed one after another: one that is among them has what every change gives. -/
theorem State.foldl_onPdie_mem (f : State → PDie → PDie) {P : PDie → Prop} (hf : ∀ s q, P (f s q)) {p : BitVec 6}
    (l : List (BitVec 6)) : ∀ s : State, p ∈ l → P ((l.foldl (fun s p => s.onPdie p (f s)) s).pdies.get p) := by
  induction l with
  | nil => exact fun _ hp => absurd hp List.not_mem_nil
  | cons a l ih =>
    intro s hp
    by_cases hl : p ∈ l
    · exact ih _ hl
    · obtain rfl : p = a := (List.mem_cons.mp hp).resolve_right hl
      rw [List.foldl_cons, State.foldl_onPdie_ne f l _ hl]
      exact (congrArg P (RegFile.get_put_same _ _ _)).mpr (hf s _)

theorem State.leavePads_diesChange (s : State) (c : BitVec 4) : DiesChange s (s.leavePads c) := by
  unfold State.leavePads
  dsimp only
  split
  · exact .refl s
  · exact State.foldl_onPdie_diesChange _ _ _ s
theorem State.freeDies_diesChange (s : State) (c : BitVec 4) : DiesChange s (s.freeDies c) := ⟨_, _, rfl⟩

/-- R94: no die is held for a context, or reserved for it, once it has released them. -/
theorem State.freeDies_free (s : State) (c : BitVec 4) (p : BitVec 6) :
    ((s.freeDies c).pdies.get p).owner ≠ some c ∧ ((s.freeDies c).pdies.get p).reserved ≠ some c := by
  simp only [State.freeDies, State.fillWalks, RegFile.get_map, PDie.dropWalks]
  by_cases h : (s.pdies.get p).owner = some c ∨ (s.pdies.get p).reserved = some c
  · simp only [h, if_true]
    exact ⟨nofun, nofun⟩
  · simp only [h, if_false]
    exact not_or.mp h

/-! ### The death of a context, and its slot afterwards (05 R90, R91, 13 R252, R255, R259, R260, 15 R313) -/

/-- A context whose death its family and its parent have been told of, and whose record is offered (R79, R259, R304). -/
def State.mourned (s : State) (c : BitVec 4) (i : DeadInfo) : State :=
  ((s.offer (s.fatalRec c i)).familyDeath (s.slot c).fam i.cause).tellParent c

/-- R304: a child's death is noted with the child, and may reach its parent, which keeps its life. -/
theorem State.tellParent_eq (s : State) (c : BitVec 4) : s.tellParent c = s ∨ ∃ f : Slot → Slot,
    s.tellParent c = (s.onSlot c fun x => { x with join := none }).onSlot (s.slot c).parent f ∧
    ∀ x, (f x).life = x.life := by
  have hjoin : s.onSlot c (fun x => { x with join := none }) =
      (s.onSlot c fun x => { x with join := none }).onSlot (s.slot c).parent id := (State.onSlot_id _ _ rfl).symm
  unfold State.tellParent
  dsimp only
  split
  · exact .inl rfl
  · refine .inr ?_
    split_ifs
    · exact ⟨id, hjoin, fun _ => rfl⟩
    · split
      · exact ⟨id, hjoin, fun _ => rfl⟩
      · exact ⟨id, hjoin, fun _ => rfl⟩
      all_goals exact ⟨_, rfl, fun _ => rfl⟩

theorem State.tellParent_slot_ne (s : State) {c k : BitVec 4} (hc : k ≠ c) (hp : k ≠ (s.slot c).parent) :
    (s.tellParent c).slot k = s.slot k := by
  obtain h | ⟨f, h, -⟩ := s.tellParent_eq c
  · rw [h]
  · rw [h, State.slot_onSlot_ne _ _ hp, State.slot_onSlot_ne _ _ hc]

theorem State.onSlot_life (s : State) (c k : BitVec 4) {f : Slot → Slot} (hf : ∀ x, (f x).life = x.life) :
    ((s.onSlot c f).slot k).life = (s.slot k).life := by
  by_cases hk : k = c
  · rw [hk, State.slot_onSlot_same, hf]
  · rw [State.slot_onSlot_ne _ _ hk]

theorem State.tellParent_life (s : State) (c k : BitVec 4) : ((s.tellParent c).slot k).life = (s.slot k).life := by
  obtain h | ⟨f, h, hf⟩ := s.tellParent_eq c
  · rw [h]
  · rw [h, State.onSlot_life _ _ _ hf, State.onSlot_life s c k (f := fun x => { x with join := none }) fun _ => rfl]

/-- R79, R259, R304: a death that is told of leaves the parks, and every slot but that of the dead and its parent. -/
theorem State.mourned_spec (s : State) (c : BitVec 4) (i : DeadInfo) :
    (∀ k, ((s.mourned c i).slot k).life = (s.slot k).life) ∧ (∀ k, ((s.mourned c i).slot k).queue = (s.slot k).queue) ∧
    (s.mourned c i).parks = s.parks ∧
    ∀ k, k ≠ c → k ≠ (s.slot c).parent → (s.mourned c i).slot k = s.slot k := by
  obtain ⟨tq, posted, snap, pend, sent, hoffer⟩ := s.offer_eq (s.fatalRec c i)
  unfold State.mourned
  -- the offered record and the family's note change no slot and no park
  have hslot : ∀ k, ((s.offer (s.fatalRec c i)).familyDeath (s.slot c).fam i.cause).slot k = s.slot k := by
    rw [hoffer]
    exact fun _ => rfl
  have hparks : ((s.offer (s.fatalRec c i)).familyDeath (s.slot c).fam i.cause).parks = s.parks := by rw [hoffer]; rfl
  generalize (s.offer (s.fatalRec c i)).familyDeath (s.slot c).fam i.cause = u at hslot hparks ⊢
  obtain ⟨⟨slots, hu⟩, -⟩ := u.tellParent_livesOn c
  refine ⟨fun k => ?_, fun k => ?_, ?_, fun k hc hp => ?_⟩
  · rw [u.tellParent_life, hslot]
  · rw [(u.tellParent_keepsQueues c).ofSlot, hslot]
  · rw [hu]
    exact hparks
  · rw [u.tellParent_slot_ne hc (by rwa [hslot]), hslot]

/-- What a context's death makes of its slot at time `time` (R90, R259). -/
def Slot.die (x : Slot) (time : Nat) (i : DeadInfo) : Slot :=
  { x with
    state := .draining, dead := some i, request := none, save := none, ctx := x.ctx.purge
    waited := if x.state.waits then time - x.since else x.waited
    h := if x.state = .saved then 0 else x.h, w := if x.state = .saved then 0 else x.w }

section
variable {s : State} {c : BitVec 4} (i : DeadInfo) (h : (s.slot c).state.mayDie)
include h

/-- R90, R259: the slot, the parks and the scheduler after a death that has been told of. -/
theorem State.kill_mourned : ∃ time,
    (s.kill c i).slot c = ((s.mourned c i).slot c).die time i ∧ (∀ k, k ≠ c → (s.kill c i).slot k = (s.mourned c i).slot k) ∧
    (s.kill c i).parks = (s.mourned c i).parks.filter (fun p => p.slot != c) ∧ (s.kill c i).schedDue = true := by
  have hkill : ¬((s.slot c).state = .free ∨ (s.slot c).state = .draining ∨ (s.slot c).state = .ending) := by
    unfold SlotState.mayDie at h
    tauto
  refine ⟨(s.mourned c i).time, ?_⟩
  have hu : ((s.offer (s.fatalRec c i)).familyDeath (s.slot c).fam i.cause).tellParent c = s.mourned c i := rfl
  unfold State.kill
  simp only [if_neg hkill, hu]
  generalize s.mourned c i = u
  refine ⟨?_, fun k hk => ?_, rfl, rfl⟩
  · simp only [State.slot, State.fillWalks, State.onSlot, State.putSlot, RegFile.get_put_same, Slot.die]
  · simp only [State.slot, State.fillWalks, State.onSlot, State.putSlot, RegFile.get_put_ne _ _ hk]

/-- R259: the life and the queue of a dead context stay, its requests are dropped, its parks released. -/
theorem State.kill_drops : ((s.kill c i).slot c).life = (s.slot c).life ∧ ((s.kill c i).slot c).queue = (s.slot c).queue ∧
    (∃ y : Ctx, ((s.kill c i).slot c).ctx = y.purge) ∧ (∀ p, p ∈ (s.kill c i).parks ↔ p ∈ s.parks ∧ p.slot ≠ c) ∧
    (s.kill c i).schedDue = true ∧ ∀ k, k ≠ c → k ≠ (s.slot c).parent → (s.kill c i).slot k = s.slot k := by
  obtain ⟨hlife, hqueue, hparks, hothers⟩ := s.mourned_spec c i
  obtain ⟨time, hself, hne, hleft, hdue⟩ := State.kill_mourned i h
  refine ⟨?_, ?_, ⟨((s.mourned c i).slot c).ctx, ?_⟩, fun p => ?_, hdue, fun k hc hp => (hne k hc).trans (hothers k hc hp)⟩
  · rw [hself]
    exact hlife c
  · rw [hself]
    exact hqueue c
  · rw [hself]
    rfl
  · rw [hleft, hparks, List.mem_filter, bne_iff_ne]
end

/-- R259: nothing is left in the cells of a dead context. -/
theorem Ctx.purge_cells (y : Ctx) : ∀ z ∈ y.purge.dies, ∀ q ∈ z.cells, q.cmds = [] ∧ q.hawk = [] ∧ q.tiles = [] := by
  intro z hz q hq
  obtain ⟨d, -, rfl⟩ := List.mem_map.mp hz
  obtain ⟨p, -, rfl⟩ := List.mem_map.mp hq
  exact ⟨rfl, rfl, rfl⟩

theorem State.spoilSave_of_no_save (s : State) {x : Slot} (hs : x.state ≠ .saving) (hr : x.state ≠ .restoring) :
    s.spoilSave x = s := if_neg (not_or.mpr ⟨hs, hr⟩)

/-- R260: the watchdog's time has passed without progress. -/
theorem State.watchdogDue_of {s : State} {c : BitVec 4} (hrun : (s.slot c).state = .running) (hon : s.tq.wdms ≠ 0)
    (hlate : s.tq.wdms.toNat * 10 ^ 9 ≤ s.time - (s.slot c).progress) (hparks : ∀ p ∈ s.parks, p.slot ≠ c)
    (hpod : ∀ w, (s.slot c).ctx.podWait = some w → w.result ≠ none) : s.watchdogDue c = true := by
  have hnone : ((s.slot c).ctx.podWait.any fun w => w.result.isNone) = false := by
    cases hw : (s.slot c).ctx.podWait with
    | none => rfl
    | some w => simpa using Option.ne_none_iff_isSome.mp (hpod w hw)
  have hall : (s.parks.all fun p => p.slot != c) = true := by simpa using hparks
  have hdue : msPs s.tq.wdms.toNat ≤ s.time - (s.slot c).progress := hlate
  simp only [State.watchdogDue, hrun, hall, hnone, bne_iff_ne.mpr hon, decide_eq_true hdue, beq_self_eq_true, Bool.not_false,
    Bool.and_true]

/-- R252: a cause that comes from outside is known by its code. -/
theorem fatalCauses_find : ∀ k ∈ fatalCauses,
    (fatalCauses.find? fun l => l.code == (BitVec.ofNat 8 k.code).toNat) = some k := by decide

theorem execContextDead_fatal {k : Cause} (hk : k ∈ fatalCauses) (o : Option Origin) (s : State) (c : BitVec 4) :
    exec (.contextDead c ⟨BitVec.ofNat 8 k.code, o⟩) s = .next (s.kill c (s.deathAt c k 0xFF o)) := by
  simp only [exec_contextDead, execContextDead, fatalCauses_find k hk]

theorem State.record_eq (s : State) (p : PacketId) (status slot value : Nat) :
    ∃ posted, s.record p status slot value = { s with posted := posted } := by
  unfold State.record
  split
  · exact ⟨s.posted, rfl⟩
  · exact ⟨_, rfl⟩

/-- The lives of the slots, real time and the memories are as they were. -/
structure KeepsLives (s t : State) : Prop where
  life : ∀ k, (t.slot k).life = (s.slot k).life
  time : t.time = s.time
  hbm : t.hbm = s.hbm
  host : t.host = s.host

/-- R73, R79: the end of a family's member changes families and what is posted. -/
theorem State.memberEnd_eq (s : State) (c : BitVec 4) :
    ∃ families posted, s.memberEnd c = { s with families := families, posted := posted } := by
  unfold State.memberEnd
  dsimp only
  split
  · exact ⟨s.families, s.posted, rfl⟩
  · split
    · split
      all_goals
        obtain ⟨posted, hr⟩ := State.record_eq { s with families := _ } _ _ _ _
        exact ⟨_, posted, hr⟩
    · exact ⟨_, s.posted, rfl⟩

theorem KeepsLives.trans {s t u : State} (h : KeepsLives s t) (k : KeepsLives t u) : KeepsLives s u :=
  ⟨fun c => (k.life c).trans (h.life c), k.time.trans h.time, k.hbm.trans h.hbm, k.host.trans h.host⟩
theorem State.memberEnd_keepsLives (s : State) (c : BitVec 4) : KeepsLives s (s.memberEnd c) := by
  obtain ⟨families, posted, h⟩ := s.memberEnd_eq c
  rw [h]
  exact ⟨fun _ => rfl, rfl, rfl, rfl⟩
theorem State.tellParent_keepsLives (s : State) (c : BitVec 4) : KeepsLives s (s.tellParent c) := by
  refine ⟨s.tellParent_life c, ?_, ?_, ?_⟩
  all_goals
    obtain ⟨⟨slots, h⟩, -⟩ := s.tellParent_livesOn c
    rw [h]

/-- What the end of a context leaves: its slot is FREE since `s`, with the life it had, and no die is left to it (R90, R94). -/
def Vacates (s : State) (c : BitVec 4) (t : State) : Prop :=
  t.slot c = { Slot.blank with life := (s.slot c).life, since := s.time } ∧
  (∀ p, (t.pdies.get p).owner ≠ some c ∧ (t.pdies.get p).reserved ≠ some c) ∧ t.hbm = s.hbm ∧ t.host = s.host

theorem State.freeSlotNow_vacates {s u : State} (h : KeepsLives s u) (c : BitVec 4) : Vacates s c (u.freeSlotNow c) := by
  have hdies : DiesChange u ((u.leavePads c).freeDies c) := (u.leavePads_diesChange c).trans (State.freeDies_diesChange _ c)
  refine ⟨?_, (u.leavePads c).freeDies_free c, hdies.hbm.trans h.hbm, hdies.host.trans h.host⟩
  have hslot : ((u.leavePads c).freeDies c).slot c = u.slot c := hdies.slot c
  simp only [State.freeSlotNow, State.slot_onSlot_same, hslot, h.life, h.time]

/-- R259: a dead context's dies and core are free; it stays DRAINING. -/
theorem State.loseDies_spec (s : State) (c : BitVec 4) :
    (s.loseDies c).slot c = { s.slot c with core := none, h := 0, w := 0 } ∧
    (∀ p, ((s.loseDies c).pdies.get p).owner ≠ some c ∧ ((s.loseDies c).pdies.get p).reserved ≠ some c) ∧
    (s.loseDies c).hbm = s.hbm ∧ (s.loseDies c).host = s.host := by
  have hdies : DiesChange s ((s.leavePads c).freeDies c) := (s.leavePads_diesChange c).trans (State.freeDies_diesChange _ c)
  refine ⟨?_, (s.leavePads c).freeDies_free c, hdies.hbm, hdies.host⟩
  unfold State.loseDies
  rw [State.slot_onSlot_same, hdies.slot]

theorem execDeadDrainDone_draining {s : State} {c : BitVec 4} (h : (s.slot c).state = .draining) :
    exec (.deadDrainDone c) s = .next (if s.fatalWaits c then s.loseDies c else (s.memberEnd c).freeSlotNow c) := by
  simp only [exec_deadDrainDone, execDeadDrainDone, guarded, h, beq_self_eq_true, if_true]

/-- Settles O43: a death by what it drops and what it leaves, then each end of a slot by the state it passes through. -/
theorem contextsEnd : Obligations.ContextsEnd := by
  intro s c x frees
  refine ⟨fun hf hd he i => ?_, fun h i => if_pos h, fun hopen => ?_, fun hs hr t => t.spoilSave_of_no_save hs hr,
    fun hrun hon hlate hparks hpod => ?_, fun k hk => ⟨execContextDead_fatal hk none s c, fun o => execContextDead_fatal hk _ s c⟩,
    fun hdrain hwaits => ?_, fun hdrain hwaits => ?_, fun hend hret hquiet hheld => ?_⟩
  · have hm : x.state.mayDie := ⟨hf, hd, he⟩
    obtain ⟨hstate, hdead, -, hstores⟩ := s.kill_spec c i hm
    obtain ⟨hlife, hqueue, ⟨y, hy⟩, hparks, hdue, hothers⟩ := State.kill_drops i hm
    refine ⟨hstate, hdead, hlife, hqueue, ?_, ?_, ?_, ?_, hparks, hdue, hstores.hbm, hstores.host, hothers⟩
    all_goals rw [hy]
    · rfl
    · rfl
    · rfl
    · exact y.purge_cells
  · exact congrArg Host.Outcome.next (if_pos hopen)
  · exact congrArg Host.Outcome.next (if_pos (State.watchdogDue_of hrun hon hlate hparks hpod))
  · obtain ⟨hslot, hfree, hbm, hhost⟩ := s.loseDies_spec c
    refine ⟨_, (execDeadDrainDone_draining hdrain).trans (by rw [if_pos hwaits]), ?_, ?_, ?_, hfree, hbm, hhost⟩
    · rw [hslot]
      exact hdrain
    · rw [hslot]
    · rw [hslot]
  · exact ⟨_, (execDeadDrainDone_draining hdrain).trans (by rw [hwaits]; rfl),
      State.freeSlotNow_vacates (s.memberEnd_keepsLives c) c⟩
  · have hdue : (x.state == .ending && x.retired && x.ctx.quiet false && !s.held c) = true := by
      rw [hend, hret, hquiet, hheld]
      rfl
    have hlives := (s.tellParent_keepsLives c).trans ((s.tellParent c).memberEnd_keepsLives c)
    exact ⟨_, congrArg Host.Outcome.next (if_pos hdue), State.freeSlotNow_vacates hlives c⟩
end Sys2Proof.Machine

namespace Sys2Proof.Machine
open Sys2Proof

/-! ### Rectangles and victims (05 R82, R88) -/

/-- The one of two rectangles with the lesser key, the earlier where they are equal. -/
def lesserRect (best : Option Rect) (r : Rect) : Option Rect :=
  match best with
  | none => some r
  | some b => if r.key < b.key then some r else best

theorem bestRect_eq (ok : Rect → Bool) : bestRect ok = (allRects.filter ok).foldl lesserRect none := rfl

theorem lesserRect_spec (best : Option Rect) (a : Rect) : ∃ b, lesserRect best a = some b ∧ (b = a ∨ best = some b) ∧
    b.key ≤ a.key ∧ ∀ d, best = some d → b.key ≤ d.key := by
  cases best with
  | none => exact ⟨a, rfl, .inl rfl, Nat.le_refl _, nofun⟩
  | some d =>
    by_cases h : a.key < d.key
    · refine ⟨a, if_pos h, .inl rfl, Nat.le_refl _, fun e he => ?_⟩
      cases he
      exact h.le
    · refine ⟨d, if_neg h, .inr rfl, Nat.le_of_not_lt h, fun e he => ?_⟩
      cases he
      exact Nat.le_refl _

/-- The least key among rectangles looked at one after another. -/
theorem foldl_lesserRect (l : List Rect) : ∀ (best : Option Rect) {r : Rect}, l.foldl lesserRect best = some r →
    (r ∈ l ∨ best = some r) ∧ (∀ q ∈ l, r.key ≤ q.key) ∧ ∀ b, best = some b → r.key ≤ b.key := by
  induction l with
  | nil =>
    intro best r h
    refine ⟨.inr h, nofun, fun b hb => ?_⟩
    cases hb.symm.trans h
    exact Nat.le_refl _
  | cons a l ih =>
    intro best r h
    obtain ⟨b, hb, hfrom, hba, hbest⟩ := lesserRect_spec best a
    obtain ⟨hr, hmin, hacc⟩ := ih _ h
    refine ⟨?_, fun q hq => ?_, fun d hd => (hacc b hb).trans (hbest d hd)⟩
    · rcases hr with hr | hr
      · exact .inl (List.mem_cons_of_mem _ hr)
      · cases hb.symm.trans hr
        rcases hfrom with rfl | hfrom
        · exact .inl List.mem_cons_self
        · exact .inr hfrom
    · rcases List.mem_cons.mp hq with rfl | hq
      · exact (hacc b hb).trans hba
      · exact hmin q hq

/-- A rectangle lies on the 8 by 8 grid of dies and is not empty (R82). -/
def Rect.OnGrid (r : Rect) : Prop := r.row + r.h ≤ 8 ∧ r.col + r.w ≤ 8 ∧ 0 < r.h ∧ 0 < r.w

theorem mem_allRects {r : Rect} : r ∈ allRects ↔ r.OnGrid := by
  obtain ⟨i, j, h, w⟩ := r
  simp only [allRects, List.mem_flatMap, List.mem_map, List.mem_range, Rect.mk.injEq, Rect.OnGrid]
  constructor
  · rintro ⟨i, hi, j, hj, h, hh, w, hw, rfl, rfl, rfl, rfl⟩
    omega
  · intro hr
    exact ⟨i, by omega, j, by omega, h - 1, by omega, w - 1, by omega, rfl, rfl, by omega, by omega⟩

theorem Rect.OnGrid.n_le {r : Rect} (h : r.OnGrid) : r.n ≤ 64 := by
  obtain ⟨hh, hw, -, -⟩ := h
  exact Nat.mul_le_mul (show r.h ≤ 8 by omega) (show r.w ≤ 8 by omega)

/-- The order of R82's keys: the larger n, the smaller |h − w|, the smaller h, the smaller corner. -/
def Rect.NotAfter (r q : Rect) : Prop :=
  q.n < r.n ∨ (q.n = r.n ∧ (((r.h : Int) - r.w).natAbs < ((q.h : Int) - q.w).natAbs ∨
    (((r.h : Int) - r.w).natAbs = ((q.h : Int) - q.w).natAbs ∧ (r.h < q.h ∨
      (r.h = q.h ∧ 8 * r.row + r.col ≤ 8 * q.row + q.col)))))

theorem Rect.key_eq (r : Rect) :
    r.key = (64 - r.n) * 2 ^ 24 + ((r.h : Int) - r.w).natAbs * 2 ^ 16 + r.h * 2 ^ 8 + (8 * r.row + r.col) := by
  have hdiff : (if r.h < r.w then r.w - r.h else r.h - r.w) = ((r.h : Int) - r.w).natAbs := by
    split <;> omega
  rw [← hdiff]
  rfl

theorem Rect.notAfter_of_key {r q : Rect} (hr : r.OnGrid) (hq : q.OnGrid) (h : r.key ≤ q.key) : r.NotAfter q := by
  have hrn := hr.n_le
  have hqn := hq.n_le
  obtain ⟨hr1, hr2, hr3, hr4⟩ := hr
  obtain ⟨hq1, hq2, hq3, hq4⟩ := hq
  have hrd : ((r.h : Int) - r.w).natAbs < 8 := by omega
  have hqd : ((q.h : Int) - q.w).natAbs < 8 := by omega
  rw [Rect.key_eq, Rect.key_eq] at h
  unfold Rect.NotAfter
  generalize ((r.h : Int) - r.w).natAbs = d at *
  generalize ((q.h : Int) - q.w).natAbs = e at *
  omega

/-- R82: what the keys choose is on the grid and meets the condition, and nothing that does comes before it. -/
theorem bestRect_spec {ok : Rect → Bool} {r : Rect} (h : bestRect ok = some r) :
    r.OnGrid ∧ ok r = true ∧ ∀ q : Rect, q.OnGrid → ok q = true → r.NotAfter q := by
  rw [bestRect_eq] at h
  obtain ⟨hmem, hmin, -⟩ := foldl_lesserRect _ none h
  obtain ⟨hr, hok⟩ := List.mem_filter.mp (hmem.resolve_right nofun)
  have hgrid := mem_allRects.mp hr
  exact ⟨hgrid, hok, fun q hq hokq =>
    Rect.notAfter_of_key hgrid hq (hmin q (List.mem_filter.mpr ⟨mem_allRects.mpr hq, hokq⟩))⟩

theorem State.candidate_waiting {s : State} {c : BitVec 4} {free : BitVec 6 → Bool} (h : (s.slot c).state = .waiting) :
    s.candidate c free = bestRect fun r =>
      decide ((s.slot c).desc.mindie ≤ r.n ∧ r.n ≤ (s.slot c).desc.maxdie) && r.dies.all free := by
  unfold State.candidate
  rw [if_neg (by rw [h]; decide)]

/-- R88: whether a context may be asked to yield for another. -/
def State.MayYield (s : State) (w v : BitVec 4) : Prop :=
  (s.slot v).state = .running ∧ (s.slot v).prio.toNat < (s.slot w).eprio s.time ∧ (s.slot v).ranSince + 10 ^ 9 ≤ s.time

theorem State.mem_insertVictim (s : State) (c v : BitVec 4) (l : List (BitVec 4)) :
    v ∈ s.insertVictim c l ↔ v = c ∨ v ∈ l := by
  induction l with
  | nil => simp [State.insertVictim]
  | cons d l ih =>
    unfold State.insertVictim
    split
    · exact List.mem_cons
    · rw [List.mem_cons, ih, List.mem_cons]
      tauto

theorem State.mayYield_of_mem_victims {s : State} {w v : BitVec 4} (h : v ∈ s.victims w) : s.MayYield w v := by
  unfold State.victims at h
  have hsub : ∀ l : List (BitVec 4), v ∈ l.foldr s.insertVictim [] → v ∈ l := by
    intro l
    induction l with
    | nil => exact id
    | cons d l ih => exact fun hv => List.mem_cons.mpr (((s.mem_insertVictim d v _).mp hv).imp id ih)
  have hv := (List.mem_filter.mp (hsub _ h)).2
  simp only [Bool.and_eq_true, beq_iff_eq] at hv
  obtain ⟨⟨hrun, hprio⟩, hran⟩ := hv
  exact ⟨hrun, of_decide_eq_true hprio, of_decide_eq_true hran⟩

/-- R88: the victims are among those looked at, and if there are any, they are enough. -/
theorem State.pickVictims_spec (s : State) (w : BitVec 4) (l : List (BitVec 4)) : ∀ taken : List (BitVec 4),
    ∀ v ∈ s.pickVictims w taken l, (v ∈ taken ∨ v ∈ l) ∧
      (s.candidate w (s.freeWith (s.pickVictims w taken l))).isSome = true := by
  induction l with
  | nil => exact fun _ _ hv => absurd hv List.not_mem_nil
  | cons d l ih =>
    intro taken v hv
    unfold State.pickVictims at hv ⊢
    dsimp only at hv ⊢
    split_ifs at hv ⊢ with henough
    · rcases List.mem_append.mp hv with hv | hv
      · exact ⟨.inl hv, henough⟩
      · exact ⟨.inr (List.mem_cons.mpr (.inl (List.mem_singleton.mp hv))), henough⟩
    · obtain ⟨hmem, hsome⟩ := ih _ v hv
      rw [List.mem_append, List.mem_singleton, or_assoc, ← List.mem_cons] at hmem
      exact ⟨hmem, hsome⟩

/-! ### Allocation (05 R78, R81, R82, R90, 07 R138) -/

theorem State.holdDies_diesChange (s : State) (c : BitVec 4) (r : Rect) : DiesChange s (s.holdDies c r) :=
  State.foldl_onPdie_diesChange id _ r.dies s
/-- R82: the dies of a rectangle are held for the context that takes it; the others stay. -/
theorem State.holdDies_owner (s : State) (c : BitVec 4) {r : Rect} {p : BitVec 6} (h : p ∈ r.dies) :
    ((s.holdDies c r).pdies.get p).owner = some c :=
  State.foldl_onPdie_mem _ (P := fun q => q.owner = some c) (fun _ _ => rfl) r.dies s h
theorem State.holdDies_ne (s : State) (c : BitVec 4) {r : Rect} {p : BitVec 6} (h : p ∉ r.dies) :
    (s.holdDies c r).pdies.get p = s.pdies.get p :=
  State.foldl_onPdie_ne _ r.dies s h

theorem Ctx.foldl_arrive (l : List (BitVec 6)) : ∀ y : Ctx, ∃ a, l.foldl Ctx.arrive y = { y with arrivals := a } := by
  induction l with
  | nil => exact fun y => ⟨y.arrivals, rfl⟩
  | cons j l ih =>
    intro y
    obtain ⟨a, h⟩ := ih (y.arrive j)
    exact ⟨a, h⟩

/-- R97: the join arrivals that came while a context had no dies are on their way. -/
def Slot.catchUp (x : Slot) : Slot := { x with lateJoins := [], ctx := x.lateJoins.foldl Ctx.arrive x.ctx }
theorem Slot.catchUp_eq (x : Slot) : ∃ a, x.catchUp = { x with lateJoins := [], ctx := { x.ctx with arrivals := a } } := by
  obtain ⟨a, h⟩ := Ctx.foldl_arrive x.lateJoins x.ctx
  exact ⟨a, congrArg (fun y => { x with lateJoins := [], ctx := y }) h⟩

/-- R47, R97: what came late leaves the dies, the memories and the other slots. -/
theorem State.catchUp_slot (s : State) (c : BitVec 4) : (s.catchUp c).slot c = (s.slot c).catchUp :=
  s.slot_onSlot_same c Slot.catchUp
theorem State.catchUp_slot_ne (s : State) {c k : BitVec 4} (h : k ≠ c) : (s.catchUp c).slot k = s.slot k :=
  s.slot_onSlot_ne Slot.catchUp h
@[simp] theorem State.catchUp_pdies (s : State) (c : BitVec 4) : (s.catchUp c).pdies = s.pdies := rfl
@[simp] theorem State.catchUp_hbm (s : State) (c : BitVec 4) : (s.catchUp c).hbm = s.hbm := rfl
@[simp] theorem State.catchUp_host (s : State) (c : BitVec 4) : (s.catchUp c).host = s.host := rfl

/-- A slot that has taken a rectangle and a core. -/
def Slot.placed (x : Slot) (r : Rect) (core : BitVec 3) : Slot :=
  { x with core := some core, row := r.row, col := r.col, h := r.h, w := r.w }
/-- R138: a start of issue marks which dies begin, and leaves all else of them. -/
theorem Slot.stagger_eq (x : Slot) (time : Nat) : ∃ b : Nat → Bool, x.stagger time =
    { x with issueSince := time, ctx := { x.ctx with dies := x.ctx.dies.mapIdx fun d y => { y with started := b d } } } := ⟨_, rfl⟩
@[simp] theorem Slot.stagger_dies_length (x : Slot) (time : Nat) : (x.stagger time).ctx.dies.length = x.ctx.dies.length :=
  List.length_mapIdx
theorem Slot.stagger_die {x : Slot} {time k : Nat} {z' : Die} (h : (x.stagger time).ctx.dies[k]? = some z') :
    ∃ z b, x.ctx.dies[k]? = some z ∧ z' = { z with started := b } := by
  obtain ⟨b, hb⟩ := x.stagger_eq time
  rw [hb, List.getElem?_mapIdx] at h
  obtain ⟨z, hz, rfl⟩ := Option.map_eq_some_iff.mp h
  exact ⟨z, b k, hz, rfl⟩

/-- A slot whose context starts on `n` dies at time `time` (R78). -/
def Slot.starts (x : Slot) (n time : Nat) : Slot :=
  ({ x with
    state := .running, ranSince := time, progress := time
    ctx := { Ctx.entry x.desc n cellsPerDie with podIn := x.ctx.podIn } } : Slot).stagger time

/-- R82, R90: what an allocation leaves as it was, and the dies it takes. -/
structure Allocates (s : State) (c : BitVec 4) (r : Rect) (t : State) : Prop where
  dies : t.pdies = (s.holdDies c r).pdies
  others : ∀ j, j ≠ c → t.slot j = s.slot j
  hbm : t.hbm = s.hbm
  host : t.host = s.host

theorem State.allocate_saved {s : State} {c : BitVec 4} (h : (s.slot c).state = .saved) (r : Rect) (core : BitVec 3) :
    Allocates s c r (s.allocate c r core) ∧
    (s.allocate c r core).slot c = { (s.slot c).placed r core with state := .restoring, waited := s.time - (s.slot c).since } := by
  have hdies := s.holdDies_diesChange c r
  have hsaved : ((s.slot c).state == .saved) = true := by rw [h]; rfl
  unfold State.allocate
  simp only [hsaved, if_true]
  refine ⟨⟨rfl, fun j hj => ?_, hdies.hbm, hdies.host⟩, ?_⟩
  · rw [State.slot_onSlot_ne _ _ hj, State.slot_onSlot_ne _ _ hj, hdies.slot]
  · rw [State.slot_onSlot_same, State.slot_onSlot_same, hdies.slot, State.onSlot_time, hdies.time]
    rfl

theorem State.allocate_starts {s : State} {c : BitVec 4} (h : (s.slot c).state ≠ .saved) (r : Rect) (core : BitVec 3) :
    Allocates s c r (s.allocate c r core) ∧
    (s.allocate c r core).slot c = (((s.slot c).placed r core).starts r.n s.time).catchUp := by
  have hdies := s.holdDies_diesChange c r
  have hsaved : ((s.slot c).state == .saved) = false := beq_eq_false_iff_ne.mpr h
  unfold State.allocate
  simp only [hsaved, Bool.false_eq_true, if_false]
  refine ⟨⟨?_, fun j hj => ?_, ?_, ?_⟩, ?_⟩
  · rw [State.catchUp_pdies, State.onSlot_pdies, State.onSlot_pdies]
  · rw [State.catchUp_slot_ne _ hj, State.slot_onSlot_ne _ _ hj, State.slot_onSlot_ne _ _ hj, hdies.slot]
  · rw [State.catchUp_hbm, State.onSlot_hbm, State.onSlot_hbm, hdies.hbm]
  · rw [State.catchUp_host, State.onSlot_host, State.onSlot_host, hdies.host]
  · rw [State.catchUp_slot, State.slot_onSlot_same, State.slot_onSlot_same, hdies.slot, State.onSlot_time, hdies.time]
    rfl

/-- R78: the registers and the dies of a context that starts. -/
theorem Slot.starts_ctx (x : Slot) (n time : Nat) : ∃ dies : List Die, (x.starts n time).ctx =
      { Ctx.entry x.desc n cellsPerDie with podIn := x.ctx.podIn, dies := dies } ∧
    dies.length = n ∧ ∀ z ∈ dies, ∃ b, z = { Die.entry 1600 with started := b } := by
  refine ⟨(x.starts n time).ctx.dies, rfl, ?_, fun z hz => ?_⟩
  · exact (Slot.stagger_dies_length _ _).trans List.length_replicate
  · obtain ⟨k, hk⟩ := List.getElem?_of_mem hz
    obtain ⟨d, b, hd, rfl⟩ := Slot.stagger_die hk
    obtain rfl := List.eq_of_mem_replicate (List.mem_of_getElem? hd)
    exact ⟨b, rfl⟩

/-- R78: x10 and x11 hold the two arguments of the launch, every other register zero. -/
theorem Ctx.entry_getX (d : Desc) (n cells : Nat) (k : BitVec 5) :
    (Ctx.entry d n cells).getX k = if k = 10 then d.arg0 else if k = 11 then d.arg1 else 0 := by
  have hx : (Ctx.entry d n cells).x = ((RegFile.fill 5 0).put 10 d.arg0).put 11 d.arg1 := rfl
  unfold Ctx.getX
  rw [hx]
  by_cases h11 : k = 11
  · subst h11
    rw [RegFile.get_put_same]
    rfl
  · rw [RegFile.get_put_ne _ _ h11]
    by_cases h10 : k = 10
    · subst h10
      rw [RegFile.get_put_same]
      rfl
    · rw [RegFile.get_put_ne _ _ h10, RegFile.get_fill, ite_self, if_neg h10, if_neg h11]

/-- R78: what a context finds when it starts on `n` dies. -/
theorem Slot.starts_entry (x : Slot) (n time : Nat) :
    let z := (x.starts n time).catchUp
    z.state = .running ∧
    (∀ k, z.ctx.getX k = if k = 10 then x.desc.arg0 else if k = 11 then x.desc.arg1 else 0) ∧
    z.ctx.pc = x.desc.entry ∧ z.ctx.bsn = 1 ∧ z.ctx.dieMask.toNat = (2 ^ n - 1) % 2 ^ 64 ∧
    z.ctx.dies.length = n ∧ ∀ d ∈ z.ctx.dies, ∃ b, d = { Die.entry 1600 with started := b } := by
  obtain ⟨a, ha⟩ := (x.starts n time).catchUp_eq
  obtain ⟨dies, hctx, hlen, hdies⟩ := x.starts_ctx n time
  rw [ha, hctx]
  exact ⟨rfl, Ctx.entry_getX x.desc n cellsPerDie, rfl, rfl, BitVec.toNat_ofNat _ _, hlen, hdies⟩

theorem State.allocate_takes (s : State) (c : BitVec 4) (r : Rect) (core : BitVec 3) :
    Allocates s c r (s.allocate c r core) ∧ ((s.allocate c r core).slot c).core = some core ∧
    ((s.allocate c r core).slot c).rect = r := by
  by_cases h : (s.slot c).state = .saved
  · obtain ⟨hall, hslot⟩ := State.allocate_saved h r core
    exact ⟨hall, by rw [hslot]; rfl, by rw [hslot]; rfl⟩
  · obtain ⟨hall, hslot⟩ := State.allocate_starts h r core
    obtain ⟨a, ha⟩ := (((s.slot c).placed r core).starts r.n s.time).catchUp_eq
    rw [hslot, ha]
    exact ⟨hall, rfl, rfl⟩

/-- R81: the scheduler has looked at a context for the first time. -/
def State.consider (s : State) (c : BitVec 4) : State := s.onSlot c fun x => { x with considered := true }

theorem State.consider_slot (s : State) (c : BitVec 4) : (s.consider c).slot c = { s.slot c with considered := true } :=
  s.slot_onSlot_same c _
theorem State.consider_slot_ne (s : State) {c k : BitVec 4} (h : k ≠ c) : (s.consider c).slot k = s.slot k :=
  s.slot_onSlot_ne _ h
theorem State.consider_candidate (s : State) (c : BitVec 4) (free : BitVec 6 → Bool) :
    (s.consider c).candidate c free = s.candidate c free := by
  unfold State.candidate
  rw [s.consider_slot c]
  rfl
theorem State.consider_freeCores (s : State) (c : BitVec 4) : (s.consider c).freeCores = s.freeCores := by
  have hcore : ∀ k, ((s.consider c).slot k).coreHeld = (s.slot k).coreHeld := by
    intro k
    by_cases hk : k = c
    · rw [hk, s.consider_slot c]
      rfl
    · rw [s.consider_slot_ne hk]
  simp only [State.freeCores, hcore]

theorem State.choose_eq (s : State) (n : Nat) : ∃ i fresh, s.choose n = (i, { s with fresh := fresh }) := by
  unfold State.choose
  split
  · exact ⟨0, s.fresh, rfl⟩
  · exact ⟨_, _, rfl⟩

/-- R81, R82, R90: the context in turn that fits, with a core free, is allocated. -/
theorem State.considerAll_allocates {s : State} {c : BitVec 4} {r : Rect} (l : List (BitVec 4)) (hp : s.placeable c = true)
    (hr : s.candidate c s.dieFree = some r) (hfree : s.freeCores ≠ []) : ∃ (u : State) (core : BitVec 3),
    State.considerAll (c :: l) s = State.considerAll l (u.allocate c r core) ∧ core ∈ s.freeCores ∧
    u.slot c = { s.slot c with considered := true } ∧ (∀ j, j ≠ c → u.slot j = s.slot j) ∧
    u.pdies = s.pdies ∧ u.hbm = s.hbm ∧ u.host = s.host := by
  have hcand : (s.consider c).candidate c (s.consider c).dieFree = some r := (s.consider_candidate c _).trans hr
  obtain ⟨k, ks, hks⟩ := List.exists_cons_of_ne_nil hfree
  obtain ⟨i, fresh, hi⟩ := (s.consider c).choose_eq (ks.length + 1)
  refine ⟨{ s.consider c with fresh := fresh }, ((k :: ks)[i]?).getD k, ?_, ?_, s.consider_slot c,
    fun j hj => s.consider_slot_ne hj, rfl, rfl, rfl⟩
  · have hconsider : (s.onSlot c fun x => { x with considered := true }) = s.consider c := rfl
    simp only [State.considerAll, hp, hconsider, hcand, s.consider_freeCores c, hks, hi, Bool.not_true, Bool.false_eq_true,
      if_false]
  · rw [hks]
    cases h : (k :: ks)[i]? with
    | none => exact List.mem_cons_self
    | some x => exact List.mem_of_getElem? h

theorem State.placeable_false_iff (s : State) (c : BitVec 4) : s.placeable c = false ↔ (s.slot c).state = .waiting ∧
    (s.slot c).considered = false ∧ s.candidate c (fun p => !(s.columns.get p).offline) = none := by
  simp only [State.placeable, Bool.or_eq_false_iff, bne_eq_false_iff_eq, Option.isSome_eq_false_iff, Option.isNone_iff_eq_none,
    and_assoc]
theorem State.considerAll_dead {s : State} {c : BitVec 4} (l : List (BitVec 4)) (hp : s.placeable c = false) :
    State.considerAll (c :: l) s = State.considerAll l (s.kill c (DeadInfo.plain .dieSet)) := by
  rw [State.considerAll, if_pos (by rw [hp]; rfl)]

/-- R86: a decision is due by an event, or once 1 ms has passed. -/
theorem execSchedulerDecision_due {s : State} (hrun : s.resetRun = none) (hdue : s.schedDue = true ∨ s.schedAt + 10 ^ 9 ≤ s.time) :
    let u := { s with schedDue := false, schedAt := s.time }
    exec .schedulerDecision s = .next ((State.considerAll u.waitingOrder u).withdraw.preempt) := by
  have hnow : (s.resetRun.isNone && (s.schedDue || decide (s.schedAt + msPs 1 ≤ s.time))) = true := by
    rw [hrun]
    simpa [msPs] using hdue
  exact congrArg Host.Outcome.next (if_pos hnow)

/-! ### STEP (05 R92, R95, R96, 07 R126) -/

/-- R126: a CLKMODE that comes into force changes the clocks alone. -/
theorem Ctx.applyClk_eq (y : Ctx) : ∃ fixed st pend cyc, ∃ g : Die → Die,
    y.applyClk = { y with fixed := fixed, stagger := st, clkPend := pend, cyc := cyc, dies := y.dies.map g } ∧
    ∀ d, (g d).cells = d.cells ∧ (g d).done = d.done := by
  have hid : ∀ fixed st pend, ({ y with fixed := fixed, stagger := st, clkPend := pend } : Ctx) =
      { y with fixed := fixed, stagger := st, clkPend := pend, cyc := y.cyc, dies := y.dies.map id } := by
    intro fixed st pend
    rw [List.map_id]
  unfold Ctx.applyClk
  split
  · exact ⟨y.fixed, y.stagger, y.clkPend, y.cyc, id, hid _ _ _, fun _ => ⟨rfl, rfl⟩⟩
  · dsimp only
    split
    · exact ⟨_, _, _, _, _, rfl, fun _ => ⟨rfl, rfl⟩⟩
    · exact ⟨_, _, _, y.cyc, id, hid _ _ _, fun _ => ⟨rfl, rfl⟩⟩

theorem Ctx.applyClk_sent (y : Ctx) : y.applyClk.sent = y.sent := by
  obtain ⟨fixed, st, pend, cyc, g, h, -⟩ := y.applyClk_eq
  rw [h]
  rfl
theorem Ctx.applyClk_dies_length (y : Ctx) : y.applyClk.dies.length = y.dies.length := by
  obtain ⟨fixed, st, pend, cyc, g, h, -⟩ := y.applyClk_eq
  rw [h]
  exact List.length_map _
theorem Ctx.applyClk_die {y : Ctx} {k : Nat} {z z' : Die} (hz : y.dies[k]? = some z) (hz' : y.applyClk.dies[k]? = some z') :
    z'.cells = z.cells ∧ z'.done = z.done := by
  obtain ⟨fixed, st, pend, cyc, g, h, hg⟩ := y.applyClk_eq
  rw [h, List.getElem?_map, hz] at hz'
  cases hz'
  exact hg z

theorem Ctx.resize_dies_length (y : Ctx) (n : Nat) : (y.resize n).dies.length = n := by
  simp only [Ctx.resize, List.length_append, List.length_take, List.length_replicate]
  omega
/-- R96: a lower die of a resized set is as it was. -/
theorem Ctx.resize_die_kept {y : Ctx} {n k : Nat} (hn : k < n) (hk : k < y.dies.length) :
    (y.resize n).dies[k]? = y.dies[k]? := by
  simp only [Ctx.resize]
  rw [List.getElem?_append_left (by rw [List.length_take]; omega), List.getElem?_take_of_lt hn]
/-- R96: a die new to the set starts as R78 states, where the others stand. -/
theorem Ctx.resize_die_new {y : Ctx} {n k : Nat} {z : Die} (hk : y.dies.length ≤ k) (hz : (y.resize n).dies[k]? = some z) :
    z.cells = List.replicate 1600 Cell.entry ∧ z.done = y.sent := by
  simp only [Ctx.resize] at hz
  rw [List.getElem?_append_right (by rw [List.length_take]; omega)] at hz
  obtain rfl := List.eq_of_mem_replicate (List.mem_of_getElem? hz)
  exact ⟨rfl, rfl⟩

/-- A slot whose STEP has ended, with its outcome, on a rectangle (R95, R96). -/
def Slot.stepped (x : Slot) (r : Rect) (outcome : BitVec 2) (time : Nat) : Slot :=
  ({ x with
    row := r.row, col := r.col, h := r.h, w := r.w, state := .running, outcome := outcome, progress := time
    ctx := { (x.ctx.applyClk).resize r.n with stepDeferred := false } } : Slot).stagger time

theorem State.reshape_slot (s : State) (c : BitVec 4) (r : Rect) :
    (s.reshape c r).slot c = { s.slot c with row := r.row, col := r.col, h := r.h, w := r.w } ∧ (s.reshape c r).time = s.time := by
  have hdies : ∀ l : List (BitVec 6), DiesChange s
      (State.holdDies (l.foldl (fun s p => s.onPdie p fun q => { q with owner := none }) (s.leavePads c)) c r) := fun l =>
    ((s.leavePads_diesChange c).trans (State.foldl_onPdie_diesChange id _ l _)).trans (State.holdDies_diesChange _ c r)
  unfold State.reshape
  refine ⟨?_, (hdies _).time⟩
  rw [State.slot_onSlot_same, (hdies _).slot]

theorem State.stepTo_slot (s : State) (c : BitVec 4) (r : Rect) (o : BitVec 2) :
    (s.stepTo c r o).slot c = (s.slot c).stepped r o s.time := by
  have hstep : ∀ u : State, u.slot c = { s.slot c with row := r.row, col := r.col, h := r.h, w := r.w } → u.time = s.time →
      (u.onSlot c fun x => ({ x with
        state := .running, outcome := o, progress := u.time
        ctx := { (x.ctx.applyClk).resize r.n with stepDeferred := false } } : Slot).stagger u.time).slot c =
      (s.slot c).stepped r o s.time := by
    intro u hu ht
    rw [State.slot_onSlot_same, hu, ht]
    rfl
  unfold State.stepTo
  dsimp only
  split_ifs with h
  · exact hstep s (by rw [h]; rfl) rfl
  · exact hstep _ (s.reshape_slot c r).1 (s.reshape_slot c r).2

/-- R96: the dies of the set after a STEP, by logical index. -/
theorem Slot.stepped_dies (x : Slot) (r : Rect) (o : BitVec 2) (time : Nat) :
    let dies := (x.stepped r o time).ctx.dies
    dies.length = r.n ∧
    (∀ k z z', k < r.n → x.ctx.dies[k]? = some z → dies[k]? = some z' → z'.cells = z.cells ∧ z'.done = z.done) ∧
    (∀ k z', x.ctx.dies.length ≤ k → dies[k]? = some z' → z'.cells = List.replicate 1600 Cell.entry ∧ z'.done = x.ctx.sent) := by
  refine ⟨?_, fun k z z' hk hz hz' => ?_, fun k z' hk hz' => ?_⟩
  · exact (Slot.stagger_dies_length _ _).trans (Ctx.resize_dies_length _ _)
  · obtain ⟨d, b, hd, rfl⟩ := Slot.stagger_die hz'
    have hlen : k < x.ctx.applyClk.dies.length := by
      rw [x.ctx.applyClk_dies_length]
      exact (List.getElem?_eq_some_iff.mp hz).1
    have hbefore : x.ctx.applyClk.dies[k]? = some d := (Ctx.resize_die_kept hk hlen).symm.trans hd
    have hsame := Ctx.applyClk_die hz hbefore
    exact hsame
  · obtain ⟨d, b, hd, rfl⟩ := Slot.stagger_die hz'
    have hnew := Ctx.resize_die_new (x.ctx.applyClk_dies_length.trans_le hk) hd
    rw [x.ctx.applyClk_sent] at hnew
    exact hnew
/-- R95: a STEP leaves the registers and the place of the context's stream. -/
theorem Slot.stepped_stream (x : Slot) (r : Rect) (o : BitVec 2) (time : Nat) :
    let y := (x.stepped r o time).ctx
    y.x = x.ctx.x ∧ y.g = x.ctx.g ∧ y.pc = x.ctx.pc := by
  obtain ⟨fixed, st, pend, cyc, g, h, -⟩ := x.ctx.applyClk_eq
  have hy : ∃ mask dies, (x.stepped r o time).ctx = { x.ctx.applyClk with dieMask := mask, dies := dies, stepDeferred := false } :=
    ⟨_, _, rfl⟩
  obtain ⟨mask, dies, hy⟩ := hy
  rw [hy, h]
  exact ⟨rfl, rfl, rfl⟩

/-- R95: the rectangle and the outcome of a STEP without a yield: KEEP for vault-bound dies, else SHRINK, GROW or KEEP. -/
def State.stepOutcome (s : State) (c : BitVec 4) : Rect × BitVec 2 :=
  if (s.slot c).vbound then ((s.slot c).rect, 0)
  else match s.shrinkTo c, s.growTo c with
    | some r, _ => (r, 2)
    | none, some r => (r, 1)
    | none, none => ((s.slot c).rect, 0)

section
variable {s : State} {c : BitVec 4} (hstep : (s.slot c).state = .stepping) (hdrained : (s.slot c).savable .step = true)
  (hheld : s.held c = false)
include hstep hdrained hheld

/-- R92, R95, R132: the context of a set that has drained and is not held yields on request. -/
theorem execStepDecision_yields (hasked : (s.asked c).isSome = true) (hlive : (s.slot c).ctx.anyLive = false) :
    exec (.stepDecision c) s = .next (s.onSlot c fun x =>
      { x with state := .saving, save := some .step, outcome := 3, ctx := { x.ctx with stepDeferred := false } }) := by
  simp only [exec_stepDecision, execStepDecision, hstep, hdrained, hheld, hasked, hlive, ne_eq, not_true_eq_false, Bool.not_true,
    Bool.false_eq_true, or_self, if_false, Bool.not_false, and_self, if_true]

/-- R95: without a request, or with an accumulator bank live, the set is kept, shrunk or grown. -/
theorem execStepDecision_goesOn (hno : s.asked c = none ∨ (s.slot c).ctx.anyLive = true) :
    exec (.stepDecision c) s = .next (s.stepTo c (s.stepOutcome c).1 (s.stepOutcome c).2) := by
  have hnot : ¬((s.asked c).isSome = true ∧ (!(s.slot c).ctx.anyLive) = true) := by
    rcases hno with h | h <;> simp [h]
  simp only [exec_stepDecision, execStepDecision, State.stepOutcome, hstep, hdrained, hheld, hnot, ne_eq, not_true_eq_false,
    Bool.not_true, Bool.false_eq_true, or_self, if_false]
  by_cases hbound : (s.slot c).vbound = true
  · simp only [hbound, if_true]
  · simp only [hbound, Bool.false_eq_true, if_false]
    cases s.shrinkTo c with
    | some r => rfl
    | none =>
      cases s.growTo c with
      | some r => rfl
      | none => rfl
end

/-- Settles O41: the decision by the waiting order, the choice by the keys, the STEP by what its slot becomes. -/
theorem diesAreAllocated : Obligations.DiesAreAllocated := by
  refine ⟨fun s hrun hdue => execSchedulerDecision_due hrun hdue, ?_, ?_⟩
  · intro s c l x
    refine ⟨s.placeable_false_iff c, State.considerAll_dead l, fun r hp hr hfree => ?_, fun r free hwait hr => ?_, fun v hv => ?_⟩
    · obtain ⟨u, core, hall, hcore, hself, hothers, hpdies, hbm, hhost⟩ := State.considerAll_allocates l hp hr hfree
      obtain ⟨halloc, hheld, hrect⟩ := u.allocate_takes c r core
      refine ⟨_, core, hall, hcore, hheld, hrect, fun p hp => ?_, fun p hp => ?_,
        fun j hj => (halloc.others j hj).trans (hothers j hj), halloc.hbm.trans hbm, halloc.host.trans hhost, fun hsaved => ?_,
        fun hwait => ?_⟩
      · rw [halloc.dies]
        exact u.holdDies_owner c hp
      · rw [halloc.dies, u.holdDies_ne c hp, hpdies]
      · obtain ⟨-, hslot⟩ := State.allocate_saved (s := u) (by rw [hself]; exact hsaved) r core
        rw [hslot, hself]
        exact ⟨rfl, rfl⟩
      · obtain ⟨-, hslot⟩ := State.allocate_starts (s := u) (by rw [hself]; exact fun h => nomatch hwait.symm.trans h) r core
        rw [hslot, hself]
        exact Slot.starts_entry _ r.n _
    · rw [State.candidate_waiting hwait] at hr
      obtain ⟨⟨hrow, hcol, hh, hw⟩, hok, hbest⟩ := bestRect_spec hr
      simp only [Bool.and_eq_true, decide_eq_true_eq, List.all_eq_true] at hok hbest
      obtain ⟨⟨hmin, hmax⟩, hfree⟩ := hok
      exact ⟨hmin, hmax, hrow, hcol, hh, hw, hfree,
        fun q hqmin hqmax hqrow hqcol hqh hqw hqfree => hbest q ⟨hqrow, hqcol, hqh, hqw⟩ ⟨⟨hqmin, hqmax⟩, hqfree⟩⟩
    · obtain ⟨hmem, henough⟩ := s.pickVictims_spec c (s.victims c) [] v hv
      obtain ⟨hrun, hprio, hran⟩ := State.mayYield_of_mem_victims (hmem.resolve_left List.not_mem_nil)
      exact ⟨hrun, hprio, hran, henough⟩
  · intro s c x hstep hdrained hheld
    refine ⟨fun hasked hlive => execStepDecision_yields hstep hdrained hheld hasked hlive, fun hno => ?_, fun r o => ?_⟩
    · have hto := execStepDecision_goesOn hstep hdrained hheld hno
      refine ⟨fun hb => ?_, fun r hb hs => ?_, fun r hb hs hg => ?_, fun hb hs hg => ?_⟩
      · rw [hto, State.stepOutcome, if_pos hb]
      all_goals
        rw [hto, State.stepOutcome, if_neg (ne_true_of_eq_false hb), hs]
      · rw [hg]
      · rw [hg]
    · rw [s.stepTo_slot c r o]
      obtain ⟨hlen, hkept, hnew⟩ := x.stepped_dies r o s.time
      obtain ⟨hx, hg, hpc⟩ := x.stepped_stream r o s.time
      exact ⟨rfl, rfl, rfl, hlen, hx, hg, hpc, hkept, hnew⟩
end Sys2Proof.Machine

namespace Sys2Proof.Machine
open Sys2Proof

/-! ### Forced saves and save areas (05 R92-R94, R97, R98) -/

section
variable {s : State} {c : BitVec 4} {r : PreReq} (hasked : s.asked c = some r) (hrun : (s.slot c).state = .running)
  (hsave : (s.slot c).save = none) (hfreeze : (s.slot c).ctx.freeze = none) (hdue : r.deadline ≤ s.time)
include hasked hrun hsave hfreeze hdue

/-- R93: at the deadline of a request a handler, which has drained, is saved without a freeze. -/
theorem execPreemptLimitExpiry_handler (hh : (s.slot c).ctx.inHandler = true) :
    exec (.preemptLimitExpiry c) s = .next (s.onSlot c fun x => { x with state := .saving, save := some .forcedHandler }) := by
  simp only [exec_preemptLimitExpiry, execPreemptLimitExpiry, hasked, hrun, hsave, hfreeze, hh, ne_eq, not_true_eq_false,
    Option.isSome_none, Bool.false_eq_true, Nat.not_lt.mpr hdue, or_self, if_false, if_true]

/-- R93: at the deadline of a request the set is frozen. -/
theorem execPreemptLimitExpiry_freezes (hh : (s.slot c).ctx.inHandler = false) :
    exec (.preemptLimitExpiry c) s = .next (s.onSlot c fun x => { x with
      state := .saving
      ctx := { x.ctx with freeze := some ⟨true, none, x.ctx.sent, x.ctx.pc, .preemption, 7, none, none, 0xFF, 0⟩ } }) := by
  simp only [exec_preemptLimitExpiry, execPreemptLimitExpiry, hasked, hrun, hsave, hfreeze, hh, ne_eq, not_true_eq_false,
    Option.isSome_none, Bool.false_eq_true, Nat.not_lt.mpr hdue, or_self, if_false]
  rfl
end

/-- What every change of a die keeps, dies changed one after another keep. -/
theorem State.foldl_onPdie_keeps {f : State → PDie → PDie} {P : PDie → Prop} (hf : ∀ s q, P q → P (f s q)) {p : BitVec 6}
    (l : List (BitVec 6)) (s : State) (h : P (s.pdies.get p)) : P ((l.foldl (fun s p => s.onPdie p (f s)) s).pdies.get p) := by
  refine List.foldlRecOn l _ (motive := fun t : State => P (t.pdies.get p)) h fun t ht a _ => ?_
  by_cases hp : p = a
  · subst hp
    simp only [State.onPdie, RegFile.get_put_same]
    exact hf t _ ht
  · simp only [State.onPdie, RegFile.get_put_ne _ _ hp]
    exact ht

/-- A saved context leaves its dies; those of a vault-bound one stay reserved for it (R94). -/
def State.leaveDies (s : State) (c : BitVec 4) (x : Slot) : State :=
  let u := (s.leavePads c).freeDies c
  if x.vbound then x.pdies.foldl (fun s p => s.onPdie p fun q => { q with reserved := some c }) u else u

theorem State.leaveDies_spec (s : State) (c : BitVec 4) (x : Slot) : DiesChange s (s.leaveDies c x) ∧
    (∀ p, ((s.leaveDies c x).pdies.get p).owner ≠ some c) ∧
    (x.vbound = true → ∀ p ∈ x.pdies, ((s.leaveDies c x).pdies.get p).reserved = some c) := by
  have hleft : DiesChange s ((s.leavePads c).freeDies c) := (s.leavePads_diesChange c).trans (State.freeDies_diesChange _ c)
  have hfree := fun p => ((s.leavePads c).freeDies_free c p).1
  unfold State.leaveDies
  by_cases hb : x.vbound = true
  · simp only [hb, if_true]
    exact ⟨hleft.trans (State.foldl_onPdie_diesChange id _ _ _),
      fun p => State.foldl_onPdie_keeps (f := fun _ q => { q with reserved := some c }) (P := fun q => q.owner ≠ some c)
        (fun _ _ h => h) _ _ (hfree p),
      fun _ p hp => State.foldl_onPdie_mem _ (P := fun q => q.reserved = some c) (fun _ _ => rfl) _ _ hp⟩
  · simp only [hb, Bool.false_eq_true, if_false]
    exact ⟨hleft, hfree, False.elim⟩

/-- R90, R97: a slot whose save area has been written. -/
def Slot.saved (x : Slot) (time : Nat) : Slot :=
  { x with state := .saved, core := none, since := time, request := none, ctx := { x.ctx with freeze := none, lines := [] } }

/-- R90, R97: the slot of a context whose save area has been written is SAVED; the scheduler is due. -/
def State.keepSaved (u : State) (c : BitVec 4) : State := { u.onSlot c (fun x => x.saved u.time) with schedDue := true }
theorem State.keepSaved_slot (u : State) (c : BitVec 4) : (u.keepSaved c).slot c = (u.slot c).saved u.time :=
  u.slot_onSlot_same c fun x => x.saved u.time
theorem State.keepSaved_slot_ne (u : State) {c k : BitVec 4} (h : k ≠ c) : (u.keepSaved c).slot k = u.slot k :=
  u.slot_onSlot_ne (fun x => x.saved u.time) h

/-- R98: an access of a save area fails that is said to fail, or whose handle does not translate. -/
theorem savePlace_fails {fail : BitVec 1} {place : Except Cause Run} (h : fail = 1 ∨ ∃ e, place = .error e) :
    ∃ e, (if fail = 1 then .error .saveFailure else place) = .error e := by
  by_cases hf : fail = 1
  · exact ⟨_, if_pos hf⟩
  · rw [if_neg hf]
    exact h.resolve_left hf

section
variable {s : State} {c : BitVec 4} {k : SaveKind} (hsaving : (s.slot c).state = .saving) (hsave : (s.slot c).save = some k)
  (hended : (s.slot c).savable k = true) (hheld : s.saveHeld (s.slot c) = false)
include hsaving hsave hended hheld

/-- R94, R97: the save area is written through the save handle, and dies and core are released. -/
theorem execSaveComplete_written {r : Run} (hr : s.savePlace (s.slot c) 0 (saveSize (s.slot c).n) .write = .ok r) :
    exec (.saveComplete c 0) s = .next (((s.wrRun r (s.saveArea c k)).leaveDies c (s.slot c)).keepSaved c) := by
  have hzero : ¬((0 : BitVec 1) = 1) := by decide
  simp only [exec_saveComplete, execSaveComplete, hsaving, hsave, hended, hheld, hr, if_neg hzero, Bool.not_true, Bool.or_self,
    Bool.false_eq_true, if_false]
  rfl

/-- R98: a save handle that does not translate, or an access that fails, is fatal. -/
theorem execSaveComplete_fails {fail : BitVec 1}
    (hr : fail = 1 ∨ ∃ e, s.savePlace (s.slot c) 0 (saveSize (s.slot c).n) .write = .error e) :
    exec (.saveComplete c fail) s = .next (s.kill c (DeadInfo.plain .saveFailure)) := by
  obtain ⟨e, he⟩ := savePlace_fails hr
  simp only [exec_saveComplete, execSaveComplete, hsaving, hsave, hended, hheld, he, Bool.not_true, Bool.or_self,
    Bool.false_eq_true, if_false]
end

theorem State.wrRun_time (s : State) (r : Run) (b : List Byte) : (s.wrRun r b).time = s.time := by
  have hmem : ∀ host a b, (s.wrMem host a b).time = s.time := by
    intro host a b
    cases host <;> rfl
  unfold State.wrRun
  split <;> exact hmem _ _ _

/-! ### Restores (05 R97, R99) -/

/-- Registers put one after another, each with its value. -/
theorem RegFile.get_foldl_put {α : Type} {k : Nat} (v : Nat → α) (t : RegFile α k) (i : BitVec k) (m : Nat) (hm : m ≤ 2 ^ k) :
    ((List.range m).foldl (fun t j => t.put (BitVec.ofNat k j) (v j)) t).get i = if i.toNat < m then v i.toNat else t.get i := by
  induction m with
  | zero => rfl
  | succ m ih =>
    rw [List.range_succ, List.foldl_append, List.foldl_cons, List.foldl_nil]
    have hto : (BitVec.ofNat k m).toNat = m := by
      rw [BitVec.toNat_ofNat, Nat.mod_eq_of_lt (by omega)]
    by_cases hi : i = BitVec.ofNat k m
    · have hlast : i.toNat = m := by rw [hi, hto]
      rw [hi, RegFile.get_put_same, hto, if_pos (Nat.lt_succ_self m)]
    · have hne : i.toNat ≠ m := fun h => hi (BitVec.eq_of_toNat_eq (h.trans hto.symm))
      rw [RegFile.get_put_ne _ _ hi, ih (by omega)]
      by_cases hlt : i.toNat < m
      · rw [if_pos hlt, if_pos (by omega)]
      · rw [if_neg hlt, if_neg (by omega)]

/-- A register loaded from its place in a row. -/
theorem Reader.regs_get {α : Type} (r : Reader) {k : Nat} (base n : Nat) (f : Nat → α) (z : α) (i : BitVec k) :
    (r.regs k base n f z).get i = f (r (base + n * i.toNat) n) :=
  (RegFile.get_foldl_put _ _ i (2 ^ k) (Nat.le_refl _)).trans (if_pos i.isLt)

/-- Two control cores stand at the same point of their stream with the same registers, wait in the same rounds and have as
many dies. -/
structure Ctx.SameStream (y z : Ctx) : Prop where
  x : z.x = y.x
  g : z.g = y.g
  pc : z.pc = y.pc
  bsn : z.bsn = y.bsn
  rounds : z.rounds = y.rounds
  dies : z.dies.length = y.dies.length

theorem Ctx.SameStream.refl (y : Ctx) : y.SameStream y := ⟨rfl, rfl, rfl, rfl, rfl, rfl⟩
theorem Ctx.SameStream.trans {y z w : Ctx} (h : y.SameStream z) (k : z.SameStream w) : y.SameStream w :=
  ⟨k.x.trans h.x, k.g.trans h.g, k.pc.trans h.pc, k.bsn.trans h.bsn, k.rounds.trans h.rounds, k.dies.trans h.dies⟩
theorem Ctx.applyClk_sameStream (y : Ctx) : y.SameStream y.applyClk := by
  obtain ⟨fixed, st, pend, cyc, g, h, -⟩ := y.applyClk_eq
  rw [h]
  exact ⟨rfl, rfl, rfl, rfl, rfl, List.length_map _⟩
theorem Slot.stagger_sameStream (x : Slot) (time : Nat) : x.ctx.SameStream (x.stagger time).ctx :=
  ⟨rfl, rfl, rfl, rfl, rfl, x.stagger_dies_length time⟩
theorem Slot.catchUp_sameStream (x : Slot) : x.ctx.SameStream x.catchUp.ctx := by
  obtain ⟨a, h⟩ := x.catchUp_eq
  rw [h]
  exact ⟨rfl, rfl, rfl, rfl, rfl, rfl⟩

theorem Ctx.restoreSpecial_sameStream (y : Ctx) (r : Reader) : y.SameStream (y.restoreSpecial r) :=
  ⟨rfl, rfl, rfl, rfl, rfl, rfl⟩
theorem Ctx.restoreTrap_sameStream (y : Ctx) (r : Reader) : y.SameStream (y.restoreTrap r) :=
  ⟨rfl, rfl, rfl, rfl, rfl, rfl⟩
/-- R99: where a restored context continues is all that changes last. -/
theorem Ctx.restorePoint_eq (y : Ctx) (r : Reader) (old : Nat) : ∃ pc bsn resume,
    y.restorePoint r old = { y with pc := pc, bsn := bsn, resume := resume } ∧
    (r 7 1 % 2 = 0 → bsn = r 8 8 ∧ pc = BitVec.ofNat 64 (r 0x10 8)) := by
  refine ⟨_, _, _, rfl, fun h => ?_⟩
  have hforced : (r 7 1 % 2 == 1) = false := by rw [h]; rfl
  simp only [hforced, Bool.false_and, Bool.false_eq_true, if_false, and_self]

/-- R99: the records are loaded before the special registers, the trap state and the point to continue from. -/
theorem Ctx.restore_records (y : Ctx) (r : Reader) : ∃ z : Ctx,
    y.restore r = ((z.restoreSpecial r).restoreTrap (r.from 0xB80)).restorePoint r y.resendHigh ∧
    z.x = r.regs 5 0x40 8 (BitVec.ofNat 64) 0 ∧ z.g = r.regs 3 0x140 8 (BitVec.ofNat 64) 0 ∧ z.rounds = y.rounds ∧
    z.dies.length = y.dies.length := by
  -- the two rounds are compared one by one: compared as wholes, the kernel would compute the loaded registers
  have hrounds : ∀ z : Ctx, z.podOuter = y.podOuter → z.podWait = y.podWait → z.rounds = y.rounds := by
    intro z houter hwait
    rw [Ctx.rounds, houter, hwait, Ctx.rounds]
  exact ⟨_, rfl, rfl, rfl, hrounds _ rfl rfl, by simp only [List.length_map, List.length_mapIdx]⟩

/-- R99: what a restore loads into the sequencer; the rounds in which the context waits stay. -/
theorem Ctx.restore_loads (y : Ctx) (r : Reader) :
    (∀ k : BitVec 5, k ≠ 0 → (y.restore r).getX k = BitVec.ofNat 64 (r (0x40 + 8 * k.toNat) 8)) ∧
    (∀ k : BitVec 3, (y.restore r).g.get k = BitVec.ofNat 64 (r (0x140 + 8 * k.toNat) 8)) ∧
    (r 7 1 % 2 = 0 → (y.restore r).bsn = r 8 8 ∧ (y.restore r).pc = BitVec.ofNat 64 (r 0x10 8)) ∧
    (y.restore r).rounds = y.rounds ∧ (y.restore r).dies.length = y.dies.length := by
  obtain ⟨z, hz, hx, hg, hrounds, hdies⟩ := y.restore_records r
  have hsame := (z.restoreSpecial_sameStream r).trans (Ctx.restoreTrap_sameStream _ (r.from 0xB80))
  rw [hz]
  obtain ⟨pc, bsn, resume, hpoint, hcont⟩ :=
    Ctx.restorePoint_eq ((z.restoreSpecial r).restoreTrap (r.from 0xB80)) r y.resendHigh
  rw [hpoint]
  refine ⟨fun k hk => ?_, fun k => ?_, hcont, hsame.rounds.trans hrounds, hsame.dies.trans hdies⟩
  · rw [Ctx.getX, if_neg hk]
    show ((z.restoreSpecial r).restoreTrap (r.from 0xB80)).x.get k = _
    rw [hsame.x, hx, Reader.regs_get]
  · show ((z.restoreSpecial r).restoreTrap (r.from 0xB80)).g.get k = _
    rw [hsame.g, hg, Reader.regs_get]

/-- A slot that runs again with what a restore has loaded (R99). -/
def Slot.resumed (x : Slot) (y : Ctx) (time : Nat) : Slot :=
  { x with state := .running, save := none, moved := true, ranSince := time, progress := time, waited := 0, ctx := y }
/-- A slot whose restored context starts to issue (R99, R138). -/
def Slot.restored (x : Slot) (y : Ctx) (time : Nat) : Slot := (x.resumed y time).stagger time

/-- R99, R126: a control core loaded from a save area, with the CLKMODE that a STEP has left pending. -/
def Slot.loaded (x : Slot) (r : Reader) : Ctx :=
  if x.save = some .step then (x.ctx.restore r).applyClk else x.ctx.restore r

theorem Slot.loaded_sameStream (x : Slot) (r : Reader) : (x.ctx.restore r).SameStream (x.loaded r) := by
  unfold Slot.loaded
  split
  · exact Ctx.applyClk_sameStream _
  · exact .refl _

/-- R99: a restored context runs on its core with what was loaded. -/
theorem Slot.restored_continues (x : Slot) (r : Reader) (time : Nat) :
    let z := (x.restored (x.loaded r) time).catchUp
    z.state = .running ∧ z.save = none ∧ z.moved = true ∧ z.core = x.core ∧ (x.ctx.restore r).SameStream z.ctx := by
  obtain ⟨a, ha⟩ := (x.restored (x.loaded r) time).catchUp_eq
  have hstagger : (x.loaded r).SameStream (x.restored (x.loaded r) time).ctx :=
    (x.resumed (x.loaded r) time).stagger_sameStream time
  refine ⟨?_, ?_, ?_, ?_, ((x.loaded_sameStream r).trans hstagger).trans (Slot.catchUp_sameStream _)⟩
  all_goals
    rw [ha]
    rfl

/-- R184: self-refresh ends at the dies of a vault-bound context. -/
def State.endRefresh (s : State) (x : Slot) : State :=
  if x.vbound then x.pdies.foldl (fun s p => s.onPdie p fun q => q.selfStop s.time) s else s

theorem State.endRefresh_diesChange (s : State) (x : Slot) : DiesChange s (s.endRefresh x) := by
  unfold State.endRefresh
  split
  · exact State.foldl_onPdie_diesChange id _ _ s
  · exact .refl s

theorem State.tryRound_of_no_round {s : State} {c : BitVec 4} (h : (s.slot c).ctx.rounds = []) : s.tryRound c = s := by
  obtain ⟨houter, hwait⟩ := List.append_eq_nil_iff.mp h
  have hnone : ∀ outer, s.tryWait c outer = s := by
    intro outer
    have hround : (s.slot c).ctx.roundOf outer = none := by
      cases outer
      · exact Option.toList_eq_nil_iff.mp hwait
      · exact Option.toList_eq_nil_iff.mp houter
    unfold State.tryWait
    simp only [hround]
  rw [State.tryRound, hnone true, hnone false]

section
variable {s : State} {c : BitVec 4} (hrestoring : (s.slot c).state = .restoring) (hheld : s.saveHeld (s.slot c) = false)
include hrestoring hheld

/-- R99: the context continues once its records are loaded. -/
theorem execRestoreComplete_loaded {r : Run} (hr : s.savePlace (s.slot c) 0 (saveSize (s.slot c).n) .read = .ok r) :
    let u := s.endRefresh (s.slot c)
    exec (.restoreComplete c 0) s = .next
      (((u.onSlot c fun x => x.restored ((s.slot c).loaded (s.saveReader (s.slot c))) u.time).catchUp c).tryRound c) := by
  have hzero : ¬((0 : BitVec 1) = 1) := by decide
  simp only [exec_restoreComplete, execRestoreComplete, hrestoring, hheld, hr, if_neg hzero, ne_eq, not_true_eq_false,
    Bool.false_eq_true, or_self, if_false]
  rfl

/-- R99: with no round to complete, the slot of the context is all that changes but for dies and pod accesses. -/
theorem execRestoreComplete_continues {r : Run} (hr : s.savePlace (s.slot c) 0 (saveSize (s.slot c).n) .read = .ok r)
    (hrounds : (s.slot c).ctx.rounds = []) : ∃ (t : State) (time : Nat), exec (.restoreComplete c 0) s = .next t ∧
    t.slot c = ((s.slot c).restored ((s.slot c).loaded (s.saveReader (s.slot c))) time).catchUp ∧
    (∀ j, j ≠ c → t.slot j = s.slot j) ∧ t.hbm = s.hbm ∧ t.host = s.host := by
  have hdies := s.endRefresh_diesChange (s.slot c)
  have hexec := execRestoreComplete_loaded hrestoring hheld hr
  generalize s.endRefresh (s.slot c) = u at hdies hexec
  have hslot : ((u.onSlot c fun x => x.restored ((s.slot c).loaded (s.saveReader (s.slot c))) u.time).catchUp c).slot c =
      ((s.slot c).restored ((s.slot c).loaded (s.saveReader (s.slot c))) u.time).catchUp := by
    rw [State.catchUp_slot, State.slot_onSlot_same, hdies.slot]
  obtain ⟨-, -, -, -, hstream⟩ := (s.slot c).restored_continues (s.saveReader (s.slot c)) u.time
  obtain ⟨-, -, -, hround, -⟩ := (s.slot c).ctx.restore_loads (s.saveReader (s.slot c))
  refine ⟨_, u.time, hexec.trans (congrArg _ (State.tryRound_of_no_round ?_)), hslot, fun j hj => ?_, ?_, ?_⟩
  · rw [hslot, hstream.rounds, hround, hrounds]
  · rw [State.catchUp_slot_ne _ hj, State.slot_onSlot_ne _ _ hj, hdies.slot]
  · rw [State.catchUp_hbm, State.onSlot_hbm, hdies.hbm]
  · rw [State.catchUp_host, State.onSlot_host, hdies.host]

/-- R98: a save handle that does not translate, or an access that fails, is fatal. -/
theorem execRestoreComplete_fails {fail : BitVec 1}
    (hr : fail = 1 ∨ ∃ e, s.savePlace (s.slot c) 0 (saveSize (s.slot c).n) .read = .error e) :
    exec (.restoreComplete c fail) s = .next (s.kill c (DeadInfo.plain .saveFailure)) := by
  obtain ⟨e, he⟩ := savePlace_fails hr
  simp only [exec_restoreComplete, execRestoreComplete, hrestoring, hheld, he, ne_eq, not_true_eq_false, Bool.false_eq_true,
    or_self, if_false]
end

/-! ### Staggered starts (07 R138) -/

theorem execStaggerStart_due {s : State} {c g : BitVec 4} (hholds : (s.slot c).holds = true)
    (hearlier : ∀ e, e < (s.slot c).n →
      (s.slot c).regionIndex (regionOf ((s.slot c).phys e)) < (s.slot c).regionIndex g →
      ∃ z, (s.slot c).ctx.dies[e]? = some z ∧ z.started = true)
    (hdue : (s.slot c).issueSince + (s.slot c).regionIndex g * (s.slot c).ctx.stagger.toNat * 50000 ≤ s.time) :
    exec (.staggerStart c g) s = .next (s.onCtx c fun y => { y with dies := (s.slot c).startRegion g y.dies }) := by
  have hall : ((List.range (s.slot c).n).all fun d =>
      decide ((s.slot c).regionIndex g ≤ (s.slot c).regionIndex (regionOf ((s.slot c).phys d))) ||
        ((s.slot c).ctx.dies[d]?).any (·.started)) = true := by
    rw [List.all_eq_true]
    intro d hd
    by_cases hle : (s.slot c).regionIndex g ≤ (s.slot c).regionIndex (regionOf ((s.slot c).phys d))
    · rw [decide_eq_true hle, Bool.true_or]
    · obtain ⟨z, hz, hstarted⟩ := hearlier d (List.mem_range.mp hd) (Nat.lt_of_not_le hle)
      rw [hz, Option.any_some, hstarted, Bool.or_true]
  simp only [exec_staggerStart, execStaggerStart, guarded, hholds, hall, decide_eq_true hdue, Bool.and_self, if_true]

theorem Slot.startRegion_die (x : Slot) (g : BitVec 4) {l : List Die} {k : Nat} {z z' : Die} (hz : l[k]? = some z)
    (hz' : (x.startRegion g l)[k]? = some z') :
    z' = if regionOf (x.phys k) = g then { z with started := true } else z := by
  rw [Slot.startRegion, List.getElem?_mapIdx, hz] at hz'
  exact (Option.some.inj hz').symm

/-- Settles O42: a forced save by its request, a save and a restore by how far their access comes, a start by its region. -/
theorem contextsAreSavedAndRestored : Obligations.ContextsAreSavedAndRestored := by
  intro s c x
  refine ⟨fun r hasked hrun hsave hfreeze hdue => ⟨execPreemptLimitExpiry_handler hasked hrun hsave hfreeze hdue,
    execPreemptLimitExpiry_freezes hasked hrun hsave hfreeze hdue⟩, fun k hsaving hsave hended hheld => ⟨fun r hr => ?_,
    execSaveComplete_fails hsaving hsave hended hheld (.inl rfl),
    fun e he => execSaveComplete_fails hsaving hsave hended hheld (.inr ⟨e, he⟩)⟩,
    fun hrestoring hheld => ⟨fun r hr hrounds => ?_, execRestoreComplete_fails hrestoring hheld (.inl rfl),
    fun e he => execRestoreComplete_fails hrestoring hheld (.inr ⟨e, he⟩)⟩,
    fun g hholds hearlier hdue => ⟨execStaggerStart_due hholds hearlier hdue, fun k z z' hz hz' => x.startRegion_die g hz hz'⟩⟩
  · obtain ⟨hdies, hfree, hreserved⟩ := (s.wrRun r (s.saveArea c k)).leaveDies_spec c x
    have hslot : ∀ j, ((s.wrRun r (s.saveArea c k)).leaveDies c x).slot j = s.slot j := fun j =>
      (hdies.slot j).trans (congrArg (·.get j) (s.wrRun_keepsContexts r (s.saveArea c k)).slots)
    refine ⟨_, execSaveComplete_written hsaving hsave hended hheld hr, ?_,
      fun j hj => (State.keepSaved_slot_ne _ hj).trans (hslot j), rfl, hdies.hbm, hdies.host, hfree, hreserved⟩
    rw [State.keepSaved_slot, hslot, hdies.time, s.wrRun_time]
    rfl
  · obtain ⟨t, time, ht, hslot, hothers, hbm, hhost⟩ := execRestoreComplete_continues hrestoring hheld hr hrounds
    obtain ⟨hx, hg, hpoint, -, hlen⟩ := x.ctx.restore_loads (s.saveReader x)
    obtain ⟨hstate, hsave, hmoved, hcore, hstream⟩ := x.restored_continues (s.saveReader x) time
    refine ⟨t, ht, ?_⟩
    rw [hslot]
    refine ⟨hstate, hsave, hmoved, hcore, fun k hk => ?_, fun k => ?_, fun h => ?_, hstream.dies.trans hlen, hbm, hhost, hothers⟩
    · rw [Ctx.getX, hstream.x]
      exact hx k hk
    · rw [hstream.g]
      exact hg k
    · rw [hstream.bsn, hstream.pc]
      exact hpoint h
end Sys2Proof.Machine

namespace Sys2Proof.Machine
open Sys2Proof

/-! ### Changes of a context that come to the same -/

theorem State.onCtx_congr (s : State) (c : BitVec 4) {f g : Ctx → Ctx} (h : f (s.slot c).ctx = g (s.slot c).ctx) :
    s.onCtx c f = s.onCtx c g :=
  s.onSlot_congr c (congrArg (fun y => ({ s.slot c with ctx := y } : Slot)) h)

/-! ### Waits of the sync field (06 R122, 10 R206, R207, 20 R394-R398) -/

/-- A sync instruction `i` is a wait that is met in an active cell as `met` says and completes with `done`: the dies whose cells it
holds no longer go on with the bundle, a handler bundle only as a whole. -/
def WaitsFor (s : State) (f : Focus) (i : Instr) (met : Cell → Bool) (done : Cell → Cell) : Prop :=
  let ready := fun (w : Window) => w.pre.all fun c => (f.bsn.isSome && c.waited == f.bsn) || !c.act || met c
  let pass := fun (c : Cell) => done (if f.bsn.isSome && c.waited == f.bsn then c else { c with raced := [] })
  (f.handler = false ∨ f.windows.all ready = true →
    exec i s = .next (s.hand { f with windows := (f.windows.filter ready).map fun w =>
      { w with pre := w.pre.map pass, post := w.post.map pass } })) ∧
  (f.handler = true → f.windows.all ready = false → exec i s = .next (s.hand { f with sres := .wait }))

/-- R206: the instructions that `syncWait` gives their meaning wait so. -/
theorem waitsFor_of_syncWait {s : State} {f : Focus} (hf : s.focus = some f) {i : Instr} {met : Cell → Bool} {done : Cell → Cell}
    (hexec : exec i s = syncWait i s) (hmet : ∀ c, waitMet i c = (!c.act || met c))
    (hdone : ∀ c, c.passWait i f.bsn = done (if f.bsn.isSome && c.waited == f.bsn then c else { c with raced := [] })) :
    WaitsFor s f i met done := by
  have hready : ∀ c : Cell, (c.waitedFor f.bsn || waitMet i c) = ((f.bsn.isSome && c.waited == f.bsn) || !c.act || met c) := by
    intro c
    rw [hmet, ← Bool.or_assoc]
    rfl
  refine ⟨fun hgo => ?_, fun hh hall => ?_⟩
  · have hgo' : (f.handler && !f.windows.all fun w => w.pre.all fun c =>
        (f.bsn.isSome && c.waited == f.bsn) || !c.act || met c) = false := by
      rcases hgo with h | h <;> simp [h]
    simp only [hexec, syncWait, hf, hready, hgo', funext hdone, Bool.false_eq_true, if_false, State.hand]
  · simp only [hexec, syncWait, hf, hready, hh, hall, Bool.not_false, Bool.and_self, if_true, State.setSres_eq hf]

/-! ### Fences (10 R203, 20 R399) -/

/-- A command of the classes `m` that a fence awaits: an access not performed, an engine command not complete (R203). -/
def Cmd.Undone (m : BitVec 16) (q : Cmd) : Prop :=
  m.getLsbD q.cls.toNat = true ∧ match q.op with
    | .store _ _ _ | .load _ _ | .atom _ _ _ _ _ _ _ => (∀ v, q.st ≠ .performed v) ∧ q.st ≠ .complete
    | .copy _ _ _ _ _ | .gather _ _ _ | .scatter _ _ _ _ | .indexed _ _ _ _ _ _ => q.st ≠ .complete
    | _ => False

theorem Cmd.fenced_eq_false_iff (q : Cmd) (m : BitVec 16) : q.fenced m = false ↔ q.Undone m := by
  have haccess : (match q.st with | .performed _ => true | .complete => true | _ => false) = false ↔
      (∀ v, q.st ≠ .performed v) ∧ q.st ≠ .complete := by
    cases q.st <;> simp
  unfold Cmd.fenced Cmd.Undone bit
  rw [Bool.or_eq_false_iff, Bool.not_eq_false']
  refine and_congr_right fun _ => ?_
  cases q.op
  case store | load | atom => exact haccess
  case copy | gather | scatter | indexed => exact beq_eq_false_iff_ne
  all_goals simp

/-- A command of a fence that is not done yet. -/
def Cell.Awaits (c : Cell) (k : BitVec 2 × Nat) : Prop := ∃ q ∈ c.cmds, q.tl = k.1 ∧ q.num = k.2 ∧ q.Undone 0xFFFF

theorem Cell.fenceDone_eq_false_iff (c : Cell) (k : BitVec 2 × Nat) : c.fenceDone k = false ↔ c.Awaits k := by
  simp only [Cell.fenceDone, Cell.Awaits, List.all_eq_false, Bool.not_eq_true, Bool.or_eq_false_iff, Bool.not_eq_false',
    Bool.and_eq_true, beq_iff_eq, Cmd.fenced_eq_false_iff, and_assoc]

/-- R203: after a fence, what is awaited still and the commands of its classes that are not done. -/
theorem Cell.mem_putFence (c : Cell) (m : BitVec 16) (k : BitVec 2 × Nat) :
    k ∈ (c.putFence m).fence ↔ (k ∈ c.fence ∧ c.Awaits k) ∨ ∃ r ∈ c.cmds, (r.tl, r.num) = k ∧ r.Undone m := by
  simp only [Cell.putFence, List.mem_append, List.mem_filter, List.mem_map, Bool.not_eq_true', Cell.fenceDone_eq_false_iff,
    Cmd.fenced_eq_false_iff, and_comm (b := (_, _) = k)]
  tauto

/-- R203, R206: what keeps a cell's C slots from starting, the fence of the bundle in hand included. -/
theorem Cell.unfenced_eq_false {c : Cell} {y : Option Instr}
    (h : (∃ k ∈ c.fence, c.Awaits k) ∨ ∃ m, y = some (.yfence m) ∧ ∃ q ∈ c.cmds, q.Undone m) : c.unfenced y = false := by
  rcases h with ⟨k, hk, hawaits⟩ | ⟨m, rfl, q, hq, hundone⟩
  · have hold : (c.fence.all c.fenceDone) = false :=
      List.all_eq_false.mpr ⟨k, hk, Bool.not_eq_true _ ▸ (c.fenceDone_eq_false_iff k).mpr hawaits⟩
    unfold Cell.unfenced
    rw [hold, Bool.false_and]
  · have hnew : (c.cmds.all fun q => q.fenced m) = false :=
      List.all_eq_false.mpr ⟨q, hq, Bool.not_eq_true _ ▸ (q.fenced_eq_false_iff m).mpr hundone⟩
    simp only [Cell.unfenced, hnew, Bool.and_false]

/-- R203: a fence holds the C slots of an active cell. -/
theorem cellReady_of_fenced {b : Bundle} {handler : Bool} {c : Cell} (hact : c.act = true)
    (hslot : ∃ o ∈ b.ops, o.1 = .c0 ∨ o.1 = .c1) (hfence : c.unfenced b.sync = false) : cellReady b handler c = false := by
  obtain ⟨o, ho, hc⟩ := hslot
  have hops : (b.ops.all fun o => o.1 != .c0 && o.1 != .c1) = false :=
    List.all_eq_false.mpr ⟨o, ho, by rcases hc with h | h <;> simp [h]⟩
  simp only [cellReady, hact, hops, hfence, Bool.not_true, Bool.false_or, Bool.false_and]

/-! ### A wait that is met stays met (10 R206) -/

/-- A wait of the bundle that stands next at a die. -/
theorem Ctx.nextWait_eq {y : Ctx} {d : Nat} {x : Die} {e : HistEntry} {i : Instr} (hx : y.dies[d]? = some x)
    (he : (y.hist.find? fun h => h.bsn == x.done + 1) = some e) (hmask : e.carried.dieMask.getLsbD d = true)
    (hsync : e.bundle.sync = some i) (hwait : isWait i = true) : y.nextWait d = some (e.bsn, i) := by
  simp only [Ctx.nextWait, hx, he, hmask, hsync, hwait, bit, Option.bind_some, if_true, Option.filter_some, Option.map_some]

/-- Settles O26: each wait by what meets and what completes it, the fence by the commands it awaits, and SYNC_WAIT_COMPLETE by the
wait that stands next. -/
theorem syncWaits : Obligations.SyncWaits := by
  refine ⟨fun s f hf => ⟨?_, ?_, ?_, ?_⟩, ⟨fun m => ?_, ?_⟩, ?_⟩
  · exact fun k v => waitsFor_of_syncWait hf rfl (fun _ => rfl) fun _ => rfl
  · exact fun k v => waitsFor_of_syncWait hf rfl (fun _ => rfl) fun _ => rfl
  · exact fun k v => waitsFor_of_syncWait (i := .ywaitt k v) (met := (·.timelineReached k v.toNat)) (done := (·.dropGuards k v.toNat))
      hf rfl (fun _ => rfl) fun _ => rfl
  · exact fun k b => waitsFor_of_syncWait (i := .ywaittB k b)
      (met := fun c => (c.hawk.all fun h => h.dest != .b b.toNat) && c.timelineReached k (c.getB b).toNat)
      (done := fun c => c.dropGuards k (c.getB b).toNat) hf rfl (fun _ => rfl) fun _ => rfl
  · exact actsOnCells_pure (fun _ => rfl) fun _ _ q _ => ⟨rfl, q.mem_putFence m⟩
  · exact fun b h c hact hslot hfence => cellReady_of_fenced hact hslot (Cell.unfenced_eq_false hfence)
  · intro s c d x e i hx he hmask hsync hkind hheld ended
    have hwait : isWait i = true := by
      rcases hkind with ⟨_, _, rfl⟩ | ⟨_, _, rfl⟩ | ⟨_, _, rfl⟩ | ⟨_, _, rfl⟩ <;> rfl
    simp only [exec_syncWaitComplete, execSyncWaitComplete, Ctx.nextWait_eq hx he hmask hsync hwait, hheld, guarded, Bool.not_false,
      if_true]
    rfl
end Sys2Proof.Machine

namespace Sys2Proof.Machine
open Sys2Proof

/-! ### Marks and yields (05 R92, 20 R401, R403, R410) -/

/-- R403, R410: LASTMARK joins the low 48 bits of the BSN and the code. -/
theorem lastMark_eq (b : Nat) (m : BitVec 16) :
    BitVec.ofNat 64 (m.toNat + b % 2 ^ 48 * 2 ^ 16) = (BitVec.ofNat 48 b ++ m : BitVec (48 + 16)) := by
  have hm := m.isLt
  have hb : b % 2 ^ 48 < 2 ^ 48 := Nat.mod_lt _ (by decide)
  refine BitVec.eq_of_toNat_eq ?_
  rw [BitVec.toNat_append, BitVec.toNat_ofNat, BitVec.toNat_ofNat, Nat.shiftLeft_eq, ← Nat.shiftLeft_eq,
    ← Nat.shiftLeft_add_eq_or_of_lt hm, Nat.shiftLeft_eq]
  omega
theorem lastMark_zero (m : BitVec 16) : BitVec.ofNat 64 (m.toNat + 0 % 2 ^ 48 * 2 ^ 16) = m.zeroExtend 64 := by
  refine BitVec.eq_of_toNat_eq ?_
  have hm := m.isLt
  simp only [BitVec.toNat_ofNat, BitVec.toNat_setWidth]
  omega

/-- R403: a mark at issue fires the trigger and is noted. -/
theorem execYmark_issuing {s : State} {f : Focus} (hf : s.focus = some f) (hissue : f.issuing = true) (m : BitVec 16) :
    exec (.ymark m) s = .next ((s.trigger 1 f.slot 0).onCtx f.slot fun y =>
      { y with lastMark := BitVec.ofNat 64 (m.toNat + (f.bsn.getD 0) % 2 ^ 48 * 2 ^ 16) }) := by
  simp only [exec_ymark, execYmark, hf, hissue, Bool.not_true, Bool.false_eq_true, if_false]

/-- R91, R401: a bundle issued outside a handler, while a pre-emption request of its context stands: the slot that it is for waits
still, in the same life. -/
def State.AskedToYield (s : State) (f : Focus) : Prop :=
  f.issuing = true ∧ f.handler = false ∧ ∃ r, (s.slot f.slot).request = some r ∧ (s.slot r.waiter).life = r.life ∧
    ((s.slot r.waiter).state = .waiting ∨ (s.slot r.waiter).state = .saved)

theorem State.askedToYield_iff (s : State) (f : Focus) :
    s.AskedToYield f ↔ (!f.issuing || f.handler || (s.asked f.slot).isNone) = false := by
  unfold State.AskedToYield State.asked
  cases (s.slot f.slot).request with
  | none => simp
  | some r => simp [SlotState.waits, and_comm, and_assoc, or_iff_not_imp_left]

theorem Ctx.anyLive_iff (y : Ctx) :
    y.anyLive = true ↔ ∃ d ∈ y.dies, ∃ q ∈ d.cells, ∃ b, (q.acc.get b).live = true := by
  have hbank : ∀ q : Cell, (∃ b ∈ q.acc.toList, b.live = true) ↔ ∃ b, (q.acc.get b).live = true := by
    intro q
    constructor
    · rintro ⟨b, hb, hlive⟩
      obtain ⟨i, hi, rfl⟩ := List.getElem_of_mem hb
      have hi8 : i < 2 ^ 3 := by simpa using hi
      refine ⟨BitVec.ofNatLT i hi8, ?_⟩
      simpa [RegFile.get_eq_getElem] using hlive
    · rintro ⟨b, hlive⟩
      exact ⟨_, by simp [RegFile.get_eq_getElem], hlive⟩
  simp only [Ctx.anyLive, List.any_eq_true, hbank]

section
variable {s : State} {f : Focus} (hf : s.focus = some f)
include hf

theorem execYyield_not_asked (h : ¬s.AskedToYield f) : exec .yyield s = .next s := by
  rw [State.askedToYield_iff, Bool.not_eq_false] at h
  simp only [exec_yyield, execYyield, hf, h, if_true]

/-- R401: asked to yield, the sequencer waits for the dies, then looks at the banks (log 24). -/
theorem execYyield_asked (h : s.AskedToYield f) : exec .yyield s = .next (
    if (s.slot f.slot).ctx.dmin < (s.slot f.slot).ctx.sent then s.hand { f with sres := .wait }
    else if (s.slot f.slot).ctx.anyLive then s else s.hand { f with after := .yield }) := by
  rw [State.askedToYield_iff] at h
  simp only [exec_yyield, execYyield, hf, h, Bool.false_eq_true, if_false, State.setSres_eq hf]
  rfl

/-- R402: a YBAR within a handler, in a bundle sent again or without a BSN waits for nothing. -/
theorem execYbar_idle (h : f.handler = true ∨ f.issuing = false ∨ f.bsn = none) : exec .ybar s = .next s := by
  simp only [exec_ybar, execYbar, hf]
  cases hbsn : f.bsn with
  | none => simp
  | some b => rcases h with h | h | h <;> simp_all
end

/-- Settles O27: each instruction by the bundle in hand, YYIELD by whether it is asked, then by the dies and the banks. -/
theorem postsLocksBarriersMarksYields : Obligations.PostsLocksBarriersMarksYields := by
  refine ⟨fun k n => ?_, fun s f hf => ⟨fun m n => ?_, fun b hh hi hb => ?_, execYbar_idle hf, fun m hi => ?_, fun m b hi hb => ?_,
    fun m hi hb => ?_, ⟨execYyield_not_asked hf, fun h hd => ?_, fun h hd hlive => ?_, fun h hd hlive => ?_⟩, fun h => ?_⟩⟩
  · exact actsOnCells_of (fun _ => rfl) fun _ _ q _ =>
      ⟨_, rfl, rfl, fun j hj => RegFile.get_put_ne _ _ hj, RegFile.get_put_same _ _ _⟩
  · simp only [exec_ylock, execYlock, hf, Option.map_some, State.hand]
  · simp only [exec_ybar, execYbar, hf, hh, hi, hb, Bool.false_eq_true, if_false, if_true]
  · simp only [exec_ymark, execYmark, hf, hi, Bool.not_false, if_true]
  · rw [execYmark_issuing hf hi, hb, Option.getD_some, lastMark_eq]
  · rw [execYmark_issuing hf hi, hb, Option.getD_none, lastMark_zero]
  · rw [execYyield_asked hf h, if_pos hd]
  · rw [execYyield_asked hf h, if_neg (Nat.not_lt.mpr hd), if_pos ((Ctx.anyLive_iff _).mpr hlive)]
  · rw [execYyield_asked hf h, if_neg (Nat.not_lt.mpr hd), if_neg (mt (Ctx.anyLive_iff _).mp hlive)]
  · simp only [State.afterwards, h]
end Sys2Proof.Machine

namespace Sys2Proof.Machine
open Sys2Proof

/-! ### Landings at a cell and at a die (08 R160-R162) -/

/-- One entry lands: its register takes the datum. -/
def Cell.land (x : Cell) (h : HawkEntry) : Cell :=
  match h.data, h.dest with
  | some v, .v k => x.setV (BitVec.ofNat 5 k) v
  | some v, .b k => x.setB (BitVec.ofNat 4 k) (BitVec.ofNat 32 v.toNat)
  | _, _ => x

theorem Cell.landAt_eq (x : Cell) (l : Nat) : x.landAt l =
    { (x.hawk.filter fun h => h.due == l).foldl Cell.land x with hawk := x.hawk.filter fun h => h.due != l } := rfl

theorem Cell.land_eq (x : Cell) (h : HawkEntry) : x.land h = { x with v := (x.land h).v, b := (x.land h).b } := by
  unfold Cell.land
  split
  · rfl
  · unfold Cell.setB
    split <;> rfl
  · rfl

theorem Cell.land_getV (x : Cell) {h : HawkEntry} {k : BitVec 5} (hk : ∀ j, h.dest = .v j → BitVec.ofNat 5 j ≠ k) :
    (x.land h).getV k = x.getV k := by
  unfold Cell.land
  split
  · exact Cell.getV_setV_ne x _ (hk _ ‹_›).symm
  · exact congrArg (RegFile.get · k) (Cell.setB_v x _ _)
  · rfl

theorem Cell.land_getB (x : Cell) {h : HawkEntry} {k : BitVec 4} (hk : ∀ j, h.dest = .b j → BitVec.ofNat 4 j ≠ k) :
    (x.land h).getB k = x.getB k := by
  unfold Cell.land
  split
  · rfl
  · exact Cell.getB_setB_ne x _ (hk _ ‹_›).symm
  · rfl

/-- Entries that land one after another write v and b registers, and of them their destinations alone. -/
theorem Cell.foldl_land (hs : List HawkEntry) : ∀ x : Cell,
    hs.foldl Cell.land x = { x with v := (hs.foldl Cell.land x).v, b := (hs.foldl Cell.land x).b } ∧
    (∀ k, (∀ h ∈ hs, ∀ j, h.dest = .v j → BitVec.ofNat 5 j ≠ k) → (hs.foldl Cell.land x).getV k = x.getV k) ∧
    (∀ k, (∀ h ∈ hs, ∀ j, h.dest = .b j → BitVec.ofNat 4 j ≠ k) → (hs.foldl Cell.land x).getB k = x.getB k) := by
  induction hs with
  | nil => exact fun x => ⟨rfl, fun _ _ => rfl, fun _ _ => rfl⟩
  | cons h hs ih =>
    intro x
    obtain ⟨hrest, hv, hb⟩ := ih (x.land h)
    refine ⟨?_, fun k hk => ?_, fun k hk => ?_⟩
    · rw [List.foldl_cons, hrest, Cell.land_eq x h]
    · exact (hv k fun g hg => hk g (List.mem_cons_of_mem _ hg)).trans (x.land_getV (hk h List.mem_cons_self))
    · exact (hb k fun g hg => hk g (List.mem_cons_of_mem _ hg)).trans (x.land_getB (hk h List.mem_cons_self))

/-- The landings of cycle `l` have happened in a cell: its destinations alone are written, its entries free; where one entry was
all, its vector register holds the datum (R160, R161). -/
def Cell.Landed (l : Nat) (q q' : Cell) : Prop :=
  q' = { q with v := q'.v, b := q'.b, hawk := q.hawk.filter fun h => h.due != l } ∧
  (∀ k, (∀ h ∈ q.hawk, h.due = l → ∀ j, h.dest = .v j → BitVec.ofNat 5 j ≠ k) → q'.getV k = q.getV k) ∧
  (∀ k, (∀ h ∈ q.hawk, h.due = l → ∀ j, h.dest = .b j → BitVec.ofNat 4 j ≠ k) → q'.getB k = q.getB k) ∧
  (∀ (k : BitVec 5) h v, q.hawk = [h] → h.due = l → h.dest = .v k.toNat → h.data = some v → q'.getV k = v)

theorem Cell.landAt_landed (q : Cell) (l : Nat) : Cell.Landed l q (q.landAt l) := by
  obtain ⟨hrest, hv, hb⟩ := Cell.foldl_land (q.hawk.filter fun h => h.due == l) q
  have hdue : ∀ h, h ∈ q.hawk.filter (fun h => h.due == l) ↔ h ∈ q.hawk ∧ h.due = l := by simp
  refine ⟨?_, fun k hk => ?_, fun k hk => ?_, fun k h v hone hl hd hdata => ?_⟩
  · rw [Cell.landAt_eq, hrest]
  · exact hv k fun h hh => hk h ((hdue h).mp hh).1 ((hdue h).mp hh).2
  · exact hb k fun h hh => hk h ((hdue h).mp hh).1 ((hdue h).mp hh).2
  · have hland : (q.land h).getV k = v := by
      unfold Cell.land
      simp only [hdata, hd, BitVec.ofNat_toNat, BitVec.setWidth_eq, Cell.getV_setV_same]
    rw [Cell.landAt_eq, hone, List.filter_cons_of_pos (by simpa using hl)]
    exact hland

theorem Die.landed_iff (x : Die) (l : Nat) : x.landed l = true ↔ ∀ q ∈ x.cells, ∀ h ∈ q.hawk, h.due = l → h.data.isSome := by
  simp [Die.landed, or_iff_not_imp_left]

theorem Die.landAll_cells (x : Die) (l : Nat) : (x.landAll l).cells.length = x.cells.length ∧
    ∀ (k : Nat) q q', x.cells[k]? = some q → (x.landAll l).cells[k]? = some q' → q.Landed l q' := by
  refine ⟨List.length_map _, fun k q q' hq hq' => ?_⟩
  simp only [Die.landAll, List.getElem?_map, hq, Option.map_some, Option.some.injEq] at hq'
  exact hq' ▸ q.landAt_landed l

/-! ### The events of landings in ELASTIC mode (07 R134, R135) -/

theorem Ctx.evenCyc_elastic {y : Ctx} (h : y.fixed = false) : y.evenCyc = y := by
  simp only [Ctx.evenCyc, h, Bool.not_false, if_true]

theorem State.die_onDie (s : State) (c : BitVec 4) {d : Nat} {x : Die} (hx : (s.slot c).ctx.dies[d]? = some x) (f : Die → Die) :
    ((s.onCtx c fun y => y.onDie d f).slot c).ctx.dies[d]? = some (f x) := by
  rw [State.slot_onCtx_same]
  exact (List.getElem?_modify_eq ..).trans (by rw [hx]; rfl)

section
variable {s : State} {c : BitVec 4} {d : BitVec 6} {x : Die} {l : Nat}
variable (hfixed : (s.slot c).ctx.fixed = false) (hx : (s.slot c).ctx.dies[d.toNat]? = some x) (hl : x.leastDue = some l)
include hfixed hx hl

/-- A landing cycle comes: with its data there the landings happen, without it the die freezes. -/
theorem execLanding_elastic (hfrozen : x.frozen = false) (hclock : s.clocked c d.toNat = true) :
    exec (.landing c d) s = .next (s.onCtx c fun y => y.onDie d.toNat fun _ =>
      { (if x.landed l then x.landAll l else { x with frozen := true, ahead := none }) with
        cyc := BitVec.ofNat 64 (max x.cyc.toNat (l - 1)), used := max x.cyc.toNat (l - 1) }) := by
  simp only [exec_landing, execLanding, hx, hl, hfrozen, hclock, hfixed, Bool.not_true, Bool.or_self, Bool.false_and,
    Bool.false_eq_true, if_false]
  exact congrArg Host.Outcome.next (s.onCtx_congr c (Ctx.evenCyc_elastic hfixed))

/-- The data that was late has come: the landings happen, and the frozen cycles count. -/
theorem execLandingDataArrival_elastic (hfrozen : x.frozen = true) (hthere : x.landed l = true) (held : Xword) :
    exec (.landingDataArrival c d held) s = .next (s.onCtx c fun y => y.onDie d.toNat fun z =>
      { z.landAll l with late := z.late + BitVec.ofNat 64 (max 1 held.toNat) }) := by
  simp only [exec_landingDataArrival, execLandingDataArrival, hx, hl, guarded, hfrozen, hthere, Bool.and_self, if_true]
  refine congrArg Host.Outcome.next (s.onCtx_congr c ?_)
  simp only [hfixed, Bool.not_false, if_true, Ctx.onDie, List.modify_modify_eq]
  rfl
end

/-! ### Results of the reckoning tree (06 R111-R113) -/

/-- R113: the result that a g register awaits. -/
theorem Ctx.giveG_awaited {y : Ctx} {k : BitVec 3} {t : Nat} {v : Xword} (h : y.gPend.get k = some t) :
    y.giveG k t v = { y with g := y.g.put k v, gPend := y.gPend.put k none } := by
  simp only [Ctx.giveG, h, if_true]
/-- R112: a g register that awaits a later result goes on awaiting it. -/
theorem Ctx.giveG_overtaken {y : Ctx} {k : BitVec 3} {t : Nat} {v : Xword} (h : y.gPend.get k ≠ some t) :
    y.giveG k t v = { y with g := y.g.put k v } := by
  simp only [Ctx.giveG, h, if_false]

/-- A result that is there comes for its register. -/
def Ctx.giveResult (y : Ctx) (p : TreePend) : Ctx :=
  match p.dest with
  | .g k => y.giveG k p.tok (p.value.getD 0)
  | .x d => y.giveX d p.tok (p.value.getD 0)
theorem Ctx.giveResult_g (y : Ctx) {p : TreePend} {k : BitVec 3} {v : Xword} (hd : p.dest = .g k) (hv : p.value = some v) :
    y.giveResult p = y.giveG k p.tok v := by
  simp only [Ctx.giveResult, hd, hv, Option.getD_some]
theorem Ctx.giveResult_x (y : Ctx) {p : TreePend} {d : BitVec 5} {v : Xword} (hd : p.dest = .x d) (hv : p.value = some v) :
    y.giveResult p = y.giveX d p.tok v := by
  simp only [Ctx.giveResult, hd, hv, Option.getD_some]

/-- R113: the first result that is there is delivered to its register. -/
theorem execTreeResult_delivers {s : State} {c : BitVec 4} {p : TreePend} (hheld : s.held c = false)
    (hp : ((s.slot c).ctx.tree.find? fun p => p.value.isSome) = some p) : exec (.treeResult c) s =
    .next (s.onCtx c fun y => { y with tree := y.tree.filter fun r => r.tok != p.tok }.giveResult p) := by
  have hdeliver : (s.slot c).ctx.deliverTree =
      { (s.slot c).ctx with tree := (s.slot c).ctx.tree.filter fun r => r.tok != p.tok }.giveResult p := by
    unfold Ctx.deliverTree
    rw [hp]
    rfl
  simp only [exec_treeResult, execTreeResult, guarded, hheld, Bool.not_false, if_true]
  exact congrArg Host.Outcome.next (s.onCtx_congr c hdeliver)

/-- Settles O35: a landing by whether its data is there; a tree result by the register that it is for and what that awaits. -/
theorem landings : Obligations.Landings := by
  constructor
  · intro s c d x l y hfixed hx hl there lands
    refine ⟨fun hfrozen hclock => ?_, fun hfrozen hthere held => ?_⟩
    · refine ⟨_, _, execLanding_elastic hfixed hx hl hfrozen hclock, s.die_onDie c hx _, BitVec.toNat_ofNat _ _, ?_,
        fun hthere => ?_, fun hlate => ?_⟩
      · cases x.landed l <;> rfl
      · rw [if_pos ((x.landed_iff l).mpr hthere)]
        exact ⟨rfl, x.landAll_cells l⟩
      · rw [if_neg (mt (x.landed_iff l).mp hlate)]
        exact ⟨rfl, rfl⟩
    · exact ⟨_, _, execLandingDataArrival_elastic hfixed hx hl hfrozen ((x.landed_iff l).mpr hthere) held, s.die_onDie c hx _,
        rfl, rfl, rfl, (x.landAll_cells l).2⟩
  · intro s c p v y hheld hp hv
    refine ⟨fun k hd ha => ?_, fun k hd ha => ?_, fun r hd hr ha => ?_⟩
    all_goals
      rw [execTreeResult_delivers hheld hp]
      refine congrArg Host.Outcome.next (s.onCtx_congr c ?_)
    · exact (Ctx.giveResult_g _ hd hv).trans (Ctx.giveG_awaited ha)
    · exact (Ctx.giveResult_g _ hd hv).trans (Ctx.giveG_overtaken ha)
    · exact (Ctx.giveResult_x _ hd hv).trans (if_pos ⟨hr, ha⟩)
end Sys2Proof.Machine

namespace Sys2Proof.Machine
open Sys2Proof

/-! ### DSCATA's additions in their order (19 R381) -/

/-- R381: ascending order of (L, t), then of the command, is an order of all additions. -/
theorem HeldAdd.before_total (a b : HeldAdd) : a.before b = true ∨ b.before a = true := by
  simp only [HeldAdd.before, decide_eq_true_eq]
  omega
theorem HeldAdd.before_trans (a b c : HeldAdd) (hab : a.before b = true) (hbc : b.before c = true) : a.before c = true := by
  simp only [HeldAdd.before, decide_eq_true_eq] at *
  omega

theorem insertAdd_eq_orderedInsert (a : HeldAdd) (l : List HeldAdd) :
    insertAdd a l = l.orderedInsert (fun a b => a.before b = true) a := by
  induction l with
  | nil => rfl
  | cons b l ih => rw [insertAdd, List.orderedInsert_cons, ih]

/-- Additions put in their places one after another are sorted. -/
theorem foldl_insertAdd_eq_insertionSort (l : List HeldAdd) :
    l.foldl (fun l a => insertAdd a l) [] = l.reverse.insertionSort fun a b => a.before b = true := by
  rw [List.foldl_eq_foldr_reverse]
  simp only [insertAdd_eq_orderedInsert]
  rfl

theorem foldl_insertAdd_perm (l : List HeldAdd) : (l.foldl (fun l a => insertAdd a l) []).Perm l := by
  rw [foldl_insertAdd_eq_insertionSort]
  exact (List.perm_insertionSort _ _).trans l.reverse_perm

theorem foldl_insertAdd_pairwise (l : List HeldAdd) :
    (l.foldl (fun l a => insertAdd a l) []).Pairwise fun a b => a.cell < b.cell ∨ (a.cell = b.cell ∧ a.t ≤ b.t) := by
  have htotal : Std.Total fun a b : HeldAdd => a.before b = true := ⟨HeldAdd.before_total⟩
  have htrans : IsTrans HeldAdd fun a b => a.before b = true := ⟨HeldAdd.before_trans⟩
  rw [foldl_insertAdd_eq_insertionSort]
  refine (List.pairwise_insertionSort (fun a b : HeldAdd => a.before b = true) l.reverse).imp fun {a b} h => ?_
  simp only [HeldAdd.before, decide_eq_true_eq] at h
  omega

theorem HeldAdd.away_eq_false {a : HeldAdd} (h : ∀ g, a.home ≠ .far g) : a.away = false := by
  unfold HeldAdd.away
  split
  · exact absurd ‹_› (h _)
  · rfl

/-- R381: where no addition of a bundle is for another device, all are applied here, in their order. -/
theorem execDscataApply_near {s : State} {c : BitVec 4} {bsn : Xword}
    (hsome : ((s.slot c).ctx.adds.filter fun a => a.bsn.getD 0 == bsn.toNat) ≠ []) (hready : s.addsReady c bsn.toNat = true)
    (hnear : ∀ a ∈ (s.slot c).ctx.adds.filter (fun a => a.bsn.getD 0 == bsn.toNat), ∀ g, a.home ≠ .far g) :
    exec (.dscataApply c bsn) s = .next ((List.foldl (fun t a => t.applyAdd c a)
      (s.onCtx c fun y => { y with adds := y.adds.filter fun a => a.bsn.getD 0 != bsn.toNat })
      (((s.slot c).ctx.adds.filter fun a => a.bsn.getD 0 == bsn.toNat).foldl (fun l a => insertAdd a l) [])).endAdds c bsn.toNat) := by
  have hperm := foldl_insertAdd_perm ((s.slot c).ctx.adds.filter fun a => a.bsn.getD 0 == bsn.toNat)
  have hleft : ∀ a ∈ (s.slot c).ctx.adds,
      (a.bsn.getD 0 != bsn.toNat || a.away) = (a.bsn.getD 0 != bsn.toNat) := by
    intro a ha
    cases hb : a.bsn.getD 0 == bsn.toNat
    · simp [bne, hb]
    · simp [HeldAdd.away_eq_false (hnear a (List.mem_filter.mpr ⟨ha, hb⟩))]
  have hadds : s.onCtx c (fun y => { y with adds := y.adds.filter fun a => a.bsn.getD 0 != bsn.toNat || a.away }) =
      s.onCtx c fun y => { y with adds := y.adds.filter fun a => a.bsn.getD 0 != bsn.toNat } :=
    s.onCtx_congr c (congrArg (fun l => { (s.slot c).ctx with adds := l }) (List.filter_congr hleft))
  simp only [exec_dscataApply, execDscataApply, hadds]
  generalize ((s.slot c).ctx.adds.filter fun a => a.bsn.getD 0 == bsn.toNat).foldl (fun l a => insertAdd a l) [] = mine at hperm ⊢
  have hne : mine ≠ [] := fun h => hsome (List.perm_nil.mp (h ▸ hperm).symm)
  have hall : (mine.filter fun a => !a.away) = mine :=
    List.filter_eq_self.mpr fun a ha => by simp [HeldAdd.away_eq_false (hnear a (hperm.mem_iff.mp ha))]
  obtain ⟨a, l, rfl⟩ := List.exists_cons_of_ne_nil hne
  simp only [hall, hready, guarded, ne_eq, reduceCtorEq, not_false_eq_true, decide_true, Bool.and_self, if_true]

/-! ### Late permutations (19 R385) -/

/-- A command is a DPERM with writes left. -/
def Cmd.leftPerm (q : Cmd) : Bool := !q.st.isPerformed && match q.op with | .perm _ _ => true | _ => false

theorem Cmd.leftPerm_iff (q : Cmd) : q.leftPerm = true ↔ q.st.isPerformed = false ∧ ∃ a b, q.op = .perm a b := by
  unfold Cmd.leftPerm
  rw [Bool.and_eq_true, Bool.not_eq_true']
  refine and_congr_right fun _ => ?_
  cases q.op <;> simp

/-- A cell of a context has a DPERM with writes left. -/
def Ctx.LeftPerm (y : Ctx) (d i : Nat) (q : Cmd) : Prop := ∃ x, y.cell? d i = some x ∧ q ∈ x.cmds ∧ q.leftPerm = true

theorem Ctx.mem_cmdsWhere_leftPerm {y : Ctx} {d i : Nat} {q : Cmd} (h : y.LeftPerm d i q) : (d, i, q) ∈ y.cmdsWhere Cmd.leftPerm := by
  obtain ⟨x, hx, hq, hleft⟩ := h
  obtain ⟨z, hz, hcell⟩ := Option.bind_eq_some_iff.mp hx
  refine List.mem_flatMap.mpr ⟨d, List.mem_range.mpr (List.getElem?_eq_some_iff.mp hz).1, ?_⟩
  rw [hz]
  refine List.mem_flatMap.mpr ⟨i, List.mem_range.mpr (List.getElem?_eq_some_iff.mp hcell).1, ?_⟩
  rw [hcell]
  exact List.mem_map.mpr ⟨q, List.mem_filter.mpr ⟨hq, hleft⟩, rfl⟩

theorem Ctx.op_of_mem_cmdsWhere_leftPerm {y : Ctx} {p : Nat × Nat × Cmd} (h : p ∈ y.cmdsWhere Cmd.leftPerm) :
    ∃ a b, p.2.2.op = .perm a b := by
  obtain ⟨d, -, hd⟩ := List.mem_flatMap.mp h
  split at hd
  · exact absurd hd List.not_mem_nil
  · obtain ⟨i, -, hi⟩ := List.mem_flatMap.mp hd
    split at hi
    · exact absurd hi List.not_mem_nil
    · obtain ⟨q, hq, rfl⟩ := List.mem_map.mp hi
      exact (q.leftPerm_iff.mp (List.mem_filter.mp hq).2).2

/-- Between two states of a context no DPERM has come to have writes left, and no die has counted late cycles. -/
structure Ctx.PermsGoOn (y z : Ctx) : Prop where
  late : z.dies.map (·.late) = y.dies.map (·.late)
  left : ∀ d i q, z.LeftPerm d i q → y.LeftPerm d i q

theorem Ctx.PermsGoOn.trans {y z w : Ctx} (h : y.PermsGoOn z) (k : z.PermsGoOn w) : y.PermsGoOn w :=
  ⟨k.late.trans h.late, fun d i q hq => h.left d i q (k.left d i q hq)⟩
theorem Ctx.permsGoOn_of_dies {y z : Ctx} (h : z.dies = y.dies) : y.PermsGoOn z := by
  refine ⟨congrArg _ h, fun d i q hq => ?_⟩
  unfold Ctx.LeftPerm Ctx.cell? at *
  rwa [← h]

theorem Ctx.cell?_onCell (y : Ctx) (d i : Nat) (f : Cell → Cell) (e k : Nat) :
    (y.onCell d i f).cell? e k = if d = e ∧ i = k then (y.cell? e k).map f else y.cell? e k := by
  simp only [Ctx.cell?, Ctx.onCell, Ctx.onDie, Die.onCell, List.getElem?_modify]
  by_cases hd : d = e
  · cases y.dies[e]? <;> by_cases hi : i = k <;> simp [hd, hi]
  · simp [hd]

theorem Ctx.onCell_late (y : Ctx) (d i : Nat) (f : Cell → Cell) : (y.onCell d i f).dies.map (·.late) = y.dies.map (·.late) := by
  refine List.ext_getElem? fun k => ?_
  simp only [Ctx.onCell, Ctx.onDie, List.getElem?_map, List.getElem?_modify]
  cases y.dies[k]? <;> by_cases hd : d = k <;> simp [hd, Die.onCell]

/-- A cell changed so that it lists no new DPERM with writes left. -/
theorem Ctx.onCell_permsGoOn {y : Ctx} {d i : Nat} {f : Cell → Cell}
    (hf : ∀ x, y.cell? d i = some x → ∀ q ∈ (f x).cmds, q.leftPerm = true → q ∈ x.cmds) : y.PermsGoOn (y.onCell d i f) := by
  refine ⟨y.onCell_late d i f, ?_⟩
  rintro e k q ⟨x, hx, hq, hleft⟩
  rw [Ctx.cell?_onCell] at hx
  split at hx
  · obtain ⟨rfl, rfl⟩ := ‹d = e ∧ i = k›
    obtain ⟨z, hz, rfl⟩ := Option.map_eq_some_iff.mp hx
    exact ⟨z, hz, hf z hz q hq hleft, hleft⟩
  · exact ⟨x, hx, hq, hleft⟩

/-- R204: a timeline drops commands, and lists no new ones. -/
theorem retireTimeline_cmds (k : BitVec 2) (fuel : Nat) : ∀ c : Cell, ∀ q ∈ (retireTimeline k fuel c).cmds, q ∈ c.cmds := by
  induction fuel with
  | zero => exact fun _ _ hq => hq
  | succ fuel ih =>
    intro c q hq
    rw [retireTimeline] at hq
    split at hq
    · split at hq
      · exact (List.mem_filter.mp (ih _ q hq)).1
      · exact hq
    · exact hq
theorem Cell.advance_cmds (c : Cell) : ∀ q ∈ c.advance.cmds, q ∈ c.cmds :=
  List.foldlRecOn (motive := fun z : Cell => ∀ q ∈ z.cmds, q ∈ c.cmds) [0, 1, 2, 3] _ (fun _ hq => hq) fun z hz k _ q hq =>
    hz q (retireTimeline_cmds k _ z q hq)

/-- A command marked so that it is performed leaves fewer DPERMs with writes left. -/
theorem Cell.mem_onCmd_of_leftPerm {x : Cell} {tl : BitVec 2} {num : Nat} {st : CmdSt} (hst : st.isPerformed = true) {q : Cmd}
    (hq : q ∈ (x.onCmd tl num fun r => { r with st := st }).cmds) (hleft : q.leftPerm = true) :
    q ∈ x.cmds ∧ ¬(q.tl = tl ∧ q.num = num) := by
  obtain ⟨r, hr, rfl⟩ := List.mem_map.mp hq
  split at hleft
  · exact absurd (Cmd.leftPerm_iff _ |>.mp hleft).1 (by simp [hst])
  · rw [if_neg ‹_›]
    exact ⟨hr, ‹_›⟩

theorem Ctx.settleCell_permsGoOn (y : Ctx) (d i : Nat) : y.PermsGoOn (y.settleCell d i) := by
  unfold Ctx.settleCell
  cases hx : y.cell? d i with
  | none => exact permsGoOn_of_dies rfl
  | some x =>
    have hadvance : y.PermsGoOn (y.onCell d i fun _ => x.advance) := Ctx.onCell_permsGoOn fun z hz q hq _ => by
      obtain rfl := Option.some.inj (hx.symm.trans hz)
      exact x.advance_cmds q hq
    dsimp only
    obtain ⟨a, ha⟩ := Ctx.foldl_arrive (passedJoins x x.advance) (y.onCell d i fun _ => x.advance)
    rw [ha]
    exact hadvance.trans (permsGoOn_of_dies rfl)

theorem Ctx.completeCmd_permsGoOn (y : Ctx) (d i : Nat) (tl : BitVec 2) (num : Nat) : y.PermsGoOn (y.completeCmd d i tl num) := by
  unfold Ctx.completeCmd
  split
  · exact permsGoOn_of_dies rfl
  · have hmark : y.PermsGoOn (y.onCell d i fun x => x.onCmd tl num fun r => { r with st := .complete }) :=
      Ctx.onCell_permsGoOn fun x _ q hq hleft => (Cell.mem_onCmd_of_leftPerm rfl hq hleft).1
    dsimp only
    refine hmark.trans (Ctx.PermsGoOn.trans ?_ (Ctx.settleCell_permsGoOn _ d i))
    split <;> exact permsGoOn_of_dies rfl

/-- The machine but for the context of a slot is as it was, and in the context the DPERMs go on. -/
structure State.PermsGoOn (c : BitVec 4) (s t : State) : Prop where
  host : t.host = s.host
  hbm : t.hbm = s.hbm
  others : ∀ k, k ≠ c → t.slot k = s.slot k
  ctx : (s.slot c).ctx.PermsGoOn (t.slot c).ctx

section
variable {c : BitVec 4}

theorem State.PermsGoOn.refl (s : State) : s.PermsGoOn c s := ⟨rfl, rfl, fun _ _ => rfl, Ctx.permsGoOn_of_dies rfl⟩
theorem State.PermsGoOn.trans {s t u : State} (h : s.PermsGoOn c t) (k : t.PermsGoOn c u) : s.PermsGoOn c u :=
  ⟨k.host.trans h.host, k.hbm.trans h.hbm, fun i hi => (k.others i hi).trans (h.others i hi), h.ctx.trans k.ctx⟩
theorem State.onCtx_permsGoOn (s : State) {f : Ctx → Ctx} (h : (s.slot c).ctx.PermsGoOn (f (s.slot c).ctx)) :
    s.PermsGoOn c (s.onCtx c f) := by
  refine ⟨rfl, rfl, fun k hk => s.slot_onCtx_ne f hk, ?_⟩
  rw [State.slot_onCtx_same]
  exact h
theorem State.foldl_permsGoOn {α : Type} {f : State → α → State} (hf : ∀ (s : State) a, s.PermsGoOn c (f s a)) (l : List α) (s : State) :
    s.PermsGoOn c (l.foldl f s) :=
  List.foldlRecOn l f (.refl s) fun t ht a _ => ht.trans (hf t a)

theorem State.writePerm_permsGoOn (s : State) (a : Nat × Nat × Nat) (b : List Byte) : s.PermsGoOn c (s.writePerm c a b) :=
  s.onCtx_permsGoOn (Ctx.onCell_permsGoOn fun _ _ _ hq _ => hq)
theorem State.setPerformed_permsGoOn (s : State) (d i : Nat) (q : Cmd) : s.PermsGoOn c (s.setSt c d i q (.performed 0)) := by
  unfold State.setSt State.onCmd
  exact s.onCtx_permsGoOn (Ctx.onCell_permsGoOn fun _ _ _ hr hleft => (Cell.mem_onCmd_of_leftPerm rfl hr hleft).1)

/-- R385: the words of a DPERM are written one after another, but for those that a higher L has written. -/
theorem State.performPerm_eq (s : State) {d i : Nat} {q : Cmd} {a : Xword} {b : List Byte} (hop : q.op = .perm a b) :
    ∃ u, s.PermsGoOn c u ∧ s.performPerm c d i q = u.setSt c d i q (.performed 0) := by
  have hwrite : ∀ (t : State) (k : Nat), t.PermsGoOn c (if s.permBeaten c d i q (a.toNat + 4 * k) then t
      else t.writePerm c (sliceDie a, sliceCell a, sliceOff a + 4 * k) ((b.drop (4 * k)).take 4)) := by
    intro t k
    split
    · exact .refl t
    · exact t.writePerm_permsGoOn _ _
  refine ⟨_, State.foldl_permsGoOn hwrite (List.range 16) s, ?_⟩
  simp only [State.performPerm, hop]

theorem State.endPerm_permsGoOn (s : State) (bsn : Option Nat) : s.PermsGoOn c (s.endPerm c bsn) := by
  have hseen : ∀ y : Ctx, y.PermsGoOn y.permSeen := by
    intro y
    unfold Ctx.permSeen
    split
    · refine ⟨by simp, ?_⟩
      rintro d i q ⟨x, hx, hq, hleft⟩
      simp only [Ctx.cell?, List.getElem?_map, Option.bind_map, Function.comp_def] at hx
      obtain ⟨z, hz, hx⟩ := Option.bind_eq_some_iff.mp hx
      obtain ⟨w, hw, rfl⟩ := Option.map_eq_some_iff.mp hx
      exact ⟨w, by rw [Ctx.cell?, hz]; exact hw, hq, hleft⟩
    · exact Ctx.permsGoOn_of_dies rfl
  unfold State.endPerm
  dsimp only
  split_ifs
  · exact (State.foldl_permsGoOn (fun t p => t.onCtx_permsGoOn (Ctx.completeCmd_permsGoOn _ _ _ _ _)) _ s).trans
      (State.onCtx_permsGoOn _ (hseen _))
  · exact .refl s

/-- R385: a DPERM with writes left is performed, and ends where it is due: it has none left then. -/
theorem State.performEnd_spec (s : State) {d i : Nat} {q : Cmd} {a : Xword} {b : List Byte} (hop : q.op = .perm a b) :
    let t := (s.performPerm c d i q).endPerm c q.bsn
    s.PermsGoOn c t ∧ ¬(t.slot c).ctx.LeftPerm d i q := by
  obtain ⟨u, hu, hperform⟩ := s.performPerm_eq (c := c) (d := d) (i := i) hop
  have hend := (u.setSt c d i q (.performed 0)).endPerm_permsGoOn (c := c) q.bsn
  rw [hperform]
  refine ⟨(hu.trans (u.setPerformed_permsGoOn d i q)).trans hend, fun hleft => ?_⟩
  obtain ⟨x, hx, hq, hql⟩ := hend.ctx.left d i q hleft
  rw [State.setSt, State.onCmd, State.slot_onCtx_same, Ctx.cell?_onCell, if_pos ⟨rfl, rfl⟩] at hx
  obtain ⟨z, -, rfl⟩ := Option.map_eq_some_iff.mp hx
  exact (Cell.mem_onCmd_of_leftPerm rfl hq hql).2 ⟨rfl, rfl⟩

/-- R385: the DPERMs of a list are performed one after another: none of them has writes left at the end. -/
theorem State.foldl_performEnd_spec (l : List (Nat × Nat × Cmd)) : ∀ s : State, (∀ p ∈ l, ∃ a b, p.2.2.op = .perm a b) →
    let t := l.foldl (fun t p => (t.performPerm c p.1 p.2.1 p.2.2).endPerm c p.2.2.bsn) s
    s.PermsGoOn c t ∧ ∀ p ∈ l, ¬(t.slot c).ctx.LeftPerm p.1 p.2.1 p.2.2 := by
  induction l with
  | nil => exact fun s _ => ⟨.refl s, fun _ hp => absurd hp List.not_mem_nil⟩
  | cons p l ih =>
    intro s hl
    obtain ⟨a, b, hop⟩ := hl p List.mem_cons_self
    obtain ⟨hfirst, hnone⟩ := s.performEnd_spec (c := c) (d := p.1) (i := p.2.1) hop
    obtain ⟨hrest, hothers⟩ := ih ((s.performPerm c p.1 p.2.1 p.2.2).endPerm c p.2.2.bsn) fun r hr => hl r (List.mem_cons_of_mem _ hr)
    refine ⟨hfirst.trans hrest, fun r hr => ?_⟩
    rcases List.mem_cons.mp hr with rfl | hr
    · exact fun hleft => hnone (hrest.ctx.left _ _ _ hleft)
    · exact hothers r hr
end

/-- R385: what is late of a context's DPERMs, each with its cell. -/
def State.performLeft (s : State) (c : BitVec 4) : State :=
  ((s.slot c).ctx.cmdsWhere Cmd.leftPerm).foldl (fun t p => (t.performPerm c p.1 p.2.1 p.2.2).endPerm c p.2.2.bsn) s

/-- R135: every die counts late cycles. -/
def Ctx.countLate (y : Ctx) (k : Xword) : Ctx := { y with dies := y.dies.map fun d => { d with late := d.late + k } }
theorem Ctx.countLate_late (y : Ctx) (k : Xword) : (y.countLate k).dies.map (·.late) = (y.dies.map (·.late)).map (· + k) := by
  simp [Ctx.countLate]
theorem Ctx.countLate_cell? (y : Ctx) (k : Xword) (d i : Nat) : (y.countLate k).cell? d i = y.cell? d i := by
  simp only [Ctx.cell?, Ctx.countLate, List.getElem?_map]
  cases y.dies[d]? <;> rfl

theorem State.permRelease_eq (s : State) (c : BitVec 4) (held : Xword) : s.permRelease c held =
    (s.performLeft c).onCtx c fun y => y.countLate (BitVec.ofNat 64 (max 1 held.toNat)) := rfl

/-- R385: once what is late is performed, no DPERM has writes left. -/
theorem State.performLeft_spec (s : State) (c : BitVec 4) :
    s.PermsGoOn c (s.performLeft c) ∧ ∀ d i q, ¬((s.performLeft c).slot c).ctx.LeftPerm d i q := by
  obtain ⟨hgo, hnone⟩ := s.foldl_performEnd_spec (c := c) ((s.slot c).ctx.cmdsWhere Cmd.leftPerm)
    fun _ hp => Ctx.op_of_mem_cmdsWhere_leftPerm hp
  exact ⟨hgo, fun d i q hleft => hnone _ (Ctx.mem_cmdsWhere_leftPerm (hgo.ctx.left d i q hleft)) hleft⟩

/-- Settles O34: the additions by the order in which they are put, the late permutations by what each that is performed leaves of
the others. -/
theorem orderedAdditionsAndPermutations : Obligations.OrderedAdditionsAndPermutations := by
  refine ⟨fun s c bsn => ?_, fun s c held hlate => ?_⟩
  · intro y mine hsome hready hnear
    exact ⟨_, foldl_insertAdd_perm mine, foldl_insertAdd_pairwise mine, execDscataApply_near hsome hready hnear⟩
  · obtain ⟨hgo, hnone⟩ := s.performLeft_spec c
    refine ⟨s.permRelease c held, congrArg Host.Outcome.next (if_pos hlate), hgo.host, hgo.hbm, ?_, fun k hk => ?_, ?_⟩
    all_goals rw [State.permRelease_eq]
    · simp only [State.slot_onCtx_same, Ctx.countLate_late, hgo.ctx.late, List.map_map, Function.comp_def]
    · exact (State.slot_onCtx_ne _ _ hk).trans (hgo.others k hk)
    · simp only [State.slot_onCtx_same, Ctx.countLate_cell?]
      intro d i x q a b hx hq hop
      by_contra hleft
      exact hnone d i q ⟨x, hx, hq, q.leftPerm_iff.mpr ⟨Bool.not_eq_true _ ▸ hleft, a, b, hop⟩⟩
end Sys2Proof.Machine

namespace Sys2Proof.Machine
open Sys2Proof

/-! ### Tree results at a freeze (06 R119, R123, 15 R303) -/

/-- R119: the results that are there when a freeze has drained have come. -/
def Ctx.takeResults (y : Ctx) : Ctx := (y.tree.filter fun p => p.value.isSome).foldl Ctx.giveResult y
/-- R119, R123: the results still to come that are awaited, or were when an earlier freeze cancelled them; TLRD collects afresh. -/
def Ctx.cancelled (y : Ctx) : List TreePend :=
  (y.tree.filter fun p => p.value.isNone && (p.again || y.takeResults.awaits p)).map fun p =>
    { p with again := true, got := match p.dest with | .g _ => p.got | .x _ => [] }

theorem Ctx.giveResult_tree (y : Ctx) (p : TreePend) : (y.giveResult p).tree = y.tree := by
  unfold Ctx.giveResult
  split
  · rfl
  · exact Ctx.giveX_tree ..
theorem Ctx.takeResults_tree (y : Ctx) : y.takeResults.tree = y.tree :=
  List.foldlRecOn (motive := fun z : Ctx => z.tree = y.tree) _ _ rfl fun z hz p _ => (z.giveResult_tree p).trans hz

theorem Ctx.cancelTree_eq (y : Ctx) : y.cancelTree = { y.cancelled.foldl Ctx.unawait y.takeResults with tree := y.cancelled } := by
  unfold Ctx.cancelled
  rw [← y.takeResults_tree]
  rfl

/-- Of a context only x and g registers and what they await have changed. -/
def Ctx.RegsChange (y z : Ctx) : Prop := ∃ x g xPend gPend, z = { y with x := x, g := g, xPend := xPend, gPend := gPend }

theorem Ctx.RegsChange.refl (y : Ctx) : y.RegsChange y := ⟨y.x, y.g, y.xPend, y.gPend, rfl⟩
theorem Ctx.RegsChange.trans {y z w : Ctx} (h : y.RegsChange z) (k : z.RegsChange w) : y.RegsChange w := by
  obtain ⟨_, _, _, _, rfl⟩ := h
  obtain ⟨x, g, xPend, gPend, rfl⟩ := k
  exact ⟨x, g, xPend, gPend, rfl⟩

theorem Ctx.giveResult_regsChange (y : Ctx) (p : TreePend) : y.RegsChange (y.giveResult p) := by
  unfold Ctx.giveResult
  split
  · exact ⟨y.x, _, y.xPend, _, rfl⟩
  · unfold Ctx.giveX
    split
    · exact ⟨_, y.g, _, y.gPend, rfl⟩
    · exact .refl y

/-- A register that awaits no more is one that has a g register's result cancelled (R119). -/
theorem Ctx.unawait_eq (y : Ctx) (p : TreePend) : ∃ gPend, y.unawait p = { y with gPend := gPend } := by
  unfold Ctx.unawait
  split
  · exact ⟨y.gPend, rfl⟩
  · split
    · exact ⟨_, rfl⟩
    · exact ⟨y.gPend, rfl⟩
theorem Ctx.foldl_unawait_eq (l : List TreePend) (y : Ctx) : ∃ gPend, l.foldl Ctx.unawait y = { y with gPend := gPend } :=
  List.foldlRecOn (motive := fun z : Ctx => ∃ gPend, z = { y with gPend := gPend }) l _ ⟨y.gPend, rfl⟩ fun z hz p _ => by
    obtain ⟨_, rfl⟩ := hz
    exact Ctx.unawait_eq _ p

/-- R119: a freeze that has drained changes x and g registers, what they await, and the tree's list. -/
theorem Ctx.cancelTree_keeps (y : Ctx) : ∃ x g xPend gPend tree,
    y.cancelTree = { y with x := x, g := g, xPend := xPend, gPend := gPend, tree := tree } := by
  have htake : y.RegsChange y.takeResults :=
    List.foldlRecOn _ _ (.refl y) fun z hz p _ => hz.trans (z.giveResult_regsChange p)
  obtain ⟨gPend, hcancel⟩ := Ctx.foldl_unawait_eq y.cancelled y.takeResults
  obtain ⟨x, g, xPend, _, htake⟩ := htake
  refine ⟨x, g, xPend, gPend, y.cancelled, ?_⟩
  rw [Ctx.cancelTree_eq, hcancel, htake]

/-- R119: without a result there, x and g stay. -/
theorem Ctx.cancelTree_of_no_result {y : Ctx} (h : ∀ p ∈ y.tree, p.value = none) :
    y.cancelTree.x = y.x ∧ y.cancelTree.g = y.g ∧ y.cancelTree.xPend = y.xPend := by
  have hnone : (y.tree.filter fun p => p.value.isSome) = [] := List.filter_eq_nil_iff.mpr fun p hp => by simp [h p hp]
  have htake : y.takeResults = y := by rw [Ctx.takeResults, hnone]; rfl
  obtain ⟨gPend, hcancel⟩ := Ctx.foldl_unawait_eq y.cancelled y.takeResults
  rw [Ctx.cancelTree_eq, hcancel, htake]
  exact ⟨rfl, rfl, rfl⟩

/-- R119: a result that is there is written first. -/
theorem Ctx.cancelTree_of_result {y : Ctx} {p : TreePend} {k : BitVec 3} {u : Xword} (ht : y.tree = [p]) (hd : p.dest = .g k)
    (hv : p.value = some u) : y.cancelTree.g = y.g.put k u := by
  have htake : y.takeResults = y.giveG k p.tok u := by
    simp only [Ctx.takeResults, ht, hv, y.giveResult_g hd hv, List.filter_cons, Option.isSome_some, if_true, List.filter_nil,
      List.foldl_cons, List.foldl_nil]
  obtain ⟨gPend, hcancel⟩ := Ctx.foldl_unawait_eq y.cancelled y.takeResults
  rw [Ctx.cancelTree_eq, hcancel, htake]
  rfl

/-- Of what g registers awaited, some is awaited no more. -/
def Ctx.AwaitsLess (y z : Ctx) : Prop := ∀ k, z.gPend.get k = none ∨ z.gPend.get k = y.gPend.get k

theorem Ctx.AwaitsLess.refl (y : Ctx) : y.AwaitsLess y := fun _ => .inr rfl
theorem Ctx.AwaitsLess.trans {y z w : Ctx} (h : y.AwaitsLess z) (k : z.AwaitsLess w) : y.AwaitsLess w := fun i =>
  (k i).elim .inl fun e => (h i).imp e.trans e.trans
theorem Ctx.awaitsLess_put {y z : Ctx} {k : BitVec 3} (h : z.gPend = y.gPend.put k none) : y.AwaitsLess z := by
  intro i
  rw [h]
  by_cases hi : i = k
  · exact .inl (hi ▸ RegFile.get_put_same _ _ _)
  · exact .inr (RegFile.get_put_ne _ _ hi)

theorem Ctx.giveResult_awaitsLess (y : Ctx) (p : TreePend) : y.AwaitsLess (y.giveResult p) := by
  unfold Ctx.giveResult
  split
  · unfold Ctx.giveG
    by_cases h : y.gPend.get ‹_› = some p.tok
    · exact Ctx.awaitsLess_put (if_pos h)
    · exact fun i => .inr (congrArg (RegFile.get · i) (if_neg h))
  · exact fun i => .inr (congrArg (RegFile.get · i) (Ctx.giveX_gPend ..))
theorem Ctx.unawait_awaitsLess (y : Ctx) (p : TreePend) : y.AwaitsLess (y.unawait p) := by
  unfold Ctx.unawait
  split
  · exact .refl y
  · split
    · exact Ctx.awaitsLess_put rfl
    · exact .refl y
theorem Ctx.foldl_unawait_awaitsLess (l : List TreePend) (y : Ctx) : y.AwaitsLess (l.foldl Ctx.unawait y) :=
  List.foldlRecOn l _ (.refl y) fun z hz p _ => hz.trans (z.unawait_awaitsLess p)

/-- R119: a g register whose result is among the cancelled awaits nothing. -/
theorem Ctx.foldl_unawait_none {p : TreePend} {k : BitVec 3} (hd : p.dest = .g k) (l : List TreePend) : ∀ y : Ctx, p ∈ l →
    (y.gPend.get k = none ∨ y.gPend.get k = some p.tok) → (l.foldl Ctx.unawait y).gPend.get k = none := by
  induction l with
  | nil => exact fun _ hp => absurd hp List.not_mem_nil
  | cons q l ih =>
    intro y hp hpend
    have hstep := y.unawait_awaitsLess q k
    rcases List.mem_cons.mp hp with rfl | hp
    · have hnone : (y.unawait p).gPend.get k = none := by
        rcases hpend with h | h
        · exact hstep.elim id fun e => e.trans h
        · simp only [Ctx.unawait, Ctx.awaits, hd, h, beq_self_eq_true, Bool.not_true, Bool.false_eq_true, if_false,
            RegFile.get_put_same]
      exact (Ctx.foldl_unawait_awaitsLess l _ k).elim id fun e => e.trans hnone
    · exact ih _ hp (hstep.elim .inl fun e => hpend.imp e.trans e.trans)

/-- R119, R123: a g register awaits a result still to come no more. -/
theorem Ctx.cancelTree_gPend {y : Ctx} {p : TreePend} {k : BitVec 3} (hp : p ∈ y.tree) (hv : p.value = none) (hd : p.dest = .g k)
    (ha : y.gPend.get k = some p.tok) : y.cancelTree.gPend.get k = none := by
  have htake : y.AwaitsLess y.takeResults :=
    List.foldlRecOn _ _ (.refl y) fun z hz p _ => hz.trans (z.giveResult_awaitsLess p)
  rw [Ctx.cancelTree_eq]
  rcases htake k with h | h
  · exact (Ctx.foldl_unawait_awaitsLess y.cancelled y.takeResults k).elim id fun e => e.trans h
  · have hawaits : y.takeResults.awaits p = true := by simp [Ctx.awaits, hd, h, ha]
    refine Ctx.foldl_unawait_none (p := { p with again := true, got := match p.dest with | .g _ => p.got | .x _ => [] }) hd _ _
      (List.mem_map.mpr ⟨p, List.mem_filter.mpr ⟨hp, ?_⟩, rfl⟩) (.inr (h.trans ha))
    simp [hv, hawaits]

/-! ### The entry into the handler (06 R120, R121, 13 R257, R258, 20 R409) -/

/-- The trap state and the dies once a freeze has drained: the record, the table and the stop address are placed (R121). -/
def Ctx.trapped (y : Ctx) (z : Freeze) (record : BitVec 512) : Ctx :=
  { y.cancelTree with
    trec := record
    dtab := (List.range y.dies.length).foldl (fun t d => t.put (BitVec.ofNat 6 d)
      (BitVec.ofNat 64 (((y.dies[d]?).map (·.done)).getD 0))) (RegFile.fill 6 0)
    tsEarly := z.stop
    trbNext := BitVec.ofNat 64 (match y.dies with | [] => y.bsn | d :: r => r.foldl (fun a x => min a x.done) d.done + 1)
    trbHigh := BitVec.ofNat 64 (if y.resending then y.resendHigh else z.ff)
    freeze := none
    resume := none
    ybar := none
    lines := []
    dies := y.dies.map fun d => { d.rewind with fault := none, flag := false, deq := d.done } }
/-- The handler is entered at TVEC, the pod round in hand put aside (R257, R409; log 67). -/
def Ctx.enterHandler (y : Ctx) : Ctx :=
  { y with inHandler := true, entryMask := y.dieMask, pc := y.tvec, podWait := none, podOuter := y.podWait }

/-- The machine with the trap state placed and the snapshot trigger fired (R121, R264). -/
def State.trapPlaced (s : State) (c : BitVec 4) (z : Freeze) : State :=
  (s.onCtx c fun y => y.trapped z (s.freezeRec c z z.stop)).trigger 2 c z.cause.code

theorem State.trigger_keeps (s : State) (src : Nat) (k : BitVec 4) (cause : Nat) : let t := s.trigger src k cause
    (∀ c, t.slot c = s.slot c) ∧ t.time = s.time ∧ t.hbm = s.hbm ∧ t.host = s.host := by
  obtain ⟨snap, pend, sent, h⟩ := s.trigger_eq src k cause
  rw [h]
  exact ⟨fun _ => rfl, rfl, rfl, rfl⟩

section
variable {s : State} {c : BitVec 4} {z : Freeze} (hh : (s.slot c).ctx.inHandler = false)
include hh

/-- R258: outside a handler with TVEC set, the handler is entered. -/
theorem State.trapEntry_enters (hv : (s.slot c).ctx.tvec ≠ 0) : s.trapEntry c z =
    (s.trapPlaced c z).onSlot c fun x =>
      { x with
        progress := if x.ctx.podWait.any fun w => w.result.isNone then (s.trapPlaced c z).time else x.progress
        ctx := x.ctx.enterHandler } := by
  unfold State.trapEntry
  simp only [hh, hv, Bool.false_eq_true, if_false]
  rfl
/-- R258: without a handler the context is dead. -/
theorem State.trapEntry_dies (hv : (s.slot c).ctx.tvec = 0) :
    s.trapEntry c z = (s.trapPlaced c z).kill c ((s.trapPlaced c z).deathOf c z .noHandler 0) := by
  unfold State.trapEntry
  simp only [hh, hv, Bool.false_eq_true, if_false, if_true]
  rfl
end

theorem State.trapPlaced_slot (s : State) (c : BitVec 4) (z : Freeze) :
    (s.trapPlaced c z).slot c = { s.slot c with ctx := (s.slot c).ctx.trapped z (s.freezeRec c z z.stop) } :=
  ((State.trigger_keeps _ 2 c z.cause.code).1 c).trans (s.slot_onCtx_same c _)

/-- R120, R121: the drained freeze of a set that is not held is served. -/
theorem execFreezeDrainDone_drained {s : State} {c : BitVec 4} {z : Freeze} (hz : (s.slot c).ctx.freeze = some z)
    (hstop : ∀ w ∈ (s.slot c).ctx.dies, (s.slot c).ctx.stopOf z w ≤ w.done) (hforced : z.forced = false) (hheld : s.held c = false) :
    exec (.freezeDrainDone c) s = .next (s.trapEntry c z) := by
  have hdrained : (s.slot c).ctx.drained = true := by simpa [Ctx.drained, hz] using hstop
  simp only [exec_freezeDrainDone, execFreezeDrainDone, hdrained, hheld, hz, hforced, Bool.not_true, Bool.or_self,
    Bool.false_eq_true, if_false]

/-- R258, R409: entering the handler: what the slot holds then, and what stays as it was. -/
theorem State.trapEntry_slot {s : State} {c : BitVec 4} {z : Freeze} (hh : (s.slot c).ctx.inHandler = false)
    (hv : (s.slot c).ctx.tvec ≠ 0) : let t := s.trapEntry c z
    (t.slot c).ctx = ((s.slot c).ctx.trapped z (s.freezeRec c z z.stop)).enterHandler ∧
    ((∃ w, (s.slot c).ctx.podWait = some w ∧ w.result = none) → (t.slot c).progress = s.time) ∧
    (∀ k, k ≠ c → t.slot k = s.slot k) ∧ t.hbm = s.hbm ∧ t.host = s.host := by
  obtain ⟨hslots, htime, hhbm, hhost⟩ :=
    State.trigger_keeps (s.onCtx c fun y => y.trapped z (s.freezeRec c z z.stop)) 2 c z.cause.code
  obtain ⟨_, _, _, _, _, hcancel⟩ := (s.slot c).ctx.cancelTree_keeps
  intro t
  have ht : t = _ := State.trapEntry_enters hh hv
  rw [ht]
  refine ⟨?_, ?_, fun k hk => ?_, hhbm, hhost⟩
  · rw [State.slot_onSlot_same, State.trapPlaced_slot]
  · rintro ⟨w, hw, hr⟩
    rw [State.slot_onSlot_same, State.trapPlaced_slot]
    simp only [Ctx.trapped, hcancel, hw, hr, Option.any_some, Option.isNone_none, if_true]
    exact htime
  · exact (State.slot_onSlot_ne _ _ hk).trans ((hslots k).trans (State.slot_onCtx_ne _ _ hk))

/-- The least of the bundles that dies have retired. -/
theorem foldl_min_done (r : List Die) (d : Die) :
    ∃ w ∈ d :: r, (∀ u ∈ d :: r, w.done ≤ u.done) ∧ r.foldl (fun a x => min a x.done) d.done = w.done := by
  induction r generalizing d with
  | nil => exact ⟨d, List.mem_cons_self, by simp, rfl⟩
  | cons e r ih =>
    rcases Nat.le_total d.done e.done with h | h
    · obtain ⟨w, hw, hleast, hfold⟩ := ih d
      refine ⟨w, ?_, ?_, ?_⟩
      · rcases List.mem_cons.mp hw with rfl | hw <;> simp_all
      · have := hleast d List.mem_cons_self
        simp only [List.mem_cons, forall_eq_or_imp] at hleast ⊢
        exact ⟨hleast.1, by omega, hleast.2⟩
      · rw [List.foldl_cons, Nat.min_eq_left h, hfold]
    · obtain ⟨w, hw, hleast, hfold⟩ := ih e
      refine ⟨w, List.mem_cons_of_mem _ hw, ?_, ?_⟩
      · have := hleast e List.mem_cons_self
        simp only [List.mem_cons, forall_eq_or_imp] at hleast ⊢
        exact ⟨by omega, hleast⟩
      · rw [List.foldl_cons, Nat.min_eq_right h, hfold]

section
variable (y : Ctx) (z : Freeze) (record : BitVec 512)

/-- R121: the rebroadcast will begin above the least that a die has retired. -/
theorem Ctx.trapped_trbNext (h : y.dies ≠ []) :
    ∃ w ∈ y.dies, (∀ u ∈ y.dies, w.done ≤ u.done) ∧ (y.trapped z record).trbNext = BitVec.ofNat 64 (w.done + 1) := by
  obtain ⟨d, r, hdies⟩ := List.exists_cons_of_ne_nil h
  obtain ⟨w, hw, hleast, hfold⟩ := foldl_min_done r d
  refine ⟨w, hdies ▸ hw, hdies ▸ hleast, ?_⟩
  simp only [Ctx.trapped, hdies, hfold]

/-- R121: the table holds what each die has retired. -/
theorem Ctx.trapped_dtab (hlen : y.dies.length ≤ 64) {k : Nat} {w : Die} (hw : y.dies[k]? = some w) :
    (y.trapped z record).dtab.get (BitVec.ofNat 6 k) = BitVec.ofNat 64 w.done := by
  obtain ⟨hk, -⟩ := List.getElem?_eq_some_iff.mp hw
  have hto : (BitVec.ofNat 6 k).toNat = k := by
    rw [BitVec.toNat_ofNat, Nat.mod_eq_of_lt (by omega)]
  have hget := RegFile.get_foldl_put (fun d => BitVec.ofNat 64 (((y.dies[d]?).map (·.done)).getD 0)) (RegFile.fill 6 0)
    (BitVec.ofNat 6 k) y.dies.length hlen
  rw [hto, if_pos hk] at hget
  simp only [hw, Option.map_some, Option.getD_some] at hget
  exact hget
end

/-! ### Faults, freezes, barriers and ERET (06 R114, R118, R119, 13 R258, 15 R312, 20 R411) -/

/-- R118: the fault flag of a die whose tree contributions move. -/
theorem execCellFault_flag {s : State} {c : BitVec 4} {d : BitVec 6} (hheld : s.held c = false)
    (htrip : (s.pdies.get ((s.slot c).phys d.toNat)).tripped = false) : exec (.cellFault c d) s =
    .next (s.onCtx c fun y => { y with dies := y.dies.modify d.toNat fun z => { z with flag := z.fault.isSome } }) := by
  have hruns : s.treeRuns c d.toNat = true := by rw [State.treeRuns, hheld, htrip]; rfl
  rw [exec_cellFault, execCellFault, hruns]
  rfl

/-- R114, R115: a die is at a YBAR when it has retired all below it, or, masked for it, may have taken it from its queue. -/
theorem Ctx.atBarrier_of {y : Ctx} {b d : Nat} (h : ∀ z, y.dies[d]? = some z → b ≤ z.done + 1 ∨
    (b ≤ z.deq ∧ ∃ e, (y.hist.find? fun e => e.bsn == b) = some e ∧ e.carried.dieMask.getLsbD d = false)) :
    y.atBarrier b d = true := by
  unfold Ctx.atBarrier
  cases hd : y.dies[d]? with
  | none => rfl
  | some z =>
    rcases h z hd with hdone | ⟨hdeq, e, he, hmask⟩
    · simp [hdone]
    · simp [hdeq, he, bit, hmask]

theorem execBarrierRelease_released {s : State} {c : BitVec 4} {b : Nat} (hb : (s.slot c).ctx.ybar = some b)
    (hheld : s.held c = false) (hat : ∀ d, (s.slot c).ctx.atBarrier b d = true) :
    exec (.barrierRelease c) s = .next (s.onCtx c fun y => { y with ybar := none, counted := [] }) := by
  have hbarred : (s.slot c).ctx.barred = true := by simp [Ctx.barred, hb, hat]
  rw [exec_barrierRelease, execBarrierRelease, hbarred, hheld]
  rfl

/-- R118: a freeze of a running context gives up a yield not yet drained (log 22) and what units have taken ahead. -/
theorem State.startFreeze_running {s : State} {c : BitVec 4} (h : (s.slot c).state = .running) (z : Freeze) : s.startFreeze c z =
    s.onSlot c fun x => { x with
      save := none, ctx := { x.ctx with freeze := some z, dies := x.ctx.dies.map fun w => { w with ahead := none } } } :=
  s.onSlot_congr c (by simp only [h])

/-- R119: the flag of a die starts a freeze that names the first fault. -/
theorem execFreeze_starts {s : State} {c : BitVec 4} {k : Nat} {q : DieFault} (hrun : (s.slot c).state = .running)
    (hz : (s.slot c).ctx.freeze = none) (hh : (s.slot c).ctx.inHandler = false) (hflag : ∃ z ∈ (s.slot c).ctx.dies, z.flag = true)
    (hheld : s.held c = false) (hfirst : (s.slot c).ctx.firstFault = some (k, q)) :
    exec (.freeze c) s = .next (s.startFreeze c ⟨false, some q.bsn, (s.slot c).ctx.sent, (s.slot c).ctx.pc, q.fault.cause,
      q.slot.code, some k, some q.cell, q.fault.lane, q.fault.detail⟩) := by
  have hdue : s.freezeDue c = true := by
    have hany : (s.slot c).ctx.dies.any (·.flag) = true := List.any_eq_true.mpr hflag
    simp only [State.freezeDue, hrun, hz, hh, hheld, hany]
    rfl
  simp only [exec_freeze, execFreeze, hdue, hfirst, Bool.not_true, Bool.false_eq_true, if_false]

theorem State.seqFault_starts {s : State} {c : BitVec 4} (hh : (s.slot c).ctx.inHandler = false) (k : Cause) (n m : Nat)
    (stop : Xword) : s.seqFault c k n m stop = s.startFreeze c ⟨false, none, (s.slot c).ctx.sent, stop, k, n, none, none, 0xFF, m⟩ := by
  simp only [State.seqFault, hh, Bool.false_eq_true, if_false]
theorem State.seqFault_doubleFault {s : State} {c : BitVec 4} (hh : (s.slot c).ctx.inHandler = true) {k : Cause}
    (hk : k ≠ .softwareTrap) (n m : Nat) (stop : Xword) : s.seqFault c k n m stop =
    s.kill c (s.deathOf c ⟨false, none, (s.slot c).ctx.sent, stop, k, n, none, none, 0xFF, m⟩ .doubleFault 0) := by
  simp only [State.seqFault, hh, hk, if_true, if_false]

theorem SlotState.mayDie_running : SlotState.mayDie .running := by
  unfold SlotState.mayDie
  decide

/-- R312: outside a handler ERET has no effect. -/
theorem Ctx.eret_outside {y : Ctx} (h : y.inHandler = false) : y.eret = y := by
  simp only [Ctx.eret, h, Bool.not_false, if_true]
/-- R411: within one it leaves the handler. -/
theorem Ctx.eret_inside {y : Ctx} (h : y.inHandler = true) : y.eret = { y with
    inHandler := false, dieMask := y.entryMask, rebroadcast := true, trbNext := BitVec.ofNat 64 (y.dtabMin + 1)
    podWait := y.podOuter, podOuter := none, lines := [], pc := y.tsEarly } := by
  simp only [Ctx.eret, h, Bool.not_true, Bool.false_eq_true, if_false]
theorem State.afterwards_eret {s : State} {f : Focus} (h : f.after = .eret) : s.afterwards f = s.onCtx f.slot Ctx.eret := by
  rw [State.afterwards, h]

/-- Settles O31: each effect has its lemma; the handler's context is read off `Ctx.trapped` and what `Ctx.cancelTree` keeps. -/
theorem trapsAndHandlers : Obligations.TrapsAndHandlers := by
  unfold Obligations.TrapsAndHandlers
  constructor
  · intro s c d x y
    refine ⟨execCellFault_flag, fun b hb hheld hat => execBarrierRelease_released hb hheld fun k => Ctx.atBarrier_of (hat k),
      fun k q hrun hz hh hflag hheld hfirst => ?_, fun z hz hstop hforced hheld => ⟨fun hh hv => ?_, fun hh hv hrun => ?_⟩,
      fun k n m stop hrun hh => ?_, fun k n m stop hrun hh hk => ?_⟩
    · rw [execFreeze_starts hrun hz hh hflag hheld hfirst, State.startFreeze_running hrun]
    · refine ⟨_, execFreezeDrainDone_drained hz hstop hforced hheld, ?_⟩
      obtain ⟨hctx, hprogress, hkept⟩ := State.trapEntry_slot (z := z) hh hv
      obtain ⟨_, _, _, _, _, hcancel⟩ := y.cancelTree_keeps
      intro v
      have hentered : v = (y.trapped z (s.freezeRec c z z.stop)).enterHandler := hctx
      rw [hentered]
      refine ⟨rfl, ?_, ?_, rfl, rfl, rfl, rfl, rfl, rfl, rfl, ?_, fun hlen k w hw => y.trapped_dtab z (s.freezeRec c z z.stop) hlen hw,
        Ctx.cancelTree_of_no_result, fun p k u => Ctx.cancelTree_of_result, fun p hp k => Ctx.cancelTree_gPend hp,
        ?_, ?_, ?_, ?_, rfl, y.trapped_trbNext z (s.freezeRec c z z.stop), hprogress, hkept⟩
      all_goals simp only [Ctx.enterHandler, Ctx.trapped, hcancel]
    · refine ⟨_, execFreezeDrainDone_drained hz hstop hforced hheld, ?_⟩
      have hmay : ((s.trapPlaced c z).slot c).state.mayDie := by
        rw [State.trapPlaced_slot]
        exact hrun ▸ SlotState.mayDie_running
      obtain ⟨hstate, hdead, -⟩ := State.kill_spec _ c ((s.trapPlaced c z).deathOf c z .noHandler 0) hmay
      rw [State.trapEntry_dies hh hv]
      exact ⟨hstate, congrArg (Option.map (·.cause)) hdead⟩
    · rw [State.seqFault_starts hh, State.startFreeze_running hrun]
    · obtain ⟨-, hdead, -⟩ := State.kill_spec s c
        (s.deathOf c ⟨false, none, (s.slot c).ctx.sent, stop, k, n, none, none, 0xFF, m⟩ .doubleFault 0)
        (hrun ▸ SlotState.mayDie_running)
      rw [State.seqFault_doubleFault hh hk]
      exact congrArg (Option.map (·.cause)) hdead
  · intro s f hafter y
    rw [State.afterwards_eret hafter]
    exact ⟨fun hh => s.onSlot_id f.slot (congrArg (fun y => ({ s.slot f.slot with ctx := y } : Slot)) (Ctx.eret_outside hh)),
      fun hh => s.onCtx_congr f.slot (Ctx.eret_inside hh)⟩
end Sys2Proof.Machine

namespace Sys2Proof.Machine
open Sys2Proof

/-! ### The close of a sequencer bundle and CYC at its end (06 R106, R128) -/

/-- R106, R128: a bundle for the sequencer alone that is done moves the pc on, and the control core's CYC counts it. -/
theorem State.closeBundle_sequencer {s : State} {f : Focus} (hf : s.focus = some f) (hahead : f.ahead = false)
    (hres : f.sres = .done) (hissuing : f.issuing = true) (hafter : f.after = .none)
    (hvault : (f.bundle.ops.any fun o => isVault o.2) = false) (hdown : f.carriedDown = false) (hbsn : f.bsn = none) :
    let y := (s.slot f.slot).ctx
    let n := nextCyc y.fixed y.used y.cyc
    (s.closeBundle.slot f.slot).ctx = { y with pc := f.nextAddr, cyc := BitVec.ofNat 64 n, used := n }.evenCyc := by
  intro y n
  have hfree : ∀ t : State, t.afterwards f = t := fun t => by rw [State.afterwards, hafter]
  simp only [State.closeBundle, hf, hahead, hres, hissuing, hvault, hdown, hbsn, hfree, Bool.false_eq_true, Bool.true_and,
    Bool.false_and, if_false, if_true, ite_self, State.slot_onSlot_same]
  split
  all_goals
    rw [State.slot_onCtx_same, State.slot_onSlot_same]
    rfl

/-- R128: in FIXED mode CYC is evened to the greatest of the set. -/
theorem Ctx.evenCyc_fixed {y : Ctx} (h : y.fixed = true) :
    y.evenCyc.cyc = BitVec.ofNat 64 (maxOf (y.cyc.toNat :: y.dies.map fun d => d.cyc.toNat)) := by
  simp only [Ctx.evenCyc, h, Bool.not_true, Bool.false_eq_true, if_false]

/-- A FIXED set whose control core has counted 2^64 - 1 cycles, its die none, with a sequencer bundle in hand. -/
def atLastCycle : State :=
  { Tests.running Cell.entry (fun y => { y with fixed := true, cyc := BitVec.allOnes 64, used := 2 ^ 64 - 1 }) with
    focus := some { Tests.focusOn Cell.entry with
      bsn := none, carriedDown := false, windows := [], bundle := ⟨false, [(.s, .add 1 2 3)], none, 2⟩ } }

/-- Refutes O30: its clause on a bundle for the sequencer alone in FIXED mode has CYC never below what it was, without the
hypothesis of the clause before it that CYC has room for one more cycle. A core that has counted 2^64 - 1 cycles wraps to zero, and
where its die has counted less (a state the statement does not exclude, though R128 evens the two) the set's CYC falls. -/
theorem not_bundlesRetire : ¬Obligations.BundlesRetire := by
  intro h
  obtain ⟨hclose, -⟩ := h
  obtain ⟨-, -, hdone⟩ := hclose atLastCycle _ rfl
  obtain ⟨hsequencer, -⟩ := hdone rfl rfl rfl rfl (by decide)
  obtain ⟨-, hfixed⟩ := hsequencer rfl rfl
  obtain ⟨-, -, hrises, -⟩ := hfixed rfl
  have hctx := State.closeBundle_sequencer (s := atLastCycle) rfl rfl rfl rfl rfl (by decide) rfl rfl
  rw [hctx, Ctx.evenCyc_fixed rfl] at hrises
  exact absurd hrises (by decide)
end Sys2Proof.Machine

namespace Sys2Proof.Machine
open Sys2Proof

/-! ### Commands of a cell, and where their accesses lead (09 R179, 10 R191) -/

theorem Cell.cmd?_spec {x : Cell} {tl : BitVec 2} {num : Nat} {q : Cmd} (h : x.cmd? tl num = some q) :
    q ∈ x.cmds ∧ q.tl = tl ∧ q.num = num :=
  ⟨List.mem_of_find?_eq_some h, by simpa using List.find?_some h⟩

theorem State.cmd?_of_cell {s : State} {c : BitVec 4} {d i : Nat} {x : Cell} (hx : (s.slot c).ctx.cell? d i = some x)
    (tl : BitVec 2) (num : Nat) : s.cmd? c d i tl num = x.cmd? tl num := by
  rw [State.cmd?, hx, Option.bind_some]

/-- R179: while no part of a command walks or is parked, its access leads where the address does. -/
theorem State.reach_of_locate {s : State} {c : BitVec 4} {d : Nat} {q : Cmd} {a : Xword} {n : Nat} {k : Access} {h : Home}
    (hstalls : q.stalls = []) (hlocate : s.locate c d a n k = .ok h) (i : Nat) : s.reach c d i q a n k = .ok h := by
  simp only [State.reach, Cmd.stalled, hstalls, List.any_nil, Bool.false_eq_true, if_false, hlocate]

/-! ### What is ahead of an access in its stream (10 R198, R200) -/

theorem CmdSt.isPerformed_eq_false_iff (st : CmdSt) : st.isPerformed = false ↔ st ≠ .complete ∧ ∀ v, st ≠ .performed v := by
  cases st <;> simp [CmdSt.isPerformed]

/-- An earlier access of the stream of `q`, to the destination of `a`, is not performed. -/
def Cell.Precedes (x : Cell) (q : Cmd) (a : Xword) : Prop :=
  ∃ r ∈ x.cmds, r.cls = q.cls ∧ r.num < q.num ∧ r.st ≠ .complete ∧ (∀ v, r.st ≠ .performed v) ∧
    ∃ b n k, r.op.streamOf = some (b, n, k) ∧ streamDest b = streamDest a

theorem Cell.precedes_iff (x : Cell) (q : Cmd) (a : Xword) : x.Precedes q a ↔ x.ahead q a ≠ [] := by
  rw [ne_eq, List.eq_nil_iff_forall_not_mem, not_forall_not]
  refine exists_congr fun r => ?_
  have hdest : (∃ b n k, r.op.streamOf = some (b, n, k) ∧ streamDest b = streamDest a) ↔
      (match r.op.streamOf with | some (b, _, _) => streamDest b == streamDest a | none => false) = true := by
    cases r.op.streamOf with
    | none => simp
    | some p =>
      obtain ⟨b, n, k⟩ := p
      simp
  rw [Cell.ahead, List.mem_filter, hdest]
  simp only [Bool.and_eq_true, beq_iff_eq, decide_eq_true_eq, Bool.not_eq_true', CmdSt.isPerformed_eq_false_iff]
  tauto

/-! ### Accesses at their home (10 R199-R201) -/

/-- R147: an access that lands in a scratchpad increments the flag that it names. -/
def State.bumpAt (s : State) (c : BitVec 4) (h : Home) (f : Option (BitVec 4)) : State :=
  match h with
  | .pad d i _ => s.bumpFlag c d i f
  | _ => s
@[simp] theorem State.bumpAt_none (s : State) (c : BitVec 4) (h : Home) : s.bumpAt c h none = s := by cases h <;> rfl

theorem State.performStream_store (s : State) (c : BitVec 4) (a : Xword) (b : List Byte) (f : Option (BitVec 4)) (h : Home) (n : Nat) :
    s.performStream c (.store a b f) h n = (ofBytes (s.readHome c h n), (s.writeHome c h b).bumpAt c h f) := by
  cases h <;> rfl
theorem State.performStream_load (s : State) (c : BitVec 4) (a : Xword) (r : Nat) (h : Home) (n : Nat) :
    s.performStream c (.load a r) h n = (ofBytes (s.readHome c h n), s) := by
  cases h <;> rfl
theorem State.performStream_atom (s : State) (c : BitVec 4) (a : Xword) (w : Bool) (o v u : Nat) (fp : Xword)
    (f : Option (BitVec 4)) (h : Home) (n : Nat) : s.performStream c (.atom a w o v u fp f) h n =
      (ofBytes (s.readHome c h n),
       (s.writeHome c h (bytesOf n (atomNew o (8 * n) (ofBytes (s.readHome c h n)) v u fp))).bumpAt c h f) := by
  cases h <;> rfl

/-- The access `q` of `n` bytes at `a` can be performed now, whole and on this device, at `h`. -/
structure State.StandsHere (s : State) (c : BitVec 4) (d : Nat) (q : Cmd) (a : Xword) (n : Nat) (k : Access) (h : Home) : Prop where
  leads : s.locate c d a n k = .ok h
  near : ∀ g, h ≠ .far g
  free : q.stalls = []
  whole : (partsOf a n).length = 1
  runs : ∀ e j o, h = .pad e j o → s.engineRuns c e = true

/-- R199, R200: an access whose home is here is performed there, or waits for what is ahead of it. -/
theorem State.arriveStream_here {s : State} {c : BitVec 4} {d : Nat} {q : Cmd} {a : Xword} {n : Nat} {k : Access} {h : Home}
    (here : s.StandsHere c d q a n k h) (hop : q.op.streamOf = some (a, n, k)) (i : Nat) (x : Cell) :
    s.arriveStream c d i x q =
      if x.ahead q a ≠ [] then
        (if q.st = .held then s else s.setSt c d i q (if 64 ≤ s.heldIn (bufferOf c h) then .refused else .held))
      else (s.performStream c q.op h n).2.setSt c d i q (.performed (s.performStream c q.op h n).1) := by
  obtain ⟨hleads, hnear, hfree, hwhole, hruns⟩ := here
  simp only [State.arriveStream, hop, hwhole, OfNat.one_ne_ofNat, false_and, if_false, State.reach_of_locate hfree hleads]
  cases h with
  | far g => exact absurd rfl (hnear g)
  | mem l => rfl
  | pad e j o => simp only [hruns e j o rfl, Bool.not_true, Bool.false_eq_true, if_false]

/-- R179: an access that crosses a page is performed in its two parts, the first and then the second. -/
theorem State.arriveStream_crossing {s : State} {c : BitVec 4} {d : Nat} {q : Cmd} {a e : Xword} {n m r : Nat} {k : Access} {h g : Home}
    (hop : q.op.streamOf = some (a, n, k)) (hparts : partsOf a n = [(a, m), (e, r)]) (hfree : q.stalls = []) (hdone : q.done = 0)
    (hbuf : q.buf = []) (i : Nat) (x : Cell) (hahead : x.ahead q a = []) (hfirst : s.locate c d a m k = .ok h)
    (hsecond : (s.performPart c q.op a (a, m) h).2.locate c d e r k = .ok g) :
    let t := s.performPart c q.op a (a, m) h
    let u := t.2.performPart c q.op a (e, r) g
    s.arriveStream c d i x q = u.2.setSt c d i q (.performed (t.1 + u.1)) := by
  have hdone1 : Nat.testBit (2 ^ 0) 1 = false := by decide
  have hall : Nat.testBit (2 ^ 0 + 2 ^ 1) 0 = true ∧ Nat.testBit (2 ^ 0 + 2 ^ 1) 1 = true := by decide
  simp only [State.arriveStream, hop, hparts, List.length_cons, List.length_nil, hahead, and_self, if_true,
    State.arriveParts, hdone, hbuf, List.mapIdx_cons, List.mapIdx_nil, List.foldl_cons, List.foldl_nil, Nat.zero_testBit,
    Bool.false_eq_true, if_false, State.reach_of_locate hfree hfirst, State.reach_of_locate hfree hsecond, hdone1,
    List.all_cons, List.all_nil, hall.1, hall.2, Bool.and_self, List.headD_nil, Nat.zero_add]

theorem execStreamArrival_due {s : State} {c : BitVec 4} {d : BitVec 6} {i : BitVec 11} {num : Xword} {x : Cell} {q : Cmd}
    (hx : (s.slot c).ctx.cell? d.toNat i.toNat = some x) (hq : x.cmd? 2 num.toNat = some q) (hst : q.st = .sent ∨ q.st = .held) :
    exec (.streamArrival c d i num) s = .next (s.arriveStream c d.toNat i.toNat x q) := by
  have hdue : (q.st == .sent || q.st == .held) = true := by rcases hst with h | h <;> rw [h] <;> rfl
  simp only [exec_streamArrival, execStreamArrival, hx, hq, guarded, hdue, if_true]

/-- R198, R201: the acknowledgement of a performed access comes to its source. -/
theorem execStreamAck_performed {s : State} {c : BitVec 4} {d : BitVec 6} {i : BitVec 11} {num : Xword} {x : Cell} {q : Cmd} {v : Nat}
    (hx : (s.slot c).ctx.cell? d.toNat i.toNat = some x) (hq : x.cmd? 2 num.toNat = some q) (hop : q.op.isStream = true)
    (hst : q.st = .performed v) (hruns : s.engineRuns c d.toNat = true) :
    exec (.streamAck c d i num) s = .next (s.ackStream c d.toNat i.toNat q v) := by
  simp only [exec_streamAck, execStreamAck, State.cmd?_of_cell hx, hq, hop, hst, guarded, hruns, if_true]

/-! ### Atomic operations (19 R383) -/

/-- A number of `n` bits, read as a two's complement integer. -/
theorem sextN_of_lt {n v : Nat} (hn : 0 < n) (hv : v < 2 ^ n) :
    sextN v n = if v < 2 ^ (n - 1) then (v : Int) else (v : Int) - 2 ^ n := by
  obtain ⟨k, rfl⟩ : ∃ k, n = k + 1 := ⟨n - 1, by omega⟩
  have hiff : 2 * v < 2 ^ (k + 1) ↔ v < 2 ^ k := by rw [Nat.pow_succ]; omega
  simp only [sextN, Nat.mod_eq_of_lt hv, hiff, Nat.add_sub_cancel]

section
variable {n m d : Nat} (hd : d < 2 ^ n) (c : Nat) (fp : Xword)
include hd

theorem atomNew_min_signed : sextN (atomNew 4 n m d c fp) n = min (sextN m n) (sextN d n) := by
  simp only [atomNew, Nat.mod_eq_of_lt hd, decide_eq_true_eq]
  split <;> omega
theorem atomNew_max_signed : sextN (atomNew 6 n m d c fp) n = max (sextN m n) (sextN d n) := by
  simp only [atomNew, Nat.mod_eq_of_lt hd, decide_eq_true_eq]
  split <;> omega
theorem atomNew_min : atomNew 5 n m d c fp = min m d := by
  simp only [atomNew, Nat.mod_eq_of_lt hd, decide_eq_true_eq]
  split <;> omega
theorem atomNew_max : atomNew 7 n m d c fp = max m d := by
  simp only [atomNew, Nat.mod_eq_of_lt hd, decide_eq_true_eq]
  split <;> omega
theorem atomNew_signed_lt (hm : m < 2 ^ n) : atomNew 4 n m d c fp < 2 ^ n ∧ atomNew 6 n m d c fp < 2 ^ n := by
  simp only [atomNew, Nat.mod_eq_of_lt hd]
  constructor <;> split <;> assumption
end

/-! ### The counter of a timeline (08 R148, 10 R204) -/

/-- The commands of a timeline that a cell lists. -/
def Cell.line (x : Cell) (k : BitVec 2) : List Cmd := x.cmds.filter fun q => q.tl == k
/-- The command of a number of a timeline is over: complete, or nothing at all. -/
def Cell.Over (x : Cell) (k : BitVec 2) (n : Nat) : Prop := ∃ q ∈ x.line k, q.num = n ∧ (q.st = .complete ∨ q.op = .nothing)
/-- Of a timeline nothing has changed. -/
def Cell.SameLine (k : BitVec 2) (x y : Cell) : Prop := y.tl.get k = x.tl.get k ∧ y.line k = x.line k

theorem Cell.mem_line {x : Cell} {k : BitVec 2} {q : Cmd} : q ∈ x.line k ↔ q ∈ x.cmds ∧ q.tl = k := by
  simp [Cell.line, List.mem_filter]
theorem Cell.over_iff (x : Cell) (k : BitVec 2) (n : Nat) :
    x.Over k n ↔ ∃ q ∈ x.cmds, q.tl = k ∧ q.num = n ∧ (q.st = .complete ∨ q.op = .nothing) := by
  simp only [Cell.Over, Cell.mem_line, and_assoc]

/-- The first command of a timeline that is over goes, and the counter counts it. -/
def Cell.countNext (x : Cell) (k : BitVec 2) : Cell :=
  { x with
    tl := x.tl.put k (x.tl.get k + 1)
    cmds := x.cmds.filter fun r => !(r.tl = k && r.num = x.tl.get k + 1) }

/-- The next number of a timeline: it is counted where its command is over; where no command of the timeline bears it, or one
that goes on, the counter stands. -/
theorem retireTimeline_succ (k : BitVec 2) (fuel : Nat) (x : Cell) (hnodup : ((x.line k).map (·.num)).Nodup) :
    (x.Over k (x.tl.get k + 1) → retireTimeline k (fuel + 1) x = retireTimeline k fuel (x.countNext k)) ∧
    (¬x.Over k (x.tl.get k + 1) → retireTimeline k (fuel + 1) x = x) := by
  rw [retireTimeline]
  cases hf : x.cmds.find? (fun q => q.tl = k && q.num = x.tl.get k + 1) with
  | none =>
    refine ⟨fun ⟨q, hq, hnum, _⟩ => ?_, fun _ => rfl⟩
    obtain ⟨hmem, htl⟩ := Cell.mem_line.mp hq
    exact absurd (List.find?_eq_none.mp hf q hmem) (by simp [htl, hnum])
  | some q =>
    have hmem := List.mem_of_find?_eq_some hf
    obtain ⟨htl, hnum⟩ : q.tl = k ∧ q.num = x.tl.get k + 1 := by simpa using List.find?_some hf
    have hline : q ∈ x.line k := Cell.mem_line.mpr ⟨hmem, htl⟩
    have hover : x.Over k (x.tl.get k + 1) ↔ q.st = .complete ∨ q.op = .nothing := by
      refine ⟨fun ⟨r, hr, hrnum, hrover⟩ => ?_, fun h => ⟨q, hline, hnum, h⟩⟩
      rwa [← List.inj_on_of_nodup_map hnodup hr hline (hrnum.trans hnum.symm)]
    have hcond : (decide (q.st = .complete) || decide (q.op = .nothing)) = true ↔ x.Over k (x.tl.get k + 1) := by
      rw [hover, Bool.or_eq_true, decide_eq_true_eq, decide_eq_true_eq]
    simp only [hnum]
    exact ⟨fun h => if_pos (hcond.mpr h), fun h => if_neg (hcond.not.mpr h)⟩

theorem Cell.line_countNext (x : Cell) (k : BitVec 2) :
    (x.countNext k).line k = (x.line k).filter fun q => q.num != x.tl.get k + 1 := by
  simp only [Cell.line, Cell.countNext, List.filter_filter]
  refine List.filter_congr fun q _ => ?_
  by_cases h : q.tl = k <;> simp [h, bne, beq_eq_decide]
theorem Cell.over_countNext {x : Cell} {k : BitVec 2} {n : Nat} :
    (x.countNext k).Over k n ↔ x.Over k n ∧ n ≠ x.tl.get k + 1 := by
  simp only [Cell.Over, Cell.line_countNext, List.mem_filter, bne_iff_ne, ne_eq]
  constructor
  · rintro ⟨q, ⟨hq, hne⟩, rfl, hover⟩
    exact ⟨⟨q, hq, rfl, hover⟩, hne⟩
  · rintro ⟨⟨q, hq, rfl, hover⟩, hne⟩
    exact ⟨q, ⟨hq, hne⟩, rfl, hover⟩
theorem Cell.countNext_length {x : Cell} {k : BitVec 2} (h : x.Over k (x.tl.get k + 1)) :
    (x.countNext k).cmds.length < x.cmds.length := by
  obtain ⟨q, hq, hnum, -⟩ := h
  obtain ⟨hmem, htl⟩ := Cell.mem_line.mp hq
  exact List.length_filter_lt_length_iff_exists.mpr ⟨q, hmem, by simp [htl, hnum]⟩

/-- R148: the counter comes to the greatest number such that every command numbered so or below is over. -/
theorem retireTimeline_tl (k : BitVec 2) {n : Nat} (fuel : Nat) : ∀ x : Cell, x.cmds.length < fuel →
    ((x.line k).map (·.num)).Nodup → (∀ m, x.tl.get k < m → m ≤ n → x.Over k m) → x.tl.get k ≤ n → ¬x.Over k (n + 1) →
    (retireTimeline k fuel x).tl.get k = n := by
  induction fuel with
  | zero => exact fun _ hfuel => absurd hfuel (Nat.not_lt_zero _)
  | succ fuel ih =>
    intro x hfuel hnodup hbelow hle hend
    obtain ⟨hcount, hstand⟩ := retireTimeline_succ k fuel x hnodup
    rcases Nat.eq_or_lt_of_le hle with heq | hlt
    · rw [hstand (heq ▸ hend), heq]
    · have hover := hbelow _ (Nat.lt_succ_self _) hlt
      have htl : (x.countNext k).tl.get k = x.tl.get k + 1 := RegFile.get_put_same _ _ _
      rw [hcount hover]
      refine ih (x.countNext k) (by have := Cell.countNext_length hover; omega) ?_ ?_ (htl ▸ hlt) ?_
      · rw [Cell.line_countNext]
        exact hnodup.sublist (List.filter_sublist.map _)
      · intro m hm hmn
        rw [htl] at hm
        exact Cell.over_countNext.mpr ⟨hbelow m (by omega) hmn, by omega⟩
      · exact fun h => hend (Cell.over_countNext.mp h).1

theorem Cell.SameLine.trans {k : BitVec 2} {x y z : Cell} (h : Cell.SameLine k x y) (g : Cell.SameLine k y z) : Cell.SameLine k x z :=
  ⟨g.1.trans h.1, g.2.trans h.2⟩
theorem retireTimeline_sameLine {j k : BitVec 2} (hjk : j ≠ k) (fuel : Nat) : ∀ x : Cell, Cell.SameLine k x (retireTimeline j fuel x) := by
  induction fuel with
  | zero => exact fun _ => ⟨rfl, rfl⟩
  | succ fuel ih =>
    intro x
    rw [retireTimeline]
    split
    · split
      · refine Cell.SameLine.trans ⟨RegFile.get_put_ne _ _ hjk.symm, ?_⟩ (ih _)
        simp only [Cell.line, List.filter_filter]
        refine List.filter_congr fun q _ => ?_
        by_cases h : q.tl = k <;> simp [h, hjk.symm]
      · exact ⟨rfl, rfl⟩
    · exact ⟨rfl, rfl⟩

/-- R204: bringing the other timelines up to date changes nothing of a timeline. -/
theorem foldl_retireTimeline_sameLine {k : BitVec 2} (l : List (BitVec 2)) (hk : k ∉ l) (x : Cell) :
    Cell.SameLine k x (l.foldl (fun c j => retireTimeline j (c.cmds.length + 1) c) x) :=
  List.foldlRecOn (motive := Cell.SameLine k x) l _ ⟨rfl, rfl⟩ fun y hy j hj =>
    hy.trans (retireTimeline_sameLine (fun h : j = k => hk (h ▸ hj)) _ y)

theorem Cell.advance_tl (x : Cell) (k : BitVec 2) {n : Nat} (hnodup : ((x.line k).map (·.num)).Nodup)
    (hbelow : ∀ m, x.tl.get k < m → m ≤ n → x.Over k m) (hle : x.tl.get k ≤ n) (hend : ¬x.Over k (n + 1)) :
    x.advance.tl.get k = n := by
  have hall : ∀ k : BitVec 2, k ∈ ([0, 1, 2, 3] : List (BitVec 2)) := by decide
  obtain ⟨pre, post, hl⟩ := List.append_of_mem (hall k)
  have hnd : (pre ++ k :: post).Nodup := hl ▸ by decide
  obtain ⟨hpost, hpre⟩ : k ∉ post ∧ k ∉ pre := by
    simp only [List.nodup_append, List.nodup_cons] at hnd
    exact ⟨hnd.2.1.1, fun h => hnd.2.2 k h k List.mem_cons_self rfl⟩
  rw [Cell.advance, hl, List.foldl_append, List.foldl_cons, (foldl_retireTimeline_sameLine post hpost _).1]
  obtain ⟨htl, hline⟩ := foldl_retireTimeline_sameLine pre hpre x
  generalize pre.foldl (fun c j => retireTimeline j (c.cmds.length + 1) c) x = y at htl hline
  have hover : ∀ m, y.Over k m ↔ x.Over k m := fun m => by rw [Cell.Over, hline, Cell.Over]
  exact retireTimeline_tl k _ y (Nat.lt_succ_self _) (hline ▸ hnodup) (fun m hm hmn => (hover m).mpr (hbelow m (htl ▸ hm) hmn))
    (htl ▸ hle) ((hover _).not.mpr hend)

/-- Settles O32: an access whose home is here is performed once nothing of its stream precedes it, a DATOM's value is that of its
operation, and a timeline's counter rises past every command that is over. -/
theorem streamsAndTimelines : Obligations.StreamsAndTimelines := by
  unfold Obligations.StreamsAndTimelines
  refine ⟨?_, ?_, ?_⟩
  · intro s c d i num x q hx hq ahead here done
    have hahead : ∀ a, ahead a ↔ x.ahead q a ≠ [] := x.precedes_iff q
    have hdone : ∀ t h f v, done t h f v = (t.bumpAt c h f).setSt c d.toNat i.toNat q (.performed v) := by
      intro t h f v
      cases h <;> cases f <;> rfl
    have hperforms : ∀ a n k h, q.op.streamOf = some (a, n, k) → (q.st = .sent ∨ q.st = .held) → here a n k h → ¬ahead a →
        exec (.streamArrival c d i num) s = .next ((s.performStream c q.op h n).2.setSt c d.toNat i.toNat q
          (.performed (s.performStream c q.op h n).1)) := by
      rintro a n k h hop hst ⟨hleads, hnear, hfree, hwhole, hruns⟩ hfirst
      rw [execStreamArrival_due hx hq hst, State.arriveStream_here ⟨hleads, hnear, hfree, hwhole, hruns⟩ hop,
        if_neg ((hahead a).not.mp hfirst)]
    refine ⟨?store, ?load, ?atom, ?crossing, ?waits, fun _ => ⟨_, rfl, rfl⟩, ?ack⟩
    case store =>
      intro a b f h hop hst hhere hfirst
      rw [hperforms a b.length .write h (by rw [hop]; rfl) hst hhere hfirst, hop, State.performStream_store, hdone]
    case load =>
      intro a r h hop hst hhere hfirst
      rw [hperforms a 64 .read h (by rw [hop]; rfl) hst hhere hfirst, hop, State.performStream_load, hdone, State.bumpAt_none]
    case atom =>
      intro a w o v u fp f h hop hst n hhere hfirst old
      rw [hperforms a n .atomic h (by rw [hop]; rfl) hst hhere hfirst, hop, State.performStream_atom, hdone]
    case crossing =>
      intro a n k m e h g hop hst hfirst hfree hparts hnone hbuf hleads t hleads' u
      rw [execStreamArrival_due hx hq hst, State.arriveStream_crossing hop hparts hfree hnone hbuf _ _
        (not_not.mp ((hahead a).not.mp hfirst)) hleads hleads']
    case waits =>
      rintro a n k h hop hst ⟨hleads, hnear, hfree, hwhole, hruns⟩ hpre
      rw [execStreamArrival_due hx hq (.inl hst), State.arriveStream_here ⟨hleads, hnear, hfree, hwhole, hruns⟩ hop,
        if_pos ((hahead a).mp hpre), if_neg (by rw [hst]; exact CmdSt.noConfusion)]
    case ack =>
      intro v hop hst hruns filled
      obtain ⟨-, htl, hnum⟩ := Cell.cmd?_spec hq
      rw [execStreamAck_performed hx hq hop hst hruns, State.ackStream, htl, hnum]
  · intro n m d c fp hn hm hd hc r sg
    have hsg : ∀ v, v < 2 ^ n → sextN v n = sg v := fun v => sextN_of_lt hn
    obtain ⟨hmin, hmax⟩ := atomNew_signed_lt hd c fp hm
    have hdmod : d % 2 ^ n = d := Nat.mod_eq_of_lt hd
    have hcmod : c % 2 ^ n = c := Nat.mod_eq_of_lt hc
    refine ⟨?_, ?_, ?_, ?_, ?_, ?_, ?_, atomNew_min hd c fp, atomNew_max hd c fp, ?_, ?_, ?_, rfl⟩
    case refine_8 => rw [← hsg _ hmin, atomNew_min_signed hd, hsg m hm, hsg d hd]
    case refine_9 => rw [← hsg _ hmax, atomNew_max_signed hd, hsg m hm, hsg d hd]
    all_goals simp only [r, atomNew, homeFadd, hdmod, hcmod]
  · intro x k done hnodup n hbelow hle hend
    exact x.advance_tl k hnodup (fun m hm hmn => (x.over_iff k m).mpr (hbelow m hm hmn)) hle ((x.over_iff k _).not.mpr hend)

end Sys2Proof.Machine

namespace Sys2Proof.Machine
open Sys2Proof

/-! ### Pieces by destination word (19 R378) -/

section
variable {α : Type}

theorem addPiece_perm (p : Piece α) (gs : List (List (Piece α))) : (addPiece p gs).flatten.Perm (gs.flatten ++ [p]) := by
  induction gs with
  | nil => exact .refl _
  | cons g gs ih =>
    rw [addPiece]
    split
    · simp only [List.flatten_cons, List.append_assoc]
      exact (List.perm_append_comm (l₁ := [p])).append_left g
    · simp only [List.flatten_cons, List.append_assoc]
      exact ih.append_left g

/-- A piece goes to the group of its word, or makes a new one. -/
theorem mem_addPiece {p : Piece α} {gs : List (List (Piece α))} {g : List (Piece α)} (h : g ∈ addPiece p gs) :
    g ∈ gs ∨ g = [p] ∨ ∃ b ∈ gs, (∃ q ∈ b, wordAt q.2 = wordAt p.2) ∧ g = b ++ [p] := by
  induction gs with
  | nil => exact .inr (.inl (List.mem_singleton.mp h))
  | cons b gs ih =>
    rw [addPiece] at h
    split at h
    · rcases List.mem_cons.mp h with rfl | h
      · obtain ⟨q, hq, hword⟩ := List.any_eq_true.mp ‹(b.any _) = true›
        exact .inr (.inr ⟨b, List.mem_cons_self, ⟨q, hq, eq_of_beq hword⟩, rfl⟩)
      · exact .inl (List.mem_cons_of_mem _ h)
    · rcases List.mem_cons.mp h with rfl | h
      · exact .inl List.mem_cons_self
      · rcases ih h with h | h | ⟨e, he, hword, rfl⟩
        · exact .inl (List.mem_cons_of_mem _ h)
        · exact .inr (.inl h)
        · exact .inr (.inr ⟨e, List.mem_cons_of_mem _ he, hword, rfl⟩)

/-- Pieces of one word, in the order of a list. -/
structure OneWord (l g : List (Piece α)) : Prop where
  some : g ≠ []
  ordered : g.Sublist l
  word : ∀ p ∈ g, ∀ r ∈ g, wordAt p.2 = wordAt r.2

theorem OneWord.later {l g : List (Piece α)} (h : OneWord l g) (p : Piece α) : OneWord (l ++ [p]) g :=
  ⟨h.some, h.ordered.trans (List.sublist_append_left _ _), h.word⟩
theorem OneWord.alone (l : List (Piece α)) (p : Piece α) : OneWord (l ++ [p]) [p] :=
  ⟨List.cons_ne_nil _ _, List.sublist_append_right _ _, by simp⟩
theorem OneWord.append {l g : List (Piece α)} (h : OneWord l g) {p : Piece α} (hp : ∃ q ∈ g, wordAt q.2 = wordAt p.2) :
    OneWord (l ++ [p]) (g ++ [p]) := by
  obtain ⟨q, hq, hword⟩ := hp
  have hall : ∀ r ∈ g ++ [p], wordAt r.2 = wordAt p.2 := by
    intro r hr
    rcases List.mem_append.mp hr with hr | hr
    · exact (h.word r hr q hq).trans hword
    · rw [List.mem_singleton.mp hr]
  exact ⟨by simp, h.ordered.append (.refl _), fun r hr t ht => (hall r hr).trans (hall t ht).symm⟩

theorem byWord_append (l : List (Piece α)) (p : Piece α) : byWord (l ++ [p]) = addPiece p (byWord l) :=
  List.foldl_append

/-- R378: the groups hold every piece once, each those of one word in their order. -/
theorem byWord_groups (l : List (Piece α)) : (byWord l).flatten.Perm l ∧ ∀ g ∈ byWord l, OneWord l g := by
  induction l using List.reverseRecOn with
  | nil => exact ⟨.refl _, fun _ hg => absurd hg List.not_mem_nil⟩
  | append_singleton l p ih =>
    obtain ⟨hperm, hwords⟩ := ih
    rw [byWord_append]
    refine ⟨(addPiece_perm p _).trans (hperm.append_right _), fun g hg => ?_⟩
    rcases mem_addPiece hg with hg | rfl | ⟨b, hb, hp, rfl⟩
    · exact (hwords g hg).later p
    · exact .alone l p
    · exact (hwords b hb).append hp
end

/-! ### The open order of parts (log 31) -/

theorem openTurns_perm (seed n : Nat) : ((List.range n).map (openTurn seed n)).Perm (List.range n) := by
  by_cases hn : n ≤ 1
  · obtain rfl | rfl : n = 0 ∨ n = 1 := by omega
    · exact .refl _
    · exact .refl _
  · have horder := openOrder_perm seed n (List.range n) List.length_range
    have hlen : (openOrder seed n (List.range n)).length = n := horder.length_eq.trans List.length_range
    have hmap : (List.range n).map (openTurn seed n) = openOrder seed n (List.range n) := by
      refine List.ext_getElem (by simp [hlen]) fun k _ hk => ?_
      simp only [List.getElem_map, List.getElem_range, openTurn, if_neg hn, List.getElem?_eq_getElem hk, Option.getD_some]
    rwa [hmap]

/-! ### What an engine does next (10 R193, R195, R204) -/

section
variable {s : State} {c : BitVec 4} {d i : Nat} {q : Cmd} (hfree : q.stalls = [])
include hfree

/-- R193, R195: an engine reads the first word that it lacks, where that is on this device. -/
theorem State.readTry_near {reads : List (Xword × Nat)} {ws : List Nat} {w : Nat} {h : Home}
    (hw : (ws.eraseDups.filter fun w => (q.word? w).isNone).head? = some w)
    (hlocate : s.locate c d (spanOf reads w).1 (spanOf reads w).2 .read = .ok h) (hnear : ∀ g, h ≠ .far g) :
    s.readTry c d i q reads ws =
      some (s.addWord c d i q (spanOf reads w).1 (ofBytes (s.readHome c h (spanOf reads w).2))) := by
  obtain ⟨l, hl⟩ := List.head?_eq_some_iff.mp hw
  simp only [State.readTry, hl, List.findSome?_cons, State.reach_of_locate hfree hlocate]

theorem State.reachRuns_near : ∀ (l : List (Xword × List Byte)) (hs : List Home), hs.length = l.length →
    (∀ (j : Nat) h r, hs[j]? = some h → l[j]? = some r → s.locate c d r.1 r.2.length .write = .ok h) →
    s.reachRuns c d i q l = .ok hs := by
  intro l
  induction l with
  | nil =>
    intro hs hlen _
    rw [List.length_eq_zero_iff.mp hlen]
    rfl
  | cons r l ih =>
    intro hs hlen hlocate
    obtain ⟨h, hs, rfl⟩ := List.exists_cons_of_length_eq_add_one hlen
    have hfirst := hlocate 0 h r rfl rfl
    have hrest := ih hs (Nat.succ.inj hlen) fun j g t hg ht => hlocate (j + 1) g t hg ht
    simp only [State.reachRuns, State.reach_of_locate hfree hfirst, hrest]

/-- R193: a word is written, where all its bytes are on this device. -/
theorem State.writeTry_near (k : Nat) {l : List (Xword × List Byte)} {hs : List Home} (hlen : hs.length = l.length)
    (hnear : ∀ (j : Nat) h r, hs[j]? = some h → l[j]? = some r → s.locate c d r.1 r.2.length .write = .ok h ∧ ∀ g, h ≠ .far g) :
    s.writeTry c d i q k l = some (((hs.zip l).foldl (fun u p => u.writeHome c p.1 p.2.2) s).donePart c d i q k) := by
  rw [State.writeTry, State.reachRuns_near hfree l hs hlen fun j h r hh hr => (hnear j h r hh hr).1]
  cases hs with
  | nil => rfl
  | cons h hs =>
    obtain ⟨r, l, rfl⟩ := List.exists_cons_of_length_eq_add_one hlen.symm
    cases h with
    | far g => exact absurd rfl ((hnear 0 _ r rfl rfl).2 g)
    | pad e j o => rfl
    | mem l => rfl

/-- R156: of an address whose home is known only a bank lock can bar the access. -/
theorem State.reach_of_homeOf {a : Xword} {n : Nat} {k : Access} {h : Home} (hhome : s.homeOf c d a n k = .ok h) :
    s.reach c d i q a n k = if s.homeBarred c h n then .error none else .ok h := by
  simp only [State.reach, Cmd.stalled, hfree, List.any_nil, Bool.false_eq_true, if_false, State.locate, hhome]
  cases s.homeBarred c h n <;> rfl

/-- R381: an addition that stays in one page is held at its home; a bank lock there does not keep it from coming. -/
theorem State.holdTry_whole {t : Nat} {a : Xword} {esz v : Nat} {fp : Bool} {ctl : Xword} {h : Home}
    (hwhole : (partsOf a (2 ^ esz)).length = 1) (hhome : s.homeOf c d a (2 ^ esz) .atomic = .ok h) :
    s.holdTry c d i q t a esz v fp ctl = some ((s.onCtx c fun y => { y with
      adds := y.adds ++ [⟨q.bsn, 1600 * d + i, q.num, t, a, h, esz, fp, v, ctl⟩] }).donePart c d i q t) := by
  have hpart : partsOf a (2 ^ esz) = [(a, 2 ^ esz)] := by
    unfold partsOf at hwhole ⊢
    dsimp only at hwhole ⊢
    split at hwhole
    · exact absurd hwhole (by simp)
    · rw [if_neg ‹_›]
  simp only [State.holdTry, hpart, List.findSome?_cons, List.findSome?_nil, State.reach_of_homeOf hfree hhome, hhome]
  cases s.homeBarred c h (2 ^ esz) <;> rfl
end

section
variable {s : State} {c : BitVec 4} {d i : Nat} {q : Cmd}

/-- What is read next is lacking. -/
theorem Cmd.lacks_of_head? {ws : List Nat} {w : Nat}
    (hw : (ws.eraseDups.filter fun w => (q.word? w).isNone).head? = some w) : (ws.all fun w => (q.word? w).isSome) = false := by
  obtain ⟨hmem, hnone⟩ := List.mem_filter.mp (List.mem_of_head? hw)
  rw [List.all_eq_false]
  exact ⟨w, List.mem_eraseDups.mp hmem, by simp [Option.isNone_iff_eq_none.mp hnone]⟩

theorem State.writeWords_end {n : Nat} {gs : List (List (Piece Nat))} {fin : State} (h : q.left c d i gs.length = []) :
    s.writeWords c d i q n gs fin = fin := by
  rw [State.writeWords, h]
theorem State.writeWords_next {n k : Nat} {l : List Nat} {gs : List (List (Piece Nat))} {fin t : State} {g : List (Piece Nat)}
    (h : q.left c d i gs.length = k :: l) (hg : gs[k]? = some g) (ht : s.writeTry c d i q k (pieceRuns (min 4 n) g) = some t) :
    s.writeWords c d i q n gs fin = t := by
  simp only [State.writeWords, h, List.findSome?_cons, wordRuns, hg, Option.getD_some, ht]

theorem State.holdAll_end {elems : List (Nat × Xword × Nat)} {esz : Nat} {fp : Bool} {ctl : Xword}
    (h : (elems.filter fun r => !q.done.testBit r.1) = []) : s.holdAll c d i q elems esz fp ctl = s.holdEnd c d i q := by
  rw [State.holdAll, h]
theorem State.holdAll_next {elems m : List (Nat × Xword × Nat)} {t v esz : Nat} {a : Xword} {fp : Bool} {ctl : Xword} {u : State}
    (h : (elems.filter fun r => !q.done.testBit r.1) = (t, a, v) :: m) (hu : s.holdTry c d i q t a esz v fp ctl = some u) :
    s.holdAll c d i q elems esz fp ctl = u := by
  simp only [State.holdAll, h, List.findSome?_cons, hu, Option.getD_some]

theorem State.scatterStep_adds {elems : List (Nat × Xword × Nat)} {esz add : Nat} {fp : Xword} :
    s.scatterStep c d i q elems esz (add + 1) fp = s.holdAll c d i q elems esz (add == 1) fp := by
  have hkind : (add + 1 == 2) = (add == 1) := by rw [beq_eq_decide, beq_eq_decide]; simp
  rw [State.scatterStep, if_neg (Nat.succ_ne_zero add), hkind]

theorem State.copyStep_end {src dst : Shape} {tr : Nat} {ls ld : Bool}
    (h : q.left c d i (byWord (copyPieces s.devnum d i src dst tr ls ld)).length = []) :
    s.copyStep c d i q src dst tr ls ld = s.complete c d i q := by
  simp only [State.copyStep, h]
theorem State.copyStep_next {src dst : Shape} {tr k : Nat} {ls ld : Bool} {l : List Nat} {g : List (Piece Xword)} {t : State}
    (h : q.left c d i (byWord (copyPieces s.devnum d i src dst tr ls ld)).length = k :: l)
    (hg : (byWord (copyPieces s.devnum d i src dst tr ls ld))[k]? = some g)
    (ht : s.copyTry c d i q (copyPieces s.devnum d i src dst tr ls ld) (pieceBytes dst) k g = some t) :
    s.copyStep c d i q src dst tr ls ld = t := by
  simp only [State.copyStep, h, List.findSome?_cons, hg, Option.getD_some, ht]
theorem State.copyTry_reads {ps g : List (Piece Xword)} {n k w : Nat}
    (hw : ((g.map fun p => wordAt p.1).eraseDups.filter fun w => (q.word? w).isNone).head? = some w) :
    s.copyTry c d i q ps n k g = s.readTry c d i q (copyReads ps n) (g.map fun p => wordAt p.1) := by
  simp only [State.copyTry, Cmd.lacks_of_head? hw, Bool.false_eq_true, if_false]
theorem State.gatherStep_reads {elems : List (Option Xword)} {esz dest w : Nat} {t : State}
    (hw : (((gatherReads elems esz).map fun p => wordAt p.1).eraseDups.filter fun w => (q.word? w).isNone).head? = some w)
    (ht : s.readTry c d i q (gatherReads elems esz) ((gatherReads elems esz).map fun p => wordAt p.1) = some t) :
    s.gatherStep c d i q elems esz dest = t := by
  simp only [State.gatherStep, Cmd.lacks_of_head? hw, Bool.false_eq_true, if_false, ht, Option.getD_some]
/-- R380: a gather that has all its words gives its data, zero for an element out of range. -/
theorem State.gatherStep_delivers {elems : List (Option Xword)} {esz dest : Nat}
    (h : ∀ w ∈ (gatherReads elems esz).map fun p => wordAt p.1, (q.word? w).isSome = true) :
    s.gatherStep c d i q elems esz dest = (s.onCtx c fun y => y.onCell d i fun x => x.fillHawk q.tl q.num (spread dest
      (packLanes (8 * 2 ^ esz) (elems.map fun e => match e with | some a => q.elem a (2 ^ esz) | none => 0)))).complete c d i q :=
  if_pos (List.all_eq_true.mpr h)
theorem State.copyTry_writes {ps g : List (Piece Xword)} {n k : Nat} (h : ∀ w ∈ g.map fun p => wordAt p.1, (q.word? w).isSome = true) :
    s.copyTry c d i q ps n k g = s.writeTry c d i q k (pieceRuns n (g.map fun p => (q.piece p.1 n, p.2))) := by
  simp only [State.copyTry, List.all_eq_true.mpr h, if_true]
end

/-! ### The engines' event (10 R204) -/

section
variable {s : State} {c : BitVec 4} {d : BitVec 6} {i : BitVec 11} {tl : BitVec 2} {num : Xword} {x : Cell} {q : Cmd}
variable (hx : (s.slot c).ctx.cell? d.toNat i.toNat = some x) (hq : x.cmd? tl num.toNat = some q)
include hx hq

/-- R388, R470: a vault command without bursts that has started completes while the vault clock runs. -/
theorem execEngineCommandComplete_burstless (hst : q.st = .vault 0) (hruns : (s.pdies.get ((s.slot c).phys d.toNat)).tripped = false)
    (hop : (∃ k r, q.op = .vact k r) ∨ (∃ k, q.op = .vpre k) ∨ (∃ r, q.op = .vref r) ∨ (∃ r m n, q.op = .vlife r m n)) :
    exec (.engineCommandComplete c d i tl num) s = .next (s.complete c d.toNat i.toNat q) := by
  simp only [exec_engineCommandComplete, execEngineCommandComplete, hx, hq, hst, if_true, hruns, Bool.not_false, guarded]
  rcases hop with ⟨k, r, h⟩ | ⟨k, h⟩ | ⟨r, h⟩ | ⟨r, m, n, h⟩ <;> rw [h]

variable (hst : q.st = .sent) (hruns : s.engineRuns c d.toNat = true)
include hst hruns

theorem execEngineCommandComplete_copy {src dst : Shape} {tr : Nat} {ls ld : Bool} (hop : q.op = .copy src dst tr ls ld) :
    exec (.engineCommandComplete c d i tl num) s = .next (s.copyStep c d.toNat i.toNat q src dst tr ls ld) := by
  simp [execEngineCommandComplete, hx, hq, hst, hruns, hop]
theorem execEngineCommandComplete_gather {elems : List (Option Xword)} {esz r : Nat} (hop : q.op = .gather elems esz r) :
    exec (.engineCommandComplete c d i tl num) s = .next (s.gatherStep c d.toNat i.toNat q elems esz r) := by
  simp [execEngineCommandComplete, hx, hq, hst, hruns, hop]
theorem execEngineCommandComplete_scatter {elems : List (Nat × Xword × Nat)} {esz add : Nat} {fp : Xword}
    (hop : q.op = .scatter elems esz add fp) :
    exec (.engineCommandComplete c d i tl num) s = .next (s.scatterStep c d.toNat i.toNat q elems esz add fp) := by
  simp [execEngineCommandComplete, hx, hq, hst, hruns, hop]
theorem execEngineCommandComplete_indexed {kind lim list : Nat} {base fp : Xword} {h : Shape}
    (hop : q.op = .indexed kind base lim list h fp) :
    exec (.engineCommandComplete c d i tl num) s = .next (s.indexStep c d.toNat i.toNat x q kind base lim list h fp) := by
  simp [execEngineCommandComplete, hx, hq, hst, hruns, hop]
end

/-! ### The scratchpad forms (19 R380, R381) -/

section
variable {s : State} {c : BitVec 4} {d i : Nat} {x : Cell} {q : Cmd} {kind lim list : Nat} {base fp : Xword} {h : Shape}

/-- R380: a scratchpad form reads its next index. -/
theorem State.indexStep_index (hmore : q.buf.length < h.count) (hfree : s.barred c d (list + 4 * q.buf.length) 4 = false) :
    s.indexStep c d i x q kind base lim list h fp = s.onCmd c d i q.tl q.num fun r => { r with buf := r.buf ++
      [match s.indexAddr c base lim h.esz.toNat (sextN (x.pad.read (list + 4 * q.buf.length) 4) 32) with
        | some a => a.toNat + 1 | none => 0] } :=
  (if_pos hmore).trans (if_neg (Bool.eq_false_iff.mp hfree))

variable (hall : h.count ≤ q.buf.length)
include hall

theorem State.indexStep_reads {w : Nat} {t : State}
    (hw : (((indexReads s.devnum d i kind h q.buf).map fun p => wordAt p.1).eraseDups.filter fun w => (q.word? w).isNone).head? = some w)
    (ht : s.readTry c d i q (indexReads s.devnum d i kind h q.buf) ((indexReads s.devnum d i kind h q.buf).map fun p => wordAt p.1) =
      some t) : s.indexStep c d i x q kind base lim list h fp = t := by
  simp only [State.indexStep, Nat.not_lt.mpr hall, if_false, Cmd.lacks_of_head? hw, Bool.not_false, if_true, ht, Option.getD_some]

variable (hwords : ∀ w ∈ (indexReads s.devnum d i kind h q.buf).map fun p => wordAt p.1, (q.word? w).isSome = true)
include hwords

/-- R380, R381: a scratchpad form that has all its words writes them, or sends its additions. -/
theorem State.indexStep_acts : s.indexStep c d i x q kind base lim list h fp =
    if kind = 0 then s.writeWords c d i q (2 ^ h.esz.toNat) (gatherWords s.devnum d i h q) (s.endIndexed c d i q)
    else if kind = 1 then
      s.writeWords c d i q (2 ^ h.esz.toNat) (scatterWords (indexElems s.devnum d i h q) h.esz.toNat) (s.endIndexed c d i q)
    else s.holdAll c d i q (indexElems s.devnum d i h q) h.esz.toNat (kind == 3) fp := by
  simp only [State.indexStep, Nat.not_lt.mpr hall, if_false, List.all_eq_true.mpr hwords, Bool.not_true, Bool.false_eq_true]
end

/-- Settles O33: each engine's next act, from what it reads, writes or sends where that leads to this device; the groups of a
command's pieces hold each once, and the open order takes each part once. -/
theorem enginesPerform : Obligations.EnginesPerform := by
  unfold Obligations.EnginesPerform
  refine ⟨?_, fun l => ⟨(byWord_groups l).1, fun g hg => ?_⟩, openTurns_perm⟩
  · intro s c d i tl num x q hx hq e runs change part completes ends fetches have_ writes turns stores adds
    have hfetches : ∀ reads ws, q.stalls = [] → (∀ w t, (ws.eraseDups.filter fun w => (q.word? w).isNone).head? = some w →
        s.readTry c d.toNat i.toNat q reads ws = some t → e = .next t) → fetches reads ws :=
      fun reads ws hfree hgo w h hw hleads hnear => hgo w _ hw (State.readTry_near hfree hw hleads hnear)
    have hwrites : ∀ k l, q.stalls = [] → (∀ t, s.writeTry c d.toNat i.toNat q k l = some t → e = .next t) → writes k l :=
      fun k l hfree hgo hs hlen hnear => hgo _ (State.writeTry_near hfree k hlen hnear)
    have hstores : ∀ n gs, q.stalls = [] → e = .next (s.writeWords c d.toNat i.toNat q n gs (s.endIndexed c d.toNat i.toNat q)) →
        stores (min 4 n) gs := fun n gs hfree he =>
      ⟨fun hleft => he.trans (congrArg _ (State.writeWords_end hleft)), fun k l hleft g hg =>
        hwrites k _ hfree fun t ht => he.trans (congrArg _ (State.writeWords_next hleft hg ht))⟩
    have hadds : ∀ elems esz fp ctl, q.stalls = [] → e = .next (s.holdAll c d.toNat i.toNat q elems esz fp ctl) →
        adds elems esz fp ctl := fun elems esz fp ctl hfree he =>
      ⟨fun hnone => he.trans (congrArg _ (State.holdAll_end hnone)), fun t a v m h hnext hwhole hhome =>
        he.trans (congrArg _ (State.holdAll_next hnext (State.holdTry_whole hfree hwhole hhome)))⟩
    refine ⟨?copy, ?gather, ?scatter, ?additions, ?indexed, execEngineCommandComplete_burstless hx hq⟩
    case copy =>
      rintro src dst tr ls ld hop ⟨hst, hfree, hruns⟩ n ps gs
      have he := execEngineCommandComplete_copy hx hq hst hruns hop
      refine ⟨fun hleft => he.trans (congrArg _ (State.copyStep_end hleft)), fun k l hleft g hg => ?_⟩
      have hgo : ∀ t, s.copyTry c d.toNat i.toNat q ps n k g = some t → e = .next t :=
        fun t ht => he.trans (congrArg _ (State.copyStep_next hleft hg ht))
      exact ⟨hfetches _ _ hfree fun w t hw ht => hgo t ((State.copyTry_reads hw).trans ht),
        fun hwords => hwrites k _ hfree fun t ht => hgo t ((State.copyTry_writes hwords).trans ht)⟩
    case gather =>
      rintro elems esz r hop ⟨hst, hfree, hruns⟩ reads ws
      have he := execEngineCommandComplete_gather hx hq hst hruns hop
      exact ⟨hfetches _ _ hfree fun w t hw ht => he.trans (congrArg _ (State.gatherStep_reads hw ht)),
        fun hwords => he.trans (congrArg _ (State.gatherStep_delivers hwords))⟩
    case scatter =>
      rintro elems esz fp hop ⟨hst, hfree, hruns⟩
      exact hstores _ _ hfree (execEngineCommandComplete_scatter hx hq hst hruns hop)
    case additions =>
      rintro elems esz add fp hop ⟨hst, hfree, hruns⟩
      exact hadds _ _ _ _ hfree ((execEngineCommandComplete_scatter hx hq hst hruns hop).trans (congrArg _ State.scatterStep_adds))
    case indexed =>
      rintro kind base lim list h fp hop ⟨hst, hfree, hruns⟩ esz o
      have he := execEngineCommandComplete_indexed hx hq hst hruns hop
      refine ⟨fun hmore hbank => he.trans (congrArg _ (State.indexStep_index hmore hbank)), fun hall => ?_⟩
      refine ⟨hfetches _ _ hfree fun w t hw ht => he.trans (congrArg _ (State.indexStep_reads hall hw ht)), fun hwords => ?_⟩
      rw [State.indexStep_acts hall hwords] at he
      refine ⟨fun hkind => hstores _ _ hfree (he.trans (congrArg _ (if_pos hkind))), fun hkind => ?_, fun hkind => ?_⟩
      · rw [if_neg (by omega), if_pos hkind] at he
        exact hstores _ _ hfree he
      · rw [if_neg (by omega), if_neg (by omega)] at he
        exact hadds _ _ _ _ hfree he
  · obtain ⟨hsome, hordered, hword⟩ := (byWord_groups l).2 g hg
    exact ⟨hsome, hordered, hword⟩

end Sys2Proof.Machine

namespace Sys2Proof.Machine
open Sys2Proof

/-! ### The vault above a cell (09 R181) -/

theorem PDie.vault_cell (x : PDie) (i : Nat) : (x.vault i).cell = i := by
  unfold PDie.vault
  cases h : x.vaults.find? fun v => v.cell == i with
  | none => rfl
  | some v => simpa using List.find?_some h

theorem find?_putVault (v : Vault) (l : List Vault) : (putVault v l).find? (fun w => w.cell == v.cell) = some v := by
  induction l with
  | nil => simp [putVault]
  | cons w l ih =>
    rw [putVault]
    split_ifs with hlt heq
    · simp
    · simp
    · rw [List.find?_cons_of_neg (by simpa using fun h => heq h.symm), ih]

/-- A vault changed is what stands above its cell. -/
theorem State.vault_onVault (s : State) (p : BitVec 6) (i : Nat) {f : Vault → Vault} (hf : ∀ v, (f v).cell = v.cell) :
    ((s.onVault p i f).pdies.get p).vault i = f ((s.pdies.get p).vault i) := by
  have hcell : (f ((s.pdies.get p).vault i)).cell = i := (hf _).trans (PDie.vault_cell _ i)
  have hput := find?_putVault (f ((s.pdies.get p).vault i)) (s.pdies.get p).vaults
  rw [hcell] at hput
  simp only [State.onVault, State.onPdie, RegFile.get_put_same]
  rw [PDie.vault, hput, Option.getD_some]

/-! ### Records of the vaults (09 R189) -/

/-- Records have been offered to the trap queue, which takes records as before. -/
def State.Records (s t : State) : Prop := ∃ tq posted, t = { s with tq := tq, posted := posted } ∧ tq.state = s.tq.state

theorem State.Records.refl (s : State) : s.Records s := ⟨s.tq, s.posted, rfl, rfl⟩

section
variable {s t : State} (h : s.Records t)
include h
theorem State.Records.slots : t.slots = s.slots := by
  obtain ⟨_, _, rfl, -⟩ := h
  rfl
theorem State.Records.slot (c : BitVec 4) : t.slot c = s.slot c := congrArg (·.get c) h.slots
theorem State.Records.pdies : t.pdies = s.pdies := by
  obtain ⟨_, _, rfl, -⟩ := h
  rfl
theorem State.Records.parks : t.parks = s.parks := by
  obtain ⟨_, _, rfl, -⟩ := h
  rfl
theorem State.Records.time : t.time = s.time := by
  obtain ⟨_, _, rfl, -⟩ := h
  rfl
theorem State.Records.hbm : t.hbm = s.hbm := by
  obtain ⟨_, _, rfl, -⟩ := h
  rfl
theorem State.Records.host : t.host = s.host := by
  obtain ⟨_, _, rfl, -⟩ := h
  rfl
theorem State.Records.tqState : t.tq.state = s.tq.state := by
  obtain ⟨_, _, rfl, hstate⟩ := h
  exact hstate
end

theorem State.takeRecord_tqState (s : State) (r : TrapRec) : (s.takeRecord r).tq.state = s.tq.state := by
  unfold State.takeRecord
  dsimp only
  split <;> split_ifs <;> rfl

theorem State.vaultNote_records (s : State) (c : BitVec 4) (d i bank burst row bsn : Nat) (v : VaultNote) :
    s.Records (s.vaultNote c d i bank burst row bsn v) := by
  have hoffer : ∀ r : TrapRec, r.cls = 5 → s.Records (s.offer r) := by
    intro r hr
    obtain ⟨tq, posted, h⟩ := s.takeRecord_eq r
    have hstate := s.takeRecord_tqState r
    rw [State.offer, if_pos hr]
    rw [h] at hstate ⊢
    exact ⟨tq, posted, rfl, hstate⟩
  unfold State.vaultNote
  exact hoffer _ rfl

/-! ### A vault command starts (09 R181) -/

theorem Cmd.letsStart_iff (r : Cmd) (b : CmdOp) : r.letsStart b = true ↔
    r.st = .complete ∨ r.op = .nothing ∨ (∃ k, r.st = .parked k) ∨ ∃ f, r.st = .vault f ∧ r.op.spaced b r.done = true := by
  cases hst : r.st <;> simp [Cmd.letsStart, hst]

theorem execVaultCommandStart_starts {s : State} {c : BitVec 4} {d : BitVec 6} {i : BitVec 11} {num : Xword} {x : Cell} {q : Cmd}
    (hx : (s.slot c).ctx.cell? d.toNat i.toNat = some x) (hq : x.cmd? 3 num.toNat = some q) (hop : q.op.isVault = true)
    (hst : q.st = .sent) (hearlier : ∀ r ∈ x.cmds, r.tl = 3 → r.num < q.num → r.letsStart q.op = true)
    (hruns : (s.pdies.get ((s.slot c).phys d.toNat)).tripped = false)
    (hrefresh : s.refreshFirst ((s.slot c).phys d.toNat) i.toNat q.op = false) :
    exec (.vaultCommandStart c d i num) s = .next ((s.vaultStart ((s.slot c).phys d.toNat) i.toNat q.op).onCmd c d.toNat i.toNat 3
      num.toNat fun r => { r with
        st := .vault 0, buf := q.op.taken ((s.pdies.get ((s.slot c).phys d.toNat)).vault i.toNat) }) := by
  have hlets : ((x.cmds.filter fun r => r.tl == 3 && decide (r.num < q.num)).all fun r => r.letsStart q.op) = true := by
    simp only [List.all_eq_true, List.mem_filter, Bool.and_eq_true, beq_iff_eq, decide_eq_true_eq]
    exact fun r ⟨hr, htl, hnum⟩ => hearlier r hr htl hnum
  have hsent : (q.st == .sent) = true := by rw [hst]; rfl
  simp only [exec_vaultCommandStart, execVaultCommandStart, hx, hq, hop, hsent, hlets, hruns, hrefresh, guarded, Bool.not_false,
    Bool.and_self, if_true]

/-! ### Bits found wrong (09 R187) -/

/-- A read finds errors in a burst: those found before stay. -/
theorem Vault.findWrong_eq (v : Vault) (k : BitVec 2) (r : BitVec 12) (b : Nat) (single syn : BitVec 8) (double : Bool) :
    let old := v.wrong.find? fun u => u.bank == k && u.row == r && u.burst == b
    v.findWrong k r b single syn double = ⟨k, r, b, (old.map (·.single)).getD 0 ||| single,
      if single = 0 then (old.map (·.syn)).getD syn else syn, (old.map (·.double)).getD false || double⟩ := by
  intro old
  have hold : (v.wrong.find? fun w => w.isOf k r b) = old := rfl
  rw [Vault.findWrong, hold]
  cases h : old with
  | none => simp
  | some w =>
    obtain ⟨hbank, hrow, hburst⟩ : w.bank = k ∧ w.row = r ∧ w.burst = b := by simpa [and_assoc] using List.find?_some h
    simp only [Option.map_some, Option.getD_some, ← hbank, ← hrow, ← hburst]

/-- R187, log 118: what is wrong with a burst replaces what was. -/
theorem Vault.putWrong_eq (v : Vault) (w : WrongBurst) : v.putWrong w = { v with
    wrong := (if w.single = 0 ∧ w.double = false then [] else [w]) ++
      v.wrong.filter fun u => !(u.bank == w.bank && u.row == w.row && u.burst == w.burst) } := by
  simp only [Vault.putWrong, WrongBurst.isOf, Bool.and_eq_true, decide_eq_true_eq, Bool.not_eq_true']

theorem ofNat_ofBytes_bytesOf (n v : Nat) : BitVec.ofNat (8 * n) (ofBytes (bytesOf n v)) = BitVec.ofNat (8 * n) v := by
  rw [ofBytes_bytesOf, show 256 ^ n = 2 ^ (8 * n) from (Nat.pow_mul 2 8 n).symm]
  exact BitVec.eq_of_toNat_eq (by rw [BitVec.toNat_ofNat, BitVec.toNat_ofNat, Nat.mod_mod])

/-! ### Sendings of a burst (09 R187, R188, 19 R389) -/

section
variable {s : State} {c : BitVec 4} {d i : Nat} {q : Cmd} {k : BitVec 2} {r : BitVec 12} {b n w : Nat} {pad : Option Nat}
variable {single syn : BitVec 8} {double : Bool} {x : WrongBurst}

/-- The state once the errors of a read burst stand in the array. -/
def State.foundWrong (s : State) (c : BitVec 4) (d i : Nat) (x : WrongBurst) : State :=
  s.onVault ((s.slot c).phys d) i fun v => v.putWrong x

section
variable (hw : q.buf[q.done]? = some w) (hx : ((s.pdies.get ((s.slot c).phys d)).vault i).findWrong k r b single syn double = x)
include hw hx

/-- R187: a burst without a double error is delivered, what was corrected recorded. -/
theorem State.readBurst_delivers (heven : w % 2 = 0) (hdouble : x.double = false) :
    s.readBurst c d i q k r b n pad single syn double =
      (if x.single = 0 then s.foundWrong c d i x else (s.foundWrong c d i x).vaultNote c d i k.toNat b r.toNat (q.bsn.getD 0)
        ⟨1, 0, 0, 0, 0, x.single.toNat, x.syn.toNat⟩).burstData c d i q pad n (bytesOf 64 (w / 2)) := by
  simp only [State.readBurst, hw, hx, Option.getD_some, heven, hdouble, Bool.false_eq_true, if_false, Nat.zero_ne_one,
    State.foundWrong]

/-- R187: a double error ends the context. -/
theorem State.readBurst_dies (heven : w % 2 = 0) (hdouble : x.double = true) :
    s.readBurst c d i q k r b n pad single syn double =
      (s.foundWrong c d i x).vaultDeath c d i .uncorrectable (vaultAddr k r b) := by
  simp only [State.readBurst, hw, hx, Option.getD_some, heven, hdouble, if_false, if_true, Nat.zero_ne_one, State.foundWrong]

/-- R186: a burst of an expired row parks, where a park ID is free. -/
theorem State.readBurst_parks (hodd : w % 2 = 1) {id : BitVec 12} {u : State} {info : ReqInfo}
    (hinfo : info = ⟨vaultAddr k r b, q.bsn.getD 0, 3, 0, some ((s.slot c).phys d).toNat, some d, some i, 0, 0, 0xFF⟩)
    (hpark : (s.foundWrong c d i x).parkReq c .vaultExpired (.command d i q.tl q.num) info = (some id, u)) :
    s.readBurst c d i q k r b n pad single syn double = u.setSt c d i q (.parked id) := by
  subst hinfo
  rw [State.foundWrong] at hpark
  simp only [State.readBurst, hw, hx, Option.getD_some, hodd, if_true, hpark]
end

/-- The bytes of a burst are given whole: it has 64 of them. -/
theorem State.burstData_registers (v : Nat) : s.burstData c d i q none n (bytesOf 64 v) =
    (s.onCtx c fun y => y.onCell d i fun z => z.fillHawk q.tl q.num fun _ => BitVec.ofNat 512 v).burstNext c d i q n := by
  have hbytes : BitVec.ofNat 512 (ofBytes (bytesOf 64 v)) = BitVec.ofNat 512 v := ofNat_ofBytes_bytesOf 64 v
  simp only [State.burstData, hbytes]

end

/-- No earlier transfer of the port of `q` is under way. -/
def Cell.PortFree (x : Cell) (q : Cmd) : Prop :=
  ∀ r ∈ x.cmds, r.tl = 3 → r.num < q.num → ∀ f, r.st = .vault f → r.op.transfer.map (·.1) ≠ q.op.transfer.map (·.1)

section
variable {s : State} {c : BitVec 4} {d : BitVec 6} {i : BitVec 11} {num : Xword} {x : Cell} {q : Cmd}
variable {port b n f : Nat} {k : BitVec 2} {r : BitVec 12}

/-- The sending of the burst in hand may end now. -/
structure State.SendingEnds (s : State) (c : BitVec 4) (d : BitVec 6) (i : BitVec 11) (num : Xword) (x : Cell) (q : Cmd) : Prop where
  cell : (s.slot c).ctx.cell? d.toNat i.toNat = some x
  cmd : x.cmd? 3 num.toNat = some q
  runs : (s.pdies.get ((s.slot c).phys d.toNat)).tripped = false
  alone : x.PortFree q
  free : s.burstBarred c d.toNat q = false

/-- The record of the sendings that failed before one that passes (09 R189). -/
def State.retried (s : State) (c : BitVec 4) (d i : Nat) (q : Cmd) (port group b f : Nat) (k : BitVec 2) (r : BitVec 12) : State :=
  if 1 ≤ f ∧ f ≤ 3 then s.vaultNote c d i k.toNat b r.toNat (q.bsn.getD 0) ⟨2, port, group, 0, f, 0, 0⟩ else s
theorem State.retried_records (s : State) (c : BitVec 4) (d i : Nat) (q : Cmd) (port group b f : Nat) (k : BitVec 2) (r : BitVec 12) :
    s.Records (s.retried c d i q port group b f k r) := by
  unfold State.retried
  split
  · exact s.vaultNote_records ..
  · exact .refl s

/-- A transfer of a port is under way. -/
def Cmd.usesPort (r : Cmd) (port : Nat) : Bool :=
  match r.op.transfer, r.st with
  | some (p, _), .vault _ => p == port
  | _, _ => false

/-- Nothing keeps the sending of the burst in hand from ending. -/
theorem State.SendingEnds.goes (hends : s.SendingEnds c d i num x q) (hop : q.op.transfer = some (port, k, r, b, n)) (hf : f ≠ 4) :
    (f = 4 || (x.cmds.any fun r => r.tl == 3 && decide (r.num < q.num) && r.usesPort port) || s.burstBarred c d.toNat q ||
      (s.pdies.get ((s.slot c).phys d.toNat)).tripped) = false := by
  have halone : (x.cmds.any fun r => r.tl == 3 && decide (r.num < q.num) && r.usesPort port) = false := by
    rw [List.any_eq_false]
    rintro u hu husing
    simp only [Bool.and_eq_true, beq_iff_eq, decide_eq_true_eq] at husing
    obtain ⟨⟨htl, hnum⟩, husing⟩ := husing
    unfold Cmd.usesPort at husing
    split at husing
    · rename_i p _ g hport hvault
      exact hends.alone u hu htl hnum g hvault (by rw [hport, hop, Option.map_some, Option.map_some, eq_of_beq husing])
    · exact absurd husing Bool.false_ne_true
  simp only [halone, hends.free, hends.runs, hf, decide_false, Bool.or_self]

variable (hends : s.SendingEnds c d i num x q) (hop : q.op.transfer = some (port, k, r, b, n)) (hst : q.st = .vault f)
include hends hop hst

/-- R188: what a sending does that passes parity. -/
theorem execVaultBurstDone_passes (hf : f ≤ 3 ∨ f = 5) (group : BitVec 1) (single syn : BitVec 8) (double : BitVec 1) :
    exec (.vaultBurstDone c d i num ⟨1, group⟩ single syn double) s =
      .next ((s.retried c d.toNat i.toNat q port group.toNat (b + q.done) f k r).burstPass c d.toNat i.toNat q single syn (double == 1)) := by
  simp only [exec_vaultBurstDone, execVaultBurstDone, State.cmd?_of_cell hends.cell, hends.cmd, hop, hst, hends.cell, Option.any_some]
  exact congrArg _ (((if_neg (Bool.eq_false_iff.mp (hends.goes hop (by omega)))).trans (if_neg (by omega))).trans (if_pos trivial))

/-- R188: what a sending does that fails. -/
theorem execVaultBurstDone_fails (hf : f ≠ 4 ∧ f ≠ 6) (group : BitVec 1) (single syn : BitVec 8) (double : BitVec 1) :
    exec (.vaultBurstDone c d i num ⟨0, group⟩ single syn double) s =
      .next (if f < 3 then s.setSt c d.toNat i.toNat q (.vault (f + 1))
        else if f = 3 then (s.vaultNote c d.toNat i.toNat k.toNat (b + q.done) r.toNat (q.bsn.getD 0)
          ⟨2, port, group.toNat, 1, 3, 0, 0⟩).setSt c d.toNat i.toNat q (.vault 4)
        else s.vaultDeath c d.toNat i.toNat .laneFailure (vaultAddr k r (b + q.done))) := by
  simp only [exec_vaultBurstDone, execVaultBurstDone, State.cmd?_of_cell hends.cell, hends.cmd, hop, hst, hends.cell, Option.any_some]
  exact congrArg _ (((if_neg (Bool.eq_false_iff.mp (hends.goes hop hf.1))).trans (if_neg hf.2)).trans (if_neg (by decide)))
end

/-! ### Parks (13 R255) -/

/-- Fewer than 4,096 parks leave an ID free. -/
theorem State.freeParks_ne_nil {s : State} (h : s.parks.length < 4096) : 0 < s.freeParks.length := by
  refine List.length_pos_iff.mpr fun hnil => ?_
  have hall : ∀ i ∈ List.range 4096, i ∈ s.parks.map fun p => p.id.toNat := by
    intro i hi
    have := List.filter_eq_nil_iff.mp hnil i hi
    simpa using this
  have hle := (List.nodup_range.subperm hall).length_le
  rw [List.length_range, List.length_map] at hle
  omega

theorem State.choose_lt (s : State) {n : Nat} (h : 0 < n) : (s.choose n).1 < n := by
  unfold State.choose
  split
  · exact h
  · exact Nat.mod_lt _ h

theorem State.offer_parks (s : State) (r : TrapRec) : (s.offer r).parks = s.parks ∧ (s.offer r).slots = s.slots := by
  obtain ⟨tq, posted, snap, pend, sent, h⟩ := s.offer_eq r
  rw [h]
  exact ⟨rfl, rfl⟩

/-- R255: a request parks under an ID that no park bears. -/
theorem State.parkReq_parks {s : State} (hstate : s.tq.state ≠ .disabled) (hroom : s.parks.length < 4096) (c : BitVec 4) (cause : Cause)
    (what : ParkOf) (r : ReqInfo) : ∃ id u, s.parkReq c cause what r = (some id, u) ∧ (∀ p ∈ s.parks, p.id ≠ id) ∧
      u.parks = s.parks ++ [⟨id, c, what, r.death cause⟩] ∧ u.slots = s.slots := by
  obtain ⟨j, fresh, hchoose⟩ := s.choose_eq s.freeParks.length
  have hj := s.choose_lt (State.freeParks_ne_nil hroom)
  rw [hchoose] at hj
  cases hid : s.freeParks[j]? with
  | none => exact absurd (List.getElem?_eq_none_iff.mp hid) (Nat.not_le.mpr hj)
  | some n =>
    obtain ⟨hrange, hfree⟩ := List.mem_filter.mp (List.mem_of_getElem? hid)
    obtain ⟨hparks, hslots⟩ := State.offer_parks { s with fresh := fresh }
      (State.parkRec { s with fresh := fresh } c cause (BitVec.ofNat 12 n) r)
    have hreq : ∃ u, s.parkReq c cause what r = (some (BitVec.ofNat 12 n), u) ∧
        u.parks = s.parks ++ [⟨BitVec.ofNat 12 n, c, what, r.death cause⟩] ∧ u.slots = s.slots := by
      simp only [State.parkReq, if_neg hstate, hchoose, hid]
      exact ⟨_, rfl, by rw [hparks], hslots⟩
    obtain ⟨u, hu, hup, hus⟩ := hreq
    refine ⟨_, u, hu, fun p hp heq => ?_, hup, hus⟩
    have hne : p.id.toNat ≠ n := by
      simpa using List.any_eq_false.mp (Bool.not_eq_true' _ |>.mp hfree) p hp
    have hlt : n < 4096 := List.mem_range.mp hrange
    exact hne (by rw [heq, BitVec.toNat_ofNat]; omega)

/-- A command's own standing after it is set. -/
theorem Cell.cmd?_onCmd (x : Cell) (tl : BitVec 2) (num : Nat) {f : Cmd → Cmd} (hf : ∀ r, (f r).tl = r.tl ∧ (f r).num = r.num) :
    (x.onCmd tl num f).cmd? tl num = (x.cmd? tl num).map f := by
  have hkeys : (fun q : Cmd => decide (q.tl = tl) && decide (q.num = num)) ∘ (fun q => if q.tl = tl ∧ q.num = num then f q else q) =
      fun q => decide (q.tl = tl) && decide (q.num = num) := by
    funext q
    by_cases h : q.tl = tl ∧ q.num = num
    · simp only [Function.comp_apply, if_pos h, (hf q).1, (hf q).2]
    · simp only [Function.comp_apply, if_neg h]
  simp only [Cell.cmd?, Cell.onCmd, List.find?_map, hkeys]
  cases h : x.cmds.find? fun q => decide (q.tl = tl) && decide (q.num = num) with
  | none => rfl
  | some q =>
    have hq : q.tl = tl ∧ q.num = num := by simpa using List.find?_some h
    simp only [Option.map_some, if_pos hq]
theorem State.cmd?_setSt {s : State} {c : BitVec 4} {d i : Nat} {q : Cmd} (h : s.cmd? c d i q.tl q.num = some q) (st : CmdSt) :
    (s.setSt c d i q st).cmd? c d i q.tl q.num = some { q with st := st } := by
  obtain ⟨x, hx, hq⟩ := Option.bind_eq_some_iff.mp h
  rw [State.setSt, State.onCmd, State.cmd?, State.slot_onCtx_same, Ctx.cell?_onCell, if_pos ⟨rfl, rfl⟩, hx, Option.map_some,
    Option.bind_some, Cell.cmd?_onCmd (f := fun r => { r with st := st }) _ _ _ fun _ => ⟨rfl, rfl⟩, hq, Option.map_some]

theorem State.cmd?_congr {s t : State} (h : t.slots = s.slots) (c : BitVec 4) (d i : Nat) (tl : BitVec 2) (num : Nat) :
    t.cmd? c d i tl num = s.cmd? c d i tl num := by
  simp only [State.cmd?, State.slot, h]

/-! ### Refreshes (09 R183, 07 R128, R129) -/

/-- A row was last restored, by itself, at a time. -/
def Vault.RestoredAt (v : Vault) (k : BitVec 2) (r : BitVec 12) (time : Nat) : Prop := (v.info? k r).map (·.restored) = some time

theorem Vault.restore_restoredAt (v : Vault) (time : Nat) (short act : Bool) (r : BitVec 12) (j k : BitVec 2)
    (h : j = k ∨ v.RestoredAt k r time) : (v.restore time short act r j).RestoredAt k r time := by
  unfold Vault.RestoredAt Vault.info? Vault.restore Vault.putRow at *
  dsimp only
  by_cases hj : j = k
  · simp [hj]
  · have hother : (fun a : RowInfo => decide ((!(a.bank == j && a.row == r)) = true ∧ (a.bank == k && a.row == r) = true)) =
        fun a => a.bank == k && a.row == r := by
      funext a
      by_cases ha : a.bank = k
      · simp [ha, Ne.symm hj, beq_eq_decide]
      · simp [ha]
    rw [List.find?_cons_of_neg (by simp [hj]), List.find?_filter, hother]
    exact h.resolve_left hj

/-- R183: a refresh restores the row of every bank of a list. -/
theorem Vault.foldl_restore (time : Nat) (act : Bool) (r : BitVec 12) (k : BitVec 2) (l : List (BitVec 2)) : ∀ v : Vault,
    k ∈ l ∨ v.RestoredAt k r time →
    (l.foldl (fun v j => v.restore time (v.isShort j r) act r j) v).RestoredAt k r time := by
  induction l with
  | nil => exact fun _ h => h.resolve_left List.not_mem_nil
  | cons j l ih =>
    intro v h
    refine ih _ ?_
    rcases h with h | h
    · rcases List.mem_cons.mp h with rfl | h
      · exact .inr (v.restore_restoredAt _ _ _ _ _ _ (.inl rfl))
      · exact .inl h
    · exact .inr (v.restore_restoredAt _ _ _ _ _ _ (.inr h))

theorem mem_allBanks : ∀ k : BitVec 2, k ∈ allBanks := by decide

/-- R183: the row of an index, refreshed in every bank. -/
def Vault.refreshRow (v : Vault) (time : Nat) (r : BitVec 12) : Vault :=
  allBanks.foldl (fun v k => v.restore time (v.isShort k r) false r k) v
theorem Vault.refreshRow_cell (v : Vault) (time : Nat) (r : BitVec 12) : (v.refreshRow time r).cell = v.cell := rfl
theorem Vault.refreshRow_restoredAt (v : Vault) (time : Nat) (r : BitVec 12) (k : BitVec 2) :
    (v.refreshRow time r).RestoredAt k r time :=
  Vault.foldl_restore time false r k allBanks v (.inl (mem_allBanks k))

/-- R181, R183: a refresh takes 40 cycles, and 14 before it where a bank stands open. -/
theorem Vault.refreshCycles_eq (v : Vault) [Decidable (∃ b, v.isOpen.get b ≠ none)] :
    v.refreshCycles = if ∃ b, v.isOpen.get b ≠ none then 54 else 40 := by
  have hopen : (allBanks.any fun k => (v.isOpen.get k).isSome) = true ↔ ∃ b, v.isOpen.get b ≠ none := by
    simp only [List.any_eq_true, Option.isSome_iff_ne_none]
    exact ⟨fun ⟨b, _, h⟩ => ⟨b, h⟩, fun ⟨b, h⟩ => ⟨b, mem_allBanks b, h⟩⟩
  simp only [Vault.refreshCycles, hopen]
  split <;> rfl

/-- Dies held until a time. -/
def State.holdUntil (s : State) (l : List (BitVec 6)) (til : Nat) : State :=
  l.foldl (fun s p => s.onPdie p fun q => { q with holdTo := max q.holdTo til }) s
theorem State.holdUntil_get (l : List (BitVec 6)) (til : Nat) (e : BitVec 6) : ∀ s : State,
    (s.holdUntil l til).pdies.get e =
      { s.pdies.get e with holdTo := if e ∈ l then max (s.pdies.get e).holdTo til else (s.pdies.get e).holdTo } := by
  induction l with
  | nil => exact fun _ => rfl
  | cons a l ih =>
    intro s
    rw [State.holdUntil, List.foldl_cons]
    refine (ih _).trans ?_
    by_cases ha : e = a
    · subst ha
      simp only [State.onPdie, RegFile.get_put_same, List.mem_cons, true_or, if_true]
      split <;> simp
    · simp only [State.onPdie, RegFile.get_put_ne _ _ ha, List.mem_cons, ha, false_or]
theorem State.holdUntil_eq (s : State) (l : List (BitVec 6)) (til : Nat) : ∃ pdies, s.holdUntil l til = { s with pdies := pdies } :=
  State.foldl_pdies (fun _ _ => ⟨_, rfl⟩) l s

/-- The latest of a time and those of some dies. -/
theorem foldl_max_spec {α : Type} (g : α → Nat) (l : List α) : ∀ m : Nat,
    m ≤ l.foldl (fun m p => max m (g p)) m ∧ (∀ e ∈ l, g e ≤ l.foldl (fun m p => max m (g p)) m) ∧
    ((∀ e ∈ l, g e ≤ m) → l.foldl (fun m p => max m (g p)) m = m) := by
  induction l with
  | nil => exact fun m => ⟨le_rfl, by simp, fun _ => rfl⟩
  | cons a l ih =>
    intro m
    obtain ⟨hm, hl, heq⟩ := ih (max m (g a))
    refine ⟨(le_max_left _ _).trans hm, ?_, fun h => ?_⟩
    · exact List.forall_mem_cons.mpr ⟨(le_max_right _ _).trans hm, hl⟩
    · obtain ⟨ha, hr⟩ := List.forall_mem_cons.mp h
      rw [List.foldl_cons, max_eq_left ha] at *
      exact heq hr

/-- The physical dies that a refresh at a die of a context holds, and the picoseconds of a cycle of theirs (07 R128, R129). -/
def Slot.refreshDies (x : Slot) (d : Nat) : List (BitVec 6) := if x.ctx.fixed then x.pdies else [x.phys d]
def Ctx.cyclePs (y : Ctx) : Nat := if y.fixed then 500 else 400

theorem Ctx.cyclePs_pos (y : Ctx) : 0 < y.cyclePs := by
  unfold Ctx.cyclePs
  split <;> decide

/-- Cycles of a hold count (R129). -/
def Ctx.countHold (y : Ctx) (n : Nat) : Ctx := { y with holdCyc := y.holdCyc + BitVec.ofNat 64 n }

theorem State.heldFirst_congr {s t : State} (hslots : t.slots = s.slots)
    (htripped : ∀ p, (t.pdies.get p).tripped = (s.pdies.get p).tripped) (c : BitVec 4) (d : Nat) :
    t.heldFirst c d = s.heldFirst c d := by
  have hslot : t.slot c = s.slot c := by rw [State.slot, hslots, State.slot]
  simp only [State.heldFirst, State.tripped, hslot, htripped]

/-- R183: a refresh holds its dies to their time, and counts the cycles that no earlier refresh holds. -/
theorem State.refreshHold_spec (s : State) (c : BitVec 4) (d least held : Nat) :
    let x := s.slot c
    let til := s.time + max least held * x.ctx.cyclePs
    let t := s.refreshHold c d least held
    ((∀ e ∈ x.refreshDies d, (s.pdies.get e).holdTo ≤ s.time) → (t.slot c).ctx.holdCyc =
      x.ctx.holdCyc + BitVec.ofNat 64 (if s.heldFirst c d then held else max least held)) ∧
    ((∃ e ∈ x.refreshDies d, til ≤ (s.pdies.get e).holdTo) → (t.slot c).ctx.holdCyc = x.ctx.holdCyc) ∧
    (∀ e, t.pdies.get e = { s.pdies.get e with
      holdTo := if e ∈ x.refreshDies d then max (s.pdies.get e).holdTo til else (s.pdies.get e).holdTo }) ∧
    t.hbm = s.hbm ∧ t.host = s.host := by
  intro x til t
  obtain ⟨pdies, hpdies⟩ := s.holdUntil_eq (x.refreshDies d) til
  have hfirst : (s.holdUntil (x.refreshDies d) til).heldFirst c d = s.heldFirst c d :=
    State.heldFirst_congr (by rw [hpdies]) (fun p => by rw [State.holdUntil_get]) c d
  obtain ⟨-, hlate, hnow⟩ := foldl_max_spec (fun p => (s.pdies.get p).holdTo) (x.refreshDies d) s.time
  generalize hseen : (x.refreshDies d).foldl (fun m p => max m (s.pdies.get p).holdTo) s.time = seen at hlate hnow
  obtain ⟨n, hn⟩ : ∃ n, n = (til - seen) / x.ctx.cyclePs := ⟨_, rfl⟩
  have ht : t = (s.holdUntil (x.refreshDies d) til).onCtx c (·.countHold (if s.heldFirst c d then min held n else n)) := by
    rw [hn, ← hfirst, ← hseen]
    rfl
  have hslot : (s.holdUntil (x.refreshDies d) til).slot c = x := by rw [hpdies]; rfl
  have hcyc : (t.slot c).ctx.holdCyc = x.ctx.holdCyc + BitVec.ofNat 64 (if s.heldFirst c d then min held n else n) := by
    rw [ht, State.slot_onCtx_same, hslot]
    rfl
  refine ⟨fun h => ?_, fun ⟨e, he, hle⟩ => ?_, fun e => ?_, ?_, ?_⟩
  · have hcycles : n = max least held := by
      rw [hn, hnow h, Nat.add_sub_cancel_left, Nat.mul_div_cancel _ x.ctx.cyclePs_pos]
    rw [hcyc, hcycles, min_eq_left (le_max_right _ _)]
  · have hnone : n = 0 := by rw [hn, Nat.sub_eq_zero_of_le (hle.trans (hlate e he)), Nat.zero_div]
    rw [hcyc, hnone, Nat.min_zero, ite_self]
    exact BitVec.add_zero _
  · rw [ht, State.onCtx_pdies, State.holdUntil_get]
  · rw [ht, State.onCtx_hbm, hpdies]
  · rw [ht, State.onCtx_host, hpdies]

/-- A die after a vault is changed: but for its vaults it is as it was. -/
theorem State.onVault_get (s : State) (p : BitVec 6) (i : Nat) (f : Vault → Vault) (e : BitVec 6) :
    ∃ l, (s.onVault p i f).pdies.get e = { s.pdies.get e with vaults := l } := by
  by_cases he : e = p
  · subst he
    exact ⟨_, RegFile.get_put_same _ _ _⟩
  · exact ⟨(s.pdies.get e).vaults, RegFile.get_put_ne _ _ he⟩

/-- R183: an emergency refresh restores the row's index and holds the die or the set, with a record. -/
theorem execEmergencyRefresh_holds {s : State} {c : BitVec 4} {d : Nat} {p : BitVec 6} {i : BitVec 11} {r : BitVec 12} {k : BitVec 2}
    (howner : (s.pdies.get p).owner = some c) (hd : d < (s.slot c).n) (hp : (s.slot c).phys d = p)
    (honly : ∀ e, e < (s.slot c).n → (s.slot c).phys e = p → e = d) (hself : s.selfRefreshing p = false)
    (hlate : s.lateRow p i.toNat r = some k) (held : Xword) :
    ∃ u, (s.onVault p i.toNat fun v => v.refreshRow s.time r).Records u ∧ exec (.emergencyRefresh p i r held) s =
      .next (u.refreshHold c d ((s.pdies.get p).vault i.toNat).refreshCycles held.toNat) := by
  have hfind : (List.range (s.slot c).n).find? (fun d => (s.slot c).phys d == p) = some d := by
    cases h : (List.range (s.slot c).n).find? fun d => (s.slot c).phys d == p with
    | none => exact absurd (List.find?_eq_none.mp h d (List.mem_range.mpr hd)) (by simp [hp])
    | some e =>
      rw [honly e (List.mem_range.mp (List.mem_of_find?_eq_some h)) (by simpa using List.find?_some h)]
  refine ⟨_, State.vaultNote_records _ c d i.toNat k.toNat 0 r.toNat 0 ⟨4, 0, 0, 0, 0, 0, 0⟩, ?_⟩
  simp only [exec_emergencyRefresh, execEmergencyRefresh, howner, hlate, hself, hfind, Bool.false_eq_true, if_false]
  rfl

/-- R129, R183: what an emergency refresh leaves: the cycles counted, the time that its dies are held to, the rows restored. -/
theorem execEmergencyRefresh_spec {s : State} {c : BitVec 4} {d : Nat} {p : BitVec 6} {i : BitVec 11} {r : BitVec 12} {k : BitVec 2}
    (howner : (s.pdies.get p).owner = some c) (hd : d < (s.slot c).n) (hp : (s.slot c).phys d = p)
    (honly : ∀ e, e < (s.slot c).n → (s.slot c).phys e = p → e = d) (hself : s.selfRefreshing p = false)
    (hlate : s.lateRow p i.toNat r = some k) (held : Xword) :
    let x := s.slot c
    let cycles := max ((s.pdies.get p).vault i.toNat).refreshCycles held.toNat
    let til := s.time + cycles * x.ctx.cyclePs
    ∃ t, exec (.emergencyRefresh p i r held) s = .next t ∧
      ((∀ e ∈ x.refreshDies d, (s.pdies.get e).holdTo ≤ s.time) → (t.slot c).ctx.holdCyc =
        x.ctx.holdCyc + BitVec.ofNat 64 (if s.heldFirst c d then held.toNat else cycles)) ∧
      ((∃ e ∈ x.refreshDies d, til ≤ (s.pdies.get e).holdTo) → (t.slot c).ctx.holdCyc = x.ctx.holdCyc) ∧
      (∀ e ∈ x.refreshDies d, (t.pdies.get e).holdTo = max (s.pdies.get e).holdTo til) ∧ t.hbm = s.hbm ∧ t.host = s.host ∧
      ∀ b, ((t.pdies.get p).vault i.toNat).RestoredAt b r s.time := by
  intro x cycles til
  obtain ⟨u, hrec, hexec⟩ := execEmergencyRefresh_holds howner hd hp honly hself hlate held
  have hdie : ∀ e, ∃ l, u.pdies.get e = { s.pdies.get e with vaults := l } := hrec.pdies ▸ s.onVault_get p i.toNat _
  have hhold : ∀ e, (u.pdies.get e).holdTo = (s.pdies.get e).holdTo := fun e => by
    obtain ⟨l, hl⟩ := hdie e
    rw [hl]
  have hfirst : u.heldFirst c d = s.heldFirst c d := State.heldFirst_congr (s := s) hrec.slots (fun e => by
    obtain ⟨l, hl⟩ := hdie e
    rw [hl]) c d
  have hslot : u.slot c = x := hrec.slot c
  have htime : u.time = s.time := hrec.time
  have hvault : (u.pdies.get p).vault i.toNat = ((s.pdies.get p).vault i.toNat).refreshRow s.time r := by
    rw [hrec.pdies]
    exact s.vault_onVault p i.toNat fun z => z.refreshRow_cell s.time r
  obtain ⟨hcounts, hheld, hdies, hhbm, hhost⟩ := u.refreshHold_spec c d ((s.pdies.get p).vault i.toNat).refreshCycles held.toNat
  rw [hslot, htime] at hcounts hheld hdies
  simp only [hhold, hfirst] at hcounts hheld
  refine ⟨_, hexec, hcounts, hheld, fun e he => ?_, hhbm.trans hrec.hbm, hhost.trans hrec.host, fun b => ?_⟩
  · rw [hdies]
    exact (if_pos he).trans (by rw [hhold])
  · have hrow := Vault.refreshRow_restoredAt ((s.pdies.get p).vault i.toNat) s.time r b
    rw [← hvault] at hrow
    rw [hdies]
    exact hrow

/-- R389: a written burst takes its bytes from the scratchpad as they stand, or from its command. -/
theorem State.burstPass_write {s : State} {c : BitVec 4} {d i : Nat} {x : Cell} {q : Cmd} {k : BitVec 2} {r : BitVec 12} {b n : Nat}
    {o : Option Nat} {data : List Byte} (hop : q.op = .vwr k r b n o data) (hx : (s.slot c).ctx.cell? d i = some x)
    (single syn : BitVec 8) (double : Bool) : s.burstPass c d i q single syn double =
      s.writeBurst c d i q k r (b + q.done) n (o.elim data fun a => x.pad.bytes (a + 64 * q.done) 64) := by
  simp only [State.burstPass, hop, hx]
  cases o <;> rfl

/-! ### The lane test (09 R188) -/

section
variable {s : State} {c : BitVec 4} {d : BitVec 6} {i : BitVec 11} {num : Xword} {x : Cell} {q : Cmd}
variable {port b n : Nat} {k : BitVec 2} {r : BitVec 12}
variable (hx : (s.slot c).ctx.cell? d.toNat i.toNat = some x) (hq : x.cmd? 3 num.toNat = some q)
variable (hop : q.op.transfer = some (port, k, r, b, n)) (hst : q.st = .vault 4)
variable (hruns : (s.pdies.get ((s.slot c).phys d.toNat)).tripped = false)
include hx hq hop hst hruns

theorem execLanetestDone_swaps {group : BitVec 1}
    (hspare : ((s.pdies.get ((s.slot c).phys d.toNat)).vault i.toNat).spare.get (BitVec.ofNat 2 (2 * port + group.toNat)) = none)
    (lane : BitVec 5) : ∃ u, (s.onVault ((s.slot c).phys d.toNat) i.toNat fun v =>
      { v with spare := v.spare.put (BitVec.ofNat 2 (2 * port + group.toNat)) (some lane) }).Records u ∧
    exec (.lanetestDone c d i num 1 group lane) s = .next (u.setSt c d.toNat i.toNat q (.vault 5)) := by
  refine ⟨_, State.vaultNote_records _ c d.toNat i.toNat k.toNat (b + q.done) r.toNat (q.bsn.getD 0)
    ⟨3, port, group.toNat, 0, lane.toNat, 0, 0⟩, ?_⟩
  simp only [exec_lanetestDone, execLanetestDone, State.cmd?_of_cell hx, hq, hop, hst, hruns, hspare, Bool.false_eq_true, if_false,
    Option.isNone_none, and_self, if_true]

theorem execLanetestDone_dies {found group : BitVec 1}
    (h : found = 0 ∨ ((s.pdies.get ((s.slot c).phys d.toNat)).vault i.toNat).spare.get (BitVec.ofNat 2 (2 * port + group.toNat)) ≠ none)
    (lane : BitVec 5) : exec (.lanetestDone c d i num found group lane) s =
      .next (s.vaultDeath c d.toNat i.toNat .laneFailure (vaultAddr k r (b + q.done))) := by
  have hno : ¬(found = 1 ∧ (((s.pdies.get ((s.slot c).phys d.toNat)).vault i.toNat).spare.get
      (BitVec.ofNat 2 (2 * port + group.toNat))).isNone = true) := by
    rintro ⟨rfl, hnone⟩
    exact h.elim (by decide) fun hsome => hsome (Option.isNone_iff_eq_none.mp hnone)
  simp only [exec_lanetestDone, execLanetestDone, State.cmd?_of_cell hx, hq, hop, hst, hruns, hno, Bool.false_eq_true, if_false]
end

/-! ### A sending of a burst that passes parity (09 R186, R187, 19 R389) -/

section
variable {s : State} {c : BitVec 4} {d : BitVec 6} {i : BitVec 11} {num : Xword} {x : Cell} {q : Cmd}
variable {k : BitVec 2} {r : BitVec 12} {b n f w : Nat} {o : Option Nat} {group : BitVec 1}
variable {single syn : BitVec 8} {double : BitVec 1} {all : WrongBurst} {t : State}

section
variable (hends : s.SendingEnds c d i num x q) (hop : q.op = .vrd k r b n o) (hst : q.st = .vault f) (hf : f ≤ 3 ∨ f = 5)
variable (hw : q.buf[q.done]? = some w)
variable (hall : ((s.pdies.get ((s.slot c).phys d.toNat)).vault i.toNat).findWrong k r (b + q.done) single syn (double == 1) = all)
variable (ht : (s.retried c d.toNat i.toNat q 0 group.toNat (b + q.done) f k r).foundWrong c d.toNat i.toNat all = t)
include hends hop hst hf hw hall ht

theorem execVaultBurstDone_delivers (heven : w % 2 = 0) (hdouble : all.double = false) :
    exec (.vaultBurstDone c d i num ⟨1, group⟩ single syn double) s =
      .next ((if all.single = 0 then t else t.vaultNote c d.toNat i.toNat k.toNat (b + q.done) r.toNat (q.bsn.getD 0)
        ⟨1, 0, 0, 0, 0, all.single.toNat, all.syn.toNat⟩).burstData c d.toNat i.toNat q o n (bytesOf 64 (w / 2))) := by
  have hrec := s.retried_records c d.toNat i.toNat q 0 group.toNat (b + q.done) f k r
  rw [execVaultBurstDone_passes hends (by rw [hop]; rfl) hst hf]
  simp only [State.burstPass, hop]
  rw [State.readBurst_delivers hw (by rw [hrec.slot, hrec.pdies]; exact hall) heven hdouble, ht]

theorem execVaultBurstDone_dies (heven : w % 2 = 0) (hdouble : all.double = true) :
    exec (.vaultBurstDone c d i num ⟨1, group⟩ single syn double) s =
      .next (t.vaultDeath c d.toNat i.toNat .uncorrectable (vaultAddr k r (b + q.done))) := by
  have hrec := s.retried_records c d.toNat i.toNat q 0 group.toNat (b + q.done) f k r
  rw [execVaultBurstDone_passes hends (by rw [hop]; rfl) hst hf]
  simp only [State.burstPass, hop]
  rw [State.readBurst_dies hw (by rw [hrec.slot, hrec.pdies]; exact hall) heven hdouble, ht]

/-- R186, R255: a burst of an expired row parks its command. -/
theorem execVaultBurstDone_parks (hodd : w % 2 = 1) (hstate : s.tq.state ≠ .disabled) (hroom : s.parks.length < 4096) :
    ∃ u id z, exec (.vaultBurstDone c d i num ⟨1, group⟩ single syn double) s = .next u ∧ (∀ y ∈ s.parks, y.id ≠ id) ∧
      u.parks = s.parks ++ [z] ∧ z.id = id ∧ z.slot = c ∧ (u.cmd? c d.toNat i.toNat 3 num.toNat).map (·.st) = some (.parked id) := by
  have hrec := s.retried_records c d.toNat i.toNat q 0 group.toNat (b + q.done) f k r
  have htq : t.tq.state = s.tq.state := by rw [← ht]; exact hrec.tqState
  have hparks : t.parks = s.parks := by rw [← ht]; exact hrec.parks
  have hslots : t.slots = s.slots := by rw [← ht]; exact hrec.slots
  obtain ⟨id, z, hpark, hnew, hlist, hsame⟩ := State.parkReq_parks (s := t) (by rwa [htq]) (by rwa [hparks]) c .vaultExpired
    (.command d.toNat i.toNat q.tl q.num)
    ⟨vaultAddr k r (b + q.done), q.bsn.getD 0, 3, 0, some ((s.slot c).phys d.toNat).toNat, some d.toNat, some i.toNat, 0, 0, 0xFF⟩
  obtain ⟨-, htl, hnum⟩ := Cell.cmd?_spec hends.cmd
  have hcmd : z.cmd? c d.toNat i.toNat q.tl q.num = some q := by
    rw [State.cmd?_congr (hsame.trans hslots), State.cmd?_of_cell hends.cell, htl, hnum, hends.cmd]
  have hparked := State.cmd?_setSt hcmd (.parked id)
  rw [htl, hnum] at hparked
  refine ⟨z.setSt c d.toNat i.toNat q (.parked id), id, _, ?_, hparks ▸ hnew, hparks ▸ hlist, rfl, rfl, by rw [hparked]; rfl⟩
  rw [execVaultBurstDone_passes hends (by rw [hop]; rfl) hst hf]
  simp only [State.burstPass, hop]
  rw [State.readBurst_parks hw (by rw [hrec.slot, hrec.pdies]; exact hall) hodd (by rw [hrec.slot]) (ht ▸ hpark)]
end

theorem execVaultBurstDone_writes {data : List Byte} (hends : s.SendingEnds c d i num x q) (hop : q.op = .vwr k r b n o data)
    (hst : q.st = .vault f) (hf : f ≤ 3 ∨ f = 5) : exec (.vaultBurstDone c d i num ⟨1, group⟩ single syn double) s =
      .next ((s.retried c d.toNat i.toNat q 1 group.toNat (b + q.done) f k r).writeBurst c d.toNat i.toNat q k r (b + q.done) n
        (o.elim data fun a => x.pad.bytes (a + 64 * q.done) 64)) := by
  have hrec := s.retried_records c d.toNat i.toNat q 1 group.toNat (b + q.done) f k r
  rw [execVaultBurstDone_passes hends (by rw [hop]; rfl) hst hf, State.burstPass_write hop (by rw [hrec.slot]; exact hends.cell)]
end

/-- Settles O36: each event of the vaults, from the one lemma about what it does; what a record changes is the trap queue alone. -/
theorem vaultsPerform : Obligations.VaultsPerform := by
  unfold Obligations.VaultsPerform
  intro s c d i num x q hx hq p v place set running burst note alone others after onward
  refine ⟨?start, ?read, ?write, ?fails, ?lanetest, ?selfRefresh, ?emergency⟩
  case start =>
    intro hop hst hearlier hruns hrefresh
    rw [execVaultCommandStart_starts hx hq hop hst (fun r hr htl hnum => (r.letsStart_iff q.op).mpr (hearlier r hr htl hnum)) hruns
      hrefresh]
    cases q.op <;> rfl
  case read =>
    intro k r b n o f group single syn double w hop hst hf hruns halone hfree hw old all t
    have hends : s.SendingEnds c d i num x q := ⟨hx, hq, hruns, halone, hfree⟩
    have hall := v.findWrong_eq k r (b + q.done) single syn (double == 1)
    have hrec := s.retried_records c d.toNat i.toNat q 0 group.toNat (b + q.done) f k r
    have ht : (s.retried c d.toNat i.toNat q 0 group.toNat (b + q.done) f k r).foundWrong c d.toNat i.toNat all = t := by
      rw [State.foundWrong, hrec.slot]
      exact congrArg _ (funext fun z => z.putWrong_eq all)
    refine ⟨fun heven hdouble => ?_, execVaultBurstDone_dies hends hop hst hf hw hall ht,
      execVaultBurstDone_parks hends hop hst hf hw hall ht⟩
    refine (execVaultBurstDone_delivers hends hop hst hf hw hall ht heven hdouble).trans (congrArg _ ?_)
    cases o with
    | none => exact State.burstData_registers (w / 2)
    | some a => rfl
  case write =>
    intro k r b n o data f group single syn double hop hst hf hruns halone hfree
    have hrec := s.retried_records c d.toNat i.toNat q 1 group.toNat (b + q.done) f k r
    refine (execVaultBurstDone_writes ⟨hx, hq, hruns, halone, hfree⟩ hop hst hf).trans ?_
    rw [State.writeBurst, hrec.slot]
    cases o <;> rfl
  case fails =>
    intro port k r b n f group single syn double hop hst hruns halone hfree
    have hfails := fun hf => execVaultBurstDone_fails ⟨hx, hq, hruns, halone, hfree⟩ hop hst hf group single syn double
    exact ⟨fun hf => (hfails (by omega)).trans (congrArg _ (if_pos hf)),
      fun hf => (hfails (by omega)).trans (congrArg _ ((if_neg (by omega)).trans (if_pos hf))),
      fun hf => (hfails (by omega)).trans (congrArg _ ((if_neg (by omega)).trans (if_neg (by omega))))⟩
  case lanetest =>
    intro port k r b n group lane hop hst hruns g
    refine ⟨fun hspare => ?_, fun found h => execLanetestDone_dies hx hq hop hst hruns h lane⟩
    obtain ⟨u, hrec, hexec⟩ := execLanetestDone_swaps hx hq hop hst hruns hspare lane
    have hvault := s.vault_onVault p i.toNat (f := fun v => { v with spare := v.spare.put g (some lane) }) fun _ => rfl
    refine ⟨u, hexec, ?_, hrec.slots, hrec.hbm⟩
    rw [hrec.pdies, hvault]
    exact RegFile.get_put_same _ _ _
  case selfRefresh =>
    intro hself
    simp only [exec_selfRefresh, execSelfRefresh, guarded, hself, if_true]
  case emergency =>
    intro r k held howner hd honly hself hlate y cycles til dies
    have hcycles : max v.refreshCycles held.toNat = cycles := congrArg (max · held.toNat) v.refreshCycles_eq
    have hspec := execEmergencyRefresh_spec howner hd rfl honly hself hlate held
    rw [hcycles] at hspec
    exact hspec

end Sys2Proof.Machine

namespace Sys2Proof.Machine
open Sys2Proof

/-! ### Cell scalars and activity (16 R330, 06 R116, R331) -/

/-- A cell scalar instruction writes its value, in whatever words that value is put. -/
theorem scalarOf_scalarOp {i : Instr} {d : BitVec 4} {g f : Cell → Word} (hi : ∀ s, exec i s = onCells (scalarOp d g) s)
    (hf : ∀ p, g p = f p) : ActsOnCells i anyCell (ScalarOf d fun _ p => f p) := by
  obtain rfl : g = f := funext hf
  exact scalarOf_op hi

theorem shiftLeft_eq_ofNat (x : Word) (n : Nat) : x <<< n = BitVec.ofNat 32 (x.toNat * 2 ^ n) :=
  BitVec.eq_of_toNat_eq (by simp [Nat.shiftLeft_eq])
theorem ushiftRight_eq_ofNat (x : Word) (n : Nat) : x >>> n = BitVec.ofNat 32 (x.toNat / 2 ^ n) := by
  refine BitVec.eq_of_toNat_eq ?_
  rw [BitVec.toNat_ushiftRight, Nat.shiftRight_eq_div_pow, BitVec.toNat_ofNat,
    Nat.mod_eq_of_lt (Nat.lt_of_le_of_lt (Nat.div_le_self _ _) x.isLt)]
theorem sshiftRight_eq_ofInt (x : Word) (n : Nat) : x.sshiftRight n = BitVec.ofInt 32 (x.toInt / 2 ^ n) := by
  rw [BitVec.sshiftRight, Int.shiftRight_eq_div_pow]
  norm_cast

/-- R330: BCMP writes its comparison into its condition bit. -/
theorem bcmp_compares (k : BitVec 2) (a b : BitVec 4) (c : BitVec 2) :
    ActsOnCells (.bcmp k a b c) anyCell (IfActive fun _ p q q' => OnlyC k q q' ∧
      (q'.c.get k = true ↔
        if c = 0 then p.getB a = p.getB b else if c = 1 then p.getB a ≠ p.getB b
        else if c = 2 then (p.getB a).toInt < (p.getB b).toInt else (p.getB a).toNat < (p.getB b).toNat)) := by
  refine actsOnCells_pure (fun _ => rfl) fun _ p q _ => ⟨onlyC_setC q k _, ?_⟩
  have hfour : ∀ c : BitVec 2, c = 0 ∨ c = 1 ∨ c = 2 ∨ c = 3 := by decide
  simp only [Cell.setC, RegFile.get_put_same]
  rcases hfour c with rfl | rfl | rfl | rfl
  · exact beq_iff_eq
  · exact bne_iff_ne
  · exact BitVec.slt_iff_toInt_lt
  · exact BitVec.ult_iff_lt

/-- R116, R331: VPUSHACT where the stack has room. -/
theorem vpushact_pushes (k : BitVec 2) :
    ActsOnCells (.vpushact k) (fun _ p _ => p.stack.length ≠ 8) fun _ p q q' =>
      q' = { q with stack := p.act :: p.stack, act := p.act && p.c.get k } :=
  actsOnCells_of (fun _ => rfl) fun _ _ _ h => ⟨_, if_neg h, rfl⟩

/-- R331: a ninth push. -/
theorem vpushact_overflows (k : BitVec 2) :
    RaisesInCells (.vpushact k) (fun _ p _ => p.stack.length = 8) fun _ _ _ => ⟨.activityOverflow, 0xFF, 8⟩ :=
  raisesInCells_of (fun _ => rfl) fun _ _ _ h => if_pos h

/-- R116, R331: VELSE under the top of the stack. -/
theorem velse_turns : ActsOnCells .velse (fun _ p _ => p.stack ≠ []) fun _ p q q' =>
    ∃ top r, p.stack = top :: r ∧ q' = { q with act := top && !p.act } := by
  refine actsOnCells_of (fun _ => rfl) fun _ p q h => ?_
  obtain ⟨top, r, hs⟩ := List.exists_cons_of_ne_nil h
  exact ⟨_, by simp only [hs], top, r, hs, rfl⟩

/-- R116, R331: VPOPACT takes A from the stack. -/
theorem vpopact_pops : ActsOnCells .vpopact (fun _ p _ => p.stack ≠ []) fun _ p q q' =>
    ∃ top r, p.stack = top :: r ∧ q' = { q with act := top, stack := r } := by
  refine actsOnCells_of (fun _ => rfl) fun _ p q h => ?_
  obtain ⟨top, r, hs⟩ := List.exists_cons_of_ne_nil h
  exact ⟨_, by simp only [hs], top, r, hs, rfl⟩

/-- R331: VELSE and VPOPACT on an empty stack. -/
theorem activity_underflows (i : Instr) (hi : i = .velse ∨ i = .vpopact) :
    RaisesInCells i (fun _ p _ => p.stack = []) fun _ _ _ => ⟨.activityUnderflow, 0xFF, 0⟩ := by
  rcases hi with rfl | rfl <;> refine raisesInCells_of (fun _ => rfl) fun _ p _ h => ?_ <;> simp only [h] <;> rfl

/-- Settles O12: the scalars by the one lemma about their results, the activity stack by whether it has room. -/
theorem cellScalarsAndActivity : Obligations.CellScalarsAndActivity := by
  refine ⟨fun d a b e c k => ⟨?badd, ?bsub, ?bmul, ?bshl, ?bshr, ?bsra, ?baddi, ?band, ?bor, ?bxor, ?bmov, ?bli, ?bcmp⟩,
    fun k => ⟨vpushact_pushes k, vpushact_overflows k⟩, velse_turns, vpopact_pops, activity_underflows⟩
  case bshl => exact scalarOf_scalarOp (fun _ => rfl) fun p => shiftLeft_eq_ofNat (p.getB a) (p.getB b).toNat
  case bshr => exact scalarOf_scalarOp (fun _ => rfl) fun p => ushiftRight_eq_ofNat (p.getB a) (p.getB b).toNat
  case bsra => exact scalarOf_scalarOp (fun _ => rfl) fun p => sshiftRight_eq_ofInt (p.getB a) (p.getB b).toNat
  case bcmp => exact bcmp_compares k a b c
  all_goals exact scalarOf_scalarOp (fun _ => rfl) fun _ => rfl

end Sys2Proof.Machine

namespace Sys2Proof.Machine
open Sys2Proof

/-! ### Scratchpads: offsets, checks, reads and stores (08 R151-R159, R469) -/

theorem padBase_eq (c : Cell) (a : BitVec 4) (x : Option Word) :
    padBase c a x = ((c.getB a).toNat : Int) + (x.map fun (w : Word) => w.toInt).getD 0 := by
  cases x <;> rfl

/-- An access of `n` bytes at an unbounded offset lies within the scratchpad. -/
def InsidePad (o : Int) (n : Nat) : Prop := 0 ≤ o ∧ o + n ≤ 131072
/-- An access of `n` bytes at an unbounded offset touches a guarded range. -/
def Touches (o : Int) (n : Nat) (g : GuardEntry) : Prop := o ≤ g.hi ∧ (g.lo : Int) < o + n

theorem detail_nil : detail [] = 0 := rfl
theorem detail_cons (i a : Nat) (l : List (Nat × Nat)) : detail ((i, a) :: l) = a * 2 ^ (8 * i) + detail l := rfl
/-- The detail of an early touch (R254). -/
theorem detail_four (a b c d : Nat) : detail [(0, a), (4, b), (8, c), (12, d)] = a + b * 2 ^ 32 + c * 2 ^ 64 + d * 2 ^ 96 := by
  rw [detail_cons, detail_cons, detail_cons, detail_cons, detail_nil, Nat.add_zero, Nat.mul_zero, pow_zero, Nat.mul_one,
    Nat.add_assoc, Nat.add_assoc]

/-- R151: an access that leaves the scratchpad. -/
theorem padCheck_range {c : Cell} {l : Nat} {o : Int} {n al : Nat} (h : ¬InsidePad o n) :
    padCheck c l o n al = some ⟨.padRange, l, wrapN 32 o⟩ := by
  have hout : o < 0 ∨ (padSize : Int) < o + n := by unfold InsidePad at h; unfold padSize; omega
  simp [padCheck, hout, laneFault, detail]

/-- R151: an access within the scratchpad whose offset is not aligned. -/
theorem padCheck_misaligned {c : Cell} {l : Nat} {o : Int} {n al : Nat} (h : InsidePad o n) (ha : o % al ≠ 0) :
    padCheck c l o n al = some ⟨.misaligned, l, o.toNat⟩ := by
  have hin : ¬(o < 0 ∨ (padSize : Int) < o + n) := by unfold InsidePad at h; unfold padSize; omega
  have hoff : wrapN 32 o = o.toNat := by unfold InsidePad at h; unfold wrapN; omega
  simp [padCheck, hin, ha, hoff, laneFault, detail]

theorem guardHit_eq {c : Cell} {o : Int} {n : Nat} (h : 0 ≤ o) {g : GuardEntry} (hg : c.guards = [g]) (ht : Touches o n g) :
    guardHit c o.toNat n = some g := by
  have hhit : decide (o.toNat ≤ g.hi ∧ g.lo < o.toNat + n) = true := decide_eq_true (by unfold Touches at ht; omega)
  simp only [guardHit, hg, List.find?_cons, hhit]

theorem guardHit_eq_none {c : Cell} {o : Int} {n : Nat} (h : 0 ≤ o) :
    guardHit c o.toNat n = none ↔ ∀ g ∈ c.guards, ¬Touches o n g := by
  simp only [guardHit, List.find?_eq_none, decide_eq_true_eq, Touches]
  exact forall₂_congr fun g _ => by omega

/-- R159: an access within the scratchpad, aligned, that touches the one guarded range. -/
theorem padCheck_guarded {c : Cell} {l : Nat} {o : Int} {n al : Nat} (h : InsidePad o n) (ha : o % al = 0) {g : GuardEntry}
    (hg : c.guards = [g]) (ht : Touches o n g) : padCheck c l o n al =
      some ⟨.earlyTouch, l, max o.toNat g.lo + g.lo * 2 ^ 32 + g.hi * 2 ^ 64 + g.tl.toNat * 2 ^ 96⟩ := by
  have hin : ¬(o < 0 ∨ (padSize : Int) < o + n) := by unfold InsidePad at h; unfold padSize; omega
  simp only [padCheck, if_neg hin, ha, ne_eq, not_true_eq_false, if_false, guardHit_eq h.1 hg ht, laneFault, detail_four]

/-- R151, R159: what an access that meets its checks meets. -/
theorem padCheck_eq_none {c : Cell} {l : Nat} {o : Int} {n al : Nat} :
    padCheck c l o n al = none ↔ InsidePad o n ∧ o % al = 0 ∧ ∀ g ∈ c.guards, ¬Touches o n g := by
  by_cases h : InsidePad o n
  · by_cases ha : o % al = 0
    · have hin : ¬(o < 0 ∨ (padSize : Int) < o + n) := by unfold InsidePad at h; unfold padSize; omega
      rw [← guardHit_eq_none h.1, padCheck, if_neg hin, if_neg (not_not.mpr ha)]
      cases guardHit c o.toNat n <;> simp [h, ha]
    · simp [padCheck_misaligned h ha, ha]
  · simp [padCheck_range h, h]

theorem ofBytes_lt (l : List Byte) : ofBytes l < 256 ^ l.length := by
  induction l with
  | nil => exact Nat.one_pos
  | cons b r ih =>
    have hb := b.isLt
    rw [ofBytes, List.length_cons, Nat.pow_succ]
    omega
theorem Mem.read_lt (m : Mem) (a n : Nat) : m.read a n < 256 ^ n := by
  simpa [Mem.read] using ofBytes_lt (m.bytes a n)

/-- The bytes of an element, each at its weight. -/
theorem ofBytes_eq_sum (f : Nat → Byte) (n : Nat) :
    ofBytes ((List.range n).map f) = ((List.range n).map fun i => (f i).toNat * 256 ^ i).sum := by
  induction n generalizing f with
  | zero => rfl
  | succ n ih =>
    rw [List.range_succ_eq_map, List.map_cons, List.map_cons, List.map_map, List.map_map, ofBytes, List.sum_cons, ih]
    simp only [Function.comp_apply, Function.comp_def, Nat.pow_succ, pow_zero, mul_one, ← List.sum_map_mul_left]
    congr 3
    funext i
    ring
theorem Mem.read_eq_sum (m : Mem) (a n : Nat) :
    m.read a n = ((List.range n).map fun i => (m.get (a + i)).toNat * 256 ^ i).sum :=
  ofBytes_eq_sum (fun i => m.get (a + i)) n

theorem Mem.get_write {m : Mem} (h : Mem.wf m = true) (a n x k : Nat) :
    (m.write a n x).get k = if a ≤ k ∧ k < a + n then BitVec.ofNat 8 (x / 256 ^ (k - a)) else m.get k := by
  rw [Mem.write, Mem.get_putBytes h, bytesOf_length]
  by_cases hk : a ≤ k ∧ k < a + n
  · rw [if_pos hk, if_pos hk, bytesOf_getElem? _ _ _ (by omega)]
    rfl
  · rw [if_neg hk, if_neg hk]

/-! What the engines' writes leave open to a bundle's reads (R159, R337). -/

/-- Where it is chosen by the word whether an overtaken write is undone, a byte is undone or stands with its word. -/
theorem get_foldr_raced {m : Mem} (hm : Mem.wf m = true) (b : Nat) (undo : Nat → Prop) [DecidablePred undo] (l : List Raced) :
    let v := l.foldr (fun r p => if b ≤ r.upTo ∧ undo (r.off / 4) then p.set r.off r.old else p) m
    Mem.wf v = true ∧ ∀ k, v.get k = if undo (k / 4)
      then ((l.find? fun r => r.off == k && decide (b ≤ r.upTo)).map fun r => r.old).getD (m.get k) else m.get k := by
  induction l with
  | nil => exact ⟨hm, fun k => (ite_self _).symm⟩
  | cons r l ih =>
    obtain ⟨hwf, hget⟩ := ih
    simp only [List.foldr_cons]
    by_cases hr : b ≤ r.upTo ∧ undo (r.off / 4)
    · refine ⟨by rw [if_pos hr]; exact Mem.set_wf hwf _ _, fun k => ?_⟩
      rw [if_pos hr, Mem.get_set hwf]
      by_cases hk : k = r.off
      · subst hk
        simp [hr.1, hr.2]
      · rw [if_neg hk, hget, List.find?_cons_of_neg (by simp [Ne.symm hk])]
    · refine ⟨by rw [if_neg hr]; exact hwf, fun k => ?_⟩
      rw [if_neg hr, hget]
      by_cases hu : undo (k / 4)
      · rw [List.find?_cons_of_neg]
        rintro h
        simp only [Bool.and_eq_true, beq_iff_eq, decide_eq_true_eq] at h
        exact hr ⟨h.2, h.1 ▸ hu⟩
      · rw [if_neg hu, if_neg hu]

theorem wordSeed_eq (env : Env) (k : Nat) : wordSeed env (4 * (k / 4)) = wordSeed env k := by
  unfold wordSeed
  rw [Nat.mul_div_cancel_left _ (by decide)]

/-- R159, R337: what a bundle's reads find is one of the scratchpads that they may find. -/
theorem raceView_mayFind (env : Env) {p : Cell} (hp : Mem.wf p.pad = true) : MayFind env p (raceView env p) := by
  intro w
  cases hb : env.bsn with
  | none => exact .inl fun j _ => by simp only [raceView, hb]
  | some b =>
    have hview : raceView env p = p.raced.foldr (fun r m =>
        if b ≤ r.upTo ∧ Config.pick (2 * wordSeed env (4 * (r.off / 4)) + 1) 2 % 2 = 1 then m.set r.off r.old else m) p.pad := by
      simp only [raceView, hb, wordSeed_eq]
    have hget := (get_foldr_raced hp b (fun w => Config.pick (2 * wordSeed env (4 * w) + 1) 2 % 2 = 1) p.raced).2
    by_cases hu : Config.pick (2 * wordSeed env (4 * w) + 1) 2 % 2 = 1
    · refine .inr fun j hj => ?_
      rw [hview, hget, if_pos (by rwa [show (4 * w + j) / 4 = w by omega])]
      simp only [heldBefore, hb]
    · refine .inl fun j hj => ?_
      rw [hview, hget, if_neg (by rwa [show (4 * w + j) / 4 = w by omega])]

/-! What a slot stores (R154). -/

@[simp] theorem Cell.pad_store (c : Cell) (m : Mem) (l : List (Nat × Nat)) : (c.store m l).pad = m := rfl
theorem onlyPad_store (c : Cell) (m : Mem) (l : List (Nat × Nat)) : OnlyPad c (c.store m l) := rfl

/-- Elements of `n` bytes written at places of their own change nothing outside them. -/
theorem get_foldl_write_outside (n : Nat) (place val : Nat → Nat) (k : Nat) (l : List Nat) : ∀ {m : Mem}, Mem.wf m = true →
    (∀ i ∈ l, k < place i ∨ place i + n ≤ k) → (l.foldl (fun p i => p.write (place i) n (val i)) m).get k = m.get k := by
  induction l with
  | nil => exact fun _ _ => rfl
  | cons i l ih =>
    intro m hm h
    rw [List.foldl_cons, ih (Mem.write_wf hm _ _ _) fun j hj => h j (List.mem_cons_of_mem _ hj), Mem.get_write hm,
      if_neg (by have := h i List.mem_cons_self; omega)]

theorem foldl_write_wf (n : Nat) (place val : Nat → Nat) (l : List Nat) : ∀ {m : Mem}, Mem.wf m = true →
    Mem.wf (l.foldl (fun p i => p.write (place i) n (val i)) m) = true := by
  induction l with
  | nil => exact fun h => h
  | cons i l ih => exact fun h => ih (Mem.write_wf h _ _ _)

/-- Elements of `n` bytes written apart from each other each stand at their place. -/
theorem get_foldl_write_at (n : Nat) (place val : Nat → Nat) {j : Nat} (hj : j < n) (l : List Nat) : ∀ {m : Mem},
    Mem.wf m = true → l.Nodup → (∀ a ∈ l, ∀ b ∈ l, a ≠ b → place a + n ≤ place b ∨ place b + n ≤ place a) → ∀ i ∈ l,
      (l.foldl (fun p i => p.write (place i) n (val i)) m).get (place i + j) = BitVec.ofNat 8 (val i / 256 ^ j) := by
  induction l with
  | nil => exact fun _ _ _ i hi => absurd hi List.not_mem_nil
  | cons a l ih =>
    intro m hm hl hapart i hi
    obtain ⟨ha, hl⟩ := List.nodup_cons.mp hl
    rw [List.foldl_cons]
    rcases List.mem_cons.mp hi with rfl | hi
    · rw [get_foldl_write_outside n place val _ l (Mem.write_wf hm _ _ _), Mem.get_write hm, if_pos (by omega),
        Nat.add_sub_cancel_left]
      intro b hb
      have hne : i ≠ b := fun e => ha (e ▸ hb)
      have := hapart i List.mem_cons_self b (List.mem_cons_of_mem _ hb) hne
      omega
    · exact ih (Mem.write_wf hm _ _ _) hl (fun b hb c hc => hapart b (List.mem_cons_of_mem _ hb) c (List.mem_cons_of_mem _ hc)) i hi

/-- Where V0's store of the bundle may stand over the M slot's, word by word (R154; log 52). -/
def v0Stands (env : Env) (w : Nat) : Bool := decide (Config.pick (2 * wordSeed env (4 * w)) 2 % 2 = 1)

/-- A byte where both slots may have stored. -/
theorem get_eitherStore (env : Env) (q : Cell) (o n : Nat) {m : Mem} (hm : Mem.wf m = true) :
    Mem.wf (eitherStore env q o n m) = true ∧ ∀ k, (eitherStore env q o n m).get k =
      if o ≤ k ∧ k < o + n then storedEither (v0Stands env) q k (m.get k) else m.get k := by
  induction n with
  | zero => exact ⟨hm, fun k => (if_neg (by omega)).symm⟩
  | succ n ih =>
    obtain ⟨hwf, hget⟩ := ih
    have hstep : eitherStore env q o (n + 1) m =
        if (q.stored.any fun r => decide (r.1 ≤ o + n ∧ o + n < r.1 + r.2)) ∧ v0Stands env ((o + n) / 4)
        then (eitherStore env q o n m).set (o + n) (q.pad.get (o + n)) else eitherStore env q o n m := by
      rw [eitherStore, List.range_succ, List.foldl_append]
      simp only [List.foldl_cons, List.foldl_nil, v0Stands, wordSeed_eq, decide_eq_true_eq]
      rfl
    rw [hstep]
    refine ⟨by split <;> [exact Mem.set_wf hwf _ _; exact hwf], fun k => ?_⟩
    by_cases hk : k = o + n
    · subst hk
      rw [if_pos (⟨Nat.le_add_right o n, by omega⟩ : o ≤ o + n ∧ o + n < o + (n + 1)), storedEither]
      simp only [Bool.and_eq_true]
      split
      · rw [Mem.get_set hwf, if_pos rfl]
      · rw [hget, if_neg (by omega)]
    · have hsame : ((o ≤ k ∧ k < o + (n + 1)) ↔ (o ≤ k ∧ k < o + n)) := by omega
      simp only [hsame, ← hget k]
      split
      · rw [Mem.get_set hwf, if_neg hk]
      · rfl

end Sys2Proof.Machine

namespace Sys2Proof.Machine
open Sys2Proof

/-! ### Rings (18 R359-R364) -/

theorem onlyRing_setRing (c : Cell) (r : BitVec 3) (f : Ring → Ring) : OnlyRing r c (c.setRing r f) :=
  ⟨rfl, fun _ h => RegFile.get_put_ne _ _ h⟩
@[simp] theorem Cell.q_setRing_same (c : Cell) (r : BitVec 3) (f : Ring → Ring) : (c.setRing r f).q.get r = f (c.q.get r) :=
  RegFile.get_put_same _ _ _

/-- R252: a ring instruction on a ring with capacity. -/
theorem actsOnCells_ringOp {i : Instr} {r : BitVec 3} {g : Env → Cell → Cell → Cell} (hi : ∀ s, exec i s = onCells (ringOp r g) s)
    {h : Cell → Prop} {rel : Env → Cell → Cell → Cell → Prop}
    (hg : ∀ env p q, p.act = true → (p.q.get r).cap ≠ 0 → h q → rel env p q (g env p q)) :
    ActsOnCells i (fun _ p q => h q ∧ (p.act = true → (p.q.get r).cap ≠ 0)) (IfActive rel) := by
  refine actsOnCells_of hi fun env p q ⟨hq, hset⟩ => ?_
  by_cases ha : p.act = true
  · exact ⟨g env p q, (if_pos ha).trans (if_neg (hset ha)), fun hn => absurd ha (by simp [hn]), fun _ => hg env p q ha (hset ha) hq⟩
  · exact ⟨q, by simp [ringOp, ifActive, ha], fun _ => rfl, fun h => absurd h ha⟩

/-- A ring instruction on a set ring, whatever earlier slots have made of the cell. -/
theorem actsOnCells_setRing {i : Instr} {r : BitVec 3} {g : Env → Cell → Cell → Cell} (hi : ∀ s, exec i s = onCells (ringOp r g) s)
    {rel : Env → Cell → Cell → Cell → Prop} (hg : ∀ env p q, rel env p q (g env p q)) :
    ActsOnCells i (fun _ p _ => p.act = true → (p.q.get r).cap ≠ 0) (IfActive rel) := by
  intro s f hf hc
  exact actsOnCells_ringOp (h := fun _ => True) hi (fun env p q _ _ _ => hg env p q) s f hf
    fun w hw j p q hp hq hs => ⟨trivial, hc w hw j p q hp hq hs⟩

/-- R252: a ring instruction on a ring without capacity. -/
theorem raisesInCells_ringOp {i : Instr} {r : BitVec 3} {g : Env → Cell → Cell → Cell}
    (hi : ∀ s, exec i s = onCells (ringOp r g) s) :
    RaisesInCells i (fun _ p _ => p.act = true ∧ (p.q.get r).cap = 0) fun _ _ _ => ⟨.ringUnset, 0xFF, r.toNat⟩ :=
  raisesInCells_of hi fun _ _ _ ⟨ha, hcap⟩ => by simp [ringOp, ifActive, ha, hcap, ringUnset, plainFault, detail]

theorem Ring.stat_eq (g : Ring) : g.stat = BitVec.ofNat 32 ((g.tail - g.head).toNat % 256 + g.head.toNat % g.cap.toNat * 2 ^ 8 +
    g.tail.toNat % g.cap.toNat * 2 ^ 16 + g.empt.toNat * 2 ^ 24 + g.full.toNat * 2 ^ 25 + g.hold.toNat * 2 ^ 26 +
    g.side.toNat * 2 ^ 27 + g.fmt.toNat * 2 ^ 28) := by
  have hb : ∀ b : Bool, b2n b = b.toNat := by decide
  simp only [Ring.stat, Ring.used, hb]

/-- R363: QSTAT's result and, with L, the sticky bits. -/
theorem qstat_reads (r : BitVec 3) (k : BitVec 4) (l : BitVec 1) :
    ActsOnCells (.qstat r k l) (fun _ p _ => p.act = true → (p.q.get r).cap ≠ 0) (IfActive fun _ p q q' =>
      q' = { q with b := q'.b, q := q'.q } ∧ (∀ j, j ≠ k → q'.getB j = q.getB j) ∧ (∀ j, j ≠ r → q'.q.get j = q.q.get j) ∧
      (q'.getB k = if k = 0 then 0 else (p.q.get r).stat) ∧
      (q'.q.get r = if l = 1 then { q.q.get r with empt := false, full := false } else q.q.get r)) := by
  refine actsOnCells_setRing (fun _ => rfl) fun _ p q => ?_
  obtain ⟨hrest, hothers⟩ := onlyB_setB q k (p.q.get r).stat
  have hring : (q.setB k (p.q.get r).stat).q = q.q := by rw [hrest]
  by_cases hl : l = 1
  · simp only [hl, if_true]
    obtain ⟨hq, hrings⟩ := onlyRing_setRing (q.setB k (p.q.get r).stat) r fun g => { g with empt := false, full := false }
    refine ⟨by rw [hq, hrest], hothers, fun j hj => ?_, Cell.getB_setB_same q k _, ?_⟩
    · rw [hrings j hj, hring]
    · rw [Cell.q_setRing_same, hring]
  · simp only [if_neg hl]
    exact ⟨by rw [hrest], hothers, fun j _ => by rw [hring], Cell.getB_setB_same q k _, by rw [hring]⟩

/-- R364: QTWIN's pointer on a NARROW ring. -/
theorem qtwin_writes (r : BitVec 3) (k : BitVec 4) (i : BitVec 8) :
    ActsOnCells (.qtwin r k i) (fun _ p q => Mem.wf q.pad = true ∧ (p.act = true → (p.q.get r).cap ≠ 0))
      (IfActive fun _ p q q' =>
        let g := p.q.get r
        let w := g.base.toNat + 64 * g.tsz.toNat * g.cap.toNat + 512 + 8 * ((g.tail.toNat + i.toNat) % g.cap.toNat)
        (g.hold = false → q' = q) ∧
        (g.hold = true → OnlyPad q q' ∧ Mem.wf q'.pad = true ∧
          (∃ v0, ∀ j, j < 8 → q'.pad.get (w + j) = storedEither v0 q (w + j) (BitVec.ofNat 8 ((p.getB64 k).toNat / 256 ^ j))) ∧
          ∀ j, (j < w ∨ w + 8 ≤ j) → q'.pad.get j = q.pad.get j)) := by
  refine actsOnCells_ringOp (h := fun q => Mem.wf q.pad = true) (fun _ => rfl) fun env p q _ _ hq => ?_
  intro g w
  refine ⟨fun hh => if_neg (Bool.eq_false_iff.mp hh), fun hh => ?_⟩
  rw [if_pos hh]
  have hwrite := Mem.write_wf hq w 8 (p.getB64 k).toNat
  obtain ⟨hwf, hget⟩ := get_eitherStore env q w 8 hwrite
  refine ⟨onlyPad_store _ _ _, hwf, ⟨v0Stands env, fun j hj => ?_⟩, fun j hj => ?_⟩
  · refine (hget (w + j)).trans ?_
    rw [if_pos (by omega), Mem.get_write hq, if_pos (by omega), Nat.add_sub_cancel_left]
  · refine (hget j).trans ?_
    rw [if_neg (by omega), Mem.get_write hq, if_neg (by omega)]

/-- Settles O20: on a set ring each instruction is its own operation; on one without capacity all raise the one fault. -/
theorem rings : Obligations.Rings := by
  intro r sd h l f z k n i o set used
  refine ⟨actsOnCells_pure (fun _ => rfl) fun _ _ q _ => ⟨onlyRing_setRing q r _, Cell.q_setRing_same q r _⟩, ?unset, ?commit, ?pop,
    ?stat, qtwin_writes r k i⟩
  case unset =>
    rintro j (rfl | rfl | rfl | rfl) <;> exact raisesInCells_ringOp fun _ => rfl
  case commit =>
    have hn : BitVec.ofNat 16 n.toNat = n.zeroExtend 16 := BitVec.ofNat_toNat 16 n
    exact actsOnCells_setRing (fun _ => rfl) fun _ _ q => ⟨onlyRing_setRing q r _, (Cell.q_setRing_same q r _).trans (by rw [hn]; rfl)⟩
  case pop => exact actsOnCells_setRing (fun _ => rfl) fun _ _ q => ⟨onlyRing_setRing q r _, Cell.q_setRing_same q r _⟩
  case stat =>
    simp only [used, ← Ring.stat_eq]
    exact qstat_reads r k l

end Sys2Proof.Machine

namespace Sys2Proof.Machine
open Sys2Proof

/-! ### Accumulator banks (18 R369-R373) -/

theorem onlyBank_setBank (c : Cell) (i : BitVec 3) (f : BankState → BankState) : OnlyBank i c (c.setBank i f) :=
  ⟨rfl, fun _ h => RegFile.get_put_ne _ _ h⟩
@[simp] theorem Cell.acc_setBank_same (c : Cell) (i : BitVec 3) (f : BankState → BankState) :
    (c.setBank i f).acc.get i = f (c.acc.get i) := RegFile.get_put_same _ _ _

/-- A lane of a bank made of lanes. -/
theorem lane_ofNat_packLanes {n i x : Nat} {l : List Nat} (hl : n * l.length ≤ 2048) (h : l[i]? = some x) :
    lane n (BitVec.ofNat 2048 (packLanes n l)) i = x % 2 ^ n := by
  have hlt := Nat.lt_of_lt_of_le (packLanes_lt n l) (Nat.pow_le_pow_right (by decide) hl)
  rw [lane, BitVec.toNat_ofNat, Nat.mod_eq_of_lt hlt]
  exact packLanes_lane n l i x h

/-- R373: a part of a bank. -/
theorem extractLsb'_eq_lane (x : Bank) (p : Nat) : BitVec.ofNat 512 (lane 512 x p) = x.extractLsb' (512 * p) 512 := by
  refine BitVec.eq_of_toNat_eq ?_
  rw [BitVec.toNat_ofNat, Nat.mod_eq_of_lt (lane_lt 512 x p), BitVec.extractLsb'_toNat, Nat.shiftRight_eq_div_pow]
  rfl

/-- R373: TACCWR's bank. -/
theorem taccwr_writes (c : BitVec 3) (d : BitVec 5) (p : BitVec 2) :
    ActsOnCells (.taccwr c d p) anyCell (IfActive fun _ u q q' => OnlyBank c q q' ∧
      q'.acc.get c = { q.acc.get c with data := (q'.acc.get c).data } ∧
      ∀ k, k < 4 → lane 512 (q'.acc.get c).data k = if k = p.toNat then (u.getV d).toNat else lane 512 (q.acc.get c).data k) := by
  refine actsOnCells_pure (fun _ => rfl) fun _ u q _ => ⟨onlyBank_setBank q c _, ?_, fun k hk => ?_⟩
  · rw [Cell.acc_setBank_same]
  · rw [Cell.acc_setBank_same]
    refine (lane_ofNat_packLanes (by simp) (List.getElem?_eq_some_iff.mpr ⟨by simpa using hk, by simp; rfl⟩)).trans ?_
    split
    · exact Nat.mod_eq_of_lt (u.getV d).isLt
    · exact Nat.mod_eq_of_lt (lane_lt 512 _ k)

theorem Cell.rcnt_eq (c : Cell) : c.rcnt = c.exh.zeroExtend 32 ++ (c.rc1 ++ c.rc0) := by
  refine BitVec.eq_of_toNat_eq ?_
  have h0 := c.rc0.isLt
  have h1 := c.rc1.isLt
  have h2 := c.exh.isLt
  have hlow := Nat.shiftLeft_add_eq_or_of_lt h0 c.rc1.toNat
  have hhigh := Nat.shiftLeft_add_eq_or_of_lt (i := 32) (b := c.rc1.toNat <<< 16 ||| c.rc0.toNat)
    (by rw [← hlow, Nat.shiftLeft_eq]; omega) c.exh.toNat
  simp only [Cell.rcnt, BitVec.toNat_ofNat, BitVec.toNat_append, BitVec.zeroExtend, BitVec.toNat_setWidth]
  rw [Nat.mod_eq_of_lt (a := c.exh.toNat) (by omega), ← hhigh, ← hlow]
  simp only [Nat.shiftLeft_eq]
  omega

/-- R370: the half of the word that TMON reads. -/
theorem half_eq (w : Xword) (k : Nat) : BitVec.ofNat 32 (if k % 2 = 0 then w.toNat else w.toNat / 2 ^ 32) =
    if k % 2 = 0 then w.truncate 32 else (w >>> 32).truncate 32 := by
  split
  · exact BitVec.ofNat_toNat 32 w
  · refine BitVec.eq_of_toNat_eq ?_
    simp [Nat.shiftRight_eq_div_pow]

/-- R370: TMON reads half of MONLAST or of RCNT, and with L clears it. -/
theorem tmon_reads (b : BitVec 4) (sel : BitVec 2) (l : BitVec 1) :
    ActsOnCells (.tmon b sel l) anyCell (IfActive fun _ u q q' =>
      let w : Xword := if sel.toNat < 2 then u.monlast else u.exh.zeroExtend 32 ++ (u.rc1 ++ u.rc0)
      let clear := fun (k : Bool) => l = 1 ∧ decide (sel.toNat < 2) = k
      (∀ r, r ≠ b → q'.getB r = q.getB r) ∧
      (q'.getB b = if b = 0 then 0 else if sel.toNat % 2 = 0 then w.truncate 32 else (w >>> 32).truncate 32) ∧
      (clear true → q' = { q with b := q'.b, monlast := 0 }) ∧
      (clear false → q' = { q with b := q'.b, rc0 := 0, rc1 := 0, exh := 0 }) ∧
      (l = 0 → q' = { q with b := q'.b })) := by
  refine actsOnCells_pure (fun _ => rfl) fun _ u q _ => ?_
  intro w clear
  obtain ⟨hrest, hothers⟩ := onlyB_setB q b (if sel.toNat % 2 = 0 then w.truncate 32 else (w >>> 32).truncate 32)
  have hvalue := Cell.getB_setB_same q b (if sel.toNat % 2 = 0 then w.truncate 32 else (w >>> 32).truncate 32)
  dsimp only
  rw [half_eq, Cell.rcnt_eq]
  generalize q.setB b (if sel.toNat % 2 = 0 then w.truncate 32 else (w >>> 32).truncate 32) = q₁ at hrest hothers hvalue ⊢
  have hl : l = 0 ∨ l = 1 := by revert l; decide
  rcases hl with rfl | rfl
  · exact ⟨hothers, hvalue, fun h => absurd h.1 (by decide), fun h => absurd h.1 (by decide), fun _ => hrest⟩
  · by_cases hs : sel.toNat < 2
    · rw [if_pos rfl, if_pos hs]
      exact ⟨hothers, hvalue, fun _ => by rw [hrest], fun h => absurd hs (of_decide_eq_false h.2), fun h => absurd h (by decide)⟩
    · rw [if_pos rfl, if_neg hs]
      exact ⟨hothers, hvalue, fun h => absurd (of_decide_eq_true h.2) hs, fun _ => by rw [hrest], fun h => absurd h (by decide)⟩


/-! ### Operations that make a check first -/

/-- A cell operation that raises the fault of its check, and else acts. -/
def checkedOp (chk : Env → Cell → Option CellFault) (g : Env → Cell → Cell → Cell) : CellFn :=
  ifActive fun env pre post => match chk env pre with | some e => .error e | none => .ok (g env pre post)

theorem actsOnCells_checked {i : Instr} {chk : Env → Cell → Option CellFault} {g : Env → Cell → Cell → Cell}
    (hi : ∀ s, exec i s = onCells (checkedOp chk g) s) {h : Env → Cell → Cell → Prop} {r : Env → Cell → Cell → Cell → Prop}
    (hok : ∀ env p q, h env p q → p.act = true → chk env p = none)
    (hg : ∀ env p q, h env p q → p.act = true → r env p q (g env p q)) : ActsOnCells i h (IfActive r) := by
  refine actsOnCells_of hi fun env p q hh => ?_
  by_cases ha : p.act = true
  · exact ⟨g env p q, by simp only [checkedOp, ifActive, ha, if_true, hok env p q hh ha],
      fun hn => absurd ha (by simp [hn]), fun _ => hg env p q hh ha⟩
  · exact ⟨q, by simp only [checkedOp, ifActive, ha, if_false, Bool.false_eq_true], fun _ => rfl, fun h => absurd h ha⟩

theorem raisesInCells_checked {i : Instr} {chk : Env → Cell → Option CellFault} {g : Env → Cell → Cell → Cell}
    (hi : ∀ s, exec i s = onCells (checkedOp chk g) s) {h : Env → Cell → Cell → Prop} {e : Env → Cell → Cell → CellFault}
    (hraise : ∀ env p q, h env p q → p.act = true ∧ chk env p = some (e env p q)) : RaisesInCells i h e := by
  refine raisesInCells_of hi fun env p q hh => ?_
  obtain ⟨ha, he⟩ := hraise env p q hh
  simp only [checkedOp, ifActive, ha, if_true, he]

/-! ### TACCLD and TACCST (18 R372) -/

theorem elemAt_lt {w l : Nat} (tr : BitVec 1) (h : l < w * w) : elemAt w l tr < w * w := by
  unfold elemAt
  split
  · have hw : 0 < w := Nat.pos_of_mul_pos_right (Nat.zero_lt_of_lt h)
    have hm := Nat.mul_le_mul_left w (Nat.mod_lt l hw)
    have hd := Nat.div_lt_of_lt_mul h
    rw [Nat.mul_succ] at hm
    omega
  · exact h

theorem elemAt_inj {w a b : Nat} {tr : BitVec 1} (ha : a < w * w) (hb : b < w * w) (h : elemAt w a tr = elemAt w b tr) : a = b := by
  unfold elemAt at h
  split at h
  · have hw : 0 < w := Nat.pos_of_mul_pos_right (Nat.zero_lt_of_lt ha)
    have hda := Nat.div_lt_of_lt_mul ha
    have hdb := Nat.div_lt_of_lt_mul hb
    have hdiv : a / w = b / w := by
      have := congrArg (· % w) h
      simpa only [Nat.mul_add_mod, Nat.mod_eq_of_lt hda, Nat.mod_eq_of_lt hdb] using this
    have hmod : a % w = b % w := by
      have := congrArg (· / w) h
      simpa only [Nat.mul_add_div hw, Nat.div_eq_of_lt hda, Nat.div_eq_of_lt hdb, Nat.add_zero] using this
    rw [← Nat.div_add_mod a w, hdiv, hmod, Nat.div_add_mod]
  · exact h

/-- R372: a view of `w` × `w` elements of `n` bytes stored from an offset. -/
theorem get_storeView {m : Mem} (hm : Mem.wf m = true) (o n w : Nat) (tr : BitVec 1) (val : Nat → Nat) :
    let v := (List.range (w * w)).foldl (fun p l => p.write (o + n * elemAt w l tr) n (val l)) m
    Mem.wf v = true ∧
    (∀ l, l < w * w → ∀ j, j < n → n * elemAt w l tr + j < n * (w * w) ∧
      v.get (o + (n * elemAt w l tr + j)) = BitVec.ofNat 8 (val l / 256 ^ j)) ∧
    ∀ k, (k < o ∨ o + n * (w * w) ≤ k) → v.get k = m.get k := by
  have hin : ∀ l, l < w * w → n * elemAt w l tr + n ≤ n * (w * w) := fun l hl => Nat.mul_le_mul_left n (elemAt_lt tr hl)
  refine ⟨foldl_write_wf n _ val _ hm, fun l hl j hj => ⟨by have := hin l hl; omega, ?_⟩, fun k hk => ?_⟩
  · rw [← Nat.add_assoc]
    refine get_foldl_write_at n (fun l => o + n * elemAt w l tr) val hj _ hm List.nodup_range (fun a ha b hb hne => ?_) l
      (List.mem_range.mpr hl)
    have hplace : elemAt w a tr ≠ elemAt w b tr := fun e => hne (elemAt_inj (List.mem_range.mp ha) (List.mem_range.mp hb) e)
    rcases Nat.lt_or_gt_of_ne hplace with hlt | hlt
    · have := Nat.mul_le_mul_left n hlt
      rw [Nat.mul_succ] at this
      exact .inl (by omega)
    · have := Nat.mul_le_mul_left n hlt
      rw [Nat.mul_succ] at this
      exact .inr (by omega)
  · refine get_foldl_write_outside n _ val k _ hm fun l hl => ?_
    have := hin l (List.mem_range.mp hl)
    omega

/-- A view stored over what V0 has stored too (R154). -/
theorem get_storeViewEither {q : Cell} (hq : Mem.wf q.pad = true) (env : Env) (o n w : Nat) (tr : BitVec 1) (val : Nat → Nat) :
    let v := eitherStore env q o (n * (w * w))
      ((List.range (w * w)).foldl (fun p l => p.write (o + n * elemAt w l tr) n (val l)) q.pad)
    Mem.wf v = true ∧ (∀ k, (k < o ∨ o + n * (w * w) ≤ k) → v.get k = q.pad.get k) ∧
    ∀ l, l < w * w → ∀ j, j < n → v.get (o + (n * elemAt w l tr + j)) =
      storedEither (v0Stands env) q (o + (n * elemAt w l tr + j)) (BitVec.ofNat 8 (val l / 256 ^ ((n * elemAt w l tr + j) % n))) := by
  obtain ⟨hwf, hin, hout⟩ := get_storeView hq o n w tr val
  obtain ⟨hwf', hget⟩ := get_eitherStore env q o (n * (w * w)) hwf
  refine ⟨hwf', fun k hk => ?_, fun l hl j hj => ?_⟩
  · rw [hget, if_neg (by omega), hout k hk]
  · obtain ⟨hlt, hval⟩ := hin l hl j hj
    rw [hget, if_pos (by omega), hval, Nat.mul_add_mod, Nat.mod_eq_of_lt hj]

/-- The cell words that a number below keeps, where another stands above it. -/
theorem lane_add_below {n m i : Nat} (x y : Nat) (h : i < m) :
    (x + y * 2 ^ (n * m)) / 2 ^ (n * i) % 2 ^ n = x / 2 ^ (n * i) % 2 ^ n := by
  have hsplit : y * 2 ^ (n * m) = 2 ^ n * (y * 2 ^ (n * (m - i - 1))) * 2 ^ (n * i) := by
    have : n * m = n + n * (m - i - 1) + n * i := by
      obtain ⟨k, rfl⟩ : ∃ k, m = i + 1 + k := ⟨m - i - 1, by omega⟩
      rw [show i + 1 + k - i - 1 = k by omega]
      ring
    rw [this, Nat.pow_add, Nat.pow_add]
    ring
  rw [hsplit, Nat.add_mul_div_right _ _ (Nat.two_pow_pos _), Nat.add_mul_mod_self_left]

theorem lane_add_above {n m i x : Nat} (y : Nat) (hx : x < 2 ^ (n * m)) (h : m ≤ i) :
    (x + y / 2 ^ (n * m) * 2 ^ (n * m)) / 2 ^ (n * i) = y / 2 ^ (n * i) := by
  obtain ⟨k, rfl⟩ := Nat.exists_eq_add_of_le h
  rw [Nat.mul_add, Nat.pow_add, ← Nat.div_div_eq_div_mul, ← Nat.div_div_eq_div_mul, Nat.add_mul_div_right _ _ (Nat.two_pow_pos _),
    Nat.div_eq_of_lt hx, Nat.zero_add]

theorem add_mul_lt_mul_self {x y k : Nat} (hx : x < k) (hy : y < k) : x + y * k < k * k :=
  calc x + y * k < k + y * k := Nat.add_lt_add_right hx _
    _ = (y + 1) * k := by ring
    _ ≤ k * k := Nat.mul_le_mul_right k hy

/-- R372: the FP64 view leaves the other half of its bank. -/
theorem lane_fp64View (read : Nat → Nat) (hread : ∀ l, read l < 2 ^ 64) (old : Bank) {l : Nat} :
    lane 64 (BitVec.ofNat 2048 (packLanes 64 ((List.range 16).map read) + old.toNat / 2 ^ 1024 * 2 ^ 1024)) l =
      if l < 16 then read l else lane 64 old l := by
  have hlow : packLanes 64 ((List.range 16).map read) < 2 ^ (64 * 16) := by simpa using packLanes_lt 64 ((List.range 16).map read)
  have hhigh : old.toNat / 2 ^ (64 * 16) < 2 ^ (64 * 16) := Nat.div_lt_of_lt_mul (by rw [← Nat.pow_add]; exact old.isLt)
  have hlt : packLanes 64 ((List.range 16).map read) + old.toNat / 2 ^ (64 * 16) * 2 ^ (64 * 16) < 2 ^ 2048 := by
    refine Nat.lt_of_lt_of_eq (add_mul_lt_mul_self hlow hhigh) ?_
    rw [← Nat.pow_add]
  rw [lane, BitVec.toNat_ofNat]
  refine (congrArg (· / 2 ^ (64 * l) % 2 ^ 64) (Nat.mod_eq_of_lt hlt)).trans ?_
  by_cases hl : l < 16
  · rw [if_pos hl, ← Nat.mod_eq_of_lt (hread l), ← packLanes_lane 64 ((List.range 16).map read) l (read l) (by simp [hl])]
    exact lane_add_below _ _ hl
  · rw [if_neg hl]
    exact congrArg (· % 2 ^ 64) (lane_add_above _ hlow (by omega))

/-- R372: what TACCLD makes of a bank, from the scratchpad that it finds. -/
def loadedBank (f : BitVec 2) (r : BitVec 1) (o : Nat) (v : Mem) (old : Bank) : Bank :=
  match f.toNat with
  | 0 => BitVec.ofNat 2048 (packLanes 32 ((List.range 64).map fun l => v.read (o + 4 * elemAt 8 l r) 4))
  | 1 => BitVec.ofNat 2048 (packLanes 32 ((List.range 64).map fun l => v.read (o + 2 * elemAt 8 l r) 2 * 2 ^ 16))
  | _ => BitVec.ofNat 2048 (packLanes 64 ((List.range 16).map fun l => v.read (o + 8 * elemAt 4 l r) 8) +
      old.toNat / 2 ^ 1024 * 2 ^ 1024)

theorem loadedBank_fp32 (r : BitVec 1) (o : Nat) (v : Mem) (old : Bank) {l : Nat} (h : l < 64) :
    lane 32 (loadedBank 0 r o v old) l = v.read (o + 4 * elemAt 8 l r) 4 :=
  (lane_ofNat_packLanes (x := v.read (o + 4 * elemAt 8 l r) 4) (by simp) (by simp [h])).trans
    (Nat.mod_eq_of_lt (Mem.read_lt v (o + 4 * elemAt 8 l r) 4))
theorem loadedBank_bf16 (r : BitVec 1) (o : Nat) (v : Mem) (old : Bank) {l : Nat} (h : l < 64) :
    lane 32 (loadedBank 1 r o v old) l = v.read (o + 2 * elemAt 8 l r) 2 * 2 ^ 16 :=
  (lane_ofNat_packLanes (x := v.read (o + 2 * elemAt 8 l r) 2 * 2 ^ 16) (by simp) (by simp [h])).trans
    (Nat.mod_eq_of_lt (by have := Mem.read_lt v (o + 2 * elemAt 8 l r) 2; omega))
theorem loadedBank_fp64 (r : BitVec 1) (o : Nat) (v : Mem) (old : Bank) (l : Nat) :
    lane 64 (loadedBank 2 r o v old) l = if l < 16 then v.read (o + 8 * elemAt 4 l r) 8 else lane 64 old l :=
  lane_fp64View (fun l => v.read (o + 8 * elemAt 4 l r) 8) (fun l => Mem.read_lt v (o + 8 * elemAt 4 l r) 8) old

theorem exec_taccld_eq (c : BitVec 3) (a : BitVec 4) (f : BitVec 2) (r : BitVec 1) (x : Option Word) (s : State) :
    exec (.taccld c a f r x) s = onCells (checkedOp (fun _ p => bankCheck p a f x) fun env p q =>
      q.setBank c fun b => { b with
        data := loadedBank f r (padBase p a x).toNat (raceView env p) b.data, live := true }) s := rfl

/-- R372: what TACCST makes of a scratchpad, before V0's stores are weighed. -/
def storedView (f : BitVec 2) (r : BitVec 1) (o : Nat) (d : Bank) (m : Mem) : Mem :=
  match f.toNat with
  | 0 => (List.range 64).foldl (fun p l => p.write (o + 4 * elemAt 8 l r) 4 (lane 32 d l)) m
  | 1 => (List.range 64).foldl (fun p l => p.write (o + 2 * elemAt 8 l r) 2 (narrow16 (lane 32 d l))) m
  | _ => (List.range 16).foldl (fun p l => p.write (o + 8 * elemAt 4 l r) 8 (lane 64 d l)) m

theorem exec_taccst_eq (c : BitVec 3) (a : BitVec 4) (f : BitVec 2) (r : BitVec 1) (x : Option Word) (s : State) :
    exec (.taccst c a f r x) s = onCells (checkedOp (fun _ p => bankCheck p a f x) fun env p q =>
      let o := (padBase p a x).toNat
      q.store (eitherStore env q o (bankBytes f) (storedView f r o (p.acc.get c).data q.pad)) [(o, bankBytes f)]) s := rfl

theorem get_storedView_fp32 {q : Cell} (hq : Mem.wf q.pad = true) (env : Env) (o : Nat) (tr : BitVec 1) (d : Bank) :
    let v := eitherStore env q o (bankBytes 0) (storedView 0 tr o d q.pad)
    Mem.wf v = true ∧ (∀ k, (k < o ∨ o + bankBytes 0 ≤ k) → v.get k = q.pad.get k) ∧
    ∀ l, l < 64 → ∀ j, j < 4 → v.get (o + (4 * elemAt 8 l tr + j)) = storedEither (v0Stands env) q
      (o + (4 * elemAt 8 l tr + j)) (BitVec.ofNat 8 (lane 32 d l / 256 ^ ((4 * elemAt 8 l tr + j) % 4))) :=
  get_storeViewEither hq env o 4 8 tr (lane 32 d)
theorem get_storedView_bf16 {q : Cell} (hq : Mem.wf q.pad = true) (env : Env) (o : Nat) (tr : BitVec 1) (d : Bank) :
    let v := eitherStore env q o (bankBytes 1) (storedView 1 tr o d q.pad)
    Mem.wf v = true ∧ (∀ k, (k < o ∨ o + bankBytes 1 ≤ k) → v.get k = q.pad.get k) ∧
    ∀ l, l < 64 → ∀ j, j < 2 → v.get (o + (2 * elemAt 8 l tr + j)) = storedEither (v0Stands env) q
      (o + (2 * elemAt 8 l tr + j)) (BitVec.ofNat 8 (narrow16 (lane 32 d l) / 256 ^ ((2 * elemAt 8 l tr + j) % 2))) :=
  get_storeViewEither hq env o 2 8 tr fun l => narrow16 (lane 32 d l)
theorem get_storedView_fp64 {q : Cell} (hq : Mem.wf q.pad = true) (env : Env) (o : Nat) (tr : BitVec 1) (d : Bank) :
    let v := eitherStore env q o (bankBytes 2) (storedView 2 tr o d q.pad)
    Mem.wf v = true ∧ (∀ k, (k < o ∨ o + bankBytes 2 ≤ k) → v.get k = q.pad.get k) ∧
    ∀ l, l < 16 → ∀ j, j < 8 → v.get (o + (8 * elemAt 4 l tr + j)) = storedEither (v0Stands env) q
      (o + (8 * elemAt 4 l tr + j)) (BitVec.ofNat 8 (lane 64 d l / 256 ^ ((8 * elemAt 4 l tr + j) % 8))) :=
  get_storeViewEither hq env o 8 4 tr (lane 64 d)

/-- Settles O18: banks by what is put in place of one, TMON by the word that it halves, TACCLD and TACCST by one check and by the
view that each reads or stores. -/
theorem accumulators : Obligations.Accumulators := by
  refine ⟨fun c d b p sel l => ⟨?zero, ?retire, ?read, taccwr_writes c d p, ?coat, tmon_reads b sel l⟩,
    fun c a f tr x hf => ?_⟩
  case zero => exact actsOnCells_pure (fun _ => rfl) fun _ _ q _ => ⟨onlyBank_setBank q c _, Cell.acc_setBank_same q c _⟩
  case retire => exact actsOnCells_pure (fun _ => rfl) fun _ _ q _ => ⟨onlyBank_setBank q c _, Cell.acc_setBank_same q c _⟩
  case read =>
    exact actsOnCells_pure (fun _ => rfl) fun _ u q _ =>
      ⟨onlyV_setV q d _, (Cell.getV_setV_same q d _).trans (extractLsb'_eq_lane (u.acc.get c).data p.toNat)⟩
  case coat => exact scalarOf_op fun _ => rfl
  intro base size inside ok at_ o
  have hbase : ∀ p : Cell, padBase p a x = base p := fun p => padBase_eq p a x
  have hsize : (bankBytes f : Int) = size := by simp only [bankBytes, size]; split <;> rfl
  have hinside : ∀ p, InsidePad (base p) (bankBytes f) ↔ inside p := fun p => by rw [InsidePad, hsize]
  have hchecked : ∀ p, ok p → bankCheck p a f x = none := fun p ⟨hin, halign, hclear⟩ => by
    rw [bankCheck, hbase, padCheck_eq_none, hinside]
    exact ⟨hin, halign, fun g hg => by rw [Touches, hsize]; exact hclear g hg⟩
  have hthree : ∀ f : BitVec 2, f ≠ 3 → f = 0 ∨ f = 1 ∨ f = 2 := by decide
  have ho : ∀ p, (padBase p a x).toNat = o p := fun p => by rw [hbase]
  refine ⟨?load, ?store, ?raise⟩
  case load =>
    refine actsOnCells_checked (exec_taccld_eq c a f tr x) (fun _ p _ h ha => hchecked p (h.2 ha)) fun env p q h _ => ?_
    refine ⟨raceView env p, raceView_mayFind env h.1, onlyBank_setBank q c _, ?_⟩
    rw [Cell.acc_setBank_same, ho]
    refine ⟨rfl, ?_, ?_, ?_⟩
    · rintro rfl l hl
      exact loadedBank_fp32 tr (o p) (raceView env p) (q.acc.get c).data hl
    · rintro rfl l hl
      exact loadedBank_bf16 tr (o p) (raceView env p) (q.acc.get c).data hl
    · rintro rfl l _
      exact loadedBank_fp64 tr (o p) (raceView env p) (q.acc.get c).data l
  case store =>
    refine actsOnCells_checked (exec_taccst_eq c a f tr x) (fun _ p _ h ha => hchecked p (h.2 ha)) fun env p q h _ => ?_
    refine ⟨onlyPad_store _ _ _, ?_⟩
    rw [ho, Cell.pad_store]
    have houtside : ∀ {v : Mem}, (∀ k, (k < o p ∨ o p + bankBytes f ≤ k) → v.get k = q.pad.get k) →
        ∀ k : Nat, (k < o p ∨ (o p : Int) + size ≤ k) → v.get k = q.pad.get k := fun hv k hk => hv k (by omega)
    rcases hthree f hf with rfl | rfl | rfl
    · obtain ⟨hwf, hout, hin⟩ := get_storedView_fp32 h.1 env (o p) tr (p.acc.get c).data
      exact ⟨hwf, houtside hout, v0Stands env, fun _ => hin, fun h => absurd h (by decide), fun h => absurd h (by decide)⟩
    · obtain ⟨hwf, hout, hin⟩ := get_storedView_bf16 h.1 env (o p) tr (p.acc.get c).data
      exact ⟨hwf, houtside hout, v0Stands env, fun h => absurd h (by decide), fun _ => hin, fun h => absurd h (by decide)⟩
    · obtain ⟨hwf, hout, hin⟩ := get_storedView_fp64 h.1 env (o p) tr (p.acc.get c).data
      exact ⟨hwf, houtside hout, v0Stands env, fun h => absurd h (by decide), fun h => absurd h (by decide), fun _ => hin⟩
  case raise =>
    have hraises : ∀ {i : Instr} {g}, (∀ s, exec i s = onCells (checkedOp (fun _ p => bankCheck p a f x) g) s) →
        RaisesInCells i (fun _ p _ => p.act = true ∧ ¬inside p) (fun _ p _ => ⟨.padRange, 0xFF, wrapN 32 (base p)⟩) ∧
        RaisesInCells i (fun _ p _ => p.act = true ∧ inside p ∧ base p % 4 ≠ 0) (fun _ p _ => ⟨.misaligned, 0xFF, o p⟩) :=
      fun hi => ⟨raisesInCells_checked hi fun _ p _ ⟨ha, hout⟩ => ⟨ha, by rw [bankCheck, hbase]; exact padCheck_range (mt (hinside p).mp hout)⟩,
        raisesInCells_checked hi fun _ p _ ⟨ha, hin, hmis⟩ => ⟨ha, by rw [bankCheck, hbase]; exact padCheck_misaligned ((hinside p).mpr hin) hmis⟩⟩
    rintro i (rfl | rfl)
    · exact hraises (exec_taccld_eq c a f tr x)
    · exact hraises (exec_taccst_eq c a f tr x)

end Sys2Proof.Machine

namespace Sys2Proof.Machine
open Sys2Proof

/-! ### Checks lane by lane (16 R332-R335; 08 R151, R159, R469) -/

/-- A check answers for an element of `k` bytes at an unbounded offset, misaligned if `mis`: the faults in their order. -/
structure ChecksElement (c : Cell) (l : Nat) (o : Int) (k : Nat) (mis : Prop) (chk : Option CellFault) : Prop where
  range : ¬InsidePad o k → chk = some ⟨.padRange, l, wrapN 32 o⟩
  misaligned : InsidePad o k → mis → chk = some ⟨.misaligned, l, o.toNat⟩
  touch : InsidePad o k → ¬mis → ∀ g : GuardEntry, c.guards = [g] → Touches o k g →
    chk = some ⟨.earlyTouch, l, max o.toNat g.lo + g.lo * 2 ^ 32 + g.hi * 2 ^ 64 + g.tl.toNat * 2 ^ 96⟩
  passes : chk = none ↔ InsidePad o k ∧ ¬mis ∧ ∀ g ∈ c.guards, ¬Touches o k g

theorem detail_one (a : Nat) : detail [(0, a)] = a := by simp [detail]

theorem padCheck_checks (c : Cell) (l : Nat) (o : Int) (k al : Nat) :
    ChecksElement c l o k (o % al ≠ 0) (padCheck c l o k al) where
  range := padCheck_range
  misaligned := padCheck_misaligned
  touch hin ha _ hg ht := padCheck_guarded hin (not_not.mp ha) hg ht
  passes := by rw [not_not]; exact padCheck_eq_none

/-- The check of one lane of a contiguous form: its bytes, and the alignment of the base (R332, R333). -/
def contigLane (c : Cell) (n : Nat) (base : Int) (i : Nat) : Option CellFault :=
  match padCheck c i (base + (n * i / 8 : Nat)) (max 1 (n / 8)) 1 with
  | some f => if f.cause = .padRange then some f
    else if base % 4 ≠ 0 then some (laneFault .misaligned i [(0, wrapN 32 (base + (n * i / 8 : Nat)))]) else some f
  | none => if base % 4 ≠ 0 then some (laneFault .misaligned i [(0, wrapN 32 (base + (n * i / 8 : Nat)))]) else none

theorem contigCheck_eq (c : Cell) (m : BitVec 16) (n : Nat) (base : Int) :
    contigCheck c m n base = firstFault (fun i => if en m n i then contigLane c n base i else none) (512 / n) := rfl

theorem padCheck_inside {c : Cell} {l : Nat} {o : Int} {k al : Nat} (hin : InsidePad o k) (ha : o % al = 0) :
    padCheck c l o k al = (guardHit c o.toNat k).map fun g =>
      laneFault .earlyTouch l [(0, max o.toNat g.lo), (4, g.lo), (8, g.hi), (12, g.tl.toNat)] := by
  have hsize : ¬(o < 0 ∨ (padSize : Int) < o + k) := by unfold InsidePad at hin; unfold padSize; omega
  rw [padCheck, if_neg hsize, if_neg (not_not.mpr ha)]
  cases guardHit c o.toNat k <;> rfl

/-- Within the scratchpad the alignment of the base comes before the guard. -/
theorem contigLane_inside {c : Cell} {n : Nat} {base : Int} {i : Nat} (hin : InsidePad (base + (n * i / 8 : Nat)) (max 1 (n / 8))) :
    contigLane c n base i = if base % 4 ≠ 0 then some ⟨.misaligned, i, (base + (n * i / 8 : Nat)).toNat⟩
      else padCheck c i (base + (n * i / 8 : Nat)) (max 1 (n / 8)) 1 := by
  have hoff : wrapN 32 (base + (n * i / 8 : Nat)) = (base + (n * i / 8 : Nat)).toNat := by
    unfold InsidePad at hin
    unfold wrapN
    omega
  rw [contigLane, hoff, padCheck_inside hin (by omega)]
  cases guardHit c (base + (n * i / 8 : Nat)).toNat (max 1 (n / 8)) <;> simp [laneFault, detail_one]

theorem contigLane_checks (c : Cell) (n : Nat) (base : Int) (i : Nat) :
    ChecksElement c i (base + (n * i / 8 : Nat)) (max 1 (n / 8)) (base % 4 ≠ 0) (contigLane c n base i) := by
  have hone := padCheck_checks c i (base + (n * i / 8 : Nat)) (max 1 (n / 8)) 1
  have hany : ¬((base + (n * i / 8 : Nat)) % (1 : Nat) ≠ 0) := by omega
  have hout : ¬InsidePad (base + (n * i / 8 : Nat)) (max 1 (n / 8)) →
      contigLane c n base i = some ⟨.padRange, i, wrapN 32 (base + (n * i / 8 : Nat))⟩ := fun h => by
    rw [contigLane, hone.range h]
    rfl
  refine ⟨hout, fun hin hmis => ?_, fun hin hmis g hg ht => ?_, ?_⟩
  · rw [contigLane_inside hin, if_pos hmis]
  · rw [contigLane_inside hin, if_neg hmis, hone.touch hin hany g hg ht]
  · by_cases hin : InsidePad (base + (n * i / 8 : Nat)) (max 1 (n / 8))
    · rw [contigLane_inside hin]
      by_cases hmis : base % 4 ≠ 0
      · simp [hmis]
      · rw [if_neg hmis, hone.passes]
        simp only [hany, hmis]
    · exact iff_of_false (by simp [hout hin]) fun h => hin h.1

theorem firstFault_eq_none {chk : Nat → Option CellFault} {l : Nat} : firstFault chk l = none ↔ ∀ i, i < l → chk i = none := by
  simp [firstFault, List.findSome?_eq_none_iff]

/-- R469: the lowest lane that breaks a check. -/
theorem firstFault_eq_some {chk : Nat → Option CellFault} {l j : Nat} {e : CellFault} (hj : j < l) (he : chk j = some e)
    (hlow : ∀ i, i < j → chk i = none) : firstFault chk l = some e := by
  obtain ⟨k, rfl⟩ : ∃ k, l = j + (k + 1) := ⟨l - j - 1, by omega⟩
  have hbelow : (List.range j).findSome? chk = none := by simpa [List.findSome?_eq_none_iff] using hlow
  rw [firstFault, List.range_add, List.findSome?_append, hbelow, List.range_succ_eq_map]
  simp [he]

/-- Of the lanes that a mask enables, the lowest that breaks a check raises its fault. -/
theorem lanesFault_eq {m : BitVec 16} {n j : Nat} {chk : Nat → Option CellFault} {e : CellFault}
    (hj : j ∈ enabledLanes m n (512 / n)) (he : chk j = some e) (hlow : ∀ i ∈ enabledLanes m n (512 / n), i < j → chk i = none) :
    firstFault (fun i => if en m n i then chk i else none) (512 / n) = some e := by
  obtain ⟨hlt, hen⟩ := List.mem_filter.mp hj
  refine firstFault_eq_some (List.mem_range.mp hlt) (by rw [if_pos hen, he]) fun i hi => ?_
  split
  · next h => exact hlow i (List.mem_filter.mpr ⟨List.mem_range.mpr (hi.trans (List.mem_range.mp hlt)), h⟩) hi
  · rfl

theorem lanesFault_eq_none {m : BitVec 16} {n : Nat} {chk : Nat → Option CellFault}
    (h : ∀ i, i < 512 / n → en m n i = true → chk i = none) :
    firstFault (fun i => if en m n i then chk i else none) (512 / n) = none :=
  firstFault_eq_none.mpr fun i hi => by
    split
    · next hen => exact h i hi hen
    · rfl

/-- R151: the alignment of an element, in the lane's bits. -/
theorem alignOf_eq {t : BitVec 4} (ht : tyL t = true) :
    alignOf (tyBits t.toNat / 8) = if tyBits t.toNat = 64 then 4 else tyBits t.toNat / 8 := by
  revert t
  decide

/-- A lane of R335: its element where its index names one, and else the index range fault under .chk. -/
def gatherLane (c : Cell) (n : Nat) (chk : Bool) (a : BitVec 4) (b : BitVec 5) (x : Option Word) (i : Nat) : Option CellFault :=
  if gIn c a b i then padCheck c i (padBase c a x + gIndex c b i * (n / 8 : Nat)) (n / 8) (alignOf (n / 8))
  else if chk then some ⟨.indexRange, i, lane 32 (c.getV b) i + gLimit c a * 2 ^ 32⟩ else none

theorem wrapN_sextN {n x : Nat} (h : x < 2 ^ n) : wrapN n (sextN x n) = x := by
  simp only [wrapN, sextN, Nat.mod_eq_of_lt h]
  split
  · rw [Int.emod_eq_of_lt (by omega) (by exact_mod_cast h), Int.toNat_natCast]
  · rw [Int.sub_emod_right, Int.emod_eq_of_lt (by omega) (by exact_mod_cast h), Int.toNat_natCast]

theorem gatherCheck_eq (c : Cell) (m : BitVec 16) (n : Nat) (chk : Bool) (a : BitVec 4) (b : BitVec 5) (x : Option Word) :
    gatherCheck c m n chk a b x = firstFault (fun i => if en m n i then gatherLane c n chk a b x i else none) (512 / n) := by
  have hlane : ∀ i, laneFault .indexRange i [(0, wrapN 32 (gIndex c b i)), (4, gLimit c a)] =
      ⟨.indexRange, i, lane 32 (c.getV b) i + gLimit c a * 2 ^ 32⟩ := fun i => by
    rw [gIndex, wrapN_sextN (lane_lt 32 _ i), laneFault, detail_cons, detail_cons, detail_nil, Nat.add_zero, Nat.mul_zero, pow_zero,
      Nat.mul_one]
  simp only [gatherCheck, gatherLane, hlane]

/-! ### What the loads read (16 R333-R335) -/

theorem Mem.read_add (m : Mem) (a j k : Nat) : m.read a (j + k) = m.read a j + m.read (a + j) k * 256 ^ j := by
  rw [Mem.read_eq_sum, Mem.read_eq_sum, Mem.read_eq_sum, List.range_add, List.map_append, List.sum_append, List.map_map,
    ← List.sum_map_mul_right]
  congr 2
  refine List.map_congr_left fun i _ => ?_
  simp only [Function.comp_apply, Nat.pow_add, Nat.add_assoc]
  ring

/-- A run of bytes within a run. -/
theorem Mem.read_within (m : Mem) {a j k l : Nat} (h : j + k ≤ l) : m.read a l / 256 ^ j % 256 ^ k = m.read (a + j) k := by
  obtain ⟨r, rfl⟩ := Nat.exists_eq_add_of_le h
  rw [Nat.add_assoc, Mem.read_add, Nat.add_mul_div_right _ _ (by positivity), Nat.div_eq_of_lt (Mem.read_lt m a j), Nat.zero_add,
    Mem.read_add, Nat.add_mul_mod_self_right, Nat.mod_eq_of_lt (Mem.read_lt m (a + j) k)]

/-- R332, R333: a run of the 64 bytes from an unbounded offset that lies at or above 0. -/
theorem padWord_within (m : Mem) {base : Int} {j k : Nat} (h0 : 0 ≤ base + j) (h : j + k ≤ 64) :
    padWord m base / 256 ^ j % 256 ^ k = m.read (base + j).toNat k := by
  unfold padWord
  split
  · rw [Mem.read_within m h, show base.toNat + j = (base + j).toNat by omega]
  · obtain ⟨s, rfl⟩ : ∃ s : Nat, base = -s := ⟨(-base).toNat, by omega⟩
    obtain ⟨i, rfl⟩ : ∃ i, j = s + i := ⟨j - s, by omega⟩
    rw [Int.neg_neg, Int.toNat_natCast, Nat.pow_mul, show 2 ^ 8 = 256 from rfl, Nat.pow_add, ← Nat.div_div_eq_div_mul,
      Nat.mul_div_cancel _ (by positivity), Mem.read_within m (by omega), show 0 + i = (-(s : Int) + (s + i : Nat)).toNat by omega]

theorem padWord_lt (m : Mem) (base : Int) : padWord m base < 2 ^ 512 := by
  have h256 : (2 : Nat) ^ 512 = 256 ^ 64 := by rw [show 256 = 2 ^ 8 from rfl, ← Nat.pow_mul]
  rw [h256]
  unfold padWord
  split
  · exact Mem.read_lt m _ 64
  · generalize (-base).toNat = s
    rw [Nat.pow_mul, show 2 ^ 8 = 256 from rfl]
    by_cases hs : s ≤ 64
    · calc m.read 0 (64 - s) * 256 ^ s < 256 ^ (64 - s) * 256 ^ s := Nat.mul_lt_mul_of_pos_right (Mem.read_lt m 0 _) (by positivity)
        _ = 256 ^ 64 := by rw [← Nat.pow_add, Nat.sub_add_cancel hs]
    · rw [Nat.sub_eq_zero_of_le (by omega), show m.read 0 0 = 0 from rfl, Nat.zero_mul]
      positivity

/-- The widths of the lanes that a load may have. -/
theorem tyBits_of_tyD {t : BitVec 4} (ht : tyD t = true) : tyBits t.toNat = 4 ∨ ∃ b, tyBits t.toNat = 8 * b ∧ 0 < b := by
  have hall : ∀ t : BitVec 4, tyD t = true → tyBits t.toNat = 4 ∨ ∃ b < 9, tyBits t.toNat = 8 * b ∧ 0 < b := by decide
  exact (hall t ht).imp_right fun ⟨b, _, h⟩ => ⟨b, h⟩

/-- R333: lane `i` of the word that VLD reads. -/
theorem lane_padWord {n : Nat} (hn : n = 4 ∨ ∃ b, n = 8 * b ∧ 0 < b) (m : Mem) (base : Int) {i : Nat} (hi : i < 512 / n)
    (h0 : 0 ≤ base + (n * i / 8 : Nat)) : lane n (BitVec.ofNat 512 (padWord m base)) i =
      m.read (base + (n * i / 8 : Nat)).toNat (max 1 (n / 8)) / (if n = 4 then 16 ^ (i % 2) else 1) % 2 ^ n := by
  rw [lane, BitVec.toNat_ofNat, Nat.mod_eq_of_lt (padWord_lt m base)]
  rcases hn with rfl | ⟨b, rfl, hpos⟩
  · have hread : padWord m base / 256 ^ (4 * i / 8) % 256 ^ 1 = _ := padWord_within m h0 (by omega)
    have hplace : 2 ^ (4 * i) = 256 ^ (4 * i / 8) * 16 ^ (i % 2) := by
      rw [show 256 = 2 ^ 8 from rfl, show 16 = 2 ^ 4 from rfl, ← Nat.pow_mul, ← Nat.pow_mul, ← Nat.pow_add]
      congr 1
      omega
    show _ = m.read _ 1 / 16 ^ (i % 2) % 2 ^ 4
    rw [← hread, hplace, ← Nat.div_div_eq_div_mul]
    rcases Nat.mod_two_eq_zero_or_one i with h | h <;> rw [h] <;> omega
  · have hplace : 8 * b * i / 8 = b * i := by rw [Nat.mul_assoc, Nat.mul_div_cancel_left _ (by decide)]
    have hsize : max 1 (8 * b / 8) = b := by omega
    have hlanes : b * i + b ≤ 64 := by
      have := (Nat.le_div_iff_mul_le (by omega)).mp (Nat.succ_le_of_lt hi)
      have : i.succ * (8 * b) = 8 * (b * i + b) := by rw [Nat.succ_eq_add_one]; ring
      omega
    have hplaces : ∀ k, 2 ^ (8 * k) = 256 ^ k := fun k => Nat.pow_mul 2 8 k
    rw [hplace] at h0 ⊢
    rw [hsize, if_neg (by omega), Nat.div_one, Nat.mul_assoc, hplaces, hplaces, Nat.mod_eq_of_lt (Mem.read_lt m _ b)]
    exact padWord_within m h0 hlanes

theorem exec_vld_eq (t : BitVec 4) (d : BitVec 5) (a : BitVec 4) (m : BitVec 3) (x : Option Word) (s : State) :
    exec (.vld t d a m x) s = onCells (checkedOp
      (fun _ p => contigCheck p (p.getM m) (tyBits t.toNat) (padBase p a x)) fun env p q =>
        q.setV d (mergeLanes (tyBits t.toNat) (p.getM m) (p.getV d)
          (lane (tyBits t.toNat) (BitVec.ofNat 512 (padWord (raceView env p) (padBase p a x)))))) s := rfl
theorem exec_vlds_eq (t : BitVec 4) (d : BitVec 5) (a b : BitVec 4) (m : BitVec 3) (x : Option Word) (s : State) :
    exec (.vlds t d a b m x) s = onCells (checkedOp
      (fun _ p => elementCheck p (p.getM m) (tyBits t.toNat) (512 / tyBits t.toNat) fun i => padBase p a x + i * (p.getB b).toInt)
      fun env p q => q.setV d (mergeLanes (tyBits t.toNat) (p.getM m) (p.getV d) fun i =>
        (raceView env p).read (padBase p a x + i * (p.getB b).toInt).toNat (tyBits t.toNat / 8))) s := rfl
theorem exec_vgath_eq (t : BitVec 4) (d : BitVec 5) (a : BitVec 4) (b : BitVec 5) (m : BitVec 3) (c : BitVec 1) (x : Option Word)
    (s : State) : exec (.vgath t d a b m c x) s = onCells (checkedOp
      (fun _ p => gatherCheck p (p.getM m) (tyBits t.toNat) (c == 1) a b x)
      fun env p q => { q.setV d (mergeLanes (tyBits t.toNat) (p.getM m) (p.getV d) fun i => if gIn p a b i
          then (raceView env p).read (padBase p a x + gIndex p b i * (tyBits t.toNat / 8 : Nat)).toNat (tyBits t.toNat / 8) else 0) with
        cflags := q.cflags.addOob (gOob p (p.getM m) (tyBits t.toNat) a b) }) s := rfl
theorem exec_bld_eq (b a : BitVec 4) (x : Option Word) (s : State) :
    exec (.bld b a x) s = onCells (checkedOp (fun _ p => padCheck p 0xFF (padBase p a x) 4 4) fun env p q =>
      q.setB b (BitVec.ofNat 32 ((raceView env p).read (padBase p a x).toNat 4))) s := rfl

theorem CFlags.addOob_zero (f : CFlags) : f.addOob 0 = f := by
  have := f.oobcnt.isLt
  rw [CFlags.addOob, Nat.add_zero, Nat.min_eq_right (by omega), BitVec.ofNat_toNat, BitVec.setWidth_eq]

/-- A load: the lanes that the mask enables, the count of lanes out of range, and nothing else (R332-R335). -/
def Loads (n : Nat) (d : BitVec 5) (m : BitVec 3) (val : Mem → Cell → Nat → Nat) (oob : Cell → Nat) :
    Env → Cell → Cell → Cell → Prop := fun env p q q' =>
  ∃ v, MayFind env p v ∧
    q' = { q with v := q'.v, cflags := { q.cflags with oobcnt := BitVec.ofNat 16 (min 0xFFFF (q.cflags.oobcnt.toNat + oob p)) } } ∧
    (∀ r, r ≠ d → q'.getV r = q.getV r) ∧
    ∀ i, i < 512 / n → lane n (q'.getV d) i = if (p.getM m).getLsbD (n * i / 32) = true then val v p i else lane n (p.getV d) i

theorem loads_mergeLanes {n : Nat} {d : BitVec 5} {m : BitVec 3} {val : Mem → Cell → Nat → Nat} {oob : Cell → Nat} {env : Env}
    {p q : Cell} {f : Nat → Nat} (hp : Mem.wf p.pad = true)
    (hval : ∀ i, i < 512 / n → en (p.getM m) n i = true → f i % 2 ^ n = val (raceView env p) p i) :
    Loads n d m val oob env p q { q.setV d (mergeLanes n (p.getM m) (p.getV d) f) with cflags := q.cflags.addOob (oob p) } := by
  refine ⟨raceView env p, raceView_mayFind env hp, rfl, fun r hr => Cell.getV_setV_ne q _ hr, fun i hi => ?_⟩
  refine (congrArg (lane n · i) (Cell.getV_setV_same q d _)).trans ?_
  rw [lane_mergeLanes _ _ _ hi]
  by_cases h : (p.getM m).getLsbD (n * i / 32) = true
  · rw [if_pos h, if_pos h, hval i hi h]
  · rw [if_neg h, if_neg h]

/-- A load that counts no lane leaves CFLAGS. -/
theorem loads_mergeLanes_all {n : Nat} {d : BitVec 5} {m : BitVec 3} {val : Mem → Cell → Nat → Nat} {env : Env}
    {p q : Cell} {f : Nat → Nat} (hp : Mem.wf p.pad = true)
    (hval : ∀ i, i < 512 / n → en (p.getM m) n i = true → f i % 2 ^ n = val (raceView env p) p i) :
    Loads n d m val (fun _ => 0) env p q (q.setV d (mergeLanes n (p.getM m) (p.getV d) f)) := by
  have h := loads_mergeLanes (d := d) (oob := fun _ => 0) (q := q) hp hval
  rwa [CFlags.addOob_zero] at h

theorem two_pow_tyBits {t : BitVec 4} (ht : tyL t = true) : 256 ^ (tyBits t.toNat / 8) = 2 ^ tyBits t.toNat := by
  have hbytes : ∀ t : BitVec 4, tyL t = true → 8 * (tyBits t.toNat / 8) = tyBits t.toNat := by decide
  rw [show 256 = 2 ^ 8 from rfl, ← Nat.pow_mul, hbytes t ht]

/-- Settles O13: the checks of the enabled lanes pass, and each lane is a run of the bytes that the load may find. -/
theorem scratchpadLoads : Obligations.ScratchpadLoads := by
  intro t d b5 a b m x ht n base clear on al elem loads
  have hbase : ∀ p : Cell, padBase p a x = base p := fun p => padBase_eq p a x
  have helem : ∀ v o k, elem v o k = Mem.read v o.toNat k := fun v o k => (Mem.read_eq_sum v o.toNat k).symm
  have hclear : ∀ {p : Cell} {o : Int} {k al : Nat} (l : Nat), clear p o k al → padCheck p l o k al = none :=
    fun l ⟨hlo, hhi, halign, hguards⟩ => padCheck_eq_none.mpr ⟨⟨hlo, hhi⟩, halign, hguards⟩
  refine ⟨?vld, fun hl => ?vlds, fun hl c => ?vgath, ?bld⟩
  case vld =>
    refine actsOnCells_checked (exec_vld_eq t d a m x) (fun _ p _ h ha => ?_) fun env p q h ha => ?_
    · obtain ⟨halign, hlanes⟩ := h.2 ha
      rw [contigCheck_eq, hbase]
      refine lanesFault_eq_none fun i hi hen => (contigLane_checks p n (base p) i).passes.mpr ?_
      obtain ⟨hlo, hhi, -, hguards⟩ := hlanes i hi hen
      exact ⟨⟨hlo, hhi⟩, not_not.mpr halign, hguards⟩
    · refine loads_mergeLanes_all (n := n) (val := fun v p i => elem v (base p + (n * i / 8 : Nat)) (max 1 (n / 8)) /
        (if n = 4 then 16 ^ (i % 2) else 1) % 2 ^ n) h.1 fun i hi hen => ?_
      rw [helem, hbase, Nat.mod_eq_of_lt (lane_lt _ _ _)]
      exact lane_padWord (tyBits_of_tyD ht) _ _ hi ((h.2 ha).2 i hi hen).1
  case vlds =>
    intro at_
    refine actsOnCells_checked (exec_vlds_eq t d a b m x) (fun _ p _ h ha => ?_) fun env p q h ha => ?_
    · refine lanesFault_eq_none fun i hi hen => ?_
      rw [hbase, alignOf_eq hl]
      exact hclear i (h.2 ha i hi hen)
    · refine loads_mergeLanes_all (n := n) (val := fun v p i => elem v (at_ p i) (n / 8)) h.1 fun i _ _ => ?_
      rw [helem, hbase, Nat.mod_eq_of_lt (two_pow_tyBits hl ▸ Mem.read_lt _ _ _)]
  case vgath =>
    intro idx isIn at_
    have hin : ∀ p i, gIn p a b5 i = true ↔ isIn p i := fun p i => decide_eq_true_iff
    refine actsOnCells_checked (exec_vgath_eq t d a b5 m c x) (fun _ p _ h ha => ?_) fun env p q h ha => ?_
    · rw [gatherCheck_eq]
      refine lanesFault_eq_none fun i hi hen => ?_
      rcases h.2 ha i hi hen with ⟨hisIn, hlane⟩ | ⟨hisIn, hc⟩
      · rw [gatherLane, if_pos ((hin p i).mpr hisIn), hbase, alignOf_eq hl]
        exact hclear i hlane
      · rw [gatherLane, if_neg (mt (hin p i).mp hisIn), if_neg (by simp [hc])]
    · have hcount : ∀ p : Cell, gOob p (p.getM m) n a b5 = (List.range (512 / n)).countP fun i =>
          (p.getM m).getLsbD (n * i / 32) && !decide (isIn p i) := fun p => List.countP_eq_length_filter.symm
      rw [hcount]
      refine loads_mergeLanes (n := n) (val := fun v p i => if isIn p i then elem v (at_ p i) (n / 8) else 0) (oob := fun p =>
        (List.range (512 / n)).countP fun i => (p.getM m).getLsbD (n * i / 32) && !decide (isIn p i)) h.1 fun i _ _ => ?_
      by_cases hi' : isIn p i
      · rw [if_pos ((hin p i).mpr hi'), if_pos hi', helem, hbase, Nat.mod_eq_of_lt (two_pow_tyBits hl ▸ Mem.read_lt _ _ _)]
        rfl
      · rw [if_neg (mt (hin p i).mp hi'), if_neg hi', Nat.zero_mod]
  case bld =>
    refine actsOnCells_checked (exec_bld_eq b a x) (fun _ p _ h ha => ?_) fun env p q h _ => ?_
    · rw [hbase]
      exact hclear _ (h.2 ha)
    · refine ⟨raceView env p, raceView_mayFind env h.1, onlyB_setB q b _, ?_⟩
      rw [helem, ← hbase]
      exact Cell.getB_setB_same q b _

end Sys2Proof.Machine

namespace Sys2Proof.Machine
open Sys2Proof

/-! ### Address words and flags of the C slot (09 R166-R168, 14 R272, 19 R376) -/

theorem bits_eq_extractLsb' (w : BitVec n) (hi lo : Nat) : bits w hi lo = (w.extractLsb' lo (hi + 1 - lo)).toNat := by
  rw [BitVec.extractLsb'_toNat]
  rfl
theorem sextN_toInt (x n : Nat) : sextN x n = (BitVec.ofNat n x).toInt := by
  rw [BitVec.toInt, BitVec.toNat_ofNat]
  rfl

theorem tagOf_eq (a : Xword) : tagOf a = (a.extractLsb' 62 2).toNat := bits_eq_extractLsb' a 63 62
theorem sliceDev_eq (a : Xword) : sliceDev a = (a.extractLsb' 56 6).toNat := bits_eq_extractLsb' a 61 56
theorem sliceDie_eq (a : Xword) : sliceDie a = (a.extractLsb' 50 6).toNat := bits_eq_extractLsb' a 55 50
theorem sliceCell_eq (a : Xword) : sliceCell a = (a.extractLsb' 39 11).toNat := bits_eq_extractLsb' a 49 39
theorem sliceOff_eq (a : Xword) : sliceOff a = (a.extractLsb' 0 17).toNat := bits_eq_extractLsb' a 16 0
theorem tagOf_eq_two {a : Xword} : tagOf a = 2 ↔ a.extractLsb' 62 2 = 2 := by
  rw [tagOf_eq, ← BitVec.toNat_inj]
  rfl
theorem sliceDev_eq_dev {env : Env} {a : Xword} : sliceDev a = env.dev.toNat ↔ a.extractLsb' 56 6 = env.dev := by
  rw [sliceDev_eq, BitVec.toNat_inj]

theorem extractLsb'_eq_zero {w : BitVec n} {lo hi : Nat} : w.extractLsb' lo (hi + 1 - lo) = 0 ↔ bits w hi lo = 0 := by
  rw [bits_eq_extractLsb', ← BitVec.toNat_inj]
  rfl

/-- R167: the model's check of an address word is the rule's. -/
theorem addrOk_iff {env : Env} {a : Xword} : addrOk env a = true ↔ GoodAddress env a := by
  have h0 : a.extractLsb' 57 5 = 0 ↔ bits a 61 57 = 0 := extractLsb'_eq_zero (hi := 61)
  have h1 : a.extractLsb' 52 10 = 0 ↔ bits a 61 52 = 0 := extractLsb'_eq_zero (hi := 61)
  have h2 : a.extractLsb' 17 22 = 0 ↔ bits a 38 17 = 0 := extractLsb'_eq_zero (hi := 38)
  have hmbz : mbzOk a = match tagOf a with
    | 0 => bits a 61 57 == 0
    | 1 => bits a 61 52 == 0
    | 2 => bits a 38 17 == 0
    | _ => bits a 61 56 == 0 && bits a 38 36 == 0 && bits a 21 9 == 0 && bits a 5 0 == 0 := rfl
  rw [addrOk, GoodAddress, hmbz, tagOf_eq, sliceCell_eq, sliceDie_eq, h0, h1, h2, ← sliceDev_eq_dev]
  obtain h | h | h | h : a.extractLsb' 62 2 = 0 ∨ a.extractLsb' 62 2 = 1 ∨ a.extractLsb' 62 2 = 2 ∨ a.extractLsb' 62 2 = 3 := by
    generalize a.extractLsb' 62 2 = t
    revert t
    decide
  all_goals rw [h]; simp
  intro _ _
  rw [← imp_iff_not_or]

theorem offC_eq (x : Option Word) : offC x = (offsetOf x).toInt := by
  cases x with
  | none => rfl
  | some w =>
    rw [offC, sextN_toInt, show offsetOf (some w) = w.extractLsb' 12 20 from rfl, BitVec.extractLsb', Nat.shiftRight_eq_div_pow]

theorem flagC_eq (x : Option Word) : flagC x = flagOf x := by
  cases x with
  | none => rfl
  | some w =>
    have hbit : w.toNat % 2 ^ 12 / 16 % 2 = 1 ↔ w.getLsbD 4 = true := by
      rw [BitVec.getLsbD, Nat.testBit_eq_decide_div_mod_eq, decide_eq_true_iff]
      omega
    have hflag : BitVec.ofNat 4 (w.toNat % 2 ^ 12) = w.extractLsb' 0 4 := by
      apply BitVec.eq_of_toNat_eq
      rw [BitVec.toNat_ofNat, BitVec.extractLsb'_toNat, Nat.shiftRight_zero]
      omega
    simp only [flagC, flagOf, landC, Option.bind_some, hflag, hbit]

/-- R376: the address operand of a C slot. -/
theorem addrC_eq (p : Cell) (b : BitVec 4) (off : BitVec 20) : addrC p b off.toInt = addressOf p b off := rfl

theorem accessCheck_form {env : Env} {l : Nat} {a : Xword} {n al : Nat} (h : ¬GoodAddress env a) :
    accessCheck env l a n al = some ⟨.addressForm, l, a.toNat⟩ := by
  have hbad : addrOk env a = false := by rw [← Bool.not_eq_true, addrOk_iff]; exact h
  simp [accessCheck, hbad, badAddr, laneFault, detail_one]

/-- R168, R469: an accepted address word, past the end of a scratchpad of this device or out of alignment. -/
theorem accessCheck_good {env : Env} {l : Nat} {a : Xword} {n al : Nat} (h : GoodAddress env a) :
    (¬InPad env a n → accessCheck env l a n al = some ⟨.padRange, l, (a.extractLsb' 0 17).toNat⟩) ∧
    (InPad env a n → a.toNat % al ≠ 0 → accessCheck env l a n al = some ⟨.misaligned, l,
      if a.extractLsb' 62 2 = 2 then (a.extractLsb' 0 17).toNat else a.toNat % 2 ^ 32⟩) ∧
    (InPad env a n → a.toNat % al = 0 → accessCheck env l a n al = none) := by
  have hpast : (tagOf a = 2 ∧ sliceDev a = env.dev.toNat ∧ padSize < sliceOff a + n) ↔ ¬InPad env a n := by
    rw [tagOf_eq_two, sliceDev_eq_dev, sliceOff_eq, InPad, padSize]
    simp only [Classical.not_imp, Nat.not_le]
  refine ⟨fun hout => ?_, fun hin hmis => ?_, fun hin hal => ?_⟩
  all_goals rw [accessCheck, addrOk_iff.mpr h, if_neg (by decide)]
  · rw [if_pos (hpast.mpr hout), laneFault, detail_one, sliceOff_eq]
  · rw [if_neg (mt hpast.mp (not_not.mpr hin)), if_pos hmis]
    simp only [laneFault, detail_one, sliceOff_eq, tagOf_eq_two]
  · rw [if_neg (mt hpast.mp (not_not.mpr hin)), if_neg (not_not.mpr hal)]

end Sys2Proof.Machine

namespace Sys2Proof.Machine
open Sys2Proof

/-! ### What a cell raises (08 R151, R159; 16 R332-R336, R469) -/

/-- A check, and what the operation does where the check passes. -/
def checkedThen (chk : Env → Cell → Option CellFault) (g : CellFn) : CellFn :=
  ifActive fun env pre post => match chk env pre with | some e => .error e | none => g env pre post

theorem raisesInCells_checkedThen {i : Instr} {chk : Env → Cell → Option CellFault} {g : CellFn}
    (hi : ∀ s, exec i s = onCells (checkedThen chk g) s) {h : Env → Cell → Cell → Prop} {e : Env → Cell → Cell → CellFault}
    (hact : ∀ env p q, h env p q → p.act = true) (hraise : ∀ env p q, h env p q → chk env p = some (e env p q)) :
    RaisesInCells i h e :=
  raisesInCells_of hi fun env p q hh => by
    simp only [checkedThen, ifActive, hact env p q hh, if_true, hraise env p q hh]

/-- A fault under a condition is one under any condition that implies it. -/
theorem RaisesInCells.imp {i : Instr} {h h' : Env → Cell → Cell → Prop} {e : Env → Cell → Cell → CellFault}
    (hr : RaisesInCells i h e) (himp : ∀ env p q, h' env p q → h env p q) : RaisesInCells i h' e := by
  intro s f hf
  obtain ⟨ws, hws, hlen, hcells⟩ := hr s f hf
  exact ⟨ws, hws, hlen, fun k w w' hk hk' j p q hp hq hskip hh =>
    hcells k w w' hk hk' j p q hp hq hskip (himp _ p q hh)⟩

theorem exec_bst_eq (b a : BitVec 4) (x : Option Word) (s : State) :
    exec (.bst b a x) s = onCells (checkedOp (fun _ p => padCheck p 0xFF (padBase p a x) 4 4) fun _ p q =>
      q.store (q.pad.write (padBase p a x).toNat 4 (p.getB b).toNat) [((padBase p a x).toNat, 4)]) s := rfl
theorem exec_vst_eq (t : BitVec 4) (d : BitVec 5) (a : BitVec 4) (m : BitVec 3) (x : Option Word) (s : State) :
    exec (.vst t d a m x) s = onCells (checkedOp
      (fun _ p => contigCheck p (p.getM m) (tyBits t.toNat) (padBase p a x)) fun _ p q =>
        let l := (storedBytes (tyBits t.toNat) (p.getM m) (p.getV d)).map fun b => ((padBase p a x + b.1).toNat, b.2)
        q.store (l.foldl (fun u b => u.set b.1 b.2) q.pad) (l.map fun b => (b.1, 1))) s := rfl
theorem exec_vsts_eq (t : BitVec 4) (d : BitVec 5) (a b : BitVec 4) (m : BitVec 3) (x : Option Word) (s : State) :
    exec (.vsts t d a b m x) s = onCells (checkedOp
      (fun _ p => elementCheck p (p.getM m) (tyBits t.toNat) (512 / tyBits t.toNat) fun i => padBase p a x + i * (p.getB b).toInt)
      fun _ p q =>
        let ls := (enabledLanes (p.getM m) (tyBits t.toNat) (512 / tyBits t.toNat)).map fun (i : Nat) =>
          ((padBase p a x + i * (p.getB b).toInt).toNat, lane (tyBits t.toNat) (p.getV d) i)
        q.store (storeLanes q.pad (tyBits t.toNat) ls) (ls.map fun e => (e.1, tyBits t.toNat / 8))) s := rfl
theorem exec_vscat_eq (t : BitVec 4) (d : BitVec 5) (a : BitVec 4) (b : BitVec 5) (m : BitVec 3) (c : BitVec 1) (x : Option Word)
    (s : State) : exec (.vscat t d a b m c x) s = onCells (checkedOp
      (fun _ p => gatherCheck p (p.getM m) (tyBits t.toNat) (c == 1) a b x) fun _ p q =>
        let ls := (gLanes p (p.getM m) (tyBits t.toNat) a b x).map fun e => (e.2, lane (tyBits t.toNat) (p.getV d) e.1)
        { q.store (storeLanes q.pad (tyBits t.toNat) ls) (ls.map fun e => (e.1, tyBits t.toNat / 8)) with
          cflags := q.cflags.addOob (gOob p (p.getM m) (tyBits t.toNat) a b) }) s := rfl

/-- VSCATA past its lanes' checks: the additions, and their floating-point trap (R336). -/
def scatterAdd (t : BitVec 4) (d : BitVec 5) (a : BitVec 4) (b : BitVec 5) (m : BitVec 3) (x : Option Word) : CellFn :=
  fun env p q =>
    let n := tyBits t.toNat
    let ls := (gLanes p (p.getM m) n a b x).map fun e => (e.1, e.2, lane n (p.getV d) e.1)
    let sums := addLanes (FpCtl.ofWord env.carried.fpctl) t.toNat n ls (p.pad, [])
    match fpTrap (FpCtl.ofWord env.carried.fpctl) sums.2 with
    | some f => .error f
    | none => .ok { q.store (ls.foldl (fun u e => u.write e.2.1 (n / 8) (sums.1.read e.2.1 (n / 8))) q.pad)
          (ls.map fun e => (e.2.1, n / 8)) with
        cflags := { q.cflags.addOob (gOob p (p.getM m) n a b) with fp := q.cflags.fp ||| orFlags sums.2 } }
theorem exec_vscata_eq (t : BitVec 4) (d : BitVec 5) (a : BitVec 4) (b : BitVec 5) (m : BitVec 3) (c : BitVec 1) (x : Option Word)
    (s : State) : exec (.vscata t d a b m c x) s = onCells (checkedThen
      (fun _ p => gatherCheck p (p.getM m) (tyBits t.toNat) (c == 1) a b x) (scatterAdd t d a b m x)) s := rfl

/-- A check of lane `l` answers for its element, and where there is none for its index, under .chk only (R335). -/
structure ChecksLane (c : Cell) (l : Nat) (has : Prop) (o : Int) (k : Nat) (mis chk : Prop) (idx : Nat) (r : Option CellFault) :
    Prop where
  element : has → ChecksElement c l o k mis r
  passes : ¬has → ¬chk → r = none
  index : ¬has → chk → r = some ⟨.indexRange, l, idx⟩

theorem ChecksElement.lane {c : Cell} {l : Nat} {o : Int} {k : Nat} {mis chk : Prop} {idx : Nat} {r : Option CellFault}
    (h : ChecksElement c l o k mis r) : ChecksLane c l True o k mis chk idx r :=
  ⟨fun _ => h, fun hn => absurd trivial hn, fun hn => absurd trivial hn⟩

theorem gIn_iff {c : Cell} {a : BitVec 4} {b : BitVec 5} {i : Nat} :
    gIn c a b i = true ↔ 0 ≤ gIndex c b i ∧ gIndex c b i < gLimit c a := decide_eq_true_iff

theorem gatherLane_checks {t : BitVec 4} (ht : tyL t = true) (c : Cell) (a : BitVec 4) (b : BitVec 5) (x : Option Word)
    (chk : BitVec 1) (l : Nat) :
    ChecksLane c l (0 ≤ gIndex c b l ∧ gIndex c b l < gLimit c a) (padBase c a x + gIndex c b l * (tyBits t.toNat / 8 : Nat))
      (tyBits t.toNat / 8) ((padBase c a x + gIndex c b l * (tyBits t.toNat / 8 : Nat)) %
        (if tyBits t.toNat = 64 then 4 else tyBits t.toNat / 8 : Nat) ≠ 0) (chk = 1)
      (lane 32 (c.getV b) l + gLimit c a * 2 ^ 32) (gatherLane c (tyBits t.toNat) (chk == 1) a b x l) where
  element h := by
    rw [gatherLane, if_pos (gIn_iff.mpr h), ← alignOf_eq ht]
    exact padCheck_checks ..
  passes hn hc := by rw [gatherLane, if_neg (mt gIn_iff.mp hn), if_neg (by simpa using hc)]
  index hn hc := by rw [gatherLane, if_neg (mt gIn_iff.mp hn), if_pos (by simpa using hc)]

/-- R469: a form whose lanes are checked one by one raises, of the lowest enabled lane that breaks a check, the first check that
this lane breaks. -/
def RaisesInLanes (i : Instr) (n : Nat) (m : BitVec 3) (c : BitVec 1) (has : Cell → Nat → Prop) (off : Cell → Nat → Int) (k : Nat)
    (mis : Cell → Nat → Prop) (idx : Cell → Nat → Nat) : Prop :=
  let on := fun (p : Cell) => (List.range (512 / n)).filter fun l => (p.getM m).getLsbD (n * l / 32)
  let fine := fun (p : Cell) l => (has p l ∧ InsidePad (off p l) k ∧ ¬mis p l ∧ ∀ g ∈ p.guards, ¬Touches (off p l) k g) ∨
    (¬has p l ∧ c = 0)
  ∀ j,
    let first := fun (p : Cell) => p.act = true ∧ j ∈ on p ∧ ∀ l ∈ on p, l < j → fine p l
    RaisesInCells i (fun _ p _ => first p ∧ has p j ∧ ¬InsidePad (off p j) k) (fun _ p _ => ⟨.padRange, j, wrapN 32 (off p j)⟩) ∧
    RaisesInCells i (fun _ p _ => first p ∧ has p j ∧ InsidePad (off p j) k ∧ mis p j)
      (fun _ p _ => ⟨.misaligned, j, (off p j).toNat⟩) ∧
    (∀ g : GuardEntry, g.lo ≤ g.hi → g.hi < 131072 →
      RaisesInCells i (fun _ p _ => first p ∧ has p j ∧ InsidePad (off p j) k ∧ ¬mis p j ∧ p.guards = [g] ∧ Touches (off p j) k g)
        (fun _ p _ => ⟨.earlyTouch, j,
          max (off p j).toNat g.lo + g.lo * 2 ^ 32 + g.hi * 2 ^ 64 + g.tl.toNat * 2 ^ 96⟩)) ∧
    (c = 1 → RaisesInCells i (fun _ p _ => first p ∧ ¬has p j) (fun _ p _ => ⟨.indexRange, j, idx p j⟩))

theorem raisesInLanes {i : Instr} {n : Nat} {m : BitVec 3} {c : BitVec 1} {has : Cell → Nat → Prop} {off : Cell → Nat → Int}
    {k : Nat} {mis : Cell → Nat → Prop} {idx : Cell → Nat → Nat} {chk : Env → Cell → Option CellFault} {g : CellFn}
    (hi : ∀ s, exec i s = onCells (checkedThen chk g) s) (lanes : Cell → Nat → Option CellFault)
    (hchk : ∀ env p, chk env p = firstFault (fun l => if en (p.getM m) n l then lanes p l else none) (512 / n))
    (hlane : ∀ p l, ChecksLane p l (has p l) (off p l) k (mis p l) (c = 1) (idx p l) (lanes p l)) :
    RaisesInLanes i n m c has off k mis idx := by
  unfold RaisesInLanes
  intro on fine j first
  have hfine : ∀ {p l}, fine p l → lanes p l = none := by
    rintro p l (⟨hhas, hok⟩ | ⟨hhas, hc⟩)
    · exact ((hlane p l).element hhas).passes.mpr hok
    · exact (hlane p l).passes hhas (by rw [hc]; decide)
  have hfirst : ∀ {p : Cell} {e} (env : Env), first p → lanes p j = some e → chk env p = some e := by
    rintro p e env ⟨-, hj, hlow⟩ he
    exact (hchk env p).trans (lanesFault_eq hj he fun l hl hlt => hfine (hlow l hl hlt))
  have hraise : ∀ {h : Env → Cell → Cell → Prop} {e : Env → Cell → Cell → CellFault},
      (∀ env p q, h env p q → first p ∧ lanes p j = some (e env p q)) → RaisesInCells i h e := fun hh =>
    raisesInCells_checkedThen hi (fun env p q hp => (hh env p q hp).1.1) fun env p q hp =>
      hfirst env (hh env p q hp).1 (hh env p q hp).2
  refine ⟨hraise ?_, hraise ?_, fun g _ _ => hraise ?_, fun hc => hraise ?_⟩
  · rintro env p q ⟨hf, hhas, hout⟩
    exact ⟨hf, ((hlane p j).element hhas).range hout⟩
  · rintro env p q ⟨hf, hhas, hin, hmis⟩
    exact ⟨hf, ((hlane p j).element hhas).misaligned hin hmis⟩
  · rintro env p q ⟨hf, hhas, hin, hmis, hg, ht⟩
    exact ⟨hf, ((hlane p j).element hhas).touch hin hmis g hg ht⟩
  · rintro env p q ⟨hf, hhas⟩
    exact ⟨hf, (hlane p j).index hhas hc⟩

/-- R151, R159, R469: a form of one access, which needs no lane. -/
theorem raisesInCells_padCheck {i : Instr} {o : Cell → Int} {k al : Nat} {g : CellFn}
    (hi : ∀ s, exec i s = onCells (checkedThen (fun _ p => padCheck p 0xFF (o p) k al) g) s) :
    RaisesInCells i (fun _ p _ => p.act = true ∧ ¬InsidePad (o p) k) (fun _ p _ => ⟨.padRange, 0xFF, wrapN 32 (o p)⟩) ∧
    RaisesInCells i (fun _ p _ => p.act = true ∧ InsidePad (o p) k ∧ o p % al ≠ 0)
      (fun _ p _ => ⟨.misaligned, 0xFF, (o p).toNat⟩) ∧
    ∀ g : GuardEntry, RaisesInCells i
      (fun _ p _ => p.act = true ∧ InsidePad (o p) k ∧ o p % al = 0 ∧ p.guards = [g] ∧ Touches (o p) k g)
      (fun _ p _ => ⟨.earlyTouch, 0xFF, max (o p).toNat g.lo + g.lo * 2 ^ 32 + g.hi * 2 ^ 64 + g.tl.toNat * 2 ^ 96⟩) := by
  have hraise : ∀ {h : Env → Cell → Cell → Prop} {e : Env → Cell → Cell → CellFault},
      (∀ env p q, h env p q → p.act = true ∧ padCheck p 0xFF (o p) k al = some (e env p q)) → RaisesInCells i h e := fun hh =>
    raisesInCells_checkedThen hi (fun env p q hp => (hh env p q hp).1) fun env p q hp => (hh env p q hp).2
  refine ⟨hraise ?_, hraise ?_, fun g => hraise ?_⟩
  · rintro env p q ⟨ha, hout⟩
    exact ⟨ha, padCheck_range hout⟩
  · rintro env p q ⟨ha, hin, hmis⟩
    exact ⟨ha, padCheck_misaligned hin hmis⟩
  · rintro env p q ⟨ha, hin, hal, hg, ht⟩
    exact ⟨ha, padCheck_guarded hin hal hg ht⟩

/-! ### The floating-point trap (R234, R254) -/

/-- The trap of the lanes `on`: the lowest that raises an enabled flag, with the flags of all (R234). -/
theorem fpTrap_eq {ctl : FpCtl} {m : BitVec 16} {n l : Nat} {r : Nat → Flags5} {k : Nat} (hk : k ∈ enabledLanes m n l)
    (htrap : r k &&& ctl.enables ≠ 0) (hlow : ∀ j, j < k → j ∈ enabledLanes m n l → r j &&& ctl.enables = 0) :
    fpTrap ctl ((enabledLanes m n l).map fun i => (i, r i)) =
      some ⟨.fpException, k, ((enabledLanes m n l).foldl (fun z j => z ||| r j) 0).toNat⟩ := by
  have hfind : (enabledLanes m n l).find? (fun i => r i &&& ctl.enables != 0) = some k := by
    obtain ⟨hrange, hen⟩ := List.mem_filter.mp hk
    rw [enabledLanes, List.find?_filter, List.find?_range_eq_some]
    refine ⟨by simpa [hen] using htrap, hrange, fun j hj => ?_⟩
    by_cases hm : en m n j = true
    · simp [hlow j hj (List.mem_filter.mpr ⟨List.mem_range.mpr (hj.trans (List.mem_range.mp hrange)), hm⟩)]
    · simp [hm]
  rw [fpTrap, List.find?_map, orFlags, List.foldl_map]
  simp only [Function.comp_def, hfind, Option.map_some, laneFault, detail_one]

theorem raises_fpBin {i : Instr} {t : BitVec 4} {d a b : BitVec 5} {m : BitVec 3} {x : Option Word}
    {op : Fmt → FpCtl → Nat → Nat → Nat × Flags5} (hi : ∀ s, exec i s = onCells (fpBin t d a b m x op) s) :
    let n := tyBits t.toNat
    let r := fun (env : Env) (p : Cell) k => (op (fmtF t) (ctlOf env) (lane n (p.getV a) k) (immFp t.toNat x (p.getV b) k)).2
    let on := fun (p : Cell) => (List.range (512 / n)).filter fun k => (p.getM m).getLsbD (n * k / 32)
    ∀ k, RaisesInCells i (fun env p _ => p.act = true ∧ k ∈ on p ∧ r env p k &&& (ctlOf env).enables ≠ 0 ∧
        ∀ j, j < k → j ∈ on p → r env p j &&& (ctlOf env).enables = 0)
      (fun env p _ => ⟨.fpException, k, ((on p).foldl (fun z j => z ||| r env p j) 0).toNat⟩) := by
  intro n r on k
  refine raisesInCells_of hi ?_
  rintro env p q ⟨ha, hk, htrap, hlow⟩
  have htraps : fpTrap (ctlOf env) ((enabledLanes (p.getM m) n (512 / n)).map fun i => (i, r env p i)) = _ := fpTrap_eq hk htrap hlow
  simp only [fpBin, fpLanes, ifActive, ha, if_true, fpVec]
  rw [htraps]
  rfl

/-! ### Stream accesses (19 R382, R469) -/

/-- The checks of a stream access without a flag, at the start of its command. -/
theorem raises_stream {i : Instr} {tl : BitVec 2} {cls : BitVec 4} {e : BitVec 1} {jo : BitVec 6} {a : Cell → Xword} {n : Nat}
    {op : Cell → CmdOp} {land : Nat} {dests : List CellReg}
    (hi : ∀ s, exec i s = onCells (command tl cls e jo fun env p q => streamStart env (a p) n none (op p) land dests q) s) :
    RaisesInCells i (fun env p _ => p.act = true ∧ ¬GoodAddress env (a p)) (fun _ p _ => ⟨.addressForm, 0xFF, (a p).toNat⟩) ∧
    RaisesInCells i (fun env p _ => p.act = true ∧ GoodAddress env (a p) ∧ ¬InPad env (a p) n)
      (fun _ p _ => ⟨.padRange, 0xFF, ((a p).extractLsb' 0 17).toNat⟩) ∧
    RaisesInCells i (fun env p _ => p.act = true ∧ GoodAddress env (a p) ∧ InPad env (a p) n ∧ (a p).toNat % n ≠ 0)
      (fun _ p _ => ⟨.misaligned, 0xFF,
        if (a p).extractLsb' 62 2 = 2 then ((a p).extractLsb' 0 17).toNat else (a p).toNat % 2 ^ 32⟩) := by
  have hraise : ∀ {h : Env → Cell → Cell → Prop} {f : Env → Cell → Cell → CellFault},
      (∀ env p q, h env p q → p.act = true ∧ accessCheck env 0xFF (a p) n n = some (f env p q)) → RaisesInCells i h f := fun hh =>
    raisesInCells_of hi fun env p q hp => by
      obtain ⟨ha, hchk⟩ := hh env p q hp
      simp [command, ha, streamStart, flagCheck, hchk]
  refine ⟨hraise ?_, hraise ?_, hraise ?_⟩
  · rintro env p q ⟨ha, hform⟩
    exact ⟨ha, accessCheck_form hform⟩
  · rintro env p q ⟨ha, hgood, hout⟩
    exact ⟨ha, (accessCheck_good hgood).1 hout⟩
  · rintro env p q ⟨ha, hgood, hin, hmis⟩
    exact ⟨ha, (accessCheck_good hgood).2.1 hin hmis⟩

/-- Settles O15: the first check that fails, in the lowest lane that breaks one, gives the fault. -/
theorem cellFaults : Obligations.CellFaults := by
  refine ⟨?one, ?lanes, ?float, ?stream⟩
  case one =>
    intro a b x i hi base
    have hbase : (fun p => padBase p a x) = base := funext fun p => padBase_eq p a x
    obtain ⟨g, hg⟩ : ∃ g, ∀ s, exec i s = onCells (checkedThen (fun _ p => padCheck p 0xFF (base p) 4 4) g) s := by
      rw [← hbase]
      rcases hi with rfl | rfl
      · exact ⟨_, exec_bld_eq b a x⟩
      · exact ⟨_, exec_bst_eq b a x⟩
    obtain ⟨hrange, hmis, htouch⟩ := raisesInCells_padCheck (o := base) hg
    refine ⟨?_, ?_, fun g _ _ => ?_⟩
    · refine hrange.imp fun _ p _ ⟨ha, h⟩ => ⟨ha, ?_⟩
      unfold InsidePad
      omega
    · exact hmis.imp fun _ p _ ⟨ha, hlo, hhi, h⟩ => ⟨ha, ⟨hlo, hhi⟩, h⟩
    · exact (htouch g).imp fun _ p _ ⟨ha, hlo, hhi, hal, hg, ht⟩ => ⟨ha, ⟨hlo, hhi⟩, hal, hg, ht⟩
  case lanes =>
    intro t d b5 a b m c x ht n base idx isIn faults al every strided indexed
    have hbase : (fun p => padBase p a x) = base := funext fun p => padBase_eq p a x
    refine ⟨?contig, fun hl => ⟨?strided, ?indexed⟩⟩
    case contig =>
      have hraises : ∀ {i g}, (∀ s, exec i s = onCells (checkedThen
          (fun _ p => contigCheck p (p.getM m) n (padBase p a x)) g) s) →
          faults i every (fun p l => base p + (n * l / 8 : Nat)) (max 1 (n / 8)) (fun p _ => base p % 4 ≠ 0) := fun hi => by
        rw [← hbase]
        exact raisesInLanes hi (fun p => contigLane p n (padBase p a x)) (fun _ _ => contigCheck_eq ..) fun p l =>
          (contigLane_checks p n _ l).lane
      rintro i (rfl | rfl)
      · exact hraises (exec_vld_eq t d a m x)
      · exact hraises (exec_vst_eq t d a m x)
    case strided =>
      have hraises : ∀ {i g}, (∀ s, exec i s = onCells (checkedThen
          (fun _ p => elementCheck p (p.getM m) n (512 / n) fun i => padBase p a x + i * (p.getB b).toInt) g) s) →
          faults i every strided (n / 8) (fun p l => strided p l % al ≠ 0) := fun hi => by
        unfold strided
        rw [← hbase]
        exact raisesInLanes hi _ (fun _ _ => rfl) fun p l => by
          rw [alignOf_eq hl]
          exact (padCheck_checks ..).lane
      rintro i (rfl | rfl)
      · exact hraises (exec_vlds_eq t d a b m x)
      · exact hraises (exec_vsts_eq t d a b m x)
    case indexed =>
      have hraises : ∀ {i g}, (∀ s, exec i s = onCells (checkedThen
          (fun _ p => gatherCheck p (p.getM m) n (c == 1) a b5 x) g) s) →
          faults i isIn indexed (n / 8) (fun p l => indexed p l % al ≠ 0) := fun hi => by
        unfold indexed
        rw [← hbase]
        exact raisesInLanes hi _ (fun _ _ => gatherCheck_eq ..) fun p l => gatherLane_checks hl p a b5 x c l
      rintro i (rfl | rfl | rfl)
      · exact hraises (exec_vgath_eq t d a b5 m c x)
      · exact hraises (exec_vscat_eq t d a b5 m c x)
      · exact hraises (exec_vscata_eq t d a b5 m c x)
  case float =>
    intro t d a b m x _ n trap
    exact ⟨raises_fpBin (exec_vfadd t d a b m x), raises_fpBin (exec_vfmul t d a b m x)⟩
  case stream =>
    rintro i b off n (⟨l, d, e, jo, x, rfl, hflag, rfl, rfl⟩ | ⟨l, d, e, jo, m, rfl, rfl⟩) a
    · refine raises_stream (tl := 2) (cls := l) (e := e) (jo := jo) (op := fun p => .store (a p) (bytesOf 4 (p.getB d).toNat) none)
        (land := 0) (dests := []) fun s => ?_
      rw [exec_dst, execDst, flagC_eq, hflag, offC_eq]
      rfl
    · exact raises_stream (tl := 2) (cls := l) (e := e) (jo := jo) (op := fun p => .load (a p) d.toNat)
        (land := m.toNat) (dests := [.v d.toNat]) fun s => rfl

end Sys2Proof.Machine

namespace Sys2Proof.Machine
open Sys2Proof

/-! ### Commands that start with shapes (08 R146, 19 R375-R381) -/

/-- R146: some index within the extent meets the displacement's lowest value, some its highest. -/
theorem exists_index_min (e : Nat) (s : Int) : ∃ i : Nat, i < e + 1 ∧ (i : Int) * s = min 0 (e * s) := by
  by_cases hs : (e : Int) * s ≤ 0
  · exact ⟨e, by omega, (min_eq_right hs).symm⟩
  · exact ⟨0, by omega, by rw [min_eq_left (by omega)]; simp⟩
theorem exists_index_max (e : Nat) (s : Int) : ∃ i : Nat, i < e + 1 ∧ (i : Int) * s = max 0 (e * s) := by
  by_cases hs : (e : Int) * s ≤ 0
  · exact ⟨0, by omega, by rw [max_eq_left hs]; simp⟩
  · exact ⟨e, by omega, (max_eq_right (by omega)).symm⟩

/-- R146: every element of a shape lies within the scratchpad when the shape stands at an offset. -/
def Shape.FitsAt (h : Shape) (off : Nat) : Prop :=
  ∀ i0 i1 i2 i3 : Nat, i0 < h.ext 0 → i1 < h.ext 1 → i2 < h.ext 2 → i3 < h.ext 3 →
    0 ≤ (off : Int) + h.disp (i0, i1, i2, i3) ∧ (off : Int) + h.disp (i0, i1, i2, i3) + 2 ^ h.esz.toNat ≤ 131072

theorem Shape.FitsAt.reach {h : Shape} {off : Nat} (hfits : h.FitsAt off) :
    0 ≤ (off : Int) + h.reachLo ∧ (off : Int) + h.reachHi < padSize := by
  constructor
  · choose i hi heq using fun k : Nat => exists_index_min (h.e[k]?.getD 0).toNat (h.s[k]?.getD 0).toInt
    have hdisp : h.disp (i 0, i 1, i 2, i 3) = h.reachLo := by
      simp only [Shape.reachLo, ← heq]
      simp [Shape.disp, List.range_succ]
    exact hdisp ▸ (hfits _ _ _ _ (hi 0) (hi 1) (hi 2) (hi 3)).1
  · choose i hi heq using fun k : Nat => exists_index_max (h.e[k]?.getD 0).toNat (h.s[k]?.getD 0).toInt
    have hdisp : h.disp (i 0, i 1, i 2, i 3) + 2 ^ h.esz.toNat - 1 = h.reachHi := by
      simp only [Shape.reachHi, ← heq]
      simp [Shape.disp, List.range_succ]
    have hend := (hfits _ _ _ _ (hi 0) (hi 1) (hi 2) (hi 3)).2
    unfold padSize
    omega

theorem localRange_eq_none {h : Shape} (hfits : h.FitsAt h.base.toNat) : localRange h = none := by
  obtain ⟨hlo, hhi⟩ := hfits.reach
  exact if_neg (by omega)
theorem farRange_eq_none {env : Env} {h : Shape} (hfits : h.base.extractLsb' 62 2 = 2 → h.base.extractLsb' 56 6 = env.dev →
    h.FitsAt (h.base.extractLsb' 0 17).toNat) : farRange env h = none := by
  by_cases hown : tagOf h.base = 2 ∧ sliceDev h.base = env.dev.toNat
  · obtain ⟨hlo, hhi⟩ := (hfits (tagOf_eq_two.mp hown.1) (sliceDev_eq_dev.mp hown.2)).reach
    rw [← sliceOff_eq] at hlo hhi
    exact (if_pos hown).trans (if_neg (by omega))
  · exact if_neg hown

theorem firstOf_eq_none {l : List (Option CellFault)} (h : ∀ c ∈ l, c = none) : firstOf l = none :=
  List.findSome?_eq_none_iff.mpr h

/-- R207, R375: a command whose start succeeds with a value that the cell before the bundle gives. -/
theorem commands_of {i : Instr} {tl : BitVec 2} {cls : BitVec 4} {e : BitVec 1} {jo : BitVec 6}
    {start : Env → Cell → Cell → Except CellFault (Start × Cell)} (hi : ∀ s, exec i s = onCells (command tl cls e jo start) s)
    {ok : Env → Cell → Cell → Prop} {st : Env → Cell → Start} (hstart : ∀ env p q, ok env p q → start env p q = .ok (st env p, q)) :
    Commands i tl cls e jo ok st onlyLeaves := by
  refine actsOnCells_of hi fun env p q hok => ?_
  have hleaves : ∀ s : Start, Leaves tl cls e jo s env q (q.leave env tl cls (joinOf e jo) s) := fun s =>
    ⟨_, rfl, rfl, rfl, rfl, rfl, rfl, rfl, rfl, rfl, rfl⟩
  by_cases ha : p.act = true
  · refine ⟨q.leave env tl cls (joinOf e jo) (st env p), by simp [command, ha, hstart env p q (hok ha)], ?_, fun hn => ?_, fun _ => rfl⟩
    · rw [if_pos ha]
      exact hleaves _
    · exact absurd ha (by simp [hn])
  · refine ⟨q.leave env tl cls (joinOf e jo) (Start.plain .nothing), by simp [command, ha], ?_, fun _ => rfl, fun h => absurd h ha⟩
    rw [if_neg ha]
    exact hleaves _

/-- R378: what a side of a copy meets, in the scratchpad or at an address. -/
def SideFits (env : Env) (isNear : Bool) (h : Shape) : Prop :=
  h.base.toNat % min (2 ^ h.esz.toNat) 4 = 0 ∧
  if isNear then h.base.toNat < 2 ^ 17 ∧ h.FitsAt h.base.toNat
  else GoodAddress env h.base ∧ (h.base.extractLsb' 62 2 = 2 → h.base.extractLsb' 56 6 = env.dev →
    h.FitsAt (h.base.extractLsb' 0 17).toNat)

theorem SideFits.checks {env : Env} {isNear : Bool} {h : Shape} (hside : SideFits env isNear h) :
    (if isNear then localForm h else farForm env h) = none ∧ (if isNear then localRange h else farRange env h) = none ∧
    sideAlign h = none := by
  obtain ⟨halign, hfits⟩ := hside
  cases isNear with
  | true => exact ⟨if_pos hfits.1, localRange_eq_none hfits.2, if_pos halign⟩
  | false => exact ⟨if_pos (addrOk_iff.mpr hfits.1), farRange_eq_none hfits.2, if_pos halign⟩

theorem copyCheck_eq_none {env : Env} {src dst : Shape} {tr : Nat} {ls ld : Bool}
    (hesz : src.esz = dst.esz ∧ (tr = 1 → src.esz = 0) ∧ (tr = 2 → src.esz = 1)) (hext : tr = 0 → src.e = dst.e)
    (hturn : tr ≠ 0 → src.ext 0 = dst.ext 1 ∧ src.ext 1 = dst.ext 0 ∧ src.ext 2 = dst.ext 2 ∧ src.ext 3 = dst.ext 3)
    (hsrc : SideFits env ls src) (hdst : SideFits env ld dst) : copyCheck env src dst tr ls ld = none := by
  obtain ⟨hsf, hsr, hsa⟩ := hsrc.checks
  obtain ⟨hdf, hdr, hda⟩ := hdst.checks
  have hforms : if tr = 0 then src.e = dst.e
      else src.ext 0 = dst.ext 1 ∧ src.ext 1 = dst.ext 0 ∧ src.ext 2 = dst.ext 2 ∧ src.ext 3 = dst.ext 3 := by
    split
    · next h => exact hext h
    · next h => exact hturn h
  refine firstOf_eq_none ?_
  simp only [List.forall_mem_cons, hsf, hsr, hsa, hdf, hdr, hda, List.not_mem_nil, false_implies, implies_true,
    and_true]
  exact if_pos ⟨hesz, hforms⟩

theorem bit_eq (w : BitVec n) (i : Nat) : bit w i = w.getLsbD i := rfl

/-- The checks of the scratchpad forms, in their order (R380). -/
def indexedCheck (env : Env) (p : Cell) (d : BitVec 3) (b : BitVec 4) (w : BitVec 2) (x : Option Word) : Option CellFault :=
  let base := addrC p b (offC x)
  let h := p.h.get d
  let list := (p.getB (b + 3)).toNat
  firstOf [
    if h.esz = w then none else some (badAddr 0xFF base),
    localForm h,
    if addrOk env base then none else some (badAddr 0xFF base),
    localRange h,
    if padSize < list + 4 * h.count then some (plainFault .padRange [(0, list)]) else none,
    sideAlign h,
    if list % 4 = 0 then none else some (plainFault .misaligned [(0, list)]),
    if base.toNat % min (2 ^ w.toNat) 4 = 0 then none else some (plainFault .misaligned [(0, base.toNat % 2 ^ 32)])]

/-- The start of a scratchpad form: its checks, and then what it carries (R380, R381). -/
theorem indexedOp_eq (l : BitVec 4) (d : BitVec 3) (b : BitVec 4) (e : BitVec 1) (jo : BitVec 6) (w : BitVec 2) (x : Option Word)
    (kind : Nat) : indexedOp l d b e jo w x kind = command 1 l e jo fun env pre post =>
      match indexedCheck env pre d b w x with
      | some f => .error f
      | none => .ok (⟨.indexed kind (addrC pre b (offC x)) (elemLim pre b) (pre.getB (b + 3)).toNat (pre.h.get d) env.carried.fpctl,
          0, [], if kind = 0 then some (pre.h.get d).span else none⟩, post) := rfl

/-- R378, R380: a scratchpad form whose shape, address and index list fit. -/
theorem indexedCheck_eq_none {env : Env} {p : Cell} {d : BitVec 3} {b : BitVec 4} {w : BitVec 2} {x : Option Word}
    (hesz : (p.h.get d).esz = w) (hside : SideFits env true (p.h.get d)) (hgood : GoodAddress env (addressOf p b (offsetOf x)))
    (hbase : (addressOf p b (offsetOf x)).toNat % min (2 ^ w.toNat) 4 = 0)
    (hlist : (p.getB (b + 3)).toNat + 4 * (p.h.get d).count ≤ 131072) (hal : (p.getB (b + 3)).toNat % 4 = 0) :
    indexedCheck env p d b w x = none := by
  obtain ⟨hform, hrange, halign⟩ := hside.checks
  rw [if_pos rfl] at hform hrange
  refine firstOf_eq_none ?_
  rw [offC_eq, addrC_eq]
  simp only [List.forall_mem_cons, hform, hrange, halign, hesz, hbase, hal, addrOk_iff.mpr hgood, if_true, List.not_mem_nil,
    false_implies, implies_true, and_true, true_and]
  exact if_neg (Nat.not_lt.mpr hlist)

theorem commands_indexed {i : Instr} {l : BitVec 4} {d : BitVec 3} {b : BitVec 4} {e : BitVec 1} {jo : BitVec 6} {w : BitVec 2}
    {x : Option Word} {kind : Nat} (hi : ∀ s, exec i s = onCells (indexedOp l d b e jo w x kind) s) {ok : Env → Cell → Prop}
    (hok : ∀ env p, ok env p → indexedCheck env p d b w x = none) :
    Commands i 1 l e jo (fun env p _ => ok env p)
      (fun env p => ⟨.indexed kind (addressOf p b (offsetOf x)) (p.getB (b + 2)).toNat (p.getB (b + 3)).toNat (p.h.get d)
        env.carried.fpctl, 0, [], if kind = 0 then some (p.h.get d).span else none⟩) onlyLeaves :=
  commands_of (fun s => indexedOp_eq l d b e jo w x kind ▸ hi s) fun env p q h => by
    simp only [hok env p h]
    rw [offC_eq, addrC_eq]
    rfl

/-- R381: the bit of LAND that asks for FP32 additions. -/
theorem kind_dscata (x : Option Word) : 2 + landC x % 2 = if x.any fun (y : Word) => y.getLsbD 0 then 3 else 2 := by
  cases x with
  | none => rfl
  | some y =>
    have hbit : y.getLsbD 0 = decide (y.toNat % 2 = 1) := by rw [BitVec.getLsbD, Nat.testBit_zero]
    simp only [landC, Option.any_some, hbit, decide_eq_true_iff]
    split <;> omega

/-- Settles O23: each check passes where the shapes fit, and the command carries what its start read. -/
theorem shapedCommandsLeave : Obligations.ShapedCommandsLeave := by
  intro l b o d sh e jo w x inside aligned near far side tr base list ok op
  refine ⟨?copy, ?indexed⟩
  case copy =>
    refine commands_of (fun s => rfl) fun env p q ⟨hesz, h1, h2, hext, hturn, hs, hd⟩ => ?_
    have hsideFits : ∀ {n h}, side env n h → SideFits env n h := fun {n h} hside => by
      cases n with
      | true => exact ⟨hside.2.2, hside.1, hside.2.1⟩
      | false => exact ⟨hside.2.1, hside.1, hside.2.2⟩
    have hcheck : copyCheck env (p.h.get sh) (p.h.get d) tr (bit o 2) (bit o 3) = none :=
      copyCheck_eq_none ⟨hesz, h1, h2⟩ hext hturn (hsideFits hs) (hsideFits hd)
    simp only [tr] at hcheck
    simp only [hcheck, copyGuard, tagOf_eq_two, sliceDev_eq_dev, sliceDie_eq, sliceCell_eq, sliceOff_eq]
    rfl
  case indexed =>
    have hok : ∀ env p, ok env p → indexedCheck env p d b w x = none :=
      fun env p ⟨hesz, ⟨hform, hfits, hside⟩, hgood, hbase, hlist, hal⟩ =>
        indexedCheck_eq_none hesz ⟨hside, hform, hfits⟩ hgood hbase hlist hal
    refine ⟨commands_indexed (exec_dgathSp l d b e jo w x) hok, commands_indexed (exec_dscatSp l d b e jo w x) hok, ?_⟩
    have hadds := commands_indexed (exec_dscataSp l d b e jo w x) hok
    simp only [if_neg (show 2 + landC x % 2 ≠ 0 by omega)] at hadds
    rwa [kind_dscata] at hadds

end Sys2Proof.Machine

namespace Sys2Proof.Machine
open Sys2Proof

/-! ### Tiles of a cell (12 R244-R248, 18 R365-R369) -/

theorem Ctx.onCell_congr (y : Ctx) {d i : Nat} {x : Cell} (hx : y.cell? d i = some x) {f g : Cell → Cell} (h : f x = g x) :
    y.onCell d i f = y.onCell d i g := by
  have hdies : y.dies.modify d (fun z => z.onCell i f) = y.dies.modify d fun z => z.onCell i g := by
    refine List.ext_getElem? fun e => ?_
    rw [List.getElem?_modify, List.getElem?_modify]
    by_cases he : d = e
    · subst he
      unfold Ctx.cell? at hx
      cases hdie : y.dies[d]? with
      | none => rfl
      | some z =>
        rw [hdie, Option.bind_some] at hx
        have hcells : z.onCell i f = z.onCell i g := by
          refine congrArg (fun l => ({ z with cells := l } : Die)) (List.ext_getElem? fun k => ?_)
          rw [List.getElem?_modify, List.getElem?_modify]
          by_cases hk : i = k
          · subst hk
            simp [hx, h]
          · simp [hk]
        simp [hcells]
    · simp [he]
  exact congrArg (fun l => ({ y with dies := l } : Ctx)) hdies
theorem State.onCell_congr (s : State) {c : BitVec 4} {d i : Nat} {x : Cell} (hx : (s.slot c).ctx.cell? d i = some x)
    {f g : Cell → Cell} (h : f x = g x) : s.onCell c d i f = s.onCell c d i g :=
  s.onCtx_congr c (Ctx.onCell_congr _ hx h)

theorem Ctx.onCell_onCell (y : Ctx) (d i : Nat) (f g : Cell → Cell) : (y.onCell d i f).onCell d i g = y.onCell d i (g ∘ f) := by
  simp only [Ctx.onCell, Ctx.onDie, List.modify_modify_eq, Die.onCell, Function.comp_def]
theorem State.onCtx_onCtx (s : State) (c : BitVec 4) (f g : Ctx → Ctx) : (s.onCtx c f).onCtx c g = s.onCtx c (g ∘ f) := by
  simp only [State.onCtx, State.onSlot, State.putSlot, State.slot, RegFile.get_put_same, RegFile.put_put, Function.comp_apply]
theorem State.onCell_onCell (s : State) (c : BitVec 4) (d i : Nat) (f g : Cell → Cell) :
    (s.onCell c d i f).onCell c d i g = s.onCell c d i (g ∘ f) := by
  simp only [State.onCell, State.onCtx_onCtx, Function.comp_def, Ctx.onCell_onCell]

/-- A tile of a cell that has its number alone. -/
def Cell.HasTile (x : Cell) (t : Tile) (pre rest : List Tile) : Prop :=
  x.tiles = pre ++ t :: rest ∧ ∀ u ∈ pre ++ rest, u.id ≠ t.id

theorem Cell.HasTile.eq_of_id {x : Cell} {t : Tile} {pre rest : List Tile} (h : x.HasTile t pre rest) {u : Tile}
    (hu : u ∈ x.tiles) (hid : u.id = t.id) : u = t := by
  obtain ⟨htiles, hother⟩ := h
  rw [htiles, List.mem_append, List.mem_cons] at hu
  obtain hu | rfl | hu := hu
  · exact absurd hid (hother u (List.mem_append_left _ hu))
  · rfl
  · exact absurd hid (hother u (List.mem_append_right _ hu))

theorem Cell.HasTile.onTile {x : Cell} {t : Tile} {pre rest : List Tile} (h : x.HasTile t pre rest) (f : Tile → Tile) :
    x.onTile t.id f = x.onTile t.id fun _ => f t := by
  refine congrArg (fun l => ({ x with tiles := l } : Cell)) (List.map_congr_left fun u hu => ?_)
  split
  · next hid => rw [h.eq_of_id hu hid]
  · rfl

theorem Cell.HasTile.tileAt {x : Cell} {t : Tile} {pre rest : List Tile} (h : x.HasTile t pre rest) {p : TileSt → Bool}
    (ht : p t.st = true) (hpre : ∀ u ∈ pre, p u.st = false) : x.tileAt p = some t := by
  rw [Cell.tileAt, h.1, List.find?_eq_some_iff_append]
  exact ⟨ht, pre, rest, rfl, fun u hu => by rw [hpre u hu]; rfl⟩

theorem Cell.HasTile.mem {x : Cell} {t : Tile} {pre rest : List Tile} (h : x.HasTile t pre rest) : t ∈ x.tiles := by
  rw [h.1]
  simp

/-! ### What the beats of a pass find (R154, R194, R367) -/

theorem Mem.read_congr {m n : Mem} {a k : Nat} (h : ∀ i, i < k → m.get (a + i) = n.get (a + i)) : m.read a k = n.read a k := by
  rw [Mem.read_eq_sum, Mem.read_eq_sum]
  exact congrArg List.sum (List.map_congr_left fun i hi => by rw [h i (List.mem_range.mp hi)])
/-- An aligned word after another is written. -/
theorem Mem.read_write_word {m : Mem} (h : Mem.wf m = true) {a k : Nat} (ha : a % 4 = 0) (hk : k % 4 = 0) (x : Nat) :
    (m.write a 4 x).read k 4 = if k = a then x % 256 ^ 4 else m.read k 4 := by
  split
  · next he => rw [he, Mem.read_write h]
  · exact Mem.read_congr fun i hi => by rw [Mem.get_write h, if_neg (by omega)]

/-- Each aligned word reads as it was or, where it is one of those that may come anew, as it now is. -/
theorem read_foldl_chosen {now : Mem} (chosen : Nat → Prop) [DecidablePred chosen] {ws : List Nat} (hws : ∀ k ∈ ws, k % 4 = 0) :
    ∀ {m : Mem}, Mem.wf m = true → ∀ {k : Nat}, k % 4 = 0 →
      let r := ws.foldl (fun p k => if chosen k then p.write k 4 (now.read k 4) else p) m
      r.read k 4 = m.read k 4 ∨ (k ∈ ws ∧ r.read k 4 = now.read k 4) := by
  induction ws with
  | nil => exact fun _ _ _ => .inl rfl
  | cons a ws ih =>
    intro m hm k hk
    have ha := hws a (List.mem_cons_self)
    have hrest := fun b hb => hws b (List.mem_cons_of_mem a hb)
    by_cases hc : chosen a
    · have hread := Mem.read_write_word hm ha hk (now.read a 4)
      rw [Nat.mod_eq_of_lt (Mem.read_lt now a 4)] at hread
      simp only [List.foldl_cons, if_pos hc]
      rcases ih hrest (Mem.write_wf hm a 4 (now.read a 4)) hk with h | ⟨hmem, h⟩
      · by_cases he : k = a
        · exact .inr ⟨he ▸ List.mem_cons_self, by rw [h, hread, if_pos he, he]⟩
        · exact .inl (by rw [h, hread, if_neg he])
      · exact .inr ⟨List.mem_cons_of_mem a hmem, h⟩
    · simp only [List.foldl_cons, if_neg hc]
      exact (ih hrest hm hk).imp_right fun ⟨hmem, h⟩ => ⟨List.mem_cons_of_mem a hmem, h⟩

theorem Tile.feedWords_aligned {t : Tile} (ha : t.ra.base.toNat % 4 = 0) (hb : t.rb.base.toNat % 4 = 0) :
    ∀ k ∈ t.feedWords, k % 4 = 0 := by
  have hslot : ∀ (r : Ring) i j, r.base.toNat % 4 = 0 → (r.slot i + 4 * j) % 4 = 0 := fun r i j hr => by
    rw [Ring.slot, Nat.mul_assoc]
    omega
  intro k hk
  simp only [Tile.feedWords, List.mem_append, List.mem_map] at hk
  rcases hk with (⟨j, _, rfl⟩ | ⟨j, _, rfl⟩) | ⟨j, _, rfl⟩ | ⟨j, _, rfl⟩
  · exact hslot _ _ _ ha
  · exact hslot _ _ _ ha
  · exact hslot _ _ _ hb
  · exact hslot _ _ _ hb

theorem Tile.pads_ne_nil (t : Tile) (now : Mem) (seed : Nat) : t.pads now seed ≠ [] := by
  unfold Tile.pads
  split <;> simp [List.range_succ]

/-- R154, R194, R367: a word that a beat reads stands as at the pass's start or, unless the pipeline has stored it, as now. -/
theorem Tile.read_of_mem_pads {t : Tile} (hwf : Mem.wf t.pad = true) (ha : t.ra.base.toNat % 4 = 0) (hb : t.rb.base.toNat % 4 = 0)
    {now : Mem} {seed : Nat} {p : Mem} (hp : p ∈ t.pads now seed) {k : Nat} (hk : k ∈ t.feedWords) :
    p.read k 4 = t.pad.read k 4 ∨ (t.kept.contains (k / 4) = false ∧ p.read k 4 = now.read k 4) := by
  have haligned := Tile.feedWords_aligned ha hb
  unfold Tile.pads at hp
  split at hp
  · exact .inl (by rw [List.mem_singleton.mp hp])
  · next ws _ =>
    obtain ⟨beat, -, rfl⟩ := List.mem_map.mp hp
    refine (read_foldl_chosen _ (fun j hj => haligned j (List.mem_of_mem_filter hj)) hwf (haligned k hk)).imp_right
      fun ⟨hmem, hread⟩ => ⟨?_, hread⟩
    have hfilter := (List.mem_filter.mp hmem).2
    simp only [Bool.and_eq_true, Bool.not_eq_true'] at hfilter
    exact hfilter.2

/-! ### The verdict, and what a pass leaves (R244, R365) -/

/-- A tile of a cell turned into another. -/
def Cell.turn (z : Cell) (t u : Tile) : Cell := z.onTile t.id fun _ => u
/-- A tile of a cell turned into another that leaves its bank with given elements. -/
def Cell.turnWith (z : Cell) (t u : Tile) (data : Bank) : Cell :=
  { z.turn t u with acc := z.acc.put t.bank { z.acc.get t.bank with data := data } }

/-- R243: the monitors of a pass are past its budget. -/
def Tile.Past (t : Tile) (m : Monitors) : Prop := t.fp64 = false ∧
  ((bits t.budget 7 0 ≠ 255 ∧ bits t.budget 7 0 < m.sat) ∨ (bits t.budget 15 8 ≠ 255 ∧ bits t.budget 15 8 < m.ufl) ∨
    (bits t.budget 23 16 ≠ 255 ∧ bits t.budget 23 16 < m.can))
theorem Tile.past_iff (t : Tile) (m : Monitors) : (!t.fp64 && overBudget t.budget m) = true ↔ t.Past m := by
  simp [overBudget, Tile.Past, or_assoc]

theorem b2n_eq (p : Prop) [Decidable p] : b2n (decide p) = if p then 1 else 0 := by
  unfold b2n
  simp

theorem Tile.verdict_squashed {t : Tile} {m : Monitors} (hp : t.Past m) (hc : t.coat < t.top) :
    Tile.verdict { t with mon := m } = { t with
      mon := m, exceeded := true, st := .squashed, own0 := t.own0 + (if t.coat = 0 then 1 else 0)
      own1 := t.own1 + (if t.coat = 1 then 1 else 0) } := by
  have hp' := (Tile.past_iff t m).mpr hp
  simp only [Tile.verdict, hp', decide_eq_true hc, Bool.and_self, if_true, ← b2n_eq]
  rfl
theorem Tile.verdict_exhausted {t : Tile} {m : Monitors} (hp : t.Past m) (hc : t.top ≤ t.coat) :
    Tile.verdict { t with mon := m } = { t with mon := m, exceeded := true, exhaust := true, st := .ready } := by
  have hp' := (Tile.past_iff t m).mpr hp
  simp only [Tile.verdict, hp', decide_eq_false (Nat.not_lt.mpr hc), Bool.and_false, Bool.false_eq_true, if_false]
theorem Tile.verdict_within {t : Tile} {m : Monitors} (hp : ¬t.Past m) :
    Tile.verdict { t with mon := m } = { t with mon := m, exceeded := false, exhaust := false, st := .ready } := by
  have hp' : (!t.fp64 && overBudget t.budget m) = false := by rw [← Bool.not_eq_true, Tile.past_iff]; exact hp
  simp only [Tile.verdict, hp', Bool.false_and, Bool.false_eq_true, if_false]

/-- TILE_VERDICT at the tile whose pass ends. -/
theorem execTileVerdict_passing {s : State} {c : BitVec 4} {d : BitVec 6} {i : BitVec 11} {x : Cell} {t : Tile} {pre rest : List Tile}
    (hx : (s.slot c).ctx.cell? d.toNat i.toNat = some x) (h : x.HasTile t pre rest) (hst : t.st = .passing)
    (hpre : ∀ u ∈ pre, u.st ≠ .passing) (hruns : s.tileRuns c d.toNat = true) :
    let r := t.pass (t.pads x.pad s.fresh)
    exec (.tileVerdict c d i) s = .next ({ s with fresh := s.fresh + 1 }.onCell c d.toNat i.toNat fun z =>
      z.turnWith t (Tile.verdict { t with mon := r.2 }) r.1) := by
  intro r
  have hat : x.tileAt (fun z => z == TileSt.passing) = some t := h.tileAt (by simp [hst]) fun u hu => by simp [hpre u hu]
  have hcell : (match x.tileAt fun z => z == TileSt.passing with | none => x | some t => x.passEnd s.fresh t) =
      x.turnWith t (Tile.verdict { t with mon := r.2 }) r.1 := by
    rw [hat]
    exact congrArg (fun z : Cell => z.setBank t.bank fun b => { b with data := r.1 }) (h.onTile fun t => Tile.verdict { t with mon := r.2 })
  show Host.Outcome.next (guarded _ _ _) = _
  rw [guarded, if_pos hruns]
  exact congrArg Host.Outcome.next (State.onCell_congr { s with fresh := s.fresh + 1 } hx hcell)

/-! ### Replays (R245-R248) -/

theorem Tile.nextCoat_eq (t : Tile) : t.nextCoat = { t with
    rep0 := t.rep0 + (if t.coat = 0 then 1 else 0), rep1 := t.rep1 + (if t.coat = 1 then 1 else 0), coat := t.coat + 1
    st := .fetching (t.ra.fetches (t.coat + 1)) (t.rb.fetches (t.coat + 1)) } := by
  simp only [Tile.nextCoat, ← b2n_eq]
  rfl

/-- A tile of a cell that has its images makes its pass; one that waits for some stands as it is. -/
theorem Cell.startPass_eq (z : Cell) {t u : Tile} (hid : u.id = t.id) (hbank : u.bank = t.bank) : z.startPass u =
    if u.st = .fetching false false then z.turnWith t { u with pad := u.replayPad z.pad, st := .passing } u.shadow else z.turn t u := by
  unfold Cell.startPass Cell.replayPass Cell.turnWith Cell.turn
  rw [hid, hbank]
  rfl

theorem execReplay_squashed {s : State} {c : BitVec 4} {d : BitVec 6} {i : BitVec 11} {x : Cell} {t : Tile} {rest : List Tile}
    (hx : (s.slot c).ctx.cell? d.toNat i.toNat = some x) (h : x.HasTile t [] rest) (hst : t.st = .squashed)
    (hfix : (s.slot c).ctx.fixed = false) (hruns : s.tileRuns c d.toNat = true) (hrest : ∀ u ∈ rest, u.st = .squashed) :
    exec (.replay c d i) s = .next (s.onCell c d.toNat i.toNat fun z =>
      if t.nextCoat.st = .fetching false false
        then z.turnWith t { t.nextCoat with pad := t.replayPad x.pad, st := .passing } t.shadow else z.turn t t.nextCoat) := by
  have hat : x.tileAt (fun z => z == TileSt.squashed) = some t := h.tileAt (by simp [hst]) fun u hu => absurd hu List.not_mem_nil
  have hall : (x.tiles.any fun u => u.st != .squashed) = false := by
    rw [h.1, List.any_eq_false]
    intro u hu
    rcases List.mem_cons.mp hu with rfl | hu
    · simp [hst]
    · simp [hrest u hu]
  show Host.Outcome.next (guarded _ _ _) = _
  rw [guarded, if_pos (by rw [hfix, hruns]; rfl)]
  refine congrArg Host.Outcome.next (State.onCell_congr s hx ?_)
  simp only [hat, hall, Bool.false_eq_true, if_false]
  exact Cell.startPass_eq x rfl rfl

end Sys2Proof.Machine

namespace Sys2Proof.Machine
open Sys2Proof

/-! ### The replay order of a FIXED set (R248) -/

/-- The cells of a context changed alike. -/
def Ctx.mapCells (y : Ctx) (f : Cell → Cell) : Ctx := { y with dies := y.dies.map fun d => { d with cells := d.cells.map f } }

theorem Ctx.cell?_mapCells (y : Ctx) (f : Cell → Cell) (d i : Nat) : (y.mapCells f).cell? d i = (y.cell? d i).map f := by
  simp only [Ctx.cell?, Ctx.mapCells, List.getElem?_map]
  cases y.dies[d]? <;> simp
theorem Ctx.tiles_mapCells (y : Ctx) {f : Cell → Cell} {g : Tile → Tile} (h : ∀ x, (f x).tiles = x.tiles.map g) :
    (y.mapCells f).tiles = y.tiles.map g := by
  simp only [Ctx.tiles, Ctx.mapCells, List.flatMap_map, List.map_flatMap, h]
theorem Ctx.mem_tiles {y : Ctx} {d i : Nat} {x : Cell} {t : Tile} (hx : y.cell? d i = some x) (ht : t ∈ x.tiles) : t ∈ y.tiles := by
  obtain ⟨z, hz, hcell⟩ := Option.bind_eq_some_iff.mp hx
  exact List.mem_flatMap.mpr ⟨z, List.mem_of_getElem? hz, List.mem_flatMap.mpr ⟨x, List.mem_of_getElem? hcell, ht⟩⟩

/-- Of a tile found and another, the one of the earlier bundle. -/
def earlier (a : Option Tile) (t : Tile) : Option Tile :=
  match a with
  | none => some t
  | some u => if t.tag < u.tag then some t else a

theorem earlier_eq (a : Option Tile) (t : Tile) : earlier a t = some t ∨ earlier a t = a ∧ a.isSome = true := by
  cases a with
  | none => exact .inl rfl
  | some u =>
    by_cases h : t.tag < u.tag
    · exact .inl (if_pos h)
    · exact .inr ⟨if_neg h, rfl⟩

/-- The tile of the earliest bundle is one of those at hand. -/
theorem foldl_earlier_mem (l : List Tile) (a : Option Tile) (h : l ≠ [] ∨ a.isSome = true) :
    ∃ t, (t ∈ l ∨ a = some t) ∧ l.foldl earlier a = some t := by
  induction l generalizing a with
  | nil => exact (Option.isSome_iff_exists.mp (h.resolve_left fun hn => hn rfl)).imp fun t ht => ⟨.inr ht, ht⟩
  | cons v l ih =>
    rw [List.foldl_cons]
    rcases earlier_eq a v with hv | ⟨ha, hsome⟩
    · obtain ⟨t, hmem, ht⟩ := ih (some v) (.inr rfl)
      exact ⟨t, .inl (hmem.elim (List.mem_cons_of_mem v) fun he => Option.some.inj he ▸ List.mem_cons_self), by rwa [hv]⟩
    · obtain ⟨t, hmem, ht⟩ := ih a (.inr hsome)
      exact ⟨t, hmem.imp_left (List.mem_cons_of_mem v), by rwa [ha]⟩

theorem Ctx.squashed_foldl (y : Ctx) : y.squashed = (y.tiles.filter fun t => t.st == .squashed).foldl earlier none := rfl

theorem Ctx.squashed_eq {y : Ctx} {t : Tile} (ht : t ∈ y.tiles) (hst : t.st = .squashed) :
    ∃ u ∈ y.tiles, u.st = .squashed ∧ y.squashed = some u := by
  obtain ⟨u, hu, heq⟩ := foldl_earlier_mem (y.tiles.filter fun t => t.st == .squashed) none
    (.inl (List.ne_nil_of_mem (List.mem_filter.mpr ⟨ht, by simp [hst]⟩)))
  obtain ⟨hmem, hsq⟩ := List.mem_filter.mp (hu.resolve_right (by simp))
  exact ⟨u, hmem, by simpa using hsq, y.squashed_foldl.trans heq⟩

/-- The tiles of a bundle below their tops, which the order takes. -/
def Ctx.ordered (y : Ctx) (tag : Nat) : List Tile := y.tiles.filter fun u => u.tag == tag && decide (u.coat < u.top)
/-- Some tile that an order takes needs an image at its next coat. -/
def Ctx.NeedsImages (y : Ctx) (tag : Nat) : Prop := ∃ u ∈ y.ordered tag, u.ra.fetches (u.coat + 1) = true ∨ u.rb.fetches (u.coat + 1) = true

theorem Ctx.mem_ordered {y : Ctx} {tag : Nat} {u : Tile} : u ∈ y.ordered tag ↔ u ∈ y.tiles ∧ u.tag = tag ∧ u.coat < u.top := by
  simp [Ctx.ordered]

/-- What an order makes of a tile. -/
def Tile.order (tag : Nat) (t : Tile) : Tile := if t.tag = tag ∧ t.coat < t.top then t.nextCoat else t
theorem Ctx.tiles_order (y : Ctx) (tag : Nat) : (y.mapCells (Cell.replayOrder tag)).tiles = y.tiles.map (Tile.order tag) :=
  y.tiles_mapCells fun _ => rfl

theorem replayHold_eq (l : List Tile) (wait : Nat) (p q : Prop) [Decidable p] [Decidable q] (hp : p ↔ ∀ u ∈ l, u.rep0 + u.rep1 = 0)
    (hq : q ↔ ∃ u ∈ l, u.ra.fetches (u.coat + 1) = true ∨ u.rb.fetches (u.coat + 1) = true) :
    replayHold l wait = (if p then 51 else 47) + (l.map fun u => if u.coat = 0 then 16 else 32).foldl max 0 +
      (if q then wait else 0) := by
  have hbeats : ∀ u : Tile, beatsOf (u.coat + 1) = if u.coat = 0 then 16 else 32 := fun u => by cases u.coat <;> rfl
  have hall : (l.all fun t => t.rep0 + t.rep1 == 0) = true ↔ p := by simp [hp]
  have hany : (l.any fun t => t.ra.fetches (t.coat + 1) || t.rb.fetches (t.coat + 1)) = true ↔ q := by simp [hq]
  simp only [replayHold, maxOf, hbeats, hall, hany]

/-- Where an ordered tile needs an image, the set waits for it (R248). -/
theorem Ctx.startPasses_waits {y : Ctx} {tag : Nat} (h : y.NeedsImages tag) :
    (y.mapCells (Cell.replayOrder tag)).startPasses tag = y.mapCells (Cell.replayOrder tag) := by
  obtain ⟨u, hu, himg⟩ := h
  obtain ⟨hmem, htag, hlow⟩ := Ctx.mem_ordered.mp hu
  rw [Ctx.startPasses, Ctx.tiles_order, if_pos]
  refine List.any_eq_true.mpr ⟨u.nextCoat, List.mem_map.mpr ⟨u, hmem, if_pos ⟨htag, hlow⟩⟩, ?_⟩
  have hst : u.nextCoat.st ≠ .fetching false false := fun hn => by
    injection hn with ha hb
    simp [ha, hb] at himg
  have hawaits : u.nextCoat.awaitsImage = true := rfl
  have htag' : u.nextCoat.tag = tag := htag
  simp [hst, hawaits, htag']

theorem Ctx.nextCoat_st {y : Ctx} {tag : Nat} (h : ¬y.NeedsImages tag) {u : Tile} (hu : u ∈ y.ordered tag) :
    u.nextCoat.st = .fetching false false := by
  have hfetch := mt (fun hi => (⟨u, hu, hi⟩ : y.NeedsImages tag)) h
  simp only [not_or, Bool.not_eq_true] at hfetch
  rw [Tile.nextCoat, hfetch.1, hfetch.2]

/-- Where none needs an image, they pass at once (R248). -/
theorem Ctx.startPasses_passes {y : Ctx} {tag : Nat} (h : ¬y.NeedsImages tag) (hawait : ∀ u ∈ y.tiles, u.awaitsImage = false) :
    (y.mapCells (Cell.replayOrder tag)).startPasses tag = (y.mapCells (Cell.replayOrder tag)).mapCells (Cell.startPasses tag) := by
  rw [Ctx.startPasses, Ctx.tiles_order, if_neg]
  · rfl
  · rw [Bool.not_eq_true, List.any_eq_false]
    rintro w hw
    obtain ⟨u, hu, rfl⟩ := List.mem_map.mp hw
    by_cases ho : u.tag = tag ∧ u.coat < u.top
    · have hst := Ctx.nextCoat_st h (Ctx.mem_ordered.mpr ⟨hu, ho⟩)
      rw [Tile.order, if_pos ho]
      simp [hst]
    · rw [Tile.order, if_neg ho]
      simp [hawait u hu]

theorem Cell.HasTile.turn {x : Cell} {t : Tile} {pre rest : List Tile} (h : x.HasTile t pre rest) {u : Tile} (hid : u.id = t.id) :
    (x.turn t u).HasTile u pre rest := by
  obtain ⟨htiles, hother⟩ := h
  refine ⟨?_, fun v hv => hid ▸ hother v hv⟩
  have hkeep : ∀ l : List Tile, (∀ v ∈ l, v.id ≠ t.id) → l.map (fun w => if w.id = t.id then u else w) = l := fun l hl =>
    (List.map_congr_left fun v hv => if_neg (hl v hv)).trans (List.map_id' l)
  show x.tiles.map _ = _
  rw [htiles, List.map_append, List.map_cons, if_pos rfl, hkeep pre fun v hv => hother v (List.mem_append_left _ hv),
    hkeep rest fun v hv => hother v (List.mem_append_right _ hv)]

/-- A cell that has one tile of a bundle, at the bundle's order. -/
theorem Cell.HasTile.replayOrder {x : Cell} {t : Tile} {pre rest : List Tile} (h : x.HasTile t pre rest)
    (htag : ∀ u ∈ pre ++ rest, u.tag ≠ t.tag) (hlow : t.coat < t.top) : x.replayOrder t.tag = x.turn t t.nextCoat := by
  refine congrArg (fun l => ({ x with tiles := l } : Cell)) (List.map_congr_left fun u hu => ?_)
  by_cases hid : u.id = t.id
  · rw [h.eq_of_id hu hid, if_pos ⟨rfl, hlow⟩, if_pos rfl]
  · have hother : u ∈ pre ++ rest := by
      rw [h.1, List.mem_append, List.mem_cons] at hu
      rcases hu with hu | rfl | hu
      · exact List.mem_append_left _ hu
      · exact absurd rfl hid
      · exact List.mem_append_right _ hu
    rw [if_neg fun hn => htag u hother hn.1, if_neg hid]

theorem Cell.HasTile.startPasses {z : Cell} {u : Tile} {pre rest : List Tile} (h : z.HasTile u pre rest)
    (htag : ∀ v ∈ pre ++ rest, v.tag ≠ u.tag) (hst : u.st = .fetching false false) :
    z.startPasses u.tag = z.turnWith u { u with pad := u.replayPad z.pad, st := .passing } u.shadow := by
  have hfind : z.tiles.find? (fun t => t.tag == u.tag && t.st == .fetching false false) = some u := by
    rw [h.1, List.find?_eq_some_iff_append]
    exact ⟨by simp [hst], pre, rest, rfl, fun v hv => by simp [htag v (List.mem_append_left _ hv)]⟩
  rw [Cell.startPasses, hfind]
  rfl

theorem Ctx.startPasses_holdCyc (y : Ctx) (tag : Nat) : (y.startPasses tag).holdCyc = y.holdCyc := by
  unfold Ctx.startPasses
  split <;> rfl
theorem Cell.startPasses_pad (tag : Nat) (z : Cell) : (z.startPasses tag).pad = z.pad := by
  unfold Cell.startPasses
  split <;> rfl

/-- A context held for some cycles more (R129). -/
def Ctx.holdFor (y : Ctx) (n : Nat) : Ctx := { y with holdCyc := y.holdCyc + BitVec.ofNat 64 n }
/-- A context at the replay order of a bundle: its set is held for some cycles, and its replays pass when nothing is waited for. -/
def Ctx.orderReplays (y : Ctx) (tag n : Nat) : Ctx := ((y.holdFor n).mapCells (Cell.replayOrder tag)).startPasses tag

theorem Ctx.orderReplays_holdCyc (y : Ctx) (tag n : Nat) : (y.orderReplays tag n).holdCyc = y.holdCyc + BitVec.ofNat 64 n :=
  Ctx.startPasses_holdCyc _ _
theorem Ctx.orderReplays_waits {y : Ctx} {tag n d i : Nat} {x : Cell} (h : y.NeedsImages tag) (hx : y.cell? d i = some x) :
    (y.orderReplays tag n).cell? d i = some (x.replayOrder tag) := by
  rw [Ctx.orderReplays, Ctx.startPasses_waits (y := y.holdFor n) h, Ctx.cell?_mapCells]
  exact congrArg (Option.map _) hx
theorem Ctx.orderReplays_passes {y : Ctx} {tag n d i : Nat} {x : Cell} (h : ¬y.NeedsImages tag)
    (hawait : ∀ u ∈ y.tiles, u.awaitsImage = false) (hx : y.cell? d i = some x) :
    (y.orderReplays tag n).cell? d i = some ((x.replayOrder tag).startPasses tag) := by
  rw [Ctx.orderReplays, Ctx.startPasses_passes (y := y.holdFor n) h hawait, Ctx.cell?_mapCells, Ctx.cell?_mapCells]
  exact congrArg (fun z => Option.map _ (Option.map _ z)) hx

/-- REPLAY_ORDER where every verdict of the bundle is known. -/
theorem execReplayOrder_eq {s : State} {c : BitVec 4} {tag : Nat} (wait : Xword)
    (hfix : (s.slot c).ctx.fixed = true) (htrip : s.tripped c = false)
    (hidle : ∀ u ∈ (s.slot c).ctx.tiles, u.awaitsImage = false ∧ u.st ≠ .passing)
    (hknown : ∀ u ∈ (s.slot c).ctx.tiles, u.tag = tag → (u.st = .squashed ∨ u.st = .ready) ∧ (s.slot c).ctx.allTook u.bsn = true)
    (honly : ∀ u ∈ (s.slot c).ctx.tiles, u.st = .squashed → u.tag = tag)
    {t : Tile} (ht : t ∈ (s.slot c).ctx.tiles) (hst : t.st = .squashed) :
    exec (.replayOrder c wait) s = .next (s.onCtx c fun y =>
      y.orderReplays tag (s.replayCount c (y.ordered tag) wait.toNat)) := by
  obtain ⟨t0, hmem, hsq, heq⟩ := Ctx.squashed_eq ht hst
  have htag := honly t0 hmem hsq
  have hnone : (s.slot c).ctx.tiles.any (fun t => t.awaitsImage || t.st == .passing) = false :=
    List.any_eq_false.mpr fun u hu => by simp [hidle u hu]
  have hverdicts : ((s.slot c).ctx.tiles.all fun t => t.tag != t0.tag || t.st == .squashed || t.st == .ready) = true :=
    List.all_eq_true.mpr fun u hu => by
      by_cases hu' : u.tag = tag
      · rcases (hknown u hu hu').1 with h | h <;> simp [h]
      · simp [htag, hu']
  show Host.Outcome.next (match (s.slot c).ctx.squashed with | none => s | some t0 => guarded _ _ s) = _
  rw [heq]
  refine congrArg Host.Outcome.next ((if_pos ?_).trans ?_)
  · simp only [hfix, htrip, hnone, hverdicts, (hknown t0 hmem htag).2, Bool.not_false, Bool.and_self]
  · rw [htag]
    rfl

end Sys2Proof.Machine

namespace Sys2Proof.Machine
open Sys2Proof

/-! ### Retirement (R246, R250, R251, R369) -/

theorem Cell.retireTile_tiles (x : Cell) (t : Tile) : (x.retireTile t).tiles = x.tiles.filter fun u => u.id != t.id := by
  unfold Cell.retireTile
  cases t.popA <;> cases t.popB <;> cases t.fp64 <;> rfl
theorem Cell.retireTile_pad (x : Cell) (t : Tile) : (x.retireTile t).pad = x.pad := by
  unfold Cell.retireTile
  cases t.popA <;> cases t.popB <;> cases t.fp64 <;> rfl
theorem Cell.retireTile_v (x : Cell) (t : Tile) : (x.retireTile t).v = x.v := by
  unfold Cell.retireTile
  cases t.popA <;> cases t.popB <;> cases t.fp64 <;> rfl
theorem Cell.retireTile_acc (x : Cell) (t : Tile) : (x.retireTile t).acc =
    x.acc.put t.bank { x.acc.get t.bank with record := recordTile (x.acc.get t.bank).record t } := by
  unfold Cell.retireTile
  cases t.popA <;> cases t.popB <;> cases t.fp64 <;> rfl
/-- R251: a tile of TMMA64 counts nothing. -/
theorem Cell.retireTile_counts_fp64 (x : Cell) {t : Tile} (h : t.fp64 = true) : (x.retireTile t).monlast = x.monlast ∧
    (x.retireTile t).rc0 = x.rc0 ∧ (x.retireTile t).rc1 = x.rc1 ∧ (x.retireTile t).exh = x.exh := by
  unfold Cell.retireTile
  rw [h]
  cases t.popA <;> cases t.popB <;> exact ⟨rfl, rfl, rfl, rfl⟩
theorem Cell.retireTile_counts (x : Cell) {t : Tile} (h : t.fp64 = false) : (x.retireTile t).monlast = t.monWord ∧
    (x.retireTile t).rc0 = satAdd x.rc0 t.own0 ∧ (x.retireTile t).rc1 = satAdd x.rc1 t.own1 ∧
    (x.retireTile t).exh = satAdd x.exh (b2n t.exhaust) := by
  unfold Cell.retireTile
  rw [h]
  cases t.popA <;> cases t.popB <;> exact ⟨rfl, rfl, rfl, rfl⟩

theorem satAdd_toNat (a : BitVec 16) (k : Nat) : (satAdd a k).toNat = min 0xFFFF (a.toNat + k) := by
  rw [satAdd, BitVec.toNat_ofNat, Nat.mod_eq_of_lt (by omega)]

/-- A ring's HEAD after another pop (R246). -/
theorem Cell.setRing_head (x : Cell) (r k : BitVec 3) (p : Bool) :
    ((if p then x.setRing r fun g => { g with head := g.head + 1 } else x).q.get k).head =
      (x.q.get k).head + (if p = true ∧ k = r then 1 else 0) := by
  cases p with
  | false => simp
  | true =>
    by_cases hk : k = r
    · subst hk
      simp [Cell.setRing]
    · simp [Cell.setRing, RegFile.get_put_ne _ _ hk, hk]
theorem Cell.retireTile_q (x : Cell) (t : Tile) : (x.retireTile t).q =
    (if t.popB then (if t.popA then x.setRing t.qa fun r => { r with head := r.head + 1 } else x).setRing t.qb
        fun r => { r with head := r.head + 1 }
      else if t.popA then x.setRing t.qa fun r => { r with head := r.head + 1 } else x).q := by
  unfold Cell.retireTile
  cases t.popA <;> cases t.popB <;> cases t.fp64 <;> rfl

/-- R368: the record of a tile of TMMA64. -/
theorem recordTile_fp64 {w : Word} {t : Tile} (h : t.fp64 = true) :
    (recordTile w t).toNat = min 0xFFFF (w.toNat / 2 ^ 16 + 1) * 2 ^ 16 + w.toNat % 2 ^ 16 := by
  have hw := w.isLt
  have hhigh : bits w 31 16 = w.toNat / 2 ^ 16 := by unfold bits nbits; omega
  have hlow : bits w 15 0 = w.toNat % 2 ^ 16 := by unfold bits nbits; omega
  rw [recordTile, if_pos h, BitVec.toNat_ofNat, hhigh, hlow]
  omega
/-- R369: the record of a tile of TMMA. -/
theorem recordTile_fp32 {w : Word} {t : Tile} (h : t.fp64 = false) :
    (recordTile w t).toNat = (min 0xFFFF (w.toNat / 2 ^ 16 + 1) * 2 ^ 16 + (if w.getLsbD 5 then 2 ^ 5 else 0) +
      (if w.getLsbD 4 || t.exhaust then 2 ^ 4 else 0) + max (w.toNat / 4 % 4) t.coat * 4 + t.coat) % 2 ^ 32 := by
  have hw := w.isLt
  have hhigh : bits w 31 16 = w.toNat / 2 ^ 16 := by unfold bits nbits; omega
  have hcoat : bits w 3 2 = w.toNat / 4 % 4 := by unfold bits nbits; omega
  have hflag : ∀ (b : Bool) (k : Nat), b2n b * k = if b then k else 0 := fun b k => by cases b <;> simp [b2n]
  rw [recordTile, if_neg (by simp [h]), BitVec.toNat_ofNat, hhigh, hcoat, hflag, hflag]
  rfl

theorem Cell.HasTile.takeWhile {x : Cell} {t : Tile} {pre rest : List Tile} (h : x.HasTile t pre rest) :
    x.tiles.takeWhile (fun u => u.id != t.id) = pre := by
  rw [h.1, List.takeWhile_append_of_pos fun u hu => by simpa using h.2 u (List.mem_append_left _ hu), List.takeWhile_cons]
  simp
theorem Cell.HasTile.filter {x : Cell} {t : Tile} {pre rest : List Tile} (h : x.HasTile t pre rest) :
    x.tiles.filter (fun u => u.id != t.id) = pre ++ rest := by
  have hkeep : ∀ l : List Tile, (∀ u ∈ l, u.id ≠ t.id) → l.filter (fun u => u.id != t.id) = l := fun l hl =>
    List.filter_eq_self.mpr fun u hu => by simpa using hl u hu
  rw [h.1, List.filter_append, List.filter_cons_of_neg (by simp), hkeep pre fun v hv => h.2 v (List.mem_append_left _ hv),
    hkeep rest fun v hv => h.2 v (List.mem_append_right _ hv)]

theorem execTileRetire_ready {s : State} {c : BitVec 4} {d : BitVec 6} {i : BitVec 11} {x : Cell} {t : Tile} {pre rest : List Tile}
    (hx : (s.slot c).ctx.cell? d.toNat i.toNat = some x) (h : x.HasTile t pre rest) (hst : t.st = .ready)
    (hpre : ∀ u ∈ pre, u.st ≠ .ready) (hruns : s.tileRuns c d.toNat = true)
    (hturn : if (s.slot c).ctx.fixed then pre = [] ∧ (s.slot c).ctx.allTook t.bsn = true ∧
        ∀ u ∈ (s.slot c).ctx.tiles, u.tag = t.tag → u.st = .ready
      else ∀ u ∈ pre, u.st = .passing → u.rep0 + u.rep1 ≠ 0) :
    exec (.tileRetire c d i) s = .next ((s.onCell c d.toNat i.toNat fun x => x.retireTile t).onCtx c fun y =>
      { y with
        replay0 := y.replay0 + BitVec.ofNat 64 t.rep0, replay1 := y.replay1 + BitVec.ofNat 64 t.rep1
        exhaust := y.exhaust + BitVec.ofNat 64 (b2n t.exhaust) }) := by
  have hat : x.tileAt (fun z => z == TileSt.ready) = some t := h.tileAt (by simp [hst]) fun u hu => by simp [hpre u hu]
  have hmay : x.inTurn (s.slot c).ctx.fixed t = true ∧ (!(s.slot c).ctx.fixed || ((s.slot c).ctx.allTook t.bsn &&
      (s.slot c).ctx.tiles.all fun u => u.tag != t.tag || u.st == .ready)) = true := by
    rw [Cell.inTurn, h.takeWhile]
    cases hfix : (s.slot c).ctx.fixed with
    | true =>
      rw [hfix, if_pos rfl] at hturn
      obtain ⟨rfl, htook, hready⟩ := hturn
      refine ⟨rfl, ?_⟩
      simp only [htook, Bool.not_true, Bool.false_or, Bool.true_and, List.all_eq_true, Bool.or_eq_true, bne_iff_ne, beq_iff_eq]
      exact fun u hu => or_iff_not_imp_left.mpr fun hn => hready u hu (not_not.mp hn)
    | false =>
      rw [hfix, if_neg Bool.false_ne_true] at hturn
      refine ⟨List.all_eq_true.mpr fun u hu => ?_, rfl⟩
      simp only [Bool.not_false, Bool.true_and, Bool.or_eq_true, bne_iff_ne]
      exact or_iff_not_imp_left.mpr fun hn => hturn u hu (not_not.mp hn)
  show Host.Outcome.next (match ((s.slot c).ctx.cell? d.toNat i.toNat).bind fun x =>
    (x.tileAt fun z => z == .ready).map fun t => (x, t) with | none => s | some (x, t) => guarded _ _ s) = _
  simp only [hx, Option.bind_some, hat, Option.map_some]
  refine congrArg Host.Outcome.next (if_pos ?_)
  rw [hruns, hmay.1, Bool.and_self, Bool.true_and]
  exact hmay.2

end Sys2Proof.Machine

namespace Sys2Proof.Machine
open Sys2Proof

/-! ### Twin fetches (R239-R241) -/

theorem Cell.turn_turn (z : Cell) {t u : Tile} (w : Tile) (hid : u.id = t.id) : (z.turn t u).turn t w = z.turn t w := by
  refine congrArg (fun l => ({ z with tiles := l } : Cell)) ?_
  show (z.tiles.map _).map _ = z.tiles.map _
  rw [List.map_map]
  refine List.map_congr_left fun v _ => ?_
  by_cases hv : v.id = t.id <;> simp [hv, hid]
theorem Cell.turn_turnWith (z : Cell) {t u : Tile} (w : Tile) (data : Bank) (hid : u.id = t.id) :
    (z.turn t u).turnWith t w data = z.turnWith t w data :=
  congrArg (fun x : Cell => { x with acc := z.acc.put t.bank { z.acc.get t.bank with data := data } }) (z.turn_turn w hid)

/-- The ring whose image comes, ring A's first (R240). -/
def Tile.twinRing (t : Tile) (a : Bool) : Ring := if a then t.ra else t.rb
/-- The twin pointer of the tile's slot in a ring, as the cell holds it (R239). -/
def Cell.twinPtr (x : Cell) (t : Tile) (a : Bool) : Xword :=
  BitVec.ofNat 64 (x.pad.read ((t.twinRing a).twinAt (if a then t.sa else t.sb)) 8)
/-- The tile once an image lies in a replay slot. -/
def Tile.withImage (t : Tile) (a b : Bool) (n : Nat) : Tile :=
  { t with
    st := .fetching false (a && b)
    kept := t.kept.filter fun k => !decide ((t.twinRing a).replaySlot ≤ 4 * k ∧ 4 * k < (t.twinRing a).replaySlot + n) }

theorem Cell.HasTile.imageDone {x : Cell} {t : Tile} {pre rest : List Tile} (h : x.HasTile t pre rest) {a b : Bool}
    (hab : (a || b) = true) (img : List Byte) : x.imageDone t (!a) a b img =
      ({ x with pad := x.pad.putBytes (t.twinRing a).replaySlot img } : Cell).turn t (t.withImage a b img.length) := by
  have h' : ({ x with pad := x.pad.putBytes (t.twinRing a).replaySlot img } : Cell).HasTile t pre rest := h
  cases a with
  | true => exact (h'.onTile _).trans (by rw [Bool.not_true, Bool.not_false, Bool.and_true]; rfl)
  | false => exact (h'.onTile _).trans (by rw [show b = true from hab]; rfl)

/-- A cell of an ELASTIC set after an image has come for a tile of it (R247). -/
def Cell.afterImage (z : Cell) (t : Tile) : Cell :=
  match z.tiles.find? fun u => u.id == t.id with
  | some u => z.startPass u
  | none => z

theorem Cell.HasTile.afterImage {x : Cell} {t u : Tile} {pre rest : List Tile} (h : x.HasTile t pre rest) (hid : u.id = t.id)
    (hbank : u.bank = t.bank) : (x.turn t u).afterImage t =
      if u.st = .fetching false false then x.turnWith t { u with pad := u.replayPad x.pad, st := .passing } u.shadow
      else x.turn t u := by
  have hfind : (x.turn t u).tiles.find? (fun w => w.id == t.id) = some u := by
    rw [(h.turn hid).1, List.find?_eq_some_iff_append]
    exact ⟨by simp [hid], pre, rest, rfl, fun v hv => by simp [h.2 v (List.mem_append_left _ hv)]⟩
  rw [Cell.afterImage, hfind]
  refine (Cell.startPass_eq (x.turn t u) hid hbank).trans ?_
  rw [Cell.turn_turn _ _ hid, Cell.turn_turnWith _ _ _ hid]
  rfl

theorem Ctx.afterImage_eq (y : Ctx) (d i : Nat) (t : Tile) :
    y.afterImage d i t = if y.fixed then y.startPasses t.tag else y.onCell d i fun z => z.afterImage t := rfl
/-- In FIXED mode the set passes after its last image, in ELASTIC mode the cell. -/
theorem State.onCell_afterImage (s : State) (c : BitVec 4) (d i : Nat) (t : Tile) (f : Cell → Cell) :
    (s.onCell c d i f).onCtx c (fun y => y.afterImage d i t) =
      if (s.slot c).ctx.fixed then (s.onCell c d i f).onCtx c fun y => y.startPasses t.tag
      else s.onCell c d i fun z => (f z).afterImage t := by
  have hfixed : ((s.onCell c d i f).slot c).ctx.fixed = (s.slot c).ctx.fixed := by
    rw [State.onCell, State.slot_onCtx_same, Ctx.onCell_fixed]
  cases hfix : (s.slot c).ctx.fixed with
  | true =>
    rw [if_pos rfl]
    exact State.onCtx_congr _ c (g := fun y => y.startPasses t.tag) (by rw [Ctx.afterImage_eq, if_pos (hfixed.trans hfix)])
  | false =>
    rw [if_neg Bool.false_ne_true]
    refine (State.onCtx_congr _ c (g := fun y => y.onCell d i fun z => z.afterImage t) ?_).trans (s.onCell_onCell c d i f _)
    rw [Ctx.afterImage_eq, if_neg (by rw [hfixed, hfix]; exact Bool.false_ne_true)]

theorem goodPointer_iff (p : Xword) : (tagOf p ≠ 1 ∨ (!mbzOk p) = true) ↔ ¬(p.extractLsb' 62 2 = 1 ∧ p.extractLsb' 52 10 = 0) := by
  have htag : tagOf p = 1 ↔ p.extractLsb' 62 2 = 1 := by
    rw [tagOf_eq, ← BitVec.toNat_inj]
    rfl
  have hmbz : p.extractLsb' 52 10 = 0 ↔ bits p 61 52 = 0 := extractLsb'_eq_zero (hi := 61)
  rw [not_and_or, hmbz, ← htag]
  refine or_congr_right' fun h1 => ?_
  rw [mbzOk, not_not.mp h1]
  simp

/-- R241: a pointer that is no handle address ends the context. -/
theorem State.twinFetch_badPointer {s : State} {c : BitVec 4} {d i : Nat} {x : Cell} {t : Tile} {a b : Bool}
    (h : ¬((x.twinPtr t a).extractLsb' 62 2 = 1 ∧ (x.twinPtr t a).extractLsb' 52 10 = 0)) :
    s.twinFetch c d i x t a b = s.kill c ⟨.twinForm, some d, some ((s.slot c).phys d).toNat, some (1600 * d + i), 0xFF, 0, 0,
      x.twinPtr t a⟩ := by
  cases a <;> exact if_pos ((goodPointer_iff _).mpr h)

theorem twinImage_eq (stored coat : Nat) :
    twinImage stored coat = (if coat ≠ 1 ∧ stored = 0 then 320 else 0, if coat = 1 then 320 else 512) := by
  unfold twinImage
  split_ifs <;> simp_all

/-- R240: an image that lies in one piece of memory comes. -/
theorem State.twinFetch_comes {s : State} {c : BitVec 4} {d i : Nat} {x : Cell} {t : Tile} {a b : Bool} {l : List Run}
    (h : (x.twinPtr t a).extractLsb' 62 2 = 1 ∧ (x.twinPtr t a).extractLsb' 52 10 = 0)
    (hbar : s.barred c d (t.twinRing a).replaySlot (if t.coat = 1 then 320 else 512) = false)
    (hres : s.resolve ((s.slot c).phys d)
      (x.twinPtr t a + BitVec.ofNat 64 (if t.coat ≠ 1 ∧ (t.twinRing a).stored = 0 then 320 else 0))
      (if t.coat = 1 then 320 else 512) .read = .ok l) :
    s.twinFetch c d i x t a b = (s.onCell c d i fun x => x.imageDone t (!a) a b (s.readParts l)).onCtx c fun y => y.afterImage d i t := by
  have hptr := mt (goodPointer_iff (x.twinPtr t a)).mp (not_not.mpr h)
  have hring : (if (!a) = true then t.rb else t.ra) = t.twinRing a := by cases a <;> rfl
  have hslot : (if (!a) = true then t.sb else t.sa) = if a then t.sa else t.sb := by cases a <;> rfl
  rw [State.twinFetch]
  simp only [hring, hslot]
  refine (if_neg hptr).trans ?_
  rw [twinImage_eq]
  refine (if_neg (by rw [Bool.not_eq_true]; exact hbar)).trans ?_
  unfold Cell.twinPtr at hres
  rw [hres]

/-- Whether a tile waits for an image that has not come. -/
def TileSt.wantsImage : TileSt → Bool
  | .fetching a b => a || b
  | _ => false

theorem execTwinFetchDone_fetching {s : State} {c : BitVec 4} {d : BitVec 6} {i : BitVec 11} {x : Cell} {t : Tile}
    {pre rest : List Tile} {a b : Bool} (hx : (s.slot c).ctx.cell? d.toNat i.toNat = some x) (h : x.HasTile t pre rest)
    (hst : t.st = .fetching a b) (hab : (a || b) = true) (hpre : ∀ u ∈ pre, ∀ a b, u.st = .fetching a b → a = false ∧ b = false)
    (hruns : s.engineRuns c d.toNat = true) :
    exec (.twinFetchDone c d i) s = .next (s.twinFetch c d.toNat i.toNat x t a b) := by
  have hat : x.tileAt TileSt.wantsImage = some t := h.tileAt (by rw [hst]; exact hab) fun u hu => by
    cases hu' : u.st with
    | fetching a b =>
      obtain ⟨rfl, rfl⟩ := hpre u hu a b hu'
      rfl
    | _ => rfl
  show Host.Outcome.next (match (s.slot c).ctx.cell? d.toNat i.toNat with
    | none => s
    | some x => match x.tileAt TileSt.wantsImage with
      | some t => (match t.st with | .fetching a b => guarded _ (s.twinFetch c _ _ x t a b) s | _ => s)
      | none => s) = _
  rw [hx]
  simp only [hat, hst]
  exact congrArg Host.Outcome.next (if_pos hruns)

theorem ite_fetching {α : Type} (p q : Bool) (none some : α) :
    (if TileSt.fetching p q = .fetching false false then none else some) = if p || q then some else none := by
  cases p <;> cases q <;> rfl

/-- The pass of a FIXED set's replay in a cell, once its order is given and no image is wanted (R248). -/
theorem Cell.HasTile.orderPasses {x : Cell} {t : Tile} {pre rest : List Tile} (h : x.HasTile t pre rest)
    (htag : ∀ u ∈ pre ++ rest, u.tag ≠ t.tag) (hlow : t.coat < t.top) (hst : t.nextCoat.st = .fetching false false) :
    (x.replayOrder t.tag).startPasses t.tag =
      x.turnWith t { t.nextCoat with pad := t.replayPad x.pad, st := .passing } t.shadow := by
  rw [h.replayOrder htag hlow]
  exact ((h.turn (u := t.nextCoat) rfl).startPasses htag hst).trans (Cell.turn_turnWith x _ _ rfl)

theorem Cell.HasTile.mem_turn {x : Cell} {t : Tile} {pre rest : List Tile} (h : x.HasTile t pre rest) {u : Tile} (hid : u.id = t.id) :
    u ∈ (x.turn t u).tiles := (h.turn hid).mem

/-- Settles O37: each event changes one tile of a cell, which stands at its place in the list. -/
theorem tilesAndTwins : Obligations.TilesAndTwins := by
  intro s c d i x t pre rest y hx htiles hother on turns becomes again past higher fetchA fetchB mine runs
  have h : x.HasTile t pre rest := ⟨htiles, hother⟩
  refine ⟨?verdict, ?replay, ?order, ?retire, ?twin⟩
  case verdict =>
    intro hst hpre hruns hwf ha hb
    have hexec := execTileVerdict_passing hx h hst hpre hruns
    refine ⟨t.pads x.pad s.fresh, (t.pass (t.pads x.pad s.fresh)).1, (t.pass (t.pads x.pad s.fresh)).2, t.pads_ne_nil _ _,
      fun p hp k hk => Tile.read_of_mem_pads hwf ha hb hp hk, ?_, fun hp hc => ?_, fun hp hc => ?_, fun hp => ?_⟩
    · unfold Tile.pass
      split
      · exact ⟨rfl, rfl⟩
      · rfl
    · rw [hexec, Tile.verdict_squashed hp hc]
      rfl
    · rw [hexec, Tile.verdict_exhausted hp hc]
      rfl
    · rw [hexec, Tile.verdict_within hp]
      rfl
  case replay =>
    intro hst hpre hfix hruns hrest
    subst hpre
    rw [execReplay_squashed hx h hst hfix hruns hrest, Tile.nextCoat_eq]
    refine congrArg Host.Outcome.next (s.onCell_congr hx ((ite_fetching ..).trans ?_))
    show (if (fetchA || fetchB) = true then _ else _) = (if (fetchA || fetchB) = true then _ else _ : Cell → Cell) x
    split <;> rfl
  case order =>
    intro hst hfix htrip hidle hknown honly htag images wait
    have hmem : t ∈ y.tiles := Ctx.mem_tiles hx h.mem
    have hexec := execReplayOrder_eq wait hfix htrip hidle hknown honly hmem hst
    refine ⟨_, hexec, fun hfrozen => ?_, ?_⟩
    · have hcount : s.replayCount c (y.ordered t.tag) wait.toNat = replayHold (y.ordered t.tag) wait.toNat := by
        have hrun : (s.slot c).ctx.dies.any (·.frozen) = false := List.any_eq_false.mpr fun z hz => by simp [hfrozen z hz]
        rw [State.replayCount, htrip, hrun, Bool.or_self, if_neg Bool.false_ne_true]
      rw [State.slot_onCtx_same]
      refine (Ctx.orderReplays_holdCyc ..).trans (congrArg (fun n => y.holdCyc + BitVec.ofNat 64 n) ?_)
      exact hcount.trans (replayHold_eq _ _ _ _ Iff.rfl Iff.rfl)
    · rw [State.slot_onCtx_same]
      by_cases himg : y.NeedsImages t.tag
      · refine ⟨x.replayOrder t.tag, t.nextCoat, Ctx.orderReplays_waits himg hx, rfl, fun hlow => ?_⟩
        · have hturn := h.replayOrder htag hlow
          refine ⟨hturn ▸ h.mem_turn rfl, rfl, rfl, fun _ => ⟨rfl, rfl⟩, fun hn => absurd himg hn⟩
      · refine ⟨(x.replayOrder t.tag).startPasses t.tag, { t.nextCoat with pad := t.replayPad x.pad, st := .passing },
          Ctx.orderReplays_passes himg (fun u hu => (hidle u hu).1) hx, Cell.startPasses_pad .., fun hlow => ?_⟩
        · have hst' := Ctx.nextCoat_st himg (Ctx.mem_ordered.mpr ⟨hmem, rfl, hlow⟩)
          rw [h.orderPasses htag hlow hst']
          refine ⟨h.mem_turn rfl, rfl, rfl, fun hn => absurd hn himg, fun _ => ⟨rfl, rfl, ?_⟩⟩
          simp [Cell.turnWith]
  case retire =>
    intro hst hpre hruns hturn was
    have hctx : ((s.onCell c d.toNat i.toNat fun x => x.retireTile t).slot c).ctx = y.onCell d.toNat i.toNat fun x => x.retireTile t := by
      rw [State.onCell, State.slot_onCtx_same]
    refine ⟨_, x.retireTile t, execTileRetire_ready hx h hst hpre hruns hturn, ?_, ?_, x.retireTile_pad t, x.retireTile_v t,
      fun k => ?_, ?_, ?_, fun hfp => ⟨?_, x.retireTile_counts_fp64 hfp⟩, fun hfp => ?_, ?_, ?_, ?_⟩
    · rw [State.slot_onCtx_same]
      exact (congrArg (fun y : Ctx => y.cell? d.toNat i.toNat) hctx).trans (by rw [Ctx.cell?_onCell, if_pos ⟨rfl, rfl⟩, hx]; rfl)
    · rw [x.retireTile_tiles, h.filter]
    · rw [x.retireTile_q, Cell.setRing_head, Cell.setRing_head]
    · rw [x.retireTile_acc, RegFile.get_put_same]
    · rw [x.retireTile_acc, RegFile.get_put_same]
    · rw [x.retireTile_acc, RegFile.get_put_same]
      exact recordTile_fp64 hfp
    · obtain ⟨hmon, hrc0, hrc1, hexh⟩ := x.retireTile_counts hfp
      rw [hmon, hrc0, hrc1, hexh, satAdd_toNat, satAdd_toNat, satAdd_toNat, x.retireTile_acc, RegFile.get_put_same]
      exact ⟨recordTile_fp32 hfp, rfl, rfl, rfl, rfl⟩
    · rw [State.slot_onCtx_same]
      exact (congrArg (fun y : Ctx => y.replay0 + BitVec.ofNat 64 t.rep0) hctx).trans rfl
    · rw [State.slot_onCtx_same]
      exact (congrArg (fun y : Ctx => y.replay1 + BitVec.ofNat 64 t.rep1) hctx).trans rfl
    · rw [State.slot_onCtx_same]
      refine (congrArg (fun y : Ctx => y.exhaust + BitVec.ofNat 64 (b2n t.exhaust)) hctx).trans ?_
      cases t.exhaust <;> rfl
  case twin =>
    intro a b hst hab hpre hruns r replay ptr stored off n p form
    have hexec := execTwinFetchDone_fetching hx h hst hab hpre hruns
    have hptr : x.twinPtr t a = ptr := by cases a <;> rfl
    refine ⟨fun hform => ?_, fun l hform hbar hres => ?_⟩
    · rw [hexec, State.twinFetch_badPointer (hptr ▸ hform), hptr]
    · intro img pad kept waits
      rw [hexec, State.twinFetch_comes (hptr ▸ hform) hbar (hptr ▸ hres)]
      rw [State.onCell_afterImage]
      refine congrArg Host.Outcome.next (if_congr Iff.rfl ?_ ?_)
      · exact congrArg (fun u : State => u.onCtx c fun y => y.startPasses t.tag) (s.onCell_congr hx (h.imageDone hab img))
      · have hcell := Cell.HasTile.afterImage (x := { x with pad := pad }) (u := t.withImage a b img.length) h rfl rfl
        rw [Tile.withImage, ite_fetching, Bool.false_or] at hcell
        refine (s.onCell_congr hx (g := fun z => if a && b then waits z else
          becomes { t with st := .passing, kept := kept, pad := again kept pad } t.shadow { z with pad := pad })
          ((congrArg (fun z : Cell => z.afterImage t) (h.imageDone hab img)).trans hcell)).trans ?_
        cases a && b <;> rfl

end Sys2Proof.Machine

namespace Sys2Proof.Machine
open Sys2Proof

/-! ### Scratchpads in form, level by level (log 2) -/

/-- The scratchpads of some cells are in form. -/
def CellsInForm (l : List Cell) : Prop := ∀ q ∈ l, Mem.wf q.pad = true
/-- Those that units ahead of the others leave are. -/
def AheadInForm (o : Option Ahead) : Prop := ∀ a, o = some a → ∀ q ∈ a.cells, Mem.wf q.cell.pad = true
def Die.PadsInForm (d : Die) : Prop := CellsInForm d.cells ∧ AheadInForm d.ahead
def DiesInForm (l : List Die) : Prop := ∀ d ∈ l, d.PadsInForm
def SlotsInForm (l : RegFile Slot 4) : Prop := ∀ c, DiesInForm (l.get c).ctx.dies
def PDie.PadsInForm (x : PDie) : Prop := ∀ m ∈ x.pads, Mem.wf m = true
def PDiesInForm (l : RegFile PDie 6) : Prop := ∀ p, (l.get p).PadsInForm
def WindowsInForm (l : List Window) : Prop := ∀ w ∈ l, CellsInForm w.pre ∧ CellsInForm w.post
def FocusInForm (o : Option Focus) : Prop := ∀ f, o = some f → WindowsInForm f.windows

@[simp low] theorem Die.padsInForm_iff (d : Die) : d.PadsInForm ↔ CellsInForm d.cells ∧ AheadInForm d.ahead := Iff.rfl
theorem State.padsInForm_iff {s : State} : s.PadsInForm ↔ SlotsInForm s.slots ∧ PDiesInForm s.pdies ∧ FocusInForm s.focus := by
  have hwindow : ∀ w : Window, (CellsInForm w.pre ∧ CellsInForm w.post) ↔ ∀ q, (q ∈ w.pre ∨ q ∈ w.post) → Mem.wf q.pad = true :=
    fun w => by simp only [CellsInForm, or_imp, forall_and]
  simp only [FocusInForm, WindowsInForm, hwindow]
  rfl
@[simp] theorem State.padsInForm_parts {s : State} :
    (SlotsInForm s.slots ∧ PDiesInForm s.pdies ∧ FocusInForm s.focus) ↔ s.PadsInForm := State.padsInForm_iff.symm
/-- Of a machine's parts three hold scratchpads: the slots, the physical dies and the bundle in hand. -/
@[simp] theorem State.padsInForm_mk {time lastCause resetRun regionsUp selfTests d3hot pmeas plim plimThrottle twarnLvl columns istep throttled links
    podtmo podValid devnum podrt flits podArrived podHeld podBlocked podWaiting podDone msixTable msixMask msixPend
    messages boot queues sigobj families famNo slots schedDue schedAt transl pdies hbm host tq parks snap fresh inputs
    focus work posted} :
    (State.mk time lastCause resetRun regionsUp selfTests d3hot pmeas plim plimThrottle twarnLvl columns istep throttled links
      podtmo podValid devnum podrt flits podArrived podHeld podBlocked podWaiting podDone msixTable msixMask msixPend
      messages boot queues sigobj families famNo slots schedDue schedAt transl pdies hbm host tq parks snap fresh inputs
      focus work posted).PadsInForm ↔ SlotsInForm slots ∧ PDiesInForm pdies ∧ FocusInForm focus := State.padsInForm_iff

@[simp] theorem aheadInForm_none : AheadInForm none := fun _ h => nomatch h
@[simp] theorem focusInForm_none : FocusInForm none := fun _ h => nomatch h
@[simp] theorem focusInForm_some {f : Focus} : FocusInForm (some f) ↔ WindowsInForm f.windows := by simp [FocusInForm]
@[simp] theorem focusInForm_map {o : Option Focus} {g : Focus → Focus} (hg : ∀ f, (g f).windows = f.windows) :
    FocusInForm (o.map g) ↔ FocusInForm o := by cases o <;> simp [hg]

/-- The bundle in hand goes on with its windows. -/
theorem State.padsInForm_rehand {s : State} {f g : Focus} (hf : s.focus = some f) (hg : g.windows = f.windows) :
    ({ s with focus := some g } : State).PadsInForm ↔ s.PadsInForm := by
  rw [State.padsInForm_mk, focusInForm_some, hg, State.padsInForm_iff (s := s), hf, focusInForm_some]

/-! ### How the parts of the machine are replaced -/

theorem RegFile.forall_put {α : Type} {n : Nat} {P : α → Prop} {r : RegFile α n} (h : ∀ i, P (r.get i)) {i : BitVec n} {v : α}
    (hv : P v) : ∀ j, P ((r.put i v).get j) := fun j => by
  by_cases hj : j = i
  · rw [hj, RegFile.get_put_same]
    exact hv
  · rw [RegFile.get_put_ne _ _ hj]
    exact h j
/-- An element replaced by one that meets a condition just when it does. -/
theorem RegFile.forall_put_iff {α : Type} {n : Nat} {P : α → Prop} {r : RegFile α n} {i : BitVec n} {v : α}
    (hv : P v ↔ P (r.get i)) : (∀ j, P ((r.put i v).get j)) ↔ ∀ j, P (r.get j) := by
  refine ⟨fun h j => ?_, fun h => RegFile.forall_put h (hv.mpr (h i))⟩
  by_cases hj : j = i
  · have hi := h i
    rw [RegFile.get_put_same] at hi
    exact hj ▸ hv.mp hi
  · have := h j
    rwa [RegFile.get_put_ne _ _ hj] at this

@[simp] theorem RegFile.get_mapIdx {α β : Type} {n : Nat} (r : RegFile α n) (f : Nat → α → β) (i : BitVec n) :
    RegFile.get (Vector.mapIdx f r) i = f i.toNat (r.get i) := by simp [RegFile.get]

theorem State.PadsInForm.slots {s : State} (h : s.PadsInForm) : SlotsInForm s.slots := (State.padsInForm_iff.mp h).1
theorem State.PadsInForm.pdies {s : State} (h : s.PadsInForm) : PDiesInForm s.pdies := (State.padsInForm_iff.mp h).2.1
theorem State.PadsInForm.inHand {s : State} (h : s.PadsInForm) : FocusInForm s.focus := (State.padsInForm_iff.mp h).2.2
@[simp] theorem State.PadsInForm.slot {s : State} (h : s.PadsInForm) (c : BitVec 4) : DiesInForm (s.slot c).ctx.dies := h.slots c
@[simp] theorem State.PadsInForm.pdie {s : State} (h : s.PadsInForm) (p : BitVec 6) : (s.pdies.get p).PadsInForm := h.pdies p

@[simp] theorem State.PadsInForm.putSlot {s : State} (h : s.PadsInForm) (c : BitVec 4) {x : Slot} (hx : DiesInForm x.ctx.dies) :
    (s.putSlot c x).PadsInForm :=
  State.padsInForm_iff.mpr ⟨RegFile.forall_put (P := fun x : Slot => DiesInForm x.ctx.dies) h.slots hx, h.pdies, h.inHand⟩
@[simp] theorem State.PadsInForm.onSlot {s : State} (h : s.PadsInForm) (c : BitVec 4) {f : Slot → Slot}
    (hf : DiesInForm (f (s.slot c)).ctx.dies) : (s.onSlot c f).PadsInForm := h.putSlot c hf
@[simp] theorem State.PadsInForm.onCtx {s : State} (h : s.PadsInForm) (c : BitVec 4) {f : Ctx → Ctx}
    (hf : DiesInForm (f (s.slot c).ctx).dies) : (s.onCtx c f).PadsInForm := h.putSlot c hf
@[simp] theorem State.PadsInForm.onPdie {s : State} (h : s.PadsInForm) (p : BitVec 6) {f : PDie → PDie}
    (hf : (f (s.pdies.get p)).PadsInForm) : (s.onPdie p f).PadsInForm :=
  State.padsInForm_iff.mpr ⟨h.slots, RegFile.forall_put (P := PDie.PadsInForm) h.pdies hf, h.inHand⟩

@[simp] theorem State.putSlot_padsInForm {s : State} {c : BitVec 4} {x : Slot}
    (hx : DiesInForm x.ctx.dies ↔ DiesInForm (s.slot c).ctx.dies) : (s.putSlot c x).PadsInForm ↔ s.PadsInForm := by
  rw [State.padsInForm_iff, State.padsInForm_iff]
  exact and_congr_left' (RegFile.forall_put_iff (P := fun x : Slot => DiesInForm x.ctx.dies) hx)
@[simp] theorem State.onSlot_padsInForm {s : State} {c : BitVec 4} {f : Slot → Slot}
    (hf : DiesInForm (f (s.slot c)).ctx.dies ↔ DiesInForm (s.slot c).ctx.dies) : (s.onSlot c f).PadsInForm ↔ s.PadsInForm :=
  State.putSlot_padsInForm hf
@[simp] theorem State.onCtx_padsInForm {s : State} {c : BitVec 4} {f : Ctx → Ctx}
    (hf : DiesInForm (f (s.slot c).ctx).dies ↔ DiesInForm (s.slot c).ctx.dies) : (s.onCtx c f).PadsInForm ↔ s.PadsInForm :=
  State.putSlot_padsInForm hf
@[simp] theorem State.onPdie_padsInForm {s : State} {p : BitVec 6} {f : PDie → PDie}
    (hf : (f (s.pdies.get p)).pads = (s.pdies.get p).pads) : (s.onPdie p f).PadsInForm ↔ s.PadsInForm := by
  rw [State.padsInForm_iff, State.padsInForm_iff]
  refine and_congr_right' (and_congr_left' (RegFile.forall_put_iff (P := PDie.PadsInForm) ?_))
  rw [PDie.PadsInForm, PDie.PadsInForm, hf]
theorem State.PadsInForm.keepSlot {s : State} (h : s.PadsInForm) (c : BitVec 4) {f : Slot → Slot}
    (hf : ∀ x, DiesInForm x.ctx.dies → DiesInForm (f x).ctx.dies) : (s.onSlot c f).PadsInForm := h.onSlot c (hf _ (h.slot c))
theorem State.PadsInForm.keepCtx {s : State} (h : s.PadsInForm) (c : BitVec 4) {f : Ctx → Ctx}
    (hf : ∀ y, DiesInForm y.dies → DiesInForm (f y).dies) : (s.onCtx c f).PadsInForm := h.onCtx c (hf _ (h.slot c))
theorem PDiesInForm.map {l : RegFile PDie 6} (h : PDiesInForm l) {f : PDie → PDie} (hf : ∀ x, x.PadsInForm → (f x).PadsInForm) :
    PDiesInForm (l.map f) := fun p => by
  rw [RegFile.get_map]
  exact hf _ (h p)
@[simp] theorem slotsInForm_map {l : RegFile Slot 4} {f : Slot → Slot} (hf : ∀ x, DiesInForm (f x).ctx.dies ↔ DiesInForm x.ctx.dies) :
    SlotsInForm (l.map f) ↔ SlotsInForm l := forall_congr' fun c => by rw [RegFile.get_map, hf]
@[simp] theorem pdiesInForm_map {l : RegFile PDie 6} {f : PDie → PDie} (hf : ∀ x, (f x).pads = x.pads) :
    PDiesInForm (l.map f) ↔ PDiesInForm l := forall_congr' fun p => by rw [RegFile.get_map, PDie.PadsInForm, hf]; rfl

/-! The parts of a machine one by one, for changes that are made together. -/

@[simp] theorem slotsInForm_putSlot {s : State} {c : BitVec 4} {x : Slot} (hx : DiesInForm x.ctx.dies ↔ DiesInForm (s.slot c).ctx.dies) :
    SlotsInForm (s.putSlot c x).slots ↔ SlotsInForm s.slots := RegFile.forall_put_iff (P := fun x : Slot => DiesInForm x.ctx.dies) hx
@[simp] theorem slotsInForm_onSlot {s : State} {c : BitVec 4} {f : Slot → Slot}
    (hf : DiesInForm (f (s.slot c)).ctx.dies ↔ DiesInForm (s.slot c).ctx.dies) :
    SlotsInForm (s.onSlot c f).slots ↔ SlotsInForm s.slots := slotsInForm_putSlot hf
@[simp] theorem slotsInForm_onCtx {s : State} {c : BitVec 4} {f : Ctx → Ctx}
    (hf : DiesInForm (f (s.slot c).ctx).dies ↔ DiesInForm (s.slot c).ctx.dies) :
    SlotsInForm (s.onCtx c f).slots ↔ SlotsInForm s.slots := slotsInForm_putSlot hf
@[simp] theorem pdiesInForm_onPdie {s : State} {p : BitVec 6} {f : PDie → PDie} (hf : (f (s.pdies.get p)).pads = (s.pdies.get p).pads) :
    PDiesInForm (s.onPdie p f).pdies ↔ PDiesInForm s.pdies := RegFile.forall_put_iff (P := PDie.PadsInForm) (by
  rw [PDie.PadsInForm, PDie.PadsInForm, hf])

theorem mem_modify {α : Type} {l : List α} {i : Nat} {f : α → α} {y : α} (h : y ∈ l.modify i f) : y ∈ l ∨ ∃ x ∈ l, y = f x := by
  obtain ⟨k, hk⟩ := List.mem_iff_getElem?.mp h
  rw [List.getElem?_modify] at hk
  cases hx : l[k]? with
  | none => simp [hx] at hk
  | some x =>
    rw [hx] at hk
    have hmem := List.mem_of_getElem? hx
    by_cases hi : i = k
    · exact .inr ⟨x, hmem, by simpa [hi] using hk.symm⟩
    · exact .inl (by simp [hi] at hk; exact hk ▸ hmem)

/-- The elements after one is changed meet a condition just when they did, if the change keeps it either way. -/
theorem forall_mem_modify {α : Type} {P : α → Prop} {l : List α} {i : Nat} {f : α → α} (hf : ∀ x, P (f x) ↔ P x) :
    (∀ x ∈ l.modify i f, P x) ↔ ∀ x ∈ l, P x := by
  simp only [List.mem_iff_getElem?, List.getElem?_modify, forall_exists_index]
  rw [forall_comm, forall_comm (α := α)]
  refine forall_congr' fun k => ?_
  cases l[k]? <;> by_cases hi : i = k <;> simp [hi, hf]

theorem DiesInForm.onDie {y : Ctx} (h : DiesInForm y.dies) (d : Nat) {f : Die → Die} (hf : ∀ z, z.PadsInForm → (f z).PadsInForm) :
    DiesInForm (y.onDie d f).dies := fun z hz => by
  rcases mem_modify hz with hz | ⟨x, hx, rfl⟩
  · exact h z hz
  · exact hf x (h x hx)
theorem DiesInForm.onCell {y : Ctx} (h : DiesInForm y.dies) (d i : Nat) {f : Cell → Cell}
    (hf : ∀ x, Mem.wf x.pad = true → Mem.wf (f x).pad = true) : DiesInForm (y.onCell d i f).dies :=
  h.onDie d fun z hz => ⟨fun q hq => by
    rcases mem_modify hq with hq | ⟨x, hx, rfl⟩
    · exact hz.1 q hq
    · exact hf x (hz.1 x hx), hz.2⟩

@[simp] theorem Ctx.onDie_padsInForm {y : Ctx} {d : Nat} {f : Die → Die} (hf : ∀ z, (f z).PadsInForm ↔ z.PadsInForm) :
    DiesInForm (y.onDie d f).dies ↔ DiesInForm y.dies := forall_mem_modify hf
@[simp] theorem cellsInForm_modify {l : List Cell} {i : Nat} {f : Cell → Cell} (hf : ∀ x, (f x).pad = x.pad) :
    CellsInForm (l.modify i f) ↔ CellsInForm l := forall_mem_modify fun x => by rw [hf x]
@[simp] theorem Die.onCell_padsInForm {z : Die} {i : Nat} {f : Cell → Cell} (hf : ∀ x, (f x).pad = x.pad) :
    (z.onCell i f).PadsInForm ↔ z.PadsInForm := and_congr_left' (cellsInForm_modify hf)
@[simp] theorem Ctx.onCell_padsInForm {y : Ctx} {d i : Nat} {f : Cell → Cell} (hf : ∀ x, (f x).pad = x.pad) :
    DiesInForm (y.onCell d i f).dies ↔ DiesInForm y.dies := Ctx.onDie_padsInForm fun _ => Die.onCell_padsInForm hf
@[simp] theorem cellsInForm_map {l : List Cell} {f : Cell → Cell} (hf : ∀ x, (f x).pad = x.pad) :
    CellsInForm (l.map f) ↔ CellsInForm l := by simp [CellsInForm, hf]
@[simp] theorem diesInForm_map {l : List Die} {f : Die → Die} (hf : ∀ z, (f z).PadsInForm ↔ z.PadsInForm) :
    DiesInForm (l.map f) ↔ DiesInForm l := by simp only [DiesInForm, List.forall_mem_map, hf]

theorem CellsInForm.map {l : List Cell} (h : CellsInForm l) {f : Cell → Cell} (hf : ∀ x, Mem.wf x.pad = true → Mem.wf (f x).pad = true) :
    CellsInForm (l.map f) := List.forall_mem_map.mpr fun q hq => hf q (h q hq)
theorem DiesInForm.map {l : List Die} (h : DiesInForm l) {f : Die → Die} (hf : ∀ z, z.PadsInForm → (f z).PadsInForm) :
    DiesInForm (l.map f) := List.forall_mem_map.mpr fun z hz => hf z (h z hz)

/-- A machine that a list of changes leaves in form. -/
@[simp] theorem foldl_padsInForm {α : Type} {l : List α} {f : State → α → State} (hf : ∀ s a, (f s a).PadsInForm ↔ s.PadsInForm)
    {s : State} : (l.foldl f s).PadsInForm ↔ s.PadsInForm := by
  induction l generalizing s with
  | nil => exact Iff.rfl
  | cons a l ih => rw [List.foldl_cons, ih, hf]
theorem State.PadsInForm.foldl {α : Type} {l : List α} {f : State → α → State} (hf : ∀ s a, s.PadsInForm → (f s a).PadsInForm)
    {s : State} (h : s.PadsInForm) : (l.foldl f s).PadsInForm := by
  induction l generalizing s with
  | nil => exact h
  | cons a l ih => exact ih (hf s a h)

@[simp] theorem foldl_dies {α : Type} {l : List α} {f : Ctx → α → Ctx} (hf : ∀ y a, DiesInForm (f y a).dies ↔ DiesInForm y.dies)
    {y : Ctx} : DiesInForm (l.foldl f y).dies ↔ DiesInForm y.dies := by
  induction l generalizing y with
  | nil => exact Iff.rfl
  | cons a l ih => rw [List.foldl_cons, ih, hf]
theorem DiesInForm.foldl {α : Type} {l : List α} {f : Ctx → α → Ctx} (hf : ∀ y, ∀ a ∈ l, DiesInForm y.dies → DiesInForm (f y a).dies)
    {y : Ctx} (h : DiesInForm y.dies) : DiesInForm (l.foldl f y).dies := by
  induction l generalizing y with
  | nil => exact h
  | cons a l ih =>
    exact ih (fun y b hb => hf y b (List.mem_cons_of_mem a hb)) (hf y a List.mem_cons_self h)
theorem DiesInForm.cell? {y : Ctx} (h : DiesInForm y.dies) {d i : Nat} {x : Cell} (hx : y.cell? d i = some x) :
    Mem.wf x.pad = true := by
  obtain ⟨z, hz, hcell⟩ := Option.bind_eq_some_iff.mp hx
  exact (h z (List.mem_of_getElem? hz)).1 x (List.mem_of_getElem? hcell)

@[simp] theorem guarded_padsInForm {b : Bool} {s t : State} (h : t.PadsInForm ↔ s.PadsInForm) :
    (guarded b t s).PadsInForm ↔ s.PadsInForm := by
  unfold guarded
  split <;> simp [h]
@[simp] theorem State.PadsInForm.guarded {b : Bool} {s t : State} (hs : s.PadsInForm) (ht : t.PadsInForm) : (guarded b t s).PadsInForm := by
  unfold Machine.guarded
  split
  · exact ht
  · exact hs

theorem State.PadsInForm.ite {s t : State} (hs : s.PadsInForm) (ht : t.PadsInForm) {p : Prop} [Decidable p] :
    (if p then s else t).PadsInForm := by
  split
  · exact hs
  · exact ht

/-! ### Outcomes -/

/-- Where an instruction or event completes, the scratchpads are in form. -/
def LeavesForm (o : Out) : Prop := ∀ t, o = .next t → t.PadsInForm
@[simp] theorem leavesForm_next (t : State) : LeavesForm (.next t) ↔ t.PadsInForm :=
  ⟨fun h => h t rfl, fun h _ he => Host.Outcome.next.inj he ▸ h⟩
@[simp] theorem leavesForm_fault (e : Fault) : LeavesForm (.fault e) := fun _ h => nomatch h
@[simp] theorem leavesForm_refused (e : Refusal) : LeavesForm (.refused e) := fun _ h => nomatch h

/-! ### What every function of the model keeps, in the order of the model -/

/-! #### Acting on the cells of a bundle -/

/-- A slot's act on one cell leaves its scratchpad in form. -/
def ResForm (r : Except CellFault Cell) : Prop := ∀ q, r = .ok q → Mem.wf q.pad = true
@[simp] theorem resForm_ok (q : Cell) : ResForm (.ok q) ↔ Mem.wf q.pad = true :=
  ⟨fun h => h q rfl, fun h _ he => Except.ok.inj he ▸ h⟩
@[simp] theorem resForm_error (e : CellFault) : ResForm (.error e) := fun _ h => nomatch h
/-- A cell operation that keeps every scratchpad in form. -/
def KeepsForm (g : CellFn) : Prop := ∀ env pre post, Mem.wf post.pad = true → ResForm (g env pre post)

theorem CellsInForm.runCells {f : Focus} {d : Nat} {g : CellFn} (hg : KeepsForm g) {i : Nat} {ps cs : List Cell}
    (h : CellsInForm cs) :
    CellsInForm (runCells f d g i ps cs).1 := by
  induction cs generalizing i ps with
  | nil => cases ps <;> exact h
  | cons c cs ih =>
    cases ps with
    | nil => exact h
    | cons p ps =>
      obtain ⟨hc, hcs⟩ := List.forall_mem_cons.mp h
      rw [Machine.runCells]
      split
      · exact List.forall_mem_cons.mpr ⟨hc, ih hcs⟩
      · split
        · next c' hc' => exact List.forall_mem_cons.mpr ⟨hg _ _ _ hc c' hc', ih hcs⟩
        · exact List.forall_mem_cons.mpr ⟨hc, ih hcs⟩
theorem onCells_leavesForm {g : CellFn} (hg : KeepsForm g) {s : State} (h : s.PadsInForm) : LeavesForm (onCells g s) := by
  refine (leavesForm_next _).mpr ?_
  split
  · exact h
  · next f hf =>
    refine State.padsInForm_mk.mpr ⟨h.slots, h.pdies, focusInForm_some.mpr (List.forall_mem_map.mpr fun w hw => ?_)⟩
    obtain ⟨hpre, hpost⟩ := h.inHand f hf w hw
    exact ⟨hpre, hpost.runCells hg⟩
theorem ifActive_keepsForm {g : CellFn} (hg : KeepsForm g) : KeepsForm (ifActive g) := fun env pre post h => by
  unfold ifActive
  split
  · exact hg env pre post h
  · exact (resForm_ok post).mpr h
theorem pureOp_keepsForm {g : Env → Cell → Cell → Cell}
    (hg : ∀ env pre post, Mem.wf post.pad = true → Mem.wf (g env pre post).pad = true) : KeepsForm (pureOp g) :=
  ifActive_keepsForm fun env pre post h => (resForm_ok _).mpr (hg env pre post h)
theorem pureOp_leavesForm {g : Env → Cell → Cell → Cell}
    (hg : ∀ env pre post, Mem.wf post.pad = true → Mem.wf (g env pre post).pad = true) {s : State} (h : s.PadsInForm) :
    LeavesForm (onCells (pureOp g) s) := onCells_leavesForm (pureOp_keepsForm hg) h

/-! #### Floating-point flags and traps -/

@[simp] theorem fpVec_resForm {ctl : FpCtl} {ls : List (Nat × Flags5)} {upd : Cell} (h : Mem.wf upd.pad = true) :
    ResForm (fpVec ctl ls upd) := by
  unfold fpVec
  split
  · exact resForm_error _
  · exact (resForm_ok _).mpr h

/-! #### Commands and timelines -/

/-- What a command starts with leaves its scratchpad in form. -/
def StartForm (r : Except CellFault (Start × Cell)) : Prop := ∀ p, r = .ok p → Mem.wf p.2.pad = true
@[simp] theorem startForm_ok (p : Start × Cell) : StartForm (.ok p) ↔ Mem.wf p.2.pad = true :=
  ⟨fun h => h p rfl, fun h _ he => Except.ok.inj he ▸ h⟩
@[simp] theorem startForm_error (e : CellFault) : StartForm (.error e) := fun _ h => nomatch h
theorem command_keepsForm {tl : BitVec 2} {cls : BitVec 4} {e : BitVec 1} {jo : BitVec 6}
    {start : Env → Cell → Cell → Except CellFault (Start × Cell)}
    (hs : ∀ env pre post, Mem.wf post.pad = true → StartForm (start env pre post)) : KeepsForm (command tl cls e jo start) :=
  fun env pre post h => by
    unfold command
    split
    · exact (resForm_ok _).mpr h
    · split
      · exact resForm_error _
      · next st c hc => exact (resForm_ok _).mpr (hs env pre post h _ hc)
@[simp] theorem retireTimeline_pad (k : BitVec 2) (fuel : Nat) (x : Cell) : (retireTimeline k fuel x).pad = x.pad := by
  induction fuel generalizing x with
  | zero => rfl
  | succ fuel ih =>
    rw [retireTimeline]
    split
    · split
      · exact ih _
      · rfl
    · rfl
@[simp] theorem Cell.advance_pad (x : Cell) : x.advance.pad = x.pad := by simp [Cell.advance]
@[simp] theorem Cell.recordGuard_pad (x : Cell) (tl : BitVec 2) (num : Nat) (g : Option (Nat × Nat)) :
    (x.recordGuard tl num g).pad = x.pad := by
  unfold Cell.recordGuard
  split
  · rfl
  · split <;> rfl
@[simp] theorem Cell.send_pad (x : Cell) (cyc : Nat) (l : Leaving) : (x.send cyc l).pad = x.pad := Cell.recordGuard_pad ..

/-! #### Operations on the state -/

@[simp] theorem Ctx.moveQueue_padsInForm (y : Ctx) (d : Die) :
    (y.moveQueue d).PadsInForm ↔ d.PadsInForm := by simp [Ctx.moveQueue]
@[simp] theorem PDie.selfCatch_pads (p : PDie) (time : Nat) : (p.selfCatch time).pads = p.pads := by
  unfold PDie.selfCatch
  split <;> simp
@[simp] theorem PDie.selfStop_pads (p : PDie) (time : Nat) : (p.selfStop time).pads = p.pads := by simp [PDie.selfStop]
@[simp] theorem State.signal_padsInForm (s : State) (v : Nat) : (s.signal v).PadsInForm ↔ s.PadsInForm := by
  unfold State.signal
  split <;> simp
@[simp] theorem State.bootNote_padsInForm (was s : State) : (State.bootNote was s).PadsInForm ↔ s.PadsInForm := by
  unfold State.bootNote
  split <;> simp
@[simp] theorem State.wrMem_padsInForm (s : State) (host : Bool) (a : Nat) (b : List Byte) :
    (s.wrMem host a b).PadsInForm ↔ s.PadsInForm := by
  unfold State.wrMem
  split <;> simp
@[simp] theorem State.PadsInForm.leavePads {s : State} (h : s.PadsInForm) (c : BitVec 4) : (s.leavePads c).PadsInForm := by
  unfold State.leavePads
  dsimp only
  split
  · exact h
  · refine State.PadsInForm.foldl (fun t ld ht => ht.onPdie _ ?_) h
    intro m hm
    dsimp only at hm
    split at hm
    · exact absurd hm List.not_mem_nil
    · split at hm
      · next d hd =>
        obtain ⟨q, hq, rfl⟩ := List.mem_map.mp hm
        exact (h.slot c d (List.mem_of_getElem? hd)).1 q hq
      · exact ht.pdie _ m hm
@[simp] theorem State.trigger_padsInForm (s : State) (src : Nat) (slot : BitVec 4) (cause : Nat) :
    (s.trigger src slot cause).PadsInForm ↔ s.PadsInForm := by
  unfold State.trigger
  split <;> simp
@[simp] theorem State.postTrap_padsInForm (s : State) (r : TrapRec) :
    (s.postTrap r).PadsInForm ↔ s.PadsInForm := by simp [State.postTrap]
@[simp] theorem State.takeRecord_padsInForm (s : State) (r : TrapRec) : (s.takeRecord r).PadsInForm ↔ s.PadsInForm := by
  dsimp only [State.takeRecord]
  (repeat' split) <;> simp
@[simp] theorem State.offer_padsInForm (s : State) (r : TrapRec) : (s.offer r).PadsInForm ↔ s.PadsInForm := by
  unfold State.offer
  split <;> simp
@[simp] theorem State.drainFatal_padsInForm (k : Nat) (s : State) : (State.drainFatal k s).PadsInForm ↔ s.PadsInForm := by
  induction k generalizing s with
  | zero => exact Iff.rfl
  | succ k ih =>
    rw [State.drainFatal]
    split
    · split
      · simp [ih]
      · exact Iff.rfl
    · exact Iff.rfl
@[simp] theorem State.drainHeld_padsInForm (k : Nat) (s : State) : (State.drainHeld k s).PadsInForm ↔ s.PadsInForm := by
  induction k generalizing s with
  | zero => exact Iff.rfl
  | succ k ih =>
    rw [State.drainHeld]
    split
    · split
      · simp [ih]
      · exact Iff.rfl
    · exact Iff.rfl
@[simp] theorem State.drainTraps_padsInForm (s : State) : s.drainTraps.PadsInForm ↔ s.PadsInForm := by simp [State.drainTraps]
@[simp] theorem Ctx.arrive_diesInForm (c : Ctx) (j : BitVec 6) :
    DiesInForm (c.arrive j).dies ↔ DiesInForm c.dies := by simp [Ctx.arrive]
@[simp] theorem Ctx.deliverFirst_diesInForm (c : Ctx) (n : Nat) :
    DiesInForm (c.deliverFirst n).dies ↔ DiesInForm c.dies := by simp [Ctx.deliverFirst]
@[simp] theorem Ctx.stepArrivals_diesInForm (c : Ctx) (n : Nat) :
    DiesInForm (c.stepArrivals n).dies ↔ DiesInForm c.dies := by simp [Ctx.stepArrivals]
@[simp] theorem Ctx.takeArrivals_diesInForm (y : Ctx) (j : BitVec 6) (n : Nat) :
    DiesInForm (y.takeArrivals j n).dies ↔ DiesInForm y.dies := by
  induction n generalizing y with
  | zero => exact Iff.rfl
  | succ n ih => rw [Ctx.takeArrivals, ih]
@[simp] theorem Cell.onCmd_pad (c : Cell) (tl : BitVec 2) (num : Nat) (f : Cmd → Cmd) :
    (c.onCmd tl num f).pad = c.pad := by simp [Cell.onCmd]
@[simp] theorem DiesInForm.settleCell {y : Ctx} (h : DiesInForm y.dies) (d i : Nat) : DiesInForm (y.settleCell d i).dies := by
  unfold Ctx.settleCell
  split
  · exact h
  · next q hq => exact (foldl_dies (by simp)).mpr (h.onCell d i fun _ _ => by rw [Cell.advance_pad]; exact h.cell? hq)
@[simp] theorem DiesInForm.completeCmd {y : Ctx} (h : DiesInForm y.dies) (d i : Nat) (tl : BitVec 2) (num : Nat) :
    DiesInForm (y.completeCmd d i tl num).dies := by
  have hcmd : ∀ f, DiesInForm (y.onCell d i fun x => x.onCmd tl num f).dies := fun f => (Ctx.onCell_padsInForm (by simp)).mpr h
  unfold Ctx.completeCmd
  split
  · exact h
  · dsimp only
    split
    · exact DiesInForm.settleCell (by simp [hcmd]) d i
    · exact (hcmd _).settleCell d i
@[simp] theorem PDie.dropWalks_pads (p : PDie) (gone : Walk → Bool) : (p.dropWalks gone).pads = p.pads := by simp [PDie.dropWalks]
@[simp] theorem State.fillWalks_padsInForm (s : State) : s.fillWalks.PadsInForm ↔ s.PadsInForm := by simp [State.fillWalks]
@[simp] theorem Die.PadsInForm.rewind {z : Die} (h : z.PadsInForm) : z.rewind.PadsInForm :=
  ⟨(cellsInForm_map (f := fun q => { q with waited := none }) fun _ => rfl).mpr h.1, aheadInForm_none⟩
/-- Dies whose cells keep their scratchpads, with nothing ahead of them. -/
@[simp] theorem DiesInForm.drop {l : List Die} (h : DiesInForm l) {f : Die → Die}
    (hcells : ∀ z, CellsInForm z.cells → CellsInForm (f z).cells)
    (hahead : ∀ z, (f z).ahead = none) : DiesInForm (l.map f) :=
  h.map fun z hz => ⟨hcells z hz.1, hahead z ▸ aheadInForm_none⟩
@[simp] theorem DiesInForm.purge {y : Ctx} (h : DiesInForm y.dies) : DiesInForm y.purge.dies :=
  h.drop (fun _ hz => (cellsInForm_map (f := Cell.purge) fun _ => rfl).mpr hz) fun _ => rfl
@[simp] theorem State.tellParent_padsInForm (s : State) (c : BitVec 4) : (s.tellParent c).PadsInForm ↔ s.PadsInForm := by
  unfold State.tellParent
  dsimp only
  split
  · exact Iff.rfl
  · split
    · simp
    · split <;> simp [-Ctx.arrive_dies]
@[simp] theorem State.familyDeath_padsInForm (s : State) (fam : Nat) (c : Cause) :
    (s.familyDeath fam c).PadsInForm ↔ s.PadsInForm := by simp [State.familyDeath]
theorem FocusInForm.ite {o : Option Focus} (h : FocusInForm o) (p : Prop) [Decidable p] :
    FocusInForm (if p then none else o) := by
  split
  · exact focusInForm_none
  · exact h
@[simp] theorem State.PadsInForm.kill {s : State} (h : s.PadsInForm) (c : BitVec 4) (i : DeadInfo) : (s.kill c i).PadsInForm := by
  unfold State.kill
  dsimp only
  split
  · exact h
  · have ht : (((s.offer (s.fatalRec c i)).familyDeath (s.slot c).fam i.cause).tellParent c).PadsInForm := by simp [h]
    rw [State.fillWalks_padsInForm, State.padsInForm_mk]
    have hslots := fun f hf => (ht.onSlot c (f := f) hf).slots
    exact ⟨hslots _ (ht.slot c).purge, (pdiesInForm_map fun p => PDie.dropWalks_pads p _).mpr ht.pdies, ht.inHand.ite _⟩
@[simp] theorem Ctx.unawait_diesInForm (c : Ctx) (p : TreePend) : DiesInForm (c.unawait p).dies ↔ DiesInForm c.dies := by
  unfold Ctx.unawait
  (repeat' split) <;> simp
@[simp] theorem Ctx.cancelTree_diesInForm (y : Ctx) : DiesInForm y.cancelTree.dies ↔ DiesInForm y.dies :=
  (foldl_dies (by simp)).trans (foldl_dies fun y p => by split <;> simp)
@[simp] theorem State.PadsInForm.startFreeze {s : State} (h : s.PadsInForm) (c : BitVec 4) (z : Freeze) :
    (s.startFreeze c z).PadsInForm := by
  have hdrop := (h.slot c).drop (f := fun d => { d with ahead := none }) (fun _ hz => hz) fun _ => rfl
  refine h.onSlot c ?_
  split <;> exact hdrop
@[simp] theorem State.PadsInForm.trapEntry {s : State} (h : s.PadsInForm) (c : BitVec 4) (z : Freeze) :
    (s.trapEntry c z).PadsInForm := by
  have hrewind := fun f (hf : ∀ y, (f y).dies = y.dies.map fun d => { d.rewind with fault := none, flag := false, deq := d.done }) =>
    h.onCtx c (f := f) (hf _ ▸ (h.slot c).map fun _ hz => hz.rewind)
  unfold State.trapEntry
  dsimp only
  split
  · exact State.PadsInForm.kill (by simpa using hrewind _ fun _ => rfl) c _
  · split
    · exact State.PadsInForm.kill (by simpa using hrewind _ fun _ => rfl) c _
    · simpa using hrewind _ fun _ => rfl
@[simp] theorem Ctx.eret_diesInForm (y : Ctx) : DiesInForm y.eret.dies ↔ DiesInForm y.dies := by
  unfold Ctx.eret
  split <;> simp
@[simp] theorem State.PadsInForm.seqFault {s : State} (h : s.PadsInForm) (c : BitVec 4) (cause : Cause) (slot det : Nat)
    (stop : Xword) :
    (s.seqFault c cause slot det stop).PadsInForm := by
  unfold State.seqFault
  dsimp only
  split
  · split
    · exact h.kill c _
    · exact h.kill c _
  · exact h.startFreeze c _

/-! #### Handles and translation -/

@[simp] theorem State.putHandle_padsInForm (s : State) (x : HandleSlot) :
    (s.putHandle x).PadsInForm ↔ s.PadsInForm := by simp [State.putHandle]
@[simp] theorem State.wrRun_padsInForm (s : State) (r : Run) (b : List Byte) : (s.wrRun r b).PadsInForm ↔ s.PadsInForm := by
  unfold State.wrRun
  split <;> simp
@[simp] theorem State.stageHandle_padsInForm (s : State) (h : BitVec 12) (w : BitVec 2) (be : BitVec 8) (v : Xword) :
    (s.stageHandle h w be v).PadsInForm ↔ s.PadsInForm := by
  unfold State.stageHandle
  (repeat' split) <;> simp
@[simp] theorem State.replaceHandle_padsInForm (s : State) (h : BitVec 12) (e : Handle) :
    (s.replaceHandle h e).PadsInForm ↔ s.PadsInForm := by simp [State.replaceHandle]
@[simp] theorem State.commitHandle_padsInForm (s : State) (h : BitVec 12) (be : BitVec 8) (v : Xword) :
    (s.commitHandle h be v).PadsInForm ↔ s.PadsInForm := by
  dsimp only [State.commitHandle]
  (repeat' split) <;> simp
@[simp] theorem State.invalidate_padsInForm (s : State) (full : Bool) :
    (s.invalidate full).PadsInForm ↔ s.PadsInForm := by simp [State.invalidate]
@[simp] theorem State.setRoot_padsInForm (s : State) (v : Xword) :
    (s.setRoot v).PadsInForm ↔ s.PadsInForm := by simp [State.setRoot]
@[simp] theorem State.invalidateGo_padsInForm (s : State) (all : Bool) : (s.invalidateGo all).PadsInForm ↔ s.PadsInForm := by
  unfold State.invalidateGo
  split <;> simp
@[simp] theorem State.relocate_padsInForm (s : State) : s.relocate.PadsInForm ↔ s.PadsInForm := by
  dsimp only [State.relocate]
  split <;> simp
@[simp] theorem State.windowWrite_padsInForm (s : State) (off : Nat) (v : Xword) :
    (s.windowWrite off v).PadsInForm ↔ s.PadsInForm := by
  unfold State.windowWrite
  split
  · show (if off / 8 % 4 = 3 then _ else _ : State).PadsInForm ↔ s.PadsInForm
    split
    · exact State.commitHandle_padsInForm ..
    · exact State.stageHandle_padsInForm ..
  · generalize off - 0x20000 = k
    split
    · simp
    · exact Iff.rfl
    · dsimp only
      split
      · exact State.invalidateGo_padsInForm ..
      · exact Iff.rfl
    · exact Iff.rfl
    · dsimp only
      split
      · exact State.relocate_padsInForm _
      · exact Iff.rfl
    · exact Iff.rfl
@[simp] theorem State.writeParts_padsInForm (s : State) (l : List Run) (b : List Byte) :
    (s.writeParts l b).PadsInForm ↔ s.PadsInForm := by
  induction l generalizing s b with
  | nil => exact Iff.rfl
  | cons q l ih => rw [State.writeParts, ih, State.wrRun_padsInForm]

/-! #### Flits -/

@[simp] theorem State.choose_padsInForm (s : State) (n : Nat) : (s.choose n).2.PadsInForm ↔ s.PadsInForm := by
  unfold State.choose
  split <;> simp
@[simp] theorem State.sendFlit_padsInForm (s : State) (dest src : BitVec 6) (hops : BitVec 4) (b : PodBody) :
    (s.sendFlit dest src hops b).PadsInForm ↔ s.PadsInForm := by
  dsimp only [State.sendFlit]
  split <;> simp
@[simp] theorem State.PadsInForm.tryWait {s : State} (h : s.PadsInForm) (c : BitVec 4) (outer : Bool) :
    (s.tryWait c outer).PadsInForm := by
  unfold State.tryWait
  dsimp only
  split
  · exact h
  · split
    · exact h
    · split
      · exact h.kill c _
      · split
        · exact State.PadsInForm.onSlot (State.padsInForm_mk.mpr (State.padsInForm_iff.mp h)) c (h.slot c)
        · exact h
@[simp] theorem State.PadsInForm.tryRound {s : State} (h : s.PadsInForm) (c : BitVec 4) : (s.tryRound c).PadsInForm :=
  (h.tryWait c true).tryWait c false
@[simp] theorem State.PadsInForm.startRound {s : State} (h : s.PadsInForm) (c : BitVec 4) (pc : Xword) (kind op : BitVec 8)
    (v : Xword) :
    (s.startRound c pc kind op v).PadsInForm := by
  unfold State.startRound
  dsimp only
  split
  · exact h.kill c _
  · exact State.PadsInForm.tryRound (by simp [h]) c
@[simp] theorem State.setSig_padsInForm (s : State) (i : BitVec 8) (v : Xword) :
    (s.setSig i v).PadsInForm ↔ s.PadsInForm := by simp [State.setSig]

/-! #### Parked requests -/

@[simp] theorem State.PadsInForm.parkReq {s : State} (h : s.PadsInForm) (c : BitVec 4) (cause : Cause) (what : ParkOf)
    (r : ReqInfo) :
    (s.parkReq c cause what r).2.PadsInForm := by
  unfold State.parkReq
  dsimp only
  split
  · exact h.kill c _
  · split <;> simp [h]
@[simp] theorem State.unpark_padsInForm (s : State) (id : BitVec 12) :
    (s.unpark id).PadsInForm ↔ s.PadsInForm := by simp [State.unpark]

/-! #### New contexts -/

@[simp] theorem State.PadsInForm.newContext {s : State} (h : s.PadsInForm) (c : BitVec 4) (d : Desc) (prio : BitVec 3)
    (queue : BitVec 6)
    (fam : Nat) (parent : Option (BitVec 4)) (join : Option (BitVec 6)) : (s.newContext c d prio queue fam parent join).PadsInForm := by
  have ht := fun x (hx : x.ctx.dies = []) => h.putSlot c (x := x) (hx ▸ fun _ hz => absurd hz List.not_mem_nil)
  exact State.padsInForm_iff.mpr (State.padsInForm_iff.mp (ht _ rfl))

/-! #### The S slot: integer instructions and branches -/

@[simp] theorem State.setSres_padsInForm (s : State) (r : SRes) :
    (s.setSres r).PadsInForm ↔ s.PadsInForm := by simp [State.setSres]
/-- Where an S part goes on, the scratchpads are in form. -/
def StepsForm (r : SStep) : Prop := ∀ t, r = .go t → t.PadsInForm
@[simp] theorem stepsForm_go (t : State) : StepsForm (.go t) ↔ t.PadsInForm :=
  ⟨fun h => h t rfl, fun h _ he => SStep.go.inj he ▸ h⟩
@[simp] theorem stepsForm_wait : StepsForm .wait := fun _ h => nomatch h
@[simp] theorem stepsForm_fault (e : Cause) (n : Nat) : StepsForm (.fault e n) := fun _ h => nomatch h
theorem onSeq_leavesForm {f : Focus → State → SStep} (hf : ∀ fo s, s.PadsInForm → StepsForm (f fo s)) {s : State}
    (h : s.PadsInForm) :
    LeavesForm (onSeq f s) := by
  refine (leavesForm_next _).mpr ?_
  split
  · exact h
  · split
    · next t ht => exact hf _ s h t ht
    · exact (State.setSres_padsInForm ..).mpr h
    · exact (State.setSres_padsInForm ..).mpr h
theorem onSeqX_leavesForm {srcs : List (BitVec 5)} {f : Focus → State → SStep} (hf : ∀ fo s, s.PadsInForm → StepsForm (f fo s))
    {s : State} (h : s.PadsInForm) : LeavesForm (onSeqX srcs f s) :=
  onSeq_leavesForm (fun fo s h => by
    split
    · exact stepsForm_wait
    · exact hf fo s h) h
@[simp] theorem seqReg_leavesForm {s : State} (h : s.PadsInForm) (d : BitVec 5) (srcs : List (BitVec 5))
    (f : (BitVec 5 → Xword) → Xword) :
    LeavesForm (seqReg d srcs f s) := onSeqX_leavesForm (fun _ s h => by simp [h]) h
@[simp] theorem State.jump_padsInForm (s : State) (a : Xword) : (s.jump a).PadsInForm ↔ s.PadsInForm := by simp [State.jump]
@[simp] theorem branch_leavesForm {s : State} (h : s.PadsInForm) (a b : BitVec 5) (o : BitVec 14) (x : Option Word)
    (c : Xword → Xword → Bool) : LeavesForm (branch a b o x c s) :=
  onSeqX_leavesForm (fun _ s h => (stepsForm_go _).mpr (State.PadsInForm.ite (by simp [h]) h)) h
@[simp] theorem execJ_leavesForm {s : State} (h : s.PadsInForm) (o : BitVec 19) (x : Option Word) : LeavesForm (execJ o x s) := by
  refine onSeq_leavesForm (fun fo s h => ?_) h
  simp [h]
@[simp] theorem execJal_leavesForm {s : State} (h : s.PadsInForm) (d : BitVec 5) (o : BitVec 19) (x : Option Word) :
    LeavesForm (execJal d o x s) := by
  refine onSeq_leavesForm (fun fo s h => ?_) h
  simp [h]
@[simp] theorem execJalr_leavesForm {s : State} (h : s.PadsInForm) (d a : BitVec 5) (i : BitVec 14) (x : Option Word) :
    LeavesForm (execJalr d a i x s) := by
  refine onSeqX_leavesForm (fun fo s h => ?_) h
  dsimp only
  split <;> simp [h]

/-! #### The S slot: memory -/

@[simp] theorem Ctx.access_diesInForm (c : Ctx) (a : SeqAccess) (reads : Bool) :
    DiesInForm (c.access a reads).dies ↔ DiesInForm c.dies := by
  unfold Ctx.access
  split <;> simp
@[simp] theorem load_leavesForm {s : State} (h : s.PadsInForm) (d a : BitVec 5) (z : BitVec 2) (x : Option Word) (signed : Bool) :
    LeavesForm (load d a z x signed s) := by
  refine onSeqX_leavesForm (fun fo s h => ?_) h
  dsimp only
  (repeat' split) <;> simp [h]
@[simp] theorem execSt_leavesForm {s : State} (h : s.PadsInForm) (a b : BitVec 5) (z : BitVec 2) (x : Option Word) :
    LeavesForm (execSt a b z x s) := by
  refine onSeqX_leavesForm (fun fo s h => ?_) h
  dsimp only
  (repeat' split) <;> simp [h]
@[simp] theorem execSamo_leavesForm {s : State} (h : s.PadsInForm) (d a b : BitVec 5) (u : BitVec 1) (o : BitVec 4)
    (z : BitVec 2) (x : Option Word) :
    LeavesForm (execSamo d a b u o z x s) := by
  refine onSeqX_leavesForm (fun fo s h => ?_) h
  dsimp only
  (repeat' split) <;> simp [h]
@[simp] theorem execFenceS_leavesForm {s : State} (h : s.PadsInForm) : LeavesForm (execFenceS s) := by
  refine onSeq_leavesForm (fun fo s h => ?_) h
  split <;> simp [h]
@[simp] theorem State.writePlace_padsInForm (s : State) (p : Place) (n v : Nat) :
    (s.writePlace p n v).PadsInForm ↔ s.PadsInForm := by
  unfold State.writePlace
  split <;> simp
@[simp] theorem State.performSeq_padsInForm (s : State) (c : BitVec 4) : (s.performSeq c).PadsInForm ↔ s.PadsInForm := by
  unfold State.performSeq
  (repeat' split) <;> simp
@[simp] theorem execSequencerAccessComplete_leavesForm {s : State} (h : s.PadsInForm) (c : BitVec 4) :
    LeavesForm (execSequencerAccessComplete c s) := by simp [execSequencerAccessComplete, h]

/-! #### Special registers -/

@[simp] theorem Ctx.keepCounts_diesInForm (c : Ctx) (time : Nat) :
    DiesInForm (c.keepCounts time).dies ↔ DiesInForm c.dies := by simp [Ctx.keepCounts]
@[simp] theorem Ctx.writeSpecial_diesInForm (y : Ctx) (n : Nat) (k : Nat) (v : Xword) :
    DiesInForm (y.writeSpecial n k v).dies ↔ DiesInForm y.dies := by
  unfold Ctx.writeSpecial
  split <;> simp
@[simp] theorem execSrr_leavesForm {s : State} (h : s.PadsInForm) (d : BitVec 5) (n : BitVec 9) : LeavesForm (execSrr d n s) := by
  refine onSeq_leavesForm (fun fo s h => ?_) h
  dsimp only
  (repeat' split) <;> simp [h]
@[simp] theorem execSrw_leavesForm {s : State} (h : s.PadsInForm) (a : BitVec 5) (n : BitVec 9) : LeavesForm (execSrw a n s) := by
  refine onSeqX_leavesForm (fun fo s h => ?_) h
  split <;> simp [h]

/-! #### The S slot: joins, tokens and rounds -/

@[simp] theorem State.setAfter_padsInForm (s : State) (a : After) :
    (s.setAfter a).PadsInForm ↔ s.PadsInForm := by simp [State.setAfter]
@[simp] theorem execGrd_leavesForm {s : State} (h : s.PadsInForm) (d : BitVec 5) (k : BitVec 3) : LeavesForm (execGrd d k s) := by
  refine onSeq_leavesForm (fun fo s h => ?_) h
  dsimp only
  split <;> simp [h]
@[simp] theorem execKset_leavesForm {s : State} (h : s.PadsInForm) (k : BitVec 2) (a : BitVec 5) (x : Option Word) :
    LeavesForm (execKset k a x s) := by
  refine onSeqX_leavesForm (fun fo s h => ?_) h
  simp [h]
@[simp] theorem execDiec_leavesForm {s : State} (h : s.PadsInForm) (d : BitVec 5) : LeavesForm (execDiec d s) := by
  refine onSeq_leavesForm (fun fo s h => ?_) h
  simp [h]
@[simp] theorem execStep_leavesForm {s : State} (h : s.PadsInForm) : LeavesForm (execStep s) := by
  refine onSeq_leavesForm (fun fo s h => ?_) h
  split <;> simp [h]
@[simp] theorem execTlrd_leavesForm {s : State} (h : s.PadsInForm) (d : BitVec 5) (k : BitVec 2) (i : BitVec 1) :
    LeavesForm (execTlrd d k i s) := by
  unfold execTlrd
  refine onSeq_leavesForm (fun fo s h => ?_) h
  simp [h]
@[simp] theorem State.PadsInForm.spawn {s : State} (h : s.PadsInForm) (p : BitVec 4) (b : List Byte) (join : Option (BitVec 6)) :
    (s.spawn p b join).2.PadsInForm := by
  unfold State.spawn
  dsimp only
  split
  · exact h
  · split
    · exact h
    · split
      · exact h
      · next c _ =>
        have ht := fun d prio q fam par j => h.newContext c d prio q fam par j
        rw [State.padsInForm_mk, State.padsInForm_parts]
        split
        · exact (State.onCtx_padsInForm Iff.rfl).mpr (ht ..)
        · exact ht ..
@[simp] theorem execSpawn_leavesForm {s : State} (h : s.PadsInForm) (d a : BitVec 5) (e : BitVec 1) (jo : BitVec 6) :
    LeavesForm (execSpawn d a e jo s) := by
  refine onSeqX_leavesForm (fun fo s h => ?_) h
  dsimp only
  (repeat' split) <;> simp [h]
@[simp] theorem onJoin_padsInForm (jo : BitVec 6) (s : State) (c : BitVec 4) (f : Join → Join) :
    (onJoin jo s c f).PadsInForm ↔ s.PadsInForm := by simp [onJoin]
@[simp] theorem execBinit_leavesForm {s : State} (h : s.PadsInForm) (a : BitVec 5) (jo : BitVec 6) :
    LeavesForm (execBinit a jo s) := by
  refine onSeqX_leavesForm (fun fo s h => ?_) h
  dsimp only
  (repeat' split) <;> simp [h]
@[simp] theorem arriveHere_leavesForm {s : State} (h : s.PadsInForm) (jo : BitVec 6) (drop : Nat) :
    LeavesForm (arriveHere jo drop s) := by
  refine onSeq_leavesForm (fun fo s h => ?_) h
  dsimp only
  (repeat' split) <;> simp [h]
@[simp] theorem State.joinArrivals_padsInForm (s : State) : s.joinArrivals.PadsInForm ↔ s.PadsInForm :=
  foldl_padsInForm fun s c => by
    dsimp only
    split <;> simp
@[simp] theorem State.keepCounts_padsInForm (s : State) : s.keepCounts.PadsInForm ↔ s.PadsInForm := by
  rw [State.keepCounts, State.padsInForm_mk, slotsInForm_map, State.padsInForm_parts]
  intro x
  split <;> simp
@[simp] theorem execBwait_leavesForm {s : State} (h : s.PadsInForm) (d : BitVec 5) (jo : BitVec 6) :
    LeavesForm (execBwait d jo s) := by
  refine onSeq_leavesForm (fun fo s h => ?_) h
  dsimp only
  (repeat' split) <;> simp [h]
@[simp] theorem execBinv_leavesForm {s : State} (h : s.PadsInForm) (jo : BitVec 6) : LeavesForm (execBinv jo s) := by
  refine onSeq_leavesForm (fun fo s h => ?_) h
  split <;> simp [h]
@[simp] theorem execTrap_leavesForm {s : State} (h : s.PadsInForm) (c : BitVec 14) (x : Option Word) :
    LeavesForm (execTrap c x s) := by
  refine onSeq_leavesForm (fun fo s h => ?_) h
  simp [h]
@[simp] theorem execEret_leavesForm {s : State} (h : s.PadsInForm) : LeavesForm (execEret s) := by
  refine onSeq_leavesForm (fun fo s h => ?_) h
  split <;> simp [h]
@[simp] theorem execHalt_leavesForm {s : State} (h : s.PadsInForm) (a : BitVec 5) : LeavesForm (execHalt a s) := by
  refine onSeqX_leavesForm (fun fo s h => ?_) h
  simp [h]
@[simp] theorem execHostsig_leavesForm {s : State} (h : s.PadsInForm) (a : BitVec 5) (o : BitVec 1) (g : BitVec 8) :
    LeavesForm (execHostsig a o g s) := by
  refine onSeqX_leavesForm (fun fo s h => ?_) h
  dsimp only
  split <;> simp [h]
theorem podRound_stepsForm {s : State} (h : s.PadsInForm) (d : BitVec 5) (kind op : BitVec 8) (v : State → BitVec 4 → Xword)
    (fo : Focus) :
    StepsForm (podRound d kind op v fo s) := by
  dsimp only [podRound]
  split
  · simp [h]
  · split
    · exact (stepsForm_go _).mpr ((State.setSres_padsInForm ..).mpr (h.startRound ..))
    · split <;> simp [h]
@[simp] theorem execPodbar_leavesForm {s : State} (h : s.PadsInForm) : LeavesForm (execPodbar s) :=
  onSeq_leavesForm (fun fo _ h => podRound_stepsForm h 0 _ _ _ fo) h
@[simp] theorem execPodred_leavesForm {s : State} (h : s.PadsInForm) (d a : BitVec 5) (o : BitVec 4) :
    LeavesForm (execPodred d a o s) :=
  onSeqX_leavesForm (fun fo _ h => podRound_stepsForm h d _ _ _ fo) h

/-! #### Streams -/

@[simp] theorem streamStart_startForm {env : Env} {a : Xword} {n : Nat} {fl : Option (BitVec 4)} {op : CmdOp} {land : Nat}
    {dests : List CellReg}
    {q : Cell} (h : Mem.wf q.pad = true) : StartForm (streamStart env a n fl op land dests q) := by
  unfold streamStart
  split
  · exact startForm_error _
  · exact (startForm_ok _).mpr h
@[simp] theorem execDst_leavesForm {s : State} (h : s.PadsInForm) (l d b : BitVec 4) (e : BitVec 1) (jo : BitVec 6)
    (w : BitVec 1) (x : Option Word) :
    LeavesForm (execDst l d b e jo w x s) := by
  refine onCells_leavesForm (command_keepsForm fun env pre post hq => ?_) h
  simp [hq]
@[simp] theorem execDstv_leavesForm {s : State} (h : s.PadsInForm) (l : BitVec 4) (d : BitVec 5) (b : BitVec 4) (e : BitVec 1)
    (jo : BitVec 6) (x : Option Word) :
    LeavesForm (execDstv l d b e jo x s) := by
  refine onCells_leavesForm (command_keepsForm fun env pre post hq => ?_) h
  simp [hq]
@[simp] theorem execDld_leavesForm {s : State} (h : s.PadsInForm) (l : BitVec 4) (d : BitVec 5) (b : BitVec 4) (e : BitVec 1)
    (jo : BitVec 6) (f : BitVec 20) (n : BitVec 12) :
    LeavesForm (execDld l d b e jo f n s) := by
  refine onCells_leavesForm (command_keepsForm fun env pre post hq => ?_) h
  simp [hq]
@[simp] theorem execDatom_leavesForm {s : State} (h : s.PadsInForm) (l : BitVec 4) (w : BitVec 1) (d b : BitVec 4)
    (e : BitVec 1) (jo : BitVec 6) (o : BitVec 4) (x : Option Word) :
    LeavesForm (execDatom l w d b e jo o x s) := by
  refine onCells_leavesForm (command_keepsForm fun env pre post hq => ?_) h
  simp [hq]
@[simp] theorem execDatomRet_leavesForm {s : State} (h : s.PadsInForm) (l : BitVec 4) (w : BitVec 1) (d b : BitVec 4)
    (e : BitVec 1) (jo : BitVec 6) (o : BitVec 4) (f : BitVec 20) (n : BitVec 12) :
    LeavesForm (execDatomRet l w d b e jo o f n s) := by
  refine onCells_leavesForm (command_keepsForm fun env pre post hq => ?_) h
  simp [hq]
@[simp] theorem execDperm_leavesForm {s : State} (h : s.PadsInForm) (v : BitVec 5) (b : BitVec 4) (e : BitVec 1)
    (jo : BitVec 6) (x : Option Word) :
    LeavesForm (execDperm v b e jo x s) := by
  refine onCells_leavesForm (command_keepsForm fun env pre post hq => ?_) h
  dsimp only
  split <;> simp [hq]

/-! #### Reductions -/

@[simp] theorem State.awaitTree_padsInForm (s : State) (g : BitVec 3) : (s.awaitTree g).PadsInForm ↔ s.PadsInForm := by
  unfold State.awaitTree
  split
  · exact Iff.rfl
  · next f hf =>
    split
    · exact Iff.rfl
    · rw [State.padsInForm_mk, State.padsInForm_iff (s := s), hf]
      simp
@[simp] theorem execDred_leavesForm {s : State} (h : s.PadsInForm) (v : BitVec 5) (g : BitVec 3) (o : BitVec 4) :
    LeavesForm (execDred v g o s) :=
  onCells_leavesForm (pureOp_keepsForm (by exact fun _ _ _ hq => hq)) ((State.awaitTree_padsInForm s g).mpr h)
@[simp] theorem Ctx.contribute_diesInForm (c : Ctx) (t : Option Nat) (die : Nat) (l : List Nat) :
    DiesInForm (c.contribute t die l).dies ↔ DiesInForm c.dies := by
  unfold Ctx.contribute
  split <;> simp
@[simp] theorem Ctx.give_diesInForm (c : Ctx) (f : Focus) (w : Window) : DiesInForm (c.give f w).dies ↔ DiesInForm c.dies := by
  unfold Ctx.give
  (repeat' split) <;> simp
@[simp] theorem Ctx.treeValue_diesInForm (c : Ctx) (t : Option Nat) (v : List Nat → Xword) :
    DiesInForm (c.treeValue t v).dies ↔ DiesInForm c.dies := by
  unfold Ctx.treeValue
  split <;> simp
@[simp] theorem Ctx.reduce_diesInForm (c : Ctx) (f : Focus) : DiesInForm (c.reduce f).dies ↔ DiesInForm c.dies := by
  unfold Ctx.reduce
  (repeat' split) <;> simp
@[simp] theorem Ctx.reawait_diesInForm (y : Ctx) (e : HistEntry) : DiesInForm (y.reawait e).dies ↔ DiesInForm y.dies :=
  foldl_dies fun y p => by
    dsimp only
    split
    · exact Iff.rfl
    · split
      · exact Iff.rfl
      · refine (foldl_dies fun y i => ?_).trans (by simp)
        split
        · split <;> simp
        · exact Iff.rfl
@[simp] theorem Ctx.deliverTree_diesInForm (c : Ctx) : DiesInForm c.deliverTree.dies ↔ DiesInForm c.dies := by
  unfold Ctx.deliverTree
  (repeat' split) <;> simp

/-! #### The Y slot -/

@[simp] theorem Cell.dropGuards_pad (c : Cell) (k : BitVec 2) (v : Nat) :
    (c.dropGuards k v).pad = c.pad := by simp [Cell.dropGuards]
@[simp] theorem Cell.passWait_pad (y : Instr) (b : Option Nat) (c : Cell) : (Cell.passWait y b c).pad = c.pad := by
  unfold Cell.passWait
  (repeat' split) <;> simp
theorem Cell.passWait_wf {q : Cell} (h : Mem.wf q.pad = true) (y : Instr) (b : Option Nat) :
    Mem.wf (q.passWait y b).pad = true := by
  simpa using h
@[simp] theorem syncWait_leavesForm {s : State} (h : s.PadsInForm) (y : Instr) : LeavesForm (syncWait y s) := by
  refine (leavesForm_next _).mpr ?_
  split
  · exact h
  · next f hf =>
    refine State.PadsInForm.ite ((State.setSres_padsInForm ..).mpr h) (State.padsInForm_mk.mpr ⟨h.slots, h.pdies, focusInForm_some.mpr ?_⟩)
    refine List.forall_mem_map.mpr fun w hw => ?_
    obtain ⟨hpre, hpost⟩ := h.inHand f hf w (List.mem_filter.mp hw).1
    exact ⟨CellsInForm.map hpre fun _ hq => Cell.passWait_wf hq .., CellsInForm.map hpost fun _ hq => Cell.passWait_wf hq ..⟩
@[simp] theorem Cell.putFence_pad (c : Cell) (m : BitVec 16) : (c.putFence m).pad = c.pad := by simp [Cell.putFence]
@[simp] theorem execYpostf_leavesForm {s : State} (h : s.PadsInForm) (k : BitVec 4) (n : BitVec 15) :
    LeavesForm (execYpostf k n s) := by
  refine onCells_leavesForm (fun env pre post hq => ?_) h
  exact (resForm_ok _).mpr hq
@[simp] theorem execYlock_leavesForm {s : State} (h : s.PadsInForm) (m : BitVec 16) (n : BitVec 3) :
    LeavesForm (execYlock m n s) := by simp [execYlock, h]
@[simp] theorem execYyield_leavesForm {s : State} (h : s.PadsInForm) : LeavesForm (execYyield s) := by
  refine (leavesForm_next _).mpr ?_
  split
  · exact h
  · next f hf => exact h.ite (State.PadsInForm.ite (by simp [h]) (h.ite ((State.padsInForm_rehand (g := { f with after := .yield }) hf rfl).mpr h)))
@[simp] theorem execYbar_leavesForm {s : State} (h : s.PadsInForm) : LeavesForm (execYbar s) := by
  unfold execYbar
  (repeat' split) <;> simp [h]
@[simp] theorem execYmark_leavesForm {s : State} (h : s.PadsInForm) (m : BitVec 16) : LeavesForm (execYmark m s) := by
  unfold execYmark
  (repeat' split) <;> simp [h]
@[simp] theorem Cell.endWait_pad (c : Cell) (y : Instr) (b : Nat) : (c.endWait y b).pad = c.pad := by
  unfold Cell.endWait
  split <;> simp

/-! #### Issuing, retiring and resending bundles -/

@[simp] theorem execBundleFetch_leavesForm {s : State} (h : s.PadsInForm) (c : BitVec 4) (ahead : BitVec 3) :
    LeavesForm (execBundleFetch c ahead s) := by
  dsimp only [execBundleFetch]
  (repeat' split) <;> simp [h]
@[simp] theorem State.PadsInForm.take {s : State} (h : s.PadsInForm) (c : BitVec 4) (b : Bundle) (bsn : Option Nat) (k : Carried)
    {ws : List Window} (hw : WindowsInForm ws) (issuing beam : Bool) (nextAddr : Xword) (e : Option HistEntry) :
    (s.take c b bsn k ws issuing beam nextAddr e).PadsInForm :=
  State.padsInForm_mk.mpr ⟨h.slots, h.pdies, focusInForm_some.mpr hw⟩
@[simp] theorem Die.lockStep_padsInForm (d : Die) (handler : Bool) (lock : Option (BitVec 16 × BitVec 4)) :
    (d.lockStep handler lock).PadsInForm ↔ d.PadsInForm := by
  unfold Die.lockStep
  (repeat' split) <;> simp
@[simp] theorem Ctx.evenCyc_diesInForm (y : Ctx) : DiesInForm y.evenCyc.dies ↔ DiesInForm y.dies := by
  unfold Ctx.evenCyc
  split <;> simp
@[simp] theorem Die.PadsInForm.pass {z : Die} (h : z.PadsInForm) (fixed : Bool) (bsn : Option Nat) :
    (z.pass fixed bsn).PadsInForm :=
  ⟨h.1, aheadInForm_none⟩
theorem foldl_pad {α : Type} {l : List α} {f : Cell → α → Cell} (hf : ∀ x a, (f x a).pad = x.pad) {x : Cell} :
    (l.foldl f x).pad = x.pad := by
  induction l generalizing x with
  | nil => rfl
  | cons a l ih => rw [List.foldl_cons, ih, hf]
theorem CellsInForm.commitCells {cyc : Nat} {js : RegFile Join 6} {l : List Cell} (h : CellsInForm l) :
    CellsInForm (commitCells cyc js l).2.2 := by
  induction l generalizing js with
  | nil => exact h
  | cons q l ih =>
    obtain ⟨hq, hl⟩ := List.forall_mem_cons.mp h
    refine List.forall_mem_cons.mpr ⟨?_, ih hl⟩
    rw [Cell.advance_pad, foldl_pad fun x l => x.send_pad cyc l]
    exact hq
@[simp] theorem DiesInForm.set {l : List Die} (h : DiesInForm l) (d : Nat) {z : Die} (hz : z.PadsInForm) :
    DiesInForm (l.set d z) :=
  fun x hx => by
    rcases List.mem_or_eq_of_mem_set hx with hx | rfl
    · exact h x hx
    · exact hz
@[simp] theorem DiesInForm.commit {y : Ctx} (h : DiesInForm y.dies) (f : Focus) {w : Window} (hw : CellsInForm w.post) :
    DiesInForm (y.commit f w).dies := by
  unfold Ctx.commit
  split
  · exact h
  · rw [Ctx.give_diesInForm, foldl_dies (by simp)]
    exact h.set _ ((Die.lockStep_padsInForm ..).mpr ⟨hw.commitCells, aheadInForm_none⟩)
@[simp] theorem DiesInForm.detect {y : Ctx} (h : DiesInForm y.dies) (bsn : Nat) (w : Window) :
    DiesInForm (y.detect bsn w).dies := by
  unfold Ctx.detect
  split
  · exact h
  · exact h.onDie _ fun z hz => ⟨hz.1, aheadInForm_none⟩
@[simp] theorem Ctx.trim_diesInForm (y : Ctx) : DiesInForm y.trim.dies ↔ DiesInForm y.dies := by simp [Ctx.trim]
@[simp] theorem DiesInForm.settle {y : Ctx} (h : DiesInForm y.dies) {f : Focus} (hf : WindowsInForm f.windows) (bsn : Nat) :
    DiesInForm (y.settle f bsn).dies := by
  unfold Ctx.settle
  rw [Ctx.trim_diesInForm, Ctx.evenCyc_diesInForm, Ctx.reduce_diesInForm]
  refine h.foldl fun y w hw hy => ?_
  split
  · exact hy.commit f (hf w hw).2
  · exact hy.detect bsn w
@[simp] theorem State.PadsInForm.settleHandler {s : State} (h : s.PadsInForm) {f : Focus} (hf : WindowsInForm f.windows) :
    (s.settleHandler f).PadsInForm := by
  unfold State.settleHandler
  split
  · exact h.kill _ _
  · refine h.onCtx _ ?_
    rw [Ctx.evenCyc_diesInForm, Ctx.reduce_diesInForm]
    exact (h.slot _).foldl fun y w hw hy => hy.commit f (hf w hw).2
@[simp] theorem State.PadsInForm.afterwards {s : State} (h : s.PadsInForm) (f : Focus) : (s.afterwards f).PadsInForm := by
  unfold State.afterwards
  split
  · exact h
  · exact h.keepSlot _ fun _ hx => hx
  · exact h.keepSlot _ fun _ hx => hx
  · exact h.seqFault _ _ _ _ _
  · exact h.keepCtx _ fun y => (Ctx.eret_diesInForm y).mpr
  · next v _ =>
    have ht := h.keepSlot f.slot (f := fun x => { x with state := .ending, halt := some v, request := none }) fun _ hx => hx
    exact State.padsInForm_mk.mpr ⟨ht.slots, ht.pdies, ht.inHand⟩
theorem AheadInForm.map {o : Option Ahead} {g : Ahead → Ahead}
    (hg : ∀ a, o = some a → ∀ q ∈ (g a).cells, Mem.wf q.cell.pad = true) : AheadInForm (o.map g) := by
  rintro a ha
  obtain ⟨b, hb, rfl⟩ := Option.map_eq_some_iff.mp ha
  exact hg b hb
theorem AheadCell.put_pad (cyc : Nat) (q : AheadCell) (x : Cell) : (q.put cyc x).cell.pad = x.pad := by
  rw [AheadCell.put, Cell.advance_pad, foldl_pad fun x l => x.send_pad cyc l]
@[simp] theorem DiesInForm.closeAhead {y : Ctx} (h : DiesInForm y.dies) {f : Focus} (hf : WindowsInForm f.windows) :
    DiesInForm (y.closeAhead f).dies := by
  refine h.foldl fun y w hw hy => ?_
  have hput : ∀ k : Ahead → RegFile Word 2, DiesInForm (y.onDie w.die fun x => { x with ahead := x.ahead.map fun a =>
      { a with k := k a, cells := a.cells.zipWith (AheadCell.put x.cyc.toNat) w.post } }).dies := fun k =>
    hy.onDie w.die fun z hz => ⟨hz.1, AheadInForm.map fun a _ q hq => by
      obtain ⟨j, hj⟩ := List.mem_iff_getElem?.mp hq
      obtain ⟨p, x, -, hx, rfl⟩ := List.getElem?_zipWith_eq_some.mp hj
      rw [AheadCell.put_pad]
      exact (hf w hw).2 x (List.mem_of_getElem? hx)⟩
  dsimp only
  split
  · exact hput fun a => match f.kset with | some (k, v) => a.k.put k v | none => a.k
  · exact hy.detect _ w
theorem Slot.ctx_progress_ite {x : Slot} {t : Nat} {p : Prop} [Decidable p] :
    (if p then { x with progress := t } else x).ctx = x.ctx := by split <;> rfl
@[simp] theorem State.PadsInForm.closeBundle {s : State} (h : s.PadsInForm) : s.closeBundle.PadsInForm := by
  unfold State.closeBundle
  split
  · exact h
  · next f hf =>
    have hwin := h.inHand f hf
    have h0 : ({ s with focus := none, work := [] } : State).PadsInForm := State.padsInForm_mk.mpr ⟨h.slots, h.pdies, focusInForm_none⟩
    split
    · exact h0.onCtx _ ((h0.slot _).closeAhead hwin)
    · split
      · exact h0
      · exact h0.seqFault _ _ _ _ _
      · have hlast : ∀ {t : State}, t.PadsInForm → (if (t.slot f.slot).state = .draining then t else t.afterwards f).PadsInForm :=
          fun ht => ht.ite (ht.afterwards f)
        have hsettled : ∀ {t : State}, t.PadsInForm → (match f.bsn with
            | some b => t.onCtx f.slot fun y => y.settle f b
            | none => if f.carriedDown then t.settleHandler f else t).PadsInForm := fun ht => by
          split
          · exact ht.onCtx _ ((ht.slot _).settle hwin _)
          · exact (ht.settleHandler hwin).ite ht
        refine hlast ((hsettled ?_).keepSlot _ fun x hx => by rwa [Slot.ctx_progress_ite])
        refine State.PadsInForm.ite (State.PadsInForm.keepCtx ?hbound _ fun y hy => ?_) ?hbound
        · refine State.PadsInForm.keepSlot (State.PadsInForm.ite (State.PadsInForm.foldl (fun t p ht => ?_) h0) h0) _
            (f := fun x => { x with vbound := x.vbound || (f.issuing && f.bundle.ops.any fun o => isVault o.2) }) fun _ hx => hx
          simp [ht]
        · dsimp only
          split <;> simp [hy]
theorem Die.PadsInForm.view {z : Die} (h : z.PadsInForm) (bsn : Option Nat) : CellsInForm (z.view bsn) := by
  unfold Die.view
  split
  · exact h.1
  · exact h.1.map fun _ hx => hx
theorem State.PadsInForm.windows {s : State} (h : s.PadsInForm) (c : BitVec 4) (mask : Xword) (bsn : Option Nat) (b : Bundle) :
    WindowsInForm (s.windows c mask bsn b) := fun w hw => by
  obtain ⟨d, -, hd⟩ := List.mem_filterMap.mp hw
  split at hd
  · obtain ⟨z, hz, rfl⟩ := Option.map_eq_some_iff.mp hd
    have hview := (h.slot c z (List.mem_of_getElem? hz)).view bsn
    exact ⟨hview, hview⟩
  · exact absurd hd (by simp)
@[simp] theorem State.PadsInForm.beginBundle {s : State} (h : s.PadsInForm) (c : BitVec 4) (b : Bundle) (nextAddr : Xword) :
    (s.beginBundle c b nextAddr).PadsInForm := by
  unfold State.beginBundle
  split
  · exact h.take c b none _ (fun _ hw => absurd hw List.not_mem_nil) _ _ _ _
  · dsimp only
    split
    · split
      · exact h.take c b none _ (h.windows c _ _ _) _ _ _ _
      · exact h
    · split
      · exact h
      · exact h.take c b _ _ (h.windows c _ _ _) _ _ _ _
@[simp] theorem Ctx.stepResend_diesInForm (y : Ctx) : DiesInForm y.stepResend.dies ↔ DiesInForm y.dies := by
  unfold Ctx.stepResend
  split <;> simp
@[simp] theorem State.PadsInForm.resend {s : State} (h : s.PadsInForm) (c : BitVec 4) : (s.resend c).PadsInForm := by
  have hnext : (s.onCtx c Ctx.stepResend).PadsInForm := by simp [h]
  unfold State.resend
  dsimp only
  split
  · split
    · simp [h]
    · split <;> simp [h]
  · split
    · exact h
    · split
      · exact hnext
      · refine State.PadsInForm.take ?_ c _ _ _ (State.PadsInForm.windows ?_ c _ _ _) _ _ _ _
        · simp [hnext]
        · simp [hnext]
@[simp] theorem execBundleIssue_leavesForm {s : State} (h : s.PadsInForm) (c : BitVec 4) : LeavesForm (execBundleIssue c s) := by
  dsimp only [execBundleIssue]
  (repeat' split) <;> simp [h]
@[simp] theorem Die.PadsInForm.passMasked {z : Die} (h : z.PadsInForm) (fixed : Bool) (bsn : Nat) :
    (z.passMasked fixed bsn).PadsInForm :=
  Die.PadsInForm.pass (z := z.lockStep false none) (by simpa using h) fixed (some bsn)
theorem Die.PadsInForm.aheadNow {z : Die} (h : z.PadsInForm) : ∀ q ∈ z.aheadNow.cells, Mem.wf q.cell.pad = true := by
  unfold Die.aheadNow
  cases ha : z.ahead with
  | none => exact List.forall_mem_map.mpr fun q hq => h.1 q hq
  | some a => exact h.2 a ha
theorem AheadCell.enter_pad (q : AheadCell) (e : HistEntry) : (q.enter e).pad = q.cell.pad := by
  unfold AheadCell.enter
  split
  · split <;> simp
  · rfl
@[simp] theorem State.PadsInForm.runAhead {s : State} (h : s.PadsInForm) (c : BitVec 4) (d : Nat) {x : Die} (hx : x.PadsInForm) :
    (s.runAhead c d x).PadsInForm := by
  have hcells := hx.aheadNow
  have hset : ∀ a : Ahead, (∀ q ∈ a.cells, Mem.wf q.cell.pad = true) →
      (s.onCtx c fun y => y.onDie d fun x => { x with ahead := some a }).PadsInForm := fun a ha =>
    h.onCtx c ((h.slot c).onDie d fun z hz => ⟨hz.1, fun b hb => Option.some.inj hb ▸ ha⟩)
  have hstop : (s.onCtx c fun y => y.onDie d fun x => { x with ahead := none }).PadsInForm :=
    h.onCtx c ((h.slot c).onDie d fun z hz => ⟨hz.1, aheadInForm_none⟩)
  unfold State.runAhead
  dsimp only
  split
  · exact hstop
  · next e _ =>
    split
    · exact hstop
    · split
      · exact hset _ hcells
      · have hwin : CellsInForm (x.aheadNow.cells.map fun q => q.enter e) := List.forall_mem_map.mpr fun q hq => by
          rw [AheadCell.enter_pad]
          exact hcells q hq
        have ht := (hset { x.aheadNow with bsn := e.bsn, cells := x.aheadNow.cells.map fun q => q.offer e }
          (List.forall_mem_map.mpr fun q hq => hcells q hq)).take c e.bundle (some e.bsn) e.carried (ws := [⟨d, _, _, []⟩])
          (List.forall_mem_singleton.mpr ⟨hwin, hwin⟩) false true (s.slot c).ctx.pc (some e)
        exact State.padsInForm_mk.mpr ⟨ht.slots, ht.pdies, (focusInForm_map (g := fun f =>
          { f with ahead := true, hold := _, ks := _ }) fun _ => rfl).mpr ht.inHand⟩
@[simp] theorem execBundleRetire_leavesForm {s : State} (h : s.PadsInForm) (c : BitVec 4) (d : BitVec 6) :
    LeavesForm (execBundleRetire c d s) := by
  refine (leavesForm_next _).mpr ?_
  split
  · exact h
  · next e _ =>
    refine h.ite (State.PadsInForm.ite (h.guarded (h.onSlot c ?_)) (State.PadsInForm.ite ?_ (h.take c _ _ _ (fun w hw => ?_) _ _ _ _)))
    · rw [Ctx.trim_diesInForm, Ctx.evenCyc_diesInForm]
      exact (h.slot c).onDie d.toNat fun z hz => hz.passMasked _ _
    · split
      · next x hx => exact h.runAhead c d.toNat (h.slot c x (List.mem_of_getElem? hx))
      · exact h
    · exact h.windows c _ _ _ w (List.mem_filter.mp hw).1
@[simp] theorem execBarrierRelease_leavesForm {s : State} (h : s.PadsInForm) (c : BitVec 4) :
    LeavesForm (execBarrierRelease c s) := by simp [execBarrierRelease, h]
@[simp] theorem execSyncWaitComplete_leavesForm {s : State} (h : s.PadsInForm) (c : BitVec 4) (d : BitVec 6) :
    LeavesForm (execSyncWaitComplete c d s) := by
  refine (leavesForm_next _).mpr ?_
  split
  · refine h.guarded (h.keepCtx c fun y hy => (Ctx.onDie_padsInForm fun z => ?_).mpr hy)
    exact and_congr_left' (cellsInForm_map fun q => Cell.endWait_pad q _ _)
  · exact h
@[simp] theorem execTreeResult_leavesForm {s : State} (h : s.PadsInForm) (c : BitVec 4) :
    LeavesForm (execTreeResult c s) := by simp [execTreeResult, h]
@[simp] theorem execCellFault_leavesForm {s : State} (h : s.PadsInForm) (c : BitVec 4) (d : BitVec 6) :
    LeavesForm (execCellFault c d s) :=
  (leavesForm_next _).mpr (h.guarded (h.keepCtx c fun _ hy => hy.onDie _ fun _ hz => hz))
@[simp] theorem execFreeze_leavesForm {s : State} (h : s.PadsInForm) (c : BitVec 4) : LeavesForm (execFreeze c s) := by
  dsimp only [execFreeze]
  (repeat' split) <;> simp [h]
@[simp] theorem DiesInForm.rewind {y : Ctx} (h : DiesInForm y.dies) : DiesInForm y.rewind.dies := h.map fun _ hz => hz.rewind
@[simp] theorem execFreezeDrainDone_leavesForm {s : State} (h : s.PadsInForm) (c : BitVec 4) :
    LeavesForm (execFreezeDrainDone c s) := by
  refine (leavesForm_next _).mpr (h.ite ?_)
  split
  · exact h
  · refine State.PadsInForm.ite (State.PadsInForm.ite (h.onSlot c ?_) h) (h.trapEntry c _)
    exact ((Ctx.cancelTree_diesInForm _).mpr (h.slot c)).rewind
@[simp] theorem diesInForm_mapIdx {l : List Die} {f : Nat → Die → Die} (hf : ∀ d z, (f d z).PadsInForm ↔ z.PadsInForm) :
    DiesInForm (l.mapIdx f) ↔ DiesInForm l := by
  simp only [DiesInForm, List.mem_iff_getElem?, List.getElem?_mapIdx, forall_exists_index]
  rw [forall_comm, forall_comm (α := Die)]
  refine forall_congr' fun d => ?_
  cases l[d]? <;> simp [hf, -Die.padsInForm_iff]
@[simp] theorem State.moveQueues_padsInForm (s : State) : s.moveQueues.PadsInForm ↔ s.PadsInForm :=
  foldl_padsInForm fun s c => by
    dsimp only
    split
    · exact Iff.rfl
    · refine State.onCtx_padsInForm (diesInForm_mapIdx fun d z => ?_)
      split <;> simp

/-! #### Commands on their way -/

theorem Cell.overwrite_wf {q : Cell} (h : Mem.wf q.pad = true) (upTo : Option Nat) (off : Nat) (b : List Byte) :
    Mem.wf (q.overwrite upTo off b).pad = true := Mem.putBytes_wf h off b
@[simp] theorem State.PadsInForm.overwrite {s : State} (h : s.PadsInForm) (c : BitVec 4) (d i off : Nat) (b : List Byte)
    {upTo : Ctx → Option Nat} :
    (s.onCtx c fun y => y.onCell d i fun q => q.overwrite (upTo y) off b).PadsInForm :=
  h.keepCtx c fun _ hy => hy.onCell d i fun _ hx => Cell.overwrite_wf hx _ off b
@[simp] theorem State.PadsInForm.writeHome {s : State} (h : s.PadsInForm) (c : BitVec 4) (p : Home) (b : List Byte) :
    (s.writeHome c p b).PadsInForm := by
  unfold State.writeHome
  split
  · exact h.overwrite c _ _ _ b
  · exact h
  · exact (State.writeParts_padsInForm ..).mpr h
@[simp] theorem State.onCmd_padsInForm (s : State) (c : BitVec 4) (d i : Nat) (tl : BitVec 2) (num : Nat) (f : Cmd → Cmd) :
    (s.onCmd c d i tl num f).PadsInForm ↔ s.PadsInForm := by simp [State.onCmd]
@[simp] theorem State.setSt_padsInForm (s : State) (c : BitVec 4) (d i : Nat) (q : Cmd) (st : CmdSt) :
    (s.setSt c d i q st).PadsInForm ↔ s.PadsInForm := by simp [State.setSt]
@[simp] theorem State.PadsInForm.complete {s : State} (h : s.PadsInForm) (c : BitVec 4) (d i : Nat) (q : Cmd) :
    (s.complete c d i q).PadsInForm := h.keepCtx c fun _ hy => hy.completeCmd d i q.tl q.num
@[simp] theorem diesInForm_zipWith {l : List Die} {f : Nat → Die → Die} (hf : ∀ d z, (f d z).PadsInForm ↔ z.PadsInForm) :
    DiesInForm ((List.range l.length).zipWith f l) ↔ DiesInForm l := by
  have hidx : (List.range l.length).zipWith f l = l.mapIdx f := List.ext_getElem? fun k => by
    rw [List.getElem?_zipWith, List.getElem?_mapIdx]
    by_cases hk : k < l.length
    · simp [hk]
    · simp [List.getElem?_eq_none (Nat.le_of_not_lt hk)]
  rw [hidx, diesInForm_mapIdx hf]
@[simp] theorem Ctx.mapCmds_diesInForm (y : Ctx) (f : Nat → Cmd → Cmd) : DiesInForm (y.mapCmds f).dies ↔ DiesInForm y.dies :=
  diesInForm_zipWith fun _ _ => and_congr_left' (cellsInForm_map fun _ => rfl)
@[simp] theorem State.addWalk_padsInForm (s : State) (p : BitVec 6) (w : Walk) : (s.addWalk p w).PadsInForm ↔ s.PadsInForm := by
  dsimp only [State.addWalk]
  (repeat' split) <;> simp
@[simp] theorem State.addStall_padsInForm (s : State) (c : BitVec 4) (d i : Nat) (q : Cmd) (key : Nat) (st : CmdSt) :
    (s.addStall c d i q key st).PadsInForm ↔ s.PadsInForm := by simp [State.addStall]
@[simp] theorem State.walkFor_padsInForm (s : State) (c : BitVec 4) (d i : Nat) (q : Cmd) (a : Xword) (k : Access) (page : Nat) :
    (s.walkFor c d i q a k page).PadsInForm ↔ s.PadsInForm := by simp [State.walkFor]
@[simp] theorem State.PadsInForm.parkCmd {s : State} (h : s.PadsInForm) (c : BitVec 4) (d i : Nat) (q : Cmd) (cause : Cause)
    (a : Xword) (k : Access)
    (level : Nat) : (s.parkCmd c d i q cause a k level).PadsInForm := by
  have ht := h.parkReq c cause (.command d i q.tl q.num)
    ⟨a, q.bsn.getD 0, q.op.requester, k.code, some ((s.slot c).phys d).toNat, some d, some i, q.cls.toNat, 0, level⟩
  dsimp only [State.parkCmd]
  split
  · exact (State.addStall_padsInForm ..).mpr ht
  · exact ht
@[simp] theorem State.PadsInForm.stallCmd {s : State} (h : s.PadsInForm) (c : BitVec 4) (d i : Nat) (q : Cmd) (a : Xword)
    (k : Access) (b : Bar) :
    (s.stallCmd c d i q a k b).PadsInForm := by
  unfold State.stallCmd
  split <;> simp [h]
/-- Where there is a next state, its scratchpads are in form. -/
def MayLeaveForm (o : Option State) : Prop := ∀ t, o = some t → t.PadsInForm
@[simp] theorem mayLeaveForm_none : MayLeaveForm none := fun _ h => nomatch h
@[simp] theorem mayLeaveForm_some (s : State) : MayLeaveForm (some s) ↔ s.PadsInForm :=
  ⟨fun h => h s rfl, fun h _ he => Option.some.inj he ▸ h⟩
theorem MayLeaveForm.getD {o : Option State} (ho : MayLeaveForm o) {s : State} (h : s.PadsInForm) : (o.getD s).PadsInForm := by
  cases o with
  | none => exact h
  | some t => exact ho t rfl
theorem MayLeaveForm.findSome? {α : Type} {f : α → Option State} (hf : ∀ a, MayLeaveForm (f a)) (l : List α) :
    MayLeaveForm (l.findSome? f) :=
  fun t ht => by
    obtain ⟨a, -, ha⟩ := List.exists_of_findSome?_eq_some ht
    exact hf a t ha
@[simp] theorem State.PadsInForm.reach {s : State} (h : s.PadsInForm) {c : BitVec 4} {d i : Nat} {q : Cmd} {a : Xword}
    {n : Nat} {k : Access}
    {o : Option State} (ho : s.reach c d i q a n k = .error o) : MayLeaveForm o := by
  unfold State.reach at ho
  split at ho
  · exact Except.error.inj ho ▸ mayLeaveForm_none
  · split at ho
    · exact nomatch ho
    · exact Except.error.inj ho ▸ mayLeaveForm_none
    · exact Except.error.inj ho ▸ mayLeaveForm_none
    · exact Except.error.inj ho ▸ (mayLeaveForm_some _).mpr (h.stallCmd c d i q a k _)
@[simp] theorem State.PadsInForm.sendFar {s : State} (h : s.PadsInForm) (c : BitVec 4) (d i : Nat) (q : Cmd) (dev : BitVec 6)
    (a : Xword) (kind size op data cmp : Nat) (fp : Xword) (flag : Option (BitVec 4)) (after : Option Nat) :
    (s.sendFar c d i q dev a kind size op data cmp fp flag after).PadsInForm := by
  unfold State.sendFar
  split <;> simp [h]
@[simp] theorem Cell.fillHawk_pad (c : Cell) (tl : BitVec 2) (num : Nat) (f : CellReg → Vec) :
    (c.fillHawk tl num f).pad = c.pad := by simp [Cell.fillHawk]

/-! #### Copies, gathers and scatters -/

@[simp] theorem execDcopy_leavesForm {s : State} (h : s.PadsInForm) (l : BitVec 4) (d sh : BitVec 3) (e : BitVec 1)
    (jo : BitVec 6) (o : BitVec 4) :
    LeavesForm (execDcopy l d sh e jo o s) := by
  refine onCells_leavesForm (command_keepsForm fun env pre post hq => ?_) h
  dsimp only
  split <;> simp [hq]
@[simp] theorem Cell.setShape_pad (c : Cell) (i : BitVec 3) (f : Shape → Shape) :
    (c.setShape i f).pad = c.pad := by simp [Cell.setShape]
@[simp] theorem execDshape_leavesForm {s : State} (h : s.PadsInForm) (d : BitVec 3) (k f : BitVec 4) (x : Option Word) :
    LeavesForm (execDshape d k f x s) := by
  refine onCells_leavesForm (ifActive_keepsForm fun env pre post hq => ?_) h
  dsimp only
  (repeat' split) <;> simp [hq]
@[simp] theorem execDgath_leavesForm {s : State} (h : s.PadsInForm) (l : BitVec 4) (d : BitVec 5) (b : BitVec 4)
    (e : BitVec 1) (jo : BitVec 6) (c : BitVec 1) (w : BitVec 2) (f : BitVec 20) (n : BitVec 12) :
    LeavesForm (execDgath l d b e jo c w f n s) := by
  refine onCells_leavesForm (command_keepsForm fun env pre post hq => ?_) h
  dsimp only
  split <;> simp [hq]
theorem scatterOp_leavesForm {l : BitVec 4} {d : BitVec 5} {b : BitVec 4} {e : BitVec 1} {jo : BitVec 6} {c : BitVec 1}
    {w : BitVec 2}
    {x : Option Word} {add : Nat} {s : State} (h : s.PadsInForm) : LeavesForm (onCells (scatterOp l d b e jo c w x add) s) :=
  onCells_leavesForm (command_keepsForm fun env pre post hq => by
    dsimp only
    split
    · exact startForm_error _
    · exact (startForm_ok _).mpr hq) h
theorem indexedOp_leavesForm {l : BitVec 4} {d : BitVec 3} {b : BitVec 4} {e : BitVec 1} {jo : BitVec 6} {w : BitVec 2}
    {x : Option Word}
    {kind : Nat} {s : State} (h : s.PadsInForm) : LeavesForm (onCells (indexedOp l d b e jo w x kind) s) :=
  onCells_leavesForm (command_keepsForm fun env pre post hq => by
    dsimp only
    split
    · exact startForm_error _
    · exact (startForm_ok _).mpr hq) h

/-! #### The engines -/

@[simp] theorem State.bumpFlag_padsInForm (s : State) (c : BitVec 4) (d i : Nat) (k : Option (BitVec 4)) :
    (s.bumpFlag c d i k).PadsInForm ↔ s.PadsInForm := by
  unfold State.bumpFlag
  split <;> simp
@[simp] theorem State.PadsInForm.performStream {s : State} (h : s.PadsInForm) (c : BitVec 4) (op : CmdOp) (p : Home) (n : Nat) :
    (s.performStream c op p n).2.PadsInForm := by
  have hdone : ∀ {t : State}, t.PadsInForm →
      (match p with | .pad d i _ => t.bumpFlag c d i op.flag | _ => t).PadsInForm := fun ht => by
    split
    · simp [ht]
    · exact ht
  refine hdone ?_
  split
  · exact h.writeHome c p _
  · exact h.writeHome c p _
  · exact h
@[simp] theorem State.PadsInForm.performPart {s : State} (h : s.PadsInForm) (c : BitVec 4) (op : CmdOp) (a : Xword)
    (p : Xword × Nat) (x : Home) :
    (s.performPart c op a p x).2.PadsInForm := by
  dsimp only [State.performPart]
  split
  · exact h.writeHome c x _
  · exact h
theorem foldl_fst {α β : Type} {l : List α} {f : State × β → α → State × β} (hf : ∀ r a, r.1.PadsInForm → (f r a).1.PadsInForm)
    {r : State × β} (h : r.1.PadsInForm) : (l.foldl f r).1.PadsInForm := by
  induction l generalizing r with
  | nil => exact h
  | cons a l ih => exact ih (hf r a h)
@[simp] theorem State.PadsInForm.arriveParts {s : State} (h : s.PadsInForm) (c : BitVec 4) (d i : Nat) (q : Cmd) (a : Xword)
    (n : Nat) (k : Access) :
    (s.arriveParts c d i q a n k).PadsInForm := by
  unfold State.arriveParts
  dsimp only
  have hparts := fun f hf => foldl_fst (f := f) (l := (partsOf a n).mapIdx fun j p => (j, p)) hf (r := (s, q.done, q.buf.headD 0)) h
  refine State.PadsInForm.ite ((State.setSt_padsInForm ..).mpr (hparts _ ?_)) ((State.onCmd_padsInForm ..).mpr (hparts _ ?_)) <;>
  · intro r jp hr
    split
    · exact hr
    · split
      · exact hr
      · next t ht => exact hr.reach ht t rfl
      · exact hr.performPart c q.op a jp.2 _
@[simp] theorem State.PadsInForm.arriveStream {s : State} (h : s.PadsInForm) (c : BitVec 4) (d i : Nat) (x : Cell) (q : Cmd) :
    (s.arriveStream c d i x q).PadsInForm := by
  unfold State.arriveStream
  split
  · exact h
  · dsimp only
    split
    · exact h.arriveParts c d i q _ _ _
    · split
      · exact h
      · next t ht => exact h.reach ht t rfl
      · split
        · exact h
        · split <;> exact h.sendFar ..
      · refine h.ite (State.PadsInForm.ite (h.ite ?_) ?_)
        · exact (State.setSt_padsInForm ..).mpr h
        · exact (State.setSt_padsInForm ..).mpr (h.performStream c q.op _ _)
@[simp] theorem execStreamArrival_leavesForm {s : State} (h : s.PadsInForm) (c : BitVec 4) (d : BitVec 6) (i : BitVec 11)
    (num : Xword) :
    LeavesForm (execStreamArrival c d i num s) := by
  unfold execStreamArrival
  (repeat' split) <;> simp [h]
@[simp] theorem execStreamResend_leavesForm {s : State} (h : s.PadsInForm) (c : BitVec 4) (d : BitVec 6) (i : BitVec 11)
    (num : Xword) :
    LeavesForm (execStreamResend c d i num s) := by simp [execStreamResend, h]
@[simp] theorem Cell.releaseStream_pad (x : Cell) (cls : BitVec 4) : (x.releaseStream cls).pad = x.pad :=
  foldl_pad fun x q => by
    dsimp only
    split
    · split <;> simp
    · rfl
@[simp] theorem State.PadsInForm.ackStream {s : State} (h : s.PadsInForm) (c : BitVec 4) (d i : Nat) (q : Cmd) (v : Nat) :
    (s.ackStream c d i q v).PadsInForm := by
  have hdone := State.PadsInForm.complete (s := s.onCtx c fun y => y.onCell d i fun x => x.fillHawk q.tl q.num
    (spread (x.landFirst q.tl q.num) v)) (by simp [h]) c d i q
  exact (State.onCtx_padsInForm (by simp)).mpr hdone
@[simp] theorem execStreamAck_leavesForm {s : State} (h : s.PadsInForm) (c : BitVec 4) (d : BitVec 6) (i : BitVec 11)
    (num : Xword) :
    LeavesForm (execStreamAck c d i num s) := by
  unfold execStreamAck
  (repeat' split) <;> simp [h]
@[simp] theorem State.addWord_padsInForm (s : State) (c : BitVec 4) (d i : Nat) (q : Cmd) (a : Xword) (v : Nat) :
    (s.addWord c d i q a v).PadsInForm ↔ s.PadsInForm := by simp [State.addWord]
@[simp] theorem State.PadsInForm.readTry {s : State} (h : s.PadsInForm) (c : BitVec 4) (d i : Nat) (q : Cmd)
    (reads : List (Xword × Nat)) (ws : List Nat) :
    MayLeaveForm (s.readTry c d i q reads ws) := by
  refine MayLeaveForm.findSome? (fun w => ?_) _
  dsimp only
  split
  · next ht => exact h.reach ht
  · exact (mayLeaveForm_some _).mpr (State.PadsInForm.sendFar ((State.onCmd_padsInForm ..).mpr h) ..)
  · exact (mayLeaveForm_some _).mpr ((State.addWord_padsInForm ..).mpr h)
@[simp] theorem State.PadsInForm.reachRuns {s : State} (h : s.PadsInForm) {c : BitVec 4} {d i : Nat} {q : Cmd}
    {l : List (Xword × List Byte)}
    {o : Option State} (ho : s.reachRuns c d i q l = .error o) : MayLeaveForm o := by
  induction l with
  | nil => exact nomatch ho
  | cons r l ih =>
    rw [State.reachRuns] at ho
    split at ho
    · next e he => exact Except.error.inj ho ▸ h.reach he
    · split at ho
      · next e he => exact ih (he.trans ho)
      · exact nomatch ho
@[simp] theorem State.donePart_padsInForm (s : State) (c : BitVec 4) (d i : Nat) (q : Cmd) (k : Nat) :
    (s.donePart c d i q k).PadsInForm ↔ s.PadsInForm := by simp [State.donePart]
@[simp] theorem State.PadsInForm.writeTry {s : State} (h : s.PadsInForm) (c : BitVec 4) (d i : Nat) (q : Cmd) (k : Nat)
    (runs : List (Xword × List Byte)) :
    MayLeaveForm (s.writeTry c d i q k runs) := by
  unfold State.writeTry
  split
  · next ht => exact h.reachRuns ht
  · exact (mayLeaveForm_some _).mpr (State.PadsInForm.sendFar ((State.onCmd_padsInForm ..).mpr h) ..)
  · exact (mayLeaveForm_some _).mpr ((State.donePart_padsInForm ..).mpr (h.foldl fun t p ht => ht.writeHome c p.1 p.2.2))
@[simp] theorem State.engineReply_padsInForm (s : State) (c : BitVec 4) (d i : Nat) (q : Cmd) (reads : List (Xword × Nat))
    (v : Nat) :
    (s.engineReply c d i q reads v).PadsInForm ↔ s.PadsInForm := by
  unfold State.engineReply
  split <;> simp
@[simp] theorem State.addOob_padsInForm (s : State) (c : BitVec 4) (d i k : Nat) :
    (s.addOob c d i k).PadsInForm ↔ s.PadsInForm := by simp [State.addOob]
@[simp] theorem State.PadsInForm.copyTry {s : State} (h : s.PadsInForm) (c : BitVec 4) (d i : Nat) (q : Cmd)
    (ps : List (Piece Xword)) (n k : Nat)
    (g : List (Piece Xword)) : MayLeaveForm (s.copyTry c d i q ps n k g) := by
  dsimp only [State.copyTry]
  split
  · exact h.writeTry c d i q k _
  · exact h.readTry c d i q _ _
@[simp] theorem State.PadsInForm.copyStep {s : State} (h : s.PadsInForm) (c : BitVec 4) (d i : Nat) (q : Cmd)
    (src dst : Shape) (tr : Nat) (ls ld : Bool) :
    (s.copyStep c d i q src dst tr ls ld).PadsInForm := by
  dsimp only [State.copyStep]
  split
  · exact h.complete c d i q
  · exact (MayLeaveForm.findSome? (fun k => h.copyTry c d i q _ _ k _) _).getD h
@[simp] theorem State.PadsInForm.writeWords {s : State} (h : s.PadsInForm) (c : BitVec 4) (d i : Nat) (q : Cmd) (n : Nat)
    (gs : List (List (Piece Nat)))
    {fin : State} (hfin : fin.PadsInForm) : (s.writeWords c d i q n gs fin).PadsInForm := by
  unfold State.writeWords
  split
  · exact hfin
  · exact (MayLeaveForm.findSome? (fun k => h.writeTry c d i q k _) _).getD h
@[simp] theorem State.PadsInForm.gatherStep {s : State} (h : s.PadsInForm) (c : BitVec 4) (d i : Nat) (q : Cmd)
    (elems : List (Option Xword)) (esz dest : Nat) :
    (s.gatherStep c d i q elems esz dest).PadsInForm := by
  dsimp only [State.gatherStep]
  split
  · exact State.PadsInForm.complete (by simp [h]) c d i q
  · exact (h.readTry c d i q _ _).getD h
@[simp] theorem State.PadsInForm.holdTry {s : State} (h : s.PadsInForm) (c : BitVec 4) (d i : Nat) (q : Cmd) (t : Nat)
    (a : Xword) (esz v : Nat) (fp : Bool)
    (ctl : Xword) : MayLeaveForm (s.holdTry c d i q t a esz v fp ctl) := by
  unfold State.holdTry
  split
  · next u hu =>
    refine (mayLeaveForm_some u).mpr ?_
    obtain ⟨p, -, hp⟩ := List.exists_of_findSome?_eq_some hu
    split at hp
    · next w hw => exact Option.some.inj hp ▸ h.reach hw w rfl
    · exact nomatch hp
  · split
    · exact mayLeaveForm_none
    · simp [h]
@[simp] theorem State.PadsInForm.endIndexed {s : State} (h : s.PadsInForm) (c : BitVec 4) (d i : Nat) (q : Cmd) :
    (s.endIndexed c d i q).PadsInForm := by simp [State.endIndexed, h]
@[simp] theorem State.PadsInForm.holdEnd {s : State} (h : s.PadsInForm) (c : BitVec 4) (d i : Nat) (q : Cmd) :
    (s.holdEnd c d i q).PadsInForm := by
  unfold State.holdEnd
  split <;> simp [h]
@[simp] theorem State.PadsInForm.holdAll {s : State} (h : s.PadsInForm) (c : BitVec 4) (d i : Nat) (q : Cmd)
    (elems : List (Nat × Xword × Nat)) (esz : Nat)
    (fp : Bool) (ctl : Xword) : (s.holdAll c d i q elems esz fp ctl).PadsInForm := by
  unfold State.holdAll
  split
  · simp [h]
  · exact (MayLeaveForm.findSome? (fun e => h.holdTry c d i q _ _ _ _ _ _) _).getD h
@[simp] theorem State.PadsInForm.scatterStep {s : State} (h : s.PadsInForm) (c : BitVec 4) (d i : Nat) (q : Cmd)
    (elems : List (Nat × Xword × Nat)) (esz add : Nat) (fp : Xword) :
    (s.scatterStep c d i q elems esz add fp).PadsInForm := by
  unfold State.scatterStep
  split <;> simp [h]
@[simp] theorem State.PadsInForm.indexStep {s : State} (h : s.PadsInForm) (c : BitVec 4) (d i : Nat) (x : Cell) (q : Cmd)
    (kind : Nat) (base : Xword)
    (lim list : Nat) (sh : Shape) (fp : Xword) : (s.indexStep c d i x q kind base lim list sh fp).PadsInForm := by
  dsimp only [State.indexStep]
  split
  · split
    · exact h
    · simp [h]
  · split
    · exact (h.readTry c d i q _ _).getD h
    · split
      · exact h.writeWords c d i q _ _ (h.endIndexed c d i q)
      · split
        · exact h.writeWords c d i q _ _ (h.endIndexed c d i q)
        · exact h.holdAll c d i q _ _ _ _
@[simp] theorem State.PadsInForm.applyAdd {s : State} (h : s.PadsInForm) (c : BitVec 4) (a : HeldAdd) :
    (s.applyAdd c a).PadsInForm := by simp [State.applyAdd, h]
@[simp] theorem State.PadsInForm.sendAdd {s : State} (h : s.PadsInForm) (c : BitVec 4) (a : HeldAdd) :
    (s.sendAdd c a).PadsInForm := by
  unfold State.sendAdd
  split <;> simp [h]
@[simp] theorem State.PadsInForm.endAdds {s : State} (h : s.PadsInForm) (c : BitVec 4) (bsn : Nat) :
    (s.endAdds c bsn).PadsInForm := by
  refine h.foldl fun s d hs => ?_
  split
  · exact hs
  · refine hs.foldl fun s i hs => ?_
    split
    · exact hs
    · exact hs.foldl fun s q hs => (hs.endIndexed c d i q).ite hs
@[simp] theorem execDscataApply_leavesForm {s : State} (h : s.PadsInForm) (c : BitVec 4) (bsn : Xword) :
    LeavesForm (execDscataApply c bsn s) := by
  refine (leavesForm_next _).mpr (h.guarded ?_)
  split
  · split
    · simp [h]
    · exact h
  · refine State.PadsInForm.endAdds ?_ c bsn.toNat
    refine State.PadsInForm.foldl (f := fun t a => t.applyAdd c a) (fun t a ht => ht.applyAdd c a) ?_
    exact h.onCtx c (h.slot c)
@[simp] theorem State.PadsInForm.writePerm {s : State} (h : s.PadsInForm) (c : BitVec 4) (a : Nat × Nat × Nat) (b : List Byte) :
    (s.writePerm c a b).PadsInForm := by simp [State.writePerm, h]
@[simp] theorem State.PadsInForm.performPerm {s : State} (h : s.PadsInForm) (c : BitVec 4) (d i : Nat) (q : Cmd) :
    (s.performPerm c d i q).PadsInForm := by
  unfold State.performPerm
  split
  · exact (State.setSt_padsInForm ..).mpr (h.foldl fun t k ht => ht.ite (ht.writePerm c _ _))
  · exact h
@[simp] theorem Ctx.permSeen_diesInForm (y : Ctx) : DiesInForm y.permSeen.dies ↔ DiesInForm y.dies := by
  unfold Ctx.permSeen
  split <;> simp
@[simp] theorem State.PadsInForm.endPerm {s : State} (h : s.PadsInForm) (c : BitVec 4) (bsn : Option Nat) :
    (s.endPerm c bsn).PadsInForm := by
  refine State.PadsInForm.ite ?_ h
  exact (State.onCtx_padsInForm (by simp)).mpr (h.foldl fun s p hs => hs.complete c p.1 p.2.1 p.2.2)
@[simp] theorem State.PadsInForm.permRelease {s : State} (h : s.PadsInForm) (c : BitVec 4) (held : Xword) :
    (s.permRelease c held).PadsInForm :=
  State.PadsInForm.keepCtx (h.foldl fun _ p ht => (ht.performPerm c p.1 p.2.1 p.2.2).endPerm c p.2.2.bsn) c fun _ hy => by
    simpa using hy
@[simp] theorem execDpermDeadline_leavesForm {s : State} (h : s.PadsInForm) (c : BitVec 4) (held : Xword) :
    LeavesForm (execDpermDeadline c held s) := by simp [execDpermDeadline, h]
@[simp] theorem State.PadsInForm.permStep {s : State} (h : s.PadsInForm) (c : BitVec 4) (d i : Nat) (q : Cmd) (a : Xword) :
    (s.permStep c d i q a).PadsInForm := by
  unfold State.permStep
  (repeat' split) <;> simp [h]
@[simp] theorem execEngineCommandComplete_leavesForm {s : State} (h : s.PadsInForm) (c : BitVec 4) (d : BitVec 6)
    (i : BitVec 11) (tl : BitVec 2) (num : Xword) :
    LeavesForm (execEngineCommandComplete c d i tl num s) := by
  dsimp only [execEngineCommandComplete]
  (repeat' split) <;> simp [h]
@[simp] theorem State.PadsInForm.podReply {s : State} (h : s.PadsInForm) (c : BitVec 4) (d i : Nat) (q : Cmd) (v : Nat) :
    (s.podReply c d i q v).PadsInForm := by
  unfold State.podReply
  (repeat' split) <;> simp [h]
@[simp] theorem Cell.landAt_pad (x : Cell) (l : Nat) : (x.landAt l).pad = x.pad := by
  unfold Cell.landAt
  refine foldl_pad fun x h => ?_
  split <;> simp

@[simp] theorem Die.PadsInForm.landAll {z : Die} (h : z.PadsInForm) (l : Nat) : (z.landAll l).PadsInForm :=
  ⟨(cellsInForm_map fun q => q.landAt_pad l).mpr h.1, aheadInForm_none⟩
@[simp] theorem execLanding_leavesForm {s : State} (h : s.PadsInForm) (c : BitVec 4) (d : BitVec 6) :
    LeavesForm (execLanding c d s) := by
  refine (leavesForm_next _).mpr ?_
  split
  · exact h
  · next x hx =>
    split
    · exact h
    · next l _ =>
      refine h.ite (h.onCtx c ?_)
      rw [Ctx.evenCyc_diesInForm]
      refine (h.slot c).onDie d.toNat fun _ _ => ?_
      have hx : x.PadsInForm := h.slot c x (List.mem_of_getElem? hx)
      split
      · exact hx.landAll l
      · exact ⟨hx.1, aheadInForm_none⟩
@[simp] theorem execLandingDataArrival_leavesForm {s : State} (h : s.PadsInForm) (c : BitVec 4) (d : BitVec 6) (held : Xword) :
    LeavesForm (execLandingDataArrival c d held s) := by
  refine (leavesForm_next _).mpr ?_
  split
  · exact h
  · split
    · exact h
    · next l _ =>
      have hland := (h.slot c).onDie d.toNat (f := fun x => x.landAll l) fun z hz => hz.landAll l
      refine h.guarded (h.onCtx c ?_)
      dsimp only
      split
      · exact hland.onDie d.toNat fun _ hz => hz
      · split
        · exact hland
        · exact hland.map fun _ hz => hz

/-! #### Queues -/

@[simp] theorem State.onQueue_padsInForm (s : State) (q : BitVec 6) (f : Queue → Queue) :
    (s.onQueue q f).PadsInForm ↔ s.PadsInForm := by simp [State.onQueue]
@[simp] theorem State.queueError_padsInForm (s : State) (q : BitVec 6) (code : BitVec 4) (off : Nat) :
    (s.queueError q code off).PadsInForm ↔ s.PadsInForm := by
  unfold State.queueError
  split <;> simp
@[simp] theorem State.post_padsInForm (s : State) (p : PacketId) (status slot value : Nat) (err : Option (BitVec 4 × Nat)) :
    (s.post p status slot value err).PadsInForm ↔ s.PadsInForm := by simp [State.post]
@[simp] theorem State.record_padsInForm (s : State) (p : PacketId) (status slot value : Nat) :
    (s.record p status slot value).PadsInForm ↔ s.PadsInForm := by
  unfold State.record
  split <;> simp
@[simp] theorem State.recordError_padsInForm (s : State) (p : PacketId) (status value : Nat) (code : BitVec 4) (off : Nat) :
    (s.recordError p status value code off).PadsInForm ↔ s.PadsInForm := by
  unfold State.recordError
  split <;> simp
@[simp] theorem execRecordWriteFail_leavesForm {s : State} (h : s.PadsInForm) (q : BitVec 6) :
    LeavesForm (execRecordWriteFail q s) := by
  unfold execRecordWriteFail
  (repeat' split) <;> simp [h]
@[simp] theorem execDoorbell_leavesForm {s : State} (h : s.PadsInForm) (q : BitVec 6) (tail : BitVec 32) :
    LeavesForm (execDoorbell q tail s) := by
  dsimp only [execDoorbell]
  (repeat' split) <;> simp [h]
@[simp] theorem execPacketStage_leavesForm {s : State} (h : s.PadsInForm) (q : BitVec 6) (fail : BitVec 1) :
    LeavesForm (execPacketStage q fail s) := by
  dsimp only [execPacketStage]
  (repeat' split) <;> simp [h]
@[simp] theorem State.onPacket_padsInForm {s : State} {q : BitVec 6} {type : Nat} {f : List Byte → PacketId → State}
    (hf : ∀ b i, (f b i).PadsInForm ↔ s.PadsInForm) : (s.onPacket q type f).PadsInForm ↔ s.PadsInForm := by
  unfold State.onPacket
  dsimp only
  split
  · split <;> simp [hf]
  · split <;> simp [hf]
  · exact Iff.rfl
@[simp] theorem State.PadsInForm.onPacket {s : State} (h : s.PadsInForm) {q : BitVec 6} {type : Nat}
    {f : List Byte → PacketId → State}
    (hf : ∀ b i, (f b i).PadsInForm) : (s.onPacket q type f).PadsInForm := by
  unfold State.onPacket
  dsimp only
  split
  · exact (hf _ _).ite h
  · exact (hf _ _).ite h
  · exact h
@[simp] theorem State.block_padsInForm (s : State) (q : BitVec 6) : (s.block q).PadsInForm ↔ s.PadsInForm := by simp [State.block]
@[simp] theorem State.finish_padsInForm (s : State) (q : BitVec 6) (p : PacketId) (value : Nat) :
    (s.finish q p value).PadsInForm ↔ s.PadsInForm := by simp [State.finish]
@[simp] theorem State.PadsInForm.launchTo {s : State} (h : s.PadsInForm) (q : BitVec 6) : (s.launchTo q).PadsInForm := by
  refine h.onPacket fun b p => ?_
  dsimp only
  split
  · simp [h]
  · next c _ =>
    rw [State.onQueue_padsInForm, State.padsInForm_mk, State.padsInForm_parts]
    exact h.newContext c _ _ q _ none none
@[simp] theorem execLaunch_leavesForm {s : State} (h : s.PadsInForm) (q : BitVec 6) : LeavesForm (execLaunch q s) := by
  unfold execLaunch
  split <;> simp [h]
@[simp] theorem State.PadsInForm.serveLaunches {s : State} (h : s.PadsInForm) : s.serveLaunches.PadsInForm :=
  h.foldl fun _ _ hs => hs.ite (hs.foldl fun _ q hs => (hs.launchTo q).ite hs)
@[simp] theorem execWait_leavesForm {s : State} (h : s.PadsInForm) (q : BitVec 6) : LeavesForm (execWait q s) := by
  unfold execWait
  split <;> simp [h]
@[simp] theorem execWaitTimeout_leavesForm {s : State} (h : s.PadsInForm) (q : BitVec 6) :
    LeavesForm (execWaitTimeout q s) := by simp [execWaitTimeout, h]
@[simp] theorem execSignal_leavesForm {s : State} (h : s.PadsInForm) (q : BitVec 6) :
    LeavesForm (execSignal q s) := by simp [execSignal, h]
@[simp] theorem execFence_leavesForm {s : State} (h : s.PadsInForm) (q : BitVec 6) : LeavesForm (execFence q s) := by
  unfold execFence
  split <;> simp [h]
@[simp] theorem execMark_leavesForm {s : State} (h : s.PadsInForm) (q : BitVec 6) : LeavesForm (execMark q s) :=
  (leavesForm_next _).mpr (h.onPacket fun b p => (State.finish_padsInForm ..).mpr (State.PadsInForm.ite (by simp [h]) h))
@[simp] theorem execHcopy_leavesForm {s : State} (h : s.PadsInForm) (q : BitVec 6) :
    LeavesForm (execHcopy q s) := by simp [execHcopy, h]
@[simp] theorem State.windowFill_padsInForm (n : Nat) (s : State) (off : Nat) (b : List Byte) :
    (State.windowFill n s off b).PadsInForm ↔ s.PadsInForm := by
  induction n generalizing s off b with
  | zero => exact Iff.rfl
  | succ n ih => rw [State.windowFill, ih, State.windowWrite_padsInForm]
@[simp] theorem State.copyWrite_padsInForm (s : State) (bus : Bool) (a : Xword) (b : List Byte) :
    (s.copyWrite bus a b).PadsInForm ↔ s.PadsInForm := by
  unfold State.copyWrite
  (repeat' split) <;> simp
@[simp] theorem State.copyMixed_padsInForm (s : State) (k : HostCopy) (n : Nat) : (s.copyMixed k n).PadsInForm ↔ s.PadsInForm :=
  foldl_padsInForm fun _ _ => by simp
@[simp] theorem State.copyBytes_padsInForm (s : State) (k : HostCopy) (n : Nat) :
    (s.copyBytes k n).PadsInForm ↔ s.PadsInForm := by
  unfold State.copyBytes
  (repeat' split) <;> simp
@[simp] theorem State.dropCopy_padsInForm (s : State) (q : BitVec 6) (i : BitVec 32) :
    (s.dropCopy q i).PadsInForm ↔ s.PadsInForm := by simp [State.dropCopy]
@[simp] theorem State.copyFault_padsInForm (s : State) (q : BitVec 6) (k : HostCopy) (n : Nat) :
    (s.copyFault q k n).PadsInForm ↔ s.PadsInForm := by simp [State.copyFault]
@[simp] theorem State.copyPart_padsInForm (s : State) (k : HostCopy) : (s.copyPart k).PadsInForm ↔ s.PadsInForm := by
  dsimp only [State.copyPart]
  split
  · exact Iff.rfl
  · refine foldl_padsInForm fun s j => ?_
    split <;> simp
@[simp] theorem State.dropCopies_padsInForm (s : State) (q : BitVec 6) :
    (s.dropCopies q).PadsInForm ↔ s.PadsInForm := by simp [State.dropCopies]
@[simp] theorem execHcopyComplete_leavesForm {s : State} (h : s.PadsInForm) (q : BitVec 6) (i : BitVec 32) :
    LeavesForm (execHcopyComplete q i s) := by
  dsimp only [execHcopyComplete]
  (repeat' split) <;> simp [h]
@[simp] theorem execHcopyFault_leavesForm {s : State} (h : s.PadsInForm) (q : BitVec 6) (i : BitVec 32) (bytes : BitVec 32) :
    LeavesForm (execHcopyFault q i bytes s) := by
  unfold execHcopyFault
  (repeat' split) <;> simp [h]
@[simp] theorem State.queueEnable_padsInForm (s : State) (q : BitVec 6) :
    (s.queueEnable q).PadsInForm ↔ s.PadsInForm := by simp [State.queueEnable]
@[simp] theorem execEnable_leavesForm {s : State} (h : s.PadsInForm) (q : BitVec 6) :
    LeavesForm (execEnable q s) := by simp [execEnable, h]
@[simp] theorem State.queueRetry_padsInForm (s : State) (q : BitVec 6) :
    (s.queueRetry q).PadsInForm ↔ s.PadsInForm := by simp [State.queueRetry]
@[simp] theorem execRetry_leavesForm {s : State} (h : s.PadsInForm) (q : BitVec 6) :
    LeavesForm (execRetry q s) := by simp [execRetry, h]
@[simp] theorem State.queueSkip_padsInForm (s : State) (q : BitVec 6) :
    (s.queueSkip q).PadsInForm ↔ s.PadsInForm := by simp [State.queueSkip]
@[simp] theorem execSkip_leavesForm {s : State} (h : s.PadsInForm) (q : BitVec 6) :
    LeavesForm (execSkip q s) := by simp [execSkip, h]
@[simp] theorem State.PadsInForm.queueDestroy {s : State} (h : s.PadsInForm) (q : BitVec 6) : (s.queueDestroy q).PadsInForm := by
  unfold State.queueDestroy
  dsimp only
  split
  · exact h
  · exact h
  · refine State.PadsInForm.foldl (fun t c ht => (ht.kill c _).ite ht) ?_
    simp [h]
@[simp] theorem execDestroy_leavesForm {s : State} (h : s.PadsInForm) (q : BitVec 6) :
    LeavesForm (execDestroy q s) := by simp [execDestroy, h]
@[simp] theorem execDestroyDrainDone_leavesForm {s : State} (h : s.PadsInForm) (q : BitVec 6) :
    LeavesForm (execDestroyDrainDone q s) := by simp [execDestroyDrainDone, h]
@[simp] theorem State.PadsInForm.queueControl {s : State} (h : s.PadsInForm) (q : BitVec 6) (v : Xword) :
    (s.queueControl q v).PadsInForm := by
  unfold State.queueControl
  (repeat' split) <;> simp [h]
@[simp] theorem execSigobjWrite_leavesForm {s : State} (h : s.PadsInForm) (i : BitVec 8) (v : Xword) :
    LeavesForm (execSigobjWrite i v s) := by simp [execSigobjWrite, h]

/-! #### Power and reset -/

@[simp] theorem State.onColumn_padsInForm (s : State) (d : BitVec 6) (f : Column → Column) :
    (s.onColumn d f).PadsInForm ↔ s.PadsInForm := by simp [State.onColumn]
@[simp] theorem execTempSample_leavesForm {s : State} (h : s.PadsInForm) (d : BitVec 6) (temp : BitVec 8) :
    LeavesForm (execTempSample d temp s) := by
  dsimp only [execTempSample]
  split <;> simp [h]
@[simp] theorem execThermalTrip_leavesForm {s : State} (h : s.PadsInForm) (d : BitVec 6) : LeavesForm (execThermalTrip d s) := by
  refine (leavesForm_next _).mpr (h.guarded (State.PadsInForm.foldl (fun t c ht => ht.kill c _) ?_))
  refine (State.signal_padsInForm ..).mpr (State.PadsInForm.onPdie ?_ d fun _ hm => absurd hm List.not_mem_nil)
  simp [h]
@[simp] theorem execPlimThrottle_leavesForm {s : State} (h : s.PadsInForm) (watts : BitVec 16) :
    LeavesForm (execPlimThrottle watts s) := by simp [execPlimThrottle, h]
@[simp] theorem execHostRequestError_leavesForm {s : State} (h : s.PadsInForm) (c : BitVec 4) (d : BitVec 6) (i : BitVec 11)
    (addr : Xword) :
    LeavesForm (execHostRequestError c d i addr s) := by simp [execHostRequestError, h]
@[simp] theorem State.refreshOwned_padsInForm (s : State) : s.refreshOwned.PadsInForm ↔ s.PadsInForm := by
  rw [State.refreshOwned, State.padsInForm_mk, pdiesInForm_map fun p => by split <;> rfl, State.padsInForm_parts]
theorem slotsInForm_blank : SlotsInForm (RegFile.fill 4 Slot.blank) := fun c => by
  rw [RegFile.get_fill]
  exact fun _ hz => absurd hz List.not_mem_nil
@[simp] theorem State.PadsInForm.clearSlots {s : State} (h : s.PadsInForm) : s.clearSlots.PadsInForm := by
  have ht := h.foldl (l := allSlots) fun _ c hs => hs.leavePads c
  exact State.padsInForm_mk.mpr ⟨slotsInForm_blank, ht.pdies.map fun _ hp => hp, focusInForm_none⟩
@[simp] theorem execD3hotEntry_leavesForm {s : State} (h : s.PadsInForm) :
    LeavesForm (execD3hotEntry s) := by simp [execD3hotEntry, h]
@[simp] theorem execD0Entry_leavesForm {s : State} (h : s.PadsInForm) : LeavesForm (execD0Entry s) := by simp [execD0Entry, h]
@[simp] theorem State.PadsInForm.clearWarm {s : State} (h : s.PadsInForm) : s.clearWarm.PadsInForm := by simp [State.clearWarm, h]
@[simp] theorem State.offlineNote_padsInForm (was s : State) : (State.offlineNote was s).PadsInForm ↔ s.PadsInForm :=
  foldl_padsInForm fun _ _ => by simp
@[simp] theorem PDie.PadsInForm.unpower {p : PDie} (h : p.PadsInForm) (off : Bool) : (p.unpower off).PadsInForm := by
  unfold PDie.unpower
  split
  · exact fun _ hm => absurd hm List.not_mem_nil
  · exact h
@[simp] theorem State.PadsInForm.clearCold {s : State} (h : s.PadsInForm) : s.clearCold.PadsInForm := by
  have ht := h.clearWarm
  refine (State.offlineNote_padsInForm ..).mpr (State.padsInForm_mk.mpr ⟨ht.slots, fun p => ?_, ht.inHand⟩)
  rw [RegFile.get_mapIdx]
  exact (ht.pdie p).unpower _
@[simp] theorem State.PadsInForm.requestReset {s : State} (h : s.PadsInForm) (cold : Bool) (cause : BitVec 4) :
    (s.requestReset cold cause).PadsInForm := by
  unfold State.requestReset
  split
  · exact h
  · dsimp only
    refine State.padsInForm_mk.mpr ⟨?_, ?_, focusInForm_none⟩
    all_goals split <;> simp [h.slots, h.pdies, State.PadsInForm.slots, State.PadsInForm.pdies, h]
@[simp] theorem State.abandonStrip_padsInForm (s : State) : s.abandonStrip.PadsInForm ↔ s.PadsInForm := by
  unfold State.abandonStrip
  split <;> simp
@[simp] theorem execPowerOn_leavesForm {s : State} (h : s.PadsInForm) : LeavesForm (execPowerOn s) := by
  have ht : s.abandonStrip.clearSlots.PadsInForm := State.PadsInForm.clearSlots (by simp [h])
  exact (leavesForm_next _).mpr (State.PadsInForm.requestReset
    (State.padsInForm_mk.mpr ⟨ht.slots, ht.pdies.map fun _ _ _ hm => absurd hm List.not_mem_nil, ht.inHand⟩) true 0)
@[simp] theorem execPowerRegionBringup_leavesForm {s : State} (h : s.PadsInForm) (pr : BitVec 4) :
    LeavesForm (execPowerRegionBringup pr s) := by simp [execPowerRegionBringup, h]
@[simp] theorem execPerst_leavesForm {s : State} (h : s.PadsInForm) : LeavesForm (execPerst s) := by simp [execPerst, h]
@[simp] theorem execFunctionLevelReset_leavesForm {s : State} (h : s.PadsInForm) :
    LeavesForm (execFunctionLevelReset s) := by simp [execFunctionLevelReset, h]
@[simp] theorem execRecoveryPin_leavesForm {s : State} (h : s.PadsInForm) :
    LeavesForm (execRecoveryPin s) := by simp [execRecoveryPin, h]
@[simp] theorem execWarm_leavesForm {s : State} (h : s.PadsInForm) : LeavesForm (execWarm s) := by simp [execWarm, h]
@[simp] theorem execCold_leavesForm {s : State} (h : s.PadsInForm) : LeavesForm (execCold s) := by simp [execCold, h]
@[simp] theorem execResetHostTimeout_leavesForm {s : State} (h : s.PadsInForm) : LeavesForm (execResetHostTimeout s) := by
  unfold execResetHostTimeout
  split <;> simp [h]

/-! #### Boot -/

@[simp] theorem State.reseed_padsInForm (s : State) : s.reseed.PadsInForm ↔ s.PadsInForm := by simp [State.reseed]
@[simp] theorem State.PadsInForm.scrub {s : State} (h : s.PadsInForm) : s.scrub.PadsInForm := by
  refine State.padsInForm_mk.mpr ⟨slotsInForm_blank, fun p => ?_, h.inHand⟩
  rw [RegFile.get_mapIdx]
  dsimp only
  split
  · exact h.pdie _
  · exact fun _ hm => absurd hm List.not_mem_nil
@[simp] theorem State.PadsInForm.stripStep {s : State} (h : s.PadsInForm) : s.stripStep.PadsInForm := by
  dsimp only [State.stripStep]
  split <;> simp [h]
@[simp] theorem State.stripEnd_padsInForm (s : State) : s.stripEnd.PadsInForm ↔ s.PadsInForm := by simp [State.stripEnd]
@[simp] theorem State.bootCustomer_padsInForm (s : State) : s.bootCustomer.PadsInForm ↔ s.PadsInForm := by
  dsimp only [State.bootCustomer]
  (repeat' split) <;> simp
@[simp] theorem State.bootBase_padsInForm (s : State) : s.bootBase.PadsInForm ↔ s.PadsInForm := by
  dsimp only [State.bootBase]
  split <;> simp
@[simp] theorem State.PadsInForm.runRom {s : State} (h : s.PadsInForm) : s.runRom.PadsInForm := by
  dsimp only [State.runRom]
  (repeat' split) <;> simp [h]
@[simp] theorem execResetComplete_leavesForm {s : State} (h : s.PadsInForm) : LeavesForm (execResetComplete s) := by
  unfold execResetComplete
  (repeat' split) <;> simp [h]
@[simp] theorem State.reply_padsInForm (s : State) (r : Option (List Byte)) :
    (s.reply r).PadsInForm ↔ s.PadsInForm := by simp [State.reply]
@[simp] theorem State.status_padsInForm (s : State) (code : BitVec 8) :
    (s.status code).PadsInForm ↔ s.PadsInForm := by simp [State.status]
@[simp] theorem execStatus_leavesForm {s : State} (h : s.PadsInForm) : LeavesForm (execStatus s) := by simp [execStatus, h]
@[simp] theorem execEnroll_leavesForm {s : State} (h : s.PadsInForm) (hash : BitVec 256) (minver : BitVec 16) :
    LeavesForm (execEnroll hash minver s) := by
  unfold execEnroll
  split <;> simp [h]
@[simp] theorem execStrip_leavesForm {s : State} (h : s.PadsInForm) (nonce : BitVec 256) : LeavesForm (execStrip nonce s) := by
  unfold execStrip
  split <;> simp [h]
@[simp] theorem execRecover_leavesForm {s : State} (h : s.PadsInForm) : LeavesForm (execRecover s) := by simp [execRecover, h]
@[simp] theorem execReadrec_leavesForm {s : State} (h : s.PadsInForm) : LeavesForm (execReadrec s) :=
  (leavesForm_next _).mpr (State.PadsInForm.ite ((State.status_padsInForm ..).mpr h) ((State.reply_padsInForm ..).mpr h))
@[simp] theorem execQuote_leavesForm {s : State} (h : s.PadsInForm) (nonce : BitVec 256) : LeavesForm (execQuote nonce s) := by
  unfold execQuote
  split <;> simp [h]
@[simp] theorem execReadid_leavesForm {s : State} (h : s.PadsInForm) : LeavesForm (execReadid s) := by simp [execReadid, h]
@[simp] theorem execBaseupd_leavesForm {s : State} (h : s.PadsInForm) (image : List Byte) : LeavesForm (execBaseupd image s) := by
  unfold execBaseupd
  split <;> simp [h]
@[simp] theorem execI3cNak_leavesForm {s : State} (h : s.PadsInForm) (code : BitVec 8) :
    LeavesForm (execI3cNak code s) := by simp [execI3cNak, h]
@[simp] theorem State.startLoad_padsInForm (s : State) : s.startLoad.PadsInForm ↔ s.PadsInForm := by
  unfold State.startLoad
  split <;> simp
@[simp] theorem execFwctlGo_leavesForm {s : State} (h : s.PadsInForm) : LeavesForm (execFwctlGo s) := by simp [execFwctlGo, h]
@[simp] theorem execFwLoadDone_leavesForm {s : State} (h : s.PadsInForm) (fail : BitVec 1) :
    LeavesForm (execFwLoadDone fail s) := by
  dsimp only [execFwLoadDone]
  (repeat' split) <;> simp [h]
@[simp] theorem State.keyDone_padsInForm (s : State) (status : BitVec 2) (f : Boot → Boot) :
    (s.keyDone status f).PadsInForm ↔ s.PadsInForm := by simp [State.keyDone]
@[simp] theorem State.keyLoad_padsInForm (s : State) : s.keyLoad.PadsInForm ↔ s.PadsInForm := by
  dsimp only [State.keyLoad]
  (repeat' split) <;> simp
@[simp] theorem execKeycmdLoad_leavesForm {s : State} (h : s.PadsInForm) :
    LeavesForm (execKeycmdLoad s) := by simp [execKeycmdLoad, h]
@[simp] theorem State.keyZero_padsInForm (s : State) : s.keyZero.PadsInForm ↔ s.PadsInForm := by
  unfold State.keyZero
  split <;> simp
@[simp] theorem execKeycmdZero_leavesForm {s : State} (h : s.PadsInForm) :
    LeavesForm (execKeycmdZero s) := by simp [execKeycmdZero, h]
@[simp] theorem State.askQuote_padsInForm (s : State) : s.askQuote.PadsInForm ↔ s.PadsInForm := by
  unfold State.askQuote
  split <;> simp
@[simp] theorem execQctlGo_leavesForm {s : State} (h : s.PadsInForm) : LeavesForm (execQctlGo s) := by simp [execQctlGo, h]
@[simp] theorem execQuoteDone_leavesForm {s : State} (h : s.PadsInForm) : LeavesForm (execQuoteDone s) := by
  unfold execQuoteDone
  (repeat' split) <;> simp [h]

/-! #### The save area -/

theorem Cell.restore_wf (q : Cell) (r : Reader) (cyc : Nat) : Mem.wf (q.restore r cyc).pad = true := by
  have hput : ∀ n k : Nat, Mem.wf (Mem.putBytes [] 0 (bytesOf n (r 0 k))) = true := fun _ _ => Mem.putBytes_wf Mem.wf_nil 0 _
  simp only [Cell.restore, hput]

theorem Die.restore_padsInForm (z : Die) (r : Reader) : (z.restore r).PadsInForm :=
  ⟨fun q hq => by
    obtain ⟨i, hi, rfl⟩ := List.mem_mapIdx.mp hq
    exact Cell.restore_wf .., aheadInForm_none⟩
@[simp] theorem Ctx.restoreSpecial_diesInForm (y : Ctx) (r : Reader) :
    DiesInForm (y.restoreSpecial r).dies ↔ DiesInForm y.dies := by simp [Ctx.restoreSpecial]
@[simp] theorem Ctx.restoreTrap_diesInForm (y : Ctx) (r : Reader) :
    DiesInForm (y.restoreTrap r).dies ↔ DiesInForm y.dies := by simp [Ctx.restoreTrap]
@[simp] theorem Ctx.restorePoint_diesInForm (y : Ctx) (r : Reader) (old : Nat) :
    DiesInForm (y.restorePoint r old).dies ↔ DiesInForm y.dies := by simp [Ctx.restorePoint]
theorem Ctx.restore_diesInForm (y : Ctx) (r : Reader) : DiesInForm (y.restore r).dies := by
  unfold Ctx.restore
  rw [Ctx.restorePoint_diesInForm, Ctx.restoreTrap_diesInForm, Ctx.restoreSpecial_diesInForm]
  refine DiesInForm.map (fun z hz => ?_) fun _ hz => hz
  obtain ⟨d, hd, rfl⟩ := List.mem_mapIdx.mp hz
  exact Die.restore_padsInForm ..

/-! #### The scheduler -/

@[simp] theorem Slot.stagger_diesInForm (x : Slot) (time : Nat) :
    DiesInForm (x.stagger time).ctx.dies ↔ DiesInForm x.ctx.dies := by simp [Slot.stagger]
@[simp] theorem State.PadsInForm.holdDies {s : State} (h : s.PadsInForm) (c : BitVec 4) (r : Rect) :
    (s.holdDies c r).PadsInForm :=
  h.foldl fun _ p ht => ht.onPdie p fun _ hm => absurd hm List.not_mem_nil
@[simp] theorem State.freeDies_padsInForm (s : State) (c : BitVec 4) : (s.freeDies c).PadsInForm ↔ s.PadsInForm := by
  unfold State.freeDies
  rw [State.fillWalks_padsInForm, State.padsInForm_mk, pdiesInForm_map, State.padsInForm_parts]
  intro p
  dsimp only
  split <;> simp
@[simp] theorem State.catchUp_padsInForm (s : State) (c : BitVec 4) : (s.catchUp c).PadsInForm ↔ s.PadsInForm := by
  dsimp only [State.catchUp]
  rw [State.padsInForm_mk, State.padsInForm_parts]
  exact State.onSlot_padsInForm (foldl_dies fun y a => by simp [-Ctx.arrive_dies])
theorem Die.entry_padsInForm (n : Nat) : (Die.entry n).PadsInForm :=
  ⟨fun q hq => by rw [List.eq_of_mem_replicate hq]; rfl, aheadInForm_none⟩
theorem Ctx.entry_diesInForm (d : Desc) (n cells : Nat) : DiesInForm (Ctx.entry d n cells).dies := fun z hz => by
  rw [List.eq_of_mem_replicate hz]
  exact Die.entry_padsInForm cells
@[simp] theorem State.PadsInForm.allocate {s : State} (h : s.PadsInForm) (c : BitVec 4) (r : Rect) (core : BitVec 3) :
    (s.allocate c r core).PadsInForm := by
  have ht := (h.holdDies c r).keepSlot c (f := fun x => { x with core := some core, row := r.row, col := r.col, h := r.h, w := r.w })
    fun _ hx => hx
  refine State.PadsInForm.ite (ht.onSlot c (ht.slot c)) ((State.catchUp_padsInForm ..).mpr (ht.onSlot c ?_))
  rw [Slot.stagger_diesInForm]
  dsimp only
  exact Ctx.entry_diesInForm _ _ _
@[simp] theorem State.PadsInForm.considerAll {l : List (BitVec 4)} {s : State} (h : s.PadsInForm) :
    (State.considerAll l s).PadsInForm := by
  induction l generalizing s with
  | nil => exact h
  | cons c l ih =>
    have ht := h.keepSlot c (f := fun x => { x with considered := true }) fun _ hx => hx
    unfold State.considerAll
    refine State.PadsInForm.ite (ih (h.kill c _)) ?_
    dsimp only
    split
    · exact ih (((State.choose_padsInForm ..).mpr ht).allocate c _ _)
    · exact State.PadsInForm.ite ht (ih ht)
@[simp] theorem State.withdraw_padsInForm (s : State) : s.withdraw.PadsInForm ↔ s.PadsInForm :=
  foldl_padsInForm fun t c => by
    split <;> simp
@[simp] theorem State.ask_padsInForm (s : State) (w : BitVec 4) (vs : List (BitVec 4)) :
    (s.ask w vs).PadsInForm ↔ s.PadsInForm := by simp [State.ask]
@[simp] theorem State.preempt_padsInForm (s : State) : s.preempt.PadsInForm ↔ s.PadsInForm := by
  unfold State.preempt
  (repeat' split) <;> simp
@[simp] theorem execSchedulerDecision_leavesForm {s : State} (h : s.PadsInForm) : LeavesForm (execSchedulerDecision s) := by
  have ht : ({ s with schedDue := false, schedAt := s.time } : State).PadsInForm := State.padsInForm_mk.mpr (State.padsInForm_iff.mp h)
  have hall := ht.considerAll (l := State.waitingOrder { s with schedDue := false, schedAt := s.time })
  exact (leavesForm_next _).mpr (h.guarded ((State.preempt_padsInForm _).mpr ((State.withdraw_padsInForm _).mpr hall)))
@[simp] theorem execPreemptLimitExpiry_leavesForm {s : State} (h : s.PadsInForm) (c : BitVec 4) :
    LeavesForm (execPreemptLimitExpiry c s) := by
  dsimp only [execPreemptLimitExpiry]
  (repeat' split) <;> simp [h]
@[simp] theorem State.beginSaves_padsInForm (s : State) : s.beginSaves.PadsInForm ↔ s.PadsInForm :=
  foldl_padsInForm fun t c => by
    dsimp only
    split <;> simp
@[simp] theorem execSaveComplete_leavesForm {s : State} (h : s.PadsInForm) (c : BitVec 4) (fail : BitVec 1) :
    LeavesForm (execSaveComplete c fail s) := by
  dsimp only [execSaveComplete]
  (repeat' split) <;> simp [h]
@[simp] theorem Ctx.applyClk_diesInForm (y : Ctx) : DiesInForm y.applyClk.dies ↔ DiesInForm y.dies := by
  unfold Ctx.applyClk
  (repeat' split) <;> simp
@[simp] theorem execRestoreComplete_leavesForm {s : State} (h : s.PadsInForm) (c : BitVec 4) (fail : BitVec 1) :
    LeavesForm (execRestoreComplete c fail s) := by
  refine (leavesForm_next _).mpr (h.ite ?_)
  split
  · exact h.kill c _
  · refine State.PadsInForm.tryRound ((State.catchUp_padsInForm ..).mpr (State.PadsInForm.onSlot ?_ c ?_)) c
    · exact State.PadsInForm.ite (h.foldl fun t p ht => by simp [ht]) h
    · rw [Slot.stagger_diesInForm]
      dsimp only
      split
      · exact (Ctx.applyClk_diesInForm _).mpr (Ctx.restore_diesInForm _ _)
      · exact Ctx.restore_diesInForm _ _
@[simp] theorem DiesInForm.resize {y : Ctx} (h : DiesInForm y.dies) (n : Nat) : DiesInForm (y.resize n).dies := fun z hz => by
  rcases List.mem_append.mp hz with hz | hz
  · exact h z (List.mem_of_mem_take hz)
  · rw [List.eq_of_mem_replicate hz]
    exact Die.entry_padsInForm cellsPerDie
@[simp] theorem State.PadsInForm.reshape {s : State} (h : s.PadsInForm) (c : BitVec 4) (r : Rect) :
    (s.reshape c r).PadsInForm := by
  refine State.PadsInForm.keepSlot (State.PadsInForm.holdDies ?_ c r) c fun _ hx => hx
  exact State.PadsInForm.foldl (fun _ p ht => ht.onPdie p (ht.pdie p)) (h.leavePads c)
@[simp] theorem State.PadsInForm.stepTo {s : State} (h : s.PadsInForm) (c : BitVec 4) (r : Rect) (outcome : BitVec 2) :
    (s.stepTo c r outcome).PadsInForm := by
  have ht : (if r = (s.slot c).rect then s else s.reshape c r).PadsInForm := h.ite (h.reshape c r)
  have hstep := fun f hf => ht.keepSlot c (f := f) hf
  refine State.padsInForm_mk.mpr (State.padsInForm_iff.mp (hstep _ fun x hx => (Slot.stagger_diesInForm ..).mpr ?_))
  exact ((Ctx.applyClk_diesInForm _).mpr hx).resize r.n
@[simp] theorem execStepDecision_leavesForm {s : State} (h : s.PadsInForm) (c : BitVec 4) :
    LeavesForm (execStepDecision c s) := by
  dsimp only [execStepDecision]
  (repeat' split) <;> simp [h]
@[simp] theorem State.memberEnd_padsInForm (s : State) (c : BitVec 4) : (s.memberEnd c).PadsInForm ↔ s.PadsInForm := by
  dsimp only [State.memberEnd]
  (repeat' split) <;> simp
@[simp] theorem State.PadsInForm.freeSlotNow {s : State} (h : s.PadsInForm) (c : BitVec 4) : (s.freeSlotNow c).PadsInForm :=
  State.PadsInForm.keepSlot ((State.freeDies_padsInForm ..).mpr (h.leavePads c)) c fun _ _ _ hz => absurd hz List.not_mem_nil
@[simp] theorem execContextEnd_leavesForm {s : State} (h : s.PadsInForm) (c : BitVec 4) :
    LeavesForm (execContextEnd c s) := by simp [execContextEnd, h]
@[simp] theorem State.PadsInForm.loseDies {s : State} (h : s.PadsInForm) (c : BitVec 4) :
    (s.loseDies c).PadsInForm := by simp [State.loseDies, h]
@[simp] theorem execDeadDrainDone_leavesForm {s : State} (h : s.PadsInForm) (c : BitVec 4) :
    LeavesForm (execDeadDrainDone c s) := by
  unfold execDeadDrainDone
  split <;> simp [h]

/-! #### The clock -/

@[simp] theorem Ctx.trip_diesInForm (y : Ctx) (k : Nat) : DiesInForm (y.trip k).dies ↔ DiesInForm y.dies := by simp [Ctx.trip]
@[simp] theorem Slot.stretch_diesInForm (x : Slot) (p : BitVec 6) (l : Nat) :
    DiesInForm (x.stretch p l).ctx.dies ↔ DiesInForm x.ctx.dies := by
  dsimp only [Slot.stretch]
  split <;> simp
@[simp] theorem execDroopReport_leavesForm {s : State} (h : s.PadsInForm) (p : BitVec 6) (level : BitVec 3) :
    LeavesForm (execDroopReport p level s) := by
  dsimp only [execDroopReport]
  (repeat' split) <;> simp [h]
@[simp] theorem execTripHoldExpiry_leavesForm {s : State} (h : s.PadsInForm) (p : BitVec 6) (again : BitVec 1) :
    LeavesForm (execTripHoldExpiry p again s) := by
  unfold execTripHoldExpiry
  (repeat' split) <;> simp [h]
@[simp] theorem Ctx.addThrottle_diesInForm (y : Ctx) (n : Nat) :
    DiesInForm (y.addThrottle n).dies ↔ DiesInForm y.dies := by simp [Ctx.addThrottle]
@[simp] theorem State.throttle_padsInForm (s : State) (c : BitVec 4) (here : BitVec 6 → Bool) (cycles : Nat) :
    (s.throttle c here cycles).PadsInForm ↔ s.PadsInForm := by
  dsimp only [State.throttle]
  split <;> simp
@[simp] theorem execRegionThrottle_leavesForm {s : State} (h : s.PadsInForm) (r : BitVec 4) (on : BitVec 1) (cycles : Xword) :
    LeavesForm (execRegionThrottle r on cycles s) := by
  unfold execRegionThrottle
  split <;> simp [h]
@[simp] theorem State.plimPass_padsInForm (s : State) (dt : Nat) : (s.plimPass dt).PadsInForm ↔ s.PadsInForm := by
  unfold State.plimPass
  split
  · exact Iff.rfl
  · refine foldl_padsInForm fun t c => ?_
    dsimp only
    split <;> simp
@[simp] theorem execStaggerStart_leavesForm {s : State} (h : s.PadsInForm) (c : BitVec 4) (r : BitVec 4) :
    LeavesForm (execStaggerStart c r s) := by
  refine (leavesForm_next _).mpr (h.guarded (h.keepCtx c fun y hy => (diesInForm_mapIdx fun d z => ?_).mpr hy))
  split <;> exact Iff.rfl

/-! #### Links and the pod -/

@[simp] theorem State.onLink_padsInForm (s : State) (n : BitVec 4) (f : Link → Link) :
    (s.onLink n f).PadsInForm ↔ s.PadsInForm := by simp [State.onLink]
@[simp] theorem State.unroute_padsInForm (s : State) (n : BitVec 4) :
    (s.unroute n).PadsInForm ↔ s.PadsInForm := by simp [State.unroute]
@[simp] theorem State.dropFlits_padsInForm (s : State) (n : BitVec 4) :
    (s.dropFlits n).PadsInForm ↔ s.PadsInForm := by simp [State.dropFlits]
@[simp] theorem State.exchange_padsInForm (s : State) (n : BitVec 4) : (s.exchange n).PadsInForm ↔ s.PadsInForm := by
  dsimp only [State.exchange]
  (repeat' split) <;> simp
@[simp] theorem execLinkTrainingDone_leavesForm {s : State} (h : s.PadsInForm) (n : BitVec 4) (lanes : BitVec 8) :
    LeavesForm (execLinkTrainingDone n lanes s) := by
  unfold execLinkTrainingDone
  split <;> simp [h]
@[simp] theorem State.PadsInForm.loseLink {s : State} (h : s.PadsInForm) (n : BitVec 4) (next : LinkState) :
    (s.loseLink n next).PadsInForm := by
  unfold State.loseLink
  refine State.PadsInForm.foldl (fun t p ht => ?_) ?_
  · exact ht.kill p.1 _
  · simp [h]
@[simp] theorem execLinkLoss_leavesForm {s : State} (h : s.PadsInForm) (n : BitVec 4) : LeavesForm (execLinkLoss n s) := by
  unfold execLinkLoss
  split <;> simp [h]
@[simp] theorem execPeerIdentity_leavesForm {s : State} (h : s.PadsInForm) (n : BitVec 4) (valid : BitVec 1) (dev : BitVec 6)
    (peer : BitVec 4) :
    LeavesForm (execPeerIdentity n valid dev peer s) := by
  dsimp only [execPeerIdentity]
  (repeat' split) <;> simp [h]
@[simp] theorem execRetrain_leavesForm {s : State} (h : s.PadsInForm) (n : BitVec 4) :
    LeavesForm (execRetrain n s) := by simp [execRetrain, h]
@[simp] theorem execLinkEnable_leavesForm {s : State} (h : s.PadsInForm) (n : BitVec 4) (on : BitVec 1) :
    LeavesForm (execLinkEnable n on s) := by simp [execLinkEnable, h]
@[simp] theorem execReplayBufferDrained_leavesForm {s : State} (h : s.PadsInForm) (n : BitVec 4) :
    LeavesForm (execReplayBufferDrained n s) := by
  unfold execReplayBufferDrained
  split <;> simp [h]
@[simp] theorem State.podConfig_padsInForm (s : State) (v : Xword) : (s.podConfig v).PadsInForm ↔ s.PadsInForm := by
  dsimp only [State.podConfig]
  (repeat' split) <;> simp
@[simp] theorem execPodcfgWrite_leavesForm {s : State} (h : s.PadsInForm) (v : Xword) :
    LeavesForm (execPodcfgWrite v s) := by simp [execPodcfgWrite, h]
@[simp] theorem execFlitCrcFail_leavesForm {s : State} (h : s.PadsInForm) (n : BitVec 4) :
    LeavesForm (execFlitCrcFail n s) := by simp [execFlitCrcFail, h]
@[simp] theorem State.PadsInForm.refuse {s : State} (h : s.PadsInForm) (dev : BitVec 6) (c life : BitVec 4) (cause : Cause)
    (link : Nat) (o : Option Origin) :
    (s.refuse dev c life cause link o).PadsInForm := by
  unfold State.refuse
  (repeat' split) <;> simp [h]
@[simp] theorem State.PadsInForm.takeFlit {s : State} (h : s.PadsInForm) (link : BitVec 4) (src : BitVec 6) (b : PodBody) :
    (s.takeFlit link src b).PadsInForm := by
  unfold State.takeFlit
  split
  · split
    · exact h
    · exact h.ite (State.PadsInForm.podReply (State.padsInForm_mk.mpr (State.padsInForm_iff.mp h)) ..)
  · exact State.PadsInForm.ite (h.kill _ _) h
  · exact State.padsInForm_mk.mpr (State.padsInForm_iff.mp h)
@[simp] theorem State.PadsInForm.receive {s : State} (h : s.PadsInForm) (f : Flit) : (s.receive f).PadsInForm := by
  unfold State.receive
  refine State.PadsInForm.ite (h.takeFlit ..) (State.PadsInForm.ite ?_ ((State.sendFlit_padsInForm ..).mpr h))
  split <;> exact h.refuse ..
@[simp] theorem State.PadsInForm.unblock {s : State} (h : s.PadsInForm) : s.unblock.PadsInForm :=
  State.PadsInForm.foldl (fun _ f ht => ht.receive f) (State.padsInForm_mk.mpr (State.padsInForm_iff.mp h))
@[simp] theorem execFlitArrival_leavesForm {s : State} (h : s.PadsInForm) (dest src : BitVec 6) (hops : BitVec 4) (r : Received) :
    LeavesForm (execFlitArrival dest src hops r s) := by
  unfold execFlitArrival
  split <;> simp [h]
@[simp] theorem State.podNote_padsInForm (s : State) (a : PodAccess) : (s.podNote a).PadsInForm ↔ s.PadsInForm := by
  unfold State.podNote
  split <;> simp
@[simp] theorem State.PadsInForm.performPod {s : State} (h : s.PadsInForm) (c : BitVec 4) (a : PodAccess) :
    (s.performPod c a).PadsInForm := by
  unfold State.performPod
  split <;> simp [h]
@[simp] theorem State.dropPod_padsInForm (s : State) (a : PodAccess) : (s.dropPod a).PadsInForm ↔ s.PadsInForm := by
  unfold State.dropPod
  (repeat' split) <;> simp
@[simp] theorem State.PadsInForm.refusePod {s : State} (h : s.PadsInForm) (a : PodAccess) (cause : Cause) :
    (s.refusePod a cause).PadsInForm := by simp [State.refusePod, h]
@[simp] theorem execPodAccessArrival_leavesForm {s : State} (h : s.PadsInForm) (a : PodAccess) :
    LeavesForm (execPodAccessArrival a s) := by
  unfold execPodAccessArrival
  (repeat' split) <;> simp [h]

@[simp] theorem execPodAccessTimeout_leavesForm {s : State} (h : s.PadsInForm) : LeavesForm (execPodAccessTimeout s) := by
  refine (leavesForm_next _).mpr (State.PadsInForm.unblock (State.PadsInForm.foldl (fun t p ht => ?_) ?_))
  · exact State.PadsInForm.refuse (by simp [ht]) ..
  · exact State.padsInForm_mk.mpr (State.padsInForm_iff.mp h)
@[simp] theorem execPodMessageArrival_leavesForm {s : State} (h : s.PadsInForm) (m : PodMsg) :
    LeavesForm (execPodMessageArrival m s) := by
  dsimp only [execPodMessageArrival]
  (repeat' split) <;> simp [h]
@[simp] theorem execPodRoundTimeout_leavesForm {s : State} (h : s.PadsInForm) (c : BitVec 4) :
    LeavesForm (execPodRoundTimeout c s) := by
  dsimp only [execPodRoundTimeout]
  split <;> simp [h]

/-! #### Matrix instructions and rings -/

@[simp] theorem Cell.setBank_pad (c : Cell) (i : BitVec 3) (f : BankState → BankState) :
    (c.setBank i f).pad = c.pad := by simp [Cell.setBank]
@[simp] theorem Cell.setRing_pad (c : Cell) (i : BitVec 3) (f : Ring → Ring) :
    (c.setRing i f).pad = c.pad := by simp [Cell.setRing]
@[simp] theorem skipTile_pad (c : Cell) (bank qa qb : BitVec 3) (ea eb : Bool) : (skipTile c bank qa qb ea eb).pad = c.pad := by
  unfold skipTile
  (repeat' split) <;> simp
@[simp] theorem openTile_pad (c : Cell) (t : Tile) : (openTile c t).pad = c.pad := by
  unfold openTile
  (repeat' split) <;> simp
theorem startTile_resForm {env : Env} {pre post : Cell} (h : Mem.wf post.pad = true) (c a b : BitVec 3) (fp64 : Bool)
    (p top : Nat)
    (popA popB : Bool) : ResForm (startTile env pre post c a b fp64 p top popA popB) := by
  dsimp only [startTile]
  split
  · simp [h]
  · split <;> simp [h]
@[simp] theorem execTmma_leavesForm {s : State} (h : s.PadsInForm) (c a b : BitVec 3) (f g : BitVec 2) (x y : BitVec 1) :
    LeavesForm (execTmma c a b f g x y s) := by
  refine onCells_leavesForm (ifActive_keepsForm fun env pre post hq => ?_) h
  dsimp only
  split
  · exact resForm_error _
  · split
    · exact resForm_error _
    · split
      · exact resForm_error _
      · exact startTile_resForm hq _ _ _ _ _ _ _ _
@[simp] theorem execTmma64_leavesForm {s : State} (h : s.PadsInForm) (c a b : BitVec 3) (x y : BitVec 1) :
    LeavesForm (execTmma64 c a b x y s) := by
  refine onCells_leavesForm (ifActive_keepsForm fun env pre post hq => ?_) h
  dsimp only
  split
  · exact resForm_error _
  · split
    · exact resForm_error _
    · split
      · exact resForm_error _
      · exact startTile_resForm hq _ _ _ _ _ _ _ _
@[simp] theorem execTaccld_leavesForm {s : State} (h : s.PadsInForm) (c : BitVec 3) (a : BitVec 4) (f : BitVec 2)
    (r : BitVec 1) (x : Option Word) :
    LeavesForm (execTaccld c a f r x s) := by
  refine onCells_leavesForm (ifActive_keepsForm fun env pre post hq => ?_) h
  dsimp only
  split <;> simp [hq]
theorem eitherStore_wf (env : Env) (q : Cell) (o n : Nat) {m : Mem} (h : Mem.wf m = true) :
    Mem.wf (eitherStore env q o n m) = true :=
  (get_eitherStore env q o n h).1
@[simp] theorem execTaccst_leavesForm {s : State} (h : s.PadsInForm) (c : BitVec 3) (a : BitVec 4) (f : BitVec 2)
    (r : BitVec 1) (x : Option Word) :
    LeavesForm (execTaccst c a f r x s) := by
  refine onCells_leavesForm (ifActive_keepsForm fun env pre post hq => ?_) h
  split
  · exact resForm_error _
  · refine (resForm_ok _).mpr (eitherStore_wf env post _ _ ?_)
    split
    · exact foldl_write_wf 4 _ _ _ hq
    · exact foldl_write_wf 2 _ _ _ hq
    · exact foldl_write_wf 8 _ _ _ hq
@[simp] theorem execTmon_leavesForm {s : State} (h : s.PadsInForm) (d : BitVec 4) (sel : BitVec 2) (l : BitVec 1) :
    LeavesForm (execTmon d sel l s) := by
  refine onCells_leavesForm (ifActive_keepsForm fun env pre post hq => ?_) h
  dsimp only
  (repeat' split) <;> simp [hq]
theorem ringOp_keepsForm {q : BitVec 3} {g : Env → Cell → Cell → Cell}
    (hg : ∀ env pre post, Mem.wf post.pad = true → Mem.wf (g env pre post).pad = true) : KeepsForm (ringOp q g) :=
  ifActive_keepsForm fun env pre post h => by
    split
    · exact resForm_error _
    · exact (resForm_ok _).mpr (hg env pre post h)
@[simp] theorem execQcommit_leavesForm {s : State} (h : s.PadsInForm) (q : BitVec 3) (n : BitVec 8) :
    LeavesForm (execQcommit q n s) := by
  refine onCells_leavesForm (ifActive_keepsForm fun env pre post hq => ?_) h
  dsimp only
  split <;> simp [hq]
@[simp] theorem execQpop_leavesForm {s : State} (h : s.PadsInForm) (q : BitVec 3) (n : BitVec 8) :
    LeavesForm (execQpop q n s) := by
  refine onCells_leavesForm (ifActive_keepsForm fun env pre post hq => ?_) h
  dsimp only
  split <;> simp [hq]
@[simp] theorem execQstat_leavesForm {s : State} (h : s.PadsInForm) (q : BitVec 3) (d : BitVec 4) (l : BitVec 1) :
    LeavesForm (execQstat q d l s) := by
  refine onCells_leavesForm (ifActive_keepsForm fun env pre post hq => ?_) h
  dsimp only
  (repeat' split) <;> simp [hq]
@[simp] theorem execQtwin_leavesForm {s : State} (h : s.PadsInForm) (q : BitVec 3) (k : BitVec 4) (i : BitVec 8) :
    LeavesForm (execQtwin q k i s) := by
  refine onCells_leavesForm (ringOp_keepsForm fun env pre post hq => ?_) h
  dsimp only
  split
  · exact eitherStore_wf env post _ 8 (Mem.write_wf hq ..)
  · exact hq

/-! #### Vaults -/

@[simp] theorem State.onVault_padsInForm (s : State) (p : BitVec 6) (i : Nat) (f : Vault → Vault) :
    (s.onVault p i f).PadsInForm ↔ s.PadsInForm := by simp [State.onVault]
@[simp] theorem State.vaultStart_padsInForm (s : State) (p : BitVec 6) (i : Nat) (op : CmdOp) :
    (s.vaultStart p i op).PadsInForm ↔ s.PadsInForm := by
  unfold State.vaultStart
  split <;> simp
@[simp] theorem execVaultCommandStart_leavesForm {s : State} (h : s.PadsInForm) (c : BitVec 4) (d : BitVec 6) (i : BitVec 11)
    (num : Xword) :
    LeavesForm (execVaultCommandStart c d i num s) := by
  unfold execVaultCommandStart
  (repeat' split) <;> simp [h]
@[simp] theorem State.vaultNote_padsInForm (s : State) (c : BitVec 4) (d i : Nat) (bank burst row bsn : Nat) (v : VaultNote) :
    (s.vaultNote c d i bank burst row bsn v).PadsInForm ↔ s.PadsInForm := by simp [State.vaultNote]
@[simp] theorem State.PadsInForm.vaultDeath {s : State} (h : s.PadsInForm) (c : BitVec 4) (d i : Nat) (cause : Cause)
    (a : Xword) :
    (s.vaultDeath c d i cause a).PadsInForm := by simp [State.vaultDeath, h]
@[simp] theorem State.PadsInForm.burstNext {s : State} (h : s.PadsInForm) (c : BitVec 4) (d i : Nat) (q : Cmd) (n : Nat) :
    (s.burstNext c d i q n).PadsInForm := by
  unfold State.burstNext
  split <;> simp [h]
@[simp] theorem State.PadsInForm.burstData {s : State} (h : s.PadsInForm) (c : BitVec 4) (d i : Nat) (q : Cmd)
    (pad : Option Nat) (n : Nat) (b : List Byte) :
    (s.burstData c d i q pad n b).PadsInForm := by
  refine State.PadsInForm.burstNext ?_ c d i q n
  split
  · exact h.writeHome c _ b
  · simp [h]
@[simp] theorem State.PadsInForm.readBurst {s : State} (h : s.PadsInForm) (c : BitVec 4) (d i : Nat) (q : Cmd) (k : BitVec 2)
    (r : BitVec 12) (b n : Nat) (pad : Option Nat) (single syn : BitVec 8) (double : Bool) :
    (s.readBurst c d i q k r b n pad single syn double).PadsInForm := by
  dsimp only [State.readBurst]
  (repeat' split) <;> simp [h]
@[simp] theorem State.PadsInForm.writeBurst {s : State} (h : s.PadsInForm) (c : BitVec 4) (d i : Nat) (q : Cmd) (k : BitVec 2)
    (r : BitVec 12) (b n : Nat) (data : List Byte) :
    (s.writeBurst c d i q k r b n data).PadsInForm := by simp [State.writeBurst, h]
@[simp] theorem State.PadsInForm.burstPass {s : State} (h : s.PadsInForm) (c : BitVec 4) (d i : Nat) (q : Cmd)
    (single syn : BitVec 8) (double : Bool) :
    (s.burstPass c d i q single syn double).PadsInForm := by
  unfold State.burstPass
  split <;> simp [h]
@[simp] theorem execVaultBurstDone_leavesForm {s : State} (h : s.PadsInForm) (c : BitVec 4) (d : BitVec 6) (i : BitVec 11)
    (num : Xword) (sent : Sending) (single syn : BitVec 8) (double : BitVec 1) :
    LeavesForm (execVaultBurstDone c d i num sent single syn double s) := by
  dsimp only [execVaultBurstDone]
  (repeat' split) <;> simp [h]
@[simp] theorem execLanetestDone_leavesForm {s : State} (h : s.PadsInForm) (c : BitVec 4) (d : BitVec 6) (i : BitVec 11)
    (num : Xword) (found group : BitVec 1) (lane : BitVec 5) :
    LeavesForm (execLanetestDone c d i num found group lane s) := by
  dsimp only [execLanetestDone]
  (repeat' split) <;> simp [h]
@[simp] theorem execSelfRefresh_leavesForm {s : State} (h : s.PadsInForm) (p : BitVec 6) :
    LeavesForm (execSelfRefresh p s) := by simp [execSelfRefresh, h]
@[simp] theorem State.refreshHold_padsInForm (s : State) (c : BitVec 4) (d : Nat) (least held : Nat) :
    (s.refreshHold c d least held).PadsInForm ↔ s.PadsInForm := by simp [State.refreshHold]
@[simp] theorem execEmergencyRefresh_leavesForm {s : State} (h : s.PadsInForm) (p : BitVec 6) (i : BitVec 11) (r : BitVec 12)
    (held : Xword) :
    LeavesForm (execEmergencyRefresh p i r held s) := by
  unfold execEmergencyRefresh
  (repeat' split) <;> simp [h]

/-! #### Tiles that run -/

@[simp] theorem Cell.onTile_pad (x : Cell) (id : Nat) (f : Tile → Tile) : (x.onTile id f).pad = x.pad := by simp [Cell.onTile]
@[simp] theorem State.onCell_padsInForm {s : State} {c : BitVec 4} {d i : Nat} {f : Cell → Cell} (hf : ∀ x, (f x).pad = x.pad) :
    (s.onCell c d i f).PadsInForm ↔ s.PadsInForm := State.onCtx_padsInForm (Ctx.onCell_padsInForm hf)
@[simp] theorem Cell.passEnd_pad (x : Cell) (seed : Nat) (t : Tile) : (x.passEnd seed t).pad = x.pad := by simp [Cell.passEnd]
@[simp] theorem execTileVerdict_leavesForm {s : State} (h : s.PadsInForm) (c : BitVec 4) (d : BitVec 6) (i : BitVec 11) :
    LeavesForm (execTileVerdict c d i s) := by
  refine (leavesForm_next _).mpr (h.guarded ((State.onCell_padsInForm fun x => ?_).mpr (State.padsInForm_mk.mpr (State.padsInForm_iff.mp h))))
  split <;> simp
@[simp] theorem Cell.replayPass_pad (x : Cell) (t : Tile) : (x.replayPass t).pad = x.pad := by simp [Cell.replayPass]
@[simp] theorem Cell.startPass_pad (x : Cell) (t : Tile) : (x.startPass t).pad = x.pad := by
  unfold Cell.startPass
  split <;> simp
@[simp] theorem execReplay_leavesForm {s : State} (h : s.PadsInForm) (c : BitVec 4) (d : BitVec 6) (i : BitVec 11) :
    LeavesForm (execReplay c d i s) := by
  refine (leavesForm_next _).mpr (h.guarded ((State.onCell_padsInForm fun x => ?_).mpr h))
  split
  · rfl
  · split <;> simp
@[simp] theorem Cell.replayOrder_pad (tag : Nat) (x : Cell) : (Cell.replayOrder tag x).pad = x.pad := by simp [Cell.replayOrder]
@[simp] theorem Ctx.startPasses_diesInForm (y : Ctx) (tag : Nat) : DiesInForm (y.startPasses tag).dies ↔ DiesInForm y.dies := by
  unfold Ctx.startPasses
  split
  · exact Iff.rfl
  · exact diesInForm_map fun z => and_congr_left' (cellsInForm_map fun q => Cell.startPasses_pad tag q)
@[simp] theorem execReplayOrder_leavesForm {s : State} (h : s.PadsInForm) (c : BitVec 4) (wait : Xword) :
    LeavesForm (execReplayOrder c wait s) := by
  refine (leavesForm_next _).mpr ?_
  split
  · exact h
  · refine h.guarded (h.keepCtx c fun y hy => (Ctx.startPasses_diesInForm ..).mpr ?_)
    simpa using hy
theorem Cell.imageDone_wf {x : Cell} (h : Mem.wf x.pad = true) (t : Tile) (side a b : Bool) (img : List Byte) :
    Mem.wf (x.imageDone t side a b img).pad = true := Mem.putBytes_wf h _ img
@[simp] theorem Ctx.afterImage_diesInForm (y : Ctx) (d i : Nat) (t : Tile) :
    DiesInForm (y.afterImage d i t).dies ↔ DiesInForm y.dies := by
  unfold Ctx.afterImage
  split
  · exact Ctx.startPasses_diesInForm ..
  · refine Ctx.onCell_padsInForm fun x => ?_
    split <;> simp
@[simp] theorem State.PadsInForm.twinFetch {s : State} (h : s.PadsInForm) (c : BitVec 4) (d i : Nat) (x : Cell) (t : Tile)
    (a b : Bool) :
    (s.twinFetch c d i x t a b).PadsInForm := by
  unfold State.twinFetch
  refine State.PadsInForm.ite (h.kill c _) (h.ite ?_)
  split
  · next l _ =>
    have himg := h.keepCtx c (f := fun y => y.onCell d i fun x => x.imageDone t (!a) a b (s.readParts l)) fun _ hy =>
      hy.onCell d i fun _ hx => Cell.imageDone_wf hx ..
    exact (State.onCtx_padsInForm (Ctx.afterImage_diesInForm ..)).mpr himg
  · dsimp only
    split
    · exact (State.onCell_padsInForm (by simp)).mpr (h.parkReq ..)
    · exact h.parkReq ..
  · exact h
@[simp] theorem execTwinFetchDone_leavesForm {s : State} (h : s.PadsInForm) (c : BitVec 4) (d : BitVec 6) (i : BitVec 11) :
    LeavesForm (execTwinFetchDone c d i s) := by
  unfold execTwinFetchDone
  (repeat' split) <;> simp [h]
@[simp] theorem execTileRetire_leavesForm {s : State} (h : s.PadsInForm) (c : BitVec 4) (d : BitVec 6) (i : BitVec 11) :
    LeavesForm (execTileRetire c d i s) := by
  refine (leavesForm_next _).mpr ?_
  split
  · exact h
  · exact h.guarded (State.PadsInForm.keepCtx ((State.onCell_padsInForm fun x => x.retireTile_pad _).mpr h) c fun _ hy => hy)

/-! #### Events of the translation -/

@[simp] theorem execHandleStagingWrite_leavesForm {s : State} (hs : s.PadsInForm) (h : BitVec 12) (w : BitVec 2)
    (be : BitVec 8) (v : Xword) :
    LeavesForm (execHandleStagingWrite h w be v s) := by simp [execHandleStagingWrite, hs]
@[simp] theorem execHandleCommit_leavesForm {s : State} (hs : s.PadsInForm) (h : BitVec 12) (be : BitVec 8) (v : Xword) :
    LeavesForm (execHandleCommit h be v s) := by simp [execHandleCommit, hs]
@[simp] theorem execCommitComplete_leavesForm {s : State} (hs : s.PadsInForm) (h : BitVec 12) :
    LeavesForm (execCommitComplete h s) := by simp [execCommitComplete, hs]
@[simp] theorem execRgo_leavesForm {s : State} (h : s.PadsInForm) : LeavesForm (execRgo s) := by simp [execRgo, h]
@[simp] theorem execRelocationComplete_leavesForm {s : State} (h : s.PadsInForm) : LeavesForm (execRelocationComplete s) := by
  unfold execRelocationComplete
  (repeat' split) <;> simp [h]
@[simp] theorem execPtrootWrite_leavesForm {s : State} (h : s.PadsInForm) (v : Xword) :
    LeavesForm (execPtrootWrite v s) := by simp [execPtrootWrite, h]
@[simp] theorem execTinvctlGo_leavesForm {s : State} (h : s.PadsInForm) (all : BitVec 1) :
    LeavesForm (execTinvctlGo all s) := by simp [execTinvctlGo, h]
@[simp] theorem execInvalidationDone_leavesForm {s : State} (h : s.PadsInForm) :
    LeavesForm (execInvalidationDone s) := by simp [execInvalidationDone, h]
@[simp] theorem State.moveCmds_padsInForm (s : State) (c : BitVec 4) (d : Nat) (old : CmdSt) (new : Option CmdSt) :
    (s.moveCmds c d old new).PadsInForm ↔ s.PadsInForm := by simp [State.moveCmds]
@[simp] theorem execWalkComplete_leavesForm {s : State} (h : s.PadsInForm) (p : BitVec 6) (page : BitVec 45) :
    LeavesForm (execWalkComplete p page s) := by
  dsimp only [execWalkComplete]
  (repeat' split) <;> simp [h]
@[simp] theorem State.restartWalk_padsInForm (s : State) (p : BitVec 6) (w : Walk) (id : BitVec 12) :
    (s.restartWalk p w id).PadsInForm ↔ s.PadsInForm := by simp [State.restartWalk]

/-! #### Events of the trap queue -/

@[simp] theorem State.PadsInForm.retryPark {s : State} (h : s.PadsInForm) (p : Park) : (s.retryPark p).PadsInForm := by
  unfold State.retryPark
  split <;> simp [h]
@[simp] theorem State.PadsInForm.serviceRetry {s : State} (h : s.PadsInForm) (id : BitVec 12) :
    (s.serviceRetry id).PadsInForm := by
  unfold State.serviceRetry
  split <;> simp [h]
@[simp] theorem State.PadsInForm.serviceKill {s : State} (h : s.PadsInForm) (id : BitVec 12) : (s.serviceKill id).PadsInForm := by
  unfold State.serviceKill
  split <;> simp [h]
@[simp] theorem execTqserviceRetry_leavesForm {s : State} (h : s.PadsInForm) (id : BitVec 12) :
    LeavesForm (execTqserviceRetry id s) := by simp [execTqserviceRetry, h]
@[simp] theorem execTqserviceKill_leavesForm {s : State} (h : s.PadsInForm) (id : BitVec 12) :
    LeavesForm (execTqserviceKill id s) := by simp [execTqserviceKill, h]
@[simp] theorem State.tqHead_padsInForm (s : State) (h : BitVec 32) :
    (s.tqHead h).PadsInForm ↔ s.PadsInForm := by simp [State.tqHead]
@[simp] theorem execTqHeadWrite_leavesForm {s : State} (hs : s.PadsInForm) (h : BitVec 32) :
    LeavesForm (execTqHeadWrite h s) := by simp [execTqHeadWrite, hs]
@[simp] theorem execTrapRecordWriteFail_leavesForm {s : State} (h : s.PadsInForm) : LeavesForm (execTrapRecordWriteFail s) := by
  dsimp only [execTrapRecordWriteFail]
  split <;> simp [h]
@[simp] theorem State.tqResume_padsInForm (s : State) : s.tqResume.PadsInForm ↔ s.PadsInForm := by
  unfold State.tqResume
  split <;> simp
@[simp] theorem execResume_leavesForm {s : State} (h : s.PadsInForm) : LeavesForm (execResume s) := by simp [execResume, h]
@[simp] theorem State.tqEnable_padsInForm (s : State) (on : Bool) : (s.tqEnable on).PadsInForm ↔ s.PadsInForm := by
  unfold State.tqEnable
  split <;> simp
@[simp] theorem execTqEnable_leavesForm {s : State} (h : s.PadsInForm) (on : BitVec 1) :
    LeavesForm (execTqEnable on s) := by simp [execTqEnable, h]
@[simp] theorem execContextDead_leavesForm {s : State} (h : s.PadsInForm) (c : BitVec 4) (r : DeathReport) :
    LeavesForm (execContextDead c r s) := by
  unfold execContextDead
  split <;> simp [h]
@[simp] theorem State.spoilSave_padsInForm (s : State) (x : Slot) : (s.spoilSave x).PadsInForm ↔ s.PadsInForm := by
  unfold State.spoilSave
  (repeat' split) <;> simp
@[simp] theorem State.PadsInForm.hostKill {s : State} (h : s.PadsInForm) (c : BitVec 4) :
    (s.hostKill c).PadsInForm := by simp [State.hostKill, h]
@[simp] theorem execKill_leavesForm {s : State} (h : s.PadsInForm) (c : BitVec 4) :
    LeavesForm (execKill c s) := by simp [execKill, h]
@[simp] theorem execWatchdog_leavesForm {s : State} (h : s.PadsInForm) (c : BitVec 4) :
    LeavesForm (execWatchdog c s) := by simp [execWatchdog, h]
@[simp] theorem execTrig_leavesForm {s : State} (h : s.PadsInForm) : LeavesForm (execTrig s) := by simp [execTrig, h]
@[simp] theorem State.padsInForm_arm (s : State) : s.arm.PadsInForm ↔ s.PadsInForm := by simp [State.arm]
@[simp] theorem execArm_leavesForm {s : State} (h : s.PadsInForm) : LeavesForm (execArm s) := by simp [execArm, h]
@[simp] theorem State.unmask_padsInForm (s : State) (v : Nat) : (s.unmask v).PadsInForm ↔ s.PadsInForm := by
  unfold State.unmask
  split <;> simp
@[simp] theorem execVectorUnmask_leavesForm {s : State} (h : s.PadsInForm) (v : BitVec 7) :
    LeavesForm (execVectorUnmask v s) := by simp [execVectorUnmask, h]

/-! #### Register writes -/

@[simp] theorem State.PadsInForm.writePower {s : State} (h : s.PadsInForm) (o : Nat) (v : Xword) :
    (s.writePower o v).PadsInForm := by
  unfold State.writePower
  (repeat' split) <;> simp [h]
@[simp] theorem State.writeMsix_padsInForm (s : State) (o : Nat) (v : Xword) : (s.writeMsix o v).PadsInForm ↔ s.PadsInForm := by
  dsimp only [State.writeMsix]
  (repeat' split) <;> simp
@[simp] theorem State.PadsInForm.writeQueues {s : State} (h : s.PadsInForm) (o : Nat) (v : Xword) :
    (s.writeQueues o v).PadsInForm := by
  unfold State.writeQueues
  (repeat' split) <;> simp [h]
@[simp] theorem State.tqControl_padsInForm (s : State) (v : Xword) : (s.tqControl v).PadsInForm ↔ s.PadsInForm := by
  unfold State.tqControl
  split <;> simp
@[simp] theorem State.PadsInForm.writeSched {s : State} (h : s.PadsInForm) (o : Nat) (v : Xword) :
    (s.writeSched o v).PadsInForm := by
  unfold State.writeSched
  (repeat' split) <;> simp [h]
@[simp] theorem State.writeLinks_padsInForm (s : State) (o : Nat) (v : Xword) : (s.writeLinks o v).PadsInForm ↔ s.PadsInForm := by
  unfold State.writeLinks
  (repeat' split) <;> simp
@[simp] theorem State.writeBoot_padsInForm (s : State) (o : Nat) (v : Xword) : (s.writeBoot o v).PadsInForm ↔ s.PadsInForm := by
  unfold State.writeBoot
  (repeat' split) <;> simp
@[simp] theorem State.writeSnap_padsInForm (s : State) (o : Nat) (v : Xword) : (s.writeSnap o v).PadsInForm ↔ s.PadsInForm := by
  unfold State.writeSnap
  (repeat' split) <;> simp
@[simp] theorem execRegisterWrite_leavesForm {s : State} (h : s.PadsInForm) (o : BitVec 25) (w : HostWord) :
    LeavesForm (execRegisterWrite o w s) := by
  dsimp only [execRegisterWrite]
  (repeat' split) <;> simp [h]

/-! #### Integer vectors -/

@[simp] theorem execVabs_leavesForm {s : State} (h : s.PadsInForm) (t : BitVec 2) (d a : BitVec 5) (m : BitVec 3) :
    LeavesForm (execVabs t d a m s) := by
  refine onCells_leavesForm (ifActive_keepsForm fun env pre post hq => ?_) h
  simp [hq]
@[simp] theorem execVcellid_leavesForm {s : State} (h : s.PadsInForm) (t : BitVec 2) (d : BitVec 5) (m : BitVec 3)
    (f : BitVec 2) :
    LeavesForm (execVcellid t d m f s) := by
  refine onCells_leavesForm (ifActive_keepsForm fun env pre post hq => ?_) h
  simp [hq]

/-! #### Masks and activity -/

@[simp] theorem execVpushact_leavesForm {s : State} (h : s.PadsInForm) (k : BitVec 2) : LeavesForm (execVpushact k s) := by
  refine onCells_leavesForm (fun env pre post hq => ?_) h
  split <;> simp [hq]
@[simp] theorem execVelse_leavesForm {s : State} (h : s.PadsInForm)  : LeavesForm (execVelse s) := by
  refine onCells_leavesForm (fun env pre post hq => ?_) h
  split <;> simp [hq]
@[simp] theorem execVpopact_leavesForm {s : State} (h : s.PadsInForm)  : LeavesForm (execVpopact s) := by
  refine onCells_leavesForm (fun env pre post hq => ?_) h
  split <;> simp [hq]

/-! #### Floating-point vectors -/

theorem fpLanes_leavesForm {t : Nat} {d : BitVec 5} {m : BitVec 3} {res : FpCtl → Cell → Nat → Nat × Flags5} {s : State}
    (h : s.PadsInForm) : LeavesForm (onCells (fpLanes t d m res) s) :=
  onCells_leavesForm (ifActive_keepsForm fun _ _ _ hq => by exact fpVec_resForm hq) h
@[simp] theorem execVfcmp_leavesForm {s : State} (h : s.PadsInForm) (t : BitVec 4) (d : BitVec 3) (a b : BitVec 5)
    (m : BitVec 3) (c : BitVec 2) (x : Option Word) :
    LeavesForm (execVfcmp t d a b m c x s) := by
  refine onCells_leavesForm (ifActive_keepsForm fun env pre post hq => ?_) h
  simp [hq]
@[simp] theorem execVfrsum_leavesForm {s : State} (h : s.PadsInForm) (t : BitVec 4) (d a : BitVec 5) (m : BitVec 3) :
    LeavesForm (execVfrsum t d a m s) := by
  refine onCells_leavesForm (ifActive_keepsForm fun env pre post hq => ?_) h
  simp [hq]

/-! #### Conversions -/

@[simp] theorem execVcvt_leavesForm {s : State} (h : s.PadsInForm) (t : BitVec 4) (d a : BitVec 5) (m : BitVec 3)
    (y : BitVec 4) (sat : BitVec 1) (r : BitVec 3) (p : BitVec 4) :
    LeavesForm (execVcvt t d a m y sat r p s) := by
  refine onCells_leavesForm (ifActive_keepsForm fun env pre post hq => ?_) h
  dsimp only
  split <;> simp [hq]

/-! #### Scratchpad loads and stores -/

theorem foldl_set_wf {p : Mem} (h : Mem.wf p = true) (l : List (Nat × Byte)) :
    Mem.wf (l.foldl (fun p b => p.set b.1 b.2) p) = true := by
  induction l generalizing p with
  | nil => exact h
  | cons b l ih => exact ih (Mem.set_wf h ..)
@[simp] theorem execVld_leavesForm {s : State} (h : s.PadsInForm) (t : BitVec 4) (d : BitVec 5) (a : BitVec 4) (m : BitVec 3)
    (x : Option Word) :
    LeavesForm (execVld t d a m x s) := by
  refine onCells_leavesForm (ifActive_keepsForm fun env pre post hq => ?_) h
  dsimp only
  split <;> simp [hq]
@[simp] theorem execVst_leavesForm {s : State} (h : s.PadsInForm) (t : BitVec 4) (d : BitVec 5) (a : BitVec 4) (m : BitVec 3)
    (x : Option Word) :
    LeavesForm (execVst t d a m x s) := by
  refine onCells_leavesForm (ifActive_keepsForm fun env pre post hq => ?_) h
  dsimp only
  split
  · exact resForm_error _
  · exact (resForm_ok _).mpr (foldl_set_wf hq _)
@[simp] theorem execVlds_leavesForm {s : State} (h : s.PadsInForm) (t : BitVec 4) (d : BitVec 5) (a b : BitVec 4)
    (m : BitVec 3) (x : Option Word) :
    LeavesForm (execVlds t d a b m x s) := by
  refine onCells_leavesForm (ifActive_keepsForm fun env pre post hq => ?_) h
  dsimp only
  split <;> simp [hq]
theorem storeLanes_wf {p : Mem} (h : Mem.wf p = true) (n : Nat) (ls : List (Nat × Nat)) : Mem.wf (storeLanes p n ls) = true := by
  induction ls generalizing p with
  | nil => exact h
  | cons e ls ih => exact ih (Mem.write_wf h ..)
@[simp] theorem execVsts_leavesForm {s : State} (h : s.PadsInForm) (t : BitVec 4) (d : BitVec 5) (a b : BitVec 4)
    (m : BitVec 3) (x : Option Word) :
    LeavesForm (execVsts t d a b m x s) := by
  refine onCells_leavesForm (ifActive_keepsForm fun env pre post hq => ?_) h
  dsimp only
  split
  · exact resForm_error _
  · exact (resForm_ok _).mpr (storeLanes_wf hq _ _)
@[simp] theorem execVgath_leavesForm {s : State} (h : s.PadsInForm) (t : BitVec 4) (d : BitVec 5) (a : BitVec 4)
    (b : BitVec 5) (m : BitVec 3) (c : BitVec 1) (x : Option Word) :
    LeavesForm (execVgath t d a b m c x s) := by
  refine onCells_leavesForm (ifActive_keepsForm fun env pre post hq => ?_) h
  dsimp only
  split <;> simp [hq]
@[simp] theorem execVscat_leavesForm {s : State} (h : s.PadsInForm) (t : BitVec 4) (d : BitVec 5) (a : BitVec 4)
    (b : BitVec 5) (m : BitVec 3)
    (c : BitVec 1) (x : Option Word) : LeavesForm (execVscat t d a b m c x s) := by
  refine onCells_leavesForm (ifActive_keepsForm fun env pre post hq => ?_) h
  dsimp only
  split
  · exact resForm_error _
  · exact (resForm_ok _).mpr (storeLanes_wf hq _ _)
theorem foldl_writeAt_wf {α : Type} {n : Nat} {place val : α → Nat} {p : Mem} (h : Mem.wf p = true) (l : List α) :
    Mem.wf (l.foldl (fun p e => p.write (place e) n (val e)) p) = true := by
  induction l generalizing p with
  | nil => exact h
  | cons e l ih => exact ih (Mem.write_wf h ..)
@[simp] theorem execVscata_leavesForm {s : State} (h : s.PadsInForm) (t : BitVec 4) (d : BitVec 5) (a : BitVec 4)
    (b : BitVec 5) (m : BitVec 3)
    (c : BitVec 1) (x : Option Word) : LeavesForm (execVscata t d a b m c x s) := by
  refine onCells_leavesForm (ifActive_keepsForm fun env pre post hq => ?_) h
  dsimp only
  split
  · exact resForm_error _
  · split
    · exact resForm_error _
    · exact (resForm_ok _).mpr (foldl_writeAt_wf hq _)
@[simp] theorem execBld_leavesForm {s : State} (h : s.PadsInForm) (d a : BitVec 4) (x : Option Word) :
    LeavesForm (execBld d a x s) := by
  refine onCells_leavesForm (ifActive_keepsForm fun env pre post hq => ?_) h
  dsimp only
  split <;> simp [hq]
@[simp] theorem execBst_leavesForm {s : State} (h : s.PadsInForm) (d a : BitVec 4) (x : Option Word) :
    LeavesForm (execBst d a x s) := by
  refine onCells_leavesForm (ifActive_keepsForm fun env pre post hq => ?_) h
  dsimp only
  split
  · exact resForm_error _
  · exact (resForm_ok _).mpr (Mem.write_wf hq ..)

/-! #### Vault commands -/

theorem vaultCmd_leavesForm {b : BitVec 4} {e : BitVec 1} {jo : BitVec 6} {x : Int}
    {chk : Cell → Cell → Xword → List (Option CellFault)}
    {st : Cell → Xword → Start} {rows : Cell → Xword → Cell} (hrows : ∀ q a, (rows q a).pad = q.pad) {s : State} (h : s.PadsInForm) :
    LeavesForm (onCells (vaultCmd b e jo x chk st rows) s) :=
  onCells_leavesForm (command_keepsForm fun env pre post hq => by
    dsimp only
    split
    · exact startForm_error _
    · exact (startForm_ok _).mpr ((hrows post _).symm ▸ hq)) h

/-! #### Every instruction and event -/

/-- Every instruction and event keeps the scratchpads in form. -/
theorem exec_leavesForm {s : State} (hs : s.PadsInForm) (i : Instr) : LeavesForm (exec i s) := by
  unfold exec
  cases i with
  | add | sub | mul | mulh | mulhu | div | divu | rem | remu | and | or | xor | shl | shr | sra | slt | sltu | min | max
    | clz | popc | addi | andi | ori | xori | shli | shri | srai | slti | lih => exact seqReg_leavesForm hs _ _ _
  | beq | bne | blt | bge | bltu | bgeu => exact branch_leavesForm hs _ _ _ _ _
  | ld | ldu => exact load_leavesForm hs _ _ _ _ _
  | barr | bard => exact arriveHere_leavesForm hs _ _
  | ywaitf | ywaitfExt | ywaitt | ywaittB => exact syncWait_leavesForm hs _
  | dpermcfg | dtlmark | yfence | taccz | taccret | taccrd | taccwr | tcoat | qset | vadd | vsub | vmul | vmulh | vmin
    | vmax | vsadd | vssub | vabd | vand | vor | vxor | vshl | vshr | vsra | vmad | vneg | vnot | vclz | vpopc | vrsum
    | vrmax | vrmin | vmov | vmovi | vbroad | vsel | vshuf | vrotl | vext | vins | viota | vhash | badd | bsub | bmul
    | bshl | bshr | baddi | band | bor | bxor | bmov | bli | bcmp | vcmp | vtest | vmand | vmor | vmxor | vmnot | vmpopc
    | vfabs | vfneg | vfclass | vpack | vunpack | vqenc | vqdec => exact pureOp_leavesForm (fun _ _ _ h => by simpa using h) hs
  | vfadd | vfsub | vfmul | vfma | vfms | vfnma | vfdiv | vfsqrt | vfmin | vfmax | vfrcp | vfrsq | vfexp2 | vflog2 | vftanh
    | vscale => exact fpLanes_leavesForm hs
  | dvact | dvpre | dvrd | dvrdSp | dvwr | dvwrSp | dvref | dvlife => exact vaultCmd_leavesForm (by exact fun _ _ => rfl) hs
  | dscat | dscata => exact scatterOp_leavesForm hs
  | dgathSp | dscatSp | dscataSp => exact indexedOp_leavesForm hs
  | st a b z x => exact execSt_leavesForm hs a b z x
  | samo d a b u o z x => exact execSamo_leavesForm hs d a b u o z x
  | j o x => exact execJ_leavesForm hs o x
  | jal d o x => exact execJal_leavesForm hs d o x
  | jalr d a iv x => exact execJalr_leavesForm hs d a iv x
  | grd d k => exact execGrd_leavesForm hs d k
  | kset k a x => exact execKset_leavesForm hs k a x
  | diec d => exact execDiec_leavesForm hs d
  | spawn d a e jo => exact execSpawn_leavesForm hs d a e jo
  | tlrd d k iv => exact execTlrd_leavesForm hs d k iv
  | srr d n => exact execSrr_leavesForm hs d n
  | srw a n => exact execSrw_leavesForm hs a n
  | binit a jo => exact execBinit_leavesForm hs a jo
  | bwait d jo => exact execBwait_leavesForm hs d jo
  | binv jo => exact execBinv_leavesForm hs jo
  | trap c x => exact execTrap_leavesForm hs c x
  | halt a => exact execHalt_leavesForm hs a
  | hostsig a o g => exact execHostsig_leavesForm hs a o g
  | podred d a o => exact execPodred_leavesForm hs d a o
  | vabs t d a m => exact execVabs_leavesForm hs t d a m
  | vcellid t d m f => exact execVcellid_leavesForm hs t d m f
  | vld t d a m x => exact execVld_leavesForm hs t d a m x
  | vst t d a m x => exact execVst_leavesForm hs t d a m x
  | vlds t d a b m x => exact execVlds_leavesForm hs t d a b m x
  | vsts t d a b m x => exact execVsts_leavesForm hs t d a b m x
  | vgath t d a b m c x => exact execVgath_leavesForm hs t d a b m c x
  | vscat t d a b m c x => exact execVscat_leavesForm hs t d a b m c x
  | vscata t d a b m c x => exact execVscata_leavesForm hs t d a b m c x
  | bld d a x => exact execBld_leavesForm hs d a x
  | bst d a x => exact execBst_leavesForm hs d a x
  | vpushact k => exact execVpushact_leavesForm hs k
  | vfcmp t d a b m c x => exact execVfcmp_leavesForm hs t d a b m c x
  | vcvt t d a m y sv r p => exact execVcvt_leavesForm hs t d a m y sv r p
  | vfrsum t d a m => exact execVfrsum_leavesForm hs t d a m
  | tmma c a b f g x y => exact execTmma_leavesForm hs c a b f g x y
  | tmma64 c a b x y => exact execTmma64_leavesForm hs c a b x y
  | taccld c a f r x => exact execTaccld_leavesForm hs c a f r x
  | taccst c a f r x => exact execTaccst_leavesForm hs c a f r x
  | tmon d sv l => exact execTmon_leavesForm hs d sv l
  | qcommit q n => exact execQcommit_leavesForm hs q n
  | qpop q n => exact execQpop_leavesForm hs q n
  | qstat q d l => exact execQstat_leavesForm hs q d l
  | qtwin q k iv => exact execQtwin_leavesForm hs q k iv
  | dcopy l d sv e jo o => exact execDcopy_leavesForm hs l d sv e jo o
  | dshape d k f x => exact execDshape_leavesForm hs d k f x
  | dgath l d b e jo c w f n => exact execDgath_leavesForm hs l d b e jo c w f n
  | dst l d b e jo w x => exact execDst_leavesForm hs l d b e jo w x
  | dstv l d b e jo x => exact execDstv_leavesForm hs l d b e jo x
  | dld l d b e jo f n => exact execDld_leavesForm hs l d b e jo f n
  | datom l w d b e jo o x => exact execDatom_leavesForm hs l w d b e jo o x
  | datomRet l w d b e jo o f n => exact execDatomRet_leavesForm hs l w d b e jo o f n
  | dperm sv b e jo x => exact execDperm_leavesForm hs sv b e jo x
  | dred sv g o => exact execDred_leavesForm hs sv g o
  | ypostf k n => exact execYpostf_leavesForm hs k n
  | ylock m n => exact execYlock_leavesForm hs m n
  | ymark c => exact execYmark_leavesForm hs c
  | podAccessArrival a => exact execPodAccessArrival_leavesForm hs a
  | podMessageArrival msg => exact execPodMessageArrival_leavesForm hs msg
  | podRoundTimeout slot => exact execPodRoundTimeout_leavesForm hs slot
  | packetStage queue fail => exact execPacketStage_leavesForm hs queue fail
  | launch queue => exact execLaunch_leavesForm hs queue
  | wait queue => exact execWait_leavesForm hs queue
  | waitTimeout queue => exact execWaitTimeout_leavesForm hs queue
  | signal queue => exact execSignal_leavesForm hs queue
  | hcopy queue => exact execHcopy_leavesForm hs queue
  | hcopyComplete queue index => exact execHcopyComplete_leavesForm hs queue index
  | fence queue => exact execFence_leavesForm hs queue
  | mark queue => exact execMark_leavesForm hs queue
  | destroyDrainDone queue => exact execDestroyDrainDone_leavesForm hs queue
  | preemptLimitExpiry slot => exact execPreemptLimitExpiry_leavesForm hs slot
  | saveComplete slot fail => exact execSaveComplete_leavesForm hs slot fail
  | restoreComplete slot fail => exact execRestoreComplete_leavesForm hs slot fail
  | stepDecision slot => exact execStepDecision_leavesForm hs slot
  | bundleFetch slot ahead => exact execBundleFetch_leavesForm hs slot ahead
  | bundleIssue slot => exact execBundleIssue_leavesForm hs slot
  | bundleRetire slot die => exact execBundleRetire_leavesForm hs slot die
  | barrierRelease slot => exact execBarrierRelease_leavesForm hs slot
  | cellFault slot die => exact execCellFault_leavesForm hs slot die
  | freeze slot => exact execFreeze_leavesForm hs slot
  | freezeDrainDone slot => exact execFreezeDrainDone_leavesForm hs slot
  | landing slot die => exact execLanding_leavesForm hs slot die
  | landingDataArrival slot die held => exact execLandingDataArrival_leavesForm hs slot die held
  | staggerStart slot region => exact execStaggerStart_leavesForm hs slot region
  | commitComplete handle => exact execCommitComplete_leavesForm hs handle
  | walkComplete die page => exact execWalkComplete_leavesForm hs die page
  | vaultCommandStart slot die cell num => exact execVaultCommandStart_leavesForm hs slot die cell num
  | vaultBurstDone slot die cell num pass single syndrome double => exact execVaultBurstDone_leavesForm hs slot die cell num pass single syndrome double
  | streamArrival slot die cell num => exact execStreamArrival_leavesForm hs slot die cell num
  | streamResend slot die cell num => exact execStreamResend_leavesForm hs slot die cell num
  | streamAck slot die cell num => exact execStreamAck_leavesForm hs slot die cell num
  | engineCommandComplete slot die cell tl num => exact execEngineCommandComplete_leavesForm hs slot die cell tl num
  | syncWaitComplete slot die => exact execSyncWaitComplete_leavesForm hs slot die
  | dscataApply slot bsn => exact execDscataApply_leavesForm hs slot bsn
  | tileVerdict slot die cell => exact execTileVerdict_leavesForm hs slot die cell
  | replay slot die cell => exact execReplay_leavesForm hs slot die cell
  | replayOrder slot held => exact execReplayOrder_leavesForm hs slot held
  | twinFetchDone slot die cell => exact execTwinFetchDone_leavesForm hs slot die cell
  | tileRetire slot die cell => exact execTileRetire_leavesForm hs slot die cell
  | deadDrainDone slot => exact execDeadDrainDone_leavesForm hs slot
  | watchdog slot => exact execWatchdog_leavesForm hs slot
  | contextEnd slot => exact execContextEnd_leavesForm hs slot
  | treeResult slot => exact execTreeResult_leavesForm hs slot
  | sequencerAccessComplete slot => exact execSequencerAccessComplete_leavesForm hs slot
  | emergencyRefresh die cell row held => exact execEmergencyRefresh_leavesForm hs die cell row held
  | powerOn => exact execPowerOn_leavesForm hs
  | powerRegionBringup pr => exact execPowerRegionBringup_leavesForm hs pr
  | perst => exact execPerst_leavesForm hs
  | functionLevelReset => exact execFunctionLevelReset_leavesForm hs
  | recoveryPin => exact execRecoveryPin_leavesForm hs
  | warm => exact execWarm_leavesForm hs
  | cold => exact execCold_leavesForm hs
  | resetHostTimeout => exact execResetHostTimeout_leavesForm hs
  | resetComplete => exact execResetComplete_leavesForm hs
  | tempSample col temp => exact execTempSample_leavesForm hs col temp
  | thermalTrip col => exact execThermalTrip_leavesForm hs col
  | plimThrottle watts => exact execPlimThrottle_leavesForm hs watts
  | d3hotEntry => exact execD3hotEntry_leavesForm hs
  | hostRequestError slot die cell addr => exact execHostRequestError_leavesForm hs slot die cell addr
  | linkTrainingDone link lanes => exact execLinkTrainingDone_leavesForm hs link lanes
  | linkLoss link => exact execLinkLoss_leavesForm hs link
  | retrain link => exact execRetrain_leavesForm hs link
  | linkEnable link on => exact execLinkEnable_leavesForm hs link on
  | replayBufferDrained link => exact execReplayBufferDrained_leavesForm hs link
  | podcfgWrite value => exact execPodcfgWrite_leavesForm hs value
  | flitCrcFail link => exact execFlitCrcFail_leavesForm hs link
  | flitArrival dest src hops body => exact execFlitArrival_leavesForm hs dest src hops body
  | podAccessTimeout => exact execPodAccessTimeout_leavesForm hs
  | status => exact execStatus_leavesForm hs
  | enroll hash minver => exact execEnroll_leavesForm hs hash minver
  | strip nonce => exact execStrip_leavesForm hs nonce
  | recover => exact execRecover_leavesForm hs
  | readrec => exact execReadrec_leavesForm hs
  | quote nonce => exact execQuote_leavesForm hs nonce
  | readid => exact execReadid_leavesForm hs
  | baseupd image => exact execBaseupd_leavesForm hs image
  | fwctlGo => exact execFwctlGo_leavesForm hs
  | keycmdLoad => exact execKeycmdLoad_leavesForm hs
  | keycmdZero => exact execKeycmdZero_leavesForm hs
  | qctlGo => exact execQctlGo_leavesForm hs
  | quoteDone => exact execQuoteDone_leavesForm hs
  | doorbell queue tail => exact execDoorbell_leavesForm hs queue tail
  | hcopyFault queue index bytes => exact execHcopyFault_leavesForm hs queue index bytes
  | recordWriteFail queue => exact execRecordWriteFail_leavesForm hs queue
  | enable queue => exact execEnable_leavesForm hs queue
  | destroy queue => exact execDestroy_leavesForm hs queue
  | retry queue => exact execRetry_leavesForm hs queue
  | skip queue => exact execSkip_leavesForm hs queue
  | sigobjWrite obj value => exact execSigobjWrite_leavesForm hs obj value
  | schedulerDecision => exact execSchedulerDecision_leavesForm hs
  | kill slot => exact execKill_leavesForm hs slot
  | droopReport die level => exact execDroopReport_leavesForm hs die level
  | tripHoldExpiry die again => exact execTripHoldExpiry_leavesForm hs die again
  | regionThrottle region on cycles => exact execRegionThrottle_leavesForm hs region on cycles
  | handleStagingWrite handle word lanes value => exact execHandleStagingWrite_leavesForm hs handle word lanes value
  | handleCommit handle lanes value => exact execHandleCommit_leavesForm hs handle lanes value
  | rgo => exact execRgo_leavesForm hs
  | ptrootWrite value => exact execPtrootWrite_leavesForm hs value
  | tinvctlGo all => exact execTinvctlGo_leavesForm hs all
  | invalidationDone => exact execInvalidationDone_leavesForm hs
  | lanetestDone slot die cell num found group lane => exact execLanetestDone_leavesForm hs slot die cell num found group lane
  | selfRefresh die => exact execSelfRefresh_leavesForm hs die
  | dpermDeadline slot held => exact execDpermDeadline_leavesForm hs slot held
  | tqserviceRetry park => exact execTqserviceRetry_leavesForm hs park
  | tqserviceKill park => exact execTqserviceKill_leavesForm hs park
  | tqHeadWrite head => exact execTqHeadWrite_leavesForm hs head
  | trapRecordWriteFail => exact execTrapRecordWriteFail_leavesForm hs
  | resume => exact execResume_leavesForm hs
  | tqEnable on => exact execTqEnable_leavesForm hs on
  | contextDead slot cause => exact execContextDead_leavesForm hs slot cause
  | trig => exact execTrig_leavesForm hs
  | arm => exact execArm_leavesForm hs
  | registerWrite offset value => exact execRegisterWrite_leavesForm hs offset value
  | d0Entry => exact execD0Entry_leavesForm hs
  | vectorUnmask vector => exact execVectorUnmask_leavesForm hs vector
  | peerIdentity link valid devnum peer => exact execPeerIdentity_leavesForm hs link valid devnum peer
  | i3cNak code => exact execI3cNak_leavesForm hs code
  | fwLoadDone fail => exact execFwLoadDone_leavesForm hs fail
  | relocationComplete => exact execRelocationComplete_leavesForm hs
  | step => exact execStep_leavesForm hs
  | fenceS => exact execFenceS_leavesForm hs
  | eret => exact execEret_leavesForm hs
  | podbar => exact execPodbar_leavesForm hs
  | velse => exact execVelse_leavesForm hs
  | vpopact => exact execVpopact_leavesForm hs
  | yyield => exact execYyield_leavesForm hs
  | ybar => exact execYbar_leavesForm hs

/-! #### The outside world -/

@[simp] theorem Ctx.idle_diesInForm (y : Ctx) (d k : Nat) : DiesInForm (y.idle d k).dies ↔ DiesInForm y.dies := by
  unfold Ctx.idle
  split
  · exact diesInForm_map (f := fun x => { x with cyc := x.cyc + _ }) fun _ => Iff.rfl
  · split
    · refine Ctx.onDie_padsInForm fun z => ?_
      split <;> exact Iff.rfl
    · exact Iff.rfl
@[simp] theorem State.PadsInForm.outside {s : State} (h : s.PadsInForm) (o : Outside) : (s.outside o).PadsInForm := by
  unfold State.outside
  split
  · exact h
  · exact State.padsInForm_mk.mpr (State.padsInForm_iff.mp h)
  · exact h.guarded (by simp [h])
  · exact State.padsInForm_mk.mpr (State.padsInForm_iff.mp h)
  · exact State.padsInForm_mk.mpr (State.padsInForm_iff.mp h)
  · exact h.guarded (h.keepCtx _ fun y => (Ctx.idle_diesInForm y _ _).mpr)
  · refine h.guarded ?_
    split
    · exact h
    · simp [h]

/-! #### A step -/

@[simp] theorem State.deliver_padsInForm (s : State) (p : Posted) : (s.deliver p).PadsInForm ↔ s.PadsInForm := by
  unfold State.deliver
  (repeat' split) <;> simp
@[simp] theorem State.settle_padsInForm (s : State) : s.settle.PadsInForm ↔ s.PadsInForm := by
  unfold State.settle
  split <;> simp
@[simp] theorem State.PadsInForm.tick {s : State} (h : s.PadsInForm) : s.tick.PadsInForm := by
  dsimp only [State.tick]
  split <;> simp [h]
theorem runWork_leavesForm {l : List (SlotName × Instr)} {s : State} (h : s.PadsInForm) : LeavesForm (runWork l s) := by
  induction l generalizing s with
  | nil => exact (leavesForm_next s).mpr h
  | cons p r ih =>
    obtain ⟨n, i⟩ := p
    unfold runWork
    split
    · exact (leavesForm_next s).mpr h
    · next f hf =>
      split
      · exact (leavesForm_next s).mpr h
      · have ht : ({ s with work := r, focus := some { f with now := n } } : State).PadsInForm :=
          State.padsInForm_mk.mpr ⟨h.slots, h.pdies, focusInForm_some.mpr (h.inHand f hf)⟩
        split
        · next t hnext => exact ih (exec_leavesForm ht i t hnext)
        · exact leavesForm_fault _
        · exact leavesForm_refused _
theorem afterEvent_leavesForm {o : Out} (h : LeavesForm o) : LeavesForm (afterEvent o) := by
  cases o with
  | next t =>
    have ht : t.PadsInForm := h t rfl
    dsimp only [afterEvent]
    split
    · next u hu =>
      have hclosed := State.PadsInForm.closeBundle (runWork_leavesForm ht u hu)
      exact (leavesForm_next _).mpr (State.PadsInForm.tick ((State.beginSaves_padsInForm _).mpr hclosed))
    · exact leavesForm_fault _
    · exact leavesForm_refused _
  | fault e => exact leavesForm_fault e
  | refused e => exact leavesForm_refused e
theorem stepOn_leavesForm {s : State} (h : s.PadsInForm) (i : Instr) :
    LeavesForm (stepOn i s) := afterEvent_leavesForm (exec_leavesForm h i)
theorem step_leavesForm {s : State} (h : s.PadsInForm) : LeavesForm (step s) := by
  have hs : s.settle.PadsInForm := by simp [h]
  have hin : ∀ r, ({ s.settle with inputs := r } : State).PadsInForm := fun r => State.padsInForm_mk.mpr (State.padsInForm_iff.mp hs)
  dsimp only [step]
  split
  · exact afterEvent_leavesForm (execEmergencyRefresh_leavesForm hs _ _ _ _)
  · split
    · exact stepOn_leavesForm (hin _) _
    · exact (leavesForm_next _).mpr ((hin _).outside _).tick
    · split
      · exact (leavesForm_next _).mpr hs.tick
      · exact stepOn_leavesForm hs _
      · exact stepOn_leavesForm ((State.choose_padsInForm ..).mpr hs) _
/-- Settles O58, an invariant of every step: what an instruction or event leaves in form, function by function. -/
theorem scratchpadsStayInForm : Obligations.ScratchpadsStayInForm := fun _ _ h hs => step_leavesForm h _ hs

end Sys2Proof.Machine
